-- ==== Sys2Proof/Word.lean ====
section
/-! DEFINITION. The word types of the Dunion K6 (spec/00_scope.md R5, spec/11_encoding_and_opcode_map.md R240). -/
namespace Sys2Proof

/-- A scalar register, an address or a system register: 64 bits. -/
abbrev Word := BitVec 64

/-- The smallest addressable unit of memory. -/
abbrev Byte := BitVec 8

/-- A vector register: 512 bits (R344). -/
abbrev VWord := BitVec 512

/-- A mask register: 128 bits (R247). -/
abbrev MaskWord := BitVec 128

/-- A format entry of the table f0 to f31 (R221). -/
abbrev FmtWord := BitVec 32

/-- The signed value of the low `w` bits of `n`. -/
def sxInt (w n : Nat) : Int :=
  let m := n % 2 ^ w
  if m < 2 ^ (w - 1) then (m : Int) else (m : Int) - (2 ^ w : Nat)

/-- The `w`-bit two's complement image of an integer. -/
def wrapNat (w : Nat) (x : Int) : Nat := (x % ((2 ^ w : Nat) : Int)).toNat

/-- Sign extension of the low `w` bits of `n` to 64 bits. -/
def sxWord (w n : Nat) : Word := BitVec.ofInt 64 (sxInt w n)

/-- Field [lo + n - 1 : lo] of a number. -/
def bits (x lo n : Nat) : Nat := x / 2 ^ lo % 2 ^ n

/-- `x` with its field [lo + n - 1 : lo] replaced by the low `n` bits of `v`. -/
def setBits (x lo n v : Nat) : Nat :=
  x / 2 ^ (lo + n) * 2 ^ (lo + n) + v % 2 ^ n * 2 ^ lo + x % 2 ^ lo

/-- Bit `i` of a number. -/
def bit (x i : Nat) : Bool := x / 2 ^ i % 2 == 1

end Sys2Proof
end

