-- ==== Sys2Proof/Syntax.lean ====
section
/-! DEFINITION. Instruction words and the events of the device: one constructor of `Instr` for each row of
spec/opcode_table.json (spec/11_encoding_and_opcode_map.md R241 to R258; spec/95_what_each_step_holds.md). -/
namespace Sys2Proof

/-- The fields of a VX prefix parcel (R249). `op4` is `none` for the default fourth operand. -/
structure Vx where
  mask : Nat
  mz   : Bool
  rnd  : Nat
  op4  : Option Nat
  shp  : Bool
  sat  : Bool
  deriving DecidableEq, Repr

/-- A word without a prefix behaves as if it had one of 0xF000_0000 (R249). -/
def Vx.default : Vx := ⟨0, false, 0, none, false, false⟩

/-- The hint field (R243): a phase-relative stamp, or yield point, realign point and issue gap. -/
inductive Hint where
  | stamp (c : Nat)
  | plain (ypt rpt : Bool) (gap : Nat)
  deriving DecidableEq, Repr

/-- An operand (R244). An immediate keeps its width (16 in D and A, 20 in B, 24 for I24) and its bits;
a displacement is signed, in bytes, and in units of 64 bytes for a shape-record pointer. -/
inductive Operand where
  | none
  | scalar (r : Nat)
  | vec (r fmt : Nat)
  | pred (r cc : Nat)
  | mask (r cc : Nat)
  | acc (r fmt : Nat)
  | track (t port : Nat) (dn : Bool)
  | slot (g : Nat)
  | fmt (f : Nat)
  | chan (c : Nat)
  | sysreg (n : Nat)
  | la (base : Nat) (disp : Int)
  | bo (base : Nat) (disp : Int)
  | shape (base : Nat) (disp : Int)
  | imm (w v : Nat)
  deriving DecidableEq, Repr

/-- What every program instruction carries besides its opcode: the number of VX prefix parcels before its word,
the fields of the last of them, the guard (R242), the hint and the three operands. -/
structure Form where
  npfx : Nat
  vx   : Vx
  gs   : Bool
  gp   : Nat
  hint : Hint
  d    : Operand
  a    : Operand
  b    : Operand
  deriving DecidableEq, Repr

/-- Access sizes of loads (R255, R316). -/
inductive LdSize where
  | bs | bz | hs | hz | w | d
  deriving DecidableEq, Repr

/-- Access sizes of stores (R255, R316). -/
inductive StSize where
  | b | h | w | d
  deriving DecidableEq, Repr

/-- Ordering suffixes of atomics (R255). -/
inductive MemOrd where
  | rlx | acq | rel | ar
  deriving DecidableEq, Repr

/-- What a remote device asks of this one over the fabric (spec/20_host_fabric_bringup.md R450). -/
inductive FabOp where
  | read | write | atomic (f : Nat)
  deriving DecidableEq, Repr

/-- The instructions of the opcode map (R254, R255), each with its form, and the events of the device and of the
host. An event has no encoding. -/
inductive Instr where
  /-- ADD (R280). -/
  | add (f : Form)
  /-- ADDI (R280). -/
  | addi (f : Form)
  /-- SUB (R280). -/
  | sub (f : Form)
  /-- MUL (R280). -/
  | mul (f : Form)
  /-- MULH (R280). -/
  | mulh (f : Form)
  /-- MULHN (R280). -/
  | mulhn (f : Form)
  /-- DIV (R281). -/
  | div (f : Form)
  /-- DIVN (R281). -/
  | divn (f : Form)
  /-- REM (R281). -/
  | rem (f : Form)
  /-- REMN (R281). -/
  | remn (f : Form)
  /-- AND (R280). -/
  | and (f : Form)
  /-- OR (R280). -/
  | or (f : Form)
  /-- XOR (R280). -/
  | xor (f : Form)
  /-- ANDN (R280). -/
  | andn (f : Form)
  /-- SHL (R280). -/
  | shl (f : Form)
  /-- SHR (R280). -/
  | shr (f : Form)
  /-- SAR (R280). -/
  | sar (f : Form)
  /-- ROTL (R280). -/
  | rotl (f : Form)
  /-- CLZ (R280). -/
  | clz (f : Form)
  /-- CTZ (R280). -/
  | ctz (f : Form)
  /-- POPC (R280). -/
  | popc (f : Form)
  /-- MIN (R280). -/
  | min (f : Form)
  /-- MAX (R280). -/
  | max (f : Form)
  /-- MINN (R280). -/
  | minn (f : Form)
  /-- MAXN (R280). -/
  | maxn (f : Form)
  /-- BFX (R282). -/
  | bfx (f : Form)
  /-- BFI (R282). -/
  | bfi (f : Form)
  /-- SEXT (R282). -/
  | sext (f : Form)
  /-- MOVI (R283). -/
  | movi (f : Form)
  /-- MOV (R280). -/
  | mov (f : Form)
  /-- LEA (R284). -/
  | lea (f : Form)
  /-- SEL (R284). -/
  | sel (f : Form)
  /-- CMP (R286). -/
  | cmp (f : Form)
  /-- CMPI (R286). -/
  | cmpi (f : Form)
  /-- PSET (R286). -/
  | pset (f : Form)
  /-- BR (R287). -/
  | br (f : Form)
  /-- JMP (R287). -/
  | jmp (f : Form)
  /-- CALL (R287). -/
  | call (f : Form)
  /-- CALLR (R287). -/
  | callr (f : Form)
  /-- RET (R287). -/
  | ret (f : Form)
  /-- NOP (R288). -/
  | nop (f : Form)
  /-- EXIT (R288). -/
  | exit (f : Form)
  /-- LOOP (R289). -/
  | loop (f : Form)
  /-- LOOPI (R289). -/
  | loopi (f : Form)
  /-- LBRK (R291). -/
  | lbrk (f : Form)
  /-- REALIGN (R190). -/
  | realign (f : Form)
  /-- START (R295). -/
  | start (f : Form)
  /-- HWAIT (R295). -/
  | hwait (f : Form)
  /-- DONE (R296). -/
  | done (f : Form)
  /-- DONE_J (R296). -/
  | doneJ (f : Form)
  /-- NEXT (R296). -/
  | next (f : Form)
  /-- FORK (R297). -/
  | fork (f : Form)
  /-- RDV (R298). -/
  | rdv (f : Form)
  /-- GSET (R299). -/
  | gset (f : Form)
  /-- SPAWN (R301). -/
  | spawn (f : Form)
  /-- JOIN (R301). -/
  | join (f : Form)
  /-- LAUNCH (R302). -/
  | launch (f : Form)
  /-- YIELD (R303). -/
  | yield (f : Form)
  /-- SEND (R305). -/
  | send (f : Form)
  /-- RECV (R306). -/
  | recv (f : Form)
  /-- RPROBE (R306). -/
  | rprobe (f : Form)
  /-- XMIT (R308). -/
  | xmit (f : Form)
  /-- XSEL (R308). -/
  | xsel (f : Form)
  /-- BELL (R309). -/
  | bell (f : Form)
  /-- ARRIVE (R312). -/
  | arrive (f : Form)
  /-- BWAIT (R313). -/
  | bwait (f : Form)
  /-- BINIT (R311). -/
  | binit (f : Form)
  /-- LD (R317). -/
  | ld (sz : LdSize) (f : Form)
  /-- ST (R318). -/
  | st (sz : StSize) (f : Form)
  /-- LDL (R317). -/
  | ldl (sz : LdSize) (f : Form)
  /-- STL (R318). -/
  | stl (sz : StSize) (f : Form)
  /-- LDA (R319). -/
  | lda (dbl : Bool) (f : Form)
  /-- STRL (R319). -/
  | strl (dbl : Bool) (f : Form)
  /-- FENCE (R147). -/
  | fence (f : Form)
  /-- LBSYNC (R41). -/
  | lbsync (f : Form)
  /-- PREF (R323). -/
  | pref (f : Form)
  /-- C1INV (R324). -/
  | c1inv (f : Form)
  /-- JRD (R325). -/
  | jrd (f : Form)
  /-- ATOM_SWAP (R321). -/
  | atomSwap (dbl : Bool) (ord : MemOrd) (f : Form)
  /-- ATOM_ADD (R321). -/
  | atomAdd (dbl : Bool) (ord : MemOrd) (f : Form)
  /-- ATOM_AND (R321). -/
  | atomAnd (dbl : Bool) (ord : MemOrd) (f : Form)
  /-- ATOM_OR (R321). -/
  | atomOr (dbl : Bool) (ord : MemOrd) (f : Form)
  /-- ATOM_XOR (R321). -/
  | atomXor (dbl : Bool) (ord : MemOrd) (f : Form)
  /-- ATOM_MIN (R321). -/
  | atomMin (dbl : Bool) (ord : MemOrd) (f : Form)
  /-- ATOM_MAX (R321). -/
  | atomMax (dbl : Bool) (ord : MemOrd) (f : Form)
  /-- ATOM_MINN (R321). -/
  | atomMinn (dbl : Bool) (ord : MemOrd) (f : Form)
  /-- ATOM_MAXN (R321). -/
  | atomMaxn (dbl : Bool) (ord : MemOrd) (f : Form)
  /-- ATOM_LOAD (R321). -/
  | atomLoad (dbl : Bool) (ord : MemOrd) (f : Form)
  /-- ATOM_STORE (R321). -/
  | atomStore (dbl : Bool) (ord : MemOrd) (f : Form)
  /-- CAS (R321). -/
  | cas (dbl : Bool) (ord : MemOrd) (f : Form)
  /-- TOWN (R330). -/
  | town (f : Form)
  /-- TSEEK (R331). -/
  | tseek (f : Form)
  /-- TREW (R331). -/
  | trew (f : Form)
  /-- TRD (R332). -/
  | trd (f : Form)
  /-- TRDS (R332). -/
  | trds (f : Form)
  /-- TWR (R332). -/
  | twr (f : Form)
  /-- TWRS (R332). -/
  | twrs (f : Form)
  /-- THEAD (R333). -/
  | thead (f : Form)
  /-- TSYNC (R333). -/
  | tsync (f : Form)
  /-- TRDV (R334). -/
  | trdv (f : Form)
  /-- TWRV (R334). -/
  | twrv (f : Form)
  /-- ACOPY (R338). -/
  | acopy (f : Form)
  /-- ACOPYT (R339). -/
  | acopyt (f : Form)
  /-- SWINIT (R340). -/
  | swinit (f : Form)
  /-- SWWAIT (R341). -/
  | swwait (f : Form)
  /-- SWREAD (R341). -/
  | swread (f : Form)
  /-- CBSET (R342). -/
  | cbset (f : Form)
  /-- CBWAIT (R342). -/
  | cbwait (f : Form)
  /-- VADD (R349). -/
  | vadd (f : Form)
  /-- VSUB (R349). -/
  | vsub (f : Form)
  /-- VMUL (R349). -/
  | vmul (f : Form)
  /-- VFMA (R349). -/
  | vfma (f : Form)
  /-- VFMS (R349). -/
  | vfms (f : Form)
  /-- VFNMA (R349). -/
  | vfnma (f : Form)
  /-- VMIN (R349). -/
  | vmin (f : Form)
  /-- VMAX (R349). -/
  | vmax (f : Form)
  /-- VABS (R349). -/
  | vabs (f : Form)
  /-- VNEG (R349). -/
  | vneg (f : Form)
  /-- VAND (R349). -/
  | vand (f : Form)
  /-- VOR (R349). -/
  | vor (f : Form)
  /-- VXOR (R349). -/
  | vxor (f : Form)
  /-- VSHL (R349). -/
  | vshl (f : Form)
  /-- VSHR (R349). -/
  | vshr (f : Form)
  /-- VSAR (R349). -/
  | vsar (f : Form)
  /-- VCMP (R350). -/
  | vcmp (f : Form)
  /-- VSEL (R351). -/
  | vsel (f : Form)
  /-- VDOT (R351). -/
  | vdot (f : Form)
  /-- VLD (R353). -/
  | vld (f : Form)
  /-- VST (R353). -/
  | vst (f : Form)
  /-- VGATH (R353). -/
  | vgath (f : Form)
  /-- VSCAT (R353). -/
  | vscat (f : Form)
  /-- VBCAST (R355). -/
  | vbcast (f : Form)
  /-- VPERM (R355). -/
  | vperm (f : Form)
  /-- VCVT (R356). -/
  | vcvt (f : Form)
  /-- VCMPR (R357). -/
  | vcmpr (f : Form)
  /-- VEXPD (R357). -/
  | vexpd (f : Form)
  /-- VRED (R358). -/
  | vred (f : Form)
  /-- VSCAN (R358). -/
  | vscan (f : Form)
  /-- VMOVS (R355). -/
  | vmovs (f : Form)
  /-- VQUANT (R360). -/
  | vquant (f : Form)
  /-- VDEQ (R361). -/
  | vdeq (f : Form)
  /-- VSPLT (R355). -/
  | vsplt (f : Form)
  /-- VRCP (R363). -/
  | vrcp (f : Form)
  /-- VRSQ (R363). -/
  | vrsq (f : Form)
  /-- VEXP2 (R363). -/
  | vexp2 (f : Form)
  /-- VLOG2 (R363). -/
  | vlog2 (f : Form)
  /-- VTANH (R363). -/
  | vtanh (f : Form)
  /-- VSIGM (R363). -/
  | vsigm (f : Form)
  /-- VHIST (R364). -/
  | vhist (f : Form)
  /-- VHMRG (R364). -/
  | vhmrg (f : Form)
  /-- VSORT (R365). -/
  | vsort (f : Form)
  /-- VSRCH (R366). -/
  | vsrch (f : Form)
  /-- VCLASS (R366). -/
  | vclass (f : Form)
  /-- MGEO (R372). -/
  | mgeo (f : Form)
  /-- MMA (R374). -/
  | mma (f : Form)
  /-- MACZ (R377). -/
  | macz (f : Form)
  /-- MACLD (R377). -/
  | macld (f : Form)
  /-- MACST (R377). -/
  | macst (f : Form)
  /-- MACCV (R377). -/
  | maccv (f : Form)
  /-- MCHK (R378). -/
  | mchk (f : Form)
  /-- EWAIT (R380). -/
  | ewait (f : Form)
  /-- EGUARD (R193). -/
  | eguard (f : Form)
  /-- ELOOP (R381). -/
  | eloop (f : Form)
  /-- EJMP (R381). -/
  | ejmp (f : Form)
  /-- EEND (R380). -/
  | eend (f : Form)
  /-- KVAPP (R385). -/
  | kvapp (f : Form)
  /-- KVMAP (R386). -/
  | kvmap (f : Form)
  /-- KVREL (R387). -/
  | kvrel (f : Form)
  /-- PXINS_INSERT (R388). -/
  | pxinsInsert (f : Form)
  /-- PXINS_REMOVE (R388). -/
  | pxinsRemove (f : Form)
  /-- PXGET (R388). -/
  | pxget (f : Form)
  /-- ATTN (R389). -/
  | attn (f : Form)
  /-- AMRG (R390). -/
  | amrg (f : Form)
  /-- PARK (R391). -/
  | park (f : Form)
  /-- WAKE (R392). -/
  | wake (f : Form)
  /-- HEAT (R393). -/
  | heat (f : Form)
  /-- MIGR (R393). -/
  | migr (f : Form)
  /-- FMTSET (R396). -/
  | fmtset (f : Form)
  /-- FMTGET (R397). -/
  | fmtget (f : Form)
  /-- FMTP (R251). -/
  | fmtp (f : Form)
  /-- TRAP (R403). -/
  | trap (f : Form)
  /-- TRET (R404). -/
  | tret (f : Form)
  /-- SVC (R405). -/
  | svc (f : Form)
  /-- MFSR (R399). -/
  | mfsr (f : Form)
  /-- MTSR (R399). -/
  | mtsr (f : Form)
  /-- PWREQ (R406). -/
  | pwreq (f : Form)
  /-- TOKQ (R407). -/
  | tokq (f : Form)
  /-- TOKRES (R408). -/
  | tokres (f : Form)
  /-- TIME (R409). -/
  | time (f : Form)
  /-- PERF (R410). -/
  | perf (f : Form)
  /-- C2OP_XLAT (R411). -/
  | c2opXlat (f : Form)
  /-- C2OP_WBINV (R411). -/
  | c2opWbinv (f : Form)
  /-- C2OP_WB (R411). -/
  | c2opWb (f : Form)
  /-- C2OP_ICINV (R411). -/
  | c2opIcinv (f : Form)
  /-- C2OP_ASIDALL (R411). -/
  | c2opAsidall (f : Form)
  /-- BREAK (R403). -/
  | brk (f : Form)
  /-- REALIGN_TIMEOUT (R190); its operands are those of `Event.realignTimeout`. -/
  | realignTimeout
  /-- BWAIT_TIMEOUT (R313); its operands are those of `Event.bwaitTimeout`. -/
  | bwaitTimeout
  /-- TRACK_MOTION_END (R50); its operands are those of `Event.trackMotionEnd`. -/
  | trackMotionEnd
  /-- TRACK_ACCESS_START (R57); its operands are those of `Event.trackAccessStart`. -/
  | trackAccessStart
  /-- TRACK_REALIGNMENT_DONE (R58); its operands are those of `Event.trackRealignmentDone`. -/
  | trackRealignmentDone
  /-- TRACK_ACCESS_COMPLETE (R470); its operands are those of `Event.trackAccessComplete`. -/
  | trackAccessComplete
  /-- SHIFT_WINDOW_CLEAR (R59); its operands are those of `Event.shiftWindowClear`. -/
  | shiftWindowClear
  /-- MATRIX_ARBITER_START (R220); its operands are those of `Event.matrixArbiterStart`. -/
  | matrixArbiterStart
  /-- MMA_OPERANDS_CONSUMED (R178); its operands are those of `Event.mmaOperandsConsumed`. -/
  | mmaOperandsConsumed
  /-- ENGINE_OP_COMPLETE (R169); its operands are those of `Event.engineOpComplete`. -/
  | engineOpComplete
  /-- SYNC_WORD_ARRIVAL (R173); its operands are those of `Event.syncWordArrival`. -/
  | syncWordArrival
  /-- PITCH_MAP_REQUEST (R105); its operands are those of `Event.pitchMapRequest`. -/
  | pitchMapRequest
  /-- ATTN_CONTRIBUTOR (R111); its operands are those of `Event.attnContributor`. -/
  | attnContributor
  /-- WEIGHBRIDGE_MERGE (R114); its operands are those of `Event.weighbridgeMerge`. -/
  | weighbridgeMerge
  /-- ASYNC_TRAP_ENTRY (R420); its operands are those of `Event.asyncTrapEntry`. -/
  | asyncTrapEntry
  /-- SUPERVISOR_EVENT_ENTRY (R424); its operands are those of `Event.supervisorEventEntry`. -/
  | supervisorEventEntry
  /-- C2_REQUEST (R72); its operands are those of `Event.c2Request`. -/
  | c2Request
  /-- C2_FILL_ARRIVAL (R73); its operands are those of `Event.c2FillArrival`. -/
  | c2FillArrival
  /-- LOAD_RESPONSE (R317); its operands are those of `Event.loadResponse`. -/
  | loadResponse
  /-- STORE_ACKNOWLEDGE (R148); its operands are those of `Event.storeAcknowledge`. -/
  | storeAcknowledge
  /-- STORE_REFUSAL (R420); its operands are those of `Event.storeRefusal`. -/
  | storeRefusal
  /-- PIN_RELEASE (R87); its operands are those of `Event.pinRelease`. -/
  | pinRelease
  /-- MESH_WINDOW_ARRIVAL (R14); its operands are those of `Event.meshWindowArrival`. -/
  | meshWindowArrival
  /-- EXCHANGE_ARRIVAL (R200); its operands are those of `Event.exchangeArrival`. -/
  | exchangeArrival
  /-- MESSAGE_ARRIVAL (R203); its operands are those of `Event.messageArrival`. -/
  | messageArrival
  /-- REMOTE_FABRIC_REQUEST (R451); its operands are those of `Event.remoteFabricRequest`. -/
  | remoteFabricRequest
  /-- BACK_INVALIDATE (R450); its operands are those of `Event.backInvalidate`. -/
  | backInvalidate
  /-- MIGRATION_COPY_DONE (R124); its operands are those of `Event.migrationCopyDone`. -/
  | migrationCopyDone
  /-- MIGRATION_ABANDON (R126); its operands are those of `Event.migrationAbandon`. -/
  | migrationAbandon
  /-- HEAT_HALVING (R91); its operands are those of `Event.heatHalving`. -/
  | heatHalving
  /-- PARK_AGE_TICK (R130); its operands are those of `Event.parkAgeTick`. -/
  | parkAgeTick
  /-- PARK_T1_EXPIRY (R132); its operands are those of `Event.parkT1Expiry`. -/
  | parkT1Expiry
  /-- PARK_T2_EXPIRY (R132); its operands are those of `Event.parkT2Expiry`. -/
  | parkT2Expiry
  /-- PARK_DEMOTION_DONE (R133); its operands are those of `Event.parkDemotionDone`. -/
  | parkDemotionDone
  /-- PARK_PROMOTION_DONE (R135); its operands are those of `Event.parkPromotionDone`. -/
  | parkPromotionDone
  /-- PARK_PUSH_RETRY (R468); its operands are those of `Event.parkPushRetry`. -/
  | parkPushRetry
  /-- PROMOTION_RETRY (R134); its operands are those of `Event.promotionRetry`. -/
  | promotionRetry
  /-- PARK_POOL_RETRY (R132); its operands are those of `Event.parkPoolRetry`. -/
  | parkPoolRetry
  /-- ROW_RETIREMENT (R136); its operands are those of `Event.rowRetirement`. -/
  | rowRetirement
  /-- TOKEN_GRANT (R437); its operands are those of `Event.tokenGrant`. -/
  | tokenGrant
  /-- STALL_RATIO_SAMPLE (R442); its operands are those of `Event.stallRatioSample`. -/
  | stallRatioSample
  /-- VOLTAGE_SLEW_DONE (R442); its operands are those of `Event.voltageSlewDone`. -/
  | voltageSlewDone
  /-- FREQUENCY_SWITCH_DONE (R442); its operands are those of `Event.frequencySwitchDone`. -/
  | frequencySwitchDone
  /-- POINT_HOLD_EXPIRY (R442); its operands are those of `Event.pointHoldExpiry`. -/
  | pointHoldExpiry
  /-- THERMAL_SAMPLE (R457); its operands are those of `Event.thermalSample`. -/
  | thermalSample
  /-- CAPMSG (R443); its operands are those of `Event.capmsg`. -/
  | capmsg
  /-- CAP_LEASE_EXPIRY (R443); its operands are those of `Event.capLeaseExpiry`. -/
  | capLeaseExpiry
  /-- PTP_CORRECTION (R452); its operands are those of `Event.ptpCorrection`. -/
  | ptpCorrection
  /-- TT_PERIODIC_LAUNCH (R208); its operands are those of `Event.ttPeriodicLaunch`. -/
  | ttPeriodicLaunch
  /-- TT_QUEUE_DRAIN (R208); its operands are those of `Event.ttQueueDrain`. -/
  | ttQueueDrain
  /-- TT_QUIESCE (R208); its operands are those of `Event.ttQuiesce`. -/
  | ttQuiesce
  /-- TT_SLOT_END (R208); its operands are those of `Event.ttSlotEnd`. -/
  | ttSlotEnd
  /-- TT_DEFERRED_FIRE (R209); its operands are those of `Event.ttDeferredFire`. -/
  | ttDeferredFire
  /-- LAUNCH_QUEUE_POP (R213); its operands are those of `Event.launchQueuePop`. -/
  | launchQueuePop
  /-- HELPER_POP (R186); its operands are those of `Event.helperPop`. -/
  | helperPop
  /-- CON_UNIT_START (R215); its operands are those of `Event.conUnitStart`. -/
  | conUnitStart
  /-- GANG_PLACE (R218); its operands are those of `Event.gangPlace`. -/
  | gangPlace
  /-- BELL_RELEASE (R196); its operands are those of `Event.bellRelease`. -/
  | bellRelease
  /-- BELL_TIMEOUT (R196); its operands are those of `Event.bellTimeout`. -/
  | bellTimeout
  /-- EXCHANGE_PHASE_END (R197); its operands are those of `Event.exchangePhaseEnd`. -/
  | exchangePhaseEnd
  /-- PREEMPT_REQUEST (R425); its operands are those of `Event.preemptRequest`. -/
  | preemptRequest
  /-- FORCED_SAVE (R426); its operands are those of `Event.forcedSave`. -/
  | forcedSave
  /-- CONTEXT_RESTORE (R430); its operands are those of `Event.contextRestore`. -/
  | contextRestore
  /-- DEBUG_STOP (R432); its operands are those of `Event.debugStop`. -/
  | debugStop
  /-- DEBUG_RESUME (R432); its operands are those of `Event.debugResume`. -/
  | debugResume
  /-- DEBUG_STOP_ENABLE (R403); its operands are those of `Event.debugStopEnable`. -/
  | debugStopEnable
  /-- DEBUG_SET_STEP (R431); its operands are those of `Event.debugSetStep`. -/
  | debugSetStep
  /-- VFRESET (R433); its operands are those of `Event.vfreset`. -/
  | vfreset
  /-- COLD_RESET (R453); its operands are those of `Event.coldReset`. -/
  | coldReset
  /-- FWLOAD (R453); its operands are those of `Event.fwload`. -/
  | fwload
  /-- CHECKPOINT_START (R137); its operands are those of `Event.checkpointStart`. -/
  | checkpointStart
  /-- CHECKPOINT_DONE (R138); its operands are those of `Event.checkpointDone`. -/
  | checkpointDone
  /-- CHECKPOINT_RESTORE (R139); its operands are those of `Event.checkpointRestore`. -/
  | checkpointRestore
  /-- LQPUSH (R214); its operands are those of `Event.lqpush`. -/
  | lqpush
  /-- SVCDB (R449); its operands are those of `Event.svcdb`. -/
  | svcdb
  /-- TRKCLR (R445); its operands are those of `Event.trkclr`. -/
  | trkclr
  /-- STLSYNC (R447); its operands are those of `Event.stlsync`. -/
  | stlsync
  /-- HOST_STALL_WRITE (R447); its operands are those of `Event.hostStallWrite`. -/
  | hostStallWrite
  /-- HOST_STALL_READ (R447); its operands are those of `Event.hostStallRead`. -/
  | hostStallRead
  /-- COUNTER_CLEAR (R448); its operands are those of `Event.counterClear`. -/
  | counterClear
  /-- ERRCNT_CLEAR (R455); its operands are those of `Event.errcntClear`. -/
  | errcntClear
  /-- HOST_REGISTER_WRITE (R446); its operands are those of `Event.hostRegisterWrite`. -/
  | hostRegisterWrite
  /-- SYNCHRONISATION_LOST (R452); its operands are those of `Event.synchronisationLost`. -/
  | synchronisationLost
  /-- HOST_MEMORY_ACCESS (R444); its operands are those of `Event.hostMemoryAccess`. -/
  | hostMemoryAccess
  /-- SPDM_REQUEST (R454); its operands are those of `Event.spdmRequest`. -/
  | spdmRequest
  /-- CHECKPOINT_RESTORE_DONE (R139); its operands are those of `Event.checkpointRestoreDone`. -/
  | checkpointRestoreDone
  /-- FUNCTION_RESET_DONE (R433); its operands are those of `Event.functionResetDone`. -/
  | functionResetDone
  /-- BRING_UP_COMPLETE (R454); its operands are those of `Event.bringUpComplete`. -/
  | bringUpComplete
  deriving DecidableEq, Repr

/-- An event of the device or of the host with the names of the objects it acts on. The event at hand stands in the
state, as the acting agent does. -/
inductive Event where
  | realignTimeout (core ctx : Nat)
  | bwaitTimeout (core ctx : Nat)
  | trackMotionEnd (core track : Nat)
  | trackAccessStart (core track : Nat)
  | trackRealignmentDone (core track : Nat)
  | trackAccessComplete (core track : Nat)
  | shiftWindowClear
  | matrixArbiterStart (tile : Nat)
  | mmaOperandsConsumed (core : Nat)
  | engineOpComplete (id : Nat)
  | syncWordArrival (id row : Nat)
  | pitchMapRequest (id : Nat)
  | attnContributor (id slice : Nat)
  | weighbridgeMerge (id slice : Nat)
  | asyncTrapEntry (core ctx : Nat)
  | supervisorEventEntry (core : Nat)
  | c2Request (id : Nat)
  | c2FillArrival (id : Nat)
  | loadResponse (id : Nat)
  | storeAcknowledge (id : Nat)
  | storeRefusal (id : Nat)
  | pinRelease (id : Nat)
  | meshWindowArrival (id : Nat)
  | exchangeArrival (id : Nat)
  | messageArrival (id : Nat)
  | remoteFabricRequest (dev pa size : Nat) (op : FabOp) (data : Nat)
  | backInvalidate (pa : Nat)
  | migrationCopyDone (id : Nat)
  | migrationAbandon (id : Nat)
  | heatHalving
  | parkAgeTick
  | parkT1Expiry (id : Nat)
  | parkT2Expiry (id : Nat)
  | parkDemotionDone (id : Nat)
  | parkPromotionDone (id : Nat)
  | parkPushRetry (id : Nat)
  | promotionRetry (id : Nat)
  | parkPoolRetry (id : Nat)
  | rowRetirement (pa : Nat)
  | tokenGrant
  | stallRatioSample (choices : List (Nat × Nat))
  | voltageSlewDone (island : Nat)
  | frequencySwitchDone (island : Nat)
  | pointHoldExpiry (island : Nat)
  | thermalSample (temps : List Nat)
  | capmsg (n watts lease : Nat)
  | capLeaseExpiry
  | ptpCorrection (ns : Int)
  | ttPeriodicLaunch (slot : Nat)
  | ttQueueDrain (slot : Nat)
  | ttQuiesce (slot : Nat)
  | ttSlotEnd (slot : Nat)
  | ttDeferredFire (slot : Nat)
  | launchQueuePop (queue : Nat)
  | helperPop (core ctx : Nat)
  | conUnitStart (launch unit : Nat)
  | gangPlace (gang : Nat)
  | bellRelease (domain : Nat)
  | bellTimeout (domain : Nat)
  | exchangePhaseEnd (domain : Nat)
  | preemptRequest (vf core ctx deadline area : Nat)
  | forcedSave (core ctx : Nat)
  | contextRestore (vf area : Nat) (phys : Bool)
  | debugStop (vf core : Nat)
  | debugResume (vf core : Nat)
  | debugStopEnable (vf core : Nat) (on : Bool)
  | debugSetStep (vf core ctx : Nat) (on : Bool)
  | vfreset (vf : Nat)
  | coldReset
  | fwload (pa : Nat)
  | checkpointStart
  | checkpointDone
  | checkpointRestore
  | lqpush (vf : Nat) (entry : Nat)
  | svcdb (vf idx : Nat)
  | trkclr (core track : Nat)
  | stlsync (vf : Nat)
  | hostStallWrite (vf off : Nat) (data : List Byte)
  | hostStallRead (vf off n : Nat)
  | counterClear (vf which : Nat)
  | errcntClear (reg value : Nat)
  | hostRegisterWrite (off value : Nat)
  | synchronisationLost
  | hostMemoryAccess (pa size : Nat) (write : Option Nat)
  | spdmRequest (code : Nat)
  | checkpointRestoreDone
  | functionResetDone (vf : Nat)
  | bringUpComplete
  deriving DecidableEq, Repr

/-- The row of the opcode table that an event is. -/
def Event.instr : Event → Instr
  | .realignTimeout _ _ => .realignTimeout
  | .bwaitTimeout _ _ => .bwaitTimeout
  | .trackMotionEnd _ _ => .trackMotionEnd
  | .trackAccessStart _ _ => .trackAccessStart
  | .trackRealignmentDone _ _ => .trackRealignmentDone
  | .trackAccessComplete _ _ => .trackAccessComplete
  | .shiftWindowClear => .shiftWindowClear
  | .matrixArbiterStart _ => .matrixArbiterStart
  | .mmaOperandsConsumed _ => .mmaOperandsConsumed
  | .engineOpComplete _ => .engineOpComplete
  | .syncWordArrival _ _ => .syncWordArrival
  | .pitchMapRequest _ => .pitchMapRequest
  | .attnContributor _ _ => .attnContributor
  | .weighbridgeMerge _ _ => .weighbridgeMerge
  | .asyncTrapEntry _ _ => .asyncTrapEntry
  | .supervisorEventEntry _ => .supervisorEventEntry
  | .c2Request _ => .c2Request
  | .c2FillArrival _ => .c2FillArrival
  | .loadResponse _ => .loadResponse
  | .storeAcknowledge _ => .storeAcknowledge
  | .storeRefusal _ => .storeRefusal
  | .pinRelease _ => .pinRelease
  | .meshWindowArrival _ => .meshWindowArrival
  | .exchangeArrival _ => .exchangeArrival
  | .messageArrival _ => .messageArrival
  | .remoteFabricRequest _ _ _ _ _ => .remoteFabricRequest
  | .backInvalidate _ => .backInvalidate
  | .migrationCopyDone _ => .migrationCopyDone
  | .migrationAbandon _ => .migrationAbandon
  | .heatHalving => .heatHalving
  | .parkAgeTick => .parkAgeTick
  | .parkT1Expiry _ => .parkT1Expiry
  | .parkT2Expiry _ => .parkT2Expiry
  | .parkDemotionDone _ => .parkDemotionDone
  | .parkPromotionDone _ => .parkPromotionDone
  | .parkPushRetry _ => .parkPushRetry
  | .promotionRetry _ => .promotionRetry
  | .parkPoolRetry _ => .parkPoolRetry
  | .rowRetirement _ => .rowRetirement
  | .tokenGrant => .tokenGrant
  | .stallRatioSample _ => .stallRatioSample
  | .voltageSlewDone _ => .voltageSlewDone
  | .frequencySwitchDone _ => .frequencySwitchDone
  | .pointHoldExpiry _ => .pointHoldExpiry
  | .thermalSample _ => .thermalSample
  | .capmsg _ _ _ => .capmsg
  | .capLeaseExpiry => .capLeaseExpiry
  | .ptpCorrection _ => .ptpCorrection
  | .ttPeriodicLaunch _ => .ttPeriodicLaunch
  | .ttQueueDrain _ => .ttQueueDrain
  | .ttQuiesce _ => .ttQuiesce
  | .ttSlotEnd _ => .ttSlotEnd
  | .ttDeferredFire _ => .ttDeferredFire
  | .launchQueuePop _ => .launchQueuePop
  | .helperPop _ _ => .helperPop
  | .conUnitStart _ _ => .conUnitStart
  | .gangPlace _ => .gangPlace
  | .bellRelease _ => .bellRelease
  | .bellTimeout _ => .bellTimeout
  | .exchangePhaseEnd _ => .exchangePhaseEnd
  | .preemptRequest _ _ _ _ _ => .preemptRequest
  | .forcedSave _ _ => .forcedSave
  | .contextRestore _ _ _ => .contextRestore
  | .debugStop _ _ => .debugStop
  | .debugResume _ _ => .debugResume
  | .debugStopEnable _ _ _ => .debugStopEnable
  | .debugSetStep _ _ _ _ => .debugSetStep
  | .vfreset _ => .vfreset
  | .coldReset => .coldReset
  | .fwload _ => .fwload
  | .checkpointStart => .checkpointStart
  | .checkpointDone => .checkpointDone
  | .checkpointRestore => .checkpointRestore
  | .lqpush _ _ => .lqpush
  | .svcdb _ _ => .svcdb
  | .trkclr _ _ => .trkclr
  | .stlsync _ => .stlsync
  | .hostStallWrite _ _ _ => .hostStallWrite
  | .hostStallRead _ _ _ => .hostStallRead
  | .counterClear _ _ => .counterClear
  | .errcntClear _ _ => .errcntClear
  | .hostRegisterWrite _ _ => .hostRegisterWrite
  | .synchronisationLost => .synchronisationLost
  | .hostMemoryAccess _ _ _ => .hostMemoryAccess
  | .spdmRequest _ => .spdmRequest
  | .checkpointRestoreDone => .checkpointRestoreDone
  | .functionResetDone _ => .functionResetDone
  | .bringUpComplete => .bringUpComplete

end Sys2Proof
end

