-- ==== Sys2Proof/Machine/OpTable.lean ====
section
/-! DEFINITION. The opcode map and the operand kinds that each form admits (spec/11_encoding_and_opcode_map.md R244,
R246, R254, R255, and the form tables R280, R285, R289, R294, R300, R304, R307, R311, R315, R320, R322, R328, R336,
R348, R352, R362, R371, R379, R382, R395). -/
namespace Sys2Proof

/-- Operand kinds as a form table names them. `predCC` and `maskCC` carry a condition code, `i24` is an I24 immediate. -/
inductive Kind where
  | none | scalar | vec | pred | predCC | mask | maskCC | acc | track | slot | fmt | chan | sysreg | la | bo | shape
  | imm | i24
  deriving DecidableEq, Repr

/-- The kinds that a form admits in D, A and B. -/
structure Sig where
  d : List Kind
  a : List Kind
  b : List Kind
  deriving DecidableEq, Repr

/-- The system register numbers that R402 defines. -/
def sysRegDefined (n : Nat) : Bool :=
  n ≤ 0x00B || (0x010 ≤ n && n ≤ 0x019) || (0x020 ≤ n && n ≤ 0x02C) || (0x030 ≤ n && n ≤ 0x037) ||
  (0x040 ≤ n && n ≤ 0x043) || (0x050 ≤ n && n ≤ 0x05F) || (0x060 ≤ n && n ≤ 0x067)

/-- Whether a kind admits an operand (R246): a predicate or mask without a condition code has the payload bits of
one zero, and the system register must be defined. -/
def Kind.admits : Kind → Operand → Bool
  | .none, .none => true
  | .scalar, .scalar _ => true
  | .vec, .vec _ _ => true
  | .pred, .pred _ cc => cc == 0
  | .predCC, .pred _ _ => true
  | .mask, .mask _ cc => cc == 0
  | .maskCC, .mask _ _ => true
  | .acc, .acc _ _ => true
  | .track, .track _ _ _ => true
  | .slot, .slot _ => true
  | .fmt, .fmt _ => true
  | .chan, .chan _ => true
  | .sysreg, .sysreg n => sysRegDefined n
  | .la, .la _ _ => true
  | .bo, .bo _ _ => true
  | .shape, .shape _ _ => true
  | .imm, .imm w _ => w != 24
  | .i24, .imm w _ => w == 24
  | _, _ => false

/-- Whether B of a form is a 24-bit immediate without a kind (R245). -/
def Sig.isI24 (g : Sig) : Bool := g.b == [.i24]

/-! The operand signatures. Letters: n none, s scalar, v vector, p predicate, pc with condition, m mask, mc with
condition, a accumulator, t track, g guard slot, f format entry, c channel, r system register, l LA offset,
b base+offset, h shape-record pointer, i short immediate. -/
def sig_s_s_si : Sig := ⟨[.scalar], [.scalar], [.scalar, .imm]⟩
def sig_s_s_i24 : Sig := ⟨[.scalar], [.scalar], [.i24]⟩
def sig_s_s_n : Sig := ⟨[.scalar], [.scalar], [.none]⟩
def sig_s_ni_i24 : Sig := ⟨[.scalar], [.none, .imm], [.i24]⟩
def sig_s_bl_ns : Sig := ⟨[.scalar], [.bo, .la], [.none, .scalar]⟩
def sig_s_p_si : Sig := ⟨[.scalar], [.pred], [.scalar, .imm]⟩
def sig_pc_s_si : Sig := ⟨[.predCC], [.scalar], [.scalar, .imm]⟩
def sig_pc_s_i24 : Sig := ⟨[.predCC], [.scalar], [.i24]⟩
def sig_p_ps_in : Sig := ⟨[.pred], [.pred, .scalar], [.imm, .none]⟩
def sig_n_n_i24 : Sig := ⟨[.none], [.none], [.i24]⟩
def sig_n_s_i24 : Sig := ⟨[.none], [.scalar], [.i24]⟩
def sig_n_s_ni : Sig := ⟨[.none], [.scalar], [.none, .imm]⟩
def sig_n_ns_n : Sig := ⟨[.none], [.none, .scalar], [.none]⟩
def sig_n_n_n : Sig := ⟨[.none], [.none], [.none]⟩
def sig_i_s_n : Sig := ⟨[.imm], [.scalar], [.none]⟩
def sig_i_n_i24 : Sig := ⟨[.imm], [.none], [.i24]⟩
def sig_n_i_n : Sig := ⟨[.none], [.imm], [.none]⟩
def sig_s_s_s : Sig := ⟨[.scalar], [.scalar], [.scalar]⟩
def sig_s_si_n : Sig := ⟨[.scalar], [.scalar, .imm], [.none]⟩
def sig_n_ln_ln : Sig := ⟨[.none], [.la, .none], [.la, .none]⟩
def sig_s_n_n : Sig := ⟨[.scalar], [.none], [.none]⟩
def sig_g_si_n : Sig := ⟨[.slot], [.scalar, .imm], [.none]⟩
def sig_s_b_si : Sig := ⟨[.scalar], [.bo], [.scalar, .imm]⟩
def sig_s_b_n : Sig := ⟨[.scalar], [.bo], [.none]⟩
def sig_s_b_nsi : Sig := ⟨[.scalar], [.bo], [.none, .scalar, .imm]⟩
def sig_n_ni_n : Sig := ⟨[.none], [.none, .imm], [.none]⟩
def sig_c_s_l : Sig := ⟨[.chan], [.scalar], [.la]⟩
def sig_s_c_l : Sig := ⟨[.scalar], [.chan], [.la]⟩
def sig_s_c_n : Sig := ⟨[.scalar], [.chan], [.none]⟩
def sig_ln_sv_n : Sig := ⟨[.la, .none], [.scalar, .vec], [.none]⟩
def sig_sv_n_n : Sig := ⟨[.scalar, .vec], [.none], [.none]⟩
def sig_s_i_n : Sig := ⟨[.scalar], [.imm], [.none]⟩
def sig_s_l_si : Sig := ⟨[.scalar], [.la], [.scalar, .imm]⟩
def sig_s_l_s : Sig := ⟨[.scalar], [.la], [.scalar]⟩
def sig_l_si_n : Sig := ⟨[.la], [.scalar, .imm], [.none]⟩
def sig_b_s_n : Sig := ⟨[.bo], [.scalar], [.none]⟩
def sig_s_l_n : Sig := ⟨[.scalar], [.la], [.none]⟩
def sig_l_s_n : Sig := ⟨[.la], [.scalar], [.none]⟩
def sig_s_bl_n : Sig := ⟨[.scalar], [.bo, .la], [.none]⟩
def sig_bl_s_n : Sig := ⟨[.bo, .la], [.scalar], [.none]⟩
def sig_n_b_i : Sig := ⟨[.none], [.bo], [.imm]⟩
def sig_n_bn_n : Sig := ⟨[.none], [.bo, .none], [.none]⟩
def sig_s_s_i : Sig := ⟨[.scalar], [.scalar], [.imm]⟩
def sig_s_bl_s : Sig := ⟨[.scalar], [.bo, .la], [.scalar]⟩
def sig_n_bl_s : Sig := ⟨[.none], [.bo, .la], [.scalar]⟩
def sig_t_si_n : Sig := ⟨[.track], [.scalar, .imm], [.none]⟩
def sig_t_n_n : Sig := ⟨[.track], [.none], [.none]⟩
def sig_s_t_n : Sig := ⟨[.scalar], [.track], [.none]⟩
def sig_t_s_n : Sig := ⟨[.track], [.scalar], [.none]⟩
def sig_vl_t_nl : Sig := ⟨[.vec, .la], [.track], [.none, .la]⟩
def sig_t_vl_nl : Sig := ⟨[.track], [.vec, .la], [.none, .la]⟩
def sig_bl_bl_s : Sig := ⟨[.bo, .la], [.bo, .la], [.scalar]⟩
def sig_blt_tbl_s : Sig := ⟨[.bo, .la, .track], [.track, .bo, .la], [.scalar]⟩
def sig_s_l_i : Sig := ⟨[.scalar], [.la], [.imm]⟩
def sig_n_bl_si : Sig := ⟨[.none], [.bo, .la], [.scalar, .imm]⟩
def sig_s_bl_si : Sig := ⟨[.scalar], [.bo, .la], [.scalar, .imm]⟩
def sig_vh_vh_vsih : Sig := ⟨[.vec, .shape], [.vec, .shape], [.vec, .scalar, .imm, .shape]⟩
def sig_vh_vh_n : Sig := ⟨[.vec, .shape], [.vec, .shape], [.none]⟩
def sig_mc_v_vsi : Sig := ⟨[.maskCC], [.vec], [.vec, .scalar, .imm]⟩
def sig_v_v_v : Sig := ⟨[.vec], [.vec], [.vec]⟩
def sig_v_blh_ns : Sig := ⟨[.vec], [.bo, .la, .shape], [.none, .scalar]⟩
def sig_blh_v_ns : Sig := ⟨[.bo, .la, .shape], [.vec], [.none, .scalar]⟩
def sig_v_bl_v : Sig := ⟨[.vec], [.bo, .la], [.vec]⟩
def sig_bl_v_v : Sig := ⟨[.bo, .la], [.vec], [.vec]⟩
def sig_v_siv_ni : Sig := ⟨[.vec], [.scalar, .imm, .vec], [.none, .imm]⟩
def sig_vh_vh_ni : Sig := ⟨[.vec, .shape], [.vec, .shape], [.none, .imm]⟩
def sig_v_v_n : Sig := ⟨[.vec], [.vec], [.none]⟩
def sig_v_vh_i : Sig := ⟨[.vec], [.vec, .shape], [.imm]⟩
def sig_v_v_i : Sig := ⟨[.vec], [.vec], [.imm]⟩
def sig_sv_vs_si : Sig := ⟨[.scalar, .vec], [.vec, .scalar], [.scalar, .imm]⟩
def sig_vh_vh_s : Sig := ⟨[.vec, .shape], [.vec, .shape], [.scalar]⟩
def sig_v_vh_nv : Sig := ⟨[.vec], [.vec, .shape], [.none, .vec]⟩
def sig_v_v_ni : Sig := ⟨[.vec], [.vec], [.none, .imm]⟩
def sig_f_f_i : Sig := ⟨[.fmt], [.fmt], [.imm]⟩
def sig_a_bl_bl : Sig := ⟨[.acc], [.bo, .la], [.bo, .la]⟩
def sig_a_n_n : Sig := ⟨[.acc], [.none], [.none]⟩
def sig_a_bl_n : Sig := ⟨[.acc], [.bo, .la], [.none]⟩
def sig_bl_a_nl : Sig := ⟨[.bo, .la], [.acc], [.none, .la]⟩
def sig_n_nl_nsi : Sig := ⟨[.none], [.none, .la], [.none, .scalar, .imm]⟩
def sig_g_n_n : Sig := ⟨[.slot], [.none], [.none]⟩
def sig_i_s_i24 : Sig := ⟨[.imm], [.scalar], [.i24]⟩
def sig_n_l_n : Sig := ⟨[.none], [.la], [.none]⟩
def sig_s_l_l : Sig := ⟨[.scalar], [.la], [.la]⟩
def sig_l_l_s : Sig := ⟨[.la], [.la], [.scalar]⟩
def sig_s_b_l : Sig := ⟨[.scalar], [.bo], [.la]⟩
def sig_f_s_n : Sig := ⟨[.fmt], [.scalar], [.none]⟩
def sig_s_f_n : Sig := ⟨[.scalar], [.fmt], [.none]⟩
def sig_fn_fn_fn : Sig := ⟨[.fmt, .none], [.fmt, .none], [.fmt, .none]⟩
def sig_s_r_n : Sig := ⟨[.scalar], [.sysreg], [.none]⟩
def sig_r_si_n : Sig := ⟨[.sysreg], [.scalar, .imm], [.none]⟩
def sig_s_i_ni : Sig := ⟨[.scalar], [.imm], [.none, .imm]⟩
def sig_s_b_s : Sig := ⟨[.scalar], [.bo], [.scalar]⟩

/-- The operand signature of a program instruction; an event has none. -/
def Instr.sig : Instr → Option Sig
  | .add _ => some sig_s_s_si
  | .addi _ => some sig_s_s_i24
  | .sub _ => some sig_s_s_si
  | .mul _ => some sig_s_s_si
  | .mulh _ => some sig_s_s_si
  | .mulhn _ => some sig_s_s_si
  | .div _ => some sig_s_s_si
  | .divn _ => some sig_s_s_si
  | .rem _ => some sig_s_s_si
  | .remn _ => some sig_s_s_si
  | .and _ => some sig_s_s_si
  | .or _ => some sig_s_s_si
  | .xor _ => some sig_s_s_si
  | .andn _ => some sig_s_s_si
  | .shl _ => some sig_s_s_si
  | .shr _ => some sig_s_s_si
  | .sar _ => some sig_s_s_si
  | .rotl _ => some sig_s_s_si
  | .clz _ => some sig_s_s_n
  | .ctz _ => some sig_s_s_n
  | .popc _ => some sig_s_s_n
  | .min _ => some sig_s_s_si
  | .max _ => some sig_s_s_si
  | .minn _ => some sig_s_s_si
  | .maxn _ => some sig_s_s_si
  | .bfx _ => some sig_s_s_si
  | .bfi _ => some sig_s_s_si
  | .sext _ => some sig_s_s_si
  | .movi _ => some sig_s_ni_i24
  | .mov _ => some sig_s_s_n
  | .lea _ => some sig_s_bl_ns
  | .sel _ => some sig_s_p_si
  | .cmp _ => some sig_pc_s_si
  | .cmpi _ => some sig_pc_s_i24
  | .pset _ => some sig_p_ps_in
  | .br _ => some sig_n_n_i24
  | .jmp _ => some sig_n_s_i24
  | .call _ => some sig_n_n_i24
  | .callr _ => some sig_n_s_ni
  | .ret _ => some sig_n_ns_n
  | .nop _ => some sig_n_n_n
  | .exit _ => some sig_n_n_n
  | .loop _ => some sig_i_s_n
  | .loopi _ => some sig_i_n_i24
  | .lbrk _ => some sig_n_n_n
  | .realign _ => some sig_n_i_n
  | .start _ => some sig_s_s_s
  | .hwait _ => some sig_s_si_n
  | .done _ => some sig_n_n_n
  | .doneJ _ => some sig_n_n_n
  | .next _ => some sig_n_n_n
  | .fork _ => some sig_n_ln_ln
  | .rdv _ => some sig_s_n_n
  | .gset _ => some sig_g_si_n
  | .spawn _ => some sig_s_b_si
  | .join _ => some sig_s_b_n
  | .launch _ => some sig_s_b_nsi
  | .yield _ => some sig_n_ni_n
  | .send _ => some sig_c_s_l
  | .recv _ => some sig_s_c_l
  | .rprobe _ => some sig_s_c_n
  | .xmit _ => some sig_ln_sv_n
  | .xsel _ => some sig_sv_n_n
  | .bell _ => some sig_s_i_n
  | .arrive _ => some sig_s_l_si
  | .bwait _ => some sig_s_l_s
  | .binit _ => some sig_l_si_n
  | .ld _ _ => some sig_s_b_n
  | .st _ _ => some sig_b_s_n
  | .ldl _ _ => some sig_s_l_n
  | .stl _ _ => some sig_l_s_n
  | .lda _ _ => some sig_s_bl_n
  | .strl _ _ => some sig_bl_s_n
  | .fence _ => some sig_n_n_n
  | .lbsync _ => some sig_n_n_n
  | .pref _ => some sig_n_b_i
  | .c1inv _ => some sig_n_bn_n
  | .jrd _ => some sig_s_s_i
  | .atomSwap _ _ _ => some sig_s_bl_s
  | .atomAdd _ _ _ => some sig_s_bl_s
  | .atomAnd _ _ _ => some sig_s_bl_s
  | .atomOr _ _ _ => some sig_s_bl_s
  | .atomXor _ _ _ => some sig_s_bl_s
  | .atomMin _ _ _ => some sig_s_bl_s
  | .atomMax _ _ _ => some sig_s_bl_s
  | .atomMinn _ _ _ => some sig_s_bl_s
  | .atomMaxn _ _ _ => some sig_s_bl_s
  | .atomLoad _ _ _ => some sig_s_bl_n
  | .atomStore _ _ _ => some sig_n_bl_s
  | .cas _ _ _ => some sig_s_bl_s
  | .town _ => some sig_s_s_s
  | .tseek _ => some sig_t_si_n
  | .trew _ => some sig_t_n_n
  | .trd _ => some sig_s_t_n
  | .trds _ => some sig_s_t_n
  | .twr _ => some sig_t_s_n
  | .twrs _ => some sig_t_s_n
  | .thead _ => some sig_s_t_n
  | .tsync _ => some sig_t_n_n
  | .trdv _ => some sig_vl_t_nl
  | .twrv _ => some sig_t_vl_nl
  | .acopy _ => some sig_bl_bl_s
  | .acopyt _ => some sig_blt_tbl_s
  | .swinit _ => some sig_l_s_n
  | .swwait _ => some sig_s_l_si
  | .swread _ => some sig_s_l_i
  | .cbset _ => some sig_n_bl_si
  | .cbwait _ => some sig_s_bl_si
  | .vadd _ => some sig_vh_vh_vsih
  | .vsub _ => some sig_vh_vh_vsih
  | .vmul _ => some sig_vh_vh_vsih
  | .vfma _ => some sig_vh_vh_vsih
  | .vfms _ => some sig_vh_vh_vsih
  | .vfnma _ => some sig_vh_vh_vsih
  | .vmin _ => some sig_vh_vh_vsih
  | .vmax _ => some sig_vh_vh_vsih
  | .vabs _ => some sig_vh_vh_n
  | .vneg _ => some sig_vh_vh_n
  | .vand _ => some sig_vh_vh_vsih
  | .vor _ => some sig_vh_vh_vsih
  | .vxor _ => some sig_vh_vh_vsih
  | .vshl _ => some sig_vh_vh_vsih
  | .vshr _ => some sig_vh_vh_vsih
  | .vsar _ => some sig_vh_vh_vsih
  | .vcmp _ => some sig_mc_v_vsi
  | .vsel _ => some sig_v_v_v
  | .vdot _ => some sig_v_v_v
  | .vld _ => some sig_v_blh_ns
  | .vst _ => some sig_blh_v_ns
  | .vgath _ => some sig_v_bl_v
  | .vscat _ => some sig_bl_v_v
  | .vbcast _ => some sig_v_siv_ni
  | .vperm _ => some sig_v_v_v
  | .vcvt _ => some sig_vh_vh_ni
  | .vcmpr _ => some sig_v_v_n
  | .vexpd _ => some sig_v_v_n
  | .vred _ => some sig_v_vh_i
  | .vscan _ => some sig_v_v_i
  | .vmovs _ => some sig_sv_vs_si
  | .vquant _ => some sig_vh_vh_s
  | .vdeq _ => some sig_vh_vh_s
  | .vsplt _ => some sig_v_v_v
  | .vrcp _ => some sig_vh_vh_n
  | .vrsq _ => some sig_vh_vh_n
  | .vexp2 _ => some sig_vh_vh_n
  | .vlog2 _ => some sig_vh_vh_n
  | .vtanh _ => some sig_vh_vh_n
  | .vsigm _ => some sig_vh_vh_n
  | .vhist _ => some sig_v_vh_nv
  | .vhmrg _ => some sig_v_v_v
  | .vsort _ => some sig_v_v_ni
  | .vsrch _ => some sig_v_v_v
  | .vclass _ => some sig_v_v_n
  | .mgeo _ => some sig_f_f_i
  | .mma _ => some sig_a_bl_bl
  | .macz _ => some sig_a_n_n
  | .macld _ => some sig_a_bl_n
  | .macst _ => some sig_bl_a_nl
  | .maccv _ => some sig_bl_a_nl
  | .mchk _ => some sig_a_n_n
  | .ewait _ => some sig_n_nl_nsi
  | .eguard _ => some sig_g_n_n
  | .eloop _ => some sig_i_s_i24
  | .ejmp _ => some sig_n_n_i24
  | .eend _ => some sig_n_n_n
  | .kvapp _ => some sig_n_l_n
  | .kvmap _ => some sig_s_l_l
  | .kvrel _ => some sig_s_l_n
  | .pxinsInsert _ => some sig_s_l_si
  | .pxinsRemove _ => some sig_s_l_si
  | .pxget _ => some sig_s_l_n
  | .attn _ => some sig_n_l_n
  | .amrg _ => some sig_l_l_s
  | .park _ => some sig_s_b_l
  | .wake _ => some sig_s_b_n
  | .heat _ => some sig_s_b_si
  | .migr _ => some sig_s_b_si
  | .fmtset _ => some sig_f_s_n
  | .fmtget _ => some sig_s_f_n
  | .fmtp _ => some sig_fn_fn_fn
  | .trap _ => some sig_n_i_n
  | .tret _ => some sig_n_n_n
  | .svc _ => some sig_s_s_i
  | .mfsr _ => some sig_s_r_n
  | .mtsr _ => some sig_r_si_n
  | .pwreq _ => some sig_s_si_n
  | .tokq _ => some sig_s_i_n
  | .tokres _ => some sig_s_si_n
  | .time _ => some sig_s_i_n
  | .perf _ => some sig_s_i_ni
  | .c2opXlat _ => some sig_s_b_s
  | .c2opWbinv _ => some sig_s_b_s
  | .c2opWb _ => some sig_s_b_s
  | .c2opIcinv _ => some sig_s_b_s
  | .c2opAsidall _ => some sig_s_b_s
  | .brk _ => some sig_n_i_n
  | .realignTimeout => none
  | .bwaitTimeout => none
  | .trackMotionEnd => none
  | .trackAccessStart => none
  | .trackRealignmentDone => none
  | .trackAccessComplete => none
  | .shiftWindowClear => none
  | .matrixArbiterStart => none
  | .mmaOperandsConsumed => none
  | .engineOpComplete => none
  | .syncWordArrival => none
  | .pitchMapRequest => none
  | .attnContributor => none
  | .weighbridgeMerge => none
  | .asyncTrapEntry => none
  | .supervisorEventEntry => none
  | .c2Request => none
  | .c2FillArrival => none
  | .loadResponse => none
  | .storeAcknowledge => none
  | .storeRefusal => none
  | .pinRelease => none
  | .meshWindowArrival => none
  | .exchangeArrival => none
  | .messageArrival => none
  | .remoteFabricRequest => none
  | .backInvalidate => none
  | .migrationCopyDone => none
  | .migrationAbandon => none
  | .heatHalving => none
  | .parkAgeTick => none
  | .parkT1Expiry => none
  | .parkT2Expiry => none
  | .parkDemotionDone => none
  | .parkPromotionDone => none
  | .parkPushRetry => none
  | .promotionRetry => none
  | .parkPoolRetry => none
  | .rowRetirement => none
  | .tokenGrant => none
  | .stallRatioSample => none
  | .voltageSlewDone => none
  | .frequencySwitchDone => none
  | .pointHoldExpiry => none
  | .thermalSample => none
  | .capmsg => none
  | .capLeaseExpiry => none
  | .ptpCorrection => none
  | .ttPeriodicLaunch => none
  | .ttQueueDrain => none
  | .ttQuiesce => none
  | .ttSlotEnd => none
  | .ttDeferredFire => none
  | .launchQueuePop => none
  | .helperPop => none
  | .conUnitStart => none
  | .gangPlace => none
  | .bellRelease => none
  | .bellTimeout => none
  | .exchangePhaseEnd => none
  | .preemptRequest => none
  | .forcedSave => none
  | .contextRestore => none
  | .debugStop => none
  | .debugResume => none
  | .debugStopEnable => none
  | .debugSetStep => none
  | .vfreset => none
  | .coldReset => none
  | .fwload => none
  | .checkpointStart => none
  | .checkpointDone => none
  | .checkpointRestore => none
  | .lqpush => none
  | .svcdb => none
  | .trkclr => none
  | .stlsync => none
  | .hostStallWrite => none
  | .hostStallRead => none
  | .counterClear => none
  | .errcntClear => none
  | .hostRegisterWrite => none
  | .synchronisationLost => none
  | .hostMemoryAccess => none
  | .spdmRequest => none
  | .checkpointRestoreDone => none
  | .functionResetDone => none
  | .bringUpComplete => none

/-- The form of a program instruction; an event has none. -/
def Instr.form : Instr → Option Form
  | .add f => some f
  | .addi f => some f
  | .sub f => some f
  | .mul f => some f
  | .mulh f => some f
  | .mulhn f => some f
  | .div f => some f
  | .divn f => some f
  | .rem f => some f
  | .remn f => some f
  | .and f => some f
  | .or f => some f
  | .xor f => some f
  | .andn f => some f
  | .shl f => some f
  | .shr f => some f
  | .sar f => some f
  | .rotl f => some f
  | .clz f => some f
  | .ctz f => some f
  | .popc f => some f
  | .min f => some f
  | .max f => some f
  | .minn f => some f
  | .maxn f => some f
  | .bfx f => some f
  | .bfi f => some f
  | .sext f => some f
  | .movi f => some f
  | .mov f => some f
  | .lea f => some f
  | .sel f => some f
  | .cmp f => some f
  | .cmpi f => some f
  | .pset f => some f
  | .br f => some f
  | .jmp f => some f
  | .call f => some f
  | .callr f => some f
  | .ret f => some f
  | .nop f => some f
  | .exit f => some f
  | .loop f => some f
  | .loopi f => some f
  | .lbrk f => some f
  | .realign f => some f
  | .start f => some f
  | .hwait f => some f
  | .done f => some f
  | .doneJ f => some f
  | .next f => some f
  | .fork f => some f
  | .rdv f => some f
  | .gset f => some f
  | .spawn f => some f
  | .join f => some f
  | .launch f => some f
  | .yield f => some f
  | .send f => some f
  | .recv f => some f
  | .rprobe f => some f
  | .xmit f => some f
  | .xsel f => some f
  | .bell f => some f
  | .arrive f => some f
  | .bwait f => some f
  | .binit f => some f
  | .ld _ f => some f
  | .st _ f => some f
  | .ldl _ f => some f
  | .stl _ f => some f
  | .lda _ f => some f
  | .strl _ f => some f
  | .fence f => some f
  | .lbsync f => some f
  | .pref f => some f
  | .c1inv f => some f
  | .jrd f => some f
  | .atomSwap _ _ f => some f
  | .atomAdd _ _ f => some f
  | .atomAnd _ _ f => some f
  | .atomOr _ _ f => some f
  | .atomXor _ _ f => some f
  | .atomMin _ _ f => some f
  | .atomMax _ _ f => some f
  | .atomMinn _ _ f => some f
  | .atomMaxn _ _ f => some f
  | .atomLoad _ _ f => some f
  | .atomStore _ _ f => some f
  | .cas _ _ f => some f
  | .town f => some f
  | .tseek f => some f
  | .trew f => some f
  | .trd f => some f
  | .trds f => some f
  | .twr f => some f
  | .twrs f => some f
  | .thead f => some f
  | .tsync f => some f
  | .trdv f => some f
  | .twrv f => some f
  | .acopy f => some f
  | .acopyt f => some f
  | .swinit f => some f
  | .swwait f => some f
  | .swread f => some f
  | .cbset f => some f
  | .cbwait f => some f
  | .vadd f => some f
  | .vsub f => some f
  | .vmul f => some f
  | .vfma f => some f
  | .vfms f => some f
  | .vfnma f => some f
  | .vmin f => some f
  | .vmax f => some f
  | .vabs f => some f
  | .vneg f => some f
  | .vand f => some f
  | .vor f => some f
  | .vxor f => some f
  | .vshl f => some f
  | .vshr f => some f
  | .vsar f => some f
  | .vcmp f => some f
  | .vsel f => some f
  | .vdot f => some f
  | .vld f => some f
  | .vst f => some f
  | .vgath f => some f
  | .vscat f => some f
  | .vbcast f => some f
  | .vperm f => some f
  | .vcvt f => some f
  | .vcmpr f => some f
  | .vexpd f => some f
  | .vred f => some f
  | .vscan f => some f
  | .vmovs f => some f
  | .vquant f => some f
  | .vdeq f => some f
  | .vsplt f => some f
  | .vrcp f => some f
  | .vrsq f => some f
  | .vexp2 f => some f
  | .vlog2 f => some f
  | .vtanh f => some f
  | .vsigm f => some f
  | .vhist f => some f
  | .vhmrg f => some f
  | .vsort f => some f
  | .vsrch f => some f
  | .vclass f => some f
  | .mgeo f => some f
  | .mma f => some f
  | .macz f => some f
  | .macld f => some f
  | .macst f => some f
  | .maccv f => some f
  | .mchk f => some f
  | .ewait f => some f
  | .eguard f => some f
  | .eloop f => some f
  | .ejmp f => some f
  | .eend f => some f
  | .kvapp f => some f
  | .kvmap f => some f
  | .kvrel f => some f
  | .pxinsInsert f => some f
  | .pxinsRemove f => some f
  | .pxget f => some f
  | .attn f => some f
  | .amrg f => some f
  | .park f => some f
  | .wake f => some f
  | .heat f => some f
  | .migr f => some f
  | .fmtset f => some f
  | .fmtget f => some f
  | .fmtp f => some f
  | .trap f => some f
  | .tret f => some f
  | .svc f => some f
  | .mfsr f => some f
  | .mtsr f => some f
  | .pwreq f => some f
  | .tokq f => some f
  | .tokres f => some f
  | .time f => some f
  | .perf f => some f
  | .c2opXlat f => some f
  | .c2opWbinv f => some f
  | .c2opWb f => some f
  | .c2opIcinv f => some f
  | .c2opAsidall f => some f
  | .brk f => some f
  | .realignTimeout => none
  | .bwaitTimeout => none
  | .trackMotionEnd => none
  | .trackAccessStart => none
  | .trackRealignmentDone => none
  | .trackAccessComplete => none
  | .shiftWindowClear => none
  | .matrixArbiterStart => none
  | .mmaOperandsConsumed => none
  | .engineOpComplete => none
  | .syncWordArrival => none
  | .pitchMapRequest => none
  | .attnContributor => none
  | .weighbridgeMerge => none
  | .asyncTrapEntry => none
  | .supervisorEventEntry => none
  | .c2Request => none
  | .c2FillArrival => none
  | .loadResponse => none
  | .storeAcknowledge => none
  | .storeRefusal => none
  | .pinRelease => none
  | .meshWindowArrival => none
  | .exchangeArrival => none
  | .messageArrival => none
  | .remoteFabricRequest => none
  | .backInvalidate => none
  | .migrationCopyDone => none
  | .migrationAbandon => none
  | .heatHalving => none
  | .parkAgeTick => none
  | .parkT1Expiry => none
  | .parkT2Expiry => none
  | .parkDemotionDone => none
  | .parkPromotionDone => none
  | .parkPushRetry => none
  | .promotionRetry => none
  | .parkPoolRetry => none
  | .rowRetirement => none
  | .tokenGrant => none
  | .stallRatioSample => none
  | .voltageSlewDone => none
  | .frequencySwitchDone => none
  | .pointHoldExpiry => none
  | .thermalSample => none
  | .capmsg => none
  | .capLeaseExpiry => none
  | .ptpCorrection => none
  | .ttPeriodicLaunch => none
  | .ttQueueDrain => none
  | .ttQuiesce => none
  | .ttSlotEnd => none
  | .ttDeferredFire => none
  | .launchQueuePop => none
  | .helperPop => none
  | .conUnitStart => none
  | .gangPlace => none
  | .bellRelease => none
  | .bellTimeout => none
  | .exchangePhaseEnd => none
  | .preemptRequest => none
  | .forcedSave => none
  | .contextRestore => none
  | .debugStop => none
  | .debugResume => none
  | .debugStopEnable => none
  | .debugSetStep => none
  | .vfreset => none
  | .coldReset => none
  | .fwload => none
  | .checkpointStart => none
  | .checkpointDone => none
  | .checkpointRestore => none
  | .lqpush => none
  | .svcdb => none
  | .trkclr => none
  | .stlsync => none
  | .hostStallWrite => none
  | .hostStallRead => none
  | .counterClear => none
  | .errcntClear => none
  | .hostRegisterWrite => none
  | .synchronisationLost => none
  | .hostMemoryAccess => none
  | .spdmRequest => none
  | .checkpointRestoreDone => none
  | .functionResetDone => none
  | .bringUpComplete => none

/-- The FUNC of a load suffix, from the FUNC of the group's first form (R255). -/
def LdSize.code : LdSize → Nat
  | .bs => 0 | .bz => 1 | .hs => 2 | .hz => 3 | .w => 4 | .d => 5

/-- The FUNC of a store suffix, from the FUNC of the group's first form (R255). -/
def StSize.code : StSize → Nat
  | .b => 0 | .h => 1 | .w => 2 | .d => 3

/-- The ordering suffix in FUNC[5:4] (R255). -/
def MemOrd.code : MemOrd → Nat
  | .rlx => 0 | .acq => 1 | .rel => 2 | .ar => 3

/-- MAJOR and FUNC of a program instruction (R254, R255). The rows of C2OP share one word, and so do those of PXINS;
an event has none. -/
def Instr.opcode : Instr → Option (Nat × Nat)
  | .add _ => some (0x00, 0x00)
  | .addi _ => some (0x00, 0x01)
  | .sub _ => some (0x00, 0x02)
  | .mul _ => some (0x00, 0x03)
  | .mulh _ => some (0x00, 0x04)
  | .mulhn _ => some (0x00, 0x05)
  | .div _ => some (0x00, 0x06)
  | .divn _ => some (0x00, 0x07)
  | .rem _ => some (0x00, 0x08)
  | .remn _ => some (0x00, 0x09)
  | .and _ => some (0x00, 0x0A)
  | .or _ => some (0x00, 0x0B)
  | .xor _ => some (0x00, 0x0C)
  | .andn _ => some (0x00, 0x0D)
  | .shl _ => some (0x00, 0x0E)
  | .shr _ => some (0x00, 0x0F)
  | .sar _ => some (0x00, 0x10)
  | .rotl _ => some (0x00, 0x11)
  | .clz _ => some (0x00, 0x12)
  | .ctz _ => some (0x00, 0x13)
  | .popc _ => some (0x00, 0x14)
  | .min _ => some (0x00, 0x15)
  | .max _ => some (0x00, 0x16)
  | .minn _ => some (0x00, 0x17)
  | .maxn _ => some (0x00, 0x18)
  | .bfx _ => some (0x00, 0x19)
  | .bfi _ => some (0x00, 0x1A)
  | .sext _ => some (0x00, 0x1B)
  | .movi _ => some (0x00, 0x1C)
  | .mov _ => some (0x00, 0x1D)
  | .lea _ => some (0x00, 0x1E)
  | .sel _ => some (0x00, 0x1F)
  | .cmp _ => some (0x10, 0x00)
  | .cmpi _ => some (0x10, 0x01)
  | .pset _ => some (0x10, 0x02)
  | .br _ => some (0x10, 0x03)
  | .jmp _ => some (0x10, 0x04)
  | .call _ => some (0x10, 0x05)
  | .callr _ => some (0x10, 0x06)
  | .ret _ => some (0x10, 0x07)
  | .nop _ => some (0x10, 0x08)
  | .exit _ => some (0x10, 0x09)
  | .loop _ => some (0x20, 0x00)
  | .loopi _ => some (0x20, 0x0F)
  | .lbrk _ => some (0x20, 0x01)
  | .realign _ => some (0x20, 0x02)
  | .start _ => some (0x20, 0x03)
  | .hwait _ => some (0x20, 0x04)
  | .done _ => some (0x20, 0x05)
  | .doneJ _ => some (0x20, 0x0E)
  | .next _ => some (0x20, 0x0B)
  | .fork _ => some (0x20, 0x06)
  | .rdv _ => some (0x20, 0x07)
  | .gset _ => some (0x20, 0x08)
  | .spawn _ => some (0x20, 0x09)
  | .join _ => some (0x20, 0x0A)
  | .launch _ => some (0x20, 0x0C)
  | .yield _ => some (0x20, 0x0D)
  | .send _ => some (0x30, 0x00)
  | .recv _ => some (0x30, 0x01)
  | .rprobe _ => some (0x30, 0x02)
  | .xmit _ => some (0x30, 0x03)
  | .xsel _ => some (0x30, 0x04)
  | .bell _ => some (0x30, 0x05)
  | .arrive _ => some (0x30, 0x06)
  | .bwait _ => some (0x30, 0x07)
  | .binit _ => some (0x30, 0x08)
  | .ld sz _ => some (0x40, 0x00 + sz.code)
  | .st sz _ => some (0x40, 0x08 + sz.code)
  | .ldl sz _ => some (0x40, 0x10 + sz.code)
  | .stl sz _ => some (0x40, 0x18 + sz.code)
  | .lda dbl _ => some (0x40, 0x20 + dbl.toNat)
  | .strl dbl _ => some (0x40, 0x22 + dbl.toNat)
  | .fence _ => some (0x40, 0x24)
  | .lbsync _ => some (0x40, 0x25)
  | .pref _ => some (0x40, 0x26)
  | .c1inv _ => some (0x40, 0x27)
  | .jrd _ => some (0x40, 0x28)
  | .atomSwap dbl ord _ => some (0x41 + dbl.toNat, ord.code * 16 + 0x0)
  | .atomAdd dbl ord _ => some (0x41 + dbl.toNat, ord.code * 16 + 0x1)
  | .atomAnd dbl ord _ => some (0x41 + dbl.toNat, ord.code * 16 + 0x2)
  | .atomOr dbl ord _ => some (0x41 + dbl.toNat, ord.code * 16 + 0x3)
  | .atomXor dbl ord _ => some (0x41 + dbl.toNat, ord.code * 16 + 0x4)
  | .atomMin dbl ord _ => some (0x41 + dbl.toNat, ord.code * 16 + 0x5)
  | .atomMax dbl ord _ => some (0x41 + dbl.toNat, ord.code * 16 + 0x6)
  | .atomMinn dbl ord _ => some (0x41 + dbl.toNat, ord.code * 16 + 0x7)
  | .atomMaxn dbl ord _ => some (0x41 + dbl.toNat, ord.code * 16 + 0x8)
  | .atomLoad dbl ord _ => some (0x41 + dbl.toNat, ord.code * 16 + 0x9)
  | .atomStore dbl ord _ => some (0x41 + dbl.toNat, ord.code * 16 + 0xA)
  | .cas dbl ord _ => some (0x43, ord.code * 16 + dbl.toNat)
  | .town _ => some (0x50, 0x00)
  | .tseek _ => some (0x50, 0x01)
  | .trew _ => some (0x50, 0x06)
  | .trd _ => some (0x50, 0x02)
  | .trds _ => some (0x50, 0x03)
  | .twr _ => some (0x50, 0x04)
  | .twrs _ => some (0x50, 0x05)
  | .thead _ => some (0x50, 0x07)
  | .tsync _ => some (0x50, 0x08)
  | .trdv _ => some (0x50, 0x09)
  | .twrv _ => some (0x50, 0x0A)
  | .acopy _ => some (0x60, 0x00)
  | .acopyt _ => some (0x60, 0x01)
  | .swinit _ => some (0x60, 0x02)
  | .swwait _ => some (0x60, 0x03)
  | .swread _ => some (0x60, 0x04)
  | .cbset _ => some (0x60, 0x05)
  | .cbwait _ => some (0x60, 0x06)
  | .vadd _ => some (0x70, 0x00)
  | .vsub _ => some (0x70, 0x01)
  | .vmul _ => some (0x70, 0x02)
  | .vfma _ => some (0x70, 0x03)
  | .vfms _ => some (0x70, 0x04)
  | .vfnma _ => some (0x70, 0x05)
  | .vmin _ => some (0x70, 0x06)
  | .vmax _ => some (0x70, 0x07)
  | .vabs _ => some (0x70, 0x08)
  | .vneg _ => some (0x70, 0x09)
  | .vand _ => some (0x70, 0x0A)
  | .vor _ => some (0x70, 0x0B)
  | .vxor _ => some (0x70, 0x0C)
  | .vshl _ => some (0x70, 0x0D)
  | .vshr _ => some (0x70, 0x0E)
  | .vsar _ => some (0x70, 0x0F)
  | .vcmp _ => some (0x70, 0x10)
  | .vsel _ => some (0x70, 0x11)
  | .vdot _ => some (0x70, 0x12)
  | .vld _ => some (0x80, 0x00)
  | .vst _ => some (0x80, 0x01)
  | .vgath _ => some (0x80, 0x02)
  | .vscat _ => some (0x80, 0x03)
  | .vbcast _ => some (0x80, 0x04)
  | .vperm _ => some (0x80, 0x05)
  | .vcvt _ => some (0x80, 0x06)
  | .vcmpr _ => some (0x80, 0x07)
  | .vexpd _ => some (0x80, 0x08)
  | .vred _ => some (0x80, 0x09)
  | .vscan _ => some (0x80, 0x0A)
  | .vmovs _ => some (0x80, 0x0B)
  | .vquant _ => some (0x80, 0x0C)
  | .vdeq _ => some (0x80, 0x0D)
  | .vsplt _ => some (0x80, 0x0E)
  | .vrcp _ => some (0x90, 0x00)
  | .vrsq _ => some (0x90, 0x01)
  | .vexp2 _ => some (0x90, 0x02)
  | .vlog2 _ => some (0x90, 0x03)
  | .vtanh _ => some (0x90, 0x04)
  | .vsigm _ => some (0x90, 0x05)
  | .vhist _ => some (0x90, 0x06)
  | .vhmrg _ => some (0x90, 0x07)
  | .vsort _ => some (0x90, 0x08)
  | .vsrch _ => some (0x90, 0x09)
  | .vclass _ => some (0x90, 0x0A)
  | .mgeo _ => some (0xA0, 0x00)
  | .mma _ => some (0xA0, 0x01)
  | .macz _ => some (0xA0, 0x02)
  | .macld _ => some (0xA0, 0x03)
  | .macst _ => some (0xA0, 0x04)
  | .maccv _ => some (0xA0, 0x05)
  | .mchk _ => some (0xA0, 0x06)
  | .ewait _ => some (0xD0, 0x00)
  | .eguard _ => some (0xD0, 0x01)
  | .eloop _ => some (0xD0, 0x02)
  | .ejmp _ => some (0xD0, 0x03)
  | .eend _ => some (0xD0, 0x04)
  | .kvapp _ => some (0xB0, 0x00)
  | .kvmap _ => some (0xB0, 0x01)
  | .kvrel _ => some (0xB0, 0x02)
  | .pxinsInsert _ => some (0xB0, 0x03)
  | .pxinsRemove _ => some (0xB0, 0x03)
  | .pxget _ => some (0xB0, 0x04)
  | .attn _ => some (0xB0, 0x05)
  | .amrg _ => some (0xB0, 0x06)
  | .park _ => some (0xB0, 0x07)
  | .wake _ => some (0xB0, 0x08)
  | .heat _ => some (0xB0, 0x09)
  | .migr _ => some (0xB0, 0x0A)
  | .fmtset _ => some (0xC0, 0x00)
  | .fmtget _ => some (0xC0, 0x01)
  | .fmtp _ => some (0xC0, 0x02)
  | .trap _ => some (0xC0, 0x03)
  | .tret _ => some (0xC0, 0x04)
  | .svc _ => some (0xC0, 0x05)
  | .mfsr _ => some (0xC0, 0x06)
  | .mtsr _ => some (0xC0, 0x07)
  | .pwreq _ => some (0xC0, 0x08)
  | .tokq _ => some (0xC0, 0x09)
  | .tokres _ => some (0xC0, 0x0A)
  | .time _ => some (0xC0, 0x0B)
  | .perf _ => some (0xC0, 0x0C)
  | .c2opXlat _ => some (0xC0, 0x0D)
  | .c2opWbinv _ => some (0xC0, 0x0D)
  | .c2opWb _ => some (0xC0, 0x0D)
  | .c2opIcinv _ => some (0xC0, 0x0D)
  | .c2opAsidall _ => some (0xC0, 0x0D)
  | .brk _ => some (0xC0, 0x0E)
  | .realignTimeout => none
  | .bwaitTimeout => none
  | .trackMotionEnd => none
  | .trackAccessStart => none
  | .trackRealignmentDone => none
  | .trackAccessComplete => none
  | .shiftWindowClear => none
  | .matrixArbiterStart => none
  | .mmaOperandsConsumed => none
  | .engineOpComplete => none
  | .syncWordArrival => none
  | .pitchMapRequest => none
  | .attnContributor => none
  | .weighbridgeMerge => none
  | .asyncTrapEntry => none
  | .supervisorEventEntry => none
  | .c2Request => none
  | .c2FillArrival => none
  | .loadResponse => none
  | .storeAcknowledge => none
  | .storeRefusal => none
  | .pinRelease => none
  | .meshWindowArrival => none
  | .exchangeArrival => none
  | .messageArrival => none
  | .remoteFabricRequest => none
  | .backInvalidate => none
  | .migrationCopyDone => none
  | .migrationAbandon => none
  | .heatHalving => none
  | .parkAgeTick => none
  | .parkT1Expiry => none
  | .parkT2Expiry => none
  | .parkDemotionDone => none
  | .parkPromotionDone => none
  | .parkPushRetry => none
  | .promotionRetry => none
  | .parkPoolRetry => none
  | .rowRetirement => none
  | .tokenGrant => none
  | .stallRatioSample => none
  | .voltageSlewDone => none
  | .frequencySwitchDone => none
  | .pointHoldExpiry => none
  | .thermalSample => none
  | .capmsg => none
  | .capLeaseExpiry => none
  | .ptpCorrection => none
  | .ttPeriodicLaunch => none
  | .ttQueueDrain => none
  | .ttQuiesce => none
  | .ttSlotEnd => none
  | .ttDeferredFire => none
  | .launchQueuePop => none
  | .helperPop => none
  | .conUnitStart => none
  | .gangPlace => none
  | .bellRelease => none
  | .bellTimeout => none
  | .exchangePhaseEnd => none
  | .preemptRequest => none
  | .forcedSave => none
  | .contextRestore => none
  | .debugStop => none
  | .debugResume => none
  | .debugStopEnable => none
  | .debugSetStep => none
  | .vfreset => none
  | .coldReset => none
  | .fwload => none
  | .checkpointStart => none
  | .checkpointDone => none
  | .checkpointRestore => none
  | .lqpush => none
  | .svcdb => none
  | .trkclr => none
  | .stlsync => none
  | .hostStallWrite => none
  | .hostStallRead => none
  | .counterClear => none
  | .errcntClear => none
  | .hostRegisterWrite => none
  | .synchronisationLost => none
  | .hostMemoryAccess => none
  | .spdmRequest => none
  | .checkpointRestoreDone => none
  | .functionResetDone => none
  | .bringUpComplete => none

/-- The instruction that the decoder gives for the word of an instruction: the rows of C2OP are one word, told apart
by the descriptor's OP at issue (R411), and those of PXINS by the value of b (R388). -/
def Instr.canon : Instr → Instr
  | .c2opWbinv f => .c2opXlat f
  | .c2opWb f => .c2opXlat f
  | .c2opIcinv f => .c2opXlat f
  | .c2opAsidall f => .c2opXlat f
  | .pxinsRemove f => .pxinsInsert f
  | i => i

/-- What the opcode map holds for one MAJOR and FUNC: the signature and the instruction of a form. -/
abbrev Row := Sig × (Form → Instr)

/-- FUNC of major 0x00. -/
def row00 : Nat → Option Row
  | 0x00 => some (sig_s_s_si, .add)
  | 0x01 => some (sig_s_s_i24, .addi)
  | 0x02 => some (sig_s_s_si, .sub)
  | 0x03 => some (sig_s_s_si, .mul)
  | 0x04 => some (sig_s_s_si, .mulh)
  | 0x05 => some (sig_s_s_si, .mulhn)
  | 0x06 => some (sig_s_s_si, .div)
  | 0x07 => some (sig_s_s_si, .divn)
  | 0x08 => some (sig_s_s_si, .rem)
  | 0x09 => some (sig_s_s_si, .remn)
  | 0x0A => some (sig_s_s_si, .and)
  | 0x0B => some (sig_s_s_si, .or)
  | 0x0C => some (sig_s_s_si, .xor)
  | 0x0D => some (sig_s_s_si, .andn)
  | 0x0E => some (sig_s_s_si, .shl)
  | 0x0F => some (sig_s_s_si, .shr)
  | 0x10 => some (sig_s_s_si, .sar)
  | 0x11 => some (sig_s_s_si, .rotl)
  | 0x12 => some (sig_s_s_n, .clz)
  | 0x13 => some (sig_s_s_n, .ctz)
  | 0x14 => some (sig_s_s_n, .popc)
  | 0x15 => some (sig_s_s_si, .min)
  | 0x16 => some (sig_s_s_si, .max)
  | 0x17 => some (sig_s_s_si, .minn)
  | 0x18 => some (sig_s_s_si, .maxn)
  | 0x19 => some (sig_s_s_si, .bfx)
  | 0x1A => some (sig_s_s_si, .bfi)
  | 0x1B => some (sig_s_s_si, .sext)
  | 0x1C => some (sig_s_ni_i24, .movi)
  | 0x1D => some (sig_s_s_n, .mov)
  | 0x1E => some (sig_s_bl_ns, .lea)
  | 0x1F => some (sig_s_p_si, .sel)
  | _ => none

/-- FUNC of major 0x10. -/
def row10 : Nat → Option Row
  | 0x00 => some (sig_pc_s_si, .cmp)
  | 0x01 => some (sig_pc_s_i24, .cmpi)
  | 0x02 => some (sig_p_ps_in, .pset)
  | 0x03 => some (sig_n_n_i24, .br)
  | 0x04 => some (sig_n_s_i24, .jmp)
  | 0x05 => some (sig_n_n_i24, .call)
  | 0x06 => some (sig_n_s_ni, .callr)
  | 0x07 => some (sig_n_ns_n, .ret)
  | 0x08 => some (sig_n_n_n, .nop)
  | 0x09 => some (sig_n_n_n, .exit)
  | _ => none

/-- FUNC of major 0x20. -/
def row20 : Nat → Option Row
  | 0x00 => some (sig_i_s_n, .loop)
  | 0x01 => some (sig_n_n_n, .lbrk)
  | 0x02 => some (sig_n_i_n, .realign)
  | 0x03 => some (sig_s_s_s, .start)
  | 0x04 => some (sig_s_si_n, .hwait)
  | 0x05 => some (sig_n_n_n, .done)
  | 0x06 => some (sig_n_ln_ln, .fork)
  | 0x07 => some (sig_s_n_n, .rdv)
  | 0x08 => some (sig_g_si_n, .gset)
  | 0x09 => some (sig_s_b_si, .spawn)
  | 0x0A => some (sig_s_b_n, .join)
  | 0x0B => some (sig_n_n_n, .next)
  | 0x0C => some (sig_s_b_nsi, .launch)
  | 0x0D => some (sig_n_ni_n, .yield)
  | 0x0E => some (sig_n_n_n, .doneJ)
  | 0x0F => some (sig_i_n_i24, .loopi)
  | _ => none

/-- FUNC of major 0x30. -/
def row30 : Nat → Option Row
  | 0x00 => some (sig_c_s_l, .send)
  | 0x01 => some (sig_s_c_l, .recv)
  | 0x02 => some (sig_s_c_n, .rprobe)
  | 0x03 => some (sig_ln_sv_n, .xmit)
  | 0x04 => some (sig_sv_n_n, .xsel)
  | 0x05 => some (sig_s_i_n, .bell)
  | 0x06 => some (sig_s_l_si, .arrive)
  | 0x07 => some (sig_s_l_s, .bwait)
  | 0x08 => some (sig_l_si_n, .binit)
  | _ => none

/-- FUNC of major 0x40. -/
def row40 : Nat → Option Row
  | 0x00 => some (sig_s_b_n, .ld .bs)
  | 0x01 => some (sig_s_b_n, .ld .bz)
  | 0x02 => some (sig_s_b_n, .ld .hs)
  | 0x03 => some (sig_s_b_n, .ld .hz)
  | 0x04 => some (sig_s_b_n, .ld .w)
  | 0x05 => some (sig_s_b_n, .ld .d)
  | 0x08 => some (sig_b_s_n, .st .b)
  | 0x09 => some (sig_b_s_n, .st .h)
  | 0x0A => some (sig_b_s_n, .st .w)
  | 0x0B => some (sig_b_s_n, .st .d)
  | 0x10 => some (sig_s_l_n, .ldl .bs)
  | 0x11 => some (sig_s_l_n, .ldl .bz)
  | 0x12 => some (sig_s_l_n, .ldl .hs)
  | 0x13 => some (sig_s_l_n, .ldl .hz)
  | 0x14 => some (sig_s_l_n, .ldl .w)
  | 0x15 => some (sig_s_l_n, .ldl .d)
  | 0x18 => some (sig_l_s_n, .stl .b)
  | 0x19 => some (sig_l_s_n, .stl .h)
  | 0x1A => some (sig_l_s_n, .stl .w)
  | 0x1B => some (sig_l_s_n, .stl .d)
  | 0x20 => some (sig_s_bl_n, .lda false)
  | 0x21 => some (sig_s_bl_n, .lda true)
  | 0x22 => some (sig_bl_s_n, .strl false)
  | 0x23 => some (sig_bl_s_n, .strl true)
  | 0x24 => some (sig_n_n_n, .fence)
  | 0x25 => some (sig_n_n_n, .lbsync)
  | 0x26 => some (sig_n_b_i, .pref)
  | 0x27 => some (sig_n_bn_n, .c1inv)
  | 0x28 => some (sig_s_s_i, .jrd)
  | _ => none

/-- FUNC of major 0x41. -/
def row41 : Nat → Option Row
  | 0x00 => some (sig_s_bl_s, .atomSwap false .rlx)
  | 0x01 => some (sig_s_bl_s, .atomAdd false .rlx)
  | 0x02 => some (sig_s_bl_s, .atomAnd false .rlx)
  | 0x03 => some (sig_s_bl_s, .atomOr false .rlx)
  | 0x04 => some (sig_s_bl_s, .atomXor false .rlx)
  | 0x05 => some (sig_s_bl_s, .atomMin false .rlx)
  | 0x06 => some (sig_s_bl_s, .atomMax false .rlx)
  | 0x07 => some (sig_s_bl_s, .atomMinn false .rlx)
  | 0x08 => some (sig_s_bl_s, .atomMaxn false .rlx)
  | 0x09 => some (sig_s_bl_n, .atomLoad false .rlx)
  | 0x0A => some (sig_n_bl_s, .atomStore false .rlx)
  | 0x10 => some (sig_s_bl_s, .atomSwap false .acq)
  | 0x11 => some (sig_s_bl_s, .atomAdd false .acq)
  | 0x12 => some (sig_s_bl_s, .atomAnd false .acq)
  | 0x13 => some (sig_s_bl_s, .atomOr false .acq)
  | 0x14 => some (sig_s_bl_s, .atomXor false .acq)
  | 0x15 => some (sig_s_bl_s, .atomMin false .acq)
  | 0x16 => some (sig_s_bl_s, .atomMax false .acq)
  | 0x17 => some (sig_s_bl_s, .atomMinn false .acq)
  | 0x18 => some (sig_s_bl_s, .atomMaxn false .acq)
  | 0x19 => some (sig_s_bl_n, .atomLoad false .acq)
  | 0x1A => some (sig_n_bl_s, .atomStore false .acq)
  | 0x20 => some (sig_s_bl_s, .atomSwap false .rel)
  | 0x21 => some (sig_s_bl_s, .atomAdd false .rel)
  | 0x22 => some (sig_s_bl_s, .atomAnd false .rel)
  | 0x23 => some (sig_s_bl_s, .atomOr false .rel)
  | 0x24 => some (sig_s_bl_s, .atomXor false .rel)
  | 0x25 => some (sig_s_bl_s, .atomMin false .rel)
  | 0x26 => some (sig_s_bl_s, .atomMax false .rel)
  | 0x27 => some (sig_s_bl_s, .atomMinn false .rel)
  | 0x28 => some (sig_s_bl_s, .atomMaxn false .rel)
  | 0x29 => some (sig_s_bl_n, .atomLoad false .rel)
  | 0x2A => some (sig_n_bl_s, .atomStore false .rel)
  | 0x30 => some (sig_s_bl_s, .atomSwap false .ar)
  | 0x31 => some (sig_s_bl_s, .atomAdd false .ar)
  | 0x32 => some (sig_s_bl_s, .atomAnd false .ar)
  | 0x33 => some (sig_s_bl_s, .atomOr false .ar)
  | 0x34 => some (sig_s_bl_s, .atomXor false .ar)
  | 0x35 => some (sig_s_bl_s, .atomMin false .ar)
  | 0x36 => some (sig_s_bl_s, .atomMax false .ar)
  | 0x37 => some (sig_s_bl_s, .atomMinn false .ar)
  | 0x38 => some (sig_s_bl_s, .atomMaxn false .ar)
  | 0x39 => some (sig_s_bl_n, .atomLoad false .ar)
  | 0x3A => some (sig_n_bl_s, .atomStore false .ar)
  | _ => none

/-- FUNC of major 0x42. -/
def row42 : Nat → Option Row
  | 0x00 => some (sig_s_bl_s, .atomSwap true .rlx)
  | 0x01 => some (sig_s_bl_s, .atomAdd true .rlx)
  | 0x02 => some (sig_s_bl_s, .atomAnd true .rlx)
  | 0x03 => some (sig_s_bl_s, .atomOr true .rlx)
  | 0x04 => some (sig_s_bl_s, .atomXor true .rlx)
  | 0x05 => some (sig_s_bl_s, .atomMin true .rlx)
  | 0x06 => some (sig_s_bl_s, .atomMax true .rlx)
  | 0x07 => some (sig_s_bl_s, .atomMinn true .rlx)
  | 0x08 => some (sig_s_bl_s, .atomMaxn true .rlx)
  | 0x09 => some (sig_s_bl_n, .atomLoad true .rlx)
  | 0x0A => some (sig_n_bl_s, .atomStore true .rlx)
  | 0x10 => some (sig_s_bl_s, .atomSwap true .acq)
  | 0x11 => some (sig_s_bl_s, .atomAdd true .acq)
  | 0x12 => some (sig_s_bl_s, .atomAnd true .acq)
  | 0x13 => some (sig_s_bl_s, .atomOr true .acq)
  | 0x14 => some (sig_s_bl_s, .atomXor true .acq)
  | 0x15 => some (sig_s_bl_s, .atomMin true .acq)
  | 0x16 => some (sig_s_bl_s, .atomMax true .acq)
  | 0x17 => some (sig_s_bl_s, .atomMinn true .acq)
  | 0x18 => some (sig_s_bl_s, .atomMaxn true .acq)
  | 0x19 => some (sig_s_bl_n, .atomLoad true .acq)
  | 0x1A => some (sig_n_bl_s, .atomStore true .acq)
  | 0x20 => some (sig_s_bl_s, .atomSwap true .rel)
  | 0x21 => some (sig_s_bl_s, .atomAdd true .rel)
  | 0x22 => some (sig_s_bl_s, .atomAnd true .rel)
  | 0x23 => some (sig_s_bl_s, .atomOr true .rel)
  | 0x24 => some (sig_s_bl_s, .atomXor true .rel)
  | 0x25 => some (sig_s_bl_s, .atomMin true .rel)
  | 0x26 => some (sig_s_bl_s, .atomMax true .rel)
  | 0x27 => some (sig_s_bl_s, .atomMinn true .rel)
  | 0x28 => some (sig_s_bl_s, .atomMaxn true .rel)
  | 0x29 => some (sig_s_bl_n, .atomLoad true .rel)
  | 0x2A => some (sig_n_bl_s, .atomStore true .rel)
  | 0x30 => some (sig_s_bl_s, .atomSwap true .ar)
  | 0x31 => some (sig_s_bl_s, .atomAdd true .ar)
  | 0x32 => some (sig_s_bl_s, .atomAnd true .ar)
  | 0x33 => some (sig_s_bl_s, .atomOr true .ar)
  | 0x34 => some (sig_s_bl_s, .atomXor true .ar)
  | 0x35 => some (sig_s_bl_s, .atomMin true .ar)
  | 0x36 => some (sig_s_bl_s, .atomMax true .ar)
  | 0x37 => some (sig_s_bl_s, .atomMinn true .ar)
  | 0x38 => some (sig_s_bl_s, .atomMaxn true .ar)
  | 0x39 => some (sig_s_bl_n, .atomLoad true .ar)
  | 0x3A => some (sig_n_bl_s, .atomStore true .ar)
  | _ => none

/-- FUNC of major 0x43. -/
def row43 : Nat → Option Row
  | 0x00 => some (sig_s_bl_s, .cas false .rlx)
  | 0x01 => some (sig_s_bl_s, .cas true .rlx)
  | 0x10 => some (sig_s_bl_s, .cas false .acq)
  | 0x11 => some (sig_s_bl_s, .cas true .acq)
  | 0x20 => some (sig_s_bl_s, .cas false .rel)
  | 0x21 => some (sig_s_bl_s, .cas true .rel)
  | 0x30 => some (sig_s_bl_s, .cas false .ar)
  | 0x31 => some (sig_s_bl_s, .cas true .ar)
  | _ => none

/-- FUNC of major 0x50. -/
def row50 : Nat → Option Row
  | 0x00 => some (sig_s_s_s, .town)
  | 0x01 => some (sig_t_si_n, .tseek)
  | 0x02 => some (sig_s_t_n, .trd)
  | 0x03 => some (sig_s_t_n, .trds)
  | 0x04 => some (sig_t_s_n, .twr)
  | 0x05 => some (sig_t_s_n, .twrs)
  | 0x06 => some (sig_t_n_n, .trew)
  | 0x07 => some (sig_s_t_n, .thead)
  | 0x08 => some (sig_t_n_n, .tsync)
  | 0x09 => some (sig_vl_t_nl, .trdv)
  | 0x0A => some (sig_t_vl_nl, .twrv)
  | _ => none

/-- FUNC of major 0x60. -/
def row60 : Nat → Option Row
  | 0x00 => some (sig_bl_bl_s, .acopy)
  | 0x01 => some (sig_blt_tbl_s, .acopyt)
  | 0x02 => some (sig_l_s_n, .swinit)
  | 0x03 => some (sig_s_l_si, .swwait)
  | 0x04 => some (sig_s_l_i, .swread)
  | 0x05 => some (sig_n_bl_si, .cbset)
  | 0x06 => some (sig_s_bl_si, .cbwait)
  | _ => none

/-- FUNC of major 0x70. -/
def row70 : Nat → Option Row
  | 0x00 => some (sig_vh_vh_vsih, .vadd)
  | 0x01 => some (sig_vh_vh_vsih, .vsub)
  | 0x02 => some (sig_vh_vh_vsih, .vmul)
  | 0x03 => some (sig_vh_vh_vsih, .vfma)
  | 0x04 => some (sig_vh_vh_vsih, .vfms)
  | 0x05 => some (sig_vh_vh_vsih, .vfnma)
  | 0x06 => some (sig_vh_vh_vsih, .vmin)
  | 0x07 => some (sig_vh_vh_vsih, .vmax)
  | 0x08 => some (sig_vh_vh_n, .vabs)
  | 0x09 => some (sig_vh_vh_n, .vneg)
  | 0x0A => some (sig_vh_vh_vsih, .vand)
  | 0x0B => some (sig_vh_vh_vsih, .vor)
  | 0x0C => some (sig_vh_vh_vsih, .vxor)
  | 0x0D => some (sig_vh_vh_vsih, .vshl)
  | 0x0E => some (sig_vh_vh_vsih, .vshr)
  | 0x0F => some (sig_vh_vh_vsih, .vsar)
  | 0x10 => some (sig_mc_v_vsi, .vcmp)
  | 0x11 => some (sig_v_v_v, .vsel)
  | 0x12 => some (sig_v_v_v, .vdot)
  | _ => none

/-- FUNC of major 0x80. -/
def row80 : Nat → Option Row
  | 0x00 => some (sig_v_blh_ns, .vld)
  | 0x01 => some (sig_blh_v_ns, .vst)
  | 0x02 => some (sig_v_bl_v, .vgath)
  | 0x03 => some (sig_bl_v_v, .vscat)
  | 0x04 => some (sig_v_siv_ni, .vbcast)
  | 0x05 => some (sig_v_v_v, .vperm)
  | 0x06 => some (sig_vh_vh_ni, .vcvt)
  | 0x07 => some (sig_v_v_n, .vcmpr)
  | 0x08 => some (sig_v_v_n, .vexpd)
  | 0x09 => some (sig_v_vh_i, .vred)
  | 0x0A => some (sig_v_v_i, .vscan)
  | 0x0B => some (sig_sv_vs_si, .vmovs)
  | 0x0C => some (sig_vh_vh_s, .vquant)
  | 0x0D => some (sig_vh_vh_s, .vdeq)
  | 0x0E => some (sig_v_v_v, .vsplt)
  | _ => none

/-- FUNC of major 0x90. -/
def row90 : Nat → Option Row
  | 0x00 => some (sig_vh_vh_n, .vrcp)
  | 0x01 => some (sig_vh_vh_n, .vrsq)
  | 0x02 => some (sig_vh_vh_n, .vexp2)
  | 0x03 => some (sig_vh_vh_n, .vlog2)
  | 0x04 => some (sig_vh_vh_n, .vtanh)
  | 0x05 => some (sig_vh_vh_n, .vsigm)
  | 0x06 => some (sig_v_vh_nv, .vhist)
  | 0x07 => some (sig_v_v_v, .vhmrg)
  | 0x08 => some (sig_v_v_ni, .vsort)
  | 0x09 => some (sig_v_v_v, .vsrch)
  | 0x0A => some (sig_v_v_n, .vclass)
  | _ => none

/-- FUNC of major 0xA0. -/
def rowA0 : Nat → Option Row
  | 0x00 => some (sig_f_f_i, .mgeo)
  | 0x01 => some (sig_a_bl_bl, .mma)
  | 0x02 => some (sig_a_n_n, .macz)
  | 0x03 => some (sig_a_bl_n, .macld)
  | 0x04 => some (sig_bl_a_nl, .macst)
  | 0x05 => some (sig_bl_a_nl, .maccv)
  | 0x06 => some (sig_a_n_n, .mchk)
  | _ => none

/-- FUNC of major 0xB0. -/
def rowB0 : Nat → Option Row
  | 0x00 => some (sig_n_l_n, .kvapp)
  | 0x01 => some (sig_s_l_l, .kvmap)
  | 0x02 => some (sig_s_l_n, .kvrel)
  | 0x03 => some (sig_s_l_si, .pxinsInsert)
  | 0x04 => some (sig_s_l_n, .pxget)
  | 0x05 => some (sig_n_l_n, .attn)
  | 0x06 => some (sig_l_l_s, .amrg)
  | 0x07 => some (sig_s_b_l, .park)
  | 0x08 => some (sig_s_b_n, .wake)
  | 0x09 => some (sig_s_b_si, .heat)
  | 0x0A => some (sig_s_b_si, .migr)
  | _ => none

/-- FUNC of major 0xC0. -/
def rowC0 : Nat → Option Row
  | 0x00 => some (sig_f_s_n, .fmtset)
  | 0x01 => some (sig_s_f_n, .fmtget)
  | 0x02 => some (sig_fn_fn_fn, .fmtp)
  | 0x03 => some (sig_n_i_n, .trap)
  | 0x04 => some (sig_n_n_n, .tret)
  | 0x05 => some (sig_s_s_i, .svc)
  | 0x06 => some (sig_s_r_n, .mfsr)
  | 0x07 => some (sig_r_si_n, .mtsr)
  | 0x08 => some (sig_s_si_n, .pwreq)
  | 0x09 => some (sig_s_i_n, .tokq)
  | 0x0A => some (sig_s_si_n, .tokres)
  | 0x0B => some (sig_s_i_n, .time)
  | 0x0C => some (sig_s_i_ni, .perf)
  | 0x0D => some (sig_s_b_s, .c2opXlat)
  | 0x0E => some (sig_n_i_n, .brk)
  | _ => none

/-- FUNC of major 0xD0. -/
def rowD0 : Nat → Option Row
  | 0x00 => some (sig_n_nl_nsi, .ewait)
  | 0x01 => some (sig_g_n_n, .eguard)
  | 0x02 => some (sig_i_s_i24, .eloop)
  | 0x03 => some (sig_n_n_i24, .ejmp)
  | 0x04 => some (sig_n_n_n, .eend)
  | _ => none

/-- The opcode map (R254, R255). A MAJOR or FUNC that it does not list has no row. -/
def rowOf (major func : Nat) : Option Row :=
  match major with
  | 0x00 => row00 func
  | 0x10 => row10 func
  | 0x20 => row20 func
  | 0x30 => row30 func
  | 0x40 => row40 func
  | 0x41 => row41 func
  | 0x42 => row42 func
  | 0x43 => row43 func
  | 0x50 => row50 func
  | 0x60 => row60 func
  | 0x70 => row70 func
  | 0x80 => row80 func
  | 0x90 => row90 func
  | 0xA0 => rowA0 func
  | 0xB0 => rowB0 func
  | 0xC0 => rowC0 func
  | 0xD0 => rowD0 func
  | _ => none

end Sys2Proof
end

