-- ==== Sys2Proof/WellFormed.lean ====
section
/-! DEFINITION. Which instructions are well formed: every operand lies in the range its field has, and is of a kind
that the form admits (spec/11_encoding_and_opcode_map.md R241 to R249). -/
namespace Sys2Proof

/-- The ranges of the payload fields (R244). `wide` is position B, whose payload has 20 bits; D and A have 16. -/
def Operand.fits (wide : Bool) : Operand → Bool
  | .none => true
  | .scalar r => r < 64
  | .vec r f => r < 32 && f < 32
  | .pred r cc => r < 16 && cc < 10
  | .mask r cc => r < 8 && cc < 10
  | .acc r f => r < 2 && f < 32
  | .track t p _ => t < 256 && p < 4
  | .slot g => g < 16
  | .fmt f => f < 32
  | .chan c => c < 16
  | .sysreg n => n < 4096
  | .la r x => r < 64 && dispFits x
  | .bo r x => r < 64 && dispFits x
  | .shape r x => r < 64 && dispFits x
  | .imm w v => if wide then (w == 20 || w == 24) && v < 2 ^ w else w == 16 && v < 2 ^ w
where
  /-- Displacements have 10 bits in D and A and 14 in B. -/
  dispFits (x : Int) : Bool :=
    if wide then -8192 ≤ x && x < 8192 else -512 ≤ x && x < 512

/-- p0 and m0 are no destinations (R246). -/
def Operand.okDest : Operand → Bool
  | .pred r _ => r != 0
  | .mask r _ => r != 0
  | _ => true

/-- An operand stands at a position: of a kind listed there, and in range. -/
def Operand.okAt (ks : List Kind) (wide : Bool) (o : Operand) : Bool :=
  ks.any (·.admits o) && o.fits wide

/-- The ranges of the prefix fields (R249). -/
def Vx.wf (v : Vx) : Bool :=
  v.mask < 8 && v.rnd < 8 && (match v.op4 with | some r => decide (r < 32) | none => true)

/-- The ranges of the hint fields (R243). -/
def Hint.wf : Hint → Bool
  | .stamp c => c < 4096
  | .plain _ _ g => g < 16

/-- A form under a signature: fields in range, operands admitted, and default prefix fields where there is none. -/
def Form.wf (g : Sig) (f : Form) : Bool :=
  f.vx.wf && (f.npfx != 0 || f.vx == Vx.default) && f.gp < 16 && f.hint.wf &&
  f.d.okAt g.d false && f.d.okDest && f.a.okAt g.a false && f.b.okAt g.b true

/-- A well-formed program instruction. An event of the device has no word and is not one. -/
def Instr.wf (i : Instr) : Bool :=
  match i.sig, i.form with
  | some g, some f => f.wf g
  | _, _ => false

end Sys2Proof
end

