-- ==== Sys2Proof/Decode.lean ====
section
/-! DEFINITION. The decoder, total on any parcels or bytes, and the encoder (spec/11_encoding_and_opcode_map.md R240 to
R257). A refusal names the failing parcel, counted from the first prefix parcel (R257). -/
namespace Sys2Proof

/-- Why bytes do not decode: the word breaks R257 at parcel `k`, or the bytes end before the word does. -/
inductive DecodeError where
  | illegal (k : Nat)
  | truncated
  deriving DecidableEq, Repr

/-- Whether a parcel is a VX prefix: bits [31:28] are 1111 (R240). -/
def isVxParcel (p : Nat) : Bool := p / 2 ^ 28 % 16 == 15

/-- The fields of a prefix parcel, or `none` for a nonzero reserved field or a reserved OP4 (R249, R257). -/
def decodeVx (p : Nat) : Option Vx :=
  let o := bits p 15 6
  let v : Vx := ⟨bits p 25 3, bit p 24, bits p 21 3, if o == 0 then none else some (o % 32), bit p 14, bit p 13⟩
  if bits p 0 13 == 0 && (o == 0 || 32 ≤ o) then some v else none

/-- The parcel of prefix fields (R249). -/
def encodeVx (v : Vx) : Nat :=
  15 * 2 ^ 28 + v.mask * 2 ^ 25 + v.mz.toNat * 2 ^ 24 + v.rnd * 2 ^ 21 +
  (match v.op4 with | none => 0 | some r => 32 + r) * 2 ^ 15 + v.shp.toNat * 2 ^ 14 + v.sat.toNat * 2 ^ 13

/-- A run of prefix parcels: how many, the last one's fields (R258) and the first that breaks R257. -/
structure PfxRun where
  count : Nat
  last  : Vx
  bad   : Option Nat
  deriving DecidableEq, Repr

/-- No prefix parcel yet. -/
def PfxRun.empty : PfxRun := ⟨0, Vx.default, none⟩

/-- The run with one more prefix parcel. -/
def PfxRun.push (r : PfxRun) (p : Nat) : PfxRun :=
  match decodeVx p with
  | some v => ⟨r.count + 1, v, r.bad⟩
  | none => ⟨r.count + 1, Vx.default, r.bad.or (some r.count)⟩

/-- The hint field (R243); a nonzero [5:0] with STMP = 0 breaks R257. -/
def decodeHint (h : Nat) : Option Hint :=
  if bit h 12 then some (.stamp (bits h 0 12))
  else if bits h 0 6 == 0 then some (.plain (bit h 11) (bit h 10) (bits h 6 4))
  else none

/-- The bits of a hint. -/
def encodeHint : Hint → Nat
  | .stamp c => 2 ^ 12 + c
  | .plain y r g => y.toNat * 2 ^ 11 + r.toNat * 2 ^ 10 + g * 2 ^ 6

/-- Bits of a displacement field: 10 in D and A, 14 in B (R244). -/
def dispBits (wide : Bool) : Nat := if wide then 14 else 10

/-- An operand of a kind code and a payload (R244, R246). -/
def decodeOperand (wide : Bool) (kind pay : Nat) : Option Operand :=
  match kind with
  | 0x0 => if pay == 0 then some .none else none
  | 0x1 => if pay < 64 then some (.scalar pay) else none
  | 0x2 => if pay < 1024 then some (.vec (pay % 32) (pay / 32)) else none
  | 0x3 => if bits pay 4 4 == 0 && pay / 256 < 10 then some (.pred (pay % 16) (pay / 256)) else none
  | 0x4 => if bits pay 3 5 == 0 && pay / 256 < 10 then some (.mask (pay % 8) (pay / 256)) else none
  | 0x5 => if pay < 64 then some (.acc (pay % 2) (pay / 2)) else none
  | 0x6 => if pay < 2048 then some (.track (pay % 256) (bits pay 8 2) (bit pay 10)) else none
  | 0x7 => if pay < 16 then some (.slot pay) else none
  | 0x8 => if pay < 32 then some (.fmt pay) else none
  | 0x9 => if pay < 16 then some (.chan pay) else none
  | 0xA => if pay < 4096 then some (.sysreg pay) else none
  | 0xB => some (.la (pay % 64) (sxInt (dispBits wide) (pay / 64)))
  | 0xC => some (.bo (pay % 64) (sxInt (dispBits wide) (pay / 64)))
  | 0xD => some (.shape (pay % 64) (sxInt (dispBits wide) (pay / 64)))
  | 0xE => some (.imm (if wide then 20 else 16) pay)
  | _ => none

/-- Kind code and payload of an operand (R244). -/
def encodeOperand (wide : Bool) : Operand → Nat × Nat
  | .none => (0x0, 0)
  | .scalar r => (0x1, r)
  | .vec r f => (0x2, r + 32 * f)
  | .pred r cc => (0x3, r + 256 * cc)
  | .mask r cc => (0x4, r + 256 * cc)
  | .acc r f => (0x5, r + 2 * f)
  | .track t p dn => (0x6, t + 256 * p + 1024 * dn.toNat)
  | .slot g => (0x7, g)
  | .fmt f => (0x8, f)
  | .chan c => (0x9, c)
  | .sysreg n => (0xA, n)
  | .la r x => (0xB, r + 64 * wrapNat (dispBits wide) x)
  | .bo r x => (0xC, r + 64 * wrapNat (dispBits wide) x)
  | .shape r x => (0xD, r + 64 * wrapNat (dispBits wide) x)
  | .imm _ v => (0xE, v)

/-- Operand D or A from its 20 bits. -/
def decodeNarrow (ks : List Kind) (x : Nat) : Option Operand :=
  (decodeOperand false (x / 2 ^ 16) (x % 2 ^ 16)).filter fun o => ks.any (·.admits o)

/-- Operand B from its 24 bits, or the I24 immediate that they are (R245). -/
def decodeWide (g : Sig) (x : Nat) : Option Operand :=
  if g.isI24 then some (.imm 24 x)
  else (decodeOperand true (x / 2 ^ 20) (x % 2 ^ 20)).filter fun o => g.b.any (·.admits o)

/-- The 20 bits of D or A. -/
def encodeNarrow (o : Operand) : Nat :=
  let (k, p) := encodeOperand false o
  k * 2 ^ 16 + p

/-- The 24 bits of B. -/
def encodeWide (g : Sig) (o : Operand) : Nat :=
  match g.isI24, o with
  | true, .imm _ v => v
  | _, o =>
    let (k, p) := encodeOperand true o
    k * 2 ^ 20 + p

/-- The instruction of three parcels after a run of prefixes, or the failing parcel (R241, R257): the lowest-addressed
one that holds a failing field. -/
def decodeWord (run : PfxRun) (p0 p1 p2 : Nat) : Except Nat Instr :=
  match run.bad with
  | some k => .error k
  | none =>
    match rowOf (bits p0 24 8) (bits p0 18 6), decodeHint (bits p0 0 13) with
    | some (g, mk), some h =>
      match decodeNarrow g.d (bits p1 12 20), decodeNarrow g.a (bits p1 0 12 * 256 + bits p2 24 8) with
      | some d, some a =>
        if d.okDest then
          match decodeWide g (bits p2 0 24) with
          | some b => .ok (mk ⟨run.count, run.last, bit p0 17, bits p0 13 4, h, d, a, b⟩)
          | none => .error (run.count + 2)
        else .error (run.count + 1)
      | _, _ => .error (run.count + 1)
    | _, _ => .error run.count

/-- The three parcels of a word (R240, R241). -/
def encodeWord (major func : Nat) (g : Sig) (f : Form) : List Nat :=
  let a := encodeNarrow f.a
  [major * 2 ^ 24 + func * 2 ^ 18 + f.gs.toNat * 2 ^ 17 + f.gp * 2 ^ 13 + encodeHint f.hint,
   encodeNarrow f.d * 2 ^ 12 + a / 256,
   a % 256 * 2 ^ 24 + encodeWide g f.b]

/-- The prefix parcels of a form: all but the last are the default prefix, since only the last applies (R258). -/
def encodePrefixes (f : Form) : List Nat :=
  match f.npfx with
  | 0 => []
  | n + 1 => List.replicate n 0xF0000000 ++ [encodeVx f.vx]

/-- The parcels of a program instruction, lowest address first; an event has none. -/
def encode (i : Instr) : Option (List Nat) :=
  match i.opcode, i.sig, i.form with
  | some (mj, fn), some g, some f => some (encodePrefixes f ++ encodeWord mj fn g f)
  | _, _, _ => none

/-- Decodes parcels, collecting prefixes first. -/
def decodeParcels (run : PfxRun) : List Nat → Except DecodeError (Instr × List Nat)
  | [] => .error .truncated
  | p :: rest =>
    if isVxParcel p then decodeParcels (run.push p) rest
    else match rest with
      | p1 :: p2 :: rest =>
        match decodeWord run p p1 p2 with
        | .ok i => .ok (i, rest)
        | .error k => .error (.illegal k)
      | _ => .error .truncated

/-- The parcels of a list of bytes, little-endian; bytes that do not fill a parcel are left out (R240). -/
def parcelsOf : List Byte → List Nat
  | b0 :: b1 :: b2 :: b3 :: rest =>
    (b0.toNat + 2 ^ 8 * b1.toNat + 2 ^ 16 * b2.toNat + 2 ^ 24 * b3.toNat) :: parcelsOf rest
  | _ => []

/-- The four bytes of a parcel, little-endian. -/
def bytesOfParcel (p : Nat) : List Byte :=
  [BitVec.ofNat 8 p, BitVec.ofNat 8 (p / 2 ^ 8), BitVec.ofNat 8 (p / 2 ^ 16), BitVec.ofNat 8 (p / 2 ^ 24)]

/-- Decodes any bytes: the first instruction, or the name of the failure. -/
def decode (bs : List Byte) : Except DecodeError Instr :=
  (decodeParcels .empty (parcelsOf bs)).map (·.1)

/-- The bytes of a program instruction. -/
def encodeBytes (i : Instr) : Option (List Byte) :=
  (encode i).map fun ps => ps.flatMap bytesOfParcel

/-- The parcels of a table word: bit 0 is the least significant bit of the first parcel. -/
def tableParcels (w : Nat) : List Nat := [w % 2 ^ 32, w / 2 ^ 32 % 2 ^ 32, w / 2 ^ 64 % 2 ^ 32, w / 2 ^ 96 % 2 ^ 32]

/-- The instruction that the decoder reads from bits numbered as spec/opcode_table.json numbers them: the first
parcel holds bits [31:0], and every bit at or above `nbits` is zero. -/
def decodeTableWord (nbits w : Nat) : Option Instr :=
  match decode ((tableParcels (w % 2 ^ nbits)).flatMap bytesOfParcel) with
  | .ok i => some i
  | .error _ => none

end Sys2Proof
end

