-- ==== Sys2Proof/Config.lean ====
section
/-! DEFINITION. What an implementation fixes and the free values that the spec leaves open. A constant without a body
is a free value: nothing in Lean can evaluate it (notes/assumptions). -/
namespace Sys2Proof.Config

/-- Fitted HBM in bytes, all of the range of R12. DESIGN CHOICE, log entry 4. -/
def hbmBytes : Nat := 0x80_0000_0000

/-- Whether expansion port `k` is trained and populated as a memory expander (R12, R450). DESIGN CHOICE, log entry 4. -/
def portPopulated (k : Nat) : Bool := k < 4

/-- Bytes behind each populated port (R12). DESIGN CHOICE, log entry 4. -/
def portBytes : Nat := 0x100_0000_0000

/-- Bytes of the flash tier (R120, R138). DESIGN CHOICE, log entry 4. -/
def flashBytes : Nat := 0x100_0000_0000

/-- A fresh word that the spec gives no value for, by the counter `State.free` (log entry 9). -/
opaque freeWord : Nat → BitVec 64

/-- Which of the allowed neighbours an FP32 special function gives, from the function's number and the operand's bits
(R363). Log entry 11. -/
opaque specialChoice : Nat → Nat → Nat

/-- The element number under which a node of a VRED, or the accumulator of an exclusive VSCAN, is rounded by RSTO, from
its step and its place there (R229, R239). Log entry 40. -/
opaque nodeElement : Nat → Nat → Nat

/-- Whether −8 in units of the scale goes to −16 rather than to 0 in the hybrid type under RNE: both codes have bit 0
clear (R226, R237). Log entry 41. -/
opaque hybridTie : Bool

/-- Reply of remote device `dev` to its `n`-th request: refused, or the data (R26, R450). Log entry 12. -/
opaque fabricReply : Nat → Nat → Option (BitVec 512)

/-- Energy of a token at island `i`, point `k`, in pJ (R434, R437). Log entry 13. -/
opaque fuseEnergy : Nat → Nat → Nat

/-- Fused voltage of island `i` at point `k`, in mV (R441). Log entry 13. -/
opaque fuseVolt : Nat → Nat → Nat

/-- Power budget of island `i` under a cap in watts, in mW (R437, R443). Log entry 13. -/
opaque islandBudget : Nat → Nat → Nat

/-- The highest point that a cap in watts allows island `i` (R442, R443). Log entry 13. -/
opaque capPoint : Nat → Nat → Nat

/-- Whether the signature of the firmware image named verifies at the boot of this number (R454). Log entry 14. -/
opaque signatureOk : Nat → Nat → Bool

/-- The version that the boot ROM measures in the image named at the boot of this number (R454). Log entry 14. -/
opaque imageVersion : Nat → Nat → Nat

/-- The signed answer to an SPDM request, by the request code and the bytes measured (R454). Log entry 14. -/
opaque spdmAnswer : Nat → List Nat → Nat

end Sys2Proof.Config
end

