-- ==== Sys2Proof/Machine/Sparse.lean ====
section
/-! DEFINITION. Sparse maps from numbers, in one canonical form: keys strictly rising, and no entry equal to what an
unlisted key reads as, where a default is given. -/
namespace Sys2Proof.Machine

/-- A map from numbers to values. -/
abbrev Assoc (α : Type) := List (Nat × α)

/-- The value at `k`, or `d` where the map lists none. -/
def Assoc.get {α : Type} (m : Assoc α) (k : Nat) (d : α) : α :=
  match m with
  | [] => d
  | (j, v) :: rest => if j == k then v else Assoc.get rest k d

/-- Whether the map lists `k`. -/
def Assoc.has {α : Type} (m : Assoc α) (k : Nat) : Bool := m.any (·.1 == k)

/-- The map without `k`. -/
def Assoc.erase {α : Type} (m : Assoc α) (k : Nat) : Assoc α :=
  match m with
  | [] => []
  | (j, v) :: rest => if j == k then Assoc.erase rest k else (j, v) :: Assoc.erase rest k

/-- `(k, v)` put before the first larger key. -/
def Assoc.insertSorted {α : Type} (m : Assoc α) (k : Nat) (v : α) : Assoc α :=
  match m with
  | [] => [(k, v)]
  | (j, w) :: rest => if k < j then (k, v) :: (j, w) :: rest else (j, w) :: Assoc.insertSorted rest k v

/-- The map with `v` at `k`. -/
def Assoc.put {α : Type} (m : Assoc α) (k : Nat) (v : α) : Assoc α := Assoc.insertSorted (Assoc.erase m k) k v

/-- The map with `v` at `k`, where `d` is what an unlisted key reads as: writing `d` removes the entry. -/
def Assoc.set {α : Type} [BEq α] (m : Assoc α) (k : Nat) (v d : α) : Assoc α :=
  if v == d then Assoc.erase m k else Assoc.put m k v

/-- The canonical form over a default. -/
def Assoc.wf {α : Type} [BEq α] (d : α) : Assoc α → Bool
  | [] => true
  | (k, v) :: rest => v != d && rest.all (fun e => k < e.1) && Assoc.wf d rest

/-- A set of numbers: strictly rising. -/
abbrev NatSet := List Nat

/-- The set with `k`. -/
def NatSet.insert (k : Nat) : NatSet → NatSet
  | [] => [k]
  | j :: rest => if k < j then k :: j :: rest else if k == j then j :: rest else j :: NatSet.insert k rest

/-- The set without `k`. -/
def NatSet.remove (k : Nat) (m : NatSet) : NatSet := m.filter (· != k)

end Sys2Proof.Machine
end

