-- ==== Sys2Proof/Machine/State.lean ====
section
/-! DEFINITION. The state of one package: everything the spec gives the machine, as plain data, and the state right
after reset. Registers hold bit vectors; counts, numbers and addresses are naturals; a map lists only what differs
from what an unlisted key reads as. INVENTORY.md lists each piece with its rule. -/
namespace Sys2Proof.Machine

/-- The party of a core that acts: a context's stream or one of the two sequencers (R181, R191). -/
inductive AgentUnit where
  | context | matrixSeq | copySeq
  deriving DecidableEq, Repr

/-- Who acts: a unit of a core on behalf of a context. -/
structure Agent where
  core : Nat
  ctx  : Nat
  unit : AgentUnit
  deriving DecidableEq, Repr

/-- The states of a context (R183). -/
inductive CtxSt where
  | free | ready | wait | sleep | stopped | drain | saved | xhold
  deriving DecidableEq, Repr

/-- The states of a guard slot (R193). -/
inductive Guard where
  | hold | run | skip
  deriving DecidableEq, Repr

/-- What holds a context's next instruction (R205, R48, R147). The numbers name the objects it waits for. -/
inductive Wait where
  /-- The answer of its own request. -/
  | reply (req : Nat)
  /-- Its earlier stores' acknowledgements (R147). -/
  | acks
  /-- A free journal entry (R318). -/
  | journal
  /-- Its access `id` on a track (R48, R470). -/
  | track (t id : Nat)
  /-- TSYNC: the track still and seated (R333). -/
  | trackStill (t : Nat)
  /-- TOWN: accepted operations on tracks `first` to `first + count - 1` (R55). -/
  | recover (first count : Nat)
  /-- LBSYNC: its loop-back accesses (R41). -/
  | loopBack
  | hwait (m : Nat)
  | recv (ch : Nat)
  | credit (core ch : Nat)
  /-- SWWAIT: the word at an offset of a core's stall past a generation (R341). -/
  | syncGen (core off gen : Nat)
  /-- CBWAIT: a bit of a word, read again at a cycle (R342). -/
  | compBit (at_ : Nat)
  /-- BWAIT until a cycle, or until the object at an offset of a core's stall has left a phase (R313); then the scalar to
  write and the bytes of the instruction. -/
  | barrier (deadline core off p d len : Nat)
  /-- BELL at a bell; then the scalar to write and the bytes of the instruction. -/
  | bell (key d len : Nat)
  /-- REALIGN at a pc until a cycle (R190). -/
  | realign (pc deadline : Nat)
  | rdv
  | sequencers
  | copies
  /-- DONE.J: every outstanding operation observed (R180). -/
  | joins
  | service (idx : Option Nat)
  | power
  /-- Requests of its own until they have been performed at their homes (R157 to R161, R321). -/
  | performed (ids : List Nat)
  /-- Loads under way until their values have arrived (R317). -/
  | loads (ids : List Nat)
  /-- XMIT and XSEL until a cycle (R198). -/
  | stamp (cycle : Nat)
  /-- LAUNCH under a quiesce of its function (R208). -/
  | quiet
  /-- A C2OP's pins (R412). -/
  | pins
  /-- A remaining issue gap until a cycle (R243). -/
  | gap (cycle : Nat)
  /-- A save under way: its group mask, whether it is forced, and the pc it will resume at where that is not the next
  instruction (R427). -/
  | save (mask : Nat) (forced : Bool)
  deriving DecidableEq, Repr

/-- A context's held instruction: what for, since when, and whether it has passed its first phase (for a lower-phase
re-issue: values it has already produced). -/
structure Block where
  wait  : Wait
  since : Nat
  phase : Nat
  deriving DecidableEq, Repr

/-- One side of a context's last fork: its program's base is kept for the slot index at a stop (R192, R298, R429). -/
structure ForkSide where
  live : Bool
  code : Nat
  slot : Nat
  base : Nat
  deriving DecidableEq, Repr

/-- A fork that its context's RDV has not observed (R192). -/
structure Fork where
  m : ForkSide
  c : ForkSide
  deriving DecidableEq, Repr

/-- A pending pre-emption request (R425): who asked, its save area, and whether that is physical (R139). -/
structure Preq where
  vf    : Nat
  area  : Nat
  phys  : Bool
  deriving DecidableEq, Repr

/-- What a shape-iterated instruction has read at its issue and keeps for its later steps: its pc, the format table and the
prefix of FMTP that it has consumed (R234, R252, R369; log entry 173). -/
structure ShapeEnt where
  pc   : Word
  ftab : Assoc FmtWord
  pfx  : Bool
  pfxh : Word
  deriving DecidableEq, Repr

/-- Where a response goes. -/
inductive Dst where
  | none
  /-- A scalar, from `bytes` bytes, sign-extended or not. -/
  | scalar (r bytes : Nat) (signed : Bool)
  /-- Lanes of `w` bits of a vector; `zero` lanes become 0 (R344). -/
  | vec (r w : Nat) (zero : List Nat)
  /-- The completion bit of a launch of a function (R216). -/
  | doneBit (vf : Nat)
  deriving DecidableEq, Repr

/-- A context (R181). -/
structure Ctx where
  st        : CtxSt
  /-- The state to return to from STOPPED or SLEEP (R432). -/
  back      : CtxSt
  pc        : Word
  /-- s1 to s63; s0 has no storage (R247). -/
  s         : Assoc Word
  v         : Assoc VWord
  /-- m1 to m7; m0 has no storage (R247). -/
  m         : Assoc MaskWord
  /-- Element (m, n) of accumulator a at 1536 a + 48 m + n (R370). -/
  acc       : Assoc (BitVec 32)
  /-- By how much the kept check sums differ from the sums of the contents: of rows at 32 a + m, of columns at
  64 + 48 a + n (R378). -/
  accSum    : Assoc (BitVec 32)
  guards    : Assoc Guard
  /-- VCNT at the GSET of each slot, the fork edge of the command it lets run (R168, R204). -/
  gvcnt     : Assoc Word
  ftab      : Assoc FmtWord
  /-- System registers by number (R402), where they differ from their reset value. -/
  sr        : Assoc Word
  /-- PMC0 to PMC7 (R410). -/
  pmc       : Assoc Word
  /-- Tokens drawn since START, in 1/1,024 token (R407). -/
  drawn     : Nat
  sigCount  : Nat
  sigKind   : Nat
  /-- The launch that the routine belongs to (R216). -/
  launch    : Option Nat
  /-- Whether the control context's routine has ended with EXIT or has not begun (R182, R288). -/
  idle      : Bool
  block     : Option Block
  /-- First cycle at which its held instruction may be tried again, and whether STAT.WARN is set when it completes
  (R205, R219, R258). -/
  tryAt     : Nat
  warnHeld  : Bool
  /-- Loads under way behind which the context has gone on issuing: the request, where its value goes and the pc of the
  instruction (R317, R321). -/
  loads     : List (Nat × Dst × Word)
  /-- What the shape-iterated instruction under way at each trap level has read at its issue (R234, R369). -/
  shapes    : Assoc ShapeEnt
  /-- STEP due after the return to level 0 (R431): object, value and bit of the report. -/
  step      : Option (Nat × Nat × Nat)
  /-- A refusal due (R420). -/
  refusal   : Bool
  preq      : Option Preq
  fork      : Option Fork
  /-- Engine operations issued and not yet observed (R171). -/
  pending   : List Nat
  /-- Cycle of its latest issue (R243). -/
  lastIssue : Nat
  deriving DecidableEq, Repr

/-- A line of C1 (R68): valid, owned and poison bits by 4-byte word. -/
structure C1Line where
  asid  : Nat
  vline : Nat
  rd    : Bool
  wr    : Bool
  ex    : Bool
  valid : Nat
  owned : Nat
  psn   : Nat
  data  : VWord
  deriving DecidableEq, Repr

/-- An entry of the home hint buffer (R77). -/
structure HintEntry where
  asid  : Nat
  vbase : Nat
  size  : Nat
  home  : Nat
  stack : Nat
  deriving DecidableEq, Repr

/-- A journal entry (R325); `state` is 1 in flight or 2 refused, and a free entry is not listed. -/
structure JEntry where
  state : Nat
  va    : Word
  data  : Word
  size  : Nat
  ctx   : Nat
  cause : Nat
  fab   : Bool
  mesh  : Bool
  rel   : Bool
  /-- Its helper has finished since (R423). -/
  orphan : Bool
  /-- The launch that the helper then finished belonged to (R423). -/
  launch : Option Nat
  /-- The routine that has ended and whose record is done once its stores are acknowledged (R176, R216), by number. -/
  owed   : Option Nat
  deriving DecidableEq, Repr

/-- What an access on a track's queue does (R331, R332, R334, R339). -/
inductive TrkAct where
  /-- A seek that found earlier accesses queued. -/
  | seek
  | read (step : Bool) (dn : Bool)
  | write (step : Bool) (dn : Bool) (data : Nat)
  /-- TRDV or TWRV of 16 tracks, led by the first. -/
  | readV | writeV (data : VWord)
  /-- A place held for a TRDV or TWRV led by another track. -/
  | member (lead : Nat)
  /-- A step of an ACOPYT. -/
  | copy (op : Nat)
  deriving DecidableEq, Repr

/-- A queued access: the port, the head that it addresses, the context charged, the engine operation it belongs to, if
any, and where the word and the context's completion go. -/
structure TrkOp where
  id   : Nat
  act  : TrkAct
  port : Nat
  head : Nat
  ctx  : Nat
  eng  : Option Nat
  dst  : Dst
  len  : Nat
  deriving DecidableEq, Repr

/-- A motion under way: positions from `from_` toward `target` since a cycle, 2 cycles each; `done` are already
charged (R47, R51). The `step` of a track operation belongs to that operation (R49). A motion that a restore of the
track's owner finds under way is `old` and seats nothing (R65). -/
structure Motion where
  from_  : Nat
  target : Nat
  since  : Nat
  done   : Nat
  ctx    : Nat
  step   : Bool
  old    : Bool
  deriving DecidableEq, Repr

/-- A probing under way since a cycle: the moves it will have made, the displacement it finds, whether it fails, and the
moves already charged (R51, R58). -/
structure Probe where
  moves : Nat
  shift : Int
  fails : Bool
  since : Nat
  done  : Nat
  deriving DecidableEq, Repr

/-- A track (R45 to R67). The physical position stands `slip` above the physical head. -/
structure Track where
  head    : Nat
  phys    : Nat
  slip    : Int
  motion  : Option Motion
  queue   : List TrkOp
  /-- Whether the head of the queue has started. -/
  started : Bool
  probe   : Option Probe
  count   : Nat
  susp    : Bool
  unseat  : Bool
  owner   : Nat
  held    : Bool
  deriving DecidableEq, Repr

/-- A level of an engine program's loop (R381, R429). -/
structure ELoop where
  rem   : Nat
  n     : Nat
  first : Nat
  step  : Int
  reg   : Nat
  deriving DecidableEq, Repr

/-- A sequencer's program (R191, R335, R372). -/
structure Seq where
  live  : Bool
  base  : Nat
  pos   : Nat
  loops : List ELoop
  regs  : Assoc Word
  snap  : Assoc FmtWord
  vcnt  : Nat
  fa    : Nat
  fb    : Nat
  edge  : Nat
  asid  : Nat
  /-- The command at `pos` is skipped by a guard (R193), or takes the valid count of its GSET. -/
  skip  : Bool
  vnext : Option Nat
  /-- Operations of this program that have not completed. -/
  ops   : List Nat
  /-- Cycle before which no command issues, and whether the gap of the command at `pos` has been served (R256). -/
  gapTo : Nat
  gapped : Bool
  deriving DecidableEq, Repr

/-- The running values of a queue's coding (R217). -/
structure QRun where
  code  : Nat
  frame : Nat
  lrec  : Nat
  arg   : Nat
  qcore : Nat
  asid  : Nat
  kind  : Nat
  deriving DecidableEq, Repr

/-- A core queue (R210, R217, R471). `owners` are the launches of its entries, oldest first. -/
structure CoreQ where
  vf       : Nat
  asid     : Nat
  base     : Nat
  logn     : Nat
  head     : Nat
  tail     : Nat
  spill    : Nat
  spHead   : Nat
  spTail   : Nat
  pushIdx  : Nat
  popIdx   : Nat
  moveIdx  : Nat
  pushRun  : QRun
  popRun   : QRun
  inRing   : Nat
  inSpill  : Nat
  owners   : List (Option Nat)
  deriving DecidableEq, Repr

/-- A core. Fields of the two sequencers belong to the context `seqOwner`. -/
structure Core where
  ctxs     : Assoc Ctx
  tracks   : Assoc Track
  /-- Track words at 1024 t + position (R43), and those with an uncorrectable error (R62). -/
  words    : Assoc (BitVec 32)
  badWords : NatSet
  c1       : List C1Line
  hints    : List HintEntry
  journal  : Assoc JEntry
  /-- System registers of which the core holds one copy (R402). -/
  sr       : Assoc Word
  queue    : Option CoreQ
  /-- In 1/1,024 token (R435). -/
  purse    : Int
  /-- Whole tokens (R408). -/
  reserve  : Nat
  /-- In 1/1,024 token (R440). -/
  hold     : Nat
  seqOwner : Option Nat
  mseq     : Seq
  cseq     : Seq
  /-- Matrix commands in the tile's queue, oldest first (R220). -/
  cmdq     : List Nat
  /-- The value of the exchange latch and its phase cycle (R200). -/
  latch    : Option (Nat × VWord)
  /-- The latest launch that placed the core, for its domains and outbound map (R196, R199). -/
  launch   : Option Nat
  /-- The exchange phase in force: domain key, arrived context and the cycle of phase cycle 0 (R197). -/
  phase    : Option (Nat × Nat × Nat)
  rqovf    : Nat
  ckill    : Nat
  dbgEn    : Bool
  /-- Stopped for debug (R432), since a cycle. -/
  stopped  : Option Nat
  /-- Context that issued last, and the cycle after that issue: a core issues once a cycle (R219). -/
  lastCtx  : Nat
  nextIssue : Nat
  /-- First cycle at which another port access may start (R48). -/
  portAt   : Nat
  ovfCount : Nat
  deriving DecidableEq, Repr

/-- A line of C2 (R71), with the slice that homes it and the word owners of R146. `pline` is its physical line address; of
a line of another device, that address under the device's number (see `remoteLine`). -/
structure C2Line where
  slice : Nat
  asid  : Nat
  vline : Nat
  pline : Nat
  rd    : Bool
  wr    : Bool
  ex    : Bool
  cls   : Nat
  home  : Nat
  dirty : Bool
  psn   : Nat
  pins  : Nat
  vf    : Nat
  core  : Nat
  ctx   : Nat
  owns  : Assoc Nat
  data  : VWord
  deriving DecidableEq, Repr

/-- What a walk finds, and a translation-cache entry (R24, R78). -/
structure Trans where
  vbase : Nat
  size  : Nat
  rd    : Bool
  wr    : Bool
  ex    : Bool
  cls   : Nat
  home  : Nat
  tier  : Nat
  base  : Nat
  dev   : Nat
  fab   : Bool
  deriving DecidableEq, Repr

/-- A cached translation of one base die. -/
structure TlbEntry where
  die  : Nat
  asid : Nat
  tr   : Trans
  deriving DecidableEq, Repr

/-- A cached pointer of one base die: the node of level `level` for the virtual addresses with a common upper part. -/
structure WalkEntry where
  die   : Nat
  asid  : Nat
  level : Nat
  upper : Nat
  node  : Nat
  deriving DecidableEq, Repr

/-- One element of an access: register lane, address, bytes, store data and the mask of the bits it writes. -/
structure Elem where
  lane : Nat
  va   : Nat
  size : Nat
  data : Nat
  mask : Nat
  deriving DecidableEq, Repr

/-- What a request does at its home (R316 to R323). -/
inductive ReqOp where
  | load
  | store
  /-- An atomic: operation number of R255 or 16 for CAS, with the operand and the expected value. -/
  | rmw (op : Nat) (b : Nat) (expect : Nat)
  | pref (c1 : Bool)
  deriving DecidableEq, Repr

/-- A request of a context under way (R72, R93). `jidx` is a posted store's journal entry; a request without one holds
its context. -/
structure Req where
  core  : Nat
  ctx   : Nat
  asid  : Nat
  op    : ReqOp
  /-- The elements still to be performed, all its elements, and the values delivered by lane. -/
  els   : List Elem
  all   : List Elem
  got   : List (Nat × Nat)
  dst   : Dst
  jidx  : Option Nat
  /-- Acts as an acquire when it completes, and as a release before it (R147). -/
  acq   : Bool
  rel   : Bool
  /-- Performed at its home. -/
  done  : Bool
  /-- Goes to the bank of a core by the mesh (R14). -/
  mesh  : Bool
  /-- Cause and value of a fault found. -/
  fault : Option (Nat × Nat)
  /-- Bytes of the instruction. -/
  len   : Nat
  deriving DecidableEq, Repr

/-- A fill outstanding (R73): its line, what the walk gave, its requester and the requests merged into it. -/
structure Fill where
  slice   : Nat
  asid    : Nat
  vline   : Nat
  tr      : Trans
  vf      : Nat
  core    : Nat
  ctx     : Nat
  waiters : List Nat
  deriving DecidableEq, Repr

/-- A sync word named by an operation: core and stall offset (R172). -/
abbrev SyncRef := Option (Nat × Nat)

/-- What an engine operation does. Addresses are as the instruction formed them. -/
inductive EngAct where
  | copy (dst src len : Nat)
  | copyTrack (toTrack : Bool) (track port : Nat) (dn all : Bool) (addr n h0 : Nat)
  | trackVec (toTrack : Bool) (track port : Nat) (la : Nat)
  /-- A matrix command: its instruction, with the addresses formed. -/
  | matrix (i : Instr) (a b d : Nat) (m n k fa fb fc : Nat) (vcnt : Nat)
  /-- A KV append: record fields as in R384. -/
  | kvapp (req : Nat) (seq head lblk slot dsel : Nat) (fk fv : FmtWord) (ala bla : Nat)
  | attn (seq head lblk nlb dsel gm1 : Nat) (fq fk fv : FmtWord) (scale ala bla : Nat)
  deriving DecidableEq, Repr

/-- A triple of one query head: m, l, o and the counts of R116, in FP32 bits. -/
structure Triple where
  m     : Nat
  l     : Nat
  o     : List Nat
  nused : Nat
  miss  : Nat
  cold  : Nat
  pois  : Nat
  deriving DecidableEq, Repr

/-- An engine operation (R140, R168 to R174). -/
structure EngOp where
  core    : Nat
  ctx     : Nat
  asid    : Nat
  act     : EngAct
  sync    : SyncRef
  /-- The sequencer it came from, if any, and the slot index of its command. -/
  unit    : AgentUnit
  slot    : Nat
  /-- Rows that run; those below `low` and those of `rowsDone` have been performed; bytes not yet counted (R173, R174). -/
  rows    : Nat
  low     : Nat
  rowsDone : NatSet
  left    : Nat
  ecode   : Nat
  /-- Generation that its latest update was counted in (R171). -/
  gen     : Nat
  started : Bool
  finished : Bool
  /-- Attention: slices still to compute, triples on their way by slice, merged triples by merge point, and how many
  each merge point still expects. -/
  slices  : List Nat
  trips   : Assoc (List Triple)
  merges  : Assoc (List Triple)
  expects : Assoc Nat
  poisonHeads : List Nat
  /-- Stall ranges of an open operand window (R178), and pinned lines: slice, ASID and line (R86). -/
  window  : List (Nat × Nat)
  pinned  : List (Nat × Nat × Nat)
  /-- What granules of the window held before stores that met them, and operands read from C2: 0 for A, 1 for B. -/
  olds    : List (Nat × VWord)
  data    : Assoc Nat
  /-- Lines that an attention unit has pinned, by slice. -/
  slicePins : Assoc (List (Nat × Nat × Nat))
  deriving DecidableEq, Repr

/-- A tile's matrix arbiter (R220): the core visited, the commands that it may still start in this visit, and the
command that runs. -/
structure Arb where
  co   : Nat
  left : Nat
  busy : Option Nat
  deriving DecidableEq, Repr

/-- A message on the mesh (R203, R305). -/
structure Msg where
  src  : Nat
  dst  : Nat
  chan : Nat
  len  : Nat
  data : Nat
  deriving DecidableEq, Repr

/-- A value on the exchange fabric (R200): receiver, phase cycle of arrival, stall offset or latch, size and value. -/
structure XVal where
  src   : Nat
  dst   : Nat
  cycle : Nat
  off   : Option Nat
  size  : Nat
  data  : Nat
  deriving DecidableEq, Repr

/-- A launch in progress (R210 to R216): the record's 1,024 bits, its function and ASID, the cores placed, the records
not yet finished, the units that wait for their bits, and the slot or gang it came from. -/
structure Launch where
  raw     : Nat
  vf      : Nat
  asid    : Nat
  cores   : List Nat
  left    : Nat
  waiting : List Nat
  slot    : Option Nat
  gang    : Option Nat
  done    : Bool
  /-- The masks of its barrier domains, by domain (R196). -/
  masks   : Assoc Nat
  deriving DecidableEq, Repr

/-- The states of a gang (R201, R218). -/
inductive GangSt where
  | pending | placed | running | draining | ended | failed
  deriving DecidableEq, Repr

/-- A gang: its members' launches in chain order and the helpers reserved, as core and context (R218). -/
structure Gang where
  vf       : Nat
  st       : GangSt
  members  : List Nat
  reserved : List (Nat × Nat)
  deriving DecidableEq, Repr

/-- A bell of a launch's domain (R196): arrivals, the cycle that the bound counts from, and the release under way. -/
structure Bell where
  arrived : List (Nat × Nat)
  since   : Option Nat
  rel     : Option Nat
  phase   : Option Nat
  deriving DecidableEq, Repr

/-- The running state of a launch queue's list (R213, R214): indexes and running values at both ends, and the launches
of its continuation entries. -/
structure LqList where
  pushIdx : Nat
  popIdx  : Nat
  pushRun : QRun
  popRun  : QRun
  owners  : List (Option Nat)
  deriving DecidableEq, Repr

/-- The running state of a time-triggered slot (R208, R209). -/
structure TtRun where
  /-- The launch still running, and the end of a queue-drain or quiesce in ns. -/
  launch   : Option Nat
  until_   : Nat
  deferred : Bool
  /-- The next table cycle that it may fire in. -/
  cycle    : Nat
  deriving DecidableEq, Repr

/-- What a move carries (R122). -/
inductive MoveKind where
  /-- A page: virtual base and size of the registered mapping. -/
  | page (asid va size : Nat)
  /-- A KV block, by its key's sequence, head and logical block. -/
  | kv (seq head lblk : Nat)
  deriving DecidableEq, Repr

/-- A move of a base die (R122 to R126): its data's old and new place with their tiers; `block` is the block of the
pool claimed for it in HBM, `park` the parked continuation and `row` the row being retired that it belongs to. A move
waits until one of the die's 16 channels is free; once its copy is done it is `closing` and holds no more stores. -/
structure Move where
  die     : Nat
  vf      : Nat
  kind    : MoveKind
  src     : Nat
  srcTier : Nat
  dst     : Nat
  dstTier : Nat
  block   : Option Nat
  park    : Option Nat
  row     : Option Nat
  started : Bool
  closing : Bool
  deriving DecidableEq, Repr

/-- A mapping registered with the migration engine (R127, R128). -/
structure RegPage where
  asid  : Nat
  va    : Nat
  size  : Nat
  cls   : Nat
  below : Nat
  deriving DecidableEq, Repr

/-- A parked continuation (R129 to R135): the physical place of its record, the record's 512 bits as the device keeps
them, the watched word, and the cycle that AGE counts from. -/
structure Park where
  pa      : Nat
  raw     : Nat
  vf      : Nat
  launch  : Option Nat
  qcore   : Nat
  wakePa  : Nat
  slice   : Nat
  state   : Nat
  since   : Nat
  /-- Blocks still to start in the present step, as head and logical block, and promotions that wait for the next scan
  (R134). -/
  todo    : List (Nat × Nat)
  waiting : List (Nat × Nat)
  /-- An earlier push found the list full (R132). -/
  pushed  : Bool
  /-- Cycles that the park had aged before `since` (R130, R139). -/
  aged    : Nat
  deriving DecidableEq, Repr

/-- How an island changes its point (R442). -/
inductive Change where
  | none
  | raise (k : Nat)
  | switch (k : Nat) (lowering : Bool)
  | slewDown (k : Nat)
  deriving DecidableEq, Repr

/-- A voltage and frequency island (R441, R442). -/
structure Island where
  point  : Nat
  change : Change
  /-- Accepted points that hold until a cycle. -/
  holds  : List (Nat × Nat)
  budget : Nat
  /-- Cycles of its own clock in 1/21 cycle (R409), and the reference cycle they were counted to. -/
  ticks  : Nat
  counted : Nat
  deriving DecidableEq, Repr

/-- A service request on a ring (R405, R449). -/
structure Svc where
  vf   : Nat
  idx  : Nat
  core : Nat
  ctx  : Nat
  /-- The reply once the doorbell has come. -/
  reply : Option Word
  deriving DecidableEq, Repr

/-- The registers of the package window (R445). -/
structure Pkg where
  devId    : Nat
  fabEn    : Nat
  keep     : Nat
  fallback : Nat
  ttEpoch  : Nat
  ttCyc    : Nat
  podBase  : Nat
  fabWin   : Assoc Nat
  errCnt   : Assoc Nat
  errLast  : Assoc Nat
  fwStat   : Nat
  fwVersion : Nat
  /-- The image that boots: 0 for the one in place, else its physical address plus one (R454). -/
  fwImage  : Nat
  therm    : Nat
  ckptSave : Nat
  ckptState : Nat
  ckptFail : Nat
  kvPool   : Assoc Nat
  /-- The model's own: each stack's descriptor when its quarter was last set up (R100). -/
  kvSet    : Assoc Nat
  heatBase : Nat
  lqBase   : Nat
  lqStatus : Nat
  ttSlot   : Assoc Nat
  sgMask   : Assoc Nat
  deriving DecidableEq, Repr

/-- The registers of a function window (R446). -/
structure Vf where
  asidTab  : Nat
  quota    : Nat
  heatCfg  : Nat
  kvLim    : Nat
  /-- POOLH, POOLC, POOLF, POOLH2, POOLC2, POOLF2: the register and the frames in the pool. -/
  pools    : Assoc Nat
  frames   : Assoc Nat
  ovfBase  : Nat
  svcRing  : Nat
  svcTail  : Nat
  killRing : Nat
  killTail : Nat
  killDrop : Nat
  preqStat : Nat
  restStat : Nat
  debug    : Nat
  resetting : Bool
  werr     : Bool
  migSkip  : Nat
  migErr   : Nat
  wakeDup  : Nat
  rqDrop   : Nat
  doneErr  : Nat
  lRefuse  : Nat
  deriving DecidableEq, Repr

/-- What a checkpoint keeps in the flash tier (R137): the bytes of HBM and of the stalls with their poison marks, the
cores with their track words, and what the device holds of structures that lie in HBM: heat counters, park records, block
counts and launch-queue lists. -/
structure Image where
  mem    : List Host.Cell
  poison : NatSet
  cores  : Assoc Core
  heat   : Assoc Nat
  parks  : Assoc Park
  kvHeld : Assoc Nat
  lq     : Assoc LqList
  deriving DecidableEq, Repr

/-- The fault reasons of this model. -/
inductive Fault where
  /-- The current agent names a core or context that the package does not have (R13, R181). Raised by every program
  instruction's meaning; safe, since no step of the machine reaches it. -/
  | noSuchAgent
  deriving DecidableEq, Repr

/-- The refusals of this model. -/
inductive Refusal where
  /-- An instruction whose meaning is not written. Raised by `exec`'s arms alone; safe. -/
  | notModelled (mnemonic : String)
  deriving DecidableEq, Repr

/-- Physical errors, which come from outside the machine (R57, R88, R376, R126). -/
inductive Env where
  | slip (core track : Nat) (by_ : Int)
  /-- An uncorrectable error in an 8-byte word of memory or a 4-byte word of stall, by physical address. -/
  | poison (pa : Nat)
  | badTrackWord (core track pos : Nat)
  /-- A corrected error of class 0 stall, 1 track or 2 HBM on a stack; in HBM, of a row (R455, R456). -/
  | corrected (stack cls row : Nat)
  /-- The next MMA of a core mismatches this many times (R376). -/
  | mmaError (core times : Nat)
  /-- An accumulator element changes without its check sums (R378). -/
  | accError (core ctx idx : Nat) (v : BitVec 32)
  /-- The destination of a move refuses a write (R126). -/
  | moveRefused (id : Nat)
  deriving DecidableEq, Repr

/-- Who moves next: an agent issues, an event of the device or the host happens, a physical error occurs, or the host reads a
window register, named by its offset (R445, R446; log entry 23). -/
inductive Turn where
  | issue (a : Agent)
  | event (e : Event)
  | env (e : Env)
  | hostRead (off : Nat)
  deriving DecidableEq, Repr

/-- The state of one package. -/
structure State where
  /-- Reference cycles of the 2.1 GHz clock since cold reset (R4). -/
  clk     : Nat
  /-- What the device clock differs from 10/21 ns a cycle by (R206, R452). -/
  nsOff   : Int
  power   : Bool
  /-- Physical bytes: HBM, the CXL tier and the stalls (R12). -/
  mem     : List Host.Cell
  /-- Poisoned words, by the address of their first byte (R88). -/
  poison  : NatSet
  /-- Bytes of the flash tier (R120). -/
  flash   : List Host.Cell
  cores   : Assoc Core
  c2      : List C2Line
  tlb     : List TlbEntry
  walks   : List WalkEntry
  /-- Blocks in the tiles' instruction caches: tile, ASID, block address and its bytes (R189). -/
  icache  : List (Nat × Nat × Nat × VWord)
  fills   : Assoc Fill
  reqs    : Assoc Req
  /-- Requests held at their homes for a pin or a full set of held stores, in arrival order (R87, R125). -/
  held    : List Nat
  /-- Parks whose wake word this step has written (R131). -/
  wakes   : List Nat
  ops     : Assoc EngOp
  msgs    : Assoc Msg
  xvals   : Assoc XVal
  heat    : Assoc Nat
  regs    : Assoc RegPage
  moves   : Assoc Move
  parks   : Assoc Park
  /-- Blocks held by each function on each stack, at 4 vf + stack (R97). -/
  kvHeld  : Assoc Nat
  /-- KVAPP operations held at the home of their key, in arrival order (R105, R106). -/
  kvWait  : List Nat
  launches : Assoc Launch
  gangs   : Assoc Gang
  bells   : Assoc Bell
  lq      : Assoc LqList
  /-- A continuation popped from a launch queue that its core's queue has no room for yet, with its launch. -/
  lqCarry : Assoc (QRun × Option Nat)
  tt      : Assoc TtRun
  islands : Assoc Island
  diePurse : Assoc Int
  overdraw : Assoc Nat
  /-- PWREQs waiting for the sample: core, context, island and point, with 16 added where the island was changing as the request
  arrived (R406, R442). -/
  pwreqs  : List (Nat × Nat × Nat × Nat)
  /-- Answered PWREQs: core, context and status. -/
  pwdone  : List (Nat × Nat × Nat)
  capW    : Nat
  capEnd  : Nat
  capLast : Nat
  /-- A newer cap and its end, which takes effect at the next grant (R443). -/
  capNext : Option (Nat × Nat)
  /-- Error counts of tiles in the present 10 ms window (R376). -/
  tileErr : Assoc Nat
  /-- Counts of the present 10 ms window by stack and class (R455), and of rows by address (R456). -/
  winErr  : Assoc Nat
  rowErr  : Assoc Nat
  /-- The matrix arbiters by tile. -/
  arbs    : Assoc Arb
  /-- Mismatches still to come on each core's matrix commands. -/
  mmaErr  : Assoc Nat
  retired : NatSet
  retFull : NatSet
  pkg     : Pkg
  vfs     : Assoc Vf
  svcs    : List Svc
  /-- MSI-X vectors raised, latest first: function and vector (R444). -/
  msix    : List (Nat × Nat)
  /-- Functions whose error counters rose in the present millisecond (R448). -/
  errRose : NatSet
  /-- The answer of the latest host read: its bytes, or none where refused (R444, R447). -/
  hostOut : Option (List Byte)
  spdm    : Nat
  /-- The image kept by a checkpoint. -/
  ckpt    : Option Image
  quiesced : Bool
  /-- The model's own: the next object's number, the count of free values drawn, the agent that acts, the turns
  scheduled from outside, and the events due, by cycle. -/
  nextId  : Nat
  free    : Nat
  cur     : Agent
  /-- The event at hand. -/
  ev      : Event
  agenda  : List Turn
  due     : List (Nat × Event)
  deriving DecidableEq, Repr

/-- No running values (R217). -/
def QRun.zero : QRun := ⟨0, 0, 0, 0, 0, 0, 0⟩

/-- A free sequencer with the geometry that FORK sets (R372). -/
def Seq.reset : Seq := ⟨false, 0, 0, [], [], [], 0xFFFFFFFF, 1, 1, 31 + 47 * 32 + 31 * 2048, 0, false, none, [], 0, false⟩

/-- A track after reset (R39, R52): head 0, owned by the control context. -/
def Track.reset : Track := ⟨0, 0, 0, none, [], false, none, 0, false, false, 0, false⟩

/-- A context after reset: context 0 in WAIT, helpers FREE (R182, R183). The registers without a reset value are zero
and the guard slots HOLD (log entry 6). -/
def Ctx.reset (c : Nat) : Ctx :=
  { st := if c == 0 then .wait else .free, back := .ready, pc := 0, s := [], v := [], m := [], acc := [], accSum := [],
    guards := [], gvcnt := [], ftab := [], sr := [], pmc := [], drawn := 0, sigCount := 0, sigKind := 0, launch := none,
    idle := true, block := none, tryAt := 0, warnHeld := false, loads := [], shapes := [], step := none, refusal := false, preq := none, fork := none,
    pending := [], lastIssue := 0 }

/-- A core after reset. The purse starts full (log entry 5). -/
def Core.reset : Core :=
  { ctxs := [], tracks := [], words := [], badWords := [], c1 := [], hints := [], journal := [], sr := [],
    queue := none, purse := 4096 * 1024, reserve := 0, hold := 0, seqOwner := none, mseq := Seq.reset,
    cseq := Seq.reset, cmdq := [], latch := none, launch := none, phase := none, rqovf := 0, ckill := 0,
    dbgEn := false, stopped := none, lastCtx := 0, nextIssue := 0, portAt := 0, ovfCount := 0 }

/-- An island after reset: at the top point (log entry 5). Islands 0 to 31 are the quadrants' layers and 32 to 35 the
base dies, whose top point is 12 (R441). -/
def Island.reset (i : Nat) : Island := ⟨if i < 32 then 15 else 12, .none, [], 0, 0, 0⟩

/-- The package window after reset (R445). -/
def Pkg.reset : Pkg :=
  { devId := 0, fabEn := 0, keep := 256, fallback := 196, ttEpoch := 0, ttCyc := 1000, podBase := 0, fabWin := [],
    errCnt := [], errLast := [], fwStat := 0, fwVersion := 0, fwImage := 0, therm := 0, ckptSave := 0, ckptState := 0, ckptFail := 0,
    kvPool := [], kvSet := [], heatBase := 0, lqBase := 0, lqStatus := 0, ttSlot := [], sgMask := [] }

/-- A function window after reset (R446): quotas 16, DEMAGE 8 and MAXM 16 (R81, R128). -/
def Vf.reset : Vf :=
  { asidTab := 0, quota := 16 + 16 * 2 ^ 5 + 16 * 2 ^ 10 + 16 * 2 ^ 15, heatCfg := 8 * 2 ^ 32 + 16 * 2 ^ 44, kvLim := 0,
    pools := [], frames := [], ovfBase := 0, svcRing := 0, svcTail := 0, killRing := 0, killTail := 0, killDrop := 0,
    preqStat := 0, restStat := 0, debug := 0, resetting := false, werr := false, migSkip := 0, migErr := 0,
    wakeDup := 0, rqDrop := 0, doneErr := 0, lRefuse := 0 }

/-- The events due after a reset, by cycle: the end of bring-up (R454), and those that recur at their first boundaries:
the grant of R437 (1 µs; after the draws of that cycle), the sample of R442 (10 µs), the scan of R128 (1 ms), and the window of R59 (10 ms). -/
def State.firstDue : List (Nat × Event) :=
  [(1, .bringUpComplete), (2101, .tokenGrant), (21000, .stallRatioSample []), (2100000, .heatHalving),
   (21000000, .shiftWindowClear)]

/-- The machine right after a cold reset, with bring-up still to end: stalls and tracks clear, registers at their reset values,
memory with nothing listed (R39, R223, R453; log entries 3 to 10). -/
def State.reset : State :=
  { clk := 0, nsOff := 0, power := true, mem := [], poison := [], flash := [], cores := [], c2 := [], tlb := [],
    walks := [], icache := [], fills := [], reqs := [], held := [], wakes := [], ops := [], msgs := [], xvals := [], heat := [], regs := [],
    moves := [], parks := [], kvHeld := [], kvWait := [], launches := [], gangs := [], bells := [], lq := [], lqCarry := [], tt := [], islands := [],
    diePurse := [], overdraw := [], pwreqs := [], pwdone := [], capW := 0, capEnd := 0, capLast := 0, capNext := none, tileErr := [],
    winErr := [], rowErr := [], arbs := [], mmaErr := [], retired := [], retFull := [], pkg := Pkg.reset, vfs := [], svcs := [],
    msix := [], errRose := [], hostOut := none, spdm := 0, ckpt := none, quiesced := false, nextId := 1, free := 0,
    cur := ⟨0, 0, .context⟩, ev := .coldReset, agenda := [], due := State.firstDue }

end Sys2Proof.Machine
end

