-- ==== Sys2Proof/Machine/Base.lean ====
section
/-! DEFINITION. Accessors of the state: cores, contexts, registers, system registers, the clock and the events due. -/
namespace Sys2Proof.Machine

/-- Field [lo + n - 1 : lo] of a word. -/
def fieldOf (w : Word) (lo n : Nat) : Nat := bits w.toNat lo n

/-- A word with a field replaced. -/
def withField (w : Word) (lo n v : Nat) : Word := BitVec.ofNat 64 (setBits w.toNat lo n v)

/-- Number of cores and of contexts of a core (R13, R181). -/
def numCores : Nat := 16384
def numCtxs : Nat := 11

/-! Core-number fields (R13). -/
def stkOf (n : Nat) : Nat := bits n 12 2
def quadOf (n : Nat) : Nat := n / 1024
def superGroupOf (n : Nat) : Nat := n / 128
def groupOf (n : Nat) : Nat := n / 32
def tileOf (n : Nat) : Nat := n / 8

/-- Core `n`. -/
def State.core (s : State) (n : Nat) : Core := s.cores.get n Core.reset

/-- The state with core `n` replaced. -/
def State.setCore (s : State) (n : Nat) (k : Core) : State := { s with cores := s.cores.put n k }

/-- Context `c` of a core. -/
def Core.ctx (k : Core) (c : Nat) : Ctx := k.ctxs.get c (Ctx.reset c)

/-- The core with context `c` replaced. -/
def Core.setCtx (k : Core) (c : Nat) (x : Ctx) : Core := { k with ctxs := k.ctxs.put c x }

/-- Context `c` of core `n`. -/
def State.ctx (s : State) (n c : Nat) : Ctx := (s.core n).ctx c

/-- The state with context `c` of core `n` replaced. -/
def State.setCtx (s : State) (n c : Nat) (x : Ctx) : State := s.setCore n ((s.core n).setCtx c x)

/-- The state with core `n` changed by `f`. -/
def State.modCore (s : State) (n : Nat) (f : Core → Core) : State := s.setCore n (f (s.core n))

/-- The state with context `c` of core `n` changed by `f`. -/
def State.modCtx (s : State) (n c : Nat) (f : Ctx → Ctx) : State := s.setCtx n c (f (s.ctx n c))

/-- The acting agent's context. -/
def State.me (s : State) : Ctx := s.ctx s.cur.core s.cur.ctx

/-- The acting agent's core. -/
def State.myCore (s : State) : Core := s.core s.cur.core

/-- The state with the acting agent's context replaced. -/
def State.setMe (s : State) (x : Ctx) : State := s.setCtx s.cur.core s.cur.ctx x

/-- The state with the acting agent's context changed. -/
def State.modMe (s : State) (f : Ctx → Ctx) : State := s.setMe (f s.me)

/-- Function window `v`. -/
def State.vf (s : State) (v : Nat) : Vf := s.vfs.get v Vf.reset

/-- The state with function window `v` changed. -/
def State.modVf (s : State) (v : Nat) (f : Vf → Vf) : State := { s with vfs := s.vfs.put v (f (s.vf v)) }

/-! The registers of a context. -/

/-- Scalar register `r`; s0 reads zero (R247). -/
def Ctx.sreg (x : Ctx) (r : Nat) : Word := if r == 0 then 0 else x.s.get r 0

/-- A write to s0 is discarded (R246, R247). -/
def Ctx.setS (x : Ctx) (r : Nat) (w : Word) : Ctx := if r == 0 then x else { x with s := x.s.set r w 0 }

/-- Vector register `r`. -/
def Ctx.vreg (x : Ctx) (r : Nat) : VWord := x.v.get r 0

def Ctx.setV (x : Ctx) (r : Nat) (w : VWord) : Ctx := { x with v := x.v.set r w 0 }

/-- Mask register `r`; m0 reads all ones (R247). -/
def Ctx.mreg (x : Ctx) (r : Nat) : MaskWord := if r == 0 then BitVec.allOnes 128 else x.m.get r 0

def Ctx.setM (x : Ctx) (r : Nat) (w : MaskWord) : Ctx := if r == 0 then x else { x with m := x.m.set r w 0 }

/-- Guard slot `g` (R193). -/
def Ctx.guard (x : Ctx) (g : Nat) : Guard := x.guards.get g .hold

def Ctx.setGuard (x : Ctx) (g : Nat) (v : Guard) : Ctx := { x with guards := x.guards.set g v .hold }

/-- The preset entries (spec/10_numbers_and_format_table.md R223); f11 to f31 reset invalid. -/
def presetEntry : Nat → FmtWord
  | 0 => 0x81C1FEF1
  | 1 => 0x8141FCF1
  | 2 => 0x81403D4B
  | 3 => 0x80C81C69
  | 4 => 0x80C03C4B
  | 5 => 0x80980001
  | 6 => 0x81180001
  | 7 => 0x81980001
  | 8 => 0x80288000
  | 9 => 0x80500425
  | 10 => 0x80180001
  | _ => 0

/-- Format entry `f` of a context's table. -/
def Ctx.fent (x : Ctx) (f : Nat) : FmtWord := x.ftab.get f (presetEntry f)

def Ctx.setFent (x : Ctx) (f : Nat) (w : FmtWord) : Ctx := { x with ftab := x.ftab.set f w (presetEntry f) }

/-- The reset value of a system register that State holds by number (R402). -/
def srReset : Nat → Word
  | 0x005 => 0xFFFFFFFF
  | 0x006 => 1
  | 0x008 => 1
  | 0x00B => 1
  | 0x035 => 4
  | _ => 0

/-- A context's system register as stored. -/
def Ctx.srGet (x : Ctx) (n : Nat) : Word := x.sr.get n (srReset n)

def Ctx.srSet (x : Ctx) (n : Nat) (w : Word) : Ctx := { x with sr := x.sr.set n w (srReset n) }

/-- A core's system register as stored. -/
def Core.srGet (k : Core) (n : Nat) : Word := k.sr.get n (srReset n)

def Core.srSet (k : Core) (n : Nat) (w : Word) : Core := { k with sr := k.sr.set n w (srReset n) }

/-! System register numbers (R402). -/
def rSTAT : Nat := 0x000
def rCTXID : Nat := 0x001
def rHPOOL : Nat := 0x004
def rVCNT : Nat := 0x005
def rFCSR : Nat := 0x006
def rRSEED : Nat := 0x007
def rPREDS : Nat := 0x008
def rSHIX : Nat := 0x009
def rPFXH : Nat := 0x00A
def rMXW : Nat := 0x00B
def rTVEC : Nat := 0x010
def rTCAUSE (n : Nat) : Nat := 0x010 + n
def rTRET (n : Nat) : Nat := 0x012 + n
def rTVAL (n : Nat) : Nat := 0x014 + n
def rPFXHn (n : Nat) : Nat := 0x016 + n
def rPREQDL : Nat := 0x019
def rLS (n : Nat) : Nat := 0x020 + n
def rLE (n : Nat) : Nat := 0x024 + n
def rLC (n : Nat) : Nat := 0x028 + n
def rLOOPST : Nat := 0x02C
def rSHCHG : Nat := 0x030
def rTCTHR : Nat := 0x035
def rTRKSEL : Nat := 0x036
def rC2FILLS : Nat := 0x040
def rC2WBS : Nat := 0x041
def rC2EVICTS : Nat := 0x042
def rC2ORPH : Nat := 0x043
def rCHCFG (n : Nat) : Nat := 0x050 + n
def rPMEV (n : Nat) : Nat := 0x060 + n

/-! Bits of STAT (R400). -/
def bWARN : Nat := 0
def bSAT : Nat := 1
def bORACE : Nat := 2
def bUNJOIN : Nat := 3
def bXEMPTY : Nat := 4
def bXCOLL : Nat := 5
def bDZE : Nat := 8
def bBTRAP : Nat := 9
def bSTEP : Nat := 10
def bPREQ : Nat := 16
def bPFX : Nat := 17

/-- A bit of STAT. -/
def Ctx.statBit (x : Ctx) (i : Nat) : Bool := bit (x.srGet rSTAT).toNat i

/-- STAT with one bit written. -/
def Ctx.setStat (x : Ctx) (i : Nat) (b : Bool) : Ctx := x.srSet rSTAT (withField (x.srGet rSTAT) i 1 b.toNat)

/-- The trap level STAT.TLVL. -/
def Ctx.tlvl (x : Ctx) : Nat := fieldOf (x.srGet rSTAT) 18 2

def Ctx.setTlvl (x : Ctx) (n : Nat) : Ctx := x.srSet rSTAT (withField (x.srGet rSTAT) 18 2 n)

/-- Predicate `p`; p0 reads true (R247, R401). -/
def Ctx.pred (x : Ctx) (p : Nat) : Bool := p == 0 || bit (x.srGet rPREDS).toNat p

/-- A write to p0 changes nothing. -/
def Ctx.setPred (x : Ctx) (p : Nat) (b : Bool) : Ctx :=
  if p == 0 then x else x.srSet rPREDS (withField (x.srGet rPREDS) p 1 b.toNat)

/-- The address space and the function of a context (R20). -/
def Ctx.asid (x : Ctx) : Nat := fieldOf (x.srGet rCTXID) 0 16
def Ctx.vf (x : Ctx) : Nat := fieldOf (x.srGet rCTXID) 10 6

/-- A context with STAT.PFX and PFXH as given. -/
def Ctx.withFmtp (x : Ctx) (pfx : Bool) (pfxh : Word) : Ctx := (x.setStat bPFX pfx).srSet rPFXH pfxh

/-- What the shape-iterated instruction at the pc keeps from its issue, where one is under way at this trap level
(R234, R369). -/
def Ctx.shapeEnt (x : Ctx) : Option ShapeEnt :=
  ((x.shapes.find? (·.1 == x.tlvl)).map (·.2)).filter fun e => e.pc == x.pc && fieldOf (x.srGet rSHIX) 0 32 != 0

/-- The context with the format table and the FMTP that such an instruction has read at its issue. -/
def Ctx.asIssued (x : Ctx) (e : ShapeEnt) : Ctx := { x.withFmtp e.pfx e.pfxh with ftab := e.ftab }

/-- The context as a save keeps it: the FMTP that a shape-iterated instruction under way has consumed stands before it again,
since the save area holds no captured entries (log entry 173). -/
def Ctx.unissued (x : Ctx) : Ctx :=
  match x.shapeEnt with
  | some e => x.withFmtp e.pfx e.pfxh
  | none => x

/-- STAT.WARN of the acting context set. -/
def State.warn (s : State) : State := s.modMe (·.setStat bWARN true)

/-- STAT.WARN of the acting context set where a condition holds. -/
def State.warnIf (s : State) (b : Bool) : State := if b then s.warn else s

/-- The acting context with scalar `r` written. -/
def State.putS (s : State) (r : Nat) (w : Word) : State := s.modMe (·.setS r w)

/-- Whether a context is live: it has a program counter and has not finished (R181, R182, R183). -/
def Ctx.live (x : Ctx) : Bool := x.st != .free && x.st != .drain && !(x.idle && x.st == .wait)

/-- Whether a helper or control context runs a routine of a launch. -/
def Core.anyLive (k : Core) : Bool := (List.range numCtxs).any fun c => (k.ctx c).live

/-! Time. -/

/-- The device clock in ns at a cycle (R206). -/
def State.nsAt (s : State) (t : Nat) : Nat := ((t * 10 / 21 : Nat) + s.nsOff : Int).toNat % 2 ^ 64

/-- The device clock (R206). -/
def State.ns (s : State) : Nat := s.nsAt s.clk

/-- The first cycle at which the device clock has reached `ns` (R206). -/
def State.cycleAt (s : State) (ns : Nat) : Nat :=
  max s.clk ((21 * ((ns : Int) - s.nsOff) + 9).toNat / 10)

/-- The cycle of the next boundary of `p` ns of the device clock; where the clock would reach none ahead of the present cycle,
as many cycles on. -/
def State.nextBoundary (s : State) (p : Nat) : Nat :=
  let t := s.cycleAt ((s.ns / p + 1) * p)
  if t ≤ s.clk then s.clk + 21 * p / 10 else t

/-- The events due with one more, after those of its cycle and before later ones. -/
def dueInsert (t : Nat) (i : Event) : List (Nat × Event) → List (Nat × Event)
  | [] => [(t, i)]
  | (u, j) :: rest => if t < u then (t, i) :: (u, j) :: rest else (u, j) :: dueInsert t i rest

/-- An event due in `d` cycles. -/
def State.later (s : State) (d : Nat) (i : Event) : State := { s with due := dueInsert (s.clk + d) i s.due }

/-- The state without an event that is due. -/
def State.cancel (s : State) (i : Event) : State := { s with due := s.due.filter (·.2 != i) }

/-- An event due `d` cycles after the next boundary of `p` ns. -/
def State.atBoundary (s : State) (p d : Nat) (i : Event) : State := s.later (s.nextBoundary p + d - s.clk) i

/-- A free value and the state that has drawn it (log entry 9). -/
def State.draw (s : State) : Word × State := (Config.freeWord s.free, { s with free := s.free + 1 })

/-- A new object's number. -/
def State.fresh (s : State) : Nat × State := (s.nextId, { s with nextId := s.nextId + 1 })

/-- An MSI-X vector raised (R444). -/
def State.raiseMsix (s : State) (vf vec : Nat) : State := { s with msix := (vf, vec) :: s.msix }

/-- A saturating count of a function window (R448). -/
def satInc64 (n : Nat) : Nat := if n + 1 < 2 ^ 64 then n + 1 else n

/-- The error vector of a function, at most once in a millisecond (R448). -/
def State.raiseErr (s : State) (vf : Nat) : State :=
  if s.errRose.contains vf then s
  else { s.raiseMsix vf 1 with errRose := NatSet.insert vf s.errRose }

/-! Soft errors (R455): classes 0 stall, 1 track, 2 HBM, 3 poisoned delivery, 4 MMA, 5 realignment. -/

/-- A packed register of six 10-bit saturating counts with count `cls` raised. -/
def bumpField (r cls : Nat) : Nat := setBits r (10 * cls) 10 (min 1023 (bits r (10 * cls) 10 + 1))

/-- Corrected events of one stack and class in a 10 ms window at which the class is reported as lasting: the reset
value of TCTHR (R59, R66). -/
def errThreshold : Nat := 4

/-- A soft error of a class counted on a stack, and reported once its window's count reaches the threshold (R455). -/
def State.countErr (s : State) (stack cls : Nat) : State :=
  let w := s.winErr.get (8 * stack + cls) 0 + 1
  let last := s.pkg.errLast.get stack 0
  { s with winErr := s.winErr.put (8 * stack + cls) w,
           pkg := { s.pkg with errCnt := s.pkg.errCnt.put stack (bumpField (s.pkg.errCnt.get stack 0) cls),
                               errLast := if w == errThreshold then s.pkg.errLast.put stack (bumpField last cls)
                                 else s.pkg.errLast } }

/-- A performance event counted `n` times by a context (R410). -/
def Ctx.count (x : Ctx) (event n : Nat) : Ctx :=
  (List.range 8).foldl (fun x k =>
    let e := x.srGet (rPMEV k)
    if fieldOf e 0 6 == event && bit e.toNat 6 then { x with pmc := x.pmc.set k (x.pmc.get k 0 + BitVec.ofNat 64 n) 0 }
    else x) x

end Sys2Proof.Machine
end

