-- ==== Sys2Proof/Machine/Phys.lean ====
section
/-! DEFINITION. Physical memory: bytes in one canonical form, the physical map (spec/01_address_spaces.md R12), the
stall (spec/02_stall_and_tracks.md R33 to R39), poison (spec/03_caches_translation_network.md R88) and the reads and
writes that are coherent with C2 (R80). -/
namespace Sys2Proof.Machine

/-- What an unlisted byte of memory reads as (log entry 3). -/
def memDefault : Byte := 0

/-- The byte at an address. -/
def memByte (m : List Host.Cell) (a : Nat) : Byte := Assoc.get m a memDefault

/-- Memory with one byte written. -/
def memSetByte (m : List Host.Cell) (a : Nat) (b : Byte) : List Host.Cell := Assoc.set m a b memDefault

/-- The canonical form: addresses strictly rising, and no entry equal to what an unlisted address reads as. -/
def memWf (m : List Host.Cell) : Bool := Assoc.wf memDefault m

/-- `n` bytes from an address, little-endian (R5). -/
def memRead (m : List Host.Cell) (a : Nat) : Nat → Nat
  | 0 => 0
  | n + 1 => (memByte m a).toNat + 256 * memRead m (a + 1) n

/-- Memory with the low `n` bytes of `v` written from an address, little-endian (R5). -/
def memWrite (m : List Host.Cell) (a : Nat) (v : Nat) : Nat → List Host.Cell
  | 0 => m
  | n + 1 => memWrite (memSetByte m a (BitVec.ofNat 8 v)) (a + 1) (v / 256) n

/-! The physical map (R12). -/
def hbmTop : Nat := 0x80_0000_0000
def cxlBase : Nat := 0x1000_0000_0000
def cxlTop : Nat := 0x1400_0000_0000
def stallBase : Nat := 0x1F00_0000_0000
def stallTop : Nat := 0x1F00_4000_0000

/-- Range tests of the map. -/
def inHbm (pa n : Nat) : Bool := pa + n ≤ hbmTop
def inCxl (pa n : Nat) : Bool := cxlBase ≤ pa && pa + n ≤ cxlTop
def inStall (pa : Nat) : Bool := stallBase ≤ pa && pa < stallTop

/-- Whether an address lies in a populated part of HBM or of the CXL tier (R12). -/
def populated (pa : Nat) : Bool :=
  pa < Config.hbmBytes ||
  (inCxl pa 1 && Config.portPopulated ((pa - cxlBase) / 0x100_0000_0000) &&
    (pa - cxlBase) % 0x100_0000_0000 < Config.portBytes)

/-- The stack whose HBM or port holds an address (R12, R75, R79). -/
def stackOfPa (pa : Nat) : Nat := if pa < hbmTop then bits pa 37 2 else (pa - cxlBase) / 0x100_0000_0000 % 4

/-- Physical address of a stall byte (R12). -/
def stallPa (core off : Nat) : Nat := stallBase + core * 65536 + off % 65536

/-- The word of a poison mark: 4 bytes in stall, 8 elsewhere (R88). -/
def poisonWord (pa : Nat) : Nat := if inStall pa then pa / 4 * 4 else pa / 8 * 8

/-- The poison marks after a write of `n` bytes: a word written whole is clear, a word written in part keeps its mark
(R88). -/
def clearPoison (p : NatSet) (pa n : Nat) : NatSet :=
  p.filter fun w => !(pa ≤ w && w + (if inStall w then 4 else 8) ≤ pa + n)

/-- Whether a read of `n` bytes delivers a poisoned word (R88). -/
def poisonedAt (p : NatSet) (pa n : Nat) : Option Nat :=
  p.find? fun w => w < pa + n && pa < w + (if inStall w then 4 else 8)

/-- The first line address beyond the physical map (R12): from here up a C2 line's address is another device's. -/
def lineTop : Nat := 2 ^ 39

/-- A line of another device as C2 records it (R71): its physical line address there, under the device's number. -/
def remoteLine (dev pa : Nat) : Nat := lineTop * (dev + 1) + pa / 64

/-- Whether a C2 line is a copy of a line of another device (R79). -/
def C2Line.remote (l : C2Line) : Bool := lineTop ≤ l.pline

/-- Whether a C2 line holds a physical address of this device. -/
def C2Line.holds (l : C2Line) (pa : Nat) : Bool := l.pline == pa / 64 && !l.remote

/-- The C2 line that holds a physical line, if any (R80). -/
def State.lineOf (s : State) (pa : Nat) : Option C2Line := s.c2.find? (·.holds pa)

/-- The byte at a physical address, coherent with C2 (R30, R80). -/
def State.physByte (s : State) (pa : Nat) : Nat :=
  match s.lineOf pa with
  | some l => bits l.data.toNat (8 * (pa % 64)) 8
  | none => (memByte s.mem pa).toNat

/-- `n` bytes at a physical address, coherent with C2. -/
def State.physRead (s : State) (pa : Nat) : Nat → Nat
  | 0 => 0
  | n + 1 => s.physByte pa + 256 * State.physRead s (pa + 1) n

/-- The parks whose wake word a write of `n` bytes touches are noted (R131). -/
def State.noteWrite (s : State) (pa n : Nat) : State :=
  { s with wakes := s.wakes ++ (s.parks.filter fun e =>
      1 ≤ e.2.state && e.2.state ≤ 7 && pa < e.2.wakePa + 8 && e.2.wakePa < pa + n).map (·.1) }

/-- Stall granules that `n` bytes touch and a range (start, length) holds. -/
def granulesIn (pa n : Nat) (r : Nat × Nat) : List Nat :=
  ((List.range ((pa + n - 1) / 64 + 1 - pa / 64)).map (pa / 64 + ·)).filter fun g => r.1 / 64 ≤ g && 64 * g < r.1 + r.2

/-- STAT.ORACE of the forking contexts whose open operand windows a store of `n` bytes meets; what its 64-byte granules
held before is kept, since the unit may have read them already (R178). -/
def State.noteOrace (s : State) (pa n : Nat) : State :=
  if n == 0 then s else
  s.ops.foldl (fun s e =>
    let gs := (e.2.window.flatMap (granulesIn pa n)).eraseDups
    if gs.isEmpty then s
    else
      let kept := gs.map fun g => (g, BitVec.ofNat 512 (memRead s.mem (64 * g) 64))
      { s.modCtx e.2.core e.2.ctx (·.setStat bORACE true) with
        ops := s.ops.put e.1 { e.2 with olds := e.2.olds ++ kept } }) s

/-- A C2 line with bytes written. -/
def C2Line.write (l : C2Line) (off n v : Nat) : C2Line :=
  let whole := (List.range 8).filter fun w => off ≤ 8 * w && 8 * w + 8 ≤ off + n
  { l with data := BitVec.ofNat 512 (setBits l.data.toNat (8 * off) (8 * n) v), dirty := true,
           psn := whole.foldl (fun p w => setBits p w 1 0) l.psn }

/-- A write within one 64-byte line at a physical address, coherent with C2: every cached copy takes it, and memory
where there is none. -/
def State.physStore (s : State) (pa n v : Nat) : State :=
  let s := (s.noteWrite pa n).noteOrace pa n
  if s.c2.any (·.holds pa) then
    { s with c2 := s.c2.map fun l => if l.holds pa then l.write (pa % 64) n v else l }
  else { s with mem := memWrite s.mem pa v n, poison := clearPoison s.poison pa n }

/-- A write of any length at a physical address, coherent with C2, line by line. -/
def State.physWrite (s : State) (pa n v : Nat) : State :=
  go s pa n v (n / 64 + 2)
where
  go (s : State) (pa n v : Nat) : Nat → State
    | 0 => s
    | fuel + 1 =>
      if n == 0 then s else
        let k := min n (64 - pa % 64)
        go (s.physStore pa k v) (pa + k) (n - k) (v / 2 ^ (8 * k)) fuel

/-- The poisoned word that a coherent read of `n` bytes would deliver, if any (R88). -/
def State.physPoison (s : State) (pa n : Nat) : Option Nat :=
  match (List.range (n / 64 + 2)).findSome? fun i =>
      match s.lineOf (pa + 64 * i) with
      | some l =>
        let base := (pa + 64 * i) / 64 * 64
        if base < pa + n then
          ((List.range 8).find? fun w => bit l.psn w && base + 8 * w < pa + n && pa < base + 8 * w + 8).map
            (base + 8 * ·)
        else none
      | none => none with
  | some w => some w
  | none => (poisonedAt s.poison pa n).filter fun w => (s.lineOf w).isNone

/-- The state with a word marked poisoned, in C2 or in memory (R88). -/
def State.setPoison (s : State) (pa : Nat) : State :=
  if s.c2.any (·.holds pa) then
    { s with c2 := s.c2.map fun l => if l.holds pa then { l with psn := setBits l.psn (pa % 64 / 8) 1 1 } else l }
  else { s with poison := NatSet.insert (poisonWord pa) s.poison }

/-! The stall of a core (R33): offsets are taken modulo 64 KiB. -/

/-- `n` bytes of a stall. -/
def State.stallRead (s : State) (core off n : Nat) : Nat := memRead s.mem (stallPa core off) n

/-- The 4-byte words of `n` bytes of a stall marked poisoned (R88). -/
def State.stallMark (s : State) (core off n : Nat) : State :=
  { s with poison := (List.range ((n + 3) / 4)).foldl (fun m i => NatSet.insert (stallPa core (off + 4 * i) / 4 * 4) m) s.poison }

/-- A store of `n` bytes into a stall, with the marks of R88 and R178. -/
def State.stallWrite (s : State) (core off n v : Nat) : State :=
  let s := s.noteOrace (stallPa core off) n
  { s with mem := memWrite s.mem (stallPa core off) v n, poison := clearPoison s.poison (stallPa core off) n }

/-- The poisoned word of a stall read, if any. -/
def State.stallPoison (s : State) (core off n : Nat) : Option Nat := poisonedAt s.poison (stallPa core off) n

/-! Cause codes (spec/18_traps_preemption_contexts.md R415). -/
def cILLEGAL : Nat := 0x01
def cADDRNC : Nat := 0x02
def cADDRRSV : Nat := 0x03
def cLAFLT : Nat := 0x04
def cMISALIGN : Nat := 0x05
def cMESHPART : Nat := 0x06
def cASIDFLT : Nat := 0x07
def cXLNP : Nat := 0x08
def cXLPERM : Nat := 0x09
def cPTEFMT : Nat := 0x0A
def cPAFLT : Nat := 0x0B
def cTIERCOLD : Nat := 0x0C
def cFABREF : Nat := 0x0D
def cPOISON : Nat := 0x0E
def cTRKOWN : Nat := 0x10
def cTRKALIGN : Nat := 0x11
def cTRKRANGE : Nat := 0x12
def cTRKECC : Nat := 0x13
def cFMTILL : Nat := 0x18
def cFMTRO : Nat := 0x19
def cFMTINV : Nat := 0x1A
def cFMTUSE : Nat := 0x1B
def cDIVZ : Nat := 0x20
def cLOOPDEPTH : Nat := 0x21
def cLOOPCNT : Nat := 0x22
def cCTXPERM : Nat := 0x23
def cSRPERM : Nat := 0x24
def cXSLOT : Nat := 0x25
def cMSGFMT : Nat := 0x26
def cCPYFMT : Nat := 0x27
def cSHPFMT : Nat := 0x28
def cQDESC : Nat := 0x29
def cKVFMT : Nat := 0x2A
def cKVREQ : Nat := 0x2B
def cSWTRAP : Nat := 0x30
def cBREAK : Nat := 0x31
def cSTEP : Nat := 0x32
def cBOVR : Nat := 0x33
def cRQOVF : Nat := 0x40
def cCKILL : Nat := 0x41
def cGANGKILL : Nat := 0x48

/-- A cause and the value for TVAL. -/
abbrev Flt := Nat × Nat

/-! Address checks at issue. -/

/-- Whether a 64-bit value is a canonical address (R9). -/
def canonical (w : Word) : Bool := bits w.toNat 55 9 == 0 || bits w.toNat 55 9 == 511

/-- A 56-bit address sign-extended (R9). -/
def extend56 (va : Nat) : Word := sxWord 56 va

/-- Start of the mesh window and of the reserved range, in 56-bit form (R11, R14). -/
def meshBase : Nat := 0xF0_0000_0000_0000
def meshTop : Nat := 0xF0_0000_4000_0000

/-- Whether function `v` holds the super-group of a core (R15). -/
def State.hasCore (s : State) (v core : Nat) : Bool := bit (s.pkg.sgMask.get v 0) (superGroupOf core)

/-- Where a base+offset address leads: translated memory, or the stall of a core at an offset. -/
inductive Place where
  | virt (va : Nat)
  | mesh (core off : Nat)
  deriving DecidableEq, Repr

/-- The at-issue checks of a base+offset access of `n` bytes aligned to `al` (R9, R11, R15, R19). -/
def State.checkVa (s : State) (vf : Nat) (w : Word) (al : Nat) : Except Flt Place :=
  let va := w.toNat % 2 ^ 56
  if !canonical w then .error (cADDRNC, w.toNat)
  else if meshTop ≤ va then .error (cADDRRSV, w.toNat)
  else if meshBase ≤ va then
    let core := (va - meshBase) / 65536
    if w.toNat % al != 0 then .error (cMISALIGN, w.toNat)
    else if s.hasCore vf core then .ok (.mesh core (va % 65536)) else .error (cMESHPART, w.toNat)
  else if w.toNat % al != 0 then .error (cMISALIGN, w.toNat)
  else .ok (.virt va)

/-- Where a local alias leads: a core of the issuing core's super-group, and an offset (R16, R17). -/
def laPlace (core la : Nat) : Option (Nat × Nat) :=
  if la < 0x10000 then some (core, la)
  else if 0x800000 ≤ la && la < 0x1000000 then some (superGroupOf core * 128 + bits la 16 7, la % 65536)
  else none

/-- The at-issue checks of a local alias of `n` bytes aligned to `al` (R16, R19): it must not leave its window. -/
def checkLa (core : Nat) (w : Word) (n al : Nat) : Except Flt (Nat × Nat) :=
  match laPlace core w.toNat with
  | none => .error (cLAFLT, w.toNat)
  | some p =>
    if w.toNat % al != 0 then .error (cMISALIGN, w.toNat)
    else if n ≠ 0 && (laPlace core (w.toNat + n - 1)).isNone then .error (cLAFLT, w.toNat)
    else .ok p

/-- A range of `n` bytes from a local alias in the super-group window may run on into the next core's stall: the
physical address of byte `i`. -/
def laPa (core la : Nat) : Nat :=
  match laPlace core la with
  | some (c, o) => stallPa c o
  | none => stallPa core la

end Sys2Proof.Machine
end

