-- ==== Sys2Proof/Machine/Cache.lean ====
section
/-! DEFINITION. Page-table walks (spec/01_address_spaces.md R20 to R31), home selection, C2, the home hints and the
near cache C1 (spec/03_caches_translation_network.md R68 to R91). -/
namespace Sys2Proof.Machine

/-- What an access needs of a page (R27). -/
inductive Need where
  | rd | wr | rw | ex
  deriving DecidableEq, Repr

/-- Whether rights cover an access (R27). -/
def Need.covered (n : Need) (rd wr ex : Bool) : Bool :=
  match n with
  | .rd => rd
  | .wr => wr
  | .rw => rd && wr
  | .ex => ex

/-- The party charged for an access: core, context and function (R83). -/
structure Who where
  core : Nat
  ctx  : Nat
  vf   : Nat
  deriving DecidableEq, Repr

/-! Walks. -/

/-- Address [44:12] of a page-table entry. -/
def pteTarget (e : Nat) : Nat := bits e 12 33 * 4096

/-- The levels of a walk: number, lowest index bit and index width (R22). -/
def walkLevels : List (Nat × Nat × Nat) := [(0, 48, 8), (1, 39, 9), (2, 30, 9), (3, 21, 9), (4, 12, 9)]

/-- The checks of R25 on a leaf of a page of `size` bytes, and what it translates to. -/
def leafOf (own : Nat) (va e size : Nat) : Except Nat Trans :=
  let t := pteTarget e
  let fab := bit e 63 && bits e 45 18 != own
  let tier := bits e 8 2
  if t % size != 0 then .error cPTEFMT
  else if bits e 6 2 == 2 && bit e 2 then .error cPTEFMT
  else if !bit e 63 && bits e 45 18 != 0 then .error cPTEFMT
  else if bit e 63 && tier != 0 then .error cPTEFMT
  else if !fab && tier == 0 && !inHbm t size then .error cPTEFMT
  else if !fab && tier == 1 && !(cxlBase ≤ t && inCxl t size) then .error cPTEFMT
  else .ok ⟨va / size * size, size, bit e 1, bit e 2, bit e 3, bits e 4 2, bits e 6 2, tier, t, bits e 45 18, fab⟩

/-- The leaf of a span whose first entry is `e` (R23): that entry alone is used, and it must be a span member. -/
def spanLeaf (own va e size : Nat) : Except Nat Trans :=
  if !bit e 0 then .error cXLNP
  else if bits e 6 2 == 3 || bits e 8 2 == 3 || bits e 10 2 != 2 then .error cPTEFMT
  else leafOf own va e size

/-- One step of a walk at a level: the entry's kind decides between a pointer, a leaf and a fault (R22 to R25).
`Sum.inl` is the next node. Of a span member that a walk meets, nothing but its V and KIND counts (R23). -/
def walkEntry (s : State) (node level idx va : Nat) : Except Nat (Nat ⊕ Trans) :=
  let own := s.pkg.devId
  let e := s.physRead (node + 8 * idx) 8
  let kind := bits e 10 2
  if level == 4 then (spanLeaf own va (s.physRead (node + 8 * (idx / 16 * 16)) 8) 0x10000).map .inr
  else if !bit e 0 then .error cXLNP
  else if kind == 2 then
    if level == 3 then (spanLeaf own va (s.physRead (node + 8 * (idx / 32 * 32)) 8) 0x4000000).map .inr else .error cPTEFMT
  else if bits e 6 2 == 3 || bits e 8 2 == 3 || kind == 3 then .error cPTEFMT
  else if kind == 0 then
    if bits e 1 9 != 0 || bit e 63 || bits e 45 18 != 0 || !inHbm (pteTarget e) 4096 then .error cPTEFMT
    else .ok (.inl (pteTarget e))
  else if level == 2 then (leafOf own va e 0x40000000).map .inr
  else if level == 3 then (leafOf own va e 0x200000).map .inr
  else .error cPTEFMT

/-- A walk from a node: the translation or the fault, and the pointers met, as level and node. -/
def walkFrom (s : State) (node va : Nat) : List (Nat × Nat × Nat) → Except Nat Trans × List (Nat × Nat)
  | [] => (.error cPTEFMT, [])
  | (level, lo, w) :: rest =>
    match walkEntry s node level (bits va lo w) va with
    | .error c => (.error c, [])
    | .ok (.inr t) => (.ok t, [])
    | .ok (.inl n) =>
      let (r, ps) := walkFrom s n va rest
      (r, (level + 1, n) :: ps)

/-- The root of an address space, or its fault (R21). -/
def State.rootOf (s : State) (asid : Nat) : Except Nat Nat :=
  let tab := bits (s.vf (asid / 1024)).asidTab 12 33 * 4096
  if !inHbm tab 8192 then .error cASIDFLT
  else
    let d := s.physRead (tab + 8 * (asid % 1024)) 8
    if !bit d 0 then .error cASIDFLT
    else if bits d 1 11 != 0 || bits d 45 19 != 0 || !inHbm (pteTarget d) 4096 then .error cPTEFMT
    else .ok (pteTarget d)

/-- The lowest address bit of the part of an address that a node of a level stands for. -/
def nodeShift (level : Nat) : Nat := 57 - 9 * level

/-- The first `n` entries of one base die and all those of the others: each die's cache has a size of its own (R78). -/
def capDie {α : Type} (die : α → Nat) (d : Nat) : Nat → List α → List α
  | _, [] => []
  | n, e :: es =>
    if die e != d then e :: capDie die d n es
    else match n with
      | 0 => capDie die d 0 es
      | n + 1 => e :: capDie die d n es

/-- Translation at a base die: its translation cache, then a walk that starts at the deepest cached pointer (R78). The
state keeps what the walk found; the last component is the cycles that the walk added (R93). -/
def State.translate (s : State) (die asid va : Nat) : Except Nat Trans × State × Nat :=
  match s.tlb.find? fun t => t.die == die && t.asid == asid && t.tr.vbase ≤ va && va < t.tr.vbase + t.tr.size with
  | some t => (.ok t.tr, { s with tlb := t :: s.tlb.erase t }, 0)
  | none =>
    match s.rootOf asid with
    | .error c => (.error c, s, 220)
    | .ok root =>
      let cached := [4, 3, 2, 1].findSome? fun l =>
        s.walks.find? fun w => w.die == die && w.asid == asid && w.level == l && w.upper == va / 2 ^ nodeShift l
      let (from_, level) := match cached with
        | some w => (w.node, w.level)
        | none => (root, 0)
      let (r, ps) := walkFrom s from_ va (walkLevels.drop level)
      let ws := ps.map fun p => ⟨die, asid, p.1, va / 2 ^ nodeShift p.1, p.2⟩
      let s := { s with walks := capDie (·.die) die 1024 (ws.reverse ++ s.walks) }
      let lat := 220 * (ps.length + 1)
      match r with
      | .error c => (.error c, s, lat)
      | .ok t => (.ok t, { s with tlb := capDie (·.die) die 8192 (⟨die, asid, t⟩ :: s.tlb) }, lat)

/-- The checks that follow a translation (R12, R27, R120). -/
def transFault (t : Trans) (need : Need) (va : Nat) : Option Nat :=
  if !need.covered t.rd t.wr t.ex then some cXLPERM
  else if t.fab then none
  else if t.tier == 2 then some cTIERCOLD
  else if !populated (t.base + (va - t.vbase)) then some cPAFLT
  else none

/-- Physical address of a virtual address under a translation. -/
def Trans.pa (t : Trans) (va : Nat) : Nat := t.base + (va - t.vbase)

/-! Homes. -/

/-- The fold of R74 over a line number and an ASID. -/
def foldS (asid vline : Nat) : Nat :=
  let b (i : Nat) : Nat := vline / 256 ^ i % 256
  ((b 0).xor (b 1) |>.xor (b 2) |>.xor (b 3) |>.xor (b 4) |>.xor (b 5) |>.xor (b 6)).xor (asid % 256) |>.xor
    (asid / 256 % 256)

/-- The set of a line within its slice (R74). -/
def setOf (asid vline : Nat) : Nat := (vline / 256 % 2 ^ 24).xor asid % 1536

/-- A slice's number in the package, from its stack and its number there. -/
def sliceNo (stack n : Nat) : Nat := stack * 64 + n

/-- The home of a line under a HOME value (R75, R76): `stack` is the stack whose HBM holds the page. -/
def homeSlice (home stack core asid vline : Nat) : Nat :=
  let f := foldS asid vline
  match home with
  | 1 => sliceNo stack (f % 64)
  | 2 => sliceNo (stkOf core) (bits core 10 2 * 16 + f % 16)
  | _ => sliceNo (f / 64) (f % 64)

/-- HOME as it applies to a page: 01 outside local HBM acts as 00 (R76). -/
def effHome (t : Trans) : Nat := if t.home == 1 && (t.fab || t.tier != 0) then 0 else t.home

/-- The home slice under a translation. -/
def Trans.slice (t : Trans) (core asid va : Nat) : Nat :=
  homeSlice (effHome t) (stackOfPa (t.pa va)) core asid (va / 64)

/-- The hint of a page, if the core's buffer holds one (R77). -/
def Core.hint (k : Core) (asid va : Nat) : Option HintEntry :=
  k.hints.find? fun h => h.asid == asid && h.vbase ≤ va && va < h.vbase + h.size

/-- The core with the hint of a translation, 32 entries (R77). -/
def Core.addHint (k : Core) (asid : Nat) (t : Trans) : Core :=
  let h : HintEntry := ⟨asid, t.vbase, t.size, effHome t, stackOfPa t.base⟩
  { k with hints := (h :: k.hints.filter (fun g => !(g.asid == asid && g.vbase == t.vbase && g.size == t.size))).take 32 }

/-! C2. -/

/-- A line of a slice by its tag. -/
def State.c2Line (s : State) (slice asid vline : Nat) : Option C2Line :=
  s.c2.find? fun l => l.slice == slice && l.asid == asid && l.vline == vline

/-- Whether two entries are the same line. -/
def C2Line.same (l m : C2Line) : Bool := l.slice == m.slice && l.asid == m.asid && l.vline == m.vline

/-- The state with a line rewritten and made the most recently used (R82). -/
def State.touchLine (s : State) (l : C2Line) : State := { s with c2 := l :: s.c2.filter (!·.same l) }

/-- The state with a line rewritten in place. -/
def State.setLine (s : State) (l : C2Line) : State := { s with c2 := s.c2.map fun m => if m.same l then l else m }

/-- Every C1 copy of a line dropped (R70); the copies of a replicated line lie beneath its slice's quadrant (R75). -/
def State.dropC1 (s : State) (l : C2Line) : State :=
  { s with cores := s.cores.map fun e =>
      if l.home == 2 && quadOf e.1 != l.slice / 16 then e
      else (e.1, { e.2 with c1 := e.2.c1.filter fun c => !(c.asid == l.asid && c.vline == l.vline) }) }

/-- A cost in 1/1,024 token drawn from the purse of a base die (R84, R435). -/
def State.payDie (s : State) (die cost : Nat) : State :=
  let p := s.diePurse.get die (1048576 * 1024)
  { s with diePurse := s.diePurse.put die (p - cost) }

/-- Cost of moving a line of memory (R435). -/
def lineCost (pa : Nat) : Nat := if pa < hbmTop then 768 else 1536

/-- A write-back charged to its line's owner, or to the core's C2ORPH where the slot holds no live context (R84,
R85). -/
def State.chargeWb (s : State) (l : C2Line) : State :=
  let x := s.ctx l.core l.ctx
  if x.live && x.st != .saved && x.vf == l.vf then
    s.setCtx l.core l.ctx (x.srSet rC2WBS (x.srGet rC2WBS + 1))
  else s.modCore l.core fun k => k.srSet rC2ORPH (k.srGet rC2ORPH + 1)

/-- A line's data and marks written to memory. -/
def State.storeBack (s : State) (l : C2Line) : State :=
  let pa := l.pline * 64
  let p := (List.range 8).foldl (fun p w =>
    if bit l.psn w then NatSet.insert (pa + 8 * w) p else NatSet.remove (pa + 8 * w) p) s.poison
  { s with mem := memWrite s.mem pa l.data.toNat 64, poison := p }

/-- A dirty line written back, with its charges (R84); a clean line changes nothing. -/
def State.writeBack (s : State) (l : C2Line) : State :=
  if l.dirty then ((s.storeBack l).chargeWb l).payDie (l.slice / 64) (lineCost (l.pline * 64)) else s

/-- A line removed: C1 copies first (R70), then its write-back. -/
def State.evict (s : State) (l : C2Line) : State :=
  let s := (s.dropC1 l).writeBack l
  { s with c2 := s.c2.filter (!·.same l) }

/-- The quota of a function for a class (R81). -/
def State.quotaOf (s : State) (vf cls : Nat) : Nat := bits (s.vf vf).quota (5 * cls) 5

/-- How a fill of (vf, class) takes a way of a set: `some none` an invalid way, `some (some l)` a victim, `none` no way
(R81, R82). Lines are listed most recently used first. -/
def State.victim (s : State) (slice asid vline vf cls : Nat) : Option (Option C2Line) :=
  let set := s.c2.filter fun l => l.slice == slice && setOf l.asid l.vline == setOf asid vline
  let mine := set.filter fun l => l.vf == vf && l.cls == cls
  let held (l : C2Line) := (set.filter fun m => m.vf == l.vf && m.cls == l.cls).length
  let last (ls : List C2Line) := (ls.filter (·.pins == 0)).getLast?
  if s.quotaOf vf cls == 0 then none
  else if set.length < 16 then some none
  else if s.quotaOf vf cls ≤ mine.length then (last mine).map some
  else
    let surplus := set.filter fun l => s.quotaOf l.vf l.cls < held l
    if surplus.isEmpty then (last set).map some else (last surplus).map some

/-- The old lines that hold a physical line under another tag, which a fill must remove first (R80): of a replicated page
one in each quadrant that has read it (R76). -/
def State.remapOf (s : State) (pline asid vline : Nat) : List C2Line :=
  s.c2.filter fun l => l.pline == pline && !(l.asid == asid && l.vline == vline)

/-- A counter of a context raised. -/
def State.countSr (s : State) (core ctx n : Nat) : State :=
  s.modCtx core ctx fun x => x.srSet n (x.srGet n + 1)

/-- The line address of a line under a translation, as C2 records it (R71). -/
def Trans.pline (t : Trans) (va : Nat) : Nat :=
  if t.fab then remoteLine t.dev (t.pa (va / 64 * 64)) else t.pa (va / 64 * 64) / 64

/-- Whether a base die's purse covers a cost (R436). -/
def State.dieCanPay (s : State) (die : Nat) (cost : Int) : Bool := cost ≤ s.diePurse.get die (1048576 * 1024)

/-- What writing a line back draws from its die's purse. -/
def C2Line.backCost (l : C2Line) (die : Nat) : Nat := if l.dirty && l.slice / 64 == die then lineCost (l.pline * 64) else 0

/-- Whether a write-back can be paid now (R436). -/
def State.canWriteBack (s : State) (l : C2Line) : Bool := s.dieCanPay (l.slice / 64) (l.backCost (l.slice / 64))

/-- Whether a fill has to wait: for a pin on an old line (R80), or for tokens of a base die that it or a write-back before it
draws on (R436). -/
def State.fillWaits (s : State) (slice asid va vf : Nat) (t : Trans) : Bool :=
  let old := if t.fab then [] else s.remapOf (t.pline va) asid (va / 64)
  let gone := match s.victim slice asid (va / 64) vf t.cls with
    | some (some l) => l :: old
    | _ => old
  old.any (·.pins != 0) || (List.range 4).any fun die =>
    !s.dieCanPay die ((gone.foldl (fun n l => n + l.backCost die) 0) +
      (if slice / 64 == die then lineCost (t.pline va * 64) else 0) : Nat)

/-- Fills a line into its home: remap, victim, and the charges of R83 and R84; `data` is a remote device's line. The line is
not kept where no way is free for it (R82), or where a pin holds an old copy. -/
def State.fillLine (s : State) (slice : Nat) (who : Who) (asid va : Nat) (t : Trans) (data : Option VWord) : State :=
  let pline := t.pline va
  let old := if t.fab then [] else s.remapOf pline asid (va / 64)
  if old.any (·.pins != 0) then s else
  let s := old.foldl (·.evict ·) s
  match s.victim slice asid (va / 64) who.vf t.cls with
  | none => s
  | some v =>
    let s := match v with
      | some l => (s.evict l).countSr who.core who.ctx rC2EVICTS
      | none => s
    let psn := if t.fab then 0 else
      (List.range 8).foldl (fun p w => setBits p w 1 (s.poison.contains (pline * 64 + 8 * w)).toNat) 0
    let d := data.getD (BitVec.ofNat 512 (memRead s.mem (pline * 64) 64))
    let l : C2Line := ⟨slice, asid, va / 64, pline, t.rd, t.wr, t.ex, t.cls,
      effHome t, false, psn, 0, who.vf, who.core, who.ctx, [], d⟩
    ({ s with c2 := l :: s.c2 }.countSr who.core who.ctx rC2FILLS).payDie (slice / 64) (lineCost (pline * 64))

/-- The entry of a page in a heat table at an address: the pages of HBM stand first, those of the CXL tier behind them (R91;
log entry 103). -/
def heatSlot (base page : Nat) : Nat :=
  base + 4 * (if page < hbmTop / 65536 then page else hbmTop / 65536 + (page - cxlBase / 65536))

/-- A page's heat counter and its entry in the table that the host has placed in HBM (R91; log entry 103). -/
def State.setHeat (s : State) (page h : Nat) : State :=
  let s := { s with heat := s.heat.set page h 0 }
  let a := heatSlot s.pkg.heatBase page
  if s.pkg.heatBase != 0 && inHbm a 4 then s.physWrite a 4 h else s

/-- An access that reaches C2 adds one to its page's heat, saturating (R90). -/
def State.addHeat (s : State) (pa : Nat) : State := s.setHeat (pa / 65536) (min 0xFFFF (s.heat.get (pa / 65536) 0 + 1))

/-- Where an access of a line is served: a C2 line, memory at a physical address, or a remote device. -/
inductive Loc where
  | line (slice vline : Nat)
  | phys (pa : Nat)
  | fabric (dev pa : Nat)
  deriving DecidableEq, Repr

/-- What the home finds for an access before any fill: a hit with covering rights, a miss with its translation, or a
fault. The state keeps hints, walks and updated rights (R72, R77, R78); the cycles are those of walks and forwards. -/
inductive Found where
  | hit (l : C2Line)
  | miss (slice : Nat) (t : Trans)
  | fault (c : Nat)
  deriving DecidableEq, Repr

/-- Looks up an access at its home (R72 to R78). -/
def State.findHome (s : State) (core asid va : Nat) (need : Need) : Found × State × Nat :=
  let vline := va / 64
  let first := match (s.core core).hint asid va with
    | some h => homeSlice h.home h.stack core asid vline
    | none => homeSlice 0 0 core asid vline
  match (s.c2Line first asid vline).filter fun l => need.covered l.rd l.wr l.ex with
  | some l => (.hit l, s.touchLine l, 0)
  | none =>
    match s.translate (first / 64) asid va with
    | (.error c, s, lat) => (.fault c, s, lat)
    | (.ok t, s, lat) =>
      let s := s.modCore core (·.addHint asid t)
      match transFault t need va with
      | some c => (.fault c, s, lat)
      | none =>
        let slice := t.slice core asid va
        let lat := if slice == first then lat else lat + 44
        match s.c2Line slice asid vline with
        | some l =>
          let l := { l with rd := t.rd, wr := t.wr, ex := t.ex }
          (.hit l, s.touchLine l, lat)
        | none => (.miss slice t, s, lat)

/-- Whether lines of a page are kept in C1 and C2 (R79). -/
def Trans.cacheable (t : Trans) (va : Nat) : Bool := !t.fab || (t.home == 2 && !inStall (t.pa va))

/-- Whether an access writes. -/
def Need.writes : Need → Bool
  | .wr => true
  | .rw => true
  | _ => false

/-- A remote device's answer to a read: the value, or FABREF (log entry 12). -/
def State.fabricRead (s : State) (dev n : Nat) : Except Nat Nat × State :=
  let s' := { s with free := s.free + 1 }
  match Config.fabricReply dev s.free with
  | some d => (.ok (d.toNat % 2 ^ (8 * n)), s')
  | none => (.error cFABREF, s')

/-- Who a fill of a line is charged to: the requester of the fill outstanding, if one is (R73). -/
def State.filler (s : State) (slice : Nat) (who : Who) (asid vline : Nat) : Who :=
  match s.fills.find? fun f => f.2.slice == slice && f.2.asid == asid && f.2.vline == vline with
  | some (_, f) => ⟨f.core, f.ctx, f.vf⟩
  | none => who

/-- A whole access path at once, for the device's own work and for instructions that wait for their accesses: finds the
line, fills it on a miss, and says where the access is served. A line of a remote device is filled for a read alone (R79). -/
def State.homeLoc (s : State) (who : Who) (asid va : Nat) (need : Need) : Except Nat Loc × State :=
  match s.findHome who.core asid va need with
  | (.fault c, s, _) => (.error c, s)
  | (.hit l, s, _) =>
    if !l.remote then (.ok (.line l.slice l.vline), s.addHeat (l.pline * 64))
    else if need.writes then (.ok (.fabric (l.pline / lineTop - 1) (l.pline % lineTop * 64 + va % 64)), s)
    else (.ok (.line l.slice l.vline), s)
  | (.miss slice t, s, _) =>
    let who := s.filler slice who asid (va / 64)
    if !t.fab then
      let s := (s.addHeat (t.pa va)).fillLine slice who asid va t none
      (.ok (if (s.c2Line slice asid (va / 64)).isSome then .line slice (va / 64) else .phys (t.pa va)), s)
    else if need.writes || !t.cacheable va then (.ok (.fabric t.dev (t.pa va)), s)
    else match s.fabricRead t.dev 64 with
      | (.error c, s) => (.error c, s)
      | (.ok d, s) =>
        let s := s.fillLine slice who asid va t (some (BitVec.ofNat 512 d))
        (.ok (if (s.c2Line slice asid (va / 64)).isSome then .line slice (va / 64) else .fabric t.dev (t.pa va)), s)

/-- Reads `n` bytes within a line at a location; the second value is the poisoned word met, by virtual offset. -/
def State.locRead (s : State) (asid : Nat) (l : Loc) (va n : Nat) : Except Nat (Nat × Bool) × State :=
  match l with
  | .line slice vline =>
    match s.c2Line slice asid vline with
    | some c => (.ok (bits c.data.toNat (8 * (va % 64)) (8 * n),
        (List.range 8).any fun w => bit c.psn w && 8 * w < va % 64 + n && va % 64 < 8 * w + 8), s)
    | none => (.ok (0, false), s)
  | .phys pa => (.ok (s.physRead pa n, (s.physPoison pa n).isSome), s)
  | .fabric dev _ =>
    match s.fabricRead dev n with
    | (.ok v, s) => (.ok (v, false), s)
    | (.error c, s) => (.error c, s)

/-- The words of a line that an access touches. -/
def wordsOf (va n : Nat) : List Nat := (List.range 16).filter fun w => 4 * w < va % 64 + n && va % 64 < 4 * w + 4

/-- Revokes a core's ownership of words of a line (R146). -/
def State.revoke (s : State) (core asid vline : Nat) (ws : List Nat) : State :=
  s.modCore core fun k => { k with c1 := k.c1.map fun c =>
    if c.asid == asid && c.vline == vline then
      { c with valid := ws.foldl (fun v w => setBits v w 1 0) c.valid,
               owned := ws.foldl (fun v w => setBits v w 1 0) c.owned }
    else c }

/-- Performs a store of `n` bytes at a location for a core (R146, R155): the previous owners are revoked first, then the
home records the storing core. -/
def State.locWrite (s : State) (core asid : Nat) (l : Loc) (va n v : Nat) : Except Nat State :=
  match l with
  | .line slice vline =>
    match s.c2Line slice asid vline with
    | some c =>
      let ws := wordsOf va n
      let s := ws.foldl (fun s w =>
        match c.owns.find? (·.1 == w) with
        | some (_, o) => if o == core then s else s.revoke o asid vline [w]
        | none => s) s
      let owns := ws.foldl (fun m w => Assoc.put m w core) c.owns
      let s := s.setLine { c.write (va % 64) n v with owns := owns }
      .ok ((s.noteWrite (c.pline * 64 + va % 64) n).noteOrace (c.pline * 64 + va % 64) n)
    | none => .ok s
  | .phys pa => .ok (s.physStore pa n v)
  | .fabric dev _ =>
    match s.fabricRead dev n with
    | (.ok _, s) => .ok s
    | (.error c, _) => .error c

/-- A location `i` bytes on, within its line. -/
def Loc.at_ (l : Loc) (i : Nat) : Loc :=
  match l with
  | .phys pa => .phys (pa + i)
  | l => l

/-- The 8-byte word at a location marked poisoned (R88); a remote device keeps its own marks. -/
def State.locMark (s : State) (asid : Nat) (l : Loc) (va : Nat) : State :=
  match l with
  | .line slice vline =>
    match s.c2Line slice asid vline with
    | some c => s.setLine { c with psn := setBits c.psn (va % 64 / 8) 1 1 }
    | none => s
  | .phys pa => s.setPoison pa
  | .fabric _ _ => s

/-! What an access does to the value at its home. -/

/-- The new value of a read-modify-write of `w` bits (R321): 0 SWAP, 1 ADD, 2 AND, 3 OR, 4 XOR, 5 MIN, 6 MAX, 7 MINN,
8 MAXN, 9 LOAD, 10 STORE, 16 CAS; `none` writes nothing. -/
def rmwNew (op w old b expect : Nat) : Option Nat :=
  let b := b % 2 ^ w
  match op with
  | 0 => some b
  | 1 => some ((old + b) % 2 ^ w)
  | 2 => some (old.land b)
  | 3 => some (old.lor b)
  | 4 => some (old.xor b)
  | 5 => some (if sxInt w old ≤ sxInt w b then old else b)
  | 6 => some (if sxInt w old ≤ sxInt w b then b else old)
  | 7 => some (min old b)
  | 8 => some (max old b)
  | 9 => none
  | 10 => some b
  | _ => if old == expect % 2 ^ w then some b else none

/-- Whether an operation is a prefetch. -/
def ReqOp.isPref : ReqOp → Bool
  | .pref _ => true
  | _ => false

/-- The right that an operation needs (R27). -/
def ReqOp.need : ReqOp → Need
  | .load => .rd
  | .store => .wr
  | .rmw _ _ _ => .rw
  | .pref _ => .rd

/-- Whether an operation writes, and whether it delivers a value to a register. -/
def ReqOp.writes : ReqOp → Bool
  | .store => true
  | .rmw op _ _ => op != 9
  | _ => false
def ReqOp.reads : ReqOp → Bool
  | .load => true
  | .rmw op _ _ => op != 10
  | _ => false

/-- Whether the value that an operation writes is made from the old one. -/
def ReqOp.mixes : ReqOp → Bool
  | .rmw op _ _ => op != 0 && op != 10
  | _ => false

/-- The value that an operation leaves over an old value of `n` bytes, if it writes (R321, R353). -/
def ReqOp.result (op : ReqOp) (e : Elem) (old : Nat) : Option Nat :=
  match op with
  | .store => some (old.land ((2 ^ (8 * e.size) - 1).xor e.mask) |>.lor (e.data.land e.mask))
  | .rmw k b x => rmwNew k (8 * e.size) old b x
  | _ => none

/-- The part of a loaded value that an element takes: a nibble where its mask names one. -/
def Elem.pick (e : Elem) (v : Nat) : Nat :=
  if e.size == 1 && e.mask == 0xF0 then v / 16 else if e.size == 1 && e.mask == 0xF then v % 16 else v

/-! Held stores. -/

/-- The move in its copy phase that covers a virtual address and holds the stores to it (R125); a page that leaves flash
holds none, since its accesses raise TIERCOLD until the switch (R126). -/
def State.moveOver (s : State) (asid va : Nat) : Option (Nat × Move) :=
  s.moves.find? fun m => m.2.started && !m.2.closing && m.2.srcTier != 2 && match m.2.kind with
    | .page a v size => a == asid && v ≤ va && va < v + size
    | .kv _ _ _ => false

/-- A line's value with the stores over it that the home holds for a move, in arrival order (R125). -/
def State.overlayLine (s : State) (asid vline v : Nat) : Nat :=
  s.held.foldl (fun v id =>
    match s.reqs.find? (·.1 == id) with
    | some (_, r) =>
      if r.asid == asid then r.els.foldl (fun v e =>
        if e.va / 64 == vline && (s.moveOver asid e.va).isSome then
          match r.op.result e (bits v (8 * (e.va % 64)) (8 * e.size)) with
          | some w => setBits v (8 * (e.va % 64)) (8 * e.size) w
          | none => v
        else v) v
      else v
    | none => v) v

/-- What a load of `n` bytes within a line sees where the home reads `old`: the stores held for a move are over it (R125). A
store held for a pin is seen by nobody before it is performed (R87, R155). -/
def State.seen (s : State) (asid : Nat) (l : Loc) (va n old : Nat) : Nat :=
  if s.held.isEmpty then old
  else match (s.locRead asid l (va / 64 * 64) 64).1 with
    | .ok (w, _) => bits (s.overlayLine asid (va / 64) w) (8 * (va % 64)) (8 * n)
    | .error _ => old

/-- Whether an access of the device's own work, or of an instruction that waits for it, has to wait at its home: a store for a
pin on its line (R87) or for the end of a move (R125), any access for the fill of its line under way (R73), and a fill for room
and tokens (R80, R436). -/
def State.homeWaits (s : State) (who : Who) (asid va : Nat) (need : Need) : Bool :=
  (need.writes && (s.moveOver asid va).isSome) ||
  match (s.findHome who.core asid va need).1 with
  | .hit l => need.writes && l.pins != 0
  | .miss slice t =>
    (s.fills.any fun f => f.2.slice == slice && f.2.asid == asid && f.2.vline == va / 64) ||
      ((!t.fab || t.cacheable va) && s.fillWaits slice asid va who.vf t)
  | .fault _ => false

/-- Reads `n` bytes of translated memory within a line at once. -/
def State.homeRead (s : State) (who : Who) (asid va n : Nat) (need : Need) : Except Nat (Nat × Bool) × State :=
  match s.homeLoc who asid va need with
  | (.error c, s) => (.error c, s)
  | (.ok l, s) =>
    match s.locRead asid l va n with
    | (.ok (v, bad), s) => (.ok (s.seen asid l va n v, bad), s)
    | r => r

/-- Writes `n` bytes of translated memory within a line at once, and drops the writer's own C1 copy of its words; the state
is kept where the access faults. The 8-byte words at the offsets of `bad` are marked (R88). -/
def State.homeWrite (s : State) (who : Who) (asid va n v : Nat) (need : Need) (bad : List Nat) : Except Nat Unit × State :=
  match s.homeLoc who asid va need with
  | (.error c, s) => (.error c, s)
  | (.ok l, s) =>
    match s.locWrite who.core asid l va n v with
    | .ok s => (.ok (), bad.foldl (fun s i => s.locMark asid (l.at_ i) (va + i)) (s.revoke who.core asid (va / 64) (wordsOf va n)))
    | .error c => (.error c, { s with free := s.free + 1 })

/-- Reads any number of bytes of translated memory, line by line; the flag tells of a poisoned word. -/
def State.virtRead (s : State) (who : Who) (asid va n : Nat) (need : Need) : Except Flt (Nat × Bool) × State :=
  go s va n (n / 64 + 2)
where
  go (s : State) (va n : Nat) : Nat → Except Flt (Nat × Bool) × State
    | 0 => (.ok (0, false), s)
    | fuel + 1 =>
      if n == 0 then (.ok (0, false), s) else
        let k := min n (64 - va % 64)
        match s.homeRead who asid va k need with
        | (.error c, s) => (.error (c, (extend56 va).toNat), s)
        | (.ok (v, p), s) =>
          match go s (va + k) (n - k) fuel with
          | (.error e, s) => (.error e, s)
          | (.ok (w, q), s) => (.ok (v + 2 ^ (8 * k) * w, p || q), s)

/-- Writes any number of bytes of translated memory, line by line. -/
def State.virtWrite (s : State) (who : Who) (asid va n v : Nat) (need : Need) : Except Flt Unit × State :=
  go s va n v (n / 64 + 2)
where
  go (s : State) (va n v : Nat) : Nat → Except Flt Unit × State
    | 0 => (.ok (), s)
    | fuel + 1 =>
      if n == 0 then (.ok (), s) else
        let k := min n (64 - va % 64)
        match s.homeWrite who asid va k (v % 2 ^ (8 * k)) need [] with
        | (.error c, s) => (.error (c, (extend56 va).toNat), s)
        | (.ok _, s) => go s (va + k) (n - k) (v / 2 ^ (8 * k)) fuel

/-! C1. -/

/-- A line of C1 by tag. -/
def Core.c1Line (k : Core) (asid vline : Nat) : Option C1Line := k.c1.find? fun c => c.asid == asid && c.vline == vline

/-- Whether C1 serves a load of `n` bytes: the line is present with RD and every word valid (R68). -/
def C1Line.serves (c : C1Line) (va n : Nat) : Bool := c.rd && (wordsOf va n).all fun w => bit c.valid w

/-- The value of a C1 hit and whether it is poisoned. -/
def C1Line.read (c : C1Line) (va n : Nat) : Nat × Bool :=
  (bits c.data.toNat (8 * (va % 64)) (8 * n), (wordsOf va n).any fun w => bit c.psn w)

/-- A store, atomic or CAS at its issue: the words that it writes leave the C1 copy until it is acknowledged, so that its own
context reads it at the home and no other sees it before it is performed (R69, R147, R151, R155). -/
def Core.c1Store (k : Core) (asid va n : Nat) : Core :=
  { k with c1 := k.c1.map fun c =>
      if c.asid == asid && c.vline == va / 64 then { c with valid := (wordsOf va n).foldl (fun v w => setBits v w 1 0) c.valid }
      else c }

/-- A C1 line with words taken from its C2 line, as valid and, for a store that is acknowledged, owned (R69, R146). -/
def C1Line.take (c : C1Line) (l : C2Line) (own : Bool) (ws : List Nat) : C1Line :=
  { c with valid := ws.foldl (fun v w => setBits v w 1 1) c.valid,
           owned := if own then ws.foldl (fun v w => setBits v w 1 1) c.owned else c.owned,
           psn := ws.foldl (fun p w => setBits p w 1 (bit l.psn (w / 2)).toNat) c.psn,
           data := BitVec.ofNat 512 (ws.foldl (fun d w => setBits d (32 * w) 32 (bits l.data.toNat (32 * w) 32)) c.data.toNat) }

/-- The words of a line that stores, atomics and CASes of a core still to be acknowledged write (R146). -/
def State.inFlightWords (s : State) (core asid vline : Nat) : List Nat :=
  s.reqs.flatMap fun q =>
    if q.2.core == core && q.2.asid == asid && q.2.op.writes then
      q.2.all.flatMap fun e => if e.va < meshBase && e.va / 64 == vline then wordsOf e.va e.size else []
    else []

/-- Allocates in C1 the line that a load has brought (R69): 64 sets of 4 ways, the line that was filled first given up
(log entry 10). The words of `busy`, which the core's stores under way write, stay invalid until those are acknowledged. -/
def Core.c1Fill (k : Core) (l : C2Line) (busy : List Nat) : Core :=
  let asid := l.asid
  let free := (List.range 16).filter fun w => !busy.contains w
  if k.c1.any fun c => c.asid == asid && c.vline == l.vline then
    { k with c1 := k.c1.map fun c =>
        if c.asid == asid && c.vline == l.vline then c.take l false (free.filter fun w => !bit c.owned w || !bit c.valid w)
        else c }
  else
    let new := C1Line.take ⟨asid, l.vline, l.rd, l.wr, l.ex, 0, 0, 0, l.data⟩ l false free
    let set := k.c1.filter fun c => c.vline % 64 == l.vline % 64
    let keep := if set.length < 4 then k.c1 else
      match set.getLast? with
      | some v => k.c1.erase v
      | none => k.c1
    { k with c1 := new :: keep }

/-- What an acquire does to C1: every word that the core does not own becomes invalid (R147). -/
def Core.c1Acquire (k : Core) : Core :=
  { k with c1 := k.c1.map fun c => { c with valid := (List.range 16).foldl (fun v w =>
      setBits v w 1 (bit c.valid w && bit c.owned w).toNat) 0 } }

/-- C1INV of one line (R324). -/
def Core.c1InvLine (k : Core) (asid vline : Nat) : Core :=
  { k with c1 := k.c1.map fun c =>
      if c.asid == asid && c.vline == vline then { c with valid := (List.range 16).foldl (fun v w =>
        setBits v w 1 (bit c.valid w && bit c.owned w).toNat) 0 }
      else c }

/-- The slice that a request of a core goes to first (R77). -/
def State.firstHome (s : State) (core asid va : Nat) : Nat :=
  match (s.core core).hint asid va with
  | some h => homeSlice h.home h.stack core asid (va / 64)
  | none => homeSlice 0 0 core asid (va / 64)

/-- Lines of remote devices that a core's context has cached are dropped at its acquire: a load that follows reads the device
(R161). They leave C1 first (R70); of the acquiring core's own C1 the acquire has invalidated them. -/
def State.dropRemote (s : State) (core asid : Nat) : State :=
  let gone (l : C2Line) : Bool := l.remote && l.asid == asid && l.slice / 16 == quadOf core && l.pins == 0
  if !s.c2.any gone then s
  else { s with
    c2 := s.c2.filter fun l => !gone l,
    cores := s.cores.map fun e =>
      if e.1 == core || quadOf e.1 != quadOf core then e
      else (e.1, { e.2 with c1 := e.2.c1.filter fun c => !s.c2.any fun l => gone l && l.asid == c.asid && l.vline == c.vline }) }

/-- What an acquire of a context does when its value arrives (R147, R161). -/
def State.acquireFor (s : State) (core c : Nat) : State :=
  (s.modCore core Core.c1Acquire).dropRemote core (s.ctx core c).asid

/-! Requests under way. -/

/-- Cycles of a load by a core that hits at a slice. -/
def homeLat (core slice : Nat) : Nat :=
  if slice / 64 != stkOf core then 90 else if slice % 64 / 16 == bits core 10 2 then 30 else 44

/-- Cycles of a mesh window load by a core to a target core. -/
def meshLat (core target : Nat) : Nat :=
  if core == target then 12 else if quadOf core == quadOf target then 34 else if stkOf core == stkOf target then 48 else 94

/-- Cycles of an access to a remote device (R450). -/
def State.fabricLat (s : State) (dev : Nat) : Nat :=
  if s.pkg.podBase ≤ dev && dev < s.pkg.podBase + 1024 then 1900 else 6400

/-- A request with its operation done: the answer is due after the way back. -/
def State.answer (s : State) (id : Nat) (r : Req) (delay : Nat) : State :=
  let s := { s with reqs := s.reqs.put id { r with done := true } }
  match r.op, r.jidx, r.fault with
  | .pref _, _, _ => { s with reqs := s.reqs.erase id }
  | _, some _, some _ => s.later delay (.storeRefusal id)
  | _, some _, none => s.later delay (.storeAcknowledge id)
  | _, none, _ => s.later delay (.loadResponse id)

/-- A new request, on its way to its home or to a bank. -/
def State.submit (s : State) (r : Req) : Nat × State :=
  let (id, s) := s.fresh
  let s := { s with reqs := s.reqs.put id r }
  match r.els with
  | [] => (id, s.answer id r 1)
  | e :: _ =>
    if e.va < meshBase then (id, s.later ((homeLat r.core (s.firstHome r.core r.asid e.va)) / 2) (.c2Request id))
    else (id, s.later (meshLat r.core ((e.va - meshBase) / 65536) / 2) (.meshWindowArrival id))

end Sys2Proof.Machine
end

