-- ==== Sys2Proof/Machine/Fetch.lean ====
section
/-! DEFINITION. Instruction fetch through the tile's instruction cache (spec/03_caches_translation_network.md R70;
spec/11_encoding_and_opcode_map.md R240, R250, R259). -/
namespace Sys2Proof.Machine

/-- Blocks that a tile's instruction cache keeps (log entry 10). -/
def icacheBlocks : Nat := 1024

/-- In place of a cause code: the fetch has to wait at the block's home (R80, R436). -/
def fetchHeld : Nat := 256

/-- The 64-byte block at a virtual address for a context: from the tile's cache, else through C2 (R70, R189). The flags
of poison are by 4-byte parcel. -/
def State.fetchBlock (s : State) (core c va : Nat) : Except Nat (VWord × Nat) × State :=
  let asid := (s.ctx core c).asid
  let blk := va / 64
  match s.icache.find? fun e => e.1 == tileOf core && e.2.1 == asid && e.2.2.1 == blk with
  | some e => (.ok (e.2.2.2, 0), s)
  | none =>
    let who : Who := ⟨core, c, (s.ctx core c).vf⟩
    if s.homeWaits who asid (blk * 64) .ex then (.error fetchHeld, s)
    else match s.homeLoc who asid (blk * 64) .ex with
    | (.error f, s) => (.error f, s)
    | (.ok l, s) =>
      match s.locRead asid l (blk * 64) 64 with
      | (.error f, s) => (.error f, s)
      | (.ok (v, false), s) =>
        let keep := match l with
          | .fabric _ _ => false
          | _ => true
        let mine := s.icache.filter fun e => e.1 == tileOf core
        let drop := if icacheBlocks ≤ mine.length then mine.getLast? else none
        let ic := match drop with
          | some e => s.icache.erase e
          | none => s.icache
        (.ok (BitVec.ofNat 512 v, 0), if keep then { s with icache := (tileOf core, asid, blk, BitVec.ofNat 512 v) :: ic } else s)
      | (.ok (v, true), s) =>
        let bad := (List.range 16).foldl (fun m w =>
          match l with
          | .line sl vl => setBits m w 1 (((s.c2Line sl asid vl).map fun c => bit c.psn (w / 2)).getD false).toNat
          | .phys pa => setBits m w 1 (s.physPoison (pa + 4 * w) 4).isSome.toNat
          | .fabric _ _ => m) 0
        (.ok (BitVec.ofNat 512 v, bad), s)

/-- One parcel at a virtual address, with the checks of a fetch (R9, R11, R15, R27, R89). -/
def State.fetchParcel (s : State) (core c : Nat) (pc : Word) : Except Flt Nat × State :=
  let va := pc.toNat % 2 ^ 56
  if !canonical pc then (.error (cADDRNC, pc.toNat), s)
  else if meshTop ≤ va then (.error (cADDRRSV, pc.toNat), s)
  else if meshBase ≤ va then (.error (cXLPERM, pc.toNat), s)
  else
    match s.fetchBlock core c va with
    | (.error f, s) => (.error (f, pc.toNat), s)
    | (.ok (v, bad), s) =>
      if bit bad (va % 64 / 4) then (.error (cPOISON, pc.toNat), s.countErr (s.firstHome core (s.ctx core c).asid va / 64) 3)
      else (.ok (bits v.toNat (va % 64 / 4 * 32) 32), s)

/-- Collects the prefixes from an address and gives the first parcel of the word with its address. -/
def State.fetchRun (s : State) (core c : Nat) (run : PfxRun) (pc : Word) : Nat → Except Flt (PfxRun × Nat × Word) × State
  | 0 => (.error (cILLEGAL, pc.toNat), s)
  | fuel + 1 =>
    match s.fetchParcel core c pc with
    | (.error f, s) => (.error f, s)
    | (.ok p, s) =>
      if isVxParcel p then State.fetchRun s core c (run.push p) (pc + 4) fuel else (.ok (run, p, pc), s)

/-- The longest run of prefixes that the address space can hold, in parcels. -/
def fetchFuel : Nat := 2 ^ 54

/-- The instruction at a context's pc, or the fault of fetching or decoding it (R240, R257). -/
def State.fetch (s : State) (core c : Nat) : Except Flt Instr × State :=
  let pc := (s.ctx core c).pc
  match s.fetchRun core c .empty pc fetchFuel with
  | (.error f, s) => (.error f, s)
  | (.ok (run, p0, at_), s) =>
    match s.fetchParcel core c (at_ + 4) with
    | (.error f, s) => (.error f, s)
    | (.ok p1, s) =>
      match s.fetchParcel core c (at_ + 8) with
      | (.error f, s) => (.error f, s)
      | (.ok p2, s) =>
        match decodeWord run p0 p1 p2 with
        | .ok i => (.ok i, s)
        | .error k => (.error (cILLEGAL, (pc + BitVec.ofNat 64 (4 * k)).toNat), s)

end Sys2Proof.Machine
end

