-- ==== Sys2Proof/Machine/Queue.lean ====
section
/-! DEFINITION. Queue entries and their coding (spec/09_launch_and_scheduling.md R217), core queues and their spill areas
(R210, R471), launch-queue lists (R213, R214), and the start of a helper (spec/08_execution_model.md R185). -/
namespace Sys2Proof.Machine

/-- The address of a register field that holds physical bits [44:12] in place (R446). -/
def regPage (r : Nat) : Nat := bits r 12 33 * 4096

/-! Entry coding (R217). -/

/-- Bytes of the fields of an entry, by mask bit. -/
def fieldBytes : List Nat := [1, 8, 8, 8, 8, 2, 2]

/-- The fields in mask order. -/
def QRun.fields (q : QRun) : List Nat := [q.kind, q.code, q.frame, q.lrec, q.arg, q.qcore, q.asid]

/-- Running values from fields in mask order. -/
def QRun.ofFields : List Nat → QRun
  | [k, c, f, l, a, q, s] => ⟨c, f, l, a, q, s, k⟩
  | _ => QRun.zero

/-- Which fields an entry's kind carries: a launch no CODE, FRAME or QCORE, a continuation no LREC. -/
def kindCarries (launch : Bool) : List Bool :=
  if launch then [true, false, false, true, true, false, true] else [true, true, true, false, true, true, true]

/-- The running values after an entry: its own where its kind carries the field. -/
def QRun.after (run e : QRun) : QRun :=
  QRun.ofFields <| (run.fields.zip (e.fields.zip (kindCarries (bit e.kind 0)))).map fun p =>
    if p.2.2 then p.2.1 else p.1

/-- The mask of an entry of index `idx` against the running values: 0x7F for an anchor. -/
def entryMask (idx : Nat) (run e : QRun) : Nat :=
  if idx % 64 == 0 then 0x7F
  else (((run.after e).fields.zip run.fields).zip (List.range 7)).foldl (fun m p =>
    if p.1.1 != p.1.2 then m + 2 ^ p.2 else m) 0

/-- Bytes of an entry under a mask. -/
def maskLen (m : Nat) : Nat :=
  (fieldBytes.zip (List.range 7)).foldl (fun n p => if bit m p.2 then n + p.1 else n) 1

/-- The bytes of an entry as one little-endian number: mask, then the fields present. -/
def entryValue (idx : Nat) (run e : QRun) : Nat :=
  let m := entryMask idx run e
  let (v, _) := (((run.after e).fields.zip fieldBytes).zip (List.range 7)).foldl (fun (acc : Nat × Nat) p =>
    if bit m p.2 then (acc.1 + p.1.1 * 256 ^ acc.2, acc.2 + p.1.2) else acc) (m, 1)
  v

/-- The running values after the entry whose bytes are `v`. -/
def entryDecode (run : QRun) (v : Nat) : QRun :=
  let m := v % 256
  let (fs, _) := ((run.fields.zip fieldBytes).zip (List.range 7)).foldl (fun (acc : List Nat × Nat) p =>
    if bit m p.2 then (acc.1 ++ [bits v (8 * acc.2) (8 * p.1.2)], acc.2 + p.1.2) else (acc.1 ++ [p.1.1], acc.2))
    ([], 1)
  QRun.ofFields fs

/-- `n` bytes of a ring from an offset: `rd` reads the byte at an offset within the ring of `size` bytes. -/
def ringRead (rd : Nat → Nat) (size off : Nat) : Nat → Nat
  | 0 => 0
  | n + 1 => rd (off % size) + 256 * ringRead rd size (off + 1) n

/-- Free bytes of a ring (R214). -/
def ringFree (size head tail : Nat) : Nat := size - (tail + size - head) % size - 1

/-! Core queues (R210, R471). -/

/-- Bytes written into a core queue's ring in stall. -/
def State.coreRingWrite (s : State) (core : Nat) (q : CoreQ) (off v : Nat) : Nat → State
  | 0 => s
  | n + 1 =>
    let s := s.stallWrite core (q.base + off % 2 ^ q.logn) 1 (v % 256)
    State.coreRingWrite s core q (off + 1) (v / 256) n

/-- Spill bytes of a ring of 65,520 bytes. -/
def spillSize : Nat := 65520

/-- Bytes written into a core queue's spill area; the flag tells whether every access was admitted. -/
def State.spillWrite (s : State) (core : Nat) (q : CoreQ) (off v : Nat) : Nat → State × Bool
  | 0 => (s, true)
  | n + 1 =>
    match s.homeWrite ⟨core, 0, q.vf⟩ q.asid ((q.spill + 16 + off % spillSize) % 2 ^ 56) 1 (v % 256) .wr [] with
    | (.ok _, s) => State.spillWrite s core q (off + 1) (v / 256) n
    | (.error _, s) => (s, false)

/-- Bytes read from a core queue's spill area; a byte that cannot be read gives 0. -/
def State.spillRead (s : State) (core : Nat) (q : CoreQ) (off : Nat) : Nat → Nat × State
  | 0 => (0, s)
  | n + 1 =>
    let (b, s) := match s.homeRead ⟨core, 0, q.vf⟩ q.asid ((q.spill + 16 + off % spillSize) % 2 ^ 56) 1 .rd with
      | (.ok (v, _), s) => (v, s)
      | (.error _, s) => (0, s)
    let (r, s) := State.spillRead s core q (off + 1) n
    (b + 256 * r, s)

/-- The spill head and tail kept in bytes 0 to 15 of the area (R471). -/
def State.spillPointers (s : State) (core : Nat) (q : CoreQ) : State :=
  let (_, s) := s.virtWrite ⟨core, 0, q.vf⟩ q.asid (q.spill % 2 ^ 56) 16 (q.spHead + q.spTail * 2 ^ 64) .wr
  s

/-- The state with a core's queue replaced. -/
def State.setQueue (s : State) (core : Nat) (q : CoreQ) : State := s.modCore core fun k => { k with queue := some q }

/-- Pushes an entry onto a core's queue; `none` where ring and spill area are full or the core has no queue (R217,
R301, R471). -/
def State.corePush (s : State) (core : Nat) (e : QRun) (owner : Option Nat) : Option State :=
  match (s.core core).queue with
  | none => none
  | some q =>
    let m := entryMask q.pushIdx q.pushRun e
    let n := maskLen m
    let v := entryValue q.pushIdx q.pushRun e
    let q' := { q with pushIdx := q.pushIdx + 1, pushRun := q.pushRun.after e, owners := q.owners ++ [owner] }
    if q.inSpill == 0 && n ≤ ringFree (2 ^ q.logn) q.head q.tail then
      some ((s.coreRingWrite core q q.tail v n).setQueue core
        { q' with tail := (q.tail + n) % 2 ^ q.logn, inRing := q.inRing + 1 })
    else if n ≤ ringFree spillSize q.spHead q.spTail then
      match s.spillWrite core q q.spTail v n with
      | (s, true) =>
        let q' := { q' with spTail := (q.spTail + n) % spillSize, inSpill := q.inSpill + 1 }
        some ((s.setQueue core q').spillPointers core q')
      | (_, false) => none
    else none

/-- Moves spilled entries to the ring, oldest first, while the ring has room (R471). -/
def State.refill (s : State) (core : Nat) : Nat → State
  | 0 => s
  | fuel + 1 =>
    match (s.core core).queue with
    | none => s
    | some q =>
      if q.inSpill == 0 then s else
        let (m, s) := s.spillRead core q q.spHead 1
        let n := maskLen m
        if n ≤ ringFree (2 ^ q.logn) q.head q.tail then
          let (v, s) := s.spillRead core q q.spHead n
          let q' := { q with tail := (q.tail + n) % 2 ^ q.logn, spHead := (q.spHead + n) % spillSize,
                             inRing := q.inRing + 1, inSpill := q.inSpill - 1 }
          State.refill (((s.coreRingWrite core q q.tail v n).setQueue core q').spillPointers core q') core fuel
        else s

/-- Takes the oldest entry of a core's queue: its fields and its launch (R217). -/
def State.corePop (s : State) (core : Nat) : Option (QRun × Option Nat × State) :=
  match (s.core core).queue with
  | none => none
  | some q =>
    if q.inRing == 0 then none
    else
      let rd (o : Nat) : Nat := s.stallRead core (q.base + o) 1
      let n := maskLen (rd (q.head % 2 ^ q.logn))
      let e := entryDecode q.popRun (ringRead rd (2 ^ q.logn) q.head n)
      let q' := { q with head := (q.head + n) % 2 ^ q.logn, popIdx := q.popIdx + 1, popRun := e,
                         inRing := q.inRing - 1, owners := q.owners.drop 1 }
      some (e, (q.owners.head?).join, (s.setQueue core q').refill core (q.inSpill + 1))

/-! Launch-queue lists (R213, R214). -/

/-- The running state of list `p` of queue `q`. -/
def State.lqList (s : State) (q p : Nat) : LqList := s.lq.get (4 * q + p) ⟨0, 0, QRun.zero, QRun.zero, []⟩

/-- Address of the descriptor of list `p` of queue `q`. -/
def State.lqDesc (s : State) (q p : Nat) : Nat := s.pkg.lqBase + 64 * q + 16 * p

/-- BASE, LOGN, HEAD and TAIL of a list, or `none` where the list breaks R214. -/
def State.lqRing (s : State) (q p : Nat) : Option (Nat × Nat × Nat × Nat) :=
  let d := s.physRead (s.lqDesc q p) 16
  let base := bits d 0 33 * 4096
  let logn := bits d 33 5
  if 12 ≤ logn && logn ≤ 24 && inHbm base (2 ^ logn) && bits d 38 26 == 0 && inHbm (s.lqDesc q p) 16 then
    some (base, logn, bits d 64 32 % 2 ^ logn, bits d 96 32 % 2 ^ logn)
  else none

/-- Bytes written into a list's ring in HBM. -/
def State.lqWrite (s : State) (base logn off v : Nat) : Nat → State
  | 0 => s
  | n + 1 => State.lqWrite (s.physStore (base + off % 2 ^ logn) 1 (v % 256)) base logn (off + 1) (v / 256) n

/-- Pushes an entry onto a launch queue; `none` is LQFULL (R213, R214). -/
def State.lqPush (s : State) (q p : Nat) (e : QRun) (owner : Option Nat) : Option State :=
  match s.lqRing q p with
  | none => none
  | some (base, logn, head, tail) =>
    if ringFree (2 ^ logn) head tail < 38 then none
    else
      let l := s.lqList q p
      let n := maskLen (entryMask l.pushIdx l.pushRun e)
      let s := s.lqWrite base logn tail (entryValue l.pushIdx l.pushRun e) n
      let s := s.physWrite (s.lqDesc q p + 12) 4 ((tail + n) % 2 ^ logn)
      let l := { l with pushIdx := l.pushIdx + 1, pushRun := l.pushRun.after e, owners := l.owners ++ [owner] }
      some { s with lq := s.lq.put (4 * q + p) l }

/-- The oldest entry of a list, without taking it: its fields, its bytes' count and its launch. -/
def State.lqPeek (s : State) (q p : Nat) : Option (QRun × Nat × Option Nat) :=
  match s.lqRing q p with
  | none => none
  | some (base, logn, head, tail) =>
    if head == tail then none
    else
      let l := s.lqList q p
      let rd (o : Nat) : Nat := s.physByte (base + o)
      let n := maskLen (rd head)
      some (entryDecode l.popRun (ringRead rd (2 ^ logn) head n), n, (l.owners.head?).join)

/-- The list without its oldest entry. -/
def State.lqDrop (s : State) (q p : Nat) : State :=
  match s.lqRing q p, s.lqPeek q p with
  | some (_, logn, head, _), some (e, n, _) =>
    let l := s.lqList q p
    let s := s.physWrite (s.lqDesc q p + 8) 4 ((head + n) % 2 ^ logn)
    let l := { l with popIdx := l.popIdx + 1, popRun := e, owners := l.owners.drop 1 }
    { s with lq := s.lq.put (4 * q + p) l }
  | _, _ => s

/-! Helpers. -/

/-- What START and a pop do to a helper (R185, R370, R401, R410): the listed state, and a copy of the control context's
format table. A trap level left by a kill is cleared (log entry 18). -/
def Ctx.startAt (x : Ctx) (code frame : Word) (ctxid : Word) (ftab : Assoc FmtWord) (launch : Option Nat) : Ctx :=
  let sr := [rLS 0, rLS 1, rLS 2, rLS 3, rLE 0, rLE 1, rLE 2, rLE 3, rLC 0, rLC 1, rLC 2, rLC 3, rLOOPST, rPREDS, rVCNT].foldl
    (fun m n => Assoc.erase m n) x.sr
  let y := { x with st := .ready, pc := code, s := Assoc.set [] 62 frame 0, acc := [], accSum := [], guards := [],
                    ftab := ftab, sr := sr, pmc := [], drawn := 0, launch := launch, idle := false, block := none,
                    step := none, refusal := false, fork := none, pending := [], loads := [], shapes := [], tryAt := 0,
                    warnHeld := false }
  ((y.srSet rCTXID ctxid).setStat bPFX false).setTlvl 0

/-- Starts helper `c` of a core; its first instruction is an acquire (R143, R185). -/
def State.startHelper (s : State) (core c : Nat) (code frame ctxid : Word) (launch : Option Nat) : State :=
  let ft := (s.ctx core 0).ftab
  (s.modCtx core c fun x => x.startAt code frame ctxid ft launch).acquireFor core c

end Sys2Proof.Machine
end

