-- ==== Sys2Proof/Machine/Ops.lean ====
section
/-! DEFINITION. Shared operations of the instruction meanings: the end of routines and launches, kills, taking a trap
and returning from one (spec/18_traps_preemption_contexts.md R414 to R424), the loop end action
(spec/13_scalar_control_task_instructions.md R290), tokens (spec/19_power_and_clocks.md R435, R440), and the issue of
one instruction. -/
namespace Sys2Proof.Machine

/-! The end of routines and launches. -/

/-- Whether a context's engine operations or programs are still running (R56, R186). -/
def State.engineWork (s : State) (core c : Nat) : Bool :=
  (s.ops.any fun e => e.2.core == core && e.2.ctx == c && !e.2.finished) ||
  ((s.core core).seqOwner == some c && ((s.core core).mseq.live || (s.core core).cseq.live))

/-- The tracks of a finished helper: HELD while its engine work runs, else back with the control context (R56). -/
def Core.releaseTracks (k : Core) (c : Nat) (running : Bool) : Core :=
  { k with tracks := k.tracks.map fun e =>
      if e.2.owner == c then (e.1, if running then { e.2 with held := true } else { e.2 with owner := 0, held := false })
      else e }

/-- HELPER_POP for every FREE helper in HPOOL, once a record may be taken (R184, R186). -/
def State.offerRecords (s : State) (core : Nat) : State :=
  let k := s.core core
  if (k.queue.map (·.inRing)).getD 0 == 0 then s
  else ((List.range numCtxs).filter fun c =>
      (k.ctx c).st == .free && bit (k.srGet rHPOOL).toNat c).foldl (fun s c => s.later 1 (.helperPop core c)) s

/-- A record pushed onto a core's queue, and offered to the pool (R217). -/
def State.pushRecord (s : State) (core : Nat) (e : QRun) (owner : Option Nat) : Option State :=
  (s.corePush core e owner).map (·.offerRecords core)

/-- A member of a gang has completed (R218). -/
def State.gangProgress (s : State) (g : Nat) : State :=
  match s.gangs.find? (·.1 == g) with
  | none => s
  | some (_, gg) =>
    let all := gg.members.all fun l => ((s.launches.find? (·.1 == l)).map (·.2.done)).getD true
    let st := if gg.st == .failed then .failed else if all then .ended else .draining
    { s with gangs := s.gangs.put g { gg with st := st, reserved := [] } }

/-- A completion bit that could not be set is counted (R216). -/
def State.doneFailed (s : State) (vf : Nat) : State :=
  (s.modVf vf fun v => { v with doneErr := satInc64 v.doneErr }).raiseErr vf

/-- DONEBIT of DONEVA is to be set: an atomic OR goes to the word's home, in translated memory or in a stall of the mesh window,
and is held there as any store is (R87, R176, R216, R321). An address that no atomic could name is counted as failed. -/
def State.setDoneBit (s : State) (l : Launch) : State :=
  if !bit l.raw 830 then s
  else
    let w := extend56 (bits l.raw 768 56)
    let e : Elem := ⟨0, bits l.raw 768 56, 8, 2 ^ bits l.raw 824 6, 2 ^ 64 - 1⟩
    match s.checkVa l.vf w 8 with
    | .error _ => s.doneFailed l.vf
    | .ok _ =>
      (s.submit { core := l.cores.headD 0, ctx := 0, asid := l.asid, op := .rmw 3 (2 ^ bits l.raw 824 6) 0, els := [e], all := [e],
                  got := [], dst := .doneBit l.vf, jidx := none, acq := false, rel := true, done := false,
                  mesh := meshBase ≤ e.va, fault := none, len := 0 }).2

/-- The running firing of a table slot has ended; a deferred firing follows (R209). -/
def State.slotEnded (s : State) (slot : Nat) : State :=
  match s.tt.find? (·.1 == slot) with
  | none => s
  | some (_, r) =>
    let s := { s with tt := s.tt.put slot { r with launch := none } }
    if r.deferred then s.later 0 (.ttDeferredFire slot) else s

/-- One record of a launch has finished; the launch completes with its last (R216). -/
def State.recordDone (s : State) (lid : Option Nat) : State :=
  match lid with
  | none => s
  | some n =>
    match s.launches.find? (·.1 == n) with
    | none => s
    | some (_, l) =>
      if l.done then s
      else if 1 < l.left then { s with launches := s.launches.put n { l with left := l.left - 1 } }
      else
        let s := { s with launches := s.launches.put n { l with left := 0, done := true } }
        let s := s.setDoneBit l
        let s := match l.slot with
          | some t => s.slotEnded t
          | none => s
        match l.gang with
        | some g => s.gangProgress g
        | none => s

/-- One more record of a launch (R216). -/
def State.recordAdded (s : State) (lid : Option Nat) : State :=
  match lid with
  | none => s
  | some n =>
    match s.launches.find? (·.1 == n) with
    | none => s
    | some (_, l) => { s with launches := s.launches.put n { l with left := l.left + 1 } }

/-- A helper's signal: the count, up to 255, and the kind; one that finds the count full is lost and sets STAT.WARN (R295). -/
def Ctx.signal (x : Ctx) (kind : Nat) : Ctx :=
  if x.sigCount < 255 then { x with sigCount := x.sigCount + 1, sigKind := kind } else x.setStat bWARN true

/-- A journal entry becomes free. Where it was the last that an ended routine waited for, the routine's record is done
(R176, R216, R326). -/
def State.freeEntryOf (s : State) (core j : Nat) : State :=
  match (s.core core).journal.find? (·.1 == j) with
  | none => s
  | some (_, e) =>
    let s := s.modCore core fun k => { k with journal := k.journal.erase j }
    if e.owed.isNone || (s.core core).journal.any (·.2.owed == e.owed) then s else s.recordDone e.launch

/-- The record of a routine that ends is done: at once, or when its stores under way have been performed, since the bit that
the last record sets is a release of the routines' accesses (R176, R216). -/
def State.routineDone (s : State) (core c : Nat) (launch : Option Nat) : State :=
  let mine (e : Nat × JEntry) : Bool := e.2.ctx == c && e.2.state == 1 && !e.2.orphan && e.2.owed.isNone
  if launch.isNone || !(s.core core).journal.any mine then s.recordDone launch
  else
    let (n, s) := s.fresh
    s.modCore core fun k => { k with journal := k.journal.map fun e =>
      if (mine e) then (e.1, { e.2 with owed := some n, launch := launch }) else e }

/-- The routine of a context has ended: its record is done; a helper becomes FREE or DRAIN and its tracks return, and
the control context waits for a launch (R56, R182, R186, R288). -/
def State.endRoutine (s : State) (core c : Nat) (finishes : Bool) : State :=
  let x := s.ctx core c
  let s := if finishes then s.routineDone core c x.launch else s
  let s := { s with svcs := s.svcs.filter (fun (r : Svc) => !(r.core == core && r.ctx == c)),
                    pwreqs := s.pwreqs.filter (fun (r : Nat × Nat × Nat × Nat) => !(r.1 == core && r.2.1 == c)),
                    pwdone := s.pwdone.filter (fun (r : Nat × Nat × Nat) => !(r.1 == core && r.2.1 == c)) }
  if c == 0 then
    s.modCtx core 0 fun x => { x with st := .wait, idle := true, block := none, launch := none }
  else
    let run := s.engineWork core c
    let s := s.modCtx core c fun x => { x with st := if run then .drain else .free, block := none, launch := none,
                                               idle := true }
    let s := s.modCore core fun k => { k with journal := k.journal.map fun e =>
      if e.2.ctx == c && e.2.state == 1 && !e.2.orphan then (e.1, { e.2 with orphan := true, launch := x.launch }) else e }
    (s.modCore core (·.releaseTracks c run)).offerRecords core

/-- The last engine operation of a finished helper has completed: it becomes FREE and its tracks return (R56). Of a helper
that NEXT has given another routine the held tracks return (R186). -/
def State.drainEnd (s : State) (core c : Nat) : State :=
  if s.engineWork core c then s
  else if (s.ctx core c).st == .drain then
    ((s.modCtx core c fun x => { x with st := .free }).modCore core (·.releaseTracks c false)).offerRecords core
  else s.modCore core fun k => { k with tracks := k.tracks.map fun e =>
    if e.2.held && e.2.owner == c then (e.1, { e.2 with owner := 0, held := false }) else e }

/-! Kills (R423). -/

/-- The word of TCAUSE (R418). -/
def causeWord (code : Nat) (async : Bool) (jidx nref obj b : Nat) : Nat :=
  code + async.toNat * 2 ^ 8 + jidx % 64 * 2 ^ 9 + nref * 2 ^ 16 + obj * 2 ^ 24 + b * 2 ^ 27

/-- The kill record (R423). -/
def killRecord (s : State) (core c cause reason pc tval : Nat) : Nat :=
  let x := s.ctx core c
  bits cause 0 15 + core * 2 ^ 16 + c * 2 ^ 30 + x.vf * 2 ^ 34 + reason * 2 ^ 40 + pc * 2 ^ 64 + tval * 2 ^ 128 +
  (x.srGet (rTCAUSE 1)).toNat * 2 ^ 192 + (x.srGet (rTRET 1)).toNat * 2 ^ 256 +
  (x.srGet (rTCAUSE 2)).toNat * 2 ^ 320 + (x.srGet (rTRET 2)).toNat * 2 ^ 384 + s.ns * 2 ^ 448

/-- A kill record written to the function's ring, or counted as dropped where the ring holds 2^LOGN records (R423,
R446; log entry 20). -/
def State.putKillRecord (s : State) (vf rec : Nat) : State :=
  let v := s.vf vf
  let base := regPage v.killRing
  let logn := bits v.killRing 0 4
  if 1 ≤ logn && logn ≤ 12 && v.killTail < 2 ^ logn && inHbm (base + 64 * v.killTail) 64 then
    (s.physWrite (base + 64 * v.killTail) 64 rec).modVf vf fun v => { v with killTail := v.killTail + 1 }
  else
    s.modVf vf fun v => { v with killDrop := min (v.killDrop + 1) (2 ^ 32 - 1) }

/-- CKILL raised to the core's control context, when it is live (R423, R424). -/
def State.raiseCkill (s : State) (core : Nat) : State :=
  s.modCore core fun k =>
    let x := k.ctx 0
    if x.st != .saved && (x.live || x.idle) then { k with ckill := k.ckill + 1 } else k

/-- One context killed: its refused entries become free, the record is written, and its routine ends (R423). -/
def State.killOne (s : State) (core c cause reason pc tval : Nat) : State :=
  let vf := (s.ctx core c).vf
  let s := s.putKillRecord vf (killRecord s core c cause reason pc tval)
  let s := s.modCore core fun k => { k with journal := k.journal.filter fun e => !(e.2.ctx == c && e.2.state == 2) }
  let s := s.modCtx core c fun x => { (if c == 0 then x else x.signal 3) with refusal := false, step := none, loads := [] }
  let s := s.endRoutine core c true
  ((s.raiseCkill core).raiseMsix vf 1)

/-- The gang of a launch (R218). -/
def State.gangOf (s : State) (launch : Option Nat) : Option Nat :=
  launch.bind fun l => (s.launches.find? (·.1 == l)).bind (·.2.gang)

/-- A gang fails and gives up the helpers it held (R218). -/
def State.gangFail (s : State) (gang : Option Nat) : State :=
  match gang with
  | none => s
  | some g => match s.gangs.find? (·.1 == g) with
    | some (_, gg) => { s with gangs := s.gangs.put g { gg with st := .failed, reserved := [] } }
    | none => s

/-- The live contexts that run for a gang (R218). -/
def State.gangLive (s : State) (gang : Option Nat) : List (Nat × Nat) :=
  match gang with
  | none => []
  | some g => s.cores.flatMap fun e => (List.range numCtxs).filterMap fun d =>
      let x := e.2.ctx d
      if x.live && s.gangOf x.launch == some g then some (e.1, d) else none

/-- The live contexts that a kill of a context takes with it: the other members of its gang, and every helper of a core
whose control context dies, each with its reason (R218, R423). -/
def State.killSet (s : State) (core c reason : Nat) : List (Nat × Nat × Nat) :=
  let mates := ((s.gangLive (s.gangOf (s.ctx core c).launch)).filter (· != (core, c))).map fun k => (k.1, k.2, 3)
  let first := (core, c, reason) :: mates
  let helpers := (first.filter (·.2.1 == 0)).flatMap fun k => (List.range numCtxs).filterMap fun d =>
    if d != 0 && ((s.core k.1).ctx d).live && !(first.any fun m => m.1 == k.1 && m.2.1 == d) then some (k.1, d, 4)
    else none
  first ++ helpers

/-- The killed contexts other than the one first killed: a gang's members with cause GANGKILL, helpers with the cause of
their control context's kill (R423). -/
def State.killRest (s : State) (cause : Nat) (set : List (Nat × Nat × Nat)) : State :=
  set.foldl (fun s k =>
    s.killOne k.1 k.2.1 (if k.2.2 == 3 then cGANGKILL else bits cause 0 8) k.2.2 (s.ctx k.1 k.2.1).pc.toNat 0) s

/-- A context killed, with whatever dies with it (R423). -/
def State.kill (s : State) (core c cause reason pc tval : Nat) : State :=
  let set := s.killSet core c reason
  let s := s.gangFail (s.gangOf (s.ctx core c).launch)
  (s.killOne core c cause reason pc tval).killRest cause (set.drop 1)

/-- The refusal of a store whose helper has finished kills that helper: the record is written and the kind-3 signal
raised, and the gang it ran for dies (R295, R423). -/
def State.killOrphan (s : State) (core c cause tval : Nat) (launch : Option Nat) : State :=
  let x := s.ctx core c
  let gang := s.gangOf launch
  let set := (s.gangLive gang).map fun k => (k.1, k.2, 3)
  let helpers := (set.filter (·.2.1 == 0)).flatMap fun k => (List.range numCtxs).filterMap fun d =>
    if d != 0 && ((s.core k.1).ctx d).live && !(set.any fun m => m.1 == k.1 && m.2.1 == d) then some (k.1, d, 4) else none
  let s := (s.putKillRecord x.vf (killRecord s core c cause 2 x.pc.toNat tval)).modCtx core c (·.signal 3)
  (((s.raiseCkill core).raiseMsix x.vf 1).gangFail gang).killRest cause (set ++ helpers)

/-! Taking a trap and returning from one. -/

/-- Trap entry of a context (R416): the saved registers of level n = TLVL + 1 are written, STAT.PFX moves into PFXHn,
TLVL becomes n and the pc the handler's entry; at level 2 the context is killed instead. -/
def State.enterTrap (s : State) (core c cause : Nat) (tval ret : Word) : State :=
  let x := s.ctx core c
  let n := x.tlvl + 1
  if 3 ≤ n then s.kill core c cause 1 ret.toNat tval.toNat
  else
    let pfx := setBits (bits (x.srGet rPFXH).toNat 0 19) 19 1 (x.statBit bPFX).toNat
    let x := ((x.srSet (rTCAUSE n) (BitVec.ofNat 64 cause)).srSet (rTRET n) ret).srSet (rTVAL n) tval
    let x := ((x.srSet (rPFXHn n) (BitVec.ofNat 64 pfx)).setStat bPFX false).setTlvl n
    s.setCtx core c { x with st := .ready, block := none, idle := false,
                             pc := x.srGet rTVEC + BitVec.ofNat 64 (0x100 * (n - 1)) }

/-- A supervisor event enters level 1 at TVEC + 0x200 (R416, R424). -/
def State.enterEvent (s : State) (core code tval : Nat) : State :=
  let x := s.ctx core 0
  let s := s.enterTrap core 0 (causeWord code false 0 0 0 0) (BitVec.ofNat 64 tval) x.pc
  s.modCtx core 0 fun x => { x with pc := x.srGet rTVEC + 0x200 }

/-- The refused entries that a return frees: from index `j`, `n` of them, in ascending order (R421). -/
def Core.freeRefused (k : Core) (c j n : Nat) : Core :=
  let named := ((k.journal.filter fun e => e.2.ctx == c && e.2.state == 2 && j ≤ e.1).take n).map (·.1)
  { k with journal := k.journal.filter fun e => !named.contains e.1 }

/-- The return from level n = TLVL (R404, R253, R421): pc, TLVL, STAT.PFX and PFXH come back, and the refused entries
that an asynchronous level names become free. -/
def State.leaveTrap (s : State) (core c : Nat) : State :=
  let x := s.ctx core c
  let n := x.tlvl
  let cause := x.srGet (rTCAUSE n)
  let ph := x.srGet (rPFXHn n)
  let y := ((x.setTlvl (n - 1)).setStat bPFX (bit ph.toNat 19)).srSet rPFXH (BitVec.ofNat 64 (bits ph.toNat 0 19))
  let s := s.setCtx core c { y with pc := x.srGet (rTRET n) }
  if bit cause.toNat 8 then s.modCore core fun k => k.freeRefused c (fieldOf cause 9 6) (fieldOf cause 16 7) else s

/-- The asynchronous trap of a context whose refusals are due, reporting every refused entry (R420). -/
def State.enterAsync (s : State) (core c : Nat) : State :=
  let mine := (s.core core).journal.filter fun e => e.2.ctx == c && e.2.state == 2
  match mine with
  | [] => s.modCtx core c fun x => { x with refusal := false }
  | (j, e) :: _ =>
    let s := s.modCtx core c fun x => { x with refusal := false }
    s.enterTrap core c (causeWord e.cause true j mine.length 0 0) e.va (s.ctx core c).pc

/-! Hardware loops. -/

/-- The next pc of a completing instruction with the loop end action (R290): at LE of the innermost active level it
goes round again or pops the level, and then tests the next one. -/
def Ctx.loopEnd (x : Ctx) (npc : Word) : Nat → Ctx
  | 0 => { x with pc := npc }
  | fuel + 1 =>
    let d := fieldOf (x.srGet rLOOPST) 0 3
    if d == 0 || npc != x.srGet (rLE (d - 1)) then { x with pc := npc }
    else
      let lc := x.srGet (rLC (d - 1))
      if lc != 0 then { x.srSet (rLC (d - 1)) (lc - 1) with pc := x.srGet (rLS (d - 1)) }
      else Ctx.loopEnd (x.srSet rLOOPST (BitVec.ofNat 64 (d - 1))) npc fuel

/-! Tokens (R435, R436, R440). -/

/-- A cost in 1/1,024 token drawn for a context from its core. In an exchange phase the hold pays first, then the purse
down to −4,096 tokens, and what does not fit is added to the quadrant's overdraw (R440). -/
def State.payCore (s : State) (core c cost : Nat) : State :=
  let s := s.modCtx core c fun x => ({ x with drawn := x.drawn + cost } : Ctx).count 9 ((x.drawn + cost) / 1024 - x.drawn / 1024)
  let k := s.core core
  if k.phase.isNone then s.setCore core { k with purse := k.purse - cost }
  else
    let h := min k.hold cost
    let rest : Int := (cost - h : Nat)
    if -(4096 * 1024 : Int) ≤ k.purse - rest then s.setCore core { k with hold := k.hold - h, purse := k.purse - rest }
    else
      let s := s.setCore core { k with hold := k.hold - h }
      { s with overdraw := s.overdraw.put (quadOf core) (s.overdraw.get (quadOf core) 0 + rest.toNat) }

/-- Whether a core can pay now; in an exchange phase it never sleeps (R436, R440). -/
def Core.canPay (k : Core) (cost : Nat) : Bool := k.phase.isSome || (cost : Int) ≤ k.purse

/-! The issue of one instruction. -/

/-- How an instruction ends its turn. -/
inductive Res where
  /-- It completes and the next instruction follows. -/
  | done (s : State)
  /-- It completes and branches. -/
  | jump (s : State) (pc : Word)
  /-- It raises a precise fault; `s` is the state that the fault leaves. -/
  | fault (s : State) (code val : Nat)
  /-- It is held: `s` keeps what it has already done, and it issues again when the wait is over. -/
  | hold (s : State) (w : Wait) (phase : Nat)
  /-- One step of a shape-iterated instruction: it stays at its pc and goes on at the next issue (R369). -/
  | again (s : State)
  /-- It sets the context's course itself: `fin` takes a trap, ends a routine or saves a context, once the instruction's cost is
  drawn and STAT.WARN set in `s`. -/
  | ended (s : State) (fin : State → State)

/-- Bytes of an instruction with its prefixes. -/
def formLen (f : Form) : Nat := 4 * f.npfx + 12

/-- ILLEGAL at parcel `k` of the word (R257). -/
def illegal (s : State) (f : Form) (k : Nat) : Res :=
  .fault s cILLEGAL (s.me.pc + BitVec.ofNat 64 (4 * (f.npfx + k))).toNat

/-- Whether an instruction that waits so may complete at an event, without being issued again (R313). -/
def Wait.timesOut : Wait → Bool
  | .barrier .. => true
  | _ => false

/-- Whether a wait counts as WAIT (R205) and not as an interlock of a READY context. -/
def Wait.isWait : Wait → Bool
  | .hwait _ | .recv _ | .credit _ _ | .syncGen _ _ _ | .compBit _ | .barrier _ _ _ _ _ _ | .bell _ _ _ | .realign _ _ | .rdv
  | .sequencers | .service _ | .power | .joins | .recover _ _ | .quiet => true
  | _ => false

/-- Waits that a trap or a forced save abandons (R422, R426). -/
def Wait.abandonable : Wait → Bool
  | .hwait _ | .recv _ | .credit _ _ | .syncGen _ _ _ | .compBit _ | .barrier _ _ _ _ _ _ | .service _ => true
  | _ => false

/-- The boundary after an instruction with STAT.STEP set at level 0: STEP is taken, or stays due behind a refusal or a
higher level (R414, R431). -/
def State.stepTrap (s : State) (core c : Nat) (rep : Nat × Nat × Nat) : State :=
  let x := s.ctx core c
  if !x.statBit bSTEP then s
  else if x.tlvl == 0 && !x.refusal then
    s.enterTrap core c (causeWord cSTEP false 0 0 rep.1 rep.2.2) (BitVec.ofNat 64 rep.2.1) x.pc
  else s.setCtx core c { x with step := some rep }

/-- The completion of an instruction: a pending FMTP is consumed (R252), the counters rise (R410), the loop end action
chooses the pc (R290). One that was not held past phase 0 issues now (R219, R243). `isFmtp` keeps STAT.PFX, which FMTP itself has written. -/
def State.retire (s : State) (core c : Nat) (isFmtp : Bool) (npc : Word) : State :=
  let held := ((s.ctx core c).block.map (·.phase)).getD 0 != 0
  let s := s.modCtx core c fun x =>
    let x := if isFmtp then x else x.setStat bPFX false
    let x := x.count 1 1
    let x := { x with block := none, st := if x.st == CtxSt.wait || x.st == CtxSt.sleep then CtxSt.ready else x.st,
                      lastIssue := if held then x.lastIssue else s.clk,
                      warnHeld := false, shapes := x.shapes.erase x.tlvl }
    x.loopEnd npc 5
  s.modCore core fun k => { k with lastCtx := if held then k.lastCtx else c }

/-- Stops a sequencer's program as if EEND stood at its slot, with a code and this slot for RDV; an earlier fault's code
stays; EEND itself has no code and leaves no slot (R191, R298). -/
def State.stopProgram (s : State) (core : Nat) (u : AgentUnit) (code : Nat) : State :=
  let k := s.core core
  let q := if u == .matrixSeq then k.mseq else k.cseq
  let slot := (q.pos + 65536 - q.base) % 65536 / 16
  let k' := if u == .matrixSeq then { k with mseq := { q with live := false } } else { k with cseq := { q with live := false } }
  let s := s.setCore core k'
  match k.seqOwner with
  | none => s
  | some o =>
    let s := s.modCtx core o fun x => { x with fork := x.fork.map fun f =>
      let keep (old : ForkSide) : ForkSide :=
        { old with live := false, code := if old.code == 0 then code else old.code, slot := if code == 0 then old.slot else slot }
      if u == .matrixSeq then { f with m := keep f.m } else { f with c := keep f.c } }
    let s := s.modCore core fun k => if !k.mseq.live && !k.cseq.live then { k with seqOwner := none } else k
    s.drainEnd core o

/-- Whether the acting agent exists (R13, R181). -/
def State.agentOk (s : State) : Bool := s.cur.core < numCores && s.cur.ctx < numCtxs

/-- The fallbacks of R258 that hold for every instruction outside the vector majors: a prefix, repeated prefixes, and a
stamp on an instruction that has none. -/
def scalarWarn (f : Form) (stamped : Bool) : Bool :=
  f.npfx != 0 || (!stamped && (match f.hint with | .stamp _ => true | .plain _ _ _ => false))

/-- STAT.WARN set for a held instruction that completes under a fallback (R258): one that is held and then raises a precise
fault has had no effect (R28). -/
def State.warnHeld (s : State) (core c : Nat) : State :=
  s.modCtx core c fun x => if x.warnHeld then x.setStat bWARN true else x

/-- The scalar registers that an operand reads or writes. -/
def operandScalars : Operand → List Nat
  | .scalar r => [r]
  | .la r _ => [r]
  | .bo r _ => [r]
  | .shape r _ => [r]
  | _ => []

/-- The loads under way whose values go to a register of a list (R317). -/
def Ctx.awaiting (x : Ctx) (rs : List Nat) : List Nat :=
  (x.loads.filter fun l => match l.2.1 with
    | .scalar r _ _ => r != 0 && rs.contains r
    | _ => false).map (·.1)

/-- The vector register that an operand reads or writes. -/
def operandVecs : Operand → List Nat
  | .vec r _ => [r]
  | _ => []

/-- The vector loads under way whose lanes go to a register of a list (R317, R347). -/
def Ctx.awaitingVec (x : Ctx) (rs : List Nat) : List Nat :=
  (x.loads.filter fun l => match l.2.1 with
    | .vec r _ _ => rs.contains r
    | _ => false).map (·.1)

/-- The loads under way that an instruction waits for: those into a register that it reads or writes (R317). -/
def Ctx.awaited (x : Ctx) (f : Form) : List Nat :=
  x.awaiting (operandScalars f.d ++ operandScalars f.a ++ operandScalars f.b) ++
    x.awaitingVec (operandVecs f.d ++ operandVecs f.a ++ operandVecs f.b ++ f.vx.op4.toList)

/-- An instruction held by a wait, from a state that keeps what it has already done: past phase 0 it has issued (R219). -/
def State.holdMe (s : State) (w : Wait) (phase : Nat) (warn : Bool) : State :=
  let issues := phase != 0 && (s.me.block.map (·.phase)).getD 0 == 0
  let s := if issues then s.modCore s.cur.core fun k => { k with lastCtx := s.cur.ctx } else s
  s.modMe fun y => { y with block := some ⟨w, (y.block.map (·.since)).getD s.clk, phase⟩, tryAt := s.clk + 1, warnHeld := warn,
                            lastIssue := if issues then s.clk else y.lastIssue, st := if w.isWait then .wait else .ready }

/-- The issue of one instruction of a context (R242, R252, R258, R436, R431): a failing guard skips it; it waits for loads into
its registers (R317), and before it traps or sets its context's course for all; a purse that cannot pay puts the context to
SLEEP; its body runs; and its end is made. `warns` are the fallbacks that apply, `named` whether it names a format entry,
`isFmtp` whether it is FMTP, and `rep` its step report. -/
def issueWith (f : Form) (cost : Nat) (warns named isFmtp : Bool) (rep : State → Nat × Nat × Nat) (body : State → Res)
    (s : State) : Host.Outcome State Fault Refusal :=
  if !s.agentOk then .fault .noSuchAgent
  else if s.cur.unit != .context then .next (s.stopProgram s.cur.core s.cur.unit 0x10)
  else
    let x := s.me
    let core := s.cur.core
    let c := s.cur.ctx
    let fall := x.pc + BitVec.ofNat 64 (formLen f)
    let paid := (x.block.map (·.phase)).getD 0 != 0
    let run := x.pred f.gp != f.gs
    let cost := if run then cost else 4
    let phase0 := (x.block.map (·.phase)).getD 0
    if run && !paid && !(x.awaited f).isEmpty then .next (s.holdMe (.loads (x.awaited f)) 0 false)
    else if !paid && !s.myCore.canPay cost then .next (s.setMe { x with st := .sleep })
    else if !run then
      .next (((s.payCore core c 4).retire core c isFmtp fall).stepTrap core c (0, 0, 0))
    else
      let pfx := x.statBit bPFX
      let warn := warns || (pfx && !named && !isFmtp)
      let pay (t : State) : State := if paid then t else t.payCore core c cost
      let flag (t : State) : State := t.warnIf warn
      let late := s.holdMe (.loads (x.loads.map (·.1))) phase0 x.warnHeld
      match body s with
      | .done t => .next ((((flag (pay t))).retire core c isFmtp fall).stepTrap core c (rep s))
      | .jump t pc => .next ((((flag (pay t))).retire core c isFmtp pc).stepTrap core c (rep s))
      | .fault t code val =>
        if x.loads.isEmpty then .next (t.enterTrap core c (causeWord code false 0 0 0 0) (BitVec.ofNat 64 val) x.pc) else .next late
      | .hold t w phase => .next (if phase == 0 then t.holdMe w 0 (warn && w.timesOut) else (pay t).holdMe w phase warn)
      | .again t =>
        .next ((((flag (pay t)).modMe fun y => { y with block := none, lastIssue := s.clk }).modCore core
          fun k => { k with lastCtx := c }).stepTrap core c (rep s))
      | .ended t fin => if x.loads.isEmpty then .next (fin (flag (pay t))) else .next late

/-- A trap of a completed instruction of the acting context of `o`, whose TRET is the next instruction; a step due at this
boundary stays pending (R312, R403, R414). -/
def State.trapAfter (o : State) (f : Form) (code : Nat) (val : Word) (s : State) : State :=
  let me := o.cur
  let s := s.retire me.core me.ctx false (o.me.pc + BitVec.ofNat 64 (formLen f))
  let s := s.modCtx me.core me.ctx fun x => if x.statBit bSTEP && x.tlvl == 0 then { x with step := some (0, 0, 0) } else x
  s.enterTrap me.core me.ctx (causeWord code false 0 0 0 0) val (s.ctx me.core me.ctx).pc

/-- No step report beyond the plain one (R431). -/
def noReport (_ : State) : Nat × Nat × Nat := (0, 0, 0)

/-- The issue of an instruction outside the vector majors that names no format entry, at the cost of a scalar, control
or task instruction (R435). -/
def issue (f : Form) (body : State → Res) (s : State) : Host.Outcome State Fault Refusal :=
  issueWith f 4 (scalarWarn f false) false false noReport body s

/-- The issue of such an instruction at another cost. -/
def issueCost (f : Form) (cost : Nat) (body : State → Res) (s : State) : Host.Outcome State Fault Refusal :=
  issueWith f cost (scalarWarn f false) false false noReport body s

/-- Whether a context has stores that have not been acknowledged (R147). -/
def Core.storesOut (k : Core) (c : Nat) : Bool := k.journal.any fun e => e.2.ctx == c && e.2.state == 1

/-- Whether a request names its own core's stall in the mesh window alone (R40). -/
def Req.loopBack (r : Req) : Bool :=
  r.all.all fun e => meshBase + r.core * 65536 ≤ e.va && e.va < meshBase + r.core * 65536 + 65536

/-- The loads under way that a release of the acting context waits for: all but loop-back ones (R42, R147). -/
def State.loadsBefore (s : State) : List Nat :=
  (s.me.loads.map (·.1)).filter fun id => !(s.reqs.any fun q => q.1 == id && q.2.loopBack)

/-- An instruction that reads or writes registers unnamed waits for loads under way into them (R317). -/
def afterLoads (rs : List Nat) (body : State → Res) (s : State) : Res :=
  match s.me.awaiting rs with
  | [] => body s
  | ids => .hold s (.loads ids) 0

/-- What a release of the acting context waits for, if anything (R147). -/
def State.relWait (s : State) : Option Wait :=
  if s.myCore.storesOut s.cur.ctx then some .acks
  else if s.loadsBefore.isEmpty then none else some (.loads s.loadsBefore)

/-- Requests of the acting core still to be performed on a line of translated memory: what its contexts read or write at the
home follows them (R151). -/
def State.ownOut (s : State) (va : Nat) : List Nat :=
  (s.reqs.filter fun q => q.2.core == s.cur.core && q.2.asid == s.me.asid && !q.2.done &&
    q.2.els.any fun e => e.va / 64 == va / 64).map (·.1)

/-- An access of `n` bytes at `w` that an instruction makes at its home and waits for: it waits for the core's own accesses to
the line, and at the home. -/
def atHome (w : Word) (n : Nat) (need : Need) (body : State → Res) (s : State) : Res :=
  match s.checkVa s.me.vf w n with
  | .ok (.virt va) =>
    match s.ownOut va with
    | [] => if s.homeWaits ⟨s.cur.core, s.cur.ctx, s.me.vf⟩ s.me.asid va need then .hold s .pins 0 else body s
    | ids => .hold s (.performed ids) 0
  | _ => body s

/-- A poisoned delivery to an instruction that reads stall memory at issue is counted (R89). -/
def State.countLa (s : State) (e : Flt) : State :=
  match e.1 == cPOISON, checkLa s.cur.core (BitVec.ofNat 64 e.2) 1 1 with
  | true, .ok (c, _) => s.countErr (stkOf c) 3
  | _, _ => s

/-- A precise fault of an instruction that reads stall memory at issue. -/
def laFault (s : State) (e : Flt) : Res := .fault (s.countLa e) e.1 e.2

/-- An instruction that is a release: it first waits for its context's earlier loads and stores (R143, R147). -/
def asRelease (body : State → Res) (s : State) : Res :=
  match s.relWait with
  | some w => .hold s w 0
  | none => body s

/-- What an acquire of the acting context does when its value arrives (R147). -/
def State.acquire (s : State) : State := s.acquireFor s.cur.core s.cur.ctx

end Sys2Proof.Machine
end

