-- ==== Sys2Proof/Machine/Operands.lean ====
section
/-! DEFINITION. Operand values (spec/11_encoding_and_opcode_map.md R244 to R247; spec/13_scalar_control_task_instructions.md
R278). -/
namespace Sys2Proof

/-- The number of the scalar register that an operand names; 0, whose writes are discarded, for any other kind. -/
def Operand.sreg : Operand → Nat
  | .scalar r => r
  | _ => 0

/-- The number of the predicate that an operand names. -/
def Operand.predNo : Operand → Nat
  | .pred r _ => r
  | _ => 0

/-- The condition code of a predicate or mask operand (R248). -/
def Operand.cc : Operand → Nat
  | .pred _ cc => cc
  | .mask _ cc => cc
  | _ => 0

/-- The unsigned value of an immediate operand. -/
def Operand.immU : Operand → Nat
  | .imm _ v => v
  | _ => 0

/-- The signed value of an immediate operand. -/
def Operand.immS : Operand → Int
  | .imm w v => sxInt w v
  | _ => 0

/-- The number that a track, guard-slot, format-entry, channel, system-register or accumulator operand holds. -/
def Operand.num : Operand → Nat
  | .track t _ _ => t
  | .slot g => g
  | .fmt f => f
  | .chan c => c
  | .sysreg n => n
  | .acc r _ => r
  | .vec r _ => r
  | .mask r _ => r
  | .scalar r => r
  | _ => 0

/-- The format entry that a vector or accumulator operand names. -/
def Operand.entry : Operand → Option Nat
  | .vec _ f => some f
  | .acc _ f => some f
  | _ => Option.none

/-- The port and the direction of a track operand. -/
def Operand.port : Operand → Nat
  | .track _ p _ => p
  | _ => 0

def Operand.down : Operand → Bool
  | .track _ _ d => d
  | _ => false

/-- Whether an operand is absent. -/
def Operand.isNone : Operand → Bool
  | .none => true
  | _ => false

/-- Whether an operand is an LA offset. -/
def Operand.isLa : Operand → Bool
  | .la _ _ => true
  | _ => false

end Sys2Proof

namespace Sys2Proof.Machine

/-- The value of a scalar operand or of an immediate, sign-extended. -/
def Ctx.opS (x : Ctx) : Operand → Word
  | .scalar r => x.sreg r
  | .imm w v => sxWord w v
  | _ => 0

/-- The value of a scalar operand or of an immediate, zero-extended. -/
def Ctx.opU (x : Ctx) : Operand → Word
  | .scalar r => x.sreg r
  | .imm _ v => BitVec.ofNat 64 v
  | _ => 0

/-- The address that an LA offset, a base+offset or a shape-record pointer forms (R244). -/
def Ctx.opAddr (x : Ctx) : Operand → Word
  | .la r d => x.sreg r + BitVec.ofInt 64 d
  | .bo r d => x.sreg r + BitVec.ofInt 64 d
  | .shape r d => x.sreg r + BitVec.ofInt 64 (64 * d)
  | _ => 0

/-- Address of the first parcel of an instruction's word. -/
def wordAddr (f : Form) (x : Ctx) : Word := x.pc + BitVec.ofNat 64 (4 * f.npfx)

/-- A branch target checked at the branch (R279). -/
def branchTo (s : State) (pc : Word) : Res :=
  if !canonical pc then .fault s cADDRNC pc.toNat
  else if pc.toNat % 4 != 0 then .fault s cMISALIGN pc.toNat
  else .jump s pc

end Sys2Proof.Machine
end

