-- ==== Sys2Proof/Machine/Flags.lean ====
section
/-! DEFINITION. Condition codes (spec/11_encoding_and_opcode_map.md R248) and the sticky flags of FCSR
(spec/10_numbers_and_format_table.md R227, R228). -/
namespace Sys2Proof.Machine

/-- The relation of a condition code on 64-bit values (R248, R286). -/
def condHolds (cc : Nat) (a b : Word) : Bool :=
  match cc with
  | 0 => a == b
  | 1 => a != b
  | 2 => a.slt b
  | 3 => a.sle b
  | 4 => b.slt a
  | 5 => b.sle a
  | 6 => a.ult b
  | 7 => a.ule b
  | 8 => b.ult a
  | _ => b.ule a

/-- The events of one rounding or conversion: the flags of FCSR and integer saturation (R227, R400). -/
structure FFlags where
  nv : Bool := false
  dz : Bool := false
  of : Bool := false
  uf : Bool := false
  nx : Bool := false
  sat : Bool := false
  deriving DecidableEq, Repr

/-- No event. -/
def FFlags.none : FFlags := ⟨false, false, false, false, false, false⟩

/-- The events of two elements together (R228). -/
def FFlags.or (a b : FFlags) : FFlags :=
  ⟨a.nv || b.nv, a.dz || b.dz, a.of || b.of, a.uf || b.uf, a.nx || b.nx, a.sat || b.sat⟩

/-- A context with events added to its sticky flags. -/
def Ctx.raise (x : Ctx) (e : FFlags) : Ctx :=
  let f := (x.srGet rFCSR).toNat
  let f' := f.lor (e.nv.toNat * 2 ^ 4 + e.dz.toNat * 2 ^ 5 + e.of.toNat * 2 ^ 6 + e.uf.toNat * 2 ^ 7 + e.nx.toNat * 2 ^ 8)
  let x := x.srSet rFCSR (BitVec.ofNat 64 f')
  if e.sat then x.setStat bSAT true else x

end Sys2Proof.Machine
end

