-- ==== Sys2Proof/Machine/Access.lean ====
section
/-! DEFINITION. The accesses of a context's loads, stores and atomics: checks at issue, requests at their homes, posted
stores and their journal entries, and responses (spec/14_memory_track_copy_instructions.md R316 to R321, R325, R326;
spec/03_caches_translation_network.md R72, R73, R93; spec/06_consistency_model.md R146 to R149). -/
namespace Sys2Proof.Machine

/-- Cycles that a miss adds to its home's latency. -/
def State.fillLat (s : State) (slice : Nat) (t : Trans) : Nat :=
  if t.fab then s.fabricLat t.dev else if t.tier != 0 then 700 else if stackOfPa t.base == slice / 64 then 220 else 280

/-- The stack of the home that an access will find, if it is admitted; in the mesh window that of the target core. -/
def State.homeStack (s : State) (core asid va : Nat) (need : Need) : Option Nat :=
  if meshBase ≤ va then some (stkOf ((va - meshBase) / 65536))
  else match (s.findHome core asid va need).1 with
  | .hit l => some (l.slice / 64)
  | .miss sl _ => some (sl / 64)
  | .fault _ => none

/-! Requests. -/

/-- Whether a request places what it reads in a register, where a poisoned word faults (R89): one that is posted, or sets a
completion bit, keeps the mark of a word that it makes its new value from. -/
def Req.delivers (r : Req) : Bool :=
  r.op.reads && r.jidx.isNone && (match r.dst with
    | .doneBit _ => false
    | _ => true)

/-- Performs one element at a location of its home. -/
def State.performAt (s : State) (r : Req) (e : Elem) (l : Loc) : Except Nat (Nat × Bool) × State :=
  let va := e.va
  match l with
  | .fabric dev _ =>
    match s.fabricRead dev e.size with
    | (.error c, s) => (.error c, s)
    | (.ok v, s) => (.ok (v, false), s)
  | _ =>
    match s.locRead r.asid l va e.size with
    | (.error c, s) => (.error c, s)
    | (.ok (old, bad), s) =>
      let old := if r.op.writes then old else s.seen r.asid l va e.size old
      if bad && r.delivers then (.ok (old, true), s)
      else match r.op.result e old with
        | none => (.ok (old, false), s)
        | some w =>
          match s.locWrite r.core r.asid l va e.size w with
          | .ok s => (.ok (old, false), if bad && r.op.mixes then s.locMark r.asid l va else s)
          | .error c => (.error c, s)

/-- How the service of an element at its home ends. -/
inductive Served where
  | performed (v : Nat) (bad : Bool)
  | missed (slice : Nat) (t : Trans)
  | faulted (c : Nat)
  | holds
  deriving DecidableEq, Repr

/-- Whether a fill that a prefetch asks for is dropped: of a page with a fabric target, or of a line in the poison state
(R323). -/
def State.prefDropped (s : State) (va : Nat) (t : Trans) : Bool :=
  t.fab || (s.physPoison (t.pa va / 64 * 64) 64).isSome

/-- Serves an element at its home (R72, R87, R125). `direct` is the fill that has brought the line, or data that no way is free
for. An acquire of a replicated line reads the remote device (R319). The last component is cycles. -/
def State.serve (s : State) (r : Req) (e : Elem) (direct : Option Fill) : Served × State × Nat :=
  let need := r.op.need
  if r.op.writes && (s.moveOver r.asid e.va).isSome then (.holds, s, 0)
  else
    let first := s.firstHome r.core r.asid e.va
    let straight := ((s.c2Line first r.asid (e.va / 64)).filter fun l => need.covered l.rd l.wr l.ex).isSome
    let s := if straight then s else s.modCtx r.core r.ctx (·.count 7 1)
    match s.findHome r.core r.asid e.va need with
    | (.fault c, s, lat) => (.faulted c, s, lat)
    | (.hit l, s, lat) =>
      if r.op.writes && l.pins != 0 then (.holds, s, lat)
      else
        let far := l.remote && (r.op.writes || r.acq)
        let dev := l.pline / lineTop - 1
        let s := if l.remote || direct.isSome then s else s.addHeat (l.pline * 64)
        let lat := if far then lat + s.fabricLat dev else lat
        match s.performAt r e (if far then .fabric dev (l.pline % lineTop * 64 + e.va % 64) else .line l.slice l.vline) with
        | (.ok (v, bad), s) => (.performed v bad, s, lat)
        | (.error c, s) => (.faulted c, s, lat)
    | (.miss slice t, s, lat) =>
      let now := direct.any fun f => f.slice == slice && f.vline == e.va / 64 && f.asid == r.asid
      if r.op.isPref && s.prefDropped e.va t then (.faulted 0, s, lat)
      else if t.fab && (!t.cacheable e.va || r.op.writes || r.acq || now) then
        match s.performAt r e (.fabric t.dev (t.pa e.va)) with
        | (.ok (v, bad), s) => (.performed v bad, s, lat + s.fabricLat t.dev)
        | (.error c, s) => (.faulted c, s, lat + s.fabricLat t.dev)
      else if now then
        match s.performAt r e (.phys (t.pa e.va)) with
        | (.ok (v, bad), s) => (.performed v bad, s, lat)
        | (.error c, s) => (.faulted c, s, lat)
      else
        (.missed slice t, if t.fab then s else s.addHeat (t.pa e.va), lat)

/-- Starts a fill for a request that missed, or merges it into the one outstanding (R73). -/
def State.startFill (s : State) (id : Nat) (r : Req) (e : Elem) (slice : Nat) (t : Trans) (lat : Nat) : State :=
  match s.fills.find? fun f => f.2.slice == slice && f.2.asid == r.asid && f.2.vline == e.va / 64 with
  | some (k, f) => { s with fills := s.fills.put k { f with waiters := f.waiters ++ [id] } }
  | none =>
    let (k, s) := s.fresh
    let f : Fill := ⟨slice, r.asid, e.va / 64, t, (s.ctx r.core r.ctx).vf, r.core, r.ctx, [id]⟩
    ({ s with fills := s.fills.put k f }).later (lat + s.fillLat slice t) (.c2FillArrival k)

/-- The line of a remote device that a virtual address names, for a core (R26). -/
def State.remoteOf (s : State) (core asid va : Nat) : Option Nat :=
  if meshBase ≤ va then none
  else match (s.translate (s.firstHome core asid va / 64) asid va).1 with
    | .ok t => if t.fab then some (t.pline va) else none
    | .error _ => none

/-- Whether an earlier request of the same core has still to be performed on a line of this one: accesses of one core to
one line keep their order (R151), but a load passes a store that the home holds for a move, over which it sees that store
(R125). A store to a line of a remote device also waits for the acknowledgement of its context's earlier stores to that
line (R161). -/
def State.behind (s : State) (id : Nat) (r : Req) : Bool :=
  s.reqs.any fun q => q.1 < id && q.2.core == r.core &&
    ((q.2.asid == r.asid && !q.2.done &&
        !(s.held.contains q.1 && q.2.els.all fun a => (s.moveOver q.2.asid a.va).isSome) &&
        q.2.els.any fun a => r.els.any fun b => a.va / 64 == b.va / 64) ||
     (q.2.ctx == r.ctx && q.2.jidx.isSome && r.jidx.isSome &&
        q.2.all.any fun a => r.els.any fun b =>
          (s.remoteOf r.core q.2.asid a.va).isSome && s.remoteOf r.core q.2.asid a.va == s.remoteOf r.core r.asid b.va))

/-- Serves the elements of a request that go to translated memory, one after another, until one misses, is held or
faults. -/
def State.advance (s : State) (id : Nat) (direct : Option Fill) (lat : Nat) : Nat → State
  | 0 => s
  | fuel + 1 =>
    match s.reqs.find? (·.1 == id) with
    | none => s
    | some (_, r) =>
      match r.els.find? fun e => e.va < meshBase with
      | none =>
        match r.els with
        | [] =>
          let back := match r.all.getLast? with
            | some e => (homeLat r.core (s.firstHome r.core r.asid e.va) + 1) / 2
            | none => 1
          s.answer id r (lat + back)
        | e :: _ => s.later (lat + meshLat r.core ((e.va - meshBase) / 65536) / 2) (.meshWindowArrival id)
      | some e =>
        match s.serve r e direct with
        | (.performed v bad, s, l) =>
          let bad := bad && r.op.reads
          let s := if bad then s.countErr (s.firstHome r.core r.asid e.va / 64) 3 else s
          let r := { r with els := r.els.erase e, got := r.got ++ [(e.lane, e.pick v)],
                            fault := if bad && r.fault.isNone then some (cPOISON, (extend56 (e.va / 8 * 8)).toNat) else r.fault }
          State.advance { s with reqs := s.reqs.put id r } id direct (lat + l) fuel
        | (.faulted c, s, l) =>
          let r := { r with els := r.els.erase e, fault := r.fault.or (some (c, (extend56 e.va).toNat)) }
          if r.jidx.isSome then State.advance { s with reqs := s.reqs.put id r } id direct (lat + l) fuel
          else ({ s with reqs := s.reqs.put id r }).answer id r (lat + l + homeLat r.core (s.firstHome r.core r.asid e.va) / 2)
        | (.missed slice t, s, l) => s.startFill id r e slice t (lat + l)
        | (.holds, s, _) => { s with held := s.held ++ [id] }

/-! Issue. -/

/-- The at-issue checks of elements at base+offset addresses; lanes keep their numbers. -/
def checkElems (s : State) (al : Nat) : List Elem → List Word → Except Flt Unit
  | _, [] => .ok ()
  | es, w :: ws =>
    match s.checkVa s.me.vf w al with
    | .error e => .error e
    | .ok _ => checkElems s al es ws

/-- A C1 hit for every element of a load: the values by lane, or a poisoned word. -/
def c1Load (k : Core) (asid : Nat) (es : List Elem) : Option (List (Nat × Nat) × Option Nat) :=
  es.foldl (fun acc e =>
    match acc, (k.c1Line asid (e.va / 64)).filter (fun c => e.va < meshBase && c.serves e.va e.size) with
    | some (vs, bad), some c =>
      let (v, p) := c.read e.va e.size
      some (vs ++ [(e.lane, e.pick v)], if p && bad.isNone then some (extend56 (e.va / 8 * 8)).toNat else bad)
    | _, _ => none) (some ([], none))

/-- The state with a load's values in its destination (R316, R344). -/
def Ctx.deliver (x : Ctx) (d : Dst) (got : List (Nat × Nat)) : Ctx :=
  match d with
  | .none => x
  | .doneBit _ => x
  | .scalar r n sg =>
    let v := ((got.head?).map (·.2)).getD 0
    x.setS r (if sg then sxWord (8 * n) v else BitVec.ofNat 64 v)
  | .vec r w zero =>
    let z := zero.foldl (fun v l => setBits v (w * l) w 0) (x.vreg r).toNat
    x.setV r (BitVec.ofNat 512 (got.foldl (fun v g => setBits v (w * g.1) w g.2) z))

/-- Whether a load or atomic of a context has the line of one of its loads under way among its own (R151). -/
def State.loadUnder (s : State) (x : Ctx) (es : List Elem) : Bool :=
  s.reqs.any fun q => x.loads.any (·.1 == q.1) && q.2.all.any fun a => es.any fun b => a.va / 64 == b.va / 64

/-- Whether an element of a load or atomic will find its value, as things stand: it is admitted, not at a remote device, and not
poisoned. The context goes on behind such an access alone, so that its faults stay precise (R28, R317; log entry 16). -/
def State.foreseen (s : State) (core asid : Nat) (need : Need) (e : Elem) : Bool :=
  if meshBase ≤ e.va then (s.stallPoison ((e.va - meshBase) / 65536) (e.va % 65536) e.size).isNone
  else match (s.findHome core asid e.va need).1 with
    | .hit l => !l.remote && ((List.range 8).all fun w => !(bit l.psn w && 8 * w < e.va % 64 + e.size && e.va % 64 < 8 * w + 8))
    | .miss _ t => !t.fab && (s.physPoison (t.pa e.va) e.size).isNone
    | .fault _ => false

/-- A load, an atomic that returns a value or an acquire: from C1 where that may serve it, else by a request. An acquire holds
its context until the value arrives (R147, R321), and so does a single-stepped one and one whose fault is to be taken first; behind
any other the context goes on (R317, R321, R354; log entry 16). The elements have passed their checks. -/
def loadElems (f : Form) (op : ReqOp) (es : List Elem) (d : Dst) (acq rel : Bool) (s : State) : Res :=
  let x := s.me
  let hit := if op == .load && !acq && !s.loadUnder x es then c1Load s.myCore x.asid es else none
  match hit with
  | some (vs, none) => .done (s.setMe (x.deliver d vs))
  | some (_, some p) => .fault (s.countErr (stkOf s.cur.core) 3) cPOISON p
  | none =>
    let x := if op == .load && !acq then x.count 6 1 else x
    let goesOn := !acq && !x.statBit bSTEP && es.all (s.foreseen s.cur.core x.asid op.need)
    let s := s.setMe x
    let s := if op.writes then
        s.modCore s.cur.core fun k => es.foldl (fun k e => if e.va < meshBase then k.c1Store x.asid e.va e.size else k) k
      else s
    let (id, s) := s.submit
      { core := s.cur.core, ctx := s.cur.ctx, asid := x.asid, op := op, els := es, all := es, got := [], dst := d, jidx := none,
        acq := acq, rel := rel, done := false, mesh := es.any fun e => meshBase ≤ e.va, fault := none, len := formLen f }
    if goesOn then .done (s.modMe fun y => { y with loads := y.loads ++ [(id, d, y.pc)] })
    else .hold s (.reply id) 1

/-- The lowest free entry of the journal (R325). -/
def Core.freeEntry (k : Core) : Option Nat := (List.range 64).find? fun i => !k.journal.has i

/-- How a posted store is kept: `strl` is the journal's REL (R325), `rel` whether it is a release, `ar` whether the context is
held for its acknowledgement, and `vec` whether it is a vector's (R354). -/
structure Post where
  strl : Bool := false
  rel  : Bool := false
  ar   : Bool := false
  vec  : Bool := false

/-- A posted store of elements with a journal entry (R318, R325, R354); with the journal full it waits at issue. The
context goes on, or is held for the acknowledgement of an .AR store. -/
def postElems (f : Form) (op : ReqOp) (es : List Elem) (p : Post) (fin : State → Res) (s : State) : Res :=
  let x := s.me
  match es with
  | [] => fin s
  | e0 :: _ =>
    match s.myCore.freeEntry with
    | none => .hold s .journal 0
    | some j =>
      let low := es.foldl (fun a b => if b.lane < a.lane then b else a) e0
      let size := if p.vec then 3 else low.size.log2
      let data := if p.vec then 0 else match op with
        | .rmw _ b _ => b % 2 ^ (8 * low.size)
        | _ => low.data
      let je : JEntry :=
        { state := 1, va := extend56 low.va, data := BitVec.ofNat 64 data, size := size, ctx := s.cur.ctx, cause := 0,
          fab := (s.remoteOf s.cur.core x.asid low.va).isSome, mesh := meshBase ≤ low.va, rel := p.strl, orphan := false,
          launch := none, owed := none }
      let s := s.modCore s.cur.core fun k =>
        es.foldl (fun k e => if e.va < meshBase then k.c1Store x.asid e.va e.size else k) { k with journal := k.journal.put j je }
      let (id, s) := s.submit
        { core := s.cur.core, ctx := s.cur.ctx, asid := x.asid, op := op, els := es, all := es, got := [], dst := .none,
          jidx := some j, acq := p.ar, rel := p.rel, done := false, mesh := es.any fun e => meshBase ≤ e.va, fault := none,
          len := formLen f }
      if p.ar then .hold s (.reply id) 1 else fin s

/-! Answers at the core. -/

/-- The completion of the instruction that holds a context for request `id`. -/
def State.completeHeld (s : State) (core c id len : Nat) (f : State → State) : State :=
  let x := s.ctx core c
  match x.block with
  | some ⟨.reply k, _, _⟩ =>
    if k == id then
      let s := ((f s).warnHeld core c).retire core c false (x.pc + BitVec.ofNat 64 len)
      s.stepTrap core c (0, 0, 0)
    else s
  | _ => s

/-- A precise fault of the instruction that holds a context for request `id`. -/
def State.faultHeld (s : State) (core c id code val : Nat) : State :=
  let x := s.ctx core c
  match x.block with
  | some ⟨.reply k, _, _⟩ =>
    if k == id then s.enterTrap core c (causeWord code false 0 0 0 0) (BitVec.ofNat 64 val) x.pc else s
  | _ => s

/-- The fault of a load that its context has gone on behind, which nothing showed at its issue (log entry 16): it is taken at the
load. -/
def State.faultLate (s : State) (core c id code val : Nat) : State :=
  match (s.ctx core c).loads.find? (·.1 == id) with
  | some l => s.enterTrap core c (causeWord code false 0 0 0 0) (BitVec.ofNat 64 val) l.2.2
  | none => s.faultHeld core c id code val

/-- The lines that a load brought are allocated in C1 where C2 still holds them (R69, R70). -/
def State.fillC1 (s : State) (core asid : Nat) (lines : List Nat) : State :=
  lines.foldl (fun s vl =>
    match s.c2.find? fun l => l.asid == asid && l.vline == vl && (l.home != 2 || l.slice / 16 == quadOf core) with
    | some l => s.modCore core (·.c1Fill l (s.inFlightWords core asid vl))
    | none => s) s

/-- The words that an acknowledged store, atomic or CAS of a core wrote, and that its home still records as the core's own, are
valid and owned in its C1, but for words that another of its stores under way writes (R69, R146). -/
def State.ownWords (s : State) (core asid : Nat) (es : List Elem) : State :=
  es.foldl (fun s e =>
    match s.c2.find? fun l => l.asid == asid && l.vline == e.va / 64 with
    | some l =>
      let busy := s.inFlightWords core asid (e.va / 64)
      let ws := (wordsOf e.va e.size).filter fun w => l.owns.any (fun o => o.1 == w && o.2 == core) && !busy.contains w
      s.modCore core fun k => { k with c1 := k.c1.map fun c =>
        if c.asid == asid && c.vline == e.va / 64 then c.take l true ws else c }
    | none => s) s

/-- Whether a CAS.REL has found another value than it expected: it counts as an atomic load, on which .REL sets STAT.WARN
(R145). -/
def Req.lostCas (r : Req) : Bool :=
  match r.op with
  | .rmw 16 _ x => r.rel && !r.acq && ((r.got.head?).map (·.2)) != some x
  | _ => false

/-- What the answer of a load or atomic makes of its context: the value is written, the words of an atomic count as owned, and
an acquire clears C1 (R145 to R147). -/
def State.arrive (s : State) (r : Req) : State :=
  let s := s.modCtx r.core r.ctx fun x =>
    let x := x.deliver r.dst r.got
    if r.lostCas then x.setStat bWARN true else x
  let s := if r.op == .load && !r.acq then
      s.fillC1 r.core r.asid ((r.all.filter (·.va < meshBase)).map (·.va / 64)).eraseDups
    else if r.op.writes then s.ownWords r.core r.asid (r.all.filter (·.va < meshBase))
    else s
  if r.acq then s.acquireFor r.core r.ctx else s

/-- LOAD_RESPONSE (R28, R89, R146, R147): the value is written, or the fault taken, for the instruction that the context has
gone on behind or is held by; a completion bit that cannot be set is counted (R216). -/
def State.loadResponse (s : State) (id : Nat) : State :=
  match s.reqs.find? (·.1 == id) with
  | none => s
  | some (_, r) =>
    if !r.done then s
    else
      let s := { s with reqs := s.reqs.erase id }
      match r.dst, r.fault with
      | .doneBit vf, some _ => s.doneFailed vf
      | .doneBit _, none => s
      | _, some (c, v) => s.faultLate r.core r.ctx id c v
      | _, none =>
        if (s.ctx r.core r.ctx).loads.any (·.1 == id) then
          (s.arrive r).modCtx r.core r.ctx fun x => { x with loads := x.loads.filter (·.1 != id) }
        else s.completeHeld r.core r.ctx id r.len (·.arrive r)

/-- STORE_ACKNOWLEDGE (R146, R148, R326): the journal entry becomes free; an .AR store lets its context go on. -/
def State.storeAcknowledge (s : State) (id : Nat) : State :=
  match s.reqs.find? (·.1 == id) with
  | some (_, ⟨core, ctx, asid, _, _, all, _, _, some j, acq, _, true, _, _, len⟩) =>
    let s := { s with reqs := s.reqs.erase id }
    let s := (s.ownWords core asid (all.filter (·.va < meshBase))).freeEntryOf core j
    s.completeHeld core ctx id len fun s => if acq then s.acquireFor core ctx else s
  | _ => s

/-- STORE_REFUSAL (R28, R325, R420, R423): the entry is marked refused and the trap becomes due; the refusal of a helper
that has finished kills it. -/
def State.storeRefusal (s : State) (id : Nat) : State :=
  match s.reqs.find? (·.1 == id) with
  | some (_, ⟨core, c, asid, _, _, all, _, _, some j, _, _, true, _, some (code, val), len⟩) =>
    let s := { s with reqs := s.reqs.erase id }
    let s := all.foldl (fun s e => s.revoke core asid (e.va / 64) (wordsOf e.va e.size)) s
    match (s.core core).journal.find? (·.1 == j) with
    | none => s
    | some (_, je) =>
      if je.orphan then
        (s.freeEntryOf core j).killOrphan core c (causeWord code true j 1 0 0) val je.launch
      else
        let s := s.modCore core fun k => { k with journal := k.journal.put j { je with state := 2, cause := code } }
        let s := s.modCtx core c fun x => { x with refusal := true }
        s.completeHeld core c id len fun s => s
  | _ => s

/-- C2_REQUEST (R72): a request is served at its home, behind earlier requests of its core to the same lines. -/
def State.c2Request (s : State) (id : Nat) : State :=
  match s.reqs.find? (·.1 == id) with
  | none => s
  | some (_, r) =>
    if r.done || s.held.contains id || (s.fills.any fun f => f.2.waiters.contains id) then s
    else if s.behind id r then s.later 1 (.c2Request id)
    else s.advance id none 0 (r.els.length + 1)

/-- C2_FILL_ARRIVAL (R73, R79, R80, R82, R88): the line is installed under its quota, or its data is served without
being kept; the requests merged into the fill are served in arrival order. A fill over a pinned old line, or without tokens,
waits (R80, R436); one whose line the device's own work has brought meanwhile brings nothing (R73). -/
def State.c2FillArrival (s : State) (k : Nat) : State :=
  match s.fills.find? (·.1 == k) with
  | none => s
  | some (_, f) =>
    let va := f.vline * 64
    if s.fillWaits f.slice f.asid va f.vf f.tr then s.later 16 (.c2FillArrival k)
    else if (s.c2Line f.slice f.asid f.vline).isSome then
      f.waiters.foldl (fun s id => s.advance id (some f) 0 200) { s with fills := s.fills.erase k }
    else
      let s := { s with fills := s.fills.erase k }
      let who : Who := ⟨f.core, f.ctx, f.vf⟩
      let refuse (s : State) (c : Nat) : State := f.waiters.foldl (fun s id =>
        match s.reqs.find? (·.1 == id) with
        | some (_, r) => s.answer id { r with fault := some (c, (extend56 ((r.els.headD ⟨0, va, 0, 0, 0⟩).va)).toNat), els := [] } 1
        | none => s) s
      if f.tr.fab then
        match s.fabricRead f.tr.dev 64 with
        | (.error c, s) => refuse s c
        | (.ok d, s) =>
          let s := s.fillLine f.slice who f.asid va f.tr (some (BitVec.ofNat 512 d))
          f.waiters.foldl (fun s id => s.advance id (some f) 0 200) s
      else
        let s := s.fillLine f.slice who f.asid va f.tr none
        f.waiters.foldl (fun s id => s.advance id (some f) 0 200) s

/-- The requests held at their homes try again in arrival order (R87, R125). -/
def State.retryHeld (s : State) : State :=
  let ids := s.held
  ids.foldl (fun s id => s.advance id none 0 200) { s with held := [] }

/-- MESH_WINDOW_ARRIVAL (R14, R35, R88): the elements of a request that name a stall are performed at its banks. -/
def State.meshArrival (s : State) (id : Nat) : State :=
  match s.reqs.find? (·.1 == id) with
  | none => s
  | some (_, r) =>
    if r.done then s
    else
      let mine := r.els.filter fun e => meshBase ≤ e.va
      let target := (((mine.headD ⟨0, meshBase, 0, 0, 0⟩).va) - meshBase) / 65536
      let (s, r) := mine.foldl (fun (acc : State × Req) e =>
        let (s, r) := acc
        let core := (e.va - meshBase) / 65536
        let off := e.va % 65536
        let old := s.stallRead core off e.size
        let bad := s.stallPoison core off e.size
        match (if r.delivers then bad else none) with
        | some p =>
          let v := (extend56 (e.va - off + p - stallPa core 0)).toNat
          (s.countErr (stkOf core) 3, { r with els := r.els.erase e, fault := r.fault.or (some (cPOISON, v)) })
        | none =>
          let s := match r.op.result e old with
            | some w =>
              let s := s.stallWrite core off e.size w
              if bad.isSome && r.op.mixes then s.stallMark core off e.size else s
            | none => s
          (s, { r with els := r.els.erase e, got := r.got ++ [(e.lane, e.pick old)] })) (s, r)
      ({ s with reqs := s.reqs.put id r }).answer id r ((meshLat r.core target + 1) / 2)

end Sys2Proof.Machine
end

