-- ==== Sys2Proof/Machine/Number.lean ====
section
/-! DEFINITION. Number formats, exact values, rounding and conversion (spec/10_numbers_and_format_table.md R221 to R232). -/
namespace Sys2Proof.Machine

/-- A format entry (R221). -/
structure Ent where
  sgn   : Bool
  ew    : Nat
  fw    : Nat
  bias  : Int
  pol   : Nat
  sub   : Bool
  cw    : Nat
  valid : Bool
  deriving DecidableEq, Repr

/-- The fields of an entry's word. -/
def entOf (x : FmtWord) : Ent :=
  let n := x.toNat
  ⟨bit n 0, bits n 1 4, bits n 5 5, sxInt 9 (bits n 10 9), bits n 19 3, bit n 22, bits n 23 3, bit n 31⟩

/-- The container width (R221). -/
def Ent.w (e : Ent) : Nat := 4 * 2 ^ e.cw

/-- Elements of a register under an entry (R224). -/
def Ent.lanes (e : Ent) : Nat := 512 / e.w

/-- Whether an entry is an integer format. -/
def Ent.int (e : Ent) : Bool := e.pol == 3

/-- The conditions of R222 on a word with V = 1. -/
def entryLegal (x : FmtWord) : Bool :=
  let n := x.toNat
  let e := entOf x
  let s := e.sgn.toNat
  bits n 23 3 ≤ 3 && bits n 26 5 == 0 &&
  match e.pol with
  | 0 => 2 ≤ e.ew && e.ew ≤ 11 && 1 ≤ e.fw && e.fw ≤ 23 && s + e.ew + e.fw == e.w
  | 1 => 1 ≤ e.ew && e.ew ≤ 11 && e.fw ≤ 23 && s + e.ew + e.fw == e.w
  | 2 => 1 ≤ e.ew && e.ew ≤ 11 && e.fw ≤ 23 && s + e.ew + e.fw == e.w
  | 3 => e.ew == 0 && e.fw == 0 && e.bias == 0 && !e.sub
  | 4 => 1 ≤ e.ew && e.ew ≤ 11 && e.fw == 0 && s + e.ew == e.w && !e.sub
  | 5 => e.w == 4 && !e.sgn && e.ew == 0 && e.fw == 0 && !e.sub && 0 ≤ e.bias && e.bias ≤ 63
  | _ => false

/-- An exact value: a NaN with its sign, whether it signals, and its fraction of `fw` bits; an infinity; a zero; or
±m × 2^x, where `more` says that a nonzero amount below 2^x is left out. -/
inductive Val where
  | nan (neg sig : Bool) (f fw : Nat)
  | inf (neg : Bool)
  | zero (neg : Bool)
  | fin (neg : Bool) (m : Nat) (x : Int) (more : Bool)
  deriving DecidableEq, Repr

/-- The default quiet NaN (R225). -/
def Val.dnan : Val := .nan false false 1 1

/-- The sign of a value. -/
def Val.neg : Val → Bool
  | .nan n _ _ _ => n
  | .inf n => n
  | .zero n => n
  | .fin n _ _ _ => n

/-- A value with its sign set. -/
def Val.withSign (v : Val) (n : Bool) : Val :=
  match v with
  | .nan _ s f w => .nan n s f w
  | .inf _ => .inf n
  | .zero _ => .zero n
  | .fin _ m x b => .fin n m x b

/-- A value with its sign inverted. -/
def Val.negate (v : Val) : Val := v.withSign (!v.neg)

def Val.isNan : Val → Bool
  | .nan _ _ _ _ => true
  | _ => false

def Val.isSig : Val → Bool
  | .nan _ s _ _ => s
  | _ => false

def Val.isInf : Val → Bool
  | .inf _ => true
  | _ => false

def Val.isZero : Val → Bool
  | .zero _ => true
  | _ => false

/-- The value of an integer. -/
def Val.ofInt (i : Int) : Val := if i == 0 then .zero false else .fin (decide (i < 0)) i.natAbs 0 false

/-- The value ±m × 2^x, or the zero of its sign. -/
def Val.mk (neg : Bool) (m : Nat) (x : Int) : Val := if m == 0 then .zero neg else .fin neg m x false

/-- The value that a container holds (R225). POL 5 codes have no value of their own and read as natural numbers. -/
def Ent.decode (e : Ent) (c : Nat) : Val :=
  let c := c % 2 ^ e.w
  if e.pol == 3 then Val.ofInt (if e.sgn then sxInt e.w c else c)
  else if e.pol == 5 then Val.ofInt c
  else
    let s := e.sgn && bit c (e.w - 1)
    let ex := bits c e.fw e.ew
    let f := c % 2 ^ e.fw
    let top := 2 ^ e.ew - 1
    if e.pol == 0 && ex == top then
      if f == 0 then .inf s else .nan s (!bit f (e.fw - 1)) f e.fw
    else if e.pol == 1 && ex == top && f == 2 ^ e.fw - 1 then .nan s false f e.fw
    else if ex == 0 then
      if e.pol == 4 || !e.sub then .zero s else Val.mk s f (1 - e.bias - e.fw)
    else .fin s (2 ^ e.fw + f) (ex - e.bias - e.fw) false

/-- The integer that a POL 3 container holds (R225). -/
def Ent.decodeInt (e : Ent) (c : Nat) : Int := if e.sgn then sxInt e.w c else (c % 2 ^ e.w : Nat)

/-- The highest finite magnitude's encoding, exponent and fraction together (R225). -/
def Ent.topEnc (e : Ent) : Nat :=
  let t := 2 ^ e.ew - 1
  match e.pol with
  | 0 => (t - 1) * 2 ^ e.fw + (2 ^ e.fw - 1)
  | 1 => t * 2 ^ e.fw + (2 ^ e.fw - 1) - 1
  | _ => t * 2 ^ e.fw + (2 ^ e.fw - 1)

/-- The largest finite value as m × 2^x. -/
def Ent.largest (e : Ent) : Nat × Int :=
  match e.decode e.topEnc with
  | .fin _ m x _ => (m, x)
  | _ => (0, 0)

/-- Whether m × 2^x is greater than n × 2^y. -/
def magGt (m : Nat) (x : Int) (n : Nat) (y : Int) : Bool :=
  let b := min x y
  decide (n * 2 ^ (y - b).toNat < m * 2 ^ (x - b).toNat)

/-- floor(log2) of m × 2^x, for m above 0. -/
def binade (m : Nat) (x : Int) : Int := m.log2 + x

/-- The spacing of an entry's extended values at a binade, as a power of two (R226). -/
def Ent.quantum (e : Ent) (b : Int) : Int :=
  if e.pol == 3 then 0
  else if e.sub && b < 1 - e.bias then 1 - e.bias - e.fw
  else b - e.fw

/-- The integer part of m × 2^x in units of 2^q, whether the rest is zero, half or more than half (0, 2, 3; 1 is less
than half), and the first 24 bits of the rest (R226, R229). -/
def splitAt (m : Nat) (x q : Int) (more : Bool) : Nat × Nat × Nat :=
  if q ≤ x then (m * 2 ^ (x - q).toNat, if more then 1 else 0, 0)
  else
    let k := (q - x).toNat
    let n := m / 2 ^ k
    let r := m % 2 ^ k
    let c := if r == 0 && !more then 0
      else if r * 2 < 2 ^ k then 1
      else if r * 2 == 2 ^ k && !more then 2 else 3
    (n, c, r * 2 ^ 24 / 2 ^ k)

/-- Whether rounding goes up from the integer part under a mode (R226, R229): `odd` is bit 0 of the lower neighbour's
encoding, `d` the first 24 bits of the rest. -/
def roundsUp (rm : Nat) (neg odd : Bool) (c d rnd : Nat) : Bool :=
  if c == 0 then false
  else match rm with
    | 2 => false
    | 3 => !neg
    | 4 => neg
    | 5 => 2 ≤ c
    | 6 => 2 ^ 24 ≤ d + rnd
    | _ => c == 3 || (c == 2 && odd)

/-- Bits of the magnitude n × 2^q of an entry, n above 0 (R225). -/
def Ent.encMag (e : Ent) (n : Nat) (q : Int) : Nat :=
  let b := binade n q
  if e.sub && b < 1 - e.bias then n * 2 ^ (q - (1 - e.bias - e.fw)).toNat
  else
    let f := if n.log2 ≤ e.fw then n * 2 ^ (e.fw - n.log2) else n / 2 ^ (n.log2 - e.fw)
    (b + e.bias).toNat * 2 ^ e.fw + (f - 2 ^ e.fw)

/-- A container with a sign and a magnitude. -/
def Ent.signed (e : Ent) (neg : Bool) (mag : Nat) : Nat := if e.sgn && neg then 2 ^ (e.w - 1) + mag else mag

/-- The range of a POL 3 entry. -/
def Ent.intMin (e : Ent) : Int := if e.sgn then -(2 ^ (e.w - 1) : Nat) else 0
def Ent.intMax (e : Ent) : Int := if e.sgn then (2 ^ (e.w - 1) : Nat) - 1 else (2 ^ e.w : Nat) - 1

/-- An integer saturated at an entry's range, with its event (R230). -/
def Ent.satInt (e : Ent) (i : Int) : Nat × FFlags :=
  if i < e.intMin then (wrapNat e.w e.intMin, { FFlags.none with sat := true })
  else if e.intMax < i then (wrapNat e.w e.intMax, { FFlags.none with sat := true })
  else (wrapNat e.w i, FFlags.none)

/-- An integer result: it wraps, or saturates under SAT (R346). -/
def Ent.putInt (e : Ent) (sat : Bool) (i : Int) : Nat × FFlags :=
  if sat then e.satInt i else (wrapNat e.w i, FFlags.none)

/-- The infinity of an entry with the overflow of R230 and R231. -/
def Ent.overflow (e : Ent) (rm : Nat) (neg : Bool) : Nat × FFlags :=
  let fl : FFlags := { FFlags.none with of := true, nx := true }
  let inf := match rm with
    | 2 => false
    | 3 => !neg
    | 4 => neg
    | _ => true
  if e.pol == 0 && inf then (e.signed neg ((2 ^ e.ew - 1) * 2 ^ e.fw), fl) else (e.signed neg e.topEnc, fl)

/-- A value placed in an entry under a rounding mode (R230, R231): its container and its events. `rnd` are the 24
random bits of R229. -/
def Ent.encode (e : Ent) (rm rnd : Nat) (v : Val) : Nat × FFlags :=
  let v : Val := if !e.sgn && e.pol != 3 then v.withSign (v.neg && (match v with | .zero _ => false | _ => true)) else v
  match v with
  | .nan neg sig f fw =>
    let nv : FFlags := { FFlags.none with nv := sig }
    match e.pol with
    | 0 =>
      let g := if fw ≤ e.fw then f * 2 ^ (e.fw - fw) else f / 2 ^ (fw - e.fw)
      (e.signed neg ((2 ^ e.ew - 1) * 2 ^ e.fw + setBits g (e.fw - 1) 1 1), nv)
    | 1 => (e.signed neg ((2 ^ e.ew - 1) * 2 ^ e.fw + (2 ^ e.fw - 1)), nv)
    | _ => (0, { FFlags.none with nv := true })
  | .zero neg => (if e.pol == 3 then 0 else e.signed neg 0, FFlags.none)
  | .inf neg =>
    if e.pol == 3 then (wrapNat e.w (if neg then e.intMin else e.intMax), { FFlags.none with sat := true })
    else if neg && !e.sgn then (0, { FFlags.none with uf := true, nx := true })
    else if e.pol == 0 then (e.signed neg ((2 ^ e.ew - 1) * 2 ^ e.fw), FFlags.none)
    else (e.signed neg e.topEnc, { FFlags.none with of := true, nx := true })
  | .fin neg m x more =>
    if neg && !e.sgn then
      if e.pol == 3 then (0, { FFlags.none with sat := true }) else (0, { FFlags.none with uf := true, nx := true })
    else
      let b := binade m x
      let q := e.quantum b
      let (n, c, d) := splitAt m x q more
      let odd := if e.pol != 3 && e.fw == 0 && 0 < n then (b + e.bias) % 2 == 1 else n % 2 == 1
      let n := if roundsUp rm neg odd c d rnd then n + 1 else n
      let nx := c != 0
      if e.pol == 3 then
        let i : Int := if neg then -(n : Int) else n
        let (r, fl) := e.satInt i
        (r, if fl.sat then fl else { FFlags.none with nx := nx })
      else
        let (lm, lx) := e.largest
        let tiny := b < 1 - e.bias
        if n == 0 then (e.signed neg 0, { FFlags.none with uf := true, nx := true })
        else if magGt n q lm lx then e.overflow rm neg
        else if !e.sub && binade n q < 1 - e.bias then (e.signed neg 0, { FFlags.none with uf := true, nx := true })
        else (e.signed neg (e.encMag n q), { FFlags.none with uf := tiny && nx, nx := nx })

/-- The generator of R229: 24 bits for element `j`. -/
def rstoBits (seed : Word) (j : Nat) : Nat :=
  let x := seed ^^^ (BitVec.ofNat 64 j * 0x9E3779B97F4A7C15)
  let x := (x ^^^ (x >>> 30)) * 0xBF58476D1CE9E4B5
  let x := (x ^^^ (x >>> 27)) * 0x94D049BB133111EB
  let x := x ^^^ (x >>> 31)
  x.toNat / 2 ^ 40

/-! Exact arithmetic on values. -/

/-- The first NaN among operands, quieted (R232). -/
def firstNan (vs : List Val) : Option Val :=
  (vs.find? Val.isNan).map fun v => match v with
    | .nan n _ f w => .nan n false f w
    | v => v

/-- NV where any operand signals (R232). -/
def sigFlags (vs : List Val) : FFlags := { FFlags.none with nv := vs.any Val.isSig }

/-- A signed mantissa at a common exponent. -/
def Val.scaled (v : Val) (b : Int) : Int :=
  match v with
  | .fin neg m x _ => let k : Int := m * 2 ^ (x - b).toNat; if neg then -k else k
  | _ => 0

/-- The exponent of a value's last bit. -/
def Val.exp (v : Val) : Option Int :=
  match v with
  | .fin _ _ x _ => some x
  | _ => none

/-- The exact sum of values that are not NaN (R232, R239). `rdn` says that the mode is RDN. -/
def sumVals (rdn : Bool) (vs : List Val) : Val × FFlags :=
  if vs.any (fun v => v.isInf && v.neg) && vs.any (fun v => v.isInf && !v.neg) then
    (.dnan, { FFlags.none with nv := true })
  else match vs.find? Val.isInf with
    | some v => (v, FFlags.none)
    | none =>
      let xs := vs.filterMap Val.exp
      let b := xs.foldl min (xs.headD 0)
      let t := vs.foldl (fun (t : Int) v => t + v.scaled b) 0
      if t != 0 then (Val.mk (decide (t < 0)) t.natAbs b, FFlags.none)
      else if vs.all (fun v => v.isZero && v.neg) then (.zero true, FFlags.none)
      else if vs.all (fun v => v.isZero && !v.neg) then (.zero false, FFlags.none)
      else (.zero rdn, FFlags.none)

/-- The product of two values that are not NaN; `none` is 0 × ∞ (R232). -/
def mulVals (a b : Val) : Option Val :=
  let n := a.neg != b.neg
  match a, b with
  | .fin _ m x _, .fin _ k y _ => some (.fin n (m * k) (x + y) false)
  | .inf _, .zero _ => none
  | .zero _, .inf _ => none
  | .inf _, _ => some (.inf n)
  | _, .inf _ => some (.inf n)
  | _, _ => some (.zero n)

/-- The order of two values that are not NaN, with −0 equal to +0: −1, 0 or 1. -/
def cmpVals (a b : Val) : Int :=
  let key (v : Val) : Int := match v with
    | .inf n => if n then -2 else 2
    | .fin n _ _ _ => if n then -1 else 1
    | _ => 0
  if key a != key b then (if key a < key b then -1 else 1)
  else match a, b with
    | .fin _ _ x _, .fin _ _ y _ =>
      let c := min x y
      let d := a.scaled c - b.scaled c
      if d < 0 then -1 else if d == 0 then 0 else 1
    | _, _ => 0

end Sys2Proof.Machine
end

