-- ==== Sys2Proof/Machine/Format.lean ====
section
/-! DEFINITION. The format entries that an instruction uses (spec/10_numbers_and_format_table.md R233, R234), and the
entries that a pending FMTP names for its positions (spec/11_encoding_and_opcode_map.md R251, R252;
spec/17_format_and_system_instructions.md R398). -/
namespace Sys2Proof.Machine

/-- The positions of operands, as FMTP's fields number them (R251). -/
inductive Pos where
  | d | a | b
  deriving DecidableEq, Repr

/-- Number of a position: field [5 n + 4 : 5 n] of PFXH, and bit 16 + n. -/
def Pos.no : Pos → Nat
  | .d => 0
  | .a => 1
  | .b => 2

/-- The operand of a form at a position. -/
def Pos.of (p : Pos) (f : Form) : Operand :=
  match p with
  | .d => f.d
  | .a => f.a
  | .b => f.b

/-- The entry that a pending FMTP names for a position, if any (R251). -/
def Ctx.pfxEntry (x : Ctx) (p : Pos) : Option Nat :=
  let h := (x.srGet rPFXH).toNat
  if x.statBit bPFX && bit h (16 + p.no) then some (bits h (5 * p.no) 5) else none

/-- The entry of the operand at a position: its own format subfield, or what FMTP names instead (R251). -/
def Ctx.entryNo (x : Ctx) (f : Form) (p : Pos) : Nat := (x.pfxEntry p).getD ((p.of f).entry.getD 0)

/-- Whether an operand is a shape-record pointer. -/
def isShape : Operand → Bool
  | .shape _ _ => true
  | _ => false

/-- Whether an operand carries a format subfield, or is a shape-record pointer, whose record gives one (R398). -/
def hasFormat (o : Operand) : Bool := o.entry.isSome || isShape o

/-- Whether an instruction names a format entry (R252). -/
def namesEntry (f : Form) : Bool := hasFormat f.d || hasFormat f.a || hasFormat f.b

/-- Whether a pending FMTP names an entry for a position whose operand takes none: ignored, with STAT.WARN (R398). -/
def Ctx.strayEntry (x : Ctx) (f : Form) : Bool :=
  [Pos.d, Pos.a, Pos.b].any fun p => (x.pfxEntry p).isSome && !hasFormat (p.of f)

/-- A valid entry for use by an instruction, or FMTINV (R233). -/
def validEntry (x : Ctx) (e : Nat) : Except Flt Ent :=
  let t := entOf (x.fent e)
  if t.valid then .ok t else .error (cFMTINV, e)

/-- An entry that an instruction other than VQUANT and VDEQ uses: POL 5 raises FMTUSE (R233). -/
def plainEntry (x : Ctx) (e : Nat) : Except Flt Ent :=
  match validEntry x e with
  | .error z => .error z
  | .ok t => if t.pol == 5 then .error (cFMTUSE, e) else .ok t

end Sys2Proof.Machine
end

