-- ==== Sys2Proof/Machine/Launch.lean ====
section
/-! DEFINITION. Launch records, their acceptance and placement (spec/09_launch_and_scheduling.md R210 to R212, R215, R218,
R471) and the start of a control context (spec/08_execution_model.md R182, R195). -/
namespace Sys2Proof.Machine

/-! Status values (spec/13_scalar_control_task_instructions.md R293). -/
def stOK : Nat := 0
def stBUSY : Nat := 1
def stBADHELP : Nat := 2
def stBADREC : Nat := 3
def stUNDERFLOW : Nat := 4
def stQFULL : Nat := 5
def stBADLREC : Nat := 6
def stLQFULL : Nat := 7
def stPUSHED : Nat := 8
def stTIMEOUT : Nat := 9
def stNOTMEMBER : Nat := 10
def stCOMPLETE : Nat := 11
def stOVERRUN : Nat := 12

/-! Slots of the table (R207). -/
def slotOffs (raw : Nat) : Nat := bits raw 0 32
def slotLen (raw : Nat) : Nat := bits raw 32 32
def slotKind (raw : Nat) : Nat := bits raw 64 2
def slotDefer (raw : Nat) : Bool := bit raw 66
def slotVf (raw : Nat) : Nat := bits raw 68 6
def slotQueue (raw : Nat) : Nat := bits raw 74 8

def State.slotRaw (s : State) (i : Nat) : Nat := s.pkg.ttSlot.get i 0

/-- Whether a function is under a quiesce (R208). -/
def State.quietVf (s : State) (vf : Nat) : Bool :=
  s.tt.any fun e => slotKind (s.slotRaw e.1) == 3 && slotVf (s.slotRaw e.1) == vf && s.ns < e.2.until_

/-- The physical address of a virtual address in a page of local-target HBM with the rights asked, or the fault. -/
def State.localPa (s : State) (core asid va : Nat) (need : Need) : Except Nat Nat × State :=
  match s.translate (stkOf core) asid va with
  | (.error c, s, _) => (.error c, s)
  | (.ok t, s, _) =>
    match transFault t need va with
    | some c => (.error c, s)
    | none => (if t.fab || t.tier != 0 then .error cPAFLT else .ok (t.pa va), s)

/-- The 1,024 bits of a launch record named by a virtual address, where it may be read (R212). -/
def State.readLrec (s : State) (core asid va : Nat) : Option Nat × State :=
  if va % 64 != 0 || meshBase ≤ va then (none, s)
  else match s.localPa core asid va .rd, s.localPa core asid ((va + 64) % 2 ^ 56) .rd with
    | (.ok p, _), (.ok q, s') => (some (s.physRead p 64 + 2 ^ 512 * s.physRead q 64), s')
    | _, (_, s') => (none, s')

/-! Fields of a launch record (R210). -/
def lrExt (raw k : Nat) : Nat := bits raw (192 + 8 * k) 4
def lrScope (raw k : Nat) : Nat := bits raw (196 + 8 * k) 2
def lrNlev (raw : Nat) : Nat := bits raw 160 3
def lrAsid (raw : Nat) : Nat := bits raw 128 16
def lrXlen (raw : Nat) : Nat := bits raw 416 13
def lrGid (raw : Nat) : Nat := bits raw 832 16

/-- The reserved fields of a record, as lowest bit and width, but for those of the levels (R210, R212). -/
def lrReserved : List (Nat × Nat) :=
  [(187, 5), (272, 48), (360, 24), (429, 3), (432, 1), (544, 32), (576, 6), (596, 44), (696, 8), (761, 7), (831, 1),
   (851, 45), (952, 8), (1016, 8)]

/-- Extent limits of W0 to W7 (R195). -/
def extLimit : List Nat := [10, 8, 4, 4, 8, 4, 4, 1]

/-- Cores of one unit of each level, W1 to W7. -/
def unitCores (k : Nat) : Nat := [1, 1, 8, 32, 128, 1024, 4096, 16384].getD k 16384

/-- The checks of R212 on the fields of a record alone. -/
def lrecOk (s : State) (vf raw : Nat) : Bool :=
  lrReserved.all (fun r => bits raw r.1 r.2 == 0) &&
  (List.range 8).all (fun k => bits raw (198 + 8 * k) 2 == 0) &&
  (List.range (lrNlev raw + 1)).all (fun k =>
    1 ≤ lrExt raw k && lrExt raw k ≤ extLimit.getD k 1 && lrScope raw k != 3 && (k < 5 || lrScope raw k != 0)) &&
  lrAsid raw / 1024 == vf && 1 ≤ lrXlen raw && lrXlen raw ≤ 4096 && bits raw 167 10 != 0 &&
  8 ≤ bits raw 592 4 && bits raw 592 4 ≤ 14 && bits raw 576 16 + 2 ^ bits raw 592 4 ≤ 65536 && !(s.vf vf).resetting

/-- The cores of a placement at an origin in unit order, or `none` where it passes a parent (R211, R212). -/
def placeAt (raw org : Nat) : Option (List Nat) :=
  (List.range 6).foldl (fun (acc : Option (List Nat)) i =>
    let k := i + 1
    let e := if k ≤ lrNlev raw then lrExt raw k else 1
    let size := unitCores k
    let first := org / size % (unitCores (k + 1) / size)
    acc.bind fun cs =>
      if first + e ≤ unitCores (k + 1) / size then
        some ((List.range e).flatMap fun j => cs.map fun c => c + j * size)
      else none) (some [org])

/-- Whether a core holds a live context (R211): a helper in DRAIN has finished its routine (R181). -/
def State.coreBusy (s : State) (core : Nat) : Bool := (List.range numCtxs).any fun c => (s.ctx core c).live

/-- The cores that a record places, or `none` (R211, R212). -/
def State.place (s : State) (vf raw : Nat) : Option (List Nat) :=
  let ok (cs : List Nat) : Bool := cs.all (s.hasCore vf)
  if bit raw 270 then
    (List.range numCores).findSome? fun o => (placeAt raw o).filter fun cs => ok cs && !cs.any s.coreBusy
  else (placeAt raw (bits raw 256 14)).filter ok

/-- The masks of the domains that a record uses, each with its check (R196, R212). -/
def State.readMasks (s : State) (core raw : Nat) (cores : List Nat) : List Nat → Option (Assoc Nat) × State
  | [] => (some [], s)
  | k :: rest =>
    if !bit raw (504 + k) then State.readMasks s core raw cores rest
    else
      match s.virtRead ⟨core, 0, lrAsid raw / 1024⟩ (lrAsid raw) ((bits raw 448 56 + 128 * k) % 2 ^ 56) 128 .rd with
      | (.error _, s) => (none, s)
      | (.ok (m, _), s) =>
        let quad := bits raw (514 + 4 * k) 2 * 4 + bits raw (512 + 4 * k) 2
        let named := (List.range 1024).filter (bit m)
        if named.isEmpty || !named.all (fun i => cores.contains (quad * 1024 + i)) then (none, s)
        else match State.readMasks s core raw cores rest with
          | (some ms, s) => (some ((k, m) :: ms), s)
          | (none, s) => (none, s)

/-- The core queue of placed core `k`, set where the queue in force is empty (R211, R471). -/
def State.setCoreQueue (s : State) (raw k core : Nat) : State :=
  let empty := match (s.core core).queue with
    | none => true
    | some q => q.inRing == 0 && q.inSpill == 0
  if !empty then s
  else
    let q : CoreQ := ⟨lrAsid raw / 1024, lrAsid raw, bits raw 576 16, bits raw 592 4, 0, 0,
      (bits raw 640 56 + 65536 * k) % 2 ^ 56, 0, 0, 0, 0, 0, QRun.zero, QRun.zero, 0, 0, []⟩
    (s.setQueue core q).spillPointers core q

/-- The entry of unit `u` of a launch (R211). -/
def unitEntry (raw core u : Nat) : QRun :=
  ⟨bits raw 0 64, (bits raw 64 64 + u * bits raw 144 16 * 64) % 2 ^ 64, 0, 0, core, lrAsid raw, 0⟩

/-- The core of unit `u`: units are numbered with W0 fastest (R211). -/
def unitCore (l : Launch) (u : Nat) : Nat := l.cores.getD (u / lrExt l.raw 0) 0

/-- Pushes one unit of a launch, which leaves the units that wait; where the queue has no room the unit waits on. -/
def State.pushUnit (s : State) (lid u : Nat) : State :=
  match s.launches.find? (·.1 == lid) with
  | none => s
  | some (_, l) =>
    let core := unitCore l u
    match s.pushRecord core (unitEntry l.raw core u) (some lid) with
    | some s => { s with launches := s.launches.put lid { l with waiting := l.waiting.filter (· != u) } }
    | none => s.later 64 (.conUnitStart lid u)

/-- What a launch does to a control context in WAIT (R182): the listed state; format table, SHCHG, ownership, TVEC and
trap registers are kept. -/
def Ctx.startControl (x : Ctx) (code frame ctxid : Word) (launch : Nat) : Ctx :=
  let sr := [rLS 0, rLS 1, rLS 2, rLS 3, rLE 0, rLE 1, rLE 2, rLE 3, rLC 0, rLC 1, rLC 2, rLC 3, rLOOPST, rPREDS, rVCNT].foldl
    (fun m n => Assoc.erase m n) x.sr
  let y := { x with st := .ready, pc := code, s := Assoc.set [] 62 frame 0, guards := [], sr := sr, launch := some launch,
                    idle := false, block := none, drawn := 0, loads := [], shapes := [], tryAt := 0, warnHeld := false }
  ((y.srSet rCTXID ctxid).setStat bPFX false).setTlvl 0

/-- The control context of a placed core started by a launch with CTLRUN (R182): its routine is one more record. -/
def State.startControl (s : State) (lid core : Nat) : State :=
  match s.launches.find? (·.1 == lid) with
  | none => s
  | some (_, l) =>
    let x := s.ctx core 0
    if !(x.idle && x.st == .wait) then s
    else
      let u := lrExt l.raw 0 * (l.cores.findIdx (· == core))
      let e := unitEntry l.raw core u
      let y := x.startControl (BitVec.ofNat 64 e.code) (BitVec.ofNat 64 e.frame) (BitVec.ofNat 64 e.asid) lid
      ((s.setCtx core 0 y).acquireFor core 0).recordAdded (some lid)

/-- Sets up the cores of an accepted record and registers the launch; its units wait to be pushed (R211, R212). -/
def State.openLaunch (s : State) (vf raw : Nat) (cores : List Nat) (masks : Assoc Nat) (slot gang : Option Nat) :
    Nat × State :=
  let (lid, s) := s.fresh
  let units := lrExt raw 0 * cores.length
  let l : Launch := ⟨raw, vf, lrAsid raw, cores, units, List.range units, slot, gang, false, masks⟩
  let s := { s with launches := s.launches.put lid l }
  let s := (cores.zip (List.range cores.length)).foldl (fun s ck =>
    let s := s.modCore ck.1 fun k =>
      { (k.srSet rHPOOL (BitVec.ofNat 64 (bits raw 167 10 * 2))).srSet rMXW (BitVec.ofNat 64 (max 1 (bits raw 163 4)))
        with launch := some lid }
    s.setCoreQueue raw ck.2 ck.1) s
  let s := if bit raw 271 then cores.foldl (fun s c => s.startControl lid c) s else s
  (lid, s)

/-- Starts the units of a launch: each is pushed, or waits for its completion bit under CON (R211, R215). -/
def State.startUnits (s : State) (lid : Nat) : State :=
  match s.launches.find? (·.1 == lid) with
  | none => s
  | some (_, l) =>
    l.waiting.foldl (fun s u => if bit l.raw 760 then s.later 1 (.conUnitStart lid u) else s.pushUnit lid u) s

/-- What acceptance finds of one record: its cores and domain masks (R212). -/
def State.admission (s : State) (vf core raw : Nat) : Option (List Nat × Assoc Nat) × State :=
  if !lrecOk s vf raw then (none, s)
  else match s.place vf raw with
    | none => (none, s)
    | some cores =>
      match s.readMasks core raw cores (List.range 8) with
      | (some ms, s) => (some (cores, ms), s)
      | (none, s) => (none, s)

/-- The records of a gang after its first, in chain order; `none` where the chain breaks R218. -/
def State.readChain (s : State) (core gid raw : Nat) : Nat → Option (List Nat) × State
  | 0 => (none, s)
  | fuel + 1 =>
    if bit raw 850 then (some [raw], s)
    else match s.readLrec core (lrAsid raw) (bits raw 896 56) with
      | (none, s) => (none, s)
      | (some next, s) =>
        if lrGid next != gid then (none, s)
        else match State.readChain s core gid next fuel with
          | (some rs, s) => (some (raw :: rs), s)
          | (none, s) => (none, s)

/-- Opens the members of a gang in chain order; a member that acceptance refuses refuses the whole launch. -/
def State.openGang (s : State) (vf core gid : Nat) (slot : Option Nat) : List Nat → Option (List Nat) × State
  | [] => (some [], s)
  | raw :: rest =>
    match s.admission vf core raw with
    | (none, s) => (none, s)
    | (some (cores, ms), s) =>
      let (lid, s) := s.openLaunch vf raw cores ms slot (some gid)
      match State.openGang s vf core gid none rest with
      | (some ls, s) => (some (lid :: ls), s)
      | (none, s) => (none, s)

/-- Acceptance of a launch record (R212): the launch, or BADLREC. A gang is entered as PENDING (R218). `core` is where
the device reads from. -/
def State.acceptRaw (s : State) (vf core raw : Nat) (slot : Option Nat) : Option Nat × State :=
  if lrGid raw == 0 then
    match s.admission vf core raw with
    | (none, s) => (none, s)
    | (some (cores, ms), s) =>
      let (lid, s) := s.openLaunch vf raw cores ms slot none
      (some lid, s.startUnits lid)
  else
    match s.readChain core (lrGid raw) raw 8 with
    | (none, s) => (none, s)
    | (some rs, s) =>
      if rs.length < 2 then (none, s)
      else
        let (gid, s1) := s.fresh
        match s1.openGang vf core gid slot rs with
        | (none, _) => (none, s)
        | (some ls, s) =>
          (ls.head?, ({ s with gangs := s.gangs.put gid ⟨vf, .pending, ls, []⟩ }).later 1 (.gangPlace gid))

/-- Acceptance of a record named by a virtual address (R212, R302). -/
def State.acceptVa (s : State) (vf core asid va : Nat) (slot : Option Nat) : Option Nat × State :=
  match s.readLrec core asid va with
  | (none, s) => (none, s)
  | (some raw, s) => s.acceptRaw vf core raw slot

/-- The FREE helpers of a core's pool that no gang holds (R218). -/
def State.freeHelpers (s : State) (core : Nat) : List Nat :=
  (List.range numCtxs).filter fun c =>
    (s.ctx core c).st == .free && bit ((s.core core).srGet rHPOOL).toNat c &&
    !(s.gangs.any fun g => g.2.reserved.contains (core, c))

/-- Units that a gang places on a core. -/
def State.gangNeeds (s : State) (g : Gang) (core : Nat) : Nat :=
  (g.members.filterMap fun l => (s.launches.find? (·.1 == l)).map (·.2)).foldl (fun n l =>
    n + lrExt l.raw 0 * (l.cores.filter (· == core)).length) 0

/-- Whether helper `c` of a core may take a record of launch `owner` (R218): a reserved helper serves its gang alone, and
no later launch takes a helper that an earlier PENDING gang needs, of which there may be several. -/
def State.mayTake (s : State) (core c : Nat) (owner : Option Nat) : Bool :=
  let mine := owner.bind fun l => (s.launches.find? (·.1 == l)).bind (·.2.gang)
  match s.gangs.find? fun g => g.2.reserved.contains (core, c) with
  | some g => mine == some g.1
  | none =>
    let earlier := s.gangs.filter fun g => g.2.st == .pending && (match owner with | some l => decide (g.1 < l) | none => true)
    let needed := earlier.foldl (fun n g => n + s.gangNeeds g.2 core) 0
    needed == 0 || needed < (s.freeHelpers core).length

/-- HELPER_POP: a FREE helper of HPOOL takes the oldest record of its core's queue (R184, R186), where no gang holds
it for other work (R218). -/
def State.popHelper (s : State) (core c : Nat) : State :=
  let k := s.core core
  let owner := (k.queue.bind (·.owners.head?)).join
  if (k.ctx c).st == .free && 1 ≤ c && c ≤ 10 && bit (k.srGet rHPOOL).toNat c && s.mayTake core c owner then
    match s.corePop core with
    | some (e, owner, s) =>
      let s := { s with gangs := s.gangs.map fun (g : Nat × Gang) => (g.1, { g.2 with reserved := g.2.reserved.filter (· != (core, c)) }) }
      s.startHelper core c (BitVec.ofNat 64 e.code) (BitVec.ofNat 64 e.frame) (BitVec.ofNat 64 e.asid) owner
    | none => s
  else s

/-- A helper that has ended its routine by NEXT pops at once where it may, also while its engine operations still run, and else
stays in DRAIN or FREE (R186). -/
def State.popNext (s : State) (core c : Nat) : State :=
  let t := (s.modCtx core c fun x => { x with st := .free }).popHelper core c
  if (t.ctx core c).st == .free then s else t

end Sys2Proof.Machine
end

