-- ==== Sys2Proof/Machine/Exchange.lean ====
section
/-! DEFINITION. Major 0x30: messages, the exchange, bells and barrier objects, with their events
(spec/13_scalar_control_task_instructions.md R304 to R314; spec/08_execution_model.md R196 to R203). -/
namespace Sys2Proof.Machine

/-- The cost of an instruction whose access goes through an LA (R435). -/
def costLa : Nat := 16

/-! Channels (R202). -/

/-- The register of a channel. -/
def Core.chan (k : Core) (ch : Nat) : Nat := (k.srGet (rCHCFG ch)).toNat

def chBase (r : Nat) : Nat := bits r 0 16
def chLogn (r : Nat) : Nat := bits r 16 4
def chHead (r : Nat) : Nat := bits r 20 9
def chTail (r : Nat) : Nat := bits r 29 9
def chPipe (r : Nat) : Bool := bit r 38
def chSrc (r : Nat) : Nat := bits r 40 14

/-- EN as it reads: 0 where the ring is malformed (R202). -/
def chEn (r : Nat) : Bool :=
  bit r 39 && 1 ≤ chLogn r && chLogn r ≤ 8 && chBase r % 64 == 0 && chBase r + 64 * 2 ^ chLogn r ≤ 65536

/-- Entries waiting (R306). -/
def chCount (r : Nat) : Nat := (chTail r + 2 ^ (chLogn r + 1) - chHead r % 2 ^ (chLogn r + 1)) % 2 ^ (chLogn r + 1)

/-- The state with a channel's register written. -/
def State.setChan (s : State) (core ch r : Nat) : State := s.modCore core (·.srSet (rCHCFG ch) (BitVec.ofNat 64 r))

/-- The lowest function that holds a core (R15). -/
def State.vfOfCore (s : State) (core : Nat) : Nat := ((List.range 64).find? (s.hasCore · core)).getD 0

/-! Messages. -/

/-- Whether a core is the sender of a pipe at a channel. -/
def State.pipeFrom (s : State) (src dst ch : Nat) : Bool :=
  let r := (s.core dst).chan ch
  chEn r && chPipe r && chSrc r == src

/-- The credits of a pipe: its free entries that no message under way will take (R203). -/
def State.credits (s : State) (src dst ch : Nat) : Nat :=
  let r := (s.core dst).chan ch
  2 ^ chLogn r - chCount r - (s.msgs.filter fun m => m.2.dst == dst && m.2.chan == ch && m.2.src == src).length

/-- SEND after its checks and its release: a credit on a pipe, then the message leaves (R203, R305). -/
def sendNow (dst ch len core off : Nat) (w : Word) (s : State) : Res :=
  let src := s.cur.core
  if s.pipeFrom src dst ch && s.credits src dst ch == 0 then .hold s (.credit dst ch) 0
  else match s.stallPoison core off len with
    | some p => .fault (s.countErr (stkOf core) 3) cPOISON (w.toNat + p - stallPa core off)
    | none =>
      let (id, s) := s.fresh
      let m : Msg := ⟨src, dst, ch, len, s.stallRead core off len⟩
      .done (({ s with msgs := s.msgs.put id m }).later (max 1 (meshLat src dst / 2)) (.messageArrival id))

/-- SEND (R305): a bad length or a payload that passes its window is MSGFMT, a core outside the function's super-groups
MESHPART. -/
def execSend (f : Form) (s : State) : Host.Outcome State Fault Refusal :=
  issueCost f costLa (fun s =>
    let a := (s.me.opS f.a).toNat
    let dst := bits a 0 14
    let len := bits a 16 6
    let w := s.me.opAddr f.b
    match laPlace s.cur.core w.toNat with
    | none => .fault s cLAFLT w.toNat
    | some (c, o) =>
      if len < 1 || 56 < len || (laPlace s.cur.core (w.toNat + len - 1)).isNone then .fault s cMSGFMT a
      else if !s.hasCore s.me.vf dst then .fault s cMESHPART a
      else asRelease (sendNow dst f.d.num len c o w) s) s

/-- A message that cannot be queued goes to the core's overflow area, or is dropped and counted; RQOVF becomes pending
(R203, R424). -/
def State.overflowMsg (s : State) (m : Msg) (entry : Nat) : State :=
  let vf := s.vfOfCore m.dst
  let n := (s.core m.dst).ovfCount
  let base := regPage (s.vf vf).ovfBase + 4096 * m.dst + 64 * n
  if n < 64 && regPage (s.vf vf).ovfBase != 0 && inHbm base 64 then
    (s.physWrite base 64 entry).modCore m.dst fun k =>
      { k with ovfCount := n + 1, rqovf := k.rqovf.lor (2 ^ m.chan) }
  else
    (s.modVf vf fun v => { v with rqDrop := satInc64 v.rqDrop }).raiseErr vf

/-- MESSAGE_ARRIVAL (R203): the entry is written, then TAIL advances. -/
def State.messageArrival (s : State) (id : Nat) : State :=
  match s.msgs.find? (·.1 == id) with
  | none => s
  | some (_, m) =>
    let s := { s with msgs := s.msgs.erase id }
    let entry := m.data % 2 ^ (8 * m.len) + m.src * 2 ^ 448 + m.len * 2 ^ 464 + m.chan * 2 ^ 472
    let r := (s.core m.dst).chan m.chan
    if chEn r && (!chPipe r || chSrc r == m.src) && chCount r < 2 ^ chLogn r then
      (s.stallWrite m.dst (chBase r + 64 * (chTail r % 2 ^ chLogn r)) 64 entry).setChan m.dst m.chan
        (setBits r 29 9 ((chTail r + 1) % 2 ^ (chLogn r + 1)))
    else s.overflowMsg m entry

/-- MESSAGE_ARRIVAL (R203). -/
def execMessageArrival (s : State) : Host.Outcome State Fault Refusal :=
  match s.ev with
  | .messageArrival id => .next (s.messageArrival id)
  | _ => .next s

/-- Whether another context of the core has waited longer on a channel (R306). -/
def State.recvBehind (s : State) (ch : Nat) : Bool :=
  let since := ((s.me.block).map (·.since)).getD s.clk
  (List.range numCtxs).any fun c => c != s.cur.ctx &&
    match (s.ctx s.cur.core c).block with
    | some b => b.wait == .recv ch && b.since < since
    | none => false

/-- RECV (R306): it synchronises with the SEND of its message. -/
def execRecv (f : Form) (s : State) : Host.Outcome State Fault Refusal :=
  issueCost f costLa (fun s =>
    let core := s.cur.core
    let ch := f.a.num
    match checkLa core (s.me.opAddr f.b) 64 64 with
    | .error e => .fault s e.1 e.2
    | .ok (c, o) =>
      let r := s.myCore.chan ch
      if !chEn r then .done (s.putS f.d.sreg 0).warn
      else if chCount r == 0 || s.recvBehind ch then .hold s (.recv ch) 0
      else
        let at_ := chBase r + 64 * (chHead r % 2 ^ chLogn r)
        match s.stallPoison core at_ 64 with
        | some p => .fault (s.countErr (stkOf core) 3) cPOISON (p - stallPa core 0)
        | none =>
          let e := s.stallRead core at_ 64
          let s := (s.stallWrite c o 64 e).setChan core ch (setBits r 20 9 ((chHead r + 1) % 2 ^ (chLogn r + 1)))
          .done (s.acquire.putS f.d.sreg (BitVec.ofNat 64 (bits e 448 64)))) s

/-- RPROBE (R306). -/
def execRprobe (f : Form) (s : State) : Host.Outcome State Fault Refusal :=
  issue f (fun s => .done (s.putS f.d.sreg (BitVec.ofNat 64 (chCount (s.myCore.chan f.a.num))))) s

/-! Bells (R196, R197, R309). -/

/-- The number of a launch's domain among bells. -/
def bellKey (lid k : Nat) : Nat := 8 * lid + k

/-- Launch `lid`, if it is known. -/
def State.launchOf (s : State) (lid : Nat) : Option Launch := (s.launches.find? (·.1 == lid)).map (·.2)

/-- The cores of a bell's mask: bit i is core i of the domain's quadrant (R13, R196). -/
def State.bellCores (s : State) (key : Nat) : List Nat :=
  match s.launchOf (key / 8) with
  | none => []
  | some l =>
    let k := key % 8
    let quad := bits l.raw (514 + 4 * k) 2 * 4 + bits l.raw (512 + 4 * k) 2
    let mask := l.masks.get k 0
    ((List.range 1024).filter (bit mask)).map (quad * 1024 + ·)

/-- The bell with nothing arrived. -/
def Bell.empty : Bell := ⟨[], none, none, none⟩

/-- Bell `key`. -/
def State.bell (s : State) (key : Nat) : Bell := s.bells.get key Bell.empty

/-- The release is scheduled, 20 cycles after every core of the mask has arrived with its reserve in its purse
(R196, R440). -/
def State.bellCheck (s : State) (key : Nat) : State :=
  let b := s.bell key
  let cores := s.bellCores key
  if b.rel.isSome || cores.isEmpty then s
  else if cores.all fun c => b.arrived.any (·.1 == c) && ((s.core c).reserve * 1024 : Nat) ≤ (s.core c).purse then
    ({ s with bells := s.bells.put key { b with rel := some (s.clk + 20) } }).later 20 (.bellRelease key)
  else s

/-- The bells that a core has arrived at are looked at again, where its purse or its reserve has changed (R196). -/
def State.checkBells (s : State) (core : Nat) : State :=
  (s.bells.filter fun e => e.2.arrived.any (·.1 == core)).foldl (fun s e => s.bellCheck e.1) s

/-- The core's bell of domain `k`, where the domain is set and the core is in its mask (R309). -/
def State.bellOf (s : State) (core k : Nat) : Option Nat :=
  match (s.core core).launch with
  | none => none
  | some lid =>
    match s.launchOf lid with
    | none => none
    | some l => if bit l.raw (504 + k) && (s.bellCores (bellKey lid k)).contains core then some (bellKey lid k) else none

/-- The arrival of the acting context at a bell: the launch's bound counts from the first (R196). -/
def State.bellArrive (s : State) (key : Nat) : State :=
  let b := s.bell key
  let bound := match s.launchOf (key / 8) with
    | some l => bits l.raw 384 32
    | none => 0
  let first := b.since.isNone
  let b := { b with arrived := b.arrived ++ [(s.cur.core, s.cur.ctx)], since := b.since.or (some s.clk) }
  let s := { s with bells := s.bells.put key b }
  let s := if first && bound != 0 then s.later bound (.bellTimeout key) else s
  s.bellCheck key

/-- BELL (R309): a domain above 7 is ILLEGAL; an arrival is a release. -/
def execBell (f : Form) (s : State) : Host.Outcome State Fault Refusal :=
  issue f (fun s =>
    let k := f.a.immU
    if 7 < k then illegal s f 1
    else match s.bellOf s.cur.core k with
      | none => .done (s.putS f.d.sreg (BitVec.ofNat 64 stNOTMEMBER))
      | some key =>
        if (s.bell key).arrived.any fun a => a.1 == s.cur.core && a.2 != s.cur.ctx then
          .done (s.putS f.d.sreg (BitVec.ofNat 64 stBUSY))
        else asRelease (fun s =>
          .hold (if (s.bell key).arrived.contains (s.cur.core, s.cur.ctx) then s else s.bellArrive key)
            (.bell key f.d.sreg (formLen f)) 1) s) s

/-- A context leaves a bell with a status: its BELL completes, and its departure is an acquire (R143, R196). -/
def State.leaveBell (s : State) (core c st : Nat) : State :=
  let x := s.ctx core c
  match x.block with
  | some ⟨.bell _ d len, _, _⟩ =>
    let s := ((s.setCtx core c (x.setS d (BitVec.ofNat 64 st))).acquireFor core c).warnHeld core c
    (s.retire core c false (x.pc + BitVec.ofNat 64 len)).stepTrap core c (0, 0, 0)
  | _ => s

/-- The other contexts of a core enter XHOLD (R195, R197). -/
def Core.holdOthers (k : Core) (c : Nat) : Core :=
  (List.range numCtxs).foldl (fun k d =>
    let x := k.ctx d
    if d != c && !x.idle && (x.st == .ready || x.st == .wait || x.st == .sleep) then k.setCtx d { x with st := .xhold }
    else k) k

/-- BELL_RELEASE (R196, R197, R440): phase cycle 0 of every core of the domain; the reserve moves into the hold. -/
def State.bellRelease (s : State) (key : Nat) : State :=
  let b := s.bell key
  if b.rel != some s.clk then s
  else
    let xlen := match s.launchOf (key / 8) with
      | some l => lrXlen l.raw
      | none => 1
    let s := { s with bells := s.bells.put key ⟨[], none, none, some s.clk⟩ }
    let s := b.arrived.foldl (fun s a =>
      let s := s.leaveBell a.1 a.2 stOK
      s.modCore a.1 fun k =>
        { (k.holdOthers a.2) with phase := some (key, a.2, s.clk), latch := none, hold := k.reserve * 1024,
                                  purse := k.purse - (k.reserve * 1024 : Nat) }) s
    s.later xlen (.exchangePhaseEnd key)

/-- BELL_RELEASE (R196). -/
def execBellRelease (s : State) : Host.Outcome State Fault Refusal :=
  match s.ev with
  | .bellRelease key => .next (s.bellRelease key)
  | _ => .next s

/-- BELL_TIMEOUT (R196): every arrived core leaves with TIMEOUT, where the bound has elapsed before the release. -/
def State.bellTimeout (s : State) (key : Nat) : State :=
  let b := s.bell key
  let bound := match s.launchOf (key / 8) with
    | some l => bits l.raw 384 32
    | none => 0
  match b.since with
  | some t =>
    if t + bound ≤ s.clk then
      let s := { s with bells := s.bells.put key Bell.empty }
      b.arrived.foldl (fun s a => s.leaveBell a.1 a.2 stTIMEOUT) s
    else s
  | none => s

/-- BELL_TIMEOUT (R196). -/
def execBellTimeout (s : State) : Host.Outcome State Fault Refusal :=
  match s.ev with
  | .bellTimeout key => .next (s.bellTimeout key)
  | _ => .next s

/-- A context's arrival withdrawn, where the bell has not released (R426). -/
def State.withdrawBell (s : State) (core c : Nat) : State :=
  match (s.ctx core c).block with
  | some ⟨.bell key _ _, _, _⟩ =>
    let b := s.bell key
    let left := b.arrived.filter (· != (core, c))
    let b := { b with arrived := left, rel := none, since := if left.isEmpty then none else b.since }
    { s with bells := s.bells.put key b }
  | _ => s

/-- EXCHANGE_PHASE_END (R197, R440): XHOLD contexts become READY, and what is left of the hold returns to the purse. -/
def State.phaseEnd (s : State) (key : Nat) : State :=
  let s := { s with bells := s.bells.put key { s.bell key with phase := none } }
  (s.bellCores key).foldl (fun s core =>
    match (s.core core).phase with
    | some (k, _, _) =>
      if k != key then s
      else
        let s := s.modCore core fun c =>
          let c := { c with phase := none, latch := none, purse := c.purse + c.hold, hold := 0 }
          (List.range numCtxs).foldl (fun c d =>
            let x := c.ctx d
            if x.st == .xhold then c.setCtx d { x with st := .ready }
            else if x.st == .stopped && x.back == .xhold then c.setCtx d { x with back := .ready } else c) c
        s.checkBells core
    | none => s) s

/-- EXCHANGE_PHASE_END (R197). -/
def execExchangePhaseEnd (s : State) : Host.Outcome State Fault Refusal :=
  match s.ev with
  | .exchangePhaseEnd key => .next (s.phaseEnd key)
  | _ => .next s

/-! The exchange (R198 to R200, R308). -/

/-- Hops of the butterfly between two cores of a quadrant (R37). -/
def hops (a b : Nat) : Nat :=
  if a == b then 0 else if tileOf a == tileOf b then 1 else if groupOf a == groupOf b then 2
  else if superGroupOf a == superGroupOf b then 3 else 4

/-- TVAL of XSLOT: the phase cycle of issue and the stamp (R415). -/
def xslotVal (s : State) (c : Nat) : Nat :=
  (match s.myCore.phase with
    | some (_, _, c0) => (s.clk - c0) % 4096
    | none => 0) + c * 2 ^ 16

/-- XMIT and XSEL at their stamp (R198): without a stamp, outside a phase, late, or with a stamp at or past XLEN they
raise XSLOT; before it they wait. `body` gets the launch, the stamp and phase cycle 0. -/
def atStamp (f : Form) (body : Launch → Nat → Nat → State → Res) (s : State) : Res :=
  match f.hint with
  | .plain _ _ _ => .fault s cXSLOT (xslotVal s 0)
  | .stamp c =>
    match s.myCore.phase with
    | none => .fault s cXSLOT (xslotVal s c)
    | some (key, _, c0) =>
      match s.launchOf (key / 8) with
      | none => .fault s cXSLOT (xslotVal s c)
      | some l =>
        let waited := match s.me.block with
          | some ⟨.stamp _, _, _⟩ => true
          | _ => false
        if lrXlen l.raw ≤ c || (c0 + c < s.clk && !waited) then .fault s cXSLOT (xslotVal s c)
        else if s.clk < c0 + c then .hold s (.stamp (c0 + c)) 0
        else body l c c0 s

/-- The value and the bytes that XMIT sends; a vector's entry is checked (R233, R308). -/
def xmitValue (f : Form) (x : Ctx) : Except Flt (Nat × Nat) :=
  match f.a with
  | .vec r _ => (plainEntry x (x.entryNo f .a)).map fun _ => ((x.vreg r).toNat, 64)
  | o => .ok ((x.opS o).toNat, 8)

/-- The stall offset that XMIT names, or the latch (R308). -/
def xmitTarget (f : Form) (n : Nat) (x : Ctx) : Except Flt (Option Nat) :=
  if f.d.isNone then .ok none
  else
    let w := x.opAddr f.d
    if 0x10000 ≤ w.toNat then .error (cLAFLT, w.toNat)
    else if w.toNat % n != 0 then .error (cMISALIGN, w.toNat)
    else .ok (some w.toNat)

/-- The value leaves under the outbound map, or XSLOT is raised and nothing is sent (R198, R199, R200). -/
def xmitNow (v n : Nat) (off : Option Nat) (l : Launch) (c c0 : Nat) (s : State) : Res :=
  let src := s.cur.core
  let key := match s.myCore.phase with
    | some (k, _, _) => k
    | none => 0
  let e := s.stallRead src (bits l.raw 432 16 + 2 * c) 2
  let dst := quadOf src * 1024 + bits e 0 10
  let at_ := c + 6 + 2 * hops src dst
  if !bit e 15 || !(s.bellCores key).contains dst || lrXlen l.raw ≤ at_ then .fault s cXSLOT (xslotVal s c)
  else
    let (id, s) := s.fresh
    let x : XVal := ⟨src, dst, c0 + at_, off, n, v⟩
    .done (({ s with xvals := s.xvals.put id x }).later (c0 + at_ - s.clk) (.exchangeArrival id))

/-- XMIT (R308). -/
def execXmit (f : Form) (s : State) : Host.Outcome State Fault Refusal :=
  issueWith f 4 (scalarWarn f true || s.me.strayEntry f) (namesEntry f) false noReport (fun s =>
    match xmitValue f s.me with
    | .error e => .fault s e.1 e.2
    | .ok (v, n) =>
      match xmitTarget f n s.me with
      | .error e => .fault s e.1 e.2
      | .ok off => atStamp f (xmitNow v n off) s) s

/-- XSEL takes the value that arrives in its cycle, or zero with STAT.XEMPTY (R200, R308). -/
def xselNow (f : Form) (c0c : Nat) (s : State) : Res :=
  let (v, s) := match s.myCore.latch with
    | some (t, v) => if t == c0c then (v, s) else (0, s.modMe (·.setStat bXEMPTY true))
    | none => (0, s.modMe (·.setStat bXEMPTY true))
  match f.d with
  | .vec r _ => .done (s.modMe (·.setV r v))
  | _ => .done (s.putS f.d.sreg (BitVec.ofNat 64 (v.toNat % 2 ^ 64)))

/-- XSEL (R308). -/
def execXsel (f : Form) (s : State) : Host.Outcome State Fault Refusal :=
  issueWith f 4 (scalarWarn f true || s.me.strayEntry f) (namesEntry f) false noReport (fun s =>
    match (if f.d.entry.isSome then (plainEntry s.me (s.me.entryNo f .d)).map fun _ => () else .ok ()) with
    | .error e => .fault s e.1 e.2
    | .ok _ => atStamp f (fun _ c c0 s => xselNow f (c0 + c) s) s) s

/-- EXCHANGE_ARRIVAL (R200): of the values that reach a core in one cycle, the one from the lowest quadrant-local number
is taken; the others are lost, and the arrived context has STAT.XCOLL. -/
def State.exchangeArrival (s : State) (id : Nat) : State :=
  match s.xvals.find? (·.1 == id) with
  | none => s
  | some (_, x) =>
    let same := s.xvals.filter fun e => e.2.dst == x.dst && e.2.cycle == x.cycle
    let x := same.foldl (fun (a : XVal) e => if e.2.src < a.src then e.2 else a) x
    let s := { s with xvals := s.xvals.filter fun e => !(e.2.dst == x.dst && e.2.cycle == x.cycle) }
    let who := match (s.core x.dst).phase with
      | some (_, c, _) => c
      | none => 0
    let s := if 1 < same.length then s.modCtx x.dst who (·.setStat bXCOLL true) else s
    let s := s.payCore x.dst who costLa
    match x.off with
    | some o => s.stallWrite x.dst o x.size x.data
    | none => s.modCore x.dst fun k => { k with latch := some (x.cycle, BitVec.ofNat 512 x.data) }

/-- EXCHANGE_ARRIVAL (R200). -/
def execExchangeArrival (s : State) : Host.Outcome State Fault Refusal :=
  match s.ev with
  | .exchangeArrival id => .next (s.exchangeArrival id)
  | _ => .next s

/-! Barrier objects (R310 to R314). -/

/-- Where the object of an LA lies (R310). -/
def objectAt (s : State) (w : Word) : Except Flt (Nat × Nat) := checkLa s.cur.core w 16 16

/-- BINIT (R311): one atomic store with .REL; EXPECT 0 is stored as 1 with STAT.WARN (R310). -/
def execBinit (f : Form) (s : State) : Host.Outcome State Fault Refusal :=
  issueCost f costLa (fun s =>
    match objectAt s (s.me.opAddr f.d) with
    | .error e => .fault s e.1 e.2
    | .ok (c, o) => asRelease (fun s =>
        let a := (s.me.opU f.a).toNat
        let n := bits a 0 12
        .done ((s.stallWrite c o 16 (max 1 n * 2 ^ 12 + bits a 12 4 * 2 ^ 24)).warnIf (n == 0))) s) s

/-- The new object of an arrival of weight `n` in phase `p` by a core, and its status (R312). -/
def arriveObject (old core n p : Nat) : Nat × Nat :=
  let lose (x : Nat) : Nat :=
    let y := setBits x 28 1 1
    if bit old 28 then y else setBits y 48 14 core
  if p != bits old 24 4 then (lose old, stOVERRUN)
  else
    let new := bits old 0 12 + n
    if new < bits old 12 12 then (setBits old 0 12 new, stOK)
    else
      let x := setBits (setBits (setBits old 0 12 0) 24 4 (bits old 24 4 + 1)) 32 14 core
      if new == bits old 12 12 then (x, stCOMPLETE) else (lose x, stOVERRUN)

/-- ARRIVE at the bank, and BOVR where it overran under STAT.BTRAP, with TRET at the next instruction (R312). -/
def arriveAt (f : Form) (core off : Nat) (w : Word) (s : State) : Res :=
  let b := (s.me.opU f.b).toNat
  let n := bits b 0 12
  let old := s.stallRead core off 16
  match s.stallPoison core off 16 with
  | some p => .fault (s.countErr (stkOf core) 3) cPOISON (w.toNat + p - stallPa core off)
  | none =>
    let (new, st) := arriveObject old s.cur.core (max 1 n) (bits b 12 4)
    let s := (s.stallWrite core off 16 new).warnIf (n == 0)
    let s := s.putS f.d.sreg (BitVec.ofNat 64 (old % 2 ^ 32 * 2 ^ 32 + st))
    if st == stOVERRUN && s.me.statBit bBTRAP then
      .ended s (s.trapAfter f cBOVR w)
    else .done s

/-- ARRIVE (R312): a release. -/
def execArrive (f : Form) (s : State) : Host.Outcome State Fault Refusal :=
  issueCost f costLa (fun s =>
    match objectAt s (s.me.opAddr f.a) with
    | .error e => .fault s e.1 e.2
    | .ok (c, o) => asRelease (arriveAt f c o (s.me.opAddr f.a)) s) s

/-- What BWAIT writes (R313). -/
def bwaitValue (obj st : Nat) : Word := BitVec.ofNat 64 (obj % 2 ^ 32 * 2 ^ 32 + st)

/-- TOUTS raised, saturating (R310, R313). -/
def addTimeout (obj : Nat) : Nat := setBits obj 64 16 (min 0xFFFF (bits obj 64 16 + 1))

/-- BWAIT at the bank: another phase ends it; a bound of 0 reads once; else it waits (R313). -/
def bwaitAt (f : Form) (core off : Nat) (w : Word) (s : State) : Res :=
  let b := (s.me.opS f.b).toNat
  let p := bits b 0 4
  let bound := bits b 16 32
  let obj := s.stallRead core off 16
  match s.stallPoison core off 16 with
  | some p => .fault (s.countErr (stkOf core) 3) cPOISON (w.toNat + p - stallPa core off)
  | none =>
    if bits obj 24 4 != p then .done (s.acquire.putS f.d.sreg (bwaitValue obj stOK))
    else
      let waiting := match s.me.block with
        | some ⟨.barrier d _ _ _ _ _, _, _⟩ => some d
        | _ => none
      if bound == 0 then
        .done (((s.stallWrite core off 16 (addTimeout obj)).acquire).putS f.d.sreg (bwaitValue obj stTIMEOUT))
      else
        let d := waiting.getD (s.clk + bound)
        let s := if waiting.isNone then s.later bound (.bwaitTimeout s.cur.core s.cur.ctx) else s
        .hold s (.barrier d core off p f.d.sreg (formLen f)) 0

/-- BWAIT (R313). -/
def execBwait (f : Form) (s : State) : Host.Outcome State Fault Refusal :=
  issueCost f costLa (fun s =>
    match objectAt s (s.me.opAddr f.a) with
    | .error e => .fault s e.1 e.2
    | .ok (c, o) => bwaitAt f c o (s.me.opAddr f.a) s) s

/-- BWAIT_TIMEOUT (R313): the bound has passed; the object is read once more at its bank. -/
def State.bwaitTimeout (s : State) (core c : Nat) : State :=
  let x := s.ctx core c
  match x.block with
  | some ⟨.barrier deadline bc off p d len, _, _⟩ =>
    if s.clk < deadline || x.st == .stopped then s
    else
      let obj := s.stallRead bc off 16
      let out := bits obj 24 4 == p
      let s := if out then s.stallWrite bc off 16 (addTimeout obj) else s
      let s := ((s.modCtx core c (·.setS d (bwaitValue obj (if out then stTIMEOUT else stOK)))).acquireFor core c).warnHeld core c
      ((s.payCore core c costLa).retire core c false (x.pc + BitVec.ofNat 64 len)).stepTrap core c (0, 0, 0)
  | _ => s

/-- BWAIT_TIMEOUT (R313). -/
def execBwaitTimeout (s : State) : Host.Outcome State Fault Refusal :=
  match s.ev with
  | .bwaitTimeout core c => .next (s.bwaitTimeout core c)
  | _ => .next s

/-- REALIGN_TIMEOUT (R190): the window has closed; the instruction completes at its next turn. -/
def State.realignTimeout (s : State) (core c : Nat) : State :=
  let x := s.ctx core c
  match x.block with
  | some ⟨.realign pc d, since, ph⟩ =>
    if d ≤ s.clk && x.st != .stopped then s.setCtx core c { x with block := some ⟨.realign pc 0, since, ph⟩ } else s
  | _ => s

/-- REALIGN_TIMEOUT (R190). -/
def execRealignTimeout (s : State) : Host.Outcome State Fault Refusal :=
  match s.ev with
  | .realignTimeout core c => .next (s.realignTimeout core c)
  | _ => .next s

end Sys2Proof.Machine
end

