-- ==== Sys2Proof/Machine/Mem.lean ====
section
/-! DEFINITION. Majors 0x40 to 0x43: loads, stores, atomics, fences, prefetch, C1 and the journal, and the events of the
memory system (spec/14_memory_track_copy_instructions.md R315 to R326). -/
namespace Sys2Proof.Machine

/-- The cost of a memory instruction (R435): through an LA, or per line at the core. -/
def memCost (o : Operand) : Nat := if o.isLa then 16 else 40

/-! Sizes (R316). -/
def ldBytes : LdSize → Nat
  | .bs => 1
  | .bz => 1
  | .hs => 2
  | .hz => 2
  | .w => 4
  | .d => 8
def ldSigned : LdSize → Bool
  | .bz => false
  | .hz => false
  | _ => true
def stBytes : StSize → Nat
  | .b => 1
  | .h => 2
  | .w => 4
  | .d => 8
def dblBytes (dbl : Bool) : Nat := if dbl then 8 else 4

/-- One access through an LA: the old value is given to `fin`, and the operation is performed at the bank at once (R18,
R158). -/
def laAccess (op : ReqOp) (n : Nat) (w : Word) (data : Nat) (fin : Nat → State → Res) (s : State) : Res :=
  match checkLa s.cur.core w n n with
  | .error e => .fault s e.1 e.2
  | .ok (c, o) =>
    let old := s.stallRead c o n
    match (if op.reads then s.stallPoison c o n else none) with
    | some p => .fault (s.countErr (stkOf c) 3) cPOISON (w.toNat + p - stallPa c o)
    | none =>
      match op.result ⟨0, 0, n, data, 2 ^ (8 * n) - 1⟩ old with
      | some v => fin old (s.stallWrite c o n v)
      | none => fin old s

/-- The element of a scalar access at a base+offset address. -/
def scalarElem (w : Word) (n data : Nat) : Elem := ⟨0, w.toNat % 2 ^ 56, n, data % 2 ^ (8 * n), 2 ^ (8 * n) - 1⟩

/-- A load in either address form (R316, R317). -/
def loadForm (f : Form) (n : Nat) (sg acq : Bool) (s : State) : Res :=
  let w := s.me.opAddr f.a
  if f.a.isLa then
    laAccess .load n w 0 (fun v s =>
      let s := s.putS f.d.sreg (if sg then sxWord (8 * n) v else BitVec.ofNat 64 v)
      .done (if acq then s.acquire else s)) s
  else match s.checkVa s.me.vf w n with
    | .error e => .fault s e.1 e.2
    | .ok _ => loadElems f .load [scalarElem w n 0] (.scalar f.d.sreg n sg) acq false s

/-- A store in either address form (R316, R318). -/
def storeForm (f : Form) (n : Nat) (rel : Bool) (s : State) : Res :=
  let w := s.me.opAddr f.d
  let v := (s.me.opS f.a).toNat
  if f.d.isLa then laAccess .store n w v (fun _ s => .done s) s
  else match s.checkVa s.me.vf w n with
    | .error e => .fault s e.1 e.2
    | .ok _ => postElems f .store [scalarElem w n v] { strl := rel, rel := rel } .done s

/-- LD (R315 to R317). -/
def execLd (sz : LdSize) (f : Form) (s : State) : Host.Outcome State Fault Refusal :=
  issueCost f (memCost f.a) (loadForm f (ldBytes sz) (ldSigned sz) false) s

/-- LDL (R315 to R317). -/
def execLdl (sz : LdSize) (f : Form) (s : State) : Host.Outcome State Fault Refusal :=
  issueCost f (memCost f.a) (loadForm f (ldBytes sz) (ldSigned sz) false) s

/-- ST (R315, R316, R318). -/
def execSt (sz : StSize) (f : Form) (s : State) : Host.Outcome State Fault Refusal :=
  issueCost f (memCost f.d) (storeForm f (stBytes sz) false) s

/-- STL (R315, R316, R318). -/
def execStl (sz : StSize) (f : Form) (s : State) : Host.Outcome State Fault Refusal :=
  issueCost f (memCost f.d) (storeForm f (stBytes sz) false) s

/-- The at-issue checks of a scalar access of `n` bytes at an LA or base+offset operand (R317). -/
def checkAt (s : State) (o : Operand) (n : Nat) : Except Flt Unit :=
  if o.isLa then (checkLa s.cur.core (s.me.opAddr o) n n).map fun _ => ()
  else (s.checkVa s.me.vf (s.me.opAddr o) n).map fun _ => ()

/-- Release stores and atomics of the acting context that have still to be performed at their homes. -/
def State.relsOut (s : State) : List Nat :=
  (s.reqs.filter fun r => r.2.core == s.cur.core && r.2.ctx == s.cur.ctx && r.2.rel && !r.2.done).map (·.1)

/-- An access that the device keeps behind its context's earlier releases: an acquire, or a relaxed atomic store (R157, R159,
R160). -/
def afterRels (body : State → Res) (s : State) : Res :=
  if s.relsOut.isEmpty then body s else .hold s (.performed s.relsOut) 0

/-- LDA reads at the home and acts as an acquire (R319), which its context's earlier releases come before (R159, R160). -/
def execLda (dbl : Bool) (f : Form) (s : State) : Host.Outcome State Fault Refusal :=
  issueCost f (memCost f.a) (fun s =>
    match checkAt s f.a (dblBytes dbl) with
    | .error e => .fault s e.1 e.2
    | .ok _ => afterRels (loadForm f (dblBytes dbl) true true) s) s

/-- STRL waits as a release and then stores; its at-issue faults come first (R319). -/
def execStrl (dbl : Bool) (f : Form) (s : State) : Host.Outcome State Fault Refusal :=
  issueCost f (memCost f.d) (fun s =>
    match checkAt s f.d (dblBytes dbl) with
    | .error e => .fault s e.1 e.2
    | .ok _ => asRelease (storeForm f (dblBytes dbl) true) s) s

/-! Atomics. -/

/-- Whether an ordering is an acquire, and whether it is a release. -/
def MemOrdAcq (o : MemOrd) : Bool := o == .acq || o == .ar
def MemOrdRel (o : MemOrd) : Bool := o == .rel || o == .ar

/-- Whether a request is an atomic, and whether it is an atomic store. -/
def Req.isAtomic (r : Req) : Bool :=
  match r.op with
  | .rmw _ _ _ => true
  | _ => false
def Req.isAtomicStore (r : Req) : Bool :=
  match r.op with
  | .rmw 10 _ _ => true
  | _ => false

/-- The earlier atomics of the acting context that hold a relaxed atomic at issue (R321): those with a home on the issuing
core's own stack, where its own home lies there too, until they have been performed; but an atomic that returns a value is not
held behind an atomic store to other bytes. -/
def State.atomicsBefore (s : State) (store : Bool) (e : Elem) : List Nat :=
  let out := s.reqs.filter fun r => r.2.core == s.cur.core && r.2.ctx == s.cur.ctx && r.2.isAtomic && !r.2.done
  let own (va : Nat) : Bool := s.homeStack s.cur.core s.me.asid va .rw == some (stkOf s.cur.core)
  if out.isEmpty || !own e.va then []
  else (out.filter fun r => (r.2.els.any fun a => own a.va) &&
      (store || !r.2.isAtomicStore || r.2.els.any fun a => a.va < e.va + e.size && e.va < a.va + a.size)).map (·.1)

/-- An atomic after the waits of its ordering (R321). -/
def atomicAt (f : Form) (op n : Nat) (acq rel : Bool) (s : State) : Res :=
  let x := s.me
  let w := x.opAddr f.a
  let b := (x.opS f.b).toNat
  let expect := (x.opS f.d).toNat
  let rop : ReqOp := .rmw op (b % 2 ^ (8 * n)) (expect % 2 ^ (8 * n))
  if f.a.isLa then
    laAccess rop n w b (fun old s =>
      let s := if op == 10 then s else s.putS f.d.sreg (sxWord (8 * n) old)
      let s := s.warnIf (op == 16 && rel && !acq && old != expect % 2 ^ (8 * n))
      .done (if acq then s.acquire else s)) s
  else
    let e := scalarElem w n b
    let before := if acq || rel then [] else s.atomicsBefore (op == 10) e
    if !before.isEmpty then .hold s (.performed before) 0
    else if op == 10 then postElems f rop [e] { rel := rel, ar := acq && rel } .done s
    else loadElems f rop [e] (.scalar f.d.sreg n true) acq rel s

/-- ATOM and CAS (R320, R321): the checks at issue, the release's wait, then the operation. .ACQ of a store and .REL of a
load are relaxed, with STAT.WARN, and so is the .REL of a CAS that fails (R145). -/
def atomic (f : Form) (op : Nat) (dbl : Bool) (ord : MemOrd) (s : State) : Host.Outcome State Fault Refusal :=
  let odd := (op == 10 && ord == .acq) || (op == 9 && ord == .rel)
  let ord := if odd then .rlx else ord
  let n := dblBytes dbl
  issueWith f (memCost f.a) (scalarWarn f false || odd) false false noReport (fun s =>
    match checkAt s f.a n with
    | .error e => .fault s e.1 e.2
    | .ok _ =>
      let go := atomicAt f op n (MemOrdAcq ord) (MemOrdRel ord)
      if MemOrdRel ord then asRelease go s else if MemOrdAcq ord || op == 10 then afterRels go s else go s) s

/-- ATOM.SWAP (R321). -/
def execAtomSwap (dbl : Bool) (ord : MemOrd) (f : Form) (s : State) : Host.Outcome State Fault Refusal := atomic f 0 dbl ord s
/-- ATOM.ADD (R321). -/
def execAtomAdd (dbl : Bool) (ord : MemOrd) (f : Form) (s : State) : Host.Outcome State Fault Refusal := atomic f 1 dbl ord s
/-- ATOM.AND (R321). -/
def execAtomAnd (dbl : Bool) (ord : MemOrd) (f : Form) (s : State) : Host.Outcome State Fault Refusal := atomic f 2 dbl ord s
/-- ATOM.OR (R321). -/
def execAtomOr (dbl : Bool) (ord : MemOrd) (f : Form) (s : State) : Host.Outcome State Fault Refusal := atomic f 3 dbl ord s
/-- ATOM.XOR (R321). -/
def execAtomXor (dbl : Bool) (ord : MemOrd) (f : Form) (s : State) : Host.Outcome State Fault Refusal := atomic f 4 dbl ord s
/-- ATOM.MIN (R321). -/
def execAtomMin (dbl : Bool) (ord : MemOrd) (f : Form) (s : State) : Host.Outcome State Fault Refusal := atomic f 5 dbl ord s
/-- ATOM.MAX (R321). -/
def execAtomMax (dbl : Bool) (ord : MemOrd) (f : Form) (s : State) : Host.Outcome State Fault Refusal := atomic f 6 dbl ord s
/-- ATOM.MINN (R321). -/
def execAtomMinn (dbl : Bool) (ord : MemOrd) (f : Form) (s : State) : Host.Outcome State Fault Refusal := atomic f 7 dbl ord s
/-- ATOM.MAXN (R321). -/
def execAtomMaxn (dbl : Bool) (ord : MemOrd) (f : Form) (s : State) : Host.Outcome State Fault Refusal := atomic f 8 dbl ord s
/-- ATOM.LOAD (R321). -/
def execAtomLoad (dbl : Bool) (ord : MemOrd) (f : Form) (s : State) : Host.Outcome State Fault Refusal := atomic f 9 dbl ord s
/-- ATOM.STORE (R321). -/
def execAtomStore (dbl : Bool) (ord : MemOrd) (f : Form) (s : State) : Host.Outcome State Fault Refusal := atomic f 10 dbl ord s
/-- CAS (R321). -/
def execCas (dbl : Bool) (ord : MemOrd) (f : Form) (s : State) : Host.Outcome State Fault Refusal := atomic f 16 dbl ord s

/-! Fences, prefetch, C1 and the journal. -/

/-- FENCE waits as a release does, then clears C1 as an acquire does (R147, R322). -/
def execFence (f : Form) (s : State) : Host.Outcome State Fault Refusal :=
  issue f (asRelease fun s => .done s.acquire) s

/-- Whether a mesh window access of the context to its own core is still to be performed (R41). -/
def State.loopBackOut (s : State) (core c : Nat) : Bool :=
  s.reqs.any fun r => r.2.core == core && r.2.ctx == c && r.2.els.any fun e => meshBase + core * 65536 ≤ e.va &&
    e.va < meshBase + core * 65536 + 65536

/-- LBSYNC (R41, R322). -/
def execLbsync (f : Form) (s : State) : Host.Outcome State Fault Refusal :=
  issue f (fun s => if s.loopBackOut s.cur.core s.cur.ctx then .hold s .loopBack 0 else .done s) s

/-- PREF (R323): a request that never faults; what would fault is dropped. -/
def execPref (f : Form) (s : State) : Host.Outcome State Fault Refusal :=
  issueCost f (memCost f.a) (fun s =>
    if 1 < f.b.immU then illegal s f 2
    else match s.checkVa s.me.vf (s.me.opAddr f.a) 1 with
      | .ok (.virt va) =>
        let x := s.me
        let es : List Elem := [⟨0, va / 64 * 64, 64, 0, 0⟩]
        .done (s.submit
          { core := s.cur.core, ctx := s.cur.ctx, asid := x.asid, op := .pref (f.b.immU == 0), els := es, all := es, got := [],
            dst := .none, jidx := none, acq := false, rel := false, done := false, mesh := false, fault := none, len := 0 }).2
      | _ => .done s) s

/-- C1INV (R324): it never faults. -/
def execC1inv (f : Form) (s : State) : Host.Outcome State Fault Refusal :=
  issue f (fun s =>
    if f.a.isNone then .done s.acquire
    else .done (s.modCore s.cur.core (·.c1InvLine s.me.asid ((s.me.opAddr f.a).toNat % 2 ^ 56 / 64)))) s

/-- The status word of a journal entry (R325). -/
def jStatus (e : JEntry) : Nat :=
  e.state + e.size * 2 ^ 2 + e.ctx * 2 ^ 4 + e.cause * 2 ^ 8 + e.fab.toNat * 2 ^ 16 + e.mesh.toNat * 2 ^ 17 +
  e.rel.toNat * 2 ^ 18

/-- JRD (R325): a helper reads another context's entry as free. -/
def execJrd (f : Form) (s : State) : Host.Outcome State Fault Refusal :=
  issue f (fun s =>
    if 2 < f.b.immU then illegal s f 2
    else
      let i := fieldOf (s.me.opS f.a) 0 6
      let e := (s.myCore.journal.find? (·.1 == i)).filter fun e => s.cur.ctx == 0 || e.2.ctx == s.cur.ctx
      let v : Word := match e, f.b.immU with
        | none, _ => 0
        | some (_, e), 0 => e.va
        | some (_, e), 1 => e.data
        | some (_, e), _ => BitVec.ofNat 64 (jStatus e)
      .done (s.putS f.d.sreg v)) s

/-! Events. -/

/-- C2_REQUEST (R72). -/
def execC2Request (s : State) : Host.Outcome State Fault Refusal :=
  match s.ev with
  | .c2Request id => .next (s.c2Request id)
  | _ => .next s

/-- C2_FILL_ARRIVAL (R73). -/
def execC2FillArrival (s : State) : Host.Outcome State Fault Refusal :=
  match s.ev with
  | .c2FillArrival id => .next (s.c2FillArrival id)
  | _ => .next s

/-- LOAD_RESPONSE (R93). -/
def execLoadResponse (s : State) : Host.Outcome State Fault Refusal :=
  match s.ev with
  | .loadResponse id => .next (s.loadResponse id)
  | _ => .next s

/-- STORE_ACKNOWLEDGE (R148). -/
def execStoreAcknowledge (s : State) : Host.Outcome State Fault Refusal :=
  match s.ev with
  | .storeAcknowledge id => .next (s.storeAcknowledge id)
  | _ => .next s

/-- STORE_REFUSAL (R149). -/
def execStoreRefusal (s : State) : Host.Outcome State Fault Refusal :=
  match s.ev with
  | .storeRefusal id => .next (s.storeRefusal id)
  | _ => .next s

/-- MESH_WINDOW_ARRIVAL (R14). -/
def execMeshWindowArrival (s : State) : Host.Outcome State Fault Refusal :=
  match s.ev with
  | .meshWindowArrival id => .next (s.meshArrival id)
  | _ => .next s

/-- A back-invalidate of a physical line (R450): every cached copy goes; a dirty line is written back first. It waits for a pin
(R87) and for tokens (R436). -/
def State.backInvalidate (s : State) (pa : Nat) : State :=
  match s.lineOf pa with
  | some l => if l.pins != 0 || !s.canWriteBack l then s.later 16 (.backInvalidate pa) else s.evict l
  | none => s

/-- BACK_INVALIDATE, for the lines of the expansion tier (R450). -/
def execBackInvalidate (s : State) : Host.Outcome State Fault Refusal :=
  match s.ev with
  | .backInvalidate pa => .next (if inCxl pa 1 then s.backInvalidate pa else s)
  | _ => .next s

end Sys2Proof.Machine
end

