-- ==== Sys2Proof/Machine/Control.lean ====
section
/-! DEFINITION. Major 0x10: compare, predicates and control, and the hardware loops of major 0x20
(spec/13_scalar_control_task_instructions.md R279, R285 to R292). -/
namespace Sys2Proof.Machine

/-- CMP: the destination predicate := a cc b (R286). -/
def execCmp (f : Form) (s : State) : Host.Outcome State Fault Refusal :=
  issue f (fun s => .done (s.modMe (·.setPred f.d.predNo (condHolds f.d.cc (s.me.opS f.a) (s.me.opS f.b))))) s

/-- CMPI: as CMP with a sign-extended immediate (R286). -/
def execCmpi (f : Form) (s : State) : Host.Outcome State Fault Refusal :=
  issue f (fun s => .done (s.modMe (·.setPred f.d.predNo (condHolds f.d.cc (s.me.opS f.a) (s.me.opS f.b))))) s

/-- PSET: a truth table over two predicates, or whether a scalar is nonzero (R286). -/
def execPset (f : Form) (s : State) : Host.Outcome State Fault Refusal :=
  issue f (fun s =>
    match f.a, f.b with
    | .pred p _, .imm _ v =>
      if v / 256 != 0 then illegal s f 2
      else
        let i := 2 * (s.me.pred p).toNat + (s.me.pred (v % 16)).toNat
        .done (s.modMe (·.setPred f.d.predNo (bit (v / 16) i)))
    | .scalar r, .none => .done (s.modMe (·.setPred f.d.predNo (s.me.sreg r != 0)))
    | _, _ => illegal s f 2) s

/-- BR (R287). -/
def execBr (f : Form) (s : State) : Host.Outcome State Fault Refusal :=
  issue f (fun s => branchTo s (wordAddr f s.me + BitVec.ofInt 64 (4 * f.b.immS))) s

/-- JMP branches to a + 4 × sext(imm24) (R287). -/
def execJmp (f : Form) (s : State) : Host.Outcome State Fault Refusal :=
  issue f (fun s => branchTo s (s.me.opS f.a + BitVec.ofInt 64 (4 * f.b.immS))) s

/-- lr is s63 (spec/12_assembly_language.md R265). -/
def lrNo : Nat := 63

/-- A call: the target is checked before lr takes the address of the word plus 12 (R279, R287). -/
def callTo (f : Form) (s : State) (pc : Word) : Res :=
  match branchTo s pc with
  | .jump s pc => .jump (s.putS lrNo (wordAddr f s.me + 12)) pc
  | r => r

/-- CALL (R287). -/
def execCall (f : Form) (s : State) : Host.Outcome State Fault Refusal :=
  issue f (afterLoads [lrNo] fun s => callTo f s (wordAddr f s.me + BitVec.ofInt 64 (4 * f.b.immS))) s

/-- CALLR branches to a + b (R287). -/
def execCallr (f : Form) (s : State) : Host.Outcome State Fault Refusal :=
  issue f (afterLoads [lrNo] fun s => callTo f s (s.me.opS f.a + s.me.opS f.b)) s

/-- RET branches to a, or to lr when A is none (R287). -/
def execRet (f : Form) (s : State) : Host.Outcome State Fault Refusal :=
  issue f (if f.a.isNone then afterLoads [lrNo] fun s => branchTo s (s.me.sreg lrNo) else fun s => branchTo s (s.me.opS f.a)) s

/-- NOP has no effect beyond its issue slot (R288). -/
def execNop (f : Form) (s : State) : Host.Outcome State Fault Refusal := issue f (fun s => .done s) s

/-- A routine's last instruction: it completes, and the routine ends; a helper signals a kind (R186, R288, R295). -/
def finishRoutine (f : Form) (kind : Nat) (s : State) : State :=
  let core := s.cur.core
  let c := s.cur.ctx
  let s := s.retire core c false (s.me.pc + BitVec.ofNat 64 (formLen f))
  let s := if c == 0 then s else s.modMe (·.signal kind)
  s.endRoutine core c true

/-- EXIT ends the routine without a completion signal and without a release (R288). -/
def execExit (f : Form) (s : State) : Host.Outcome State Fault Refusal :=
  issue f (fun s => .ended s (finishRoutine f 2)) s

/-- LOOP in either form (R289): a count of 0 skips the body, a count above 2^32 − 1 and a fifth level trap. -/
def pushLoop (f : Form) (count : Nat) (s : State) : Res :=
  let x := s.me
  let disp := f.d.immU
  if disp < 6 then illegal s f 1
  else
    let at_ := wordAddr f x
    let le := at_ + BitVec.ofNat 64 (4 * disp)
    let n := fieldOf (x.srGet rLOOPST) 0 3
    if 2 ^ 32 ≤ count then .fault s cLOOPCNT count
    else if count == 0 then .jump s le
    else if 4 ≤ n then .fault s cLOOPDEPTH 0
    else
      let x := ((x.srSet (rLS n) (at_ + 12)).srSet (rLE n) le).srSet (rLC n) (BitVec.ofNat 64 (count - 1))
      .jump (s.setMe (x.srSet rLOOPST (BitVec.ofNat 64 (n + 1)))) (at_ + 12)

/-- LOOP with its count in scalar A (R289). -/
def execLoop (f : Form) (s : State) : Host.Outcome State Fault Refusal :=
  issue f (fun s => pushLoop f (s.me.opS f.a).toNat s) s

/-- LOOP with an immediate count (R289). -/
def execLoopi (f : Form) (s : State) : Host.Outcome State Fault Refusal := issue f (pushLoop f f.b.immU) s

/-- LBRK pops the innermost level and branches to its LE, which is checked as any target is (R279); with none active it
sets STAT.WARN (R291). -/
def execLbrk (f : Form) (s : State) : Host.Outcome State Fault Refusal :=
  issue f (fun s =>
    let n := fieldOf (s.me.srGet rLOOPST) 0 3
    if n == 0 then .done s.warn
    else match branchTo s (s.me.srGet (rLE (n - 1))) with
      | .jump s pc => .jump (s.modMe (·.srSet rLOOPST (BitVec.ofNat 64 (n - 1)))) pc
      | r => r) s

end Sys2Proof.Machine
end

