-- ==== Sys2Proof/Machine/Engine.lean ====
section
/-! DEFINITION. Engine operations: sync words, faults and completion (spec/07_engines_in_the_model.md R168 to R174), the
addresses that they use (R29), and the issue of a command from a program's slot (spec/08_execution_model.md R191, R193;
spec/11_encoding_and_opcode_map.md R256). -/
namespace Sys2Proof.Machine

/-! ECODE values (R174), and the two codes that RDV adds (R298). -/
def ecXLATE : Nat := 0x01
def ecFABREF : Nat := 0x02
def ecTRKOWN : Nat := 0x03
def ecTRKALIGN : Nat := 0x04
def ecPOISON : Nat := 0x05
def ecOVER : Nat := 0x06
def ecFMT : Nat := 0x07
def ecILLEGAL : Nat := 0x10
def ecMXERR : Nat := 0x11

/-- The ECODE of an access fault (R174). -/
def ecodeOf (cause : Nat) : Nat := if cause == cFABREF then ecFABREF else ecXLATE

/-! Sync words (R172): TARGET [39:0], COUNT [79:40], GEN [103:80], ECODE [111:104], ERR [112]. -/
def swTarget (w : Nat) : Nat := bits w 0 40
def swCount (w : Nat) : Nat := bits w 40 40
def swGen (w : Nat) : Nat := bits w 80 24
def swErr (w : Nat) : Bool := bit w 112

/-- A fault recorded: the first one's code stays (R174). -/
def swFault (w e : Nat) : Nat := if swErr w then w else setBits (setBits w 104 8 e) 112 1 1

/-- An arrival of `n` bytes (R172, R173). -/
def swArrive (w n : Nat) : Nat :=
  let c := swCount w + n
  if swTarget w == 0 then
    if 2 ^ 40 ≤ c then swFault (setBits w 40 40 (2 ^ 40 - 1)) ecOVER else setBits w 40 40 c
  else if swTarget w ≤ c then
    let w' := setBits (setBits w 40 40 0) 80 24 (swGen w + 1)
    if swTarget w < c then swFault w' ecOVER else w'
  else setBits w 40 40 c

/-- Whether a generation has passed `g` (R341). -/
def genPassed (gen g : Nat) : Bool :=
  let d := (gen + 2 ^ 24 - g % 2 ^ 24) % 2 ^ 24
  0 < d && d < 2 ^ 23

/-- The sync word at an offset of a core's stall. -/
def State.syncWord (s : State) (core off : Nat) : Nat := s.stallRead core off 16

/-- A sync word's LA as an operation names it: aligned to 16 bytes in either window (R172). -/
def syncPlace (core : Nat) (w : Word) : Except Flt (Nat × Nat) := checkLa core w 16 16

/-! Addresses of engine operations, in 56-bit form: a local alias becomes the mesh window address of its byte. -/

/-- The registers that the acting agent's operands name: a context's own, or its program's copies (R335). -/
def State.engReg (s : State) (r : Nat) : Word :=
  match s.cur.unit with
  | .context => s.me.sreg r
  | .matrixSeq => if r == 0 then 0 else s.myCore.mseq.regs.get r 0
  | .copySeq => if r == 0 then 0 else s.myCore.cseq.regs.get r 0

/-- The address that an operand forms for the acting agent. -/
def State.engAddr (s : State) : Operand → Word
  | .la r d => s.engReg r + BitVec.ofInt 64 d
  | .bo r d => s.engReg r + BitVec.ofInt 64 d
  | _ => 0

/-- The value of a scalar or of an unsigned immediate for the acting agent. -/
def State.engVal (s : State) : Operand → Word
  | .scalar r => s.engReg r
  | .imm _ v => BitVec.ofNat 64 v
  | _ => 0

/-- The entry `f` for the acting agent: its context's table, or its program's snapshot (R179). -/
def State.engEntry (s : State) (f : Nat) : FmtWord :=
  match s.cur.unit with
  | .context => s.me.fent f
  | .matrixSeq => s.myCore.mseq.snap.get f 0
  | .copySeq => s.myCore.cseq.snap.get f 0

/-- The address space of the acting agent. -/
def State.engAsid (s : State) : Nat :=
  match s.cur.unit with
  | .context => s.me.asid
  | .matrixSeq => s.myCore.mseq.asid
  | .copySeq => s.myCore.cseq.asid

/-- A range of `n` bytes from an operand, checked at issue on its first and last byte (R29, R337), in 56-bit form. -/
def State.engRange (s : State) (o : Operand) (n al : Nat) : Except Flt Nat :=
  let w := s.engAddr o
  let core := s.cur.core
  if o.isLa then
    match checkLa core w n al with
    | .error e => .error e
    | .ok (c, off) =>
      if w.toNat < 0x10000 && 0x10000 < w.toNat + n then .error (cLAFLT, w.toNat) else .ok (meshBase + 65536 * c + off)
  else
    match s.checkVa s.me.vf w al with
    | .error e => .error e
    | .ok _ =>
      let last := w + BitVec.ofNat 64 (n - 1)
      match s.checkVa s.me.vf last 1 with
      | .error e => .error e
      | .ok _ => .ok (w.toNat % 2 ^ 56)

/-- Whether an engine's access to an address waits at its home (R73, R80, R87, R125). -/
def State.engWaits (s : State) (who : Who) (asid va : Nat) (need : Need) : Bool := va < meshBase && s.homeWaits who asid va need

/-- An engine's read of `n` bytes within a line, and whether it is poisoned, which is counted (R89). -/
def State.engRead (s : State) (who : Who) (asid va n : Nat) : Except Nat (Nat × Bool) × State :=
  if meshBase ≤ va then
    let core := (va - meshBase) / 65536
    let off := va % 65536
    let bad := (s.stallPoison core off n).isSome
    (.ok (s.stallRead core off n, bad), if bad then s.countErr (stkOf core) 3 else s)
  else
    match s.homeRead who asid va n .rd with
    | (.ok (v, true), s) => (.ok (v, true), s.countErr (s.firstHome who.core asid va / 64) 3)
    | r => r

/-- The offsets of the words of 4 bytes that a poisoned read of `n` bytes has brought (R88). -/
def State.engMarks (s : State) (va n : Nat) (bad : Bool) : List Nat :=
  if !bad then []
  else
    let ws := (List.range ((n + 3) / 4)).map (4 * ·)
    if meshBase ≤ va then ws.filter fun i => (s.stallPoison ((va - meshBase) / 65536) (va % 65536 + i) 4).isSome else ws

/-- An engine's write of `n` bytes within a line; `bad` has the offsets of the poisoned words of 4 bytes that it carries. -/
def State.engWrite (s : State) (who : Who) (asid va n v : Nat) (bad : List Nat) : Except Nat Unit × State :=
  if meshBase ≤ va then
    let core := (va - meshBase) / 65536
    let off := va % 65536
    (.ok (), bad.foldl (fun s i => s.stallMark core (off + i) 4) (s.stallWrite core off n v))
  else s.homeWrite who asid va n v .wr bad

/-! Operations. -/

/-- A new operation of the acting agent. -/
def State.newOp (s : State) (act : EngAct) (sync : SyncRef) (rows left : Nat) : EngOp :=
  { core := s.cur.core, ctx := s.cur.ctx, asid := s.engAsid, act := act, sync := sync, unit := s.cur.unit,
    slot := match s.cur.unit with
      | .matrixSeq => (s.myCore.mseq.pos + 65536 - s.myCore.mseq.base) % 65536 / 16
      | .copySeq => (s.myCore.cseq.pos + 65536 - s.myCore.cseq.base) % 65536 / 16
      | .context => 0,
    rows := rows, low := 0, rowsDone := [], left := left, ecode := 0,
    gen := match sync with
      | some (c, off) => swGen (s.syncWord c off)
      | none => 0,
    started := false, finished := false,
    slices := [], trips := [], merges := [], expects := [], poisonHeads := [], window := [], pinned := [], olds := [], data := [], slicePins := [] }

/-- The operation begins at its fork edge: it is outstanding (R168, R171), and one of its program's. -/
def State.engStart (s : State) (op : EngOp) : Nat × State :=
  let (id, s) := s.fresh
  let s := { s with ops := s.ops.put id op }.modCtx op.core op.ctx (·.count 13 1)
  let s := match op.unit with
    | .context => s.modCtx op.core op.ctx fun x => { x with pending := x.pending ++ [id] }
    | .matrixSeq => s.modCore op.core fun k => { k with mseq := { k.mseq with ops := k.mseq.ops ++ [id] } }
    | .copySeq => s.modCore op.core fun k => { k with cseq := { k.cseq with ops := k.cseq.ops ++ [id] } }
  (id, s)

/-- Operation `id`, if it is known. -/
def State.engOp (s : State) (id : Nat) : Option EngOp := (s.ops.find? (·.1 == id)).map (·.2)

/-- The state with operation `id` changed. -/
def State.modOp (s : State) (id : Nat) (f : EngOp → EngOp) : State :=
  match s.engOp id with
  | some o => { s with ops := s.ops.put id (f o) }
  | none => s

/-- Bytes of an operation counted at its sync word (R173); the generation that counts them is kept, as its latest update of
its completion object (R171). -/
def State.engCount (s : State) (id n : Nat) : State :=
  match s.engOp id with
  | none => s
  | some o =>
    match o.sync with
    | none => s.modOp id fun o => { o with left := o.left - n }
    | some (c, off) =>
      let w := s.syncWord c off
      let s := if n == 0 then s else s.stallWrite c off 16 (swArrive w n)
      s.modOp id fun o => { o with left := o.left - n, gen := if n == 0 then o.gen else swGen w }

/-- A fault of an operation (R174): it stops, and its completion follows. -/
def State.engFault (s : State) (id ecode : Nat) : State :=
  (s.modOp id fun o => { o with ecode := if o.ecode == 0 then ecode else o.ecode }).later 1 (.engineOpComplete id)

/-- The sequencer's program of an operation has one operation less to wait for. -/
def Seq.without (q : Seq) (id : Nat) : Seq := { q with ops := q.ops.filter (· != id) }

/-- The first fault of a program, for its context's RDV (R177, R298): a faulting matrix command stops its program at its
slot, a faulting copy does not. -/
def Fork.note (f : Fork) (matrix : Bool) (code slot : Nat) : Fork :=
  let put (x : ForkSide) : ForkSide := if x.code == 0 then { x with code := code, slot := if matrix then slot else x.slot } else x
  if matrix then { f with m := put f.m } else { f with c := put f.c }

/-- A faulting matrix command stops its program at its slot: its later commands that have not started are not performed
(R371, R376). -/
def State.stopMatrix (s : State) (id : Nat) (o : EngOp) : State :=
  let s := s.modCtx o.core o.ctx fun x => { x with fork := x.fork.map fun f => { f with m := { f.m with live := false } } }
  let later := (s.ops.filter fun e => e.2.core == o.core && e.2.ctx == o.ctx && e.2.unit == .matrixSeq && id < e.1 &&
    !e.2.started && !e.2.finished).map (·.1)
  let s := later.foldl (fun s i => s.modOp i fun o => { o with finished := true, window := [] }) s
  s.modCore o.core fun k =>
    let k := { k with cmdq := k.cmdq.filter fun i => !later.contains i }
    if k.seqOwner == some o.ctx then
      let k := { k with mseq := { k.mseq with live := false, ops := k.mseq.ops.filter fun i => !later.contains i } }
      if k.cseq.live then k else { k with seqOwner := none }
    else k

/-- The matrix unit that an operation has run in is free again, and its arbiter goes on (R220). -/
def State.freeArbiter (s : State) (id : Nat) (o : EngOp) : State :=
  let tile := tileOf o.core
  match s.arbs.find? (·.1 == tile) with
  | some (_, a) =>
    if a.busy == some id then { s with arbs := s.arbs.put tile { a with busy := none } }.later 0 (.matrixArbiterStart tile)
    else s
  | none => s

/-- The end of an operation (R169, R174): the bytes not yet counted, then the error, and it is finished; with no bytes left
to count, the error is the latest update of its sync word (R171). A fault of a
program's command is reported to RDV as well (R177), and one of a matrix command stops its program. -/
def State.engComplete (s : State) (id : Nat) : State :=
  match s.engOp id with
  | none => s
  | some o =>
    if o.finished then s
    else
      let gen := match o.sync with
        | some (c, off) => swGen (s.syncWord c off)
        | none => 0
      let s := s.engCount id o.left
      let s := if o.left == 0 && o.ecode != 0 then s.modOp id fun o => { o with gen := gen } else s
      let s := if o.ecode == 0 then s
        else
          let s := match o.sync with
            | some (c, off) => s.stallWrite c off 16 (swFault (s.syncWord c off) o.ecode)
            | none => s
          match o.unit with
          | .context => s
          | .copySeq => s.modCtx o.core o.ctx fun x => { x with fork := x.fork.map (·.note false o.ecode 0) }
          | .matrixSeq =>
            (s.modCtx o.core o.ctx fun x => { x with fork := x.fork.map (·.note true o.ecode o.slot) }).stopMatrix id o
      let s := s.modOp id fun o => { o with finished := true, window := [] }
      let s := s.modCore o.core fun k => { k with mseq := k.mseq.without id, cseq := k.cseq.without id }
      (s.freeArbiter id o).drainEnd o.core o.ctx

/-- ENGINE_OP_COMPLETE (R169, R174). -/
def execEngineOpComplete (s : State) : Host.Outcome State Fault Refusal :=
  match s.ev with
  | .engineOpComplete id => .next (s.engComplete id)
  | _ => .next s

/-! Commands in slots. -/

/-- How a command in a slot ends its turn. -/
inductive SlotRes where
  /-- The sequencer goes on to the next slot. -/
  | done (s : State)
  /-- It goes on, and its command, of which no row runs, costs nothing (R204). -/
  | free (s : State)
  /-- It waits at this slot. -/
  | wait
  /-- It goes on at an offset, with no loop level active (R381). -/
  | jump (s : State) (pos : Nat)
  /-- It enters a loop of this many slots, or skips them where the count is 0 (R381). -/
  | loop (s : State) (l : ELoop)
  | skip (s : State) (slots : Nat)
  /-- EGUARD: the next command is skipped, or performed under the valid count of its GSET (R193, R204). -/
  | armed (s : State) (skips : Bool) (valid : Option Nat)
  /-- The program ends here with a code. -/
  | stop (s : State) (code : Nat)

/-- The acting sequencer. -/
def State.mySeq (s : State) : Seq :=
  match s.cur.unit with
  | .matrixSeq => s.myCore.mseq
  | _ => s.myCore.cseq

/-- The state with the acting sequencer changed. -/
def State.modSeq (s : State) (f : Seq → Seq) : State :=
  s.modCore s.cur.core fun k =>
    match s.cur.unit with
    | .matrixSeq => { k with mseq := f k.mseq }
    | _ => { k with cseq := f k.cseq }

/-- A sequencer that has come to an offset: at the end of the innermost loop's body it starts the next iteration, its
register advanced, or leaves the level and tests the next one (R381). -/
def Seq.goTo (q : Seq) (pos : Nat) : Nat → Seq
  | 0 => { q with pos := pos, gapped := false }
  | fuel + 1 =>
    match q.loops.getLast? with
    | none => { q with pos := pos, gapped := false }
    | some l =>
      if pos != (l.first + 16 * l.n) % 65536 then { q with pos := pos, gapped := false }
      else if 1 < l.rem then
        { q with pos := l.first, gapped := false, loops := q.loops.dropLast ++ [{ l with rem := l.rem - 1 }],
                 regs := if l.reg == 0 then q.regs else q.regs.set l.reg (q.regs.get l.reg 0 + BitVec.ofInt 64 l.step) 0 }
      else Seq.goTo { q with loops := q.loops.dropLast } pos fuel

/-- The scalar registers that an operand names. -/
def operandRegs : Operand → List Nat
  | .scalar r => [r]
  | .la r _ => [r]
  | .bo r _ => [r]
  | .shape r _ => [r]
  | _ => []

/-- Whether a word may stand in a slot: its guard, its hint and its registers (R256, R335). -/
def slotOk (f : Form) : Bool :=
  f.npfx == 0 && f.gp == 0 && !f.gs &&
  (match f.hint with
    | .plain y r _ => !y && !r
    | .stamp _ => false) &&
  ((operandRegs f.d ++ operandRegs f.a ++ operandRegs f.b).all (· < 16))

/-- The issue gap of a word (R243). -/
def gapOf (f : Form) : Nat :=
  match f.hint with
  | .plain _ _ g => g
  | .stamp _ => 0

/-- The issue of a command by a sequencer that admits it (R191, R193, R256, R436): its gap first, then its cost, then its
body. A command that EGUARD skips completes without effect. -/
def slotIssue (f : Form) (units : List AgentUnit) (cost : Nat) (body : State → SlotRes) (s : State) :
    Host.Outcome State Fault Refusal :=
  let core := s.cur.core
  let q := s.mySeq
  let next (q : Seq) : Seq := { (q.goTo ((q.pos + 16) % 65536) 3) with skip := false, vnext := none }
  if !s.agentOk then .fault .noSuchAgent
  else if !units.contains s.cur.unit || !slotOk f then .next (s.stopProgram core s.cur.unit ecILLEGAL)
  else if gapOf f != 0 && !q.gapped then
    .next (s.modSeq fun q => { q with gapped := true, gapTo := s.clk + gapOf f })
  else if q.skip then .next (s.modSeq next)
  else if !s.myCore.canPay cost then .next s
  else
    let pay (t : State) : State := t.payCore core s.cur.ctx cost
    match body s with
    | .done t => .next ((pay t).modSeq next)
    | .free t => .next (t.modSeq next)
    | .wait => .next s
    | .jump t pos => .next ((pay t).modSeq fun q => { q with loops := [], pos := pos, gapped := false, skip := false, vnext := none })
    | .loop t l => .next ((pay t).modSeq fun q =>
        { q with loops := q.loops ++ [l], pos := l.first, gapped := false, skip := false, vnext := none })
    | .skip t n => .next ((pay t).modSeq fun q =>
        { (q.goTo ((q.pos + 16 * (n + 1)) % 65536) 3) with skip := false, vnext := none })
    | .armed t sk v => .next ((pay t).modSeq fun q => { next q with skip := sk, vnext := v })
    | .stop t code => .next ((if code == 0 then pay t else t).stopProgram core s.cur.unit code)

/-- The valid count of the command at hand: that of its fork edge (R168, R204). -/
def Seq.valid (q : Seq) : Nat := q.vnext.getD q.vcnt

/-- The rows of a command that run under the valid count, with STAT.WARN of the forker above the row count (R204). -/
def State.validRows (s : State) (rows : Nat) : Nat × State :=
  let v := s.mySeq.valid
  (min rows v, s.warnIf (rows < v && v != 0xFFFFFFFF))

end Sys2Proof.Machine
end

