-- ==== Sys2Proof/Machine/Tracks.lean ====
section
/-! DEFINITION. Major 0x50 and the track mechanism (spec/02_stall_and_tracks.md R43 to R67, R470;
spec/14_memory_track_copy_instructions.md R328 to R334). A context holds at its access until the access has passed both
tests (log entry 31). -/
namespace Sys2Proof.Machine

/-- Track `t` of a core. -/
def Core.track (k : Core) (t : Nat) : Track := k.tracks.get t Track.reset

def Core.setTrack (k : Core) (t : Nat) (x : Track) : Core := { k with tracks := k.tracks.put t x }

def State.track (s : State) (core t : Nat) : Track := (s.core core).track t

def State.modTrack (s : State) (core t : Nat) (f : Track → Track) : State :=
  s.modCore core fun k => k.setTrack t (f (k.track t))

/-! Charges (R51, R435). -/

/-- Positions charged to a context: SHCHG rises, and each multiple of 8 that it passes costs 32. -/
def State.chargeShift (s : State) (core c n : Nat) : State :=
  let x := s.ctx core c
  let old := (x.srGet rSHCHG).toNat
  let s := s.setCtx core c (x.srSet rSHCHG (BitVec.ofNat 64 (old + n)))
  let steps := (old + n) / 8 - old / 8
  if steps == 0 then s else s.payCore core c (32 * steps)

/-! Motion (R47, R50, R51). -/

/-- Positions of a motion finished at a cycle. -/
def Motion.moved (m : Motion) (clk : Nat) : Nat :=
  min ((m.target : Int) - m.from_).natAbs ((clk - m.since) / 2)

/-- Where a motion stands at a cycle. -/
def Motion.at_ (m : Motion) (clk : Nat) : Nat :=
  if m.from_ ≤ m.target then m.from_ + m.moved clk else m.from_ - m.moved clk

/-- Moves of a probing finished at a cycle: the probes of 1 to 6 positions begin at these cycles, and the return of 3 after
them (R58, R60). -/
def Probe.moved (p : Probe) (clk : Nat) : Nat :=
  let legs := [(0, 1), (3, 2), (8, 3), (15, 4), (24, 5), (35, 6), (48, 3)]
  min p.moves ((legs.map fun (l : Nat × Nat) => min l.2 ((clk - p.since - l.1) / 2)).sum)

/-- A track's probing brought up to the present cycle: its positions charged to the access's context (R51). -/
def State.settleProbe (s : State) (core t : Nat) : State :=
  match (s.track core t).probe, (s.track core t).queue with
  | some p, op :: _ =>
    let n := p.moved s.clk
    if p.done < n then
      (s.chargeShift core op.ctx (n - p.done)).modTrack core t fun tr => { tr with probe := some { p with done := n } }
    else s
  | _, _ => s

/-- A track's motion or probing brought up to the present cycle: its positions charged, and a motion's end noted; an
unseated track is then seated (R51, R65). -/
def State.settle (s : State) (core t : Nat) : State :=
  let tr := s.track core t
  match tr.motion with
  | none => s.settleProbe core t
  | some m =>
    let n := m.moved s.clk
    let s := if m.done < n then s.chargeShift core m.ctx (n - m.done) else s
    let m := { m with done := n }
    if m.at_ s.clk == m.target then
      s.modTrack core t fun tr => { tr with motion := none, phys := m.target, unseat := tr.unseat && m.old }
    else s.modTrack core t fun tr => { tr with motion := some m, phys := m.at_ s.clk }

/-- Every motion and probing of a core brought up to the present cycle. -/
def State.settleAll (s : State) (core : Nat) : State :=
  ((s.core core).tracks.filter fun e => e.2.motion.isSome || e.2.probe.isSome).foldl (fun s e => s.settle core e.1) s

/-- The next access of a still track starts. -/
def State.kickTrack (s : State) (core t : Nat) : State :=
  let tr := s.track core t
  if tr.motion.isNone && !tr.started && tr.probe.isNone && !tr.queue.isEmpty then s.later 0 (.trackAccessStart core t) else s

/-- A motion from where the track stands to a target, charged to a context. -/
def State.move (s : State) (core t target c : Nat) (step : Bool) : State :=
  let s := s.settle core t
  let tr := s.track core t
  let d := ((target : Int) - tr.phys).natAbs
  (s.modTrack core t fun tr => { tr with motion := some ⟨tr.phys, target, s.clk, 0, c, step, false⟩ }).later (2 * d) (.trackMotionEnd core t)

/-- TRACK_MOTION_END (R47, R65). -/
def State.motionEnd (s : State) (core t : Nat) : State :=
  let s := s.settle core t
  if (s.track core t).motion.isSome then s else s.kickTrack core t

/-- TRACK_MOTION_END (R47). -/
def execTrackMotionEnd (s : State) : Host.Outcome State Fault Refusal :=
  match s.ev with
  | .trackMotionEnd core t => .next (s.motionEnd core t)
  | _ => .next s

/-! Accesses. -/

/-- The word that a port sees at a physical head with a slip; none past the ends of the track (R45, R61). -/
def trackPos (port head : Nat) (slip : Int) : Option Nat :=
  let p : Int := 256 * port + head + slip
  if 0 ≤ p && p < 1024 then some p.toNat else none

/-- The word at a place of a track and whether it has an uncorrectable error. No word stands past the ends: what such a
read gives is free (log entry 30). -/
def State.trackWord (s : State) (core t : Nat) (pos : Option Nat) : Nat × Bool × State :=
  match pos with
  | some p => (((s.core core).words.get (1024 * t + p) 0).toNat, (s.core core).badWords.contains (1024 * t + p), s)
  | none => let (w, s) := s.draw; (w.toNat % 2 ^ 32, false, s)

/-- A word written, check bits and position code afresh (R43, R332). -/
def State.setTrackWord (s : State) (core t : Nat) (pos : Option Nat) (w : Nat) (bad : Bool) : State :=
  match pos with
  | none => s
  | some p => s.modCore core fun k =>
      { k with words := k.words.set (1024 * t + p) (BitVec.ofNat 32 w) 0,
               badWords := if bad then NatSet.insert (1024 * t + p) k.badWords else NatSet.remove (1024 * t + p) k.badWords }

/-- TVAL of a track fault (R415). -/
def trkVal (s : State) (core t : Nat) : Nat := t + 256 * (s.track core t).head

/-- Whether a context may act on a track (R53, R56); engine work of a finished helper goes on. -/
def State.ownsTrack (s : State) (core c t : Nat) (engine : Bool) : Bool :=
  let tr := s.track core t
  tr.owner == c && (!tr.held || engine)

/-- The tracks of a queued access: one, or the 16 of a TRDV or TWRV by its lead. -/
def TrkAct.tracks (a : TrkAct) (t : Nat) : List Nat :=
  match a with
  | .readV => (List.range 16).map (t + ·)
  | .writeV _ => (List.range 16).map (t + ·)
  | .member lead => (List.range 16).map (lead + ·)
  | _ => [t]

/-- The lead of a queued access. -/
def TrkAct.lead (a : TrkAct) (t : Nat) : Nat :=
  match a with
  | .member lead => lead
  | _ => t

/-- An access taken off the queues of its tracks, the positions of its probings charged, and the next ones start. -/
def State.popAccess (s : State) (core t : Nat) (op : TrkOp) : State :=
  (op.act.tracks t).foldl (fun s u =>
    let s := s.settle core u
    let tr := s.track core u
    if (tr.queue.head?.map (·.id)) == some op.id then
      let s := s.cancel (.trackRealignmentDone core u)
      (s.modTrack core u fun tr => { tr with queue := tr.queue.drop 1, started := false, probe := none }).kickTrack core u
    else s.modTrack core u fun tr => { tr with queue := tr.queue.filter (·.id != op.id) }) s

/-- The completion of a context's track instruction. -/
def State.trackDone (s : State) (core : Nat) (op : TrkOp) (got : List (Nat × Nat)) : State :=
  let x := s.ctx core op.ctx
  match x.block with
  | some ⟨.track _ id, _, _⟩ =>
    if id == op.id then
      let s := ((s.setCtx core op.ctx (x.deliver op.dst got)).warnHeld core op.ctx).retire core op.ctx false (x.pc + BitVec.ofNat 64 op.len)
      s.stepTrap core op.ctx (0, 0, 0)
    else s
  | _ => s

/-- The failure of an access (R60, R62): a context traps at its instruction, whose step has no effect on the architected
head; engine work reports through its completion object and leaves the head as its issue set it. -/
def State.trackFail (s : State) (core t u code : Nat) (op : TrkOp) : State :=
  let s := s.popAccess core t op
  match op.eng with
  | some id => s.engFault id ecTRKALIGN
  | none =>
    let s := s.modTrack core t fun tr => { tr with head := op.head }
    let x := s.ctx core op.ctx
    match x.block with
    | some ⟨.track _ id, _, _⟩ =>
      if id == op.id then
        s.enterTrap core op.ctx (causeWord code false 0 0 0 0) (BitVec.ofNat 64 (trkVal s core u)) x.pc
      else s
    | _ => s

/-- The access that a queued entry stands for: its own, or its lead's. -/
def State.leadOp (s : State) (core : Nat) (op : TrkOp) : TrkOp :=
  match op.act with
  | .member lead => ((s.track core lead).queue.find? (·.id == op.id)).getD op
  | _ => op

/-- A probe's displacement, moves and cycles for a slip seen modulo 8 (R58, R61); `none` where no probe matches. -/
def probeOf (slip : Int) : Option (Int × Nat × Nat) :=
  match slip % 8 with
  | 7 => some (1, 1, 3)
  | 1 => some (-1, 3, 8)
  | 6 => some (2, 6, 15)
  | 2 => some (-2, 10, 24)
  | 5 => some (3, 15, 35)
  | 3 => some (-3, 21, 48)
  | _ => none

/-- TRACK_ACCESS_START (R48, R57, R65): a re-seek first, then the test of the position code; the access of 16 tracks
goes on once all 16 have passed. -/
def State.accessStart (s : State) (core t : Nat) : State :=
  let s := s.settle core t
  let tr := s.track core t
  match tr.queue with
  | [] => s
  | op :: _ =>
    if tr.started || tr.motion.isSome || tr.probe.isSome then s
    else match op.act with
      | .seek => (s.modTrack core t fun tr => { tr with queue := tr.queue.drop 1 }).move core t op.head op.ctx false
      | _ =>
        if tr.unseat || tr.phys != op.head then s.move core t op.head op.ctx false
        else if tr.slip % 8 != 0 then
          match probeOf tr.slip with
          | some (d, moves, cycles) =>
            (s.modTrack core t fun tr => { tr with probe := some ⟨moves, d, false, s.clk, 0⟩ }).later cycles (.trackRealignmentDone core t)
          | none =>
            (s.modTrack core t fun tr => { tr with probe := some ⟨24, 0, true, s.clk, 0⟩ }).later 54 (.trackRealignmentDone core t)
        else
          let lead := op.act.lead t
          let all := (op.act.tracks t).all fun u => u == t ||
            ((s.track core u).started && ((s.track core u).queue.head?.map (·.id)) == some op.id)
          if !all then s.modTrack core t fun tr => { tr with started := true }
          else if s.clk < (s.core core).portAt then s.later ((s.core core).portAt - s.clk) (.trackAccessStart core t)
          else
            ((s.modTrack core t fun tr => { tr with started := true }).modCore core fun k => { k with portAt := s.clk + 1 }).later 3
              (.trackAccessComplete core lead)

/-- TRACK_ACCESS_START (R57). -/
def execTrackAccessStart (s : State) : Host.Outcome State Fault Refusal :=
  match s.ev with
  | .trackAccessStart core t => .next (s.accessStart core t)
  | _ => .next s

/-- A track made suspect and reported as a lasting fault of its stack (R59, R455). -/
def State.suspectTrack (s : State) (core t : Nat) (report : Bool) : State :=
  let s := s.modTrack core t fun tr => { tr with susp := true }
  if report then
    let st := stkOf core
    { s with pkg := { s.pkg with errLast := s.pkg.errLast.put st (bumpField (s.pkg.errLast.get st 0) 5) } }
  else s

/-- The threshold of R59 (R66): a stored 0 counts as 1. -/
def Core.tcthr (k : Core) : Nat := max 1 (fieldOf (k.srGet rTCTHR) 0 8)

/-- TRACK_REALIGNMENT_DONE (R58 to R61): a match moves the track by the probe's displacement and restarts the access; no
match makes the track suspect and fails it. -/
def State.realignmentDone (s : State) (core t : Nat) : State :=
  let tr := s.track core t
  match tr.probe, tr.queue with
  | some ⟨moves, d, fail, _, done⟩, op :: _ =>
    let s := s.chargeShift core op.ctx (moves - done)
    let lead := op.act.lead t
    if fail then
      ((s.modTrack core t fun tr => { tr with probe := none }).suspectTrack core t false).trackFail core lead t cTRKALIGN
        (s.leadOp core op)
    else
      let s := s.modCtx core op.ctx (·.count 11 1)
      let count := min 255 (tr.count + 1)
      let st := stkOf core
      let s := { s with pkg := { s.pkg with errCnt := s.pkg.errCnt.put st (bumpField (s.pkg.errCnt.get st 0) 5) } }
      let s := s.modTrack core t fun tr => { tr with probe := none, slip := tr.slip + d, count := count }
      let s := if tr.count < (s.core core).tcthr && (s.core core).tcthr ≤ count then s.suspectTrack core t true else s
      s.kickTrack core t
  | _, _ => s

/-- TRACK_REALIGNMENT_DONE (R58). -/
def execTrackRealignmentDone (s : State) : Host.Outcome State Fault Refusal :=
  match s.ev with
  | .trackRealignmentDone core t => .next (s.realignmentDone core t)
  | _ => .next s

/-- The head after a step, clamped at the ends (R46). -/
def stepHead (h : Nat) (dn : Bool) : Nat := if dn then h - 1 else min 255 (h + 1)

/-- A completed access leaves the queue, and a step moves the track on (R46, R332). -/
def State.finishAccess (s : State) (core t : Nat) (op : TrkOp) (step dn : Bool) : State :=
  let s := s.modTrack core t fun tr => { tr with queue := tr.queue.drop 1, started := false }
  if step && stepHead op.head dn != op.head then s.move core t (stepHead op.head dn) op.ctx true else s.kickTrack core t

/-! Steps of ACOPYT (R339). -/

/-- The ports that a step of an ACOPYT uses, each with its byte offset at step `i` of `n`. -/
def copyPorts (all : Bool) (port n i : Nat) : List (Nat × Nat) :=
  if all then (List.range 4).map fun j => (j, 4 * (j * n + i)) else [(port, 4 * i)]

/-- One word between a track and memory, with its mark (R62, R88); a fault gives its ECODE. -/
def State.copyWord (s : State) (o : EngOp) (toTrack : Bool) (t va : Nat) (pos : Option Nat) : Except Nat Unit × State :=
  let who : Who := ⟨o.core, o.ctx, o.asid / 1024⟩
  if toTrack then
    match s.engRead who o.asid va 4 with
    | (.error c, s) => (.error (ecodeOf c), s)
    | (.ok (v, bad), s) => (.ok (), s.setTrackWord o.core t pos v bad)
  else
    let (w, bad, s) := s.trackWord o.core t pos
    match s.engWrite who o.asid va 4 w (if bad then [0] else []) with
    | (.error c, s) => (.error (ecodeOf c), s)
    | (.ok _, s) => (.ok (), s)

/-- Step `o.low` of the ACOPYT at the head of a track's queue; then the head moves on, or the operation ends. -/
def State.copyStep (s : State) (core t : Nat) (op : TrkOp) (id : Nat) : State :=
  match s.engOp id with
  | none => s.popAccess core t op
  | some o =>
    match o.act with
    | .copyTrack toTrack _ port dn all addr n _ =>
      let i := o.low
      let slip := (s.track core t).slip
      let words := copyPorts all port n i
      if !(s.core core).canPay 48 then s.later 64 (.trackAccessComplete core t)
      else if words.any fun w => s.engWaits ⟨o.core, o.ctx, o.asid / 1024⟩ o.asid (addr + w.2) (if toTrack then .rd else .wr) then
        s.later 16 (.trackAccessComplete core t)
      else
        let (err, s) := words.foldl (fun (acc : Option Nat × State) w =>
          match acc with
          | (some e, s) => (some e, s)
          | (none, s) =>
            match s.copyWord o toTrack t (addr + w.2) (trackPos w.1 op.head slip) with
            | (.error e, s) => (some e, s)
            | (.ok _, s) => (none, s.engCount id 4)) (none, s)
        match err with
        | some e => (s.popAccess core t op).engFault id e
        | none =>
          let s := (s.modOp id fun o => { o with low := i + 1 }).payCore core o.ctx 48
          let s := s.modTrack core t fun tr => { tr with queue := tr.queue.drop 1, started := false }
          let h := stepHead op.head dn
          let last := o.rows ≤ i + 1
          let s := if last then s.later 1 (.engineOpComplete id)
            else s.modTrack core t fun tr => { tr with queue := { op with head := h } :: tr.queue }
          if h != op.head then s.move core t h op.ctx true else s.kickTrack core t
    | _ => s.popAccess core t op

/-! Completion. -/

/-- The reads of a TRDV: the 16 words by lane, the first with an uncorrectable error, and the marks. -/
def State.readLanes (s : State) (core lead port : Nat) : List (Nat × Nat) × List Nat × State :=
  (List.range 16).foldl (fun (acc : List (Nat × Nat) × List Nat × State) i =>
    let (got, bad, s) := acc
    let tr := s.track core (lead + i)
    let (w, b, s) := s.trackWord core (lead + i) (trackPos port tr.phys tr.slip)
    (got ++ [(i, w)], if b then bad ++ [i] else bad, s)) ([], [], s)

/-- The writes of a TWRV. -/
def State.writeLanes (s : State) (core lead port v : Nat) (bad : List Nat) : State :=
  (List.range 16).foldl (fun s i =>
    let tr := s.track core (lead + i)
    s.setTrackWord core (lead + i) (trackPos port tr.phys tr.slip) (bits v (32 * i) 32) (bad.contains i)) s

/-- The poisoned words of a 64-byte block of a stall, by lane. -/
def State.stallMarks (s : State) (core off : Nat) : List Nat :=
  (List.range 16).filter fun i => (s.stallPoison core (off + 4 * i) 4).isSome

/-- A TRDV or TWRV of a copy program: the block at its LA (R334). -/
def State.vecEngine (s : State) (core lead id : Nat) (op : TrkOp) : State :=
  match s.engOp id with
  | none => s.popAccess core lead op
  | some o =>
    match o.act with
    | .trackVec toTrack _ port va =>
      let c := (va - meshBase) / 65536
      let off := va % 65536
      let s := if toTrack then s.writeLanes core lead port (s.stallRead c off 64) (s.stallMarks c off)
        else
          let (got, bad, s) := s.readLanes core lead port
          let s := s.stallWrite c off 64 (got.foldl (fun n g => setBits n (32 * g.1) 32 g.2) 0)
          bad.foldl (fun s i => s.stallMark c (off + 4 * i) 4) s
      (s.popAccess core lead op).later 1 (.engineOpComplete id)
    | _ => s.popAccess core lead op

/-- TRACK_ACCESS_COMPLETE (R62, R332, R334, R470). -/
def State.accessComplete (s : State) (core t : Nat) : State :=
  let tr := s.track core t
  match tr.queue with
  | [] => s
  | op :: _ =>
    if !tr.started then s
    else match op.act with
      | .read step dn =>
        let (w, bad, s) := s.trackWord core t (trackPos op.port op.head tr.slip)
        if bad then s.trackFail core t t cTRKECC op
        else (s.finishAccess core t op step dn).trackDone core op [(0, w)]
      | .write step dn v =>
        ((s.setTrackWord core t (trackPos op.port op.head tr.slip) v false).finishAccess core t op step dn).trackDone core op []
      | .readV =>
        match op.eng with
        | some id => s.vecEngine core t id op
        | none =>
          let (got, bad, s) := s.readLanes core t op.port
          match bad with
          | i :: _ => s.trackFail core t (t + i) cTRKECC op
          | [] => (s.popAccess core t op).trackDone core op got
      | .writeV v =>
        match op.eng with
        | some id => s.vecEngine core t id op
        | none => ((s.writeLanes core t op.port v.toNat []).popAccess core t op).trackDone core op []
      | .copy id => s.copyStep core t op id
      | _ => s

/-- TRACK_ACCESS_COMPLETE (R470). -/
def execTrackAccessComplete (s : State) : Host.Outcome State Fault Refusal :=
  match s.ev with
  | .trackAccessComplete core t => .next (s.accessComplete core t)
  | _ => .next s

/-- SHIFT_WINDOW_CLEAR at each boundary of 10 ms (R59): the counts of tracks, tiles, stacks and rows begin anew. -/
def execShiftWindowClear (s : State) : Host.Outcome State Fault Refusal :=
  let s := { s with cores := s.cores.map fun (e : Nat × Core) =>
    (e.1, { e.2 with tracks := e.2.tracks.map fun (t : Nat × Track) => (t.1, { t.2 with count := 0 }) }) }
  .next (({ s with tileErr := [], winErr := [], rowErr := [] }).atBoundary 10000000 0 .shiftWindowClear)

/-! Instructions. -/

/-- An access put on its track's queue. -/
def State.queueAccess (s : State) (core t : Nat) (op : TrkOp) : State :=
  (s.modTrack core t fun tr => { tr with queue := tr.queue ++ [op] }).kickTrack core t

/-- The cost of a track access through a port (R435). -/
def costPort : Nat := 8

/-- A track operation of the acting context: its ownership is checked at issue (R53). -/
def ownedTrack (o : Operand) (body : State → Res) (s : State) : Res :=
  let s := s.settleAll s.cur.core
  if s.ownsTrack s.cur.core s.cur.ctx o.num false then body s else .fault s cTRKOWN (trkVal s s.cur.core o.num)

/-- An access of one track by the acting context: queued with the architected head, which a step sets at issue (R50). -/
def trackAccess (f : Form) (o : Operand) (act : TrkAct) (step : Bool) (d : Dst) (s : State) : Res :=
  let core := s.cur.core
  let t := o.num
  let h := (s.track core t).head
  let s := if step then s.modTrack core t fun tr => { tr with head := stepHead h o.down } else s
  let (id, s) := s.fresh
  .hold (s.queueAccess core t ⟨id, act, o.port, h, s.cur.ctx, none, d, formLen f⟩) (.track t id) 1

/-- TRD (R332). -/
def execTrd (f : Form) (s : State) : Host.Outcome State Fault Refusal :=
  issueCost f costPort (ownedTrack f.a (trackAccess f f.a (.read false f.a.down) false (.scalar f.d.sreg 4 false))) s

/-- TRDS (R332). -/
def execTrds (f : Form) (s : State) : Host.Outcome State Fault Refusal :=
  issueCost f costPort (ownedTrack f.a (trackAccess f f.a (.read true f.a.down) true (.scalar f.d.sreg 4 false))) s

/-- TWR (R332). -/
def execTwr (f : Form) (s : State) : Host.Outcome State Fault Refusal :=
  issueCost f costPort (ownedTrack f.d fun s =>
    trackAccess f f.d (.write false f.d.down (fieldOf (s.me.opS f.a) 0 32)) false .none s) s

/-- TWRS (R332). -/
def execTwrs (f : Form) (s : State) : Host.Outcome State Fault Refusal :=
  issueCost f costPort (ownedTrack f.d fun s =>
    trackAccess f f.d (.write true f.d.down (fieldOf (s.me.opS f.a) 0 32)) true .none s) s

/-- The architected head set at issue, and the motion begun, or queued behind earlier accesses and their steps (R49, R50,
R331; log entry 33). -/
def seekTo (t target : Nat) (s : State) : Res :=
  let core := s.cur.core
  let s := s.modTrack core t fun tr => { tr with head := target }
  let tr := s.track core t
  if tr.queue.isEmpty && !tr.motion.any (·.step) then .done (s.move core t target s.cur.ctx false)
  else
    let (id, s) := s.fresh
    .done (s.queueAccess core t ⟨id, .seek, 0, target, s.cur.ctx, none, .none, 0⟩)

/-- TSEEK (R331): a target above 255 raises TRKRANGE and moves nothing (R46). -/
def execTseek (f : Form) (s : State) : Host.Outcome State Fault Refusal :=
  issue f (ownedTrack f.d fun s =>
    let a := (s.me.opU f.a).toNat
    if 255 < a then .fault s cTRKRANGE (trkVal s s.cur.core f.d.num) else seekTo f.d.num a s) s

/-- TREW (R331). -/
def execTrew (f : Form) (s : State) : Host.Outcome State Fault Refusal :=
  issue f (ownedTrack f.d (seekTo f.d.num 0)) s

/-- THEAD (R333): it never waits. -/
def execThead (f : Form) (s : State) : Host.Outcome State Fault Refusal :=
  issue f (ownedTrack f.a fun s =>
    .done (s.putS f.d.sreg (BitVec.ofNat 64 (s.track s.cur.core f.a.num).head))) s

/-- Whether a track is still, with no access queued. -/
def Track.idle (t : Track) : Bool := t.motion.isNone && t.queue.isEmpty

/-- Whether the acting context's TSYNC has been accepted on a track and waits. -/
def State.syncing (s : State) (t : Nat) : Bool :=
  match s.me.block with
  | some b => b.wait == .trackStill t
  | none => false

/-- TSYNC waits until the track is still and seated; an unseated track is first sought to its head (R65, R333). -/
def trackSync (t : Nat) (s : State) : Res :=
  let core := s.cur.core
  let tr := s.track core t
  if tr.idle && tr.unseat then .hold (s.move core t tr.head s.cur.ctx false) (.trackStill t) 0
  else if tr.idle then .done s else .hold s (.trackStill t) 0

/-- TSYNC (R333): one that waits completes under the ownership that it was accepted under (R53). -/
def execTsync (f : Form) (s : State) : Host.Outcome State Fault Refusal :=
  issue f (fun s => if s.syncing f.d.num then trackSync f.d.num (s.settleAll s.cur.core) else ownedTrack f.d (trackSync f.d.num) s) s

/-- The first track of 16 that a context may not act on. -/
def State.notOwned (s : State) (core c t : Nat) (engine : Bool) : Option Nat :=
  ((List.range 16).map (t + ·)).find? fun u => !s.ownsTrack core c u engine

/-- An access of 16 tracks put on their queues, each with its own head; the lead's entry carries the action. -/
def State.queueVec (s : State) (id core t port c : Nat) (act : TrkAct) (eng : Option Nat) (d : Dst) (len : Nat) : State :=
  (List.range 16).foldl (fun s i =>
    let u := t + i
    s.queueAccess core u ⟨id, if i == 0 then act else .member t, port, (s.track core u).head, c, eng, d, len⟩) s

/-- TRDV and TWRV of a context (R334): a track that is no multiple of 16 or a form for slots alone is ILLEGAL. -/
def trackVec (f : Form) (p q : Pos) (act : VWord → TrkAct) (d : Dst) (s : State) : Res :=
  let o := p.of f
  let t := o.num
  let core := s.cur.core
  if t % 16 != 0 then illegal s f 1
  else if (q.of f).entry.isNone then illegal s f 1
  else if !f.b.isNone then illegal s f 2
  else match plainEntry s.me (s.me.entryNo f q) with
    | .error e => .fault s e.1 e.2
    | .ok _ =>
      let s := s.settleAll core
      match s.notOwned core s.cur.ctx t false with
      | some u => .fault s cTRKOWN (trkVal s core u)
      | none =>
        let (id, s) := s.fresh
        .hold (s.queueVec id core t o.port s.cur.ctx (act (s.me.vreg (q.of f).num)) none d (formLen f)) (.track t id) 1

/-- The operation of a TRDV or TWRV in a slot (R334, R343): an LA aligned to 64, an optional sync word, one row. -/
def trackVecSlot (f : Form) (p q : Pos) (toTrack : Bool) (s : State) : SlotRes :=
  let core := s.cur.core
  let c := s.cur.ctx
  let o := p.of f
  let t := o.num
  if t % 16 != 0 || !(q.of f).isLa then .stop s ecILLEGAL
  else match checkLa core (s.engAddr (q.of f)) 64 64, (if f.b.isNone then .ok none else (syncPlace core (s.engAddr f.b)).map some) with
    | .ok (lc, lo), .ok sync =>
      let (rows, s) := s.validRows 1
      if rows == 0 then .free s
      else
        let op := s.newOp (.trackVec toTrack t o.port (meshBase + 65536 * lc + lo)) sync 1 64
        let (id, s) := s.engStart { op with started := true }
        let s := s.settleAll core
        match s.notOwned core c t true with
        | some _ => .done (s.engFault id ecTRKOWN)
        | none => .done (s.queueVec id core t o.port c (if toTrack then .writeV 0 else .readV) (some id) .none 0)
    | _, _ => .stop s ecILLEGAL

/-- TRDV (R334). -/
def execTrdv (f : Form) (s : State) : Host.Outcome State Fault Refusal :=
  if s.cur.unit == .context then
    issueWith f (16 * costPort) (scalarWarn f false || s.me.strayEntry f) (namesEntry f) false noReport
      (trackVec f .a .d (fun _ => .readV) (.vec f.d.num 32 [])) s
  else slotIssue f [.copySeq] (16 * costPort) (trackVecSlot f .a .d false) s

/-- TWRV (R334). -/
def execTwrv (f : Form) (s : State) : Host.Outcome State Fault Refusal :=
  if s.cur.unit == .context then
    issueWith f (16 * costPort) (scalarWarn f false || s.me.strayEntry f) (namesEntry f) false noReport
      (trackVec f .d .a .writeV .none) s
  else slotIssue f [.copySeq] (16 * costPort) (trackVecSlot f .d .a true) s

/-! TOWN (R330). -/

/-- Status values of TOWN. -/
def twOK : Nat := 0
def twBADHELP : Nat := 1
def twNOTOWNED : Nat := 2
def twSUSPECT : Nat := 3
def twBADRANGE : Nat := 4

/-- The tracks `first` to `first + n - 1` given to a context. -/
def State.giveTracks (s : State) (core first n c : Nat) : State :=
  (List.range n).foldl (fun s i => s.modTrack core (first + i) fun tr => { tr with owner := c }) s

/-- The tracks of a range that are in a helper's mask given back to the control context (R330). -/
def State.recoverTracks (s : State) (core first n h : Nat) : State :=
  (List.range n).foldl (fun s i => s.modTrack core (first + i) fun tr =>
    if tr.owner == h && !tr.held then { tr with owner := 0 } else tr) s

/-- TOWN: a recover waits for the operations accepted on its range and then moves the range in one step (R55, R330). -/
def town (f : Form) (s : State) : Res :=
  let core := s.cur.core
  let a := (s.me.opS f.a).toNat
  let b := (s.me.opS f.b).toNat
  let h := bits a 0 4
  let recover := bit a 8
  let first := bits b 0 8
  let n := bits b 8 8 + 1
  let ts := (List.range n).map (first + ·)
  let put (s : State) (v : Nat) : State := s.putS f.d.sreg (BitVec.ofNat 64 v)
  let allIdle (s : State) : Bool := ts.all fun t => (s.track core t).idle
  let waited := match s.me.block with
    | some ⟨.recover _ _, _, _⟩ => true
    | _ => false
  let st := (s.ctx core h).st
  let take (s : State) : Res :=
    let s := s.settleAll core
    if allIdle s then .done (put (s.recoverTracks core first n h) twOK) else .hold s (.recover first n) 1
  if waited then take s
  else if 256 < first + n then .done (put s twBADRANGE)
  else if h < 1 || 10 < h || (!recover && (st == .drain || st == .saved)) then .done (put s twBADHELP)
  else if !recover then
    if ts.any fun t => !s.ownsTrack core 0 t false then .done (put s twNOTOWNED)
    else if ts.any fun t => (s.track core t).susp then .done (put s twSUSPECT)
    else .done (put (s.giveTracks core first n h) twOK)
  else if ts.any fun t => !s.ownsTrack core h t false then .done (put s twNOTOWNED)
  else take s

/-- TOWN (R330): a helper raises CTXPERM. -/
def execTown (f : Form) (s : State) : Host.Outcome State Fault Refusal :=
  issue f (fun s => if s.cur.ctx == 0 then town f s else .fault s cCTXPERM 0) s

end Sys2Proof.Machine
end

