-- ==== Sys2Proof/Machine/Preempt.lean ====
section
/-! DEFINITION. The save of a context and its restore (spec/18_traps_preemption_contexts.md R425 to R430;
spec/02_stall_and_tracks.md R63 to R65). -/
namespace Sys2Proof.Machine

/-- Values of 8 bytes packed in order. -/
def packWords (ws : List Nat) : Nat := ws.foldr (fun w n => w % 2 ^ 64 + 2 ^ 64 * n) 0

/-- Whether a save may write its area: the FENCE and the drain of R427 are over. -/
def State.saveReady (s : State) (core c : Nat) : Bool :=
  !(s.core core).storesOut c && !(s.ops.any fun e => e.2.core == core && e.2.ctx == c && !e.2.finished) &&
  !(s.reqs.any fun e => e.2.core == core && e.2.ctx == c && e.2.jidx.isNone)

/-- The system registers of the words at 0x0010 and at 0x0040 of a save area, and of 0x0100 (R428). -/
def saveRegsA : List Nat := [rSTAT, rCTXID, rVCNT, rSHIX, rPFXH, rPREDS]
def saveRegsB : List Nat :=
  [rFCSR, rRSEED, rTVEC, rTCAUSE 1, rTCAUSE 2, rTRET 1, rTRET 2, rTVAL 1, rTVAL 2, rPFXHn 1, rPFXHn 2, rLS 0, rLS 1,
   rLS 2, rLS 3, rLE 0, rLE 1, rLE 2, rLE 3, rLC 0, rLC 1, rLC 2, rLC 3, rLOOPST]
def saveRegsC : List Nat := [rSHCHG, rC2FILLS, rC2WBS, rC2EVICTS]

/-- A system register as a save area holds it, in the layout of its field map: p0 reads as true in PREDS (R401), and
PFXH.PEND as STAT.PFX (R251). A shape instruction saved between its steps has its prefix pending again (log entry 173). -/
def Ctx.saveReg (x : Ctx) (n : Nat) : Nat :=
  let x := x.unissued
  if n == rPREDS then (x.srGet n).toNat.lor 1
  else if n == rPFXH then setBits (x.srGet n).toNat 19 1 (x.statBit bPFX).toNat
  else (x.srGet n).toNat

/-- The bits that a system register's field map gives a meaning (R251, R292, R369, R400, R401, R410, R418, R66, R227). -/
def srFields (n : Nat) : Nat :=
  if n == rSTAT then 0xF073F
  else if n == rCTXID || n == rPREDS then 0xFFFF
  else if n == rVCNT || n == rSHIX || (rLC 0 ≤ n && n ≤ rLC 3) then 0xFFFFFFFF
  else if n == rFCSR then 0x1F7
  else if n == rPFXH then 0x77FFF
  else if n == rTCAUSE 1 || n == rTCAUSE 2 then 0x7FFF + 0x7F0000 + 0x1FF000000
  else if n == rPFXHn 1 || n == rPFXHn 2 then 0xF7FFF
  else if n == rLOOPST then 7
  else if n == rTRKSEL then 0xFF
  else if rPMEV 0 ≤ n && n ≤ rPMEV 7 then 0x7F
  else 2 ^ 64 - 1

/-- A word that a restore writes into a system register, with the fates of its field map, and whether one applies: a reserved
bit is written as zero, RM 0 or 7 as 1, DEPTH above 4 as 4, and the low bits of a code address as zero (R6, R227, R291,
R292, R401, R418). -/
def srRestored (n v : Nat) : Nat × Bool :=
  let w := v.land (srFields n)
  let (u, odd) :=
    if n == rFCSR && (w % 8 == 0 || w % 8 == 7) then (w - w % 8 + 1, true)
    else if n == rLOOPST && 4 < w then (4, true)
    else if n == rTVEC || n == rTRET 1 || n == rTRET 2 then (w / 4 * 4, w % 4 != 0)
    else if n == rPREDS then (w.lor 1, false)
    else (w, false)
  (u, odd || (w != v && !(n == rPFXH && w == setBits v 19 1 0)))

/-- The code of a guard slot (R299). -/
def Guard.code : Guard → Nat
  | .hold => 0
  | .run => 1
  | .skip => 2

/-- A position word and a loop-level word of the engine state (R429). -/
def posWord (q : Seq) (f : ForkSide) : Nat := q.pos + f.live.toNat * 2 ^ 16 + f.code * 2 ^ 17 + f.slot * 2 ^ 25
def loopWord (l : Option ELoop) : Nat :=
  match l with
  | some l => l.rem % 2 ^ 24 + l.n * 2 ^ 24 + l.first * 2 ^ 32 + 2 ^ 48
  | none => 0

/-- A program's 16 register copies packed (R335). -/
def copyWords (q : Seq) : Nat := packWords ((List.range 16).map fun r => (q.regs.get r 0).toNat)

/-- The groups of registers of a mask, as offset, bytes and value (R428). -/
def saveGroups (x : Ctx) (mask : Nat) : List (Nat × Nat × Nat) :=
  let sregs (k : Nat) : Nat := packWords ((List.range 16).map fun i => (x.sreg (16 * k + i)).toNat)
  let vregs (k : Nat) : Nat := (List.range 16).foldr (fun i n => (x.vreg (16 * k + i)).toNat + 2 ^ 512 * n) 0
  let accs : Nat := (List.range 3072).foldr (fun i n => (x.acc.get i 0).toNat + 2 ^ 32 * n) 0
  (if bit mask 0 then [(0x400, 128, sregs 0)] else []) ++ (if bit mask 1 then [(0x480, 128, sregs 1)] else []) ++
  (if bit mask 2 then [(0x500, 128, sregs 2)] else []) ++ (if bit mask 3 then [(0x580, 128, sregs 3)] else []) ++
  (if bit mask 7 then
    [(0x600, 128, (List.range 8).foldr (fun i n => (x.mreg i).toNat + 2 ^ 128 * n) 0)] else []) ++
  (if bit mask 4 then [(0x800, 1024, vregs 0)] else []) ++ (if bit mask 5 then [(0xC00, 1024, vregs 1)] else []) ++
  (if bit mask 6 then [(0x1000, 12288, accs)] else [])

/-- The pieces of a save area, as offset, bytes and value (R428, R429). -/
def savePieces (k : Core) (core c mask : Nat) (forced : Bool) : List (Nat × Nat × Nat) :=
  let x := k.ctx c
  let f := x.fork.getD ⟨⟨false, 0, 0, 0⟩, ⟨false, 0, 0, 0⟩⟩
  let own := k.seqOwner == some c
  let m := if own then k.mseq else Seq.reset
  let q := if own then k.cseq else Seq.reset
  let eng := x.fork.isSome
  let head := packWords [x.pc.toNat, mask + forced.toNat * 2 ^ 8 + eng.toNat * 2 ^ 9 + c * 2 ^ 10 + core * 2 ^ 14]
  let a := packWords (saveRegsA.map x.saveReg)
  let b := packWords (saveRegsB.map x.saveReg)
  let cw := packWords (saveRegsC.map x.saveReg ++ ((List.range 8).map fun i => (x.pmc.get i 0).toNat) ++
    ((List.range 8).map fun i => (x.srGet (rPMEV i)).toNat) ++ [x.drawn / 1024, (x.srGet rTRKSEL).toNat])
  let guards := (List.range 16).foldl (fun n g => n + (x.guard g).code * 4 ^ g) 0
  let geom := m.fa + m.fb * 2 ^ 5 + m.edge * 2 ^ 10
  let engine := packWords (if eng then [posWord m f.m, posWord q f.c, loopWord m.loops[0]?, loopWord m.loops[1]?,
    loopWord q.loops[0]?, loopWord q.loops[1]?, geom] else [])
  let fmts := (List.range 32).foldr (fun i n => (x.fent i).toNat + 2 ^ 32 * n) 0
  let owned := (List.range 256).foldl (fun n t => if (k.tracks.get t Track.reset).owner == c then n + 2 ^ t else n) 0
  let heads := (List.range 256).foldr (fun t n => (k.tracks.get t Track.reset).head + 256 * n) 0
  let taken := if m.snap.isEmpty then q.snap else m.snap
  let snap := (List.range 32).foldr (fun i n => (taken.get i 0).toNat + 2 ^ 32 * n) 0
  [(0, 16, head), (0x10, 48, a), (0x40, 192, b), (0x100, 192, cw), (0x1C0, 8, guards), (0x1C8, 56, engine),
   (0x200, 128, fmts), (0x280, 128, owned), (0x300, 256, heads)] ++ saveGroups x mask ++
  (if eng then [(0x680, 128, snap), (0x700, 128, copyWords m), (0x780, 128, copyWords q)] else [])

/-- The pieces of an area written in order, virtual in an ASID or physical; the first refusal ends it. -/
def State.writePieces (s : State) (who : Who) (asid area : Nat) (phys : Bool) :
    List (Nat × Nat × Nat) → Except Flt Unit × State
  | [] => (.ok (), s)
  | (off, n, v) :: rest =>
    if phys then State.writePieces (s.physWrite (area + off) n v) who asid area phys rest
    else
      match s.virtWrite who asid ((area + off) % 2 ^ 56) n v .wr with
      | (.error e, s) => (.error e, s)
      | (.ok _, s) => State.writePieces s who asid area phys rest

/-- CONTEXT_SAVE once the context is drained (R427): the area is written, STAT.PREQ is cleared and the context is SAVED;
its programs leave the sequencers. A refused write kills it. -/
def State.saveContext (s : State) (core c mask : Nat) (forced : Bool) : State :=
  let s := s.settleAll core
  let x := s.ctx core c
  match x.preq with
  | none => s.setCtx core c { x with block := none, st := .ready }
  | some p =>
    match s.writePieces ⟨core, c, x.vf⟩ x.asid p.area p.phys (savePieces (s.core core) core c mask forced) with
    | (.error (code, val), s) =>
      s.kill core c (causeWord code false 0 0 0 0) 5 x.pc.toNat val
    | (.ok _, s) =>
      let s := (s.modCore core fun k =>
        if k.seqOwner == some c then { k with seqOwner := none, mseq := Seq.reset, cseq := Seq.reset } else k).acquireFor core c
      s.modCtx core c fun x => { (x.setStat bPREQ false) with st := .saved, block := none, preq := none }

/-- Field [8 off + 8 n - 1 : 8 off] of an area read as one number. -/
def areaBytes (a off n : Nat) : Nat := bits a (8 * off) (8 * n)

/-- A loop level as a restore rebuilds it: the register and the step stand in the ELOOP before the body (R381, R429). -/
def State.loopOf (s : State) (core w : Nat) : Option ELoop :=
  if !bit w 48 then none
  else
    let first := bits w 32 16
    let p (i : Nat) : Nat := s.stallRead core (first + 65536 - 16 + 4 * i) 4
    let (step, reg) := match decodeWord .empty (p 0) (p 1) (p 2) with
      | .ok (.eloop f) => match f.d, f.a with
        | .imm _ d, .scalar r => (64 * sxInt 8 (d / 256), r)
        | _, _ => (0, 0)
      | _ => (0, 0)
    some ⟨bits w 0 24, bits w 24 8, first, step, reg⟩

/-- A sequencer as a restore resumes it; its base is what the slot has kept (R298, R429, R430). -/
def State.seqOf (s : State) (core base pos l0 l1 geom snap copy vcnt asid : Nat) : Seq :=
  { Seq.reset with
    live := bit pos 16, base := base, pos := bits pos 0 16,
    loops := ([l0, l1].filterMap (s.loopOf core)),
    regs := (List.range 16).foldl (fun m r => Assoc.set m r (BitVec.ofNat 64 (bits copy (64 * r) 64)) 0) [],
    snap := (List.range 32).foldl (fun m i => Assoc.set m i (BitVec.ofNat 32 (bits snap (32 * i) 32)) 0) [],
    vcnt := vcnt, fa := bits geom 0 5, fb := bits geom 5 5, edge := bits geom 10 20, asid := asid }

/-- The context that an area of R428 describes, over what its slot keeps: omitted groups become zero, m1 to m7
ones; f0 to f7 never change (R223). A control context saved while it waited for a launch waits again, as its EXIT issued once more would (log entry 22). -/
def restoreCtx (x : Ctx) (a : Nat) : Ctx :=
  let w (off : Nat) : Nat := areaBytes a off 8
  let mask := bits (w 8) 0 8
  let regs := (saveRegsA.zip ((List.range 6).map fun i => w (0x10 + 8 * i))) ++
    (saveRegsB.zip ((List.range 24).map fun i => w (0x40 + 8 * i))) ++
    (saveRegsC.zip ((List.range 4).map fun i => w (0x100 + 8 * i))) ++
    ((List.range 8).map fun i => (rPMEV i, w (0x160 + 8 * i))) ++ [(rTRKSEL, w 0x1A8)]
  let x := regs.foldl (fun x r => x.srSet r.1 (BitVec.ofNat 64 (srRestored r.1 r.2).1)) x
  let x := (if regs.any fun r => (srRestored r.1 r.2).2 then x.setStat bWARN true else x).setStat bPREQ false
  let grp (r : Nat) : Bool := bit mask (r / 16)
  let guard (g : Nat) : Guard := match bits (w 0x1C0) (2 * g) 2 with
    | 0 => .hold
    | 1 => .run
    | _ => .skip
  { x with
    pc := BitVec.ofNat 64 (w 0), pmc := (List.range 8).foldl (fun m i => Assoc.set m i (BitVec.ofNat 64 (w (0x120 + 8 * i))) 0) [],
    drawn := 1024 * w 0x1A0,
    s := (List.range 64).foldl (fun m r => if r != 0 && grp r then Assoc.set m r (BitVec.ofNat 64 (w (0x400 + 8 * r))) 0 else m) [],
    m := (List.range 8).foldl (fun m r => if r == 0 then m else
      Assoc.set m r (if bit mask 7 then BitVec.ofNat 128 (areaBytes a (0x600 + 16 * r) 16) else BitVec.allOnes 128) 0) [],
    v := (List.range 32).foldl (fun m r => if bit mask (4 + r / 16) then
      Assoc.set m r (BitVec.ofNat 512 (areaBytes a (0x800 + 64 * r) 64)) 0 else m) [],
    acc := if bit mask 6 then (List.range 3072).foldl (fun m i =>
      Assoc.set m i (BitVec.ofNat 32 (areaBytes a (0x1000 + 4 * i) 4)) 0) [] else [],
    accSum := [],
    guards := (List.range 16).foldl (fun m g => Assoc.set m g (guard g) .hold) [],
    gvcnt := (List.range 16).foldl (fun m g => Assoc.set m g (BitVec.ofNat 64 (w 0x20)) 0) [],
    ftab := (List.range 24).foldl (fun m i =>
      let e := areaBytes a (0x220 + 4 * i) 4
      Assoc.set m (8 + i) (if bit e 31 then BitVec.ofNat 32 e else 0) (presetEntry (8 + i))) [],
    shapes := [], loads := [],
    block := none, st := if x.idle then .wait else .ready }

/-- Whether a saved track is in a live helper's mask, or held by a finished helper (R64, R430). -/
def Core.trackBusy (k : Core) (c t : Nat) : Bool :=
  let tr := k.tracks.get t Track.reset
  tr.held || (tr.owner != 0 && tr.owner != c && (k.ctx tr.owner).st != .free)

/-- The statuses of a restore request (R430, R446; the codes but 0 to 2 are the model's, log entry 21). -/
def rsOK : Nat := 0
def rsBUSY : Nat := 1
def rsBADSAVE : Nat := 2
def rsTRKBUSY : Nat := 3

/-- A restore from the 16 KiB `a` (R430): its status, and `none` where it must wait for the sequencers. -/
def State.restoreFrom (s : State) (vf a : Nat) : Option Nat × State :=
  let h := areaBytes a 8 8
  let core := bits h 14 14
  let c := bits h 10 4
  let vfOf := bits (areaBytes a 0x18 8) 10 6
  let k := s.core core
  let owned := (List.range 256).filter (bit (areaBytes a 0x280 32))
  if bits h 28 36 != 0 || numCtxs ≤ c || vfOf != vf then (some rsBADSAVE, s)
  else if (k.ctx c).st != .saved then (some rsBUSY, s)
  else if owned.any (k.trackBusy c) then (some rsTRKBUSY, s)
  else
    let x := restoreCtx (k.ctx c) a
    let e (i : Nat) : Nat := areaBytes a (0x1C8 + 8 * i) 8
    -- where the slot has kept no fork, slots count from the resume slot (log entry 174)
    let base (old : Option ForkSide) (i : Nat) : Nat := (old.map (·.base)).getD (bits (e i) 0 16)
    let mb := base ((k.ctx c).fork.map (·.m)) 0
    let cb := base ((k.ctx c).fork.map (·.c)) 1
    let side (i b : Nat) : ForkSide := ⟨bit (e i) 16, bits (e i) 17 8, bits (e i) 25 12, b⟩
    let fork : Option Fork := if bit h 9 then some ⟨side 0 mb, side 1 cb⟩ else none
    let snap := areaBytes a 0x680 128
    let vcnt := (x.srGet rVCNT).toNat
    let m := s.seqOf core mb (e 0) (e 2) (e 3) (e 6) snap (areaBytes a 0x700 128) vcnt x.asid
    let q := s.seqOf core cb (e 1) (e 4) (e 5) (e 6) snap (areaBytes a 0x780 128) vcnt x.asid
    if bit h 9 && (m.live || q.live) && k.seqOwner.isSome then (none, s) else
    let tracks := owned.foldl (fun (m : Assoc Track) t =>
      let tr := m.get t Track.reset
      m.put t { tr with owner := c, held := false, head := areaBytes a (0x300 + t) 1, unseat := true,
                        motion := tr.motion.map fun m => { m with old := true } }) k.tracks
    let k := { k with tracks := tracks }
    let k := if bit h 9 && (m.live || q.live) then { k with seqOwner := some c, mseq := m, cseq := q } else k
    let k := k.setCtx c { x with fork := fork, refusal := k.journal.any fun j => j.2.ctx == c && j.2.state == 2 }
    (some rsOK, (s.setCore core k).acquireFor core c)

end Sys2Proof.Machine
end

