-- ==== Sys2Proof/Machine/Tasks.lean ====
section
/-! DEFINITION. Major 0x20: helpers, engine programs, continuations, launches and yield
(spec/13_scalar_control_task_instructions.md R294 to R303; spec/08_execution_model.md R181 to R194). -/
namespace Sys2Proof.Machine

/-- An instruction of the control context alone, or of helpers alone; the other raises CTXPERM (R295, R296). -/
def controlOnly (body : State → Res) (s : State) : Res := if s.cur.ctx == 0 then body s else .fault s cCTXPERM 0
def helperOnly (body : State → Res) (s : State) : Res := if s.cur.ctx != 0 then body s else .fault s cCTXPERM 0

/-! REALIGN. -/

/-- Whether a context stands at a REALIGN of an address. -/
def Ctx.atRealign (x : Ctx) (pc : Word) : Bool :=
  match x.block with
  | some b => (match b.wait with | .realign p _ => p == pc.toNat | _ => false) && x.pc == pc
  | none => false

/-- Whether no core of the tile keeps a context of the same launch away from this REALIGN (R190). -/
def State.tileAligned (s : State) (core : Nat) (launch : Option Nat) (pc : Word) : Bool :=
  launch.isNone || (List.range 8).all fun i =>
    let d := tileOf core * 8 + i
    let live := (List.range numCtxs).filter fun c => (s.ctx d c).live && (s.ctx d c).launch == launch
    d == core || live.isEmpty || live.any fun c => (s.ctx d c).atRealign pc

/-- The contexts of the same launch in the tile that this meeting ends the REALIGN of: their windows close. -/
def State.endRealign (s : State) (core : Nat) (launch : Option Nat) (pc : Word) : State :=
  (List.range 8).foldl (fun s i =>
    let d := tileOf core * 8 + i
    if d == core then s
    else (List.range numCtxs).foldl (fun s c =>
      if launch.isSome && (s.ctx d c).launch == launch && (s.ctx d c).atRealign pc then
        s.modCtx d c fun x => { x with block := x.block.map fun b => { b with wait := .realign pc.toNat 0 } }
      else s) s) s

/-- The wait of a realign point with a window of `w` cycles (R190). -/
def realign (w : Nat) (s : State) : Res :=
  let x := s.me
  let waiting := match x.block with
    | some ⟨.realign _ d, _, _⟩ => some d
    | _ => none
  let deadline := waiting.getD (s.clk + w)
  if s.tileAligned s.cur.core x.launch x.pc then .done (s.endRealign s.cur.core x.launch x.pc)
  else if deadline ≤ s.clk then .done s
  else
    let s := if waiting.isNone then s.later w (.realignTimeout s.cur.core s.cur.ctx) else s
    .hold s (.realign x.pc.toNat deadline) 0

/-- REALIGN (R190, R294): a window of 0 or above 4,095 is ILLEGAL. -/
def execRealign (f : Form) (s : State) : Host.Outcome State Fault Refusal :=
  issue f (fun s => if f.a.immU == 0 || 4095 < f.a.immU then illegal s f 1 else realign f.a.immU s) s

/-! Helpers. -/

/-- What START does once its code pointer is good (R185, R295): a bad number, a helper that is not FREE or that a gang
has reserved, or a start in the launch of the issuing routine. -/
def startNamed (f : Form) (code frame : Word) (s : State) : Res :=
  let core := s.cur.core
  let d := s.me.sreg f.d.sreg
  let h := fieldOf d 0 4
  if h == 0 || 10 < h then .done (s.putS f.d.sreg (BitVec.ofNat 64 stBADHELP))
  else if (s.ctx core h).st != .free || !s.mayTake core h s.me.launch then .done (s.putS f.d.sreg (BitVec.ofNat 64 stBUSY))
  else
    let x := s.me
    let s := s.startHelper core h code frame (x.srGet rCTXID) x.launch
    .done ((s.recordAdded x.launch).putS f.d.sreg (BitVec.ofNat 64 stOK))

/-- START (R295). -/
def execStart (f : Form) (s : State) : Host.Outcome State Fault Refusal :=
  issue f (controlOnly fun s =>
    match branchTo s (s.me.opS f.a) with
    | .jump s code => asRelease (startNamed f code (s.me.opS f.b)) s
    | r => r) s

/-- HWAIT (R295): the lowest helper of the mask with a signal gives it up; kind 1 synchronises. -/
def hwait (f : Form) (s : State) : Res :=
  let mask := bits (s.me.opU f.a).toNat 1 10 * 2
  if mask == 0 then .done (s.putS f.d.sreg 0)
  else
    match (List.range numCtxs).find? fun h => bit mask h && (s.ctx s.cur.core h).sigCount != 0 with
    | none => .hold s (.hwait mask) 0
    | some h =>
      let kind := (s.ctx s.cur.core h).sigKind
      let s := s.modCtx s.cur.core h fun x => { x with sigCount := x.sigCount - 1 }
      let s := s.putS f.d.sreg (BitVec.ofNat 64 (h + 16 * kind))
      .done (if kind == 1 then s.acquire else s)

/-- HWAIT (R295). -/
def execHwait (f : Form) (s : State) : Host.Outcome State Fault Refusal := issue f (controlOnly (hwait f)) s

/-- Whether a context has engine work that it has not observed (R171, R180). -/
def Ctx.outstanding (x : Ctx) : Bool := !x.pending.isEmpty || x.fork.isSome

/-- UNJOIN of the control context where a helper signals with work outstanding (R180). -/
def State.markUnjoin (s : State) : State :=
  if s.me.outstanding then s.modCtx s.cur.core 0 (·.setStat bUNJOIN true) else s

/-- DONE: a release, a signal of kind 1 and the end of the routine (R186, R296). -/
def execDone (f : Form) (s : State) : Host.Outcome State Fault Refusal :=
  issue f (helperOnly (asRelease fun s => .ended s fun s => finishRoutine f 1 s.markUnjoin)) s

/-- NEXT: as DONE, then the next record is popped at once where the pool allows (R186, R296). -/
def execNext (f : Form) (s : State) : Host.Outcome State Fault Refusal :=
  issue f (helperOnly (asRelease fun s => .ended s fun s =>
    (finishRoutine f 1 s.markUnjoin).popNext s.cur.core s.cur.ctx)) s

/-- The engine operations of a context that have completed are observed, where `which` names them (R171). -/
def State.observe (s : State) (core c : Nat) (which : Nat × EngOp → Bool) : State :=
  let seen := (s.ops.filter fun e => e.2.core == core && e.2.ctx == c && e.2.finished && which e).map (·.1)
  let s := { s with ops := s.ops.filter fun e => !seen.contains e.1 }
  s.modCtx core c fun x => { x with pending := x.pending.filter fun i => !seen.contains i }

/-- Whether both programs of a context's last fork have reached EEND and their commands have completed (R177, R192). -/
def State.forkOver (s : State) (core c : Nat) : Bool :=
  (match (s.ctx core c).fork with | some f => !f.m.live && !f.c.live | none => true) &&
  !(s.ops.any fun e => e.2.core == core && e.2.ctx == c && e.2.unit != .context && !e.2.finished)

/-- DONE.J waits until every operation of the context has been observed, and observes them (R180, R296). -/
def execDoneJ (f : Form) (s : State) : Host.Outcome State Fault Refusal :=
  issue f (helperOnly fun s =>
    let core := s.cur.core
    let c := s.cur.ctx
    if !s.forkOver core c || (s.ops.any fun e => s.me.pending.contains e.1 && !e.2.finished) then .hold s .joins 0
    else
      let s := (s.observe core c fun _ => true).modMe fun x => { x with fork := none, pending := [] }
      asRelease (fun s => .ended s (finishRoutine f 1)) s) s

/-! Engine programs. -/

/-- The offset in the own stall that an LA of a program names (R297): another core's stall raises LAFLT. -/
def ownSlot (s : State) (la : Word) : Except Flt Nat :=
  match laPlace s.cur.core la.toNat with
  | some (c, o) =>
    if c != s.cur.core then .error (cLAFLT, la.toNat)
    else if la.toNat % 16 != 0 then .error (cMISALIGN, la.toNat) else .ok o
  | none => .error (cLAFLT, la.toNat)

/-- The offset of a program that a side of FORK names; `none` where the side is absent. -/
def forkSide (s : State) (o : Operand) : Except Flt (Option Nat) :=
  if o.isNone then .ok none else (ownSlot s (s.me.opAddr o)).map some

/-- A sequencer as FORK starts it (R179, R204, R335, R372). -/
def Seq.started (x : Ctx) (base : Nat) : Seq :=
  { Seq.reset with
    live := true, base := base, pos := base,
    regs := (List.range 16).foldl (fun m r => Assoc.set m r (x.sreg r) 0) [],
    snap := (List.range 32).foldl (fun m i => Assoc.set m i (x.fent i) 0) [],
    vcnt := fieldOf (x.srGet rVCNT) 0 32, asid := x.asid }

/-- FORK starts the programs that it names (R192, R193, R297). -/
def startFork (m c : Option Nat) (s : State) : Res :=
  let x := s.me
  let side (b : Option Nat) : ForkSide := ⟨b.isSome, 0, 0, b.getD 0⟩
  let s := s.modMe fun x => { x with guards := [], fork := some ⟨side m, side c⟩ }
  if m.isNone && c.isNone then .done s
  else
    .done (s.modCore s.cur.core fun k =>
      { k with seqOwner := some s.cur.ctx,
               mseq := (m.map (Seq.started x)).getD Seq.reset,
               cseq := (c.map (Seq.started x)).getD Seq.reset })

/-- The waits of FORK (R192, R297): the RDV of an unobserved fork, whose status is discarded with STAT.WARN, then the
sequencers. -/
def forkWaits (m c : Option Nat) (s : State) : Res :=
  let core := s.cur.core
  if s.me.fork.isSome && !s.forkOver core s.cur.ctx then .hold s .rdv 0
  else
    let s := if s.me.fork.isSome then
        (((s.observe core s.cur.ctx fun e => e.2.unit != .context).modMe fun x => { x with fork := none }).acquire).warn
      else s
    if s.myCore.seqOwner.isSome then .hold s .sequencers 0 else startFork m c s

/-- FORK (R297): it waits for loads under way into the registers that the programs copy (R317, R335). -/
def execFork (f : Form) (s : State) : Host.Outcome State Fault Refusal :=
  issueWith f 4 (scalarWarn f false) false false (fun _ => (2, 0, 0)) (fun s =>
    match forkSide s f.a with
    | .error e => .fault s e.1 e.2
    | .ok m =>
      match forkSide s f.b with
      | .error e => .fault s e.1 e.2
      | .ok c =>
        afterLoads (List.range 16) (asRelease (forkWaits m c)) s) s

/-- RDV (R298): the join edge of both programs, with their first faults and the slots where they stopped. -/
def execRdv (f : Form) (s : State) : Host.Outcome State Fault Refusal :=
  issue f (fun s =>
    match s.me.fork with
    | none => .done (s.putS f.d.sreg 0).warn
    | some k =>
      if !s.forkOver s.cur.core s.cur.ctx then .hold s .rdv 0
      else
        let v := k.m.code % 256 + k.c.code % 256 * 2 ^ 8 + k.m.slot % 4096 * 2 ^ 16 + k.c.slot % 4096 * 2 ^ 28
        let s := (s.observe s.cur.core s.cur.ctx fun e => e.2.unit != .context).modMe fun x => { x with fork := none }
        .done (s.acquire.putS f.d.sreg (BitVec.ofNat 64 v))) s

/-- GSET (R299): a fork edge, and so a release (R143, R168); 3 is stored as SKIP with STAT.WARN. The slot keeps the VCNT of
this fork edge. -/
def execGset (f : Form) (s : State) : Host.Outcome State Fault Refusal :=
  issue f (asRelease fun s =>
    let v := fieldOf (s.me.opU f.a) 0 2
    let g : Guard := match v with
      | 0 => .hold
      | 1 => .run
      | _ => .skip
    let s := s.modMe fun x =>
      { (x.setGuard f.d.num g) with gvcnt := x.gvcnt.set f.d.num (x.srGet rVCNT) 0 }
    .done (s.warnIf (v == 3))) s

/-! Continuations. -/

/-- Whether a routine may name a core for a record (R188). -/
def State.mayName (s : State) (x : Ctx) (qcore : Nat) : Bool :=
  match x.launch.bind fun l => (s.launches.find? (·.1 == l)).map (·.2) with
  | some l => l.cores.contains qcore
  | none => s.hasCore x.vf qcore && ((s.core qcore).queue.map (·.vf)) == some x.vf

/-- Whether a record may be pushed: no reserved bit, and a core that the routine may name (R187, R188). -/
def State.recordOk (s : State) (x : Ctx) (rec : Nat) : Bool := rec / 2 ^ 174 == 0 && s.mayName x (bits rec 160 14)

/-- The push of a continuation record (R301). -/
def pushNamed (f : Form) (rec : Nat) (s : State) : Res :=
  let x := s.me
  let core := bits rec 160 14
  let e : QRun := ⟨bits rec 0 64, bits rec 64 64, 0, 0, core, x.asid, 0⟩
  match s.pushRecord core e x.launch with
  | some s => .done ((s.recordAdded x.launch).putS f.d.sreg (BitVec.ofNat 64 stPUSHED))
  | none => .done (s.putS f.d.sreg (BitVec.ofNat 64 stQFULL))

/-- The record of SPAWN and JOIN: its 256 bits at its home, with the rights of an atomic, or a precise fault (R301). -/
def readRecord (s : State) (w : Word) : Except Flt Nat × State :=
  let x := s.me
  match s.checkVa x.vf w 32 with
  | .error e => (.error e, s)
  | .ok (.mesh c o) =>
    match s.stallPoison c o 32 with
    | some p => (.error (cPOISON, w.toNat + p - stallPa c o), s.countErr (stkOf c) 3)
    | none => (.ok (s.stallRead c o 32), s)
  | .ok (.virt va) =>
    let who : Who := ⟨s.cur.core, s.cur.ctx, x.vf⟩
    match s.homeRead who x.asid va 32 .rw with
    | (.error c, s) => (.error (c, w.toNat), s)
    | (.ok (v, false), s) => (.ok v, s)
    | (.ok (_, true), s) =>
      let word := (List.range 4).find? fun i =>
        match (s.homeRead who x.asid (va + 8 * i) 8 .rw).1 with
        | .ok (_, b) => b
        | .error _ => false
      (.error (cPOISON, w.toNat + 8 * word.getD 0), s.countErr (s.firstHome s.cur.core x.asid va / 64) 3)

/-- JOIN of a record written at its home. -/
def writeJoin (s : State) (w : Word) (n : Nat) : Except Flt Unit × State :=
  let x := s.me
  match s.checkVa x.vf w 32 with
  | .error e => (.error e, s)
  | .ok (.mesh c o) => (.ok (), s.stallWrite c (o + 16) 4 n)
  | .ok (.virt va) =>
    match s.homeWrite ⟨s.cur.core, s.cur.ctx, x.vf⟩ x.asid (va + 16) 4 n .rw [] with
    | (.error c, s) => (.error (c, w.toNat), s)
    | (.ok _, s) => (.ok (), s)

/-- SPAWN after the waits of a release (R301). -/
def spawn (f : Form) (w : Word) : State → Res := atHome w 32 .rw fun s =>
  match readRecord s w with
  | (.error e, s) => .fault s e.1 e.2
  | (.ok rec, s) =>
    if !s.recordOk s.me rec then .done (s.putS f.d.sreg (BitVec.ofNat 64 stBADREC))
    else
      let n := fieldOf (s.me.opU f.b) 0 32
      match writeJoin s w n with
      | (.error e, s) => .fault s e.1 e.2
      | (.ok _, s) => if n == 0 then pushNamed f rec s else .done (s.putS f.d.sreg (BitVec.ofNat 64 stOK))

/-- JOIN after the waits of a release (R188, R301): it synchronises as .AR does, and it is a completion signal (R180), which
a fault leaves without effect (R28). -/
def join (f : Form) (w : Word) : State → Res := atHome w 32 .rw fun s =>
  match readRecord s w with
  | (.error e, s) => .fault s e.1 e.2
  | (.ok rec, s) =>
    let joined (s : State) : State := (if s.me.outstanding then s.modMe (·.setStat bUNJOIN true) else s).acquire
    let n := bits rec 128 32
    if n == 0 then .done ((joined s).putS f.d.sreg (BitVec.ofNat 64 stUNDERFLOW)).warn
    else
      match writeJoin s w (n - 1) with
      | (.error e, s) => .fault s e.1 e.2
      | (.ok _, s) =>
        let s := joined s
        if 1 < n then .done (s.putS f.d.sreg (BitVec.ofNat 64 stOK))
        else if !s.recordOk s.me rec then .done (s.putS f.d.sreg (BitVec.ofNat 64 stBADREC))
        else pushNamed f rec s

/-- The at-issue checks of a record's address come before the waits of a release. -/
def checkedRelease (al : Nat) (w : Word) (body : State → Res) (s : State) : Res :=
  match s.checkVa s.me.vf w al with
  | .error e => .fault s e.1 e.2
  | .ok _ => asRelease body s

/-- SPAWN (R301). -/
def execSpawn (f : Form) (s : State) : Host.Outcome State Fault Refusal :=
  issue f (fun s => checkedRelease 32 (s.me.opAddr f.a) (spawn f (s.me.opAddr f.a)) s) s

/-- JOIN (R301). -/
def execJoin (f : Form) (s : State) : Host.Outcome State Fault Refusal :=
  issue f (fun s => checkedRelease 32 (s.me.opAddr f.a) (join f (s.me.opAddr f.a)) s) s

/-! Launches. -/

/-- LAUNCH after the waits of a release (R302): at once under R212, or an entry of a launch queue. The controller starts no
launch of a function under quiesce, which the instruction waits for (R208; log entry 72). -/
def launch (f : Form) (w : Word) (s : State) : Res :=
  let x := s.me
  if f.b.isNone then
    if s.quietVf x.vf then .hold s .quiet 0
    else match s.acceptVa x.vf s.cur.core x.asid (w.toNat % 2 ^ 56) none with
    | (some _, s) => .done (s.putS f.d.sreg (BitVec.ofNat 64 stOK))
    | (none, s) => .done (s.putS f.d.sreg (BitVec.ofNat 64 stBADLREC))
  else
    let b := (x.opU f.b).toNat
    let p := bits b 8 2
    match s.lqPush (bits b 0 8) p ⟨0, 0, w.toNat, 0, 0, x.asid, 1 + 2 * p⟩ none with
    | some s => .done (s.putS f.d.sreg (BitVec.ofNat 64 stOK))
    | none => .done (s.putS f.d.sreg (BitVec.ofNat 64 stLQFULL))

/-- The step report of LAUNCH: the completion bit that its record names (R431). -/
def launchReport (w : Word) (s : State) : Nat × Nat × Nat :=
  match (s.readLrec s.cur.core s.me.asid (w.toNat % 2 ^ 56)).1 with
  | some raw => if bit raw 830 then (3, (extend56 (bits raw 768 56)).toNat, bits raw 824 6) else (0, 0, 0)
  | none => (0, 0, 0)

/-- LAUNCH (R302): without B it makes the at-issue checks of its record's address; with B it checks the alignment alone, and
what else the address is shows when the entry is popped (R212). -/
def execLaunch (f : Form) (s : State) : Host.Outcome State Fault Refusal :=
  issueWith f 4 (scalarWarn f false) false false (fun s => launchReport (s.me.opAddr f.a) s)
    (fun s =>
      let w := s.me.opAddr f.a
      if f.b.isNone then checkedRelease 64 w (launch f w) s
      else if w.toNat % 64 != 0 then .fault s cMISALIGN w.toNat
      else asRelease (launch f w) s) s

/-! Yield. -/

/-- A save at a boundary of the acting context's own choosing: the instruction completes, then the context drains and
is saved (R303, R427). -/
def yieldSave (f : Form) (mask : Nat) (s : State) : Res :=
  let core := s.cur.core
  let c := s.cur.ctx
  if s.saveReady core c then
    .ended s fun s => (s.retire core c false (s.me.pc + BitVec.ofNat 64 (formLen f))).saveContext core c mask false
  else .hold s (.save mask false) 0

/-- YIELD (R303): without STAT.PREQ it has no effect; bits of the mask above [7] are ILLEGAL. -/
def execYield (f : Form) (s : State) : Host.Outcome State Fault Refusal :=
  issue f (fun s =>
    if !f.a.isNone && 255 < f.a.immU then illegal s f 1
    else if !s.me.statBit bPREQ then .done s
    else yieldSave f (if f.a.isNone then 255 else f.a.immU) s) s

end Sys2Proof.Machine
end

