-- ==== Sys2Proof/Machine/Copy.lean ====
section
/-! DEFINITION. Major 0x60: copies, sync words and completion bits (spec/14_memory_track_copy_instructions.md R335 to R343),
and major 0xD0: the commands of engine programs (spec/16_matrix_kv_attention_instructions.md R379 to R381). -/
namespace Sys2Proof.Machine

/-! Copies. -/

/-- Whether a core has 256 copies in flight (R194). -/
def State.copiesFull (s : State) (core : Nat) : Bool :=
  256 ≤ (s.ops.filter fun e => e.2.core == core && !e.2.finished &&
    (match e.2.act with
      | .copy _ _ _ => true
      | .copyTrack _ _ _ _ _ _ _ _ => true
      | _ => false)).length

/-- What a copy instruction has been checked to be: its action, its sync word, its rows and bytes. -/
structure CopyReq where
  act  : EngAct
  sync : SyncRef
  rows : Nat
  deriving DecidableEq, Repr

/-- The checks of ACOPY at issue (R337). -/
def acopyReq (f : Form) (s : State) : Except Flt CopyReq :=
  let b := (s.engVal f.b).toNat
  let len := bits b 0 24
  if len % 8 != 0 || len < 8 || 16777208 < len || bits b 48 16 != 0 then .error (cCPYFMT, b)
  else match s.engRange f.d len 8, s.engRange f.a len 8, syncPlace s.cur.core (BitVec.ofNat 64 (bits b 24 24)) with
    | .error e, _, _ => .error e
    | _, .error e, _ => .error e
    | _, _, .error e => .error e
    | .ok d, .ok a, .ok sw => .ok ⟨.copy d a len, some sw, (len + 63) / 64⟩

/-- The checks of ACOPYT at issue but those of the track; `none` is the form with two track operands or none (R336). -/
def acopytReq (f : Form) (s : State) : Option (Except Flt CopyReq) :=
  let b := (s.engVal f.b).toNat
  let n := bits b 0 9
  let all := bit b 9
  let go (toTrack : Bool) (t p : Nat) (dn : Bool) (m : Operand) : Except Flt CopyReq :=
    if n < 1 || 256 < n || bits b 10 14 != 0 || bits b 48 16 != 0 then .error (cCPYFMT, b)
    else match s.engRange m (4 * n * (if all then 4 else 1)) 4, syncPlace s.cur.core (BitVec.ofNat 64 (bits b 24 24)) with
      | .error e, _ => .error e
      | _, .error e => .error e
      | .ok va, .ok sw => .ok ⟨.copyTrack toTrack t p dn all va n 0, some sw, n⟩
  match f.d, f.a with
  | .track _ _ _, .track _ _ _ => none
  | .track t p dn, m => some (go true t p dn m)
  | m, .track t p dn => some (go false t p dn m)
  | _, _ => none

/-- A copy begins (R338, R343). -/
def State.startCopy (s : State) (r : CopyReq) (rows : Nat) : State :=
  let len := match r.act with
    | .copy _ _ len => min len (64 * rows)
    | _ => 0
  let (id, s) := s.engStart { s.newOp r.act r.sync rows len with started := true }
  if rows == 0 then s.later 1 (.engineOpComplete id) else s.later 90 (.syncWordArrival id 0)

/-- An ACOPYT begins: the architected head takes its final value at issue, and the transfer is one access of its track
(R339). -/
def State.startCopyTrack (s : State) (r : CopyReq) (rows : Nat) : State :=
  match r.act with
  | .copyTrack toTrack t p dn all va n _ =>
    let core := s.cur.core
    let h := (s.track core t).head
    let left := 4 * rows * (if all then 4 else 1)
    let (id, s) := s.engStart { s.newOp (.copyTrack toTrack t p dn all va n h) r.sync rows left with started := true }
    if rows == 0 then s.later 1 (.engineOpComplete id)
    else
      let (k, s) := s.fresh
      let fin := if dn then h - rows else min 255 (h + rows)
      (s.queueAccess core t ⟨k, .copy id, p, h, s.cur.ctx, some id, .none, 0⟩).modTrack core t fun tr => { tr with head := fin }
  | _ => s

/-- The track faults of an ACOPYT: ownership, and a range past the ends (R339). -/
def State.copyTrackFault (s : State) (a : EngAct) (engine : Bool) : Option Flt :=
  match a with
  | .copyTrack _ t _ dn _ _ n _ =>
    let core := s.cur.core
    let h := (s.track core t).head
    if !s.ownsTrack core s.cur.ctx t engine then some (cTRKOWN, trkVal s core t)
    else if (dn && h + 1 < n) || (!dn && 256 < h + n) then some (cTRKRANGE, trkVal s core t)
    else none
  | _ => none

/-- A copy's step report: its sync word's LA (R431). -/
def copyReport (f : Form) (s : State) : Nat × Nat × Nat := (1, bits (s.me.opS f.b).toNat 24 24, 0)

/-- ACOPY (R337, R338): a fork edge, and so a release (R168). -/
def execAcopy (f : Form) (s : State) : Host.Outcome State Fault Refusal :=
  if s.cur.unit == .context then
    issueWith f 0 (scalarWarn f false) false false (copyReport f) (fun s =>
      match acopyReq f s with
      | .error e => .fault s e.1 e.2
      | .ok r => asRelease (fun s =>
          if s.copiesFull s.cur.core then .hold s .copies 0 else .done (s.startCopy r r.rows)) s) s
  else slotIssue f [.copySeq] 0 (fun s =>
    match acopyReq f s with
    | .error _ => .stop s ecILLEGAL
    | .ok r =>
      if s.copiesFull s.cur.core then .wait
      else
        let (rows, s) := s.validRows r.rows
        .done (s.startCopy r rows)) s

/-- ACOPYT (R337, R339). -/
def execAcopyt (f : Form) (s : State) : Host.Outcome State Fault Refusal :=
  if s.cur.unit == .context then
    issueWith f 0 (scalarWarn f false) false false (copyReport f) (fun s =>
      match acopytReq f s with
      | none => illegal s f 1
      | some (.error e) => .fault s e.1 e.2
      | some (.ok r) =>
        let s := s.settleAll s.cur.core
        match s.copyTrackFault r.act false with
        | some e => .fault s e.1 e.2
        | none => asRelease (fun s =>
            if s.copiesFull s.cur.core then .hold s .copies 0 else .done (s.startCopyTrack r r.rows)) s) s
  else slotIssue f [.copySeq] 0 (fun s =>
    match acopytReq f s with
    | some (.ok r) =>
      if s.copiesFull s.cur.core then .wait
      else
        let s := s.settleAll s.cur.core
        match s.copyTrackFault r.act true with
        | some (c, _) =>
          if c == cTRKOWN then
            let (rows, s) := s.validRows r.rows
            let left := match r.act with
              | .copyTrack _ _ _ _ all _ _ _ => 4 * rows * (if all then 4 else 1)
              | _ => 0
            let (id, s) := s.engStart { s.newOp r.act r.sync rows left with started := true }
            .done (s.engFault id ecTRKOWN)
          else .stop s ecILLEGAL
        | none =>
          let (rows, s) := s.validRows r.rows
          .done (s.startCopyTrack r rows)
    | _ => .stop s ecILLEGAL) s

/-- The bytes of a row copied by 8-byte words with their marks (R88, R338); a fault gives its cause. -/
def State.copyRow (s : State) (o : EngOp) (dst src : Nat) : Nat → Except Nat Unit × State
  | 0 => (.ok (), s)
  | n + 1 =>
    let who : Who := ⟨o.core, o.ctx, o.asid / 1024⟩
    match s.engRead who o.asid src 8 with
    | (.error c, s) => (.error c, s)
    | (.ok (v, bad), s) =>
      match s.engWrite who o.asid dst 8 v (s.engMarks src 8 bad) with
      | (.error c, s) => (.error c, s)
      | (.ok _, s) => State.copyRow s o (dst + 8) (src + 8) n

/-- Whether a row of a copy waits at the home of its source or of its destination. -/
def State.rowWaits (s : State) (o : EngOp) (dst src n : Nat) : Bool :=
  let who : Who := ⟨o.core, o.ctx, o.asid / 1024⟩
  [0, n - 1].any fun i => s.engWaits who o.asid (src + i) .rd || s.engWaits who o.asid (dst + i) .wr

/-- The lowest row of an operation that has not been performed. -/
def EngOp.nextRow (o : EngOp) : Option Nat := (List.range (o.rowsDone.length + 1)).findSome? fun i =>
  if o.low + i < o.rows && !o.rowsDone.contains (o.low + i) then some (o.low + i) else none

/-- A row noted as performed. -/
def EngOp.didRow (o : EngOp) (row : Nat) : EngOp :=
  let done := NatSet.insert row o.rowsDone
  let n := ((List.range (done.length + 1)).find? fun i => !done.contains (o.low + i)).getD 0
  { o with low := o.low + n, rowsDone := done.filter fun r => o.low + n ≤ r }

/-- SYNC_WORD_ARRIVAL (R173, R338): a row is performed and its bytes are counted; the next row follows, in any order that
the agenda gives and else in rising order. -/
def State.syncArrival (s : State) (id row : Nat) : State :=
  match s.engOp id with
  | none => s
  | some o =>
    match o.act, o.nextRow with
    | .copy dst src len, some low =>
      let row := if row < o.rows && o.low ≤ row && !o.rowsDone.contains row then row else low
      let n := min 64 (len - 64 * row)
      let s := s.cancel (.syncWordArrival id low)
      if o.finished || o.ecode != 0 then s
      else if !(s.core o.core).canPay 48 then s.later 64 (.syncWordArrival id row)
      else if s.rowWaits o (dst + 64 * row) (src + 64 * row) n then s.later 16 (.syncWordArrival id row)
      else match s.copyRow o (dst + 64 * row) (src + 64 * row) (n / 8) with
        | (.error c, s) => s.engFault id (ecodeOf c)
        | (.ok _, s) =>
          let s := ((s.engCount id n).modOp id (·.didRow row)).payCore o.core o.ctx 48
          match (s.engOp id).bind (·.nextRow) with
          | some r => s.later 1 (.syncWordArrival id r)
          | none => s.later 1 (.engineOpComplete id)
    | _, _ => s

/-- SYNC_WORD_ARRIVAL (R173). -/
def execSyncWordArrival (s : State) : Host.Outcome State Fault Refusal :=
  match s.ev with
  | .syncWordArrival id row => .next (s.syncArrival id row)
  | _ => .next s

/-! Sync words (R340, R341). -/

/-- SWINIT at the bank: TARGET is set, GEN kept, the rest cleared; nonzero bits above [39] set STAT.WARN. -/
def swInit (s : State) (core off : Nat) (a : Word) : State :=
  let w := s.syncWord core off
  (s.stallWrite core off 16 (fieldOf a 0 40 + swGen w * 2 ^ 80)).warnIf (fieldOf a 40 24 != 0)

/-- SWINIT (R340). -/
def execSwinit (f : Form) (s : State) : Host.Outcome State Fault Refusal :=
  if s.cur.unit == .context then
    issueCost f costLa (fun s =>
      match syncPlace s.cur.core (s.me.opAddr f.d) with
      | .error e => .fault s e.1 e.2
      | .ok (c, o) => .done (swInit s c o (s.me.opS f.a))) s
  else slotIssue f [.copySeq] costLa (fun s =>
    match syncPlace s.cur.core (s.engAddr f.d) with
    | .error _ => .stop s ecILLEGAL
    | .ok (c, o) => .done (swInit s c o (s.engVal f.a))) s

/-- A read of a sync word by a context, or POISON where one of the `n` bytes at `b` that it delivers is marked (R89). -/
def withSyncWord (w : Word) (b n : Nat) (body : Nat → Nat → Nat → State → Res) (s : State) : Res :=
  match syncPlace s.cur.core w with
  | .error e => .fault s e.1 e.2
  | .ok (c, o) =>
    match s.stallPoison c (o + b) n with
    | some p => .fault (s.countErr (stkOf c) 3) cPOISON (w.toNat + p - stallPa c o)
    | none => body c o (s.syncWord c o) s

/-- SWWAIT (R341): the join edge of every operation that the generations passed cover (R169, R171). -/
def execSwwait (f : Form) (s : State) : Host.Outcome State Fault Refusal :=
  issueCost f costLa (fun s =>
    withSyncWord (s.me.opAddr f.a) 10 6 (fun c o w s =>
      let g := fieldOf (s.me.opU f.b) 0 24
      if !genPassed (swGen w) g then .hold s (.syncGen c o g) 0
      else
        let s := s.observe s.cur.core s.cur.ctx fun e => e.2.sync == some (c, o) && genPassed (swGen w) e.2.gen
        .done (s.acquire.putS f.d.sreg (BitVec.ofNat 64 (bits w 80 33)))) s) s

/-- SWREAD (R341): one relaxed load of a half of the word. -/
def execSwread (f : Form) (s : State) : Host.Outcome State Fault Refusal :=
  issueCost f costLa (fun s =>
    if 1 < f.b.immU then illegal s f 2
    else withSyncWord (s.me.opAddr f.a) (8 * f.b.immU) 8 (fun _ _ w s =>
      .done (s.putS f.d.sreg (BitVec.ofNat 64 (bits w (64 * f.b.immU) 64)))) s) s

/-! Completion bits (R176, R342). -/

/-- The address of the word that holds a completion bit: A + 8 × b[31:6]. -/
def cbAddr (a b : Word) : Word := a + BitVec.ofNat 64 (8 * fieldOf b 6 26)

/-- CBSET of a context after its release: an atomic OR at the word's home (R176, R180, R342). -/
def cbset (f : Form) (w : Word) (b : Nat) (s : State) : Res :=
  let s := if s.me.outstanding then s.modMe (·.setStat bUNJOIN true) else s
  if f.a.isLa then laAccess (.rmw 3 (2 ^ b) 0) 8 w (2 ^ b) (fun _ s => .done s) s
  else postElems f (.rmw 3 (2 ^ b) 0) [scalarElem w 8 (2 ^ b)] { rel := true } .done s

/-- A completion bit set in a stall, where a mark of its word stays (R88, R176). -/
def State.stallOr (s : State) (c o v : Nat) : State :=
  let marks := [0, 4].filter fun i => (s.stallPoison c (o + i) 4).isSome
  marks.foldl (fun s i => s.stallMark c (o + i) 4) (s.stallWrite c o 8 ((s.stallRead c o 8).lor v))

/-- CBSET of a copy program, performed at its home; a fault is reported to RDV. -/
def cbsetSlot (f : Form) (s : State) : SlotRes :=
  let b := s.engVal f.b
  let w := cbAddr (s.engAddr f.a) b
  let v := 2 ^ fieldOf b 0 6
  let core := s.cur.core
  if f.a.isLa then
    match checkLa core w 8 8 with
    | .error _ => .stop s ecILLEGAL
    | .ok (c, o) => .done (s.stallOr c o v)
  else match s.checkVa s.me.vf w 8 with
    | .error _ => .stop s ecILLEGAL
    | .ok (.mesh c o) => .done (s.stallOr c o v)
    | .ok (.virt va) =>
      let who : Who := ⟨core, s.cur.ctx, s.me.vf⟩
      if s.engWaits who s.engAsid va .rw then .wait
      else
        let note (s : State) (c : Nat) : State :=
          s.modMe fun x => { x with fork := x.fork.map (·.note false (ecodeOf c) 0) }
        match s.homeRead who s.engAsid va 8 .rw with
        | (.error c, s) => .done (note s c)
        | (.ok (old, bad), s) =>
          match s.homeWrite who s.engAsid va 8 (old.lor v) .rw (if bad then [0] else []) with
          | (.error c, s) => .done (note s c)
          | (.ok _, s) => .done s

/-- CBSET (R342). -/
def execCbset (f : Form) (s : State) : Host.Outcome State Fault Refusal :=
  if s.cur.unit == .context then
    issueCost f (memCost f.a) (fun s =>
      let b := s.me.opU f.b
      let w := cbAddr (s.me.opAddr f.a) b
      match (if f.a.isLa then (checkLa s.cur.core w 8 8).map fun _ => () else (s.checkVa s.me.vf w 8).map fun _ => ()) with
      | .error e => .fault s e.1 e.2
      | .ok _ => asRelease (cbset f w (fieldOf b 0 6)) s) s
  else slotIssue f [.copySeq] (memCost f.a) (cbsetSlot f) s

/-- Cycles between two reads of a waiting CBWAIT. -/
def cbPoll : Nat := 16

/-- CBWAIT (R342): it reads the word at its home until the bit is 1, after its core's own accesses to the line (R151), and
that read is an acquire. -/
def execCbwait (f : Form) (s : State) : Host.Outcome State Fault Refusal :=
  issueCost f (memCost f.a) (fun s =>
    let b := s.me.opU f.b
    let w := cbAddr (s.me.opAddr f.a) b
    let x := s.me
    let fin (v : Nat) (s : State) : Res :=
      if bit v (fieldOf b 0 6) then .done (s.acquire.putS f.d.sreg (BitVec.ofNat 64 v))
      else .hold s (.compBit (s.clk + cbPoll)) 0
    let bank (c o : Nat) (s : State) : Res :=
      match s.stallPoison c o 8 with
      | some p => .fault (s.countErr (stkOf c) 3) cPOISON (w.toNat + p - stallPa c o)
      | none => fin (s.stallRead c o 8) s
    if f.a.isLa then
      match checkLa s.cur.core w 8 8 with
      | .error e => .fault s e.1 e.2
      | .ok (c, o) => bank c o s
    else match s.checkVa x.vf w 8 with
      | .error e => .fault s e.1 e.2
      | .ok (.mesh c o) => bank c o s
      | .ok (.virt va) => atHome w 8 .rw (fun s =>
        match s.homeRead ⟨s.cur.core, s.cur.ctx, x.vf⟩ x.asid va 8 .rw with
        | (.error c, s) => .fault s c w.toNat
        | (.ok (v, bad), s) => if bad then .fault (s.countErr (s.firstHome s.cur.core x.asid va / 64) 3) cPOISON w.toNat
          else fin v s) s) s

/-! Engine program commands (R379 to R381). A context that issues one raises ILLEGAL (R256). -/

/-- A command of major 0xD0: both sequencers take it. -/
def programCommand (f : Form) (body : State → SlotRes) (s : State) : Host.Outcome State Fault Refusal :=
  if s.cur.unit == .context then issue f (fun s => illegal s f 0) s
  else slotIssue f [.matrixSeq, .copySeq] 4 body s

/-- EWAIT (R380). -/
def execEwait (f : Form) (s : State) : Host.Outcome State Fault Refusal :=
  programCommand f (fun s =>
    if f.a.isNone then (if s.mySeq.ops.isEmpty then .done s else .wait)
    else match syncPlace s.cur.core (s.engAddr f.a) with
      | .error _ => .stop s ecILLEGAL
      | .ok (c, o) =>
        if genPassed (swGen (s.syncWord c o)) (fieldOf (s.engVal f.b) 0 24) then .done s else .wait) s

/-- EGUARD (R193): it waits while the slot is HOLD, then consumes it. -/
def execEguard (f : Form) (s : State) : Host.Outcome State Fault Refusal :=
  programCommand f (fun s =>
    let g := f.d.num
    let s' := s.modMe (·.setGuard g .hold)
    match s.me.guard g with
    | .hold => .wait
    | .run => .armed s' false (some (s.me.gvcnt.get g 0).toNat)
    | .skip => .armed s' true none) s

/-- ELOOP (R381). -/
def execEloop (f : Form) (s : State) : Host.Outcome State Fault Refusal :=
  programCommand f (fun s =>
    let n := bits f.d.immU 0 8
    let q := s.mySeq
    if n == 0 || 2 ≤ q.loops.length then .stop s ecILLEGAL
    else if f.b.immU == 0 then .skip s n
    else .loop s ⟨f.b.immU, n, (q.pos + 16) % 65536, 64 * sxInt 8 (bits f.d.immU 8 8), f.a.sreg⟩) s

/-- EJMP (R381): a target outside the own stall stops the program. -/
def execEjmp (f : Form) (s : State) : Host.Outcome State Fault Refusal :=
  programCommand f (fun s =>
    let t : Int := s.mySeq.pos + 16 * f.b.immS
    if t < 0 || 65536 ≤ t then .stop s ecILLEGAL else .jump s t.toNat) s

/-- EEND (R380). -/
def execEend (f : Form) (s : State) : Host.Outcome State Fault Refusal :=
  programCommand f (fun s => .stop s 0) s

end Sys2Proof.Machine
end

