-- ==== Sys2Proof/Machine/System.lean ====
section
/-! DEFINITION. Major 0xC0: the format table, system registers, traps taken on purpose, service requests, power and
tokens, time, performance counters and C2OP (spec/17_format_and_system_instructions.md). -/
namespace Sys2Proof.Machine

/-! The format table (R396 to R398). -/

/-- FMTSET (R222, R396): an entry with V = 0 reads back as zero. -/
def execFmtset (f : Form) (s : State) : Host.Outcome State Fault Refusal :=
  issue f (fun s =>
    let k := f.d.num
    let a := BitVec.ofNat 32 (s.me.sreg f.a.sreg).toNat
    if k < 8 then .fault s cFMTRO k
    else if !bit a.toNat 31 then .done (s.modMe (·.setFent k 0))
    else if entryLegal a then .done (s.modMe (·.setFent k a))
    else .fault s cFMTILL k) s

/-- FMTGET (R397). -/
def execFmtget (f : Form) (s : State) : Host.Outcome State Fault Refusal :=
  issue f (fun s => .done (s.putS f.d.sreg ((s.me.fent f.a.num).setWidth 64))) s

/-- The fields that FMTP writes into PFXH (R251). -/
def fmtpWord (f : Form) : Nat :=
  [Pos.d, Pos.a, Pos.b].foldl (fun w p =>
    match p.of f with
    | .fmt e => w + e * 2 ^ (5 * p.no) + 2 ^ (16 + p.no)
    | _ => w) 0

/-- FMTP (R251, R252): a pending one is replaced with STAT.WARN. -/
def execFmtp (f : Form) (s : State) : Host.Outcome State Fault Refusal :=
  issueWith f 4 (scalarWarn f false) false true noReport (fun s =>
    .done ((s.warnIf (s.me.statBit bPFX)).modMe fun x =>
      (x.srSet rPFXH (BitVec.ofNat 64 (fmtpWord f))).setStat bPFX true)) s

/-! System registers (R399 to R402). -/

/-- CTXST codes (R183). -/
def CtxSt.code : CtxSt → Nat
  | .free => 0
  | .ready => 1
  | .wait => 2
  | .sleep => 3
  | .stopped => 4
  | .drain => 5
  | .saved => 6
  | .xhold => 7

/-- CTXST of a core (R183). -/
def Core.ctxst (k : Core) : Nat := (List.range numCtxs).foldl (fun w c => w + (k.ctx c).st.code * 2 ^ (4 * c)) 0

/-- OWNk of a context: the tracks 64k to 64k + 63 that it owns (R52, R56, R66). -/
def Core.ownMask (k : Core) (c g : Nat) : Nat :=
  (List.range 64).foldl (fun w j =>
    let t := k.track (64 * g + j)
    if t.owner == c && !t.held then w + 2 ^ j else w) 0

/-- TRKSTS of a track (R67). -/
def Track.status (t : Track) : Nat :=
  t.head + t.count % 256 * 2 ^ 8 + t.susp.toNat * 2 ^ 16 + t.unseat.toNat * 2 ^ 17 +
    (t.motion.isSome || t.probe.isSome).toNat * 2 ^ 18 + t.held.toNat * 2 ^ 19 + t.owner % 16 * 2 ^ 20

/-- The registers that hold what is stored under their number, for a context. -/
def ctxStored : List Nat :=
  [0x000, 0x001, 0x005, 0x006, 0x007, 0x008, 0x009, 0x010, 0x011, 0x012, 0x013, 0x014, 0x015, 0x016, 0x017, 0x018, 0x019,
   0x020, 0x021, 0x022, 0x023, 0x024, 0x025, 0x026, 0x027, 0x028, 0x029, 0x02A, 0x02B, 0x02C, 0x030, 0x036, 0x040, 0x041,
   0x042, 0x060, 0x061, 0x062, 0x063, 0x064, 0x065, 0x066, 0x067]

/-- Those of a core. -/
def coreStored : List Nat :=
  [0x004, 0x00B, 0x035, 0x043, 0x050, 0x051, 0x052, 0x053, 0x054, 0x055, 0x056, 0x057, 0x058, 0x059, 0x05A, 0x05B, 0x05C,
   0x05D, 0x05E, 0x05F]

/-- A system register as the acting context reads it; `none` for a number that is not defined (R402). -/
def State.readSr (s : State) (n : Nat) : Option Word :=
  let k := s.myCore
  let c := s.cur.ctx
  let x := s.me
  if n == 0x002 then some (BitVec.ofNat 64 (s.cur.core + c * 2 ^ 14 + bits s.pkg.devId 0 18 * 2 ^ 18))
  else if n == 0x003 then some (BitVec.ofNat 64 k.ctxst)
  else if n == rPFXH then some (BitVec.ofNat 64 (bits (x.srGet rPFXH).toNat 0 19 + (x.statBit bPFX).toNat * 2 ^ 19))
  else if 0x031 ≤ n && n ≤ 0x034 then some (BitVec.ofNat 64 (k.ownMask c (n - 0x031)))
  else if n == 0x037 then some (BitVec.ofNat 64 (k.track (fieldOf (x.srGet rTRKSEL) 0 8)).status)
  else if 0x050 ≤ n && n ≤ 0x05F then
    some (BitVec.ofNat 64 (setBits (k.chan (n - 0x050)) 39 1 (chEn (k.chan (n - 0x050))).toNat))
  else if ctxStored.contains n then some (x.srGet n)
  else if coreStored.contains n then some (k.srGet n)
  else none

/-- MFSR (R399): motions of the core's tracks are charged up to this cycle first (R51, R67). -/
def execMfsr (f : Form) (s : State) : Host.Outcome State Fault Refusal :=
  issue f (fun s =>
    let s := s.settleAll s.cur.core
    match s.readSr f.a.num with
    | some w => .done (s.putS f.d.sreg w)
    | none => illegal s f 1) s

/-- How a write to a system register ends: the register is written with a value, with STAT.WARN or not; or it raises a
fault, by its code and value. -/
inductive SrWrite where
  | put (w : Word) (warn : Bool)
  | fault (code val : Nat)
  deriving DecidableEq, Repr

/-- Bits lo to lo + n - 1. -/
def fieldMask (lo n : Nat) : Nat := (2 ^ n - 1) * 2 ^ lo

/-- A write that keeps the bits of a mask; one that sets a reserved bit writes it as zero and warns. `keep` are the bits
that stay as they stand. -/
def maskedWrite (old v : Word) (mask keep : Nat) : SrWrite :=
  let reserved := v.toNat.land ((2 ^ 64 - 1).xor (mask.lor keep))
  .put (BitVec.ofNat 64 ((v.toNat.land mask).lor (old.toNat.land keep))) (reserved != 0)

/-- A CHCFG as written: HEAD and TAIL stay, and a malformed ring leaves EN 0 (R202). -/
def chanWrite (old v : Word) : SrWrite :=
  let keep := fieldMask 20 18
  let mask := fieldMask 0 20 + fieldMask 38 16
  match maskedWrite old v mask keep with
  | .put w warn => .put (BitVec.ofNat 64 (setBits w.toNat 39 1 (chEn w.toNat).toNat)) warn
  | r => r

/-- What a write to a system register does (R399 to R402 and the tables of each register); `none` for a number that is
not defined. `ctl` is whether the control context writes. -/
def writeRule (ctl : Bool) (old v : Word) (n : Nat) : Option SrWrite :=
  let perm : SrWrite := .fault cSRPERM n
  let ctlOnly (r : SrWrite) : SrWrite := if ctl then r else perm
  let plain : SrWrite := .put v false
  if n == 0x000 then
    some (maskedWrite old v (0x33F + (if ctl then 0x400 else 0)) (0xF0000 + (if ctl then 0 else 0x400)))
  else if n == 0x001 then some (ctlOnly (maskedWrite old v 0x3FF 0xFC00))
  else if n == 0x002 || n == 0x003 then some perm
  else if n == 0x004 then some (ctlOnly (maskedWrite old v 0x7FE 0))
  else if n == 0x005 then some (maskedWrite old v 0xFFFFFFFF 0)
  else if n == 0x006 then
    match maskedWrite old v 0x1F7 0 with
    | .put w warn =>
      let rm := bits w.toNat 0 3
      some (if rm == 0 || rm == 7 then .put (withField w 0 3 1) true else .put w warn)
    | r => some r
  else if n == 0x007 then some plain
  else if n == 0x008 then
    match maskedWrite old v 0xFFFF 0 with
    | .put w warn => some (.put (withField w 0 1 1) warn)
    | r => some r
  else if n == 0x009 then some (maskedWrite old v 0xFFFFFFFF 0)
  else if n == 0x00A then some perm
  else if n == 0x00B then
    match maskedWrite old v 0xF 0 with
    | .put w warn => some (ctlOnly (.put (if w == 0 then 1 else w) warn))
    | r => some r
  else if n == 0x010 then
    some (if !canonical v then .fault cADDRNC v.toNat else .put (withField v 0 2 0) (v.toNat % 4 != 0))
  else if n == 0x011 || n == 0x012 then some (maskedWrite old v (0x7FFF + fieldMask 16 7 + fieldMask 24 9) 0)
  else if n == 0x013 || n == 0x014 then some (.put (withField v 0 2 0) (v.toNat % 4 != 0))
  else if n == 0x015 || n == 0x016 then some plain
  else if n == 0x017 || n == 0x018 then some (maskedWrite old v (0x7FFF + fieldMask 16 4) 0)
  else if n == 0x019 then some perm
  else if 0x020 ≤ n && n ≤ 0x027 then some plain
  else if 0x028 ≤ n && n ≤ 0x02B then some (maskedWrite old v 0xFFFFFFFF 0)
  else if n == 0x02C then
    match maskedWrite old v 0x7 0 with
    | .put w warn => some (if 4 < w.toNat then .put 4 true else .put w warn)
    | r => some r
  else if n == 0x030 then some (ctlOnly plain)
  else if 0x031 ≤ n && n ≤ 0x034 then some perm
  else if n == 0x035 then
    match maskedWrite old v 0xFF 0 with
    | .put w warn => some (ctlOnly (.put (if w == 0 then 1 else w) warn))
    | r => some r
  else if n == 0x036 then some (maskedWrite old v 0xFF 0)
  else if n == 0x037 then some perm
  else if 0x040 ≤ n && n ≤ 0x042 then some perm
  else if n == 0x043 then some (ctlOnly plain)
  else if 0x050 ≤ n && n ≤ 0x05F then some (ctlOnly (chanWrite old v))
  else if 0x060 ≤ n && n ≤ 0x067 then
    match maskedWrite old v 0x7F 0 with
    | .put w warn => some (.put w (warn || 14 ≤ fieldOf w 0 6))
    | r => some r
  else none

/-- A system register written by the acting context. -/
def State.writeSr (s : State) (n : Nat) (w : Word) : State :=
  if coreStored.contains n then s.modCore s.cur.core (·.srSet n w) else s.modMe (·.srSet n w)

/-- MTSR (R399). -/
def execMtsr (f : Form) (s : State) : Host.Outcome State Fault Refusal :=
  issue f (fun s =>
    let n := f.d.num
    let s := s.settleAll s.cur.core
    let old := if coreStored.contains n then s.myCore.srGet n else s.me.srGet n
    match writeRule (s.cur.ctx == 0) old (s.me.opS f.a) n with
    | none => illegal s f 1
    | some (.fault c v) => .fault s c v
    | some (.put w warn) =>
      let s := (s.writeSr n w).warnIf warn
      .done (if n == rHPOOL then s.offerRecords s.cur.core else s)) s

/-! Traps taken on purpose (R403, R404). -/

/-- TRAP: SWTRAP, with TRET at the next instruction. A step due at this boundary stays pending (R414). -/
def execTrap (f : Form) (s : State) : Host.Outcome State Fault Refusal :=
  issue f (fun s => .ended s (s.trapAfter f cSWTRAP (BitVec.ofNat 64 (f.a.immU % 2 ^ 16)))) s

/-- Every context of a core that can run or wait is STOPPED, and the sequencers pause (R432). -/
def State.stopCore (s : State) (core : Nat) : State :=
  let stop (k : Core) (c : Nat) : Core :=
    let x := k.ctx c
    match x.st with
    | .ready | .wait | .sleep | .xhold => k.setCtx c { x with st := .stopped, back := x.st }
    | _ => k
  s.modCore core fun k =>
    if k.stopped.isSome then k else (List.range numCtxs).foldl stop { k with stopped := some s.clk }

/-- BREAK (R403): under debug stop the core stops with this pc, and no trap is taken. -/
def execBrk (f : Form) (s : State) : Host.Outcome State Fault Refusal :=
  issue f (fun s =>
    if s.myCore.dbgEn then .ended s (·.stopCore s.cur.core)
    else .fault s cBREAK (f.a.immU % 2 ^ 16)) s

/-- TRET (R404). The loop end action applies to its next pc as to any other (R290). -/
def execTret (f : Form) (s : State) : Host.Outcome State Fault Refusal :=
  issue f (fun s =>
    if s.me.tlvl == 0 then illegal s f 0
    else
      let me := s.cur
      .ended s fun s =>
        let s := s.leaveTrap me.core me.ctx
        s.retire me.core me.ctx true s.me.pc) s

/-! Services (R405, R449). -/

/-- Address of an entry of a function's service ring, and its LOGN; `none` where the ring is malformed. -/
def State.svcRing (s : State) (vf : Nat) : Option (Nat × Nat) :=
  let r := (s.vf vf).svcRing
  let logn := bits r 0 4
  if 1 ≤ logn && logn ≤ 12 && inHbm (regPage r) (32 * 2 ^ logn) then some (regPage r, logn) else none

/-- The bits of a request (R449). -/
def svcEntry (arg no core ctx vf : Nat) : Nat := arg + no * 2 ^ 64 + core * 2 ^ 80 + ctx * 2 ^ 94 + vf * 2 ^ 98

/-- SVC past its release: its reply, a wait for it, or a new request where the ring has room. -/
def svc (f : Form) (s : State) : Res :=
  let core := s.cur.core
  let c := s.cur.ctx
  let x := s.me
  match s.svcs.find? fun r => r.core == core && r.ctx == c with
  | some r =>
    match r.reply with
    | some w => .done ({ s with svcs := s.svcs.erase r }.acquire.putS f.d.sreg w)
    | none => .hold s (.service (some r.idx)) 0
  | none =>
    match s.svcRing x.vf with
    | none => .hold s (.service none) 0
    | some (base, logn) =>
      let open_ := s.svcs.filter fun r => r.vf == x.vf && r.reply.isNone
      let tail := (s.vf x.vf).svcTail
      if 2 ^ logn ≤ open_.length || open_.any (·.idx == tail) then .hold s (.service none) 0
      else
        let s := s.physWrite (base + 32 * tail) 32 (svcEntry (x.sreg f.a.sreg).toNat f.b.immU core c x.vf)
        let s := (s.modVf x.vf fun v => { v with svcTail := (tail + 1) % 2 ^ logn }).raiseMsix x.vf 0
        .hold { s with svcs := s.svcs ++ [⟨x.vf, tail, core, c, none⟩] } (.service (some tail)) 0

/-- SVC (R405). -/
def execSvc (f : Form) (s : State) : Host.Outcome State Fault Refusal :=
  issue f (fun s => if 2 ^ 16 ≤ f.b.immU then illegal s f 2 else asRelease (svc f) s) s

/-! Power and tokens (R406 to R408). -/

/-- The island of a quadrant's compute layer (0) or track layer (1), and of a base die (R441). -/
def islandOf (quad layer : Nat) : Nat := 2 * quad + layer
def dieIsland (die : Nat) : Nat := 32 + die

def State.island (s : State) (i : Nat) : Island := s.islands.get i (Island.reset i)

/-- PWREQ (R406): the context waits for the sample. A request that arrives while its island is changing is marked by 16 at its
point, which the sample answers with BUSY (R442). -/
def execPwreq (f : Form) (s : State) : Host.Outcome State Fault Refusal :=
  issue f (controlOnly fun s =>
    let a := (s.me.opU f.a).toNat
    let core := s.cur.core
    let c := s.cur.ctx
    if 31 < a then .done (s.putS f.d.sreg 4)
    else match s.pwdone.find? fun r => r.1 == core && r.2.1 == c with
      | some r => .done ({ s with pwdone := s.pwdone.erase r }.putS f.d.sreg (BitVec.ofNat 64 r.2.2))
      | none =>
        let asked := s.pwreqs.any fun r => r.1 == core && r.2.1 == c
        let i := islandOf (quadOf core) (bits a 4 1)
        let late := if (s.island i).change == .none then 0 else 16
        let s := if asked then s else { s with pwreqs := s.pwreqs ++ [(core, c, i, a % 16 + late)] }
        .hold s .power 0) s

/-- TOKQ (R407). -/
def execTokq (f : Form) (s : State) : Host.Outcome State Fault Refusal :=
  issue f (fun s =>
    let put (w : Word) : Res := .done (s.putS f.d.sreg w)
    match f.a.immU with
    | 0 => put (BitVec.ofInt 64 (s.myCore.purse / 1024))
    | 1 => put (BitVec.ofNat 64 s.myCore.reserve)
    | 2 => put (BitVec.ofNat 64 (s.me.drawn / 1024))
    | 3 => put (BitVec.ofNat 64 ((s.island (islandOf (quadOf s.cur.core) 0)).budget % 2 ^ 32))
    | _ => illegal s f 1) s

/-- TOKRES (R408). -/
def execTokres (f : Form) (s : State) : Host.Outcome State Fault Refusal :=
  issue f (controlOnly fun s =>
    let a := (s.me.opU f.a).toNat
    let old := s.myCore.reserve
    let s := ((s.modCore s.cur.core fun k => { k with reserve := min 4096 a }).checkBells s.cur.core).warnIf (4096 < a)
    .done (s.putS f.d.sreg (BitVec.ofNat 64 old))) s

/-! Time and counters (R409, R410). -/

/-- 1/21 cycles that an island counts in a reference cycle: point k runs at 0.6 + 0.1 k GHz against 2.1 GHz (R4, R441). -/
def Island.rate (i : Island) : Nat := 6 + i.point

/-- An island's own cycles at a reference cycle, in 1/21 cycle. -/
def Island.ticksAt (i : Island) (clk : Nat) : Nat := i.ticks + i.rate * (clk - i.counted)

/-- TIME (R409). -/
def execTime (f : Form) (s : State) : Host.Outcome State Fault Refusal :=
  issue f (fun s =>
    match f.a.immU with
    | 0 => .done (s.putS f.d.sreg (BitVec.ofNat 64 s.ns))
    | 1 => .done (s.putS f.d.sreg (BitVec.ofNat 64 ((s.island (islandOf (quadOf s.cur.core) 0)).ticksAt s.clk / 21)))
    | _ => illegal s f 1) s

/-- PERF (R410). -/
def execPerf (f : Form) (s : State) : Host.Outcome State Fault Refusal :=
  issue f (fun s =>
    let k := f.a.immU
    if 7 < k then illegal s f 1
    else if 1 < f.b.immU then illegal s f 2
    else
      let s' := s.putS f.d.sreg (s.me.pmc.get k 0)
      .done (if f.b.immU == 1 then s'.modMe fun x => { x with pmc := x.pmc.set k 0 0 } else s')) s

/-! Cache and translation control (R411, R412). -/

/-- What a C2OP acts on: an address space, and a range of virtual addresses, or all of it. -/
structure C2Range where
  asid : Nat
  lo   : Nat
  hi   : Nat
  deriving DecidableEq, Repr

/-- Whether a line, a block of 64 bytes, lies in a range rounded out to lines. -/
def C2Range.hasLine (r : C2Range) (asid vline : Nat) : Bool := asid == r.asid && r.lo / 64 ≤ vline && 64 * vline < r.hi

/-- Whether a page overlaps a range. -/
def C2Range.hasPage (r : C2Range) (asid base size : Nat) : Bool := asid == r.asid && base < r.hi && r.lo < base + size

/-- The lines of a range written back, as far as their base dies can pay (R436); they stay valid and clean (R411). -/
def State.cleanRange (s : State) (r : C2Range) : State :=
  (s.c2.filter fun l => r.hasLine l.asid l.vline && l.dirty).foldl (fun s l =>
    if s.canWriteBack l then (s.writeBack l).setLine { l with dirty := false } else s) s

/-- Whether a range has lines still to be written back. -/
def State.dirtyIn (s : State) (r : C2Range) : Bool := s.c2.any fun l => r.hasLine l.asid l.vline && l.dirty

/-- The lines of a range written back and removed, with their C1 copies (R70, R411). -/
def State.removeRange (s : State) (r : C2Range) : State :=
  let s := (s.c2.filter fun l => r.hasLine l.asid l.vline).foldl (fun s l => s.evict l) s
  { s with cores := s.cores.map fun e => (e.1, { e.2 with c1 := e.2.c1.filter fun c => !r.hasLine c.asid c.vline }) }

/-- The translations, cached pointers and home hints of a range removed (R77, R78). -/
def State.removeTrans (s : State) (r : C2Range) : State :=
  { s with tlb := s.tlb.filter fun t => !r.hasPage t.asid t.tr.vbase t.tr.size,
           walks := s.walks.filter fun w => !r.hasPage w.asid (w.upper * 2 ^ nodeShift w.level) (2 ^ nodeShift w.level),
           cores := s.cores.map fun e =>
             (e.1, { e.2 with hints := e.2.hints.filter fun h => !r.hasPage h.asid h.vbase h.size }) }

/-- A range's blocks removed from every tile's instruction cache (R411). -/
def State.removeBlocks (s : State) (r : C2Range) : State :=
  { s with icache := s.icache.filter fun e => !r.hasLine e.2.1 e.2.2.1 }

/-- Whether an operation removes lines (R411). -/
def c2opRemoves (op : Nat) : Bool := op == 0 || op == 1 || op == 4

/-- The effect of an operation on a range whose lines have been written back where it writes back (R411). -/
def State.c2opEffect (s : State) (op : Nat) (r : C2Range) : State :=
  match op with
  | 0 => (s.removeTrans r).removeRange r
  | 1 => s.removeRange r
  | 2 => s
  | 3 => s.removeBlocks r
  | _ => ((s.removeTrans r).removeRange r).removeBlocks r

/-- C2OP past its checks and its release: it waits for pins (R87) and for the tokens of its write-backs (R436), acts, and waits for
the fills of the range that were in flight at its removal, which it removes as they come (R412). The block's phase is the number
that those fills lie below. -/
def c2opRun (f : Form) (op : Nat) (r : C2Range) (s : State) : Res :=
  let poll : Wait := .gap (s.clk + 16)
  let phase := (s.me.block.map (·.phase)).getD 0
  let removes := c2opRemoves op
  if removes && (s.c2.any fun l => r.hasLine l.asid l.vline && l.pins != 0) then .hold s poll phase
  else
    let s := if op == 3 then s else s.cleanRange r
    if op != 3 && s.dirtyIn r then .hold s poll phase else
    let filling (limit : Nat) : Bool := removes && s.fills.any fun e => e.1 < limit && r.hasLine e.2.asid e.2.vline
    if phase == 0 then
      let s := s.c2opEffect op r
      if filling s.nextId then .hold s poll s.nextId else .done (s.putS f.d.sreg 0)
    else if filling phase then .hold s poll phase
    else .done ((s.c2opEffect op r).putS f.d.sreg 0)

/-- C2OP (R411, R412): the descriptor's OP decides. -/
def c2op (f : Form) (s : State) : Res :=
  let a := s.me.opAddr f.a
  let b := (s.me.sreg f.b.sreg).toNat
  let op := bits b 0 3
  let len := bits b 8 40
  let lo := a.toNat % 2 ^ 56
  let asid := if bit b 3 then s.me.asid else bits b 48 16
  if !canonical a then .fault s cADDRNC a.toNat
  else if 4 < op || bits b 4 4 != 0 then illegal s f 2
  else if (if s.cur.ctx == 0 then asid / 1024 != s.me.vf else asid != s.me.asid) then .done (s.putS f.d.sreg 1)
  else if op != 4 && (len == 0 || 2 ^ 56 < lo + len) then .done (s.putS f.d.sreg 2)
  else asRelease (c2opRun f op (if op == 4 then ⟨asid, 0, 2 ^ 56⟩ else ⟨asid, lo, lo + len⟩)) s

/-- C2OP XLAT (R411); the word's b decides. -/
def execC2opXlat (f : Form) (s : State) : Host.Outcome State Fault Refusal := issue f (c2op f) s

/-- C2OP WBINV (R411); the word's b decides. -/
def execC2opWbinv (f : Form) (s : State) : Host.Outcome State Fault Refusal := issue f (c2op f) s

/-- C2OP WB (R411); the word's b decides. -/
def execC2opWb (f : Form) (s : State) : Host.Outcome State Fault Refusal := issue f (c2op f) s

/-- C2OP ICINV (R411); the word's b decides. -/
def execC2opIcinv (f : Form) (s : State) : Host.Outcome State Fault Refusal := issue f (c2op f) s

/-- C2OP ASIDALL (R411); the word's b decides. -/
def execC2opAsidall (f : Form) (s : State) : Host.Outcome State Fault Refusal := issue f (c2op f) s

end Sys2Proof.Machine
end

