-- ==== Sys2Proof/Machine/BadWord.lean ====
section
/-! DEFINITION. What the word of an instruction alone makes ILLEGAL beyond its decoding: operand values and forms that the
instruction's own rule refuses, whatever the registers hold (R242, R257). -/

namespace Sys2Proof.Machine
open Sys2Proof

/-- The first parcel of the word that a rule of the instruction calls ILLEGAL: 0, 1 with D and A, 2 with B. What a register
holds, or a format entry, is no matter of the word (C2OP's operation, VCVT's part, TRET at level 0). -/
def badField : Instr → Option Nat
  | .pset f => match f.a, f.b with
    | .pred _ _, .imm _ v => if v / 256 != 0 then some 2 else none
    | .scalar _, .none => none
    | _, _ => some 2
  | .loop f | .loopi f => if f.d.immU < 6 then some 1 else none
  | .movi f => if 2 < f.a.immU then some 1 else if f.a.immU == 2 && bits f.b.immU 16 8 != 0 then some 2 else none
  | .mfsr f => if (writeRule true 0 0 f.a.num).isNone then some 1 else none
  | .mtsr f => if (writeRule true 0 0 f.d.num).isNone then some 1 else none
  | .svc f => if 2 ^ 16 ≤ f.b.immU then some 2 else none
  | .tokq f => if 3 < f.a.immU then some 1 else none
  | .time f => if 1 < f.a.immU then some 1 else none
  | .perf f => if 7 < f.a.immU then some 1 else if 1 < f.b.immU then some 2 else none
  | .realign f => if f.a.immU == 0 || 4095 < f.a.immU then some 1 else none
  | .yield f => if !f.a.isNone && 255 < f.a.immU then some 1 else none
  | .bell f => if 7 < f.a.immU then some 1 else none
  | .pref f | .swread f | .vsort f => if 1 < f.b.immU then some 2 else none
  | .jrd f => if 2 < f.b.immU then some 2 else none
  | .pxinsInsert f | .pxinsRemove f => match f.b with
    | .imm _ v => if 1 < v then some 2 else none
    | _ => none
  | .heat f | .migr f => match f.b with
    | .imm _ v => if 2 < v then some 2 else none
    | _ => none
  | .acopyt f => match f.d, f.a with
    | .track _ _ _, .track _ _ _ => some 1
    | .track _ _ _, _ | _, .track _ _ _ => none
    | _, _ => some 1
  | .trdv f => if f.a.num % 16 != 0 || f.d.entry.isNone then some 1 else if !f.b.isNone then some 2 else none
  | .twrv f => if f.d.num % 16 != 0 || f.a.entry.isNone then some 1 else if !f.b.isNone then some 2 else none
  | .vred f => if 6 ≤ f.b.immU then some 2 else none
  | .vscan f => if f.b.immU / 16 != 0 || 6 ≤ bits f.b.immU 0 3 then some 2 else none
  | .vmovs f => match f.d, f.a with
    | .scalar _, .vec _ _ | .vec _ _, .scalar _ => none
    | _, _ => some 1
  | .vld f => match f.a with
    | .shape _ _ => if f.b.isNone then none else some 2
    | _ => none
  | .vst f => match f.d with
    | .shape _ _ => if f.b.isNone then none else some 2
    | _ => none
  | .mgeo _ | .mma _ | .macz _ | .macld _ | .macst _ | .maccv _ | .mchk _ | .ewait _ | .eguard _ | .eloop _ | .ejmp _
  | .eend _ => some 0
  | _ => none

/-- Whether an instruction's mask selects sources, so that MZ is ILLEGAL (R346). -/
def selects : Instr → Bool
  | .vsel _ | .vcmpr _ | .vred _ | .vquant _ | .vhist _ => true
  | _ => false

/-- The lowest parcel, counted from the first of the instruction's bytes, that makes its word ILLEGAL by its own rule:
the prefix for MZ on a selecting mask (R346), then a shape-record operand without SHP (R367) or a bad field. -/
def badParcel (i : Instr) : Option Nat :=
  match i.form with
  | none => none
  | some f =>
    if selects i && f.vx.mz then some (f.npfx - 1)
    else if !f.vx.shp && (isShape f.d || isShape f.a) then some (f.npfx + 1)
    else match badField i with
      | some k => some (f.npfx + k)
      | none => if !f.vx.shp && isShape f.b then some (f.npfx + 2) else none

end Sys2Proof.Machine
end

