-- ==== Sys2Proof/Machine/Tier.lean ====
section
/-! DEFINITION. The memory tiers: frame pools, the data of a move, the channels of the migration engine and the move of
a page (spec/05_tiers_and_parking.md R120 to R128; spec/20_host_fabric_bringup.md R446). -/
namespace Sys2Proof.Machine

/-- Cycles of a millisecond of the reference clock (R4). -/
def msCycles : Nat := 2100000

/-! Frame pools. -/

/-- The pool of a tier for frames of a size: 0 to 2 for 64 KiB and 3 to 5 for 2 MiB (R122, R123). -/
def poolNo (tier size : Nat) : Nat := if size == 0x200000 then tier + 3 else tier

/-- Frames in a pool. -/
def State.poolCount (s : State) (vf n : Nat) : Nat := (s.vf vf).frames.get n 0

/-- Address of entry `i` of a pool's stack. -/
def State.poolEntry (s : State) (vf n i : Nat) : Nat := regPage ((s.vf vf).pools.get n 0) + 8 * i

/-- Bits [44:16] or [44:21] of a pool's entry. -/
def frameOf (n e : Nat) : Nat := if n < 3 then bits e 16 29 * 2 ^ 16 else bits e 21 24 * 2 ^ 21

/-- The state with the number of frames in a pool set. -/
def State.setPoolCount (s : State) (vf n k : Nat) : State := s.modVf vf fun v => { v with frames := v.frames.set n k 0 }

/-- A frame taken from a pool; `none` where it is empty or does not lie in HBM (R122). -/
def State.takeFrame (s : State) (vf n : Nat) : Option (Nat × State) :=
  let k := s.poolCount vf n
  if k == 0 || !inHbm (s.poolEntry vf n (k - 1)) 8 then none
  else some (frameOf n (s.physRead (s.poolEntry vf n (k - 1)) 8), s.setPoolCount vf n (k - 1))

/-- A row of HBM: 1 KiB (log entry 61). -/
def rowOfPa (pa : Nat) : Nat := pa / 1024

/-- Whether a frame of HBM holds a row that is retired or being retired (R136). -/
def State.frameBad (s : State) (frame size : Nat) : Bool :=
  let inside (row : Nat) : Bool := frame ≤ 1024 * row && 1024 * row < frame + size
  s.retired.any inside || s.moves.any fun m => match m.2.row with
    | some r => inside r
    | none => false

/-- A frame returned to its pool, but for one with a retired row (R123, R124, R136). -/
def State.giveFrame (s : State) (vf tier size frame : Nat) : State :=
  let n := poolNo tier size
  let k := s.poolCount vf n
  if (tier == 0 && s.frameBad frame size) || !inHbm (s.poolEntry vf n k) 8 then s
  else (s.physWrite (s.poolEntry vf n k) 8 frame).setPoolCount vf n (k + 1)

/-- A frame taken out of one pool of a function wherever it stands: the top entry fills its place. -/
def State.dropFrame (s : State) (vf n addr : Nat) : State :=
  let k := s.poolCount vf n
  match (List.range k).find? fun i => frameOf n (s.physRead (s.poolEntry vf n i) 8) == addr with
  | none => s
  | some i => (s.physWrite (s.poolEntry vf n i) 8 (s.physRead (s.poolEntry vf n (k - 1)) 8)).setPoolCount vf n (k - 1)

/-- The frames that hold an address taken out of every HBM pool (R123, R136). -/
def State.dropFrames (s : State) (pa : Nat) : State :=
  (List.range 64).foldl (fun s v => (s.dropFrame v 0 (pa / 2 ^ 16 * 2 ^ 16)).dropFrame v 3 (pa / 2 ^ 21 * 2 ^ 21)) s

/-- A move not started for an empty pool (R122). -/
def State.countSkip (s : State) (vf : Nat) : State := s.modVf vf fun v => { v with migSkip := satInc64 v.migSkip }

/-! Data. -/

/-- The poison mark of a flash word lies at its address above all physical ones. -/
def flashMark : Nat := 2 ^ 50

/-- Cells with the `n` bytes from `dst` replaced by those of another list from `src`. -/
def moveCells (from_ to_ : List Host.Cell) (src dst n : Nat) : List Host.Cell :=
  let new := (from_.filter fun c => src ≤ c.1 && c.1 < src + n).map fun c => (c.1 - src + dst, c.2)
  to_.filter (fun c => c.1 < dst) ++ new ++ to_.filter (fun c => dst + n ≤ c.1)

/-- The C2 lines of a physical range removed, their data written back. -/
def State.flushRange (s : State) (pa n : Nat) : State :=
  (s.c2.filter fun l => pa / 64 ≤ l.pline && l.pline < (pa + n + 63) / 64).foldl (fun s l => s.evict l) s

/-- `n` bytes copied from a place of one tier to a place of another, with their poison marks (R124, R126). -/
def State.copyData (s : State) (srcTier src dstTier dst n : Nat) : State :=
  let mark (t a : Nat) : Nat := if t == 2 then flashMark + a else a
  let ps := (s.poison.filter fun w => mark srcTier src ≤ w && w < mark srcTier src + n).map
    fun w => w - mark srcTier src + mark dstTier dst
  let keep := s.poison.filter fun w => !(mark dstTier dst ≤ w && w < mark dstTier dst + n)
  let from_ := if srcTier == 2 then s.flash else s.mem
  let s := { s with poison := ps.foldl (fun p w => NatSet.insert w p) keep }
  if dstTier == 2 then { s with flash := moveCells from_ s.flash src dst n }
  else { s with mem := moveCells from_ s.mem src dst n }

/-! Channels. -/

/-- Cycles of a move of `size` bytes, below the bound of R124. -/
def moveCycles (size : Nat) : Nat := 3150 * ((size + 65535) / 65536)

/-- Bytes that a move carries. -/
def Move.size (m : Move) : Nat :=
  match m.kind with
  | .page _ _ n => n
  | .kv _ _ _ => 16384

/-- Channels of a base die (R122). -/
def channels : Nat := 16

/-- Moves that wait in the order in which they start: oldest first, but a block of a parked sequence that has reached the CXL
tier goes on to HBM before its later blocks leave flash (R134). -/
def startOrder (ms : Assoc Move) : Assoc Move :=
  let yields (m : Move) : Bool := m.park.isSome && m.srcTier == 2 &&
    ms.any fun u => u.2.park == m.park && u.2.srcTier == 1 && u.2.dstTier == 0
  ms.filter (!yields ·.2) ++ ms.filter (yields ·.2)

/-- The moves of a die that wait start while channels are free. -/
def State.feedChannels (s : State) (die : Nat) : State :=
  let mine := s.moves.filter (·.2.die == die)
  let busy := (mine.filter (·.2.started)).length
  ((startOrder (mine.filter (!·.2.started))).take (channels - busy)).foldl (fun s m =>
    { s with moves := s.moves.put m.1 { m.2 with started := true } }.later (moveCycles m.2.size) (.migrationCopyDone m.1)) s

/-- A move accepted. -/
def State.addMove (s : State) (m : Move) : State :=
  let (id, s) := s.fresh
  ({ s with moves := s.moves.put id m }).feedChannels m.die

/-- A move over: its channel is free, and the stores held for it try again (R125). -/
def State.endMove (s : State) (id die : Nat) : State :=
  let s := ({ s with moves := s.moves.erase id }.cancel (.migrationCopyDone id)).retryHeld
  s.feedChannels die

/-! Registered pages. -/

/-- The key of a registered page: its first frame, flash frames apart (R127). -/
def regKey (tier pa : Nat) : Nat := (if tier == 2 then 2 ^ 40 else 0) + pa / 65536

/-- The registration of the page that a translation reaches, with its key. -/
def State.regOf (s : State) (t : Trans) : Option (Nat × RegPage) := s.regs.find? (·.1 == regKey t.tier t.base)

/-- A mapping registered where its page has none (R127). -/
def State.register (s : State) (asid : Nat) (t : Trans) : State :=
  if (s.regOf t).isSome then s
  else { s with regs := s.regs.put (regKey t.tier t.base) ⟨asid, t.vbase, t.size, t.cls, 0⟩ }

/-- The translation of a page for the migration engine: under R27 with RD, whatever its tier (R393). -/
def State.pageOf (s : State) (core asid va : Nat) : Except Nat Trans × State :=
  match s.translate (stkOf core) asid va with
  | (.error c, s, _) => (.error c, s)
  | (.ok t, s, _) =>
    if !t.rd then (.error cXLPERM, s)
    else if !t.fab && t.tier != 2 && !populated (t.pa va) then (.error cPAFLT, s)
    else (.ok t, s)

/-- Whether a page holds a park record in STATE 1 to 7 (R129). -/
def State.holdsPark (s : State) (t : Trans) : Bool :=
  t.tier != 2 && s.parks.any fun p => t.base ≤ p.2.pa && p.2.pa < t.base + t.size

/-- Whether a page is being moved. -/
def State.pageMoving (s : State) (tier base : Nat) : Bool :=
  s.moves.any fun m => m.2.srcTier == tier && m.2.src == base && match m.2.kind with
    | .page _ _ _ => true
    | .kv _ _ _ => false

/-- The base die whose engine makes a move (R122): that of the HBM stack concerned, else that of the port. -/
def moveDie (srcTier src dstTier dst : Nat) : Nat :=
  if srcTier == 0 then stackOfPa src else if dstTier == 0 then stackOfPa dst
  else if srcTier == 1 then stackOfPa src else stackOfPa dst

/-- A move of a registered page to a tier started, where a frame is free (R122, R123). -/
def State.movePage (s : State) (r : RegPage) (srcTier src dstTier : Nat) (row : Option Nat) : Option State :=
  let vf := r.asid / 1024
  match s.takeFrame vf (poolNo dstTier r.size) with
  | none => none
  | some (dst, s) =>
    some (s.addMove ⟨moveDie srcTier src dstTier dst, vf, .page r.asid r.va r.size, src, srcTier, dst, dstTier, none, none,
      row, false, false⟩)

/-! The switch of a page (R124). -/

/-- The physical address of the entry that a walk takes its leaf from (R22, R23). -/
def leafPa (s : State) (node va : Nat) : List (Nat × Nat × Nat) → Option Nat
  | [] => none
  | (level, lo, w) :: rest =>
    let idx := bits va lo w
    match walkEntry s node level idx va with
    | .error _ => none
    | .ok (.inl n) => leafPa s n va rest
    | .ok (.inr t) => some (node + 8 * (if level == 4 then idx / 16 * 16 else if t.size == 0x4000000 then idx / 32 * 32 else idx))

/-- The entry of a registered mapping where it still reaches the page at a place of a tier. -/
def State.mappedAt (s : State) (asid va tier base : Nat) : Option Nat :=
  match s.rootOf asid with
  | .error _ => none
  | .ok root =>
    match (walkFrom s root va walkLevels).1 with
    | .ok t => if t.tier == tier && t.base == base && !t.fab then leafPa s root va walkLevels else none
    | .error _ => none

/-- The heat counters of a page moved to its new place; flash has none (R91). -/
def State.moveHeat (s : State) (srcTier src dstTier dst size : Nat) : State :=
  (List.range (size / 65536)).foldl (fun s i =>
    let h := if srcTier == 2 then 0 else s.heat.get (src / 65536 + i) 0
    let s := if srcTier == 2 then s else s.setHeat (src / 65536 + i) 0
    if dstTier == 2 then s else s.setHeat (dst / 65536 + i) h) s

/-- A C2 line of a page that moves takes its new physical line; one whose home changes with the page is written back
there (R75, R124). -/
def State.carryLine (s : State) (l : C2Line) (t : Trans) (shift : Nat × Nat) : State :=
  let l' := { l with pline := l.pline - shift.1 / 64 + shift.2 / 64, home := effHome t }
  let s := s.setLine l'
  if l.home == 2 || t.slice l.core l.asid (l.vline * 64) == l.slice then s else s.evict l'

/-- The state after a page's switch: its data lie at the new place, the entry names it, and cached translations of the
page are gone (R32, R124). The watched words of parked continuations in the page go with it (R131). -/
def State.switchPage (s : State) (m : Move) (asid va size entry : Nat) : State :=
  let s := if m.dstTier == 2 then s.flushRange m.src size else s
  let s := if m.dstTier == 2 then s else s.flushRange m.dst size
  let s := s.copyData m.srcTier m.src m.dstTier m.dst size
  let e := s.physRead entry 8
  let s := s.physWrite entry 8 (setBits (setBits e 12 33 (m.dst / 4096)) 8 2 m.dstTier)
  let s := { s with tlb := s.tlb.filter fun t => !(t.tr.tier == m.srcTier && t.tr.base == m.src && !t.tr.fab) }
  let s := match (walkEntryOf s entry va) with
    | some t =>
      let mine := s.c2.filter fun (l : C2Line) => m.srcTier != 2 && m.src / 64 ≤ l.pline && l.pline < (m.src + size) / 64
      mine.foldl (fun s l => State.carryLine s l t (m.src, m.dst)) s
    | none => s
  let s := s.moveHeat m.srcTier m.src m.dstTier m.dst size
  let s := { s with
    parks := s.parks.map fun (p : Nat × Park) =>
      if m.srcTier != 2 && m.src ≤ p.2.wakePa && p.2.wakePa < m.src + size then
        (p.1, { p.2 with wakePa := p.2.wakePa - m.src + m.dst }) else p,
    regs := (s.regs.erase (regKey m.srcTier m.src)).put (regKey m.dstTier m.dst)
      ⟨asid, va, size, bits e 4 2, 0⟩ }
  s
where
  /-- The translation that an entry's new word gives. -/
  walkEntryOf (s : State) (entry va : Nat) : Option Trans :=
    match leafOf s.pkg.devId va (s.physRead entry 8) size with
    | .ok t => some t
    | .error _ => none

/-- A move abandoned: its destination is free again and the data stay where they were (R126). `refused` is whether the
destination refused a write, which is counted. -/
def State.dropMove (s : State) (id : Nat) (m : Move) (refused : Bool) : State :=
  let s := match m.block with
    | some _ => s
    | none => s.giveFrame m.vf m.dstTier (match m.kind with
        | .page _ _ n => n
        | .kv _ _ _ => 65536) m.dst
  let s := if refused then (s.modVf m.vf fun v => { v with migErr := satInc64 v.migErr }).raiseErr m.vf else s
  s.endMove id m.die

/-- Whether a pin on a line of a place holds up a switch there (R87). -/
def State.switchPinned (s : State) (tier src size : Nat) : Bool :=
  tier != 2 && s.c2.any fun l => l.pins != 0 && src / 64 ≤ l.pline && l.pline < (src + size) / 64

/-- Whether a fill is on its way from a place. -/
def State.switchFills (s : State) (tier src size : Nat) : Bool :=
  tier != 2 && s.fills.any fun f => !f.2.tr.fab && src ≤ f.2.tr.pa (f.2.vline * 64) && f.2.tr.pa (f.2.vline * 64) < src + size

/-- Whether a destination takes the writes of a move: a place of its tier that exists and is populated (R12, R126). -/
def destOk (tier dst size : Nat) : Bool :=
  match tier with
  | 0 => inHbm dst size && populated dst && populated (dst + size - 1)
  | 1 => inCxl dst size && populated dst && populated (dst + size - 1)
  | _ => dst + size ≤ Config.flashBytes

/-- The end of a page's copy: the held stores are performed, then the data go over and the old frame returns; or the move
is abandoned where its destination or its mapping does not stand (R124 to R126). -/
def State.pageCopied (s : State) (id : Nat) (m : Move) (asid va size : Nat) : State :=
  if s.switchPinned m.srcTier m.src size then s.later 64 (.migrationCopyDone id)
  else if !destOk m.dstTier m.dst size then s.dropMove id m true
  else
    let s := { s with moves := s.moves.put id { m with closing := true } }.retryHeld
    if s.switchFills m.srcTier m.src size then s.later 64 (.migrationCopyDone id)
    else match s.mappedAt asid va m.srcTier m.src with
      | none => s.dropMove id m true
      | some entry => ((s.switchPage m asid va size entry).giveFrame m.vf m.srcTier size m.src).endMove id m.die

end Sys2Proof.Machine
end

