-- ==== Sys2Proof/Machine/Kv.lean ====
section
/-! DEFINITION. The KV store: pool quarters, the pitch map and its overflow records, lookup, allocation and release
(spec/04_kv_store_and_slice_attention.md R94 to R106), KVAPP, KVMAP and KVREL, and the prefix index with PXINS and PXGET
(R108 to R110; spec/16_matrix_kv_attention_instructions.md R382 to R388). -/
namespace Sys2Proof.Machine

/-! Status codes (R383). -/
def kvOK : Nat := 0
def kvEXISTS : Nat := 1
def kvKVFULL : Nat := 2
def kvOVFULL : Nat := 3
def kvPARKED : Nat := 4
def kvSHARED : Nat := 5
def kvSTALE : Nat := 6
def kvPXFULL : Nat := 7
def kvKVOFF : Nat := 8
def kvORDER : Nat := 9
def kvNOTFOUND : Nat := 10
def kvBUSY : Nat := 11
def kvREMOTE : Nat := 12
def kvSIZE : Nat := 13
def kvTIERFULL : Nat := 14
def kvWOKEN : Nat := 15
def kvWATCHFULL : Nat := 16
def kvNOTPARKED : Nat := 17
def kvSAME : Nat := 18
def kvBADPARK : Nat := 19
def kvCOLD : Nat := 20

/-! Quarters (R96). -/

/-- A stack's quarter of the pool: its areas in bytes of HBM, LOGQ, the overflow records and LOGPX. -/
structure KvQ where
  stack : Nat
  base  : Nat
  logq  : Nat
  pm    : Nat
  ov    : Nat
  recs  : Nat
  px    : Nat
  logpx : Nat
  deriving DecidableEq, Repr

/-- The quarter that a descriptor gives (R96). -/
def kvqOf (stack raw : Nat) : KvQ :=
  ⟨stack, bits raw 0 33 * 2 ^ 14, bits raw 33 5, bits raw 38 33 * 4096, bits raw 71 33 * 4096, bits raw 104 16 * 1024,
   bits raw 120 33 * 4096, bits raw 153 5⟩

/-- Bytes of the list heads at the start of the overflow area: 4 for each group (R99; log entry 50). -/
def KvQ.headBytes (q : KvQ) : Nat := 2 ^ q.logq / 2

/-- The four areas, as base and bytes. -/
def KvQ.areas (q : KvQ) : List (Nat × Nat) :=
  [(q.base, 2 ^ q.logq * 16384), (q.pm, 2 ^ q.logq * 16), (q.ov, q.headBytes + 32 * q.recs), (q.px, 64 * 2 ^ q.logpx)]

/-- Whether two areas overlap. -/
def overlaps (a b : Nat × Nat) : Bool := a.1 < b.1 + b.2 && b.1 < a.1 + a.2

/-- The conditions of R96 on a quarter. -/
def KvQ.legal (q : KvQ) : Bool :=
  10 ≤ q.logq && q.logq ≤ 22 && 6 ≤ q.logpx && q.logpx ≤ 20 &&
  q.areas.all (fun a => a.1 / 2 ^ 37 == q.stack && (a.1 + a.2 - 1) / 2 ^ 37 == q.stack) &&
  (match q.areas with
    | [a, b, c, d] => !(overlaps a b || overlaps a c || overlaps a d || overlaps b c || overlaps b d || overlaps c d)
    | _ => false)

/-- The quarter of a stack where it accepts KV operations. -/
def State.kvQ (s : State) (stack : Nat) : Option KvQ :=
  let raw := s.pkg.kvPool.get stack 0
  let q := kvqOf stack raw
  if bit raw 158 && q.legal then some q else none

/-! Entries and records (R98, R99). -/

/-- A key (R98): function, sequence, KV head and logical block. -/
structure KvKey where
  vf   : Nat
  seq  : Nat
  head : Nat
  lblk : Nat
  deriving DecidableEq, Repr

/-- The 70 bits of a key. -/
def KvKey.code (k : KvKey) : Nat := k.seq % 2 ^ 32 + k.head % 2 ^ 8 * 2 ^ 32 + k.lblk % 2 ^ 24 * 2 ^ 40 + k.vf % 2 ^ 6 * 2 ^ 64

/-- The key that an entry holds. -/
def keyOf (e : Nat) : KvKey := ⟨bits e 64 6, bits e 0 32, bits e 32 8, bits e 40 24⟩

/-! Fields and states of an entry. -/
def eState (e : Nat) : Nat := bits e 70 3
def eMig (e : Nat) : Bool := bit e 74
def eOvf (e : Nat) : Bool := bit e 75
def eTier (e : Nat) : Nat := bits e 76 2
def eNtok (e : Nat) : Nat := bits e 78 5
def eRef (e : Nat) : Nat := bits e 96 16
def esFree : Nat := 0
def esLive : Nat := 1
def esPrefix : Nat := 2
def esRetired : Nat := 3
def esAlias : Nat := 4

/-- An entry with a state, OVF, a tier, NTOK, REFCNT and PARKED. -/
def mkEntry (k : KvKey) (st : Nat) (ovf : Bool) (tier ntok refs : Nat) (parked : Bool) : Nat :=
  k.code + st * 2 ^ 70 + parked.toNat * 2 ^ 73 + ovf.toNat * 2 ^ 75 + tier * 2 ^ 76 + ntok * 2 ^ 78 + refs * 2 ^ 96

/-- An entry with one field written. -/
def eSetState (e v : Nat) : Nat := setBits e 70 3 v
def eSetParked (e : Nat) (v : Bool) : Nat := setBits e 73 1 v.toNat
def eSetMig (e : Nat) (v : Bool) : Nat := setBits e 74 1 v.toNat
def eSetTier (e v : Nat) : Nat := setBits e 76 2 v
def eSetNtok (e v : Nat) : Nat := setBits e 78 5 v
def eSetRef (e v : Nat) : Nat := setBits e 96 16 v

/-- The end of a list (R99). -/
def listEnd : Nat := 0xFFFFFFFF

/-- Entry `j` of the map, read and written. -/
def State.mapEntry (s : State) (q : KvQ) (j : Nat) : Nat := s.physRead (q.pm + 16 * j) 16
def State.setMapEntry (s : State) (q : KvQ) (j e : Nat) : State := s.physWrite (q.pm + 16 * j) 16 e

/-- Address of overflow record `r`. -/
def KvQ.recPa (q : KvQ) (r : Nat) : Nat := q.ov + q.headBytes + 32 * r

/-- Overflow record `r`: entry, LOC and NEXT. -/
def State.kvRec (s : State) (q : KvQ) (r : Nat) : Nat × Nat × Nat :=
  let v := s.physRead (q.recPa r) 32
  (v % 2 ^ 128, bits v 128 64, bits v 192 32)

def State.setKvRec (s : State) (q : KvQ) (r e loc next : Nat) : State :=
  s.physWrite (q.recPa r) 32 (e + loc * 2 ^ 128 + next * 2 ^ 192)

/-- The head index of the list of group `gn` (R99); an empty list has the end mark there (log entry 50). -/
def State.kvHead (s : State) (q : KvQ) (gn : Nat) : Nat := s.physRead (q.ov + 4 * gn) 4

def State.setKvHead (s : State) (q : KvQ) (gn r : Nat) : State := s.physWrite (q.ov + 4 * gn) 4 (r % 2 ^ 32)

/-- Memory of a range as it stands after a reset, with no cached copy (R100). -/
def State.clearRange (s : State) (pa n : Nat) : State :=
  { s with mem := s.mem.filter (fun c => !(pa ≤ c.1 && c.1 < pa + n)),
           poison := s.poison.filter (fun w => !(pa ≤ w && w < pa + n)),
           c2 := s.c2.filter fun l => !(pa / 64 ≤ l.pline && l.pline < (pa + n) / 64) }

/-- Every bit of a range of memory set, with no cached copy. -/
def State.fillOnes (s : State) (pa n : Nat) : State :=
  let s := s.clearRange pa n
  { s with mem := (s.mem.filter fun c => c.1 < pa) ++ (List.range n).map (fun i => (pa + i, (0xFF : Byte))) ++
      s.mem.filter fun c => pa + n ≤ c.1 }

/-- A quarter set up (R100): every entry, record and index entry free and every list empty, but for the blocks on retired
rows. -/
def State.kvSetUp (s : State) (q : KvQ) : State :=
  let s := ((s.clearRange q.pm (16 * 2 ^ q.logq)).clearRange q.ov (q.headBytes + 32 * q.recs)).clearRange q.px (64 * 2 ^ q.logpx)
  let s := s.fillOnes q.ov q.headBytes
  let bad := (s.retired.filter fun r => q.base ≤ 1024 * r && 1024 * r < q.base + 2 ^ q.logq * 16384).map fun r =>
    (1024 * r - q.base) / 16384
  let s := bad.foldl (fun s j => s.setMapEntry q j (esRetired * 2 ^ 70)) s
  { s with kvHeld := s.kvHeld.filter (·.1 % 4 != q.stack) }

/-- A KVPOOL descriptor written (R96): its quarter is set up when it first accepts operations as described (log entry
52). -/
def State.setKvPool (s : State) (stack raw : Nat) : State :=
  let s := { s with pkg := { s.pkg with kvPool := s.pkg.kvPool.set stack (raw % 2 ^ 159) 0 } }
  let r := s.pkg.kvPool.get stack 0
  match s.kvQ stack with
  | some q =>
    if s.pkg.kvSet.get stack 0 == r then s
    else { s.kvSetUp q with pkg := { s.pkg with kvSet := s.pkg.kvSet.put stack r } }
  | none => s

/-! Places (R101). -/

/-- The probe position of a key. -/
def KvQ.probe (q : KvQ) (k : KvKey) : Nat :=
  ((k.lblk * 8).xor k.seq |>.xor (k.seq / 2 ^ 19) |>.xor (k.head * 2 ^ 13) |>.xor (k.vf * 2 ^ 7)) % 2 ^ q.logq

/-- The home slice of a group number. -/
def kvSlice (gn : Nat) : Nat := (gn.xor (gn / 2 ^ 6) |>.xor (gn / 2 ^ 12) |>.xor (gn / 2 ^ 18)) % 64

/-- The group number and the home slice of a key. -/
def KvQ.group (q : KvQ) (k : KvKey) : Nat := q.probe k / 8
def KvQ.home (q : KvQ) (k : KvKey) : Nat := kvSlice (q.group k)

/-- The probe window of a key, in probe order. -/
def KvQ.window (q : KvQ) (k : KvKey) : List Nat :=
  let i := q.probe k
  (List.range 8).map fun n => i / 8 * 8 + (i + n) % 8

/-- The physical address of a block (R96). -/
def KvQ.blockPa (q : KvQ) (j : Nat) : Nat := q.base + j * 16384

/-- The index of block `j` of a stack (R96). -/
def KvQ.index (q : KvQ) (j : Nat) : Nat := q.stack * 2 ^ 22 + j

/-! Lookup (R102). -/

/-- What a lookup finds: its tier and LOC (for HBM the index within the stack), the overflow record if it was found
there, with the record before it in the list, and whether it is an alias. -/
structure KvHit where
  tier  : Nat
  loc   : Nat
  rec_  : Option Nat
  prev  : Option Nat
  shared : Bool
  deriving DecidableEq, Repr

/-- Whether a block is the destination of a move that has not switched: lookups do not find it yet (R103, R106). -/
def State.kvClaimed (s : State) (q : KvQ) (j : Nat) : Bool := s.moves.any fun m => m.2.block == some (q.index j)

/-- The records of a list in order, from record `r`. -/
def State.kvFind (s : State) (q : KvQ) (k : KvKey) (prev : Option Nat) (r : Nat) : Nat → Option KvHit
  | 0 => none
  | fuel + 1 =>
    if r == listEnd then none
    else
      let (e, loc, next) := s.kvRec q r
      let isNew := eTier e == 0 && eState e != esAlias && s.kvClaimed q (loc % 2 ^ 22)
      if eState e != esFree && e % 2 ^ 70 == k.code && !isNew then
        some ⟨eTier e, if eTier e == 0 then loc % 2 ^ 22 else loc, some r, prev, eState e == esAlias⟩
      else State.kvFind s q k (some r) next fuel

/-- Lookup of a key: its window, then its group's list. -/
def State.kvLookup (s : State) (q : KvQ) (k : KvKey) : Option KvHit :=
  match (q.window k).find? fun j =>
      let e := s.mapEntry q j
      (eState e == esLive || eState e == esPrefix) && e % 2 ^ 70 == k.code && !s.kvClaimed q j with
  | some j => some ⟨0, j, none, none, false⟩
  | none => s.kvFind q k none (s.kvHead q (q.group k)) (q.recs + 1)

/-- The record that holds the NTOK and REFCNT of a block outside HBM, from record `r`: the one of its tier and LOC that is no
alias. -/
def State.ownerRec (s : State) (q : KvQ) (tier loc r : Nat) : Nat → Option Nat
  | 0 => none
  | fuel + 1 =>
    let (e, l, _) := s.kvRec q r
    if eState e != esFree && eState e != esAlias && eTier e == tier && l == loc then some r
    else State.ownerRec s q tier loc (r + 1) fuel

/-- The record that holds a block found outside HBM: the one found, or for an alias that of the shared block (R107, R110). -/
def State.kvOwner (s : State) (q : KvQ) (h : KvHit) : Option Nat :=
  if h.shared then s.ownerRec q h.tier h.loc 0 q.recs else h.rec_

/-- The entry or record that holds a found block's NTOK and REFCNT (R385): in HBM the block's entry in the map. -/
def State.kvHolder (s : State) (q : KvQ) (h : KvHit) : Nat :=
  if h.tier == 0 then s.mapEntry q h.loc
  else match s.kvOwner q h with
    | some r => (s.kvRec q r).1
    | none => 0

/-- The state with the holder's word replaced. -/
def State.setKvHolder (s : State) (q : KvQ) (h : KvHit) (e : Nat) : State :=
  if h.tier == 0 then s.setMapEntry q h.loc e
  else match s.kvOwner q h with
  | some r =>
    let (_, loc, next) := s.kvRec q r
    s.setKvRec q r e loc next
  | none => s

/-- The physical address of a found block in HBM or the CXL tier (R99). -/
def KvHit.pa (h : KvHit) (q : KvQ) : Nat := if h.tier == 0 then q.blockPa h.loc else h.loc % 2 ^ 31 * 2 ^ 14

/-! Records of a list. -/

/-- The first free overflow record at or above `r`. -/
def State.freeRec (s : State) (q : KvQ) (r : Nat) : Nat → Option Nat
  | 0 => none
  | fuel + 1 => if eState (s.kvRec q r).1 == esFree then some r else State.freeRec s q (r + 1) fuel

/-- The last record of a list from record `r`. -/
def State.lastRec (s : State) (q : KvQ) (r : Nat) : Nat → Nat
  | 0 => r
  | fuel + 1 =>
    let n := (s.kvRec q r).2.2
    if n == listEnd then r else State.lastRec s q n fuel

/-- A record appended to the list of a group; `none` where no record is free (R103). -/
def State.appendRec (s : State) (q : KvQ) (gn e loc : Nat) : Option State :=
  (s.freeRec q 0 q.recs).map fun r =>
    let s := s.setKvRec q r e loc listEnd
    let h := s.kvHead q gn
    if h == listEnd then s.setKvHead q gn r
    else
      let t := s.lastRec q h q.recs
      let (te, tl, _) := s.kvRec q t
      s.setKvRec q t te tl r

/-- The record before record `r` in a list from record `t`. -/
def State.prevRec (s : State) (q : KvQ) (t r : Nat) : Nat → Option Nat
  | 0 => none
  | fuel + 1 =>
    let n := (s.kvRec q t).2.2
    if n == r then some t else if n == listEnd then none else State.prevRec s q n r fuel

/-- Record `r` of the list of group `gn` removed and free. -/
def State.removeRec (s : State) (q : KvQ) (gn r : Nat) : State :=
  let next := (s.kvRec q r).2.2
  let h := s.kvHead q gn
  let s := if h == r then s.setKvHead q gn next
    else match s.prevRec q h r q.recs with
      | some p =>
        let (pe, pl, _) := s.kvRec q p
        s.setKvRec q p pe pl next
      | none => s
  s.setKvRec q r 0 0 0

/-! Claims and frees (R97, R103). -/

/-- Blocks that a function holds on a stack. -/
def State.heldBlocks (s : State) (vf stack : Nat) : Nat := s.kvHeld.get (4 * vf + stack) 0
def State.setHeldBlocks (s : State) (vf stack n : Nat) : State := { s with kvHeld := s.kvHeld.set (4 * vf + stack) n 0 }

/-- A block claimed for a key. -/
def State.claim (s : State) (q : KvQ) (j : Nat) (k : KvKey) (ovf : Bool) (ntok refs : Nat) (parked : Bool) : State :=
  (s.setMapEntry q j (mkEntry k esLive ovf 0 ntok refs parked)).setHeldBlocks k.vf q.stack (s.heldBlocks k.vf q.stack + 1)

/-- The first free block of the groups of a slice, from group `gn` on (log entry 51). -/
def State.freeIn (s : State) (q : KvQ) (slice gn : Nat) : Nat → Option Nat
  | 0 => none
  | fuel + 1 =>
    match (if kvSlice gn == slice then
        (List.range 8).find? fun i => eState (s.mapEntry q (8 * gn + i)) == esFree
      else none) with
    | some i => some (8 * gn + i)
    | none => State.freeIn s q slice (gn + 1) fuel

/-- A free block outside a window: of the home slice's own groups first, then of slices +1, +2 and so on (R103). -/
def State.freeBlock (s : State) (q : KvQ) (slice : Nat) : Option Nat :=
  (List.range 64).findSome? fun d => s.freeIn q ((slice + d) % 64) 0 (2 ^ q.logq / 8)

/-- A place for a key (R103): `limit` is whether KVLIM is tested. The block, or the status of the failure. -/
def State.placeBlock (s : State) (q : KvQ) (k : KvKey) (limit : Bool) (ntok refs : Nat) (parked : Bool) : Except Nat Nat × State :=
  if limit && bits (s.vf k.vf).kvLim 0 23 ≤ s.heldBlocks k.vf q.stack then (.error kvKVFULL, s)
  else match (q.window k).find? fun j => eState (s.mapEntry q j) == esFree with
    | some j => (.ok j, s.claim q j k false ntok refs parked)
    | none =>
      if (s.freeRec q 0 q.recs).isNone then (.error kvOVFULL, s)
      else match s.freeBlock q (q.home k) with
        | none => (.error kvKVFULL, s)
        | some j =>
          match (s.claim q j k true ntok refs parked).appendRec q (q.group k) (mkEntry k esLive true 0 0 0 parked) (q.index j) with
          | some s => (.ok j, s)
          | none => (.error kvOVFULL, s)

/-- The record that names block `j` of HBM in a list from record `r`, if any. -/
def State.recOfBlock (s : State) (q : KvQ) (j r : Nat) : Nat → Option Nat
  | 0 => none
  | fuel + 1 =>
    if r == listEnd then none
    else
      let (e, loc, next) := s.kvRec q r
      if eState e != esFree && eState e != esAlias && eTier e == 0 && loc % 2 ^ 22 == j then some r
      else State.recOfBlock s q j next fuel

/-- The state without the record that names block `j` of a key outside its window. -/
def State.dropRecOf (s : State) (q : KvQ) (k : KvKey) (j : Nat) : State :=
  match s.recOfBlock q j (s.kvHead q (q.group k)) (q.recs + 1) with
  | some r => s.removeRec q (q.group k) r
  | none => s

/-- A block whose entry takes a word that holds no key: freed or retired, with the overflow record that named it outside
its window (R387). -/
def State.freeMapAs (s : State) (q : KvQ) (j word : Nat) : State :=
  let e := s.mapEntry q j
  let k := keyOf e
  let s := if eOvf e then s.dropRecOf q k j else s
  (s.setMapEntry q j word).setHeldBlocks k.vf q.stack (s.heldBlocks k.vf q.stack - 1)

/-- A block freed. -/
def State.freeMap (s : State) (q : KvQ) (j : Nat) : State := s.freeMapAs q j 0

/-- A flash frame's number, as LOC holds it, and its address (log entry 50). -/
def flashAddr (loc : Nat) : Nat := loc * 2 ^ 16

/-- The address of the frame of a found block outside HBM. -/
def KvHit.frame (h : KvHit) : Nat := if h.tier == 1 then h.loc % 2 ^ 31 * 2 ^ 14 else flashAddr h.loc

/-- One reference on a block dropped: at zero the block is free, or its record and its frame are (R106, R387). -/
def State.dropRef (s : State) (q : KvQ) (h : KvHit) : State :=
  if h.tier == 0 then
    let e := s.mapEntry q h.loc
    if eRef e ≤ 1 then s.freeMap q h.loc else s.setMapEntry q h.loc (eSetRef e (eRef e - 1))
  else
    match s.kvOwner q h with
    | none => s
    | some r =>
      let (e, loc, next) := s.kvRec q r
      if eRef e ≤ 1 then
        let k := keyOf e
        (s.removeRec q (q.group k) r).giveFrame k.vf h.tier 65536 h.frame
      else s.setKvRec q r (eSetRef e (eRef e - 1)) loc next

/-- A block named by its physical index that is live or prefix, with its quarter (R109, R386). -/
def State.sharedBlock (s : State) (b : Nat) : Option (KvQ × Nat) :=
  match s.kvQ (bits b 22 2) with
  | none => none
  | some q =>
    let j := b % 2 ^ 22
    let st := eState (s.mapEntry q j)
    if j < 2 ^ q.logq && (st == esLive || st == esPrefix) then some (q, j) else none

/-- A reference taken on a block (R109). -/
def State.takeRef (s : State) (q : KvQ) (j : Nat) : State :=
  let e := s.mapEntry q j
  s.setMapEntry q j (eSetRef e (min 0xFFFF (eRef e + 1)))

/-- The block that a retired entry stood for before row retirement moved it out of HBM: its key stays in the entry (R136). -/
def State.retiredHit (s : State) (b : Nat) : Option (KvQ × KvHit) :=
  match s.kvQ (bits b 22 2) with
  | none => none
  | some q =>
    let e := s.mapEntry q (b % 2 ^ 22)
    if b % 2 ^ 22 < 2 ^ q.logq && eState e == esRetired then
      ((s.kvLookup q (keyOf e)).filter fun h => h.tier != 0 && !h.shared).map fun h => (q, h)
    else none

/-- References on listed blocks dropped, wherever the blocks lie now (R110). -/
def State.dropRefs (s : State) (bs : List Nat) : State :=
  bs.foldl (fun s b =>
    match s.sharedBlock b with
    | some (q, j) => s.dropRef q ⟨0, j, none, none, false⟩
    | none =>
      match s.retiredHit b with
      | some (q, h) => s.dropRef q h
      | none => s) s

/-- Whether a sequence of a function is parked (R106): a park record of it is in STATE 1 to 7. -/
def State.seqParked (s : State) (vf seq : Nat) : Bool :=
  s.parks.any fun p => p.2.vf == vf && bits p.2.raw 232 32 == seq && 1 ≤ p.2.state && p.2.state ≤ 7

/-! The request record (R384). -/

/-- The fields of a KV request. -/
structure KvReq where
  seq   : Nat
  head  : Nat
  lblk  : Nat
  slot  : Nat
  dsel  : Nat
  fk    : Nat
  fv    : Nat
  fq    : Nat
  gm1   : Nat
  nlb   : Nat
  nhm1  : Nat
  scale : Nat
  ala   : Nat
  bla   : Nat
  swla  : Nat
  deriving DecidableEq, Repr

def kvReqOf (r : Nat) : KvReq :=
  ⟨bits r 0 32, bits r 32 8, bits r 40 24, bits r 64 4, bits r 68 2, bits r 72 5, bits r 77 5, bits r 82 5, bits r 87 3,
   bits r 96 24, bits r 120 8, bits r 128 32, bits r 160 24, bits r 184 24, bits r 208 24⟩

/-- The instructions that read a request. -/
inductive KvUser where
  | kvapp | kvmap | kvrel | attn
  deriving DecidableEq, Repr

/-- Whether a request breaks R384 for an instruction. -/
def kvReqBad (u : KvUser) (r : Nat) : Bool :=
  let q := kvReqOf r
  bits r 70 2 != 0 || bits r 90 6 != 0 || bits r 232 16 != 0 || bits r 256 256 != 0 ||
  ((u == .kvapp || u == .attn) && q.dsel == 3) ||
  ((u == .attn || u == .kvrel) && 2 ^ 24 < q.lblk + q.nlb) ||
  (u == .kvrel && 255 < q.head + q.nhm1)

/-- A place in a stall of the super-group as an engine's 56-bit address (R14, R16). -/
def laRange (core la n al : Nat) : Except Flt Nat :=
  (checkLa core (BitVec.ofNat 64 la) n al).map fun p => meshBase + 65536 * p.1 + p.2

/-- Bytes of stall at an engine's address, and the poisoned word met. -/
def stallAt (s : State) (va n : Nat) : Nat × Option Nat :=
  let core := (va - meshBase) / 65536
  (s.stallRead core (va % 65536) n, s.stallPoison core (va % 65536) n)

/-- A record of `n` bytes in stall that an instruction reads at issue: its LA and its bits (R16, R19, R89). -/
def readStallRec (s : State) (w : Word) (n : Nat) : Except Flt (Nat × Nat) :=
  match laRange s.cur.core w.toNat n n with
  | .error e => .error e
  | .ok va =>
    match stallAt s va n with
    | (_, some p) => .error (cPOISON, w.toNat + p - stallPa ((va - meshBase) / 65536) (va % 65536))
    | (v, none) => .ok (va, v)

/-- A KV request read at issue, with the check of R384: its engine address, its LA and its fields. -/
def readKvReq (s : State) (u : KvUser) (w : Word) : Except Flt (Nat × KvReq) :=
  match readStallRec s w 64 with
  | .error e => .error e
  | .ok (va, r) => if kvReqBad u r then .error (cKVREQ, w.toNat) else .ok (va, kvReqOf r)

/-- D of a DSEL (R384). -/
def dimOf (dsel : Nat) : Nat := 64 * 2 ^ dsel

/-- An entry for K or V, or KVFMT (R94, R95). -/
def kvEntry (x : FmtWord) (n d : Nat) : Except Flt FmtWord :=
  let e := entOf x
  if !e.valid || e.pol == 5 || 4096 < d * e.w then .error (cKVFMT, n) else .ok x

/-! KVAPP (R385). -/

/-- Half of the cycles of a KVAPP (spec/25_program_parked_attention.md). -/
def kvHalf : Nat := 130

/-- The checks of KVAPP at issue: what the operation does and its sync word. -/
def kvappReq (s : State) (w : Word) : Except Flt (EngAct × SyncRef × Nat) :=
  match readKvReq s .kvapp w with
  | .error e => .error e
  | .ok (va, r) =>
    let d := dimOf r.dsel
    match kvEntry (s.engEntry r.fk) r.fk d, kvEntry (s.engEntry r.fv) r.fv d with
    | .error e, _ => .error e
    | _, .error e => .error e
    | .ok fk, .ok fv =>
      match laRange s.cur.core r.ala (d * (entOf fk).w / 8) 32, laRange s.cur.core r.bla (d * (entOf fv).w / 8) 32,
          syncPlace s.cur.core (BitVec.ofNat 64 r.swla) with
      | .error e, _, _ => .error e
      | _, .error e, _ => .error e
      | _, _, .error e => .error e
      | .ok a, .ok b, .ok sw => .ok (.kvapp va r.seq r.head r.lblk r.slot r.dsel fk fv a b, some sw, r.swla)

/-- A KVAPP begins. -/
def State.startKvapp (s : State) (act : EngAct) (sync : SyncRef) : State :=
  let (id, s) := s.engStart { s.newOp act sync 1 64 with started := true }
  s.later kvHalf (.pitchMapRequest id)

/-- The step report of an engine instruction with a request: its sync word's LA (R431). -/
def kvReport (f : Form) (s : State) : Nat × Nat × Nat :=
  match readStallRec s (s.me.opAddr f.a) 64 with
  | .ok (_, r) => (1, (kvReqOf r).swla, 0)
  | .error _ => (0, 0, 0)

/-- A KVAPP of a slot whose formats are refused: the operation faults with ECODE 0x07 at its sync word, which stops its
program (R95, R174, R179). -/
def State.badFormats (s : State) (w : Word) : SlotRes :=
  match readKvReq s .kvapp w with
  | .error _ => .stop s ecILLEGAL
  | .ok (va, r) =>
    match syncPlace s.cur.core (BitVec.ofNat 64 r.swla) with
    | .error _ => .stop s ecILLEGAL
    | .ok sw =>
      let act : EngAct := .kvapp va r.seq r.head r.lblk r.slot r.dsel (s.engEntry r.fk) (s.engEntry r.fv) 0 0
      let (id, s) := s.engStart (s.newOp act (some sw) 1 64)
      .done (s.engFault id ecFMT)

/-- KVAPP (R385), of a context or in a copy slot. -/
def execKvapp (f : Form) (s : State) : Host.Outcome State Fault Refusal :=
  if s.cur.unit == .context then
    issueWith f 16 (scalarWarn f false) false false (kvReport f) (fun s =>
      match kvappReq s (s.me.opAddr f.a) with
      | .error e => laFault s e
      | .ok (act, sync, _) => asRelease (fun s => .done (s.startKvapp act sync)) s) s
  else slotIssue f [.copySeq] 16 (fun s =>
    match kvappReq s (s.engAddr f.a) with
    | .error (c, _) => if c == cKVFMT then s.badFormats (s.engAddr f.a) else .stop s ecILLEGAL
    | .ok (act, sync, _) => .done (s.startKvapp act sync)) s

/-- A row of a token written at its slot, with the marks of its words, which are counted (R88, R89, R94). -/
def State.writeRow (s : State) (from_ pa n : Nat) : State :=
  let (v, _) := stallAt s from_ n
  let bad := (List.range (n / 8)).filter fun i => (stallAt s (from_ + 8 * i) 8).2.isSome
  bad.foldl (fun s i => (s.setPoison (pa + 8 * i)).countErr (stkOf ((from_ - meshBase) / 65536)) 3) (s.physWrite pa n v)

/-- The work of a KVAPP at the home of its key (R385): its status. -/
def State.appendToken (s : State) (k : KvKey) (slot dsel : Nat) (fk fv : FmtWord) (ala bla : Nat) : Nat × State :=
  match s.kvQ (k.head % 4) with
  | none => (kvKVOFF, s)
  | some q =>
    let nk := dimOf dsel * (entOf fk).w / 8
    let nv := dimOf dsel * (entOf fv).w / 8
    let put (s : State) (h : KvHit) : Nat × State :=
      let e := s.kvHolder q h
      if eState e == esPrefix || h.shared then (kvSHARED, s)
      else if slot != eNtok e then (kvORDER, s)
      else
        let pa := h.pa q
        let s := (s.writeRow ala (pa + slot * nk) nk).writeRow bla (pa + 0x2000 + slot * nv) nv
        (kvOK, s.setKvHolder q h (eSetNtok e (slot + 1)))
    if s.seqParked k.vf k.seq then (kvPARKED, s)
    else match s.kvLookup q k with
      | none =>
        if slot != 0 then (kvORDER, s)
        else match s.placeBlock q k true 0 1 false with
          | (.error st, s) => (st, s)
          | (.ok j, s) => put s ⟨0, j, none, none, false⟩
      | some h => if h.tier == 2 then (kvCOLD, s) else put s h

/-- Whether a KVAPP meets a block that is being moved: it is held until the switch (R106). -/
def State.kvMoving (s : State) (k : KvKey) : Bool :=
  match s.kvQ (k.head % 4) with
  | none => false
  | some q =>
    match s.kvLookup q k with
    | some h => !s.seqParked k.vf k.seq && eMig (s.kvHolder q h)
    | none => false

/-- Whether a KVAPP's rows meet a pinned line: they are held until it is free (R87). -/
def State.kvPinned (s : State) (k : KvKey) : Bool :=
  match s.kvQ (k.head % 4) with
  | none => false
  | some q =>
    match s.kvLookup q k with
    | some h => h.tier != 2 && s.c2.any fun l => l.pins != 0 && h.pa q / 64 ≤ l.pline && l.pline < h.pa q / 64 + 256
    | none => false

/-- The key of a KVAPP under way. -/
def State.kvKeyOf (s : State) (id : Nat) : Option KvKey :=
  (s.engOp id).bind fun o => match o.finished, o.act with
    | false, .kvapp _ seq head lblk _ _ _ _ _ _ => some ⟨o.asid / 1024, seq, head, lblk⟩
    | _, _ => none

/-- The KVAPPs held at their homes, in arrival order, reach them again. -/
def State.retryKv (s : State) : State :=
  let ids := s.kvWait.filter fun id => (s.kvKeyOf id).isSome
  ids.foldl (fun s id => (s.cancel (.pitchMapRequest id)).later 0 (.pitchMapRequest id)) { s with kvWait := ids }

/-- A KVAPP at its home: the rows and NTOK, then STATUS; its completion follows (R385). It is held while its block is moved
(R106) or a line of it is pinned (R87), and behind an earlier one of its key that is held (R105). -/
def State.kvAppend (s : State) (id : Nat) (o : EngOp) (req : Nat) (k : KvKey) (slot dsel : Nat) (fk fv : FmtWord)
    (ala bla : Nat) : State :=
  if o.finished || o.low != 0 then s
  else
    let earlier := s.kvWait.takeWhile (· != id)
    let pinned := s.kvPinned k
    if s.kvMoving k || pinned || earlier.any fun i => s.kvKeyOf i == some k then
      let s := if s.kvWait.contains id then s else { s with kvWait := s.kvWait ++ [id] }
      if pinned then s.later 16 (.pitchMapRequest id) else s
    else
      let (st, s) := s.appendToken k slot dsel fk fv ala bla
      let s := s.stallWrite ((req - meshBase) / 65536) (req % 65536 + 31) 1 st
      let s := { s with kvWait := s.kvWait.filter (· != id) }.modOp id fun o => { o with low := 1 }
      (s.later kvHalf (.engineOpComplete id)).retryKv

/-! Instructions that wait at the home (R394): a release first, then an acquire. -/

/-- Scalar d with a status in [7:0]. -/
def kvDone (f : Form) (v : Nat) (s : State) : Res := .done (s.acquire.putS f.d.sreg (BitVec.ofNat 64 v))

/-- One alias of KVMAP (R386): taken from block `b` for a key; OK or the first failure. -/
def State.mapAlias (s : State) (q : KvQ) (k : KvKey) (b : Nat) : Nat × State :=
  match s.sharedBlock b with
  | none => (kvSTALE, s)
  | some (q', j) =>
    if q'.stack != q.stack then (kvSTALE, s)
    else if (s.kvLookup q k).isSome then (kvEXISTS, s)
    else match (s.takeRef q j).appendRec q (q.group k) (mkEntry k esAlias false 0 0 0 false) (q.index j) with
      | none => (kvOVFULL, s)
      | some s => (kvOK, s)

/-- The aliases of a list, in order, until the first failure: status and the number installed. -/
def State.mapAliases (s : State) (q : KvQ) (k : KvKey) (n : Nat) : List Nat → Nat × Nat × State
  | [] => (kvOK, n, s)
  | b :: bs =>
    match s.mapAlias q { k with lblk := (k.lblk + n) % 2 ^ 24 } b with
    | (0, s) => State.mapAliases s q k (n + 1) bs
    | (st, s) => (st, n, s)

/-- The blocks that a prefix image lists (R108). -/
def imageBlocks (image : Nat) : List Nat := (List.range (bits image 80 8)).map fun i => bits image (128 + 32 * i) 24

/-- KVMAP (R386). -/
def execKvmap (f : Form) (s : State) : Host.Outcome State Fault Refusal :=
  issueCost f 32 (fun s =>
    let w := s.me.opAddr f.b
    match readKvReq s .kvmap (s.me.opAddr f.a), readStallRec s w 64 with
    | .error e, _ => laFault s e
    | _, .error e => laFault s e
    | .ok (_, r), .ok (_, image) =>
      if bits image 80 8 == 0 || 12 < bits image 80 8 then .fault s cKVREQ w.toNat
      else asRelease (fun s =>
        match s.kvQ (r.head % 4) with
        | none => kvDone f kvKVOFF s
        | some q =>
          let (st, n, s) := s.mapAliases q ⟨s.me.vf, r.seq, r.head, r.lblk⟩ 0 (imageBlocks image)
          kvDone f (st + 256 * n) s) s) s

/-- The reference of one key dropped, with its alias record (R387): whether there was one. -/
def State.release (s : State) (q : KvQ) (k : KvKey) : Bool × State :=
  match s.kvLookup q k with
  | none => (false, s)
  | some h =>
    let s' := match h.shared, h.rec_ with
      | true, some r => s.removeRec q (q.group k) r
      | _, _ => s
    (true, s'.dropRef q h)

/-- The references of `n` blocks of one head from logical block `lb` dropped, and how many they were. -/
def State.releaseRun (s : State) (q : KvQ) (vf seq head lb cnt : Nat) : Nat → Nat × State
  | 0 => (cnt, s)
  | n + 1 =>
    let (b, s) := s.release q ⟨vf, seq, head, lb⟩
    State.releaseRun s q vf seq head (lb + 1) (cnt + b.toNat) n

/-- KVREL over its heads (R387): whether one was skipped, and the references dropped. -/
def State.releaseHeads (s : State) (vf : Nat) (r : KvReq) : Bool × Nat × State :=
  (List.range (r.nhm1 + 1)).foldl (fun (acc : Bool × Nat × State) i =>
    let (off, cnt, s) := acc
    match s.kvQ ((r.head + i) % 4) with
    | none => (true, cnt, s)
    | some q =>
      let (cnt, s) := s.releaseRun q vf r.seq (r.head + i) r.lblk cnt r.nlb
      (off, cnt, s)) (false, 0, s)

/-- KVREL (R387). -/
def execKvrel (f : Form) (s : State) : Host.Outcome State Fault Refusal :=
  issueCost f 16 (fun s =>
    match readKvReq s .kvrel (s.me.opAddr f.a) with
    | .error e => laFault s e
    | .ok (_, r) => asRelease (fun s =>
        if s.seqParked s.me.vf r.seq then kvDone f kvPARKED s
        else
          let (off, n, s) := s.releaseHeads s.me.vf r
          kvDone f ((if off then kvKVOFF else kvOK) + 256 * (n % 2 ^ 24)) s) s) s

/-! The prefix index (R108 to R110, R388). -/

/-- The places of the bucket of a hash. -/
def KvQ.bucket (q : KvQ) (phash : Nat) : List Nat :=
  let slot := phash % 2 ^ q.logpx
  (List.range 4).map fun i => q.px + 64 * (slot / 4 * 4 + i)

/-- The entry of a key in its bucket, by its place. -/
def State.pxFind (s : State) (q : KvQ) (vf head phash : Nat) : Option Nat :=
  (q.bucket phash).find? fun pa =>
    let e := s.physRead pa 64
    bits e 80 8 != 0 && bits e 0 64 == phash && bits e 64 8 == head && bits e 72 6 == vf

/-- An entry as the index keeps it: the image under the function's number, its reserved bits zero (R108). -/
def pxEntry (vf image : Nat) : Nat :=
  bits image 0 72 + vf * 2 ^ 72 + bits image 80 8 * 2 ^ 80 + bits image 96 32 * 2 ^ 96 +
    (imageBlocks image).zipIdx.foldl (fun n b => n + b.1 * 2 ^ (128 + 32 * b.2)) 0

/-- References taken on listed blocks in order; a block that is gone fails, and those taken are dropped (R109). -/
def State.takeRefs (s : State) (done : List Nat) : List Nat → Option State × State
  | [] => (some s, s)
  | b :: bs =>
    match s.sharedBlock b with
    | none => (none, s.dropRefs done)
    | some (q, j) => State.takeRefs (s.takeRef q j) (done ++ [b]) bs

/-- PXINS with b = 0 (R109): status, and the winner's entry where another holds the key. -/
def State.pxInsert (s : State) (q : KvQ) (vf image : Nat) : Nat × Option Nat × State :=
  let bs := imageBlocks image
  match s.takeRefs [] bs with
  | (none, s) => (kvSTALE, none, s)
  | (some s, _) =>
    match s.pxFind q vf (bits image 64 8) (bits image 0 64) with
    | some pa => (kvEXISTS, some (s.physRead pa 64), s.dropRefs bs)
    | none =>
      match (q.bucket (bits image 0 64)).find? fun pa => bits (s.physRead pa 64) 80 8 == 0 with
      | none => (kvPXFULL, none, s.dropRefs bs)
      | some pa =>
        let s := s.physWrite pa 64 (pxEntry vf image)
        let s := bs.foldl (fun s b =>
          match s.sharedBlock b with
          | some (q', j) => s.setMapEntry q' j (eSetState (s.mapEntry q' j) esPrefix)
          | none => s) s
        (kvOK, none, s)

/-- PXINS with b = 1 (R388): the entry removed with its references. -/
def State.pxRemove (s : State) (q : KvQ) (vf image : Nat) : Nat × State :=
  match s.pxFind q vf (bits image 64 8) (bits image 0 64) with
  | none => (kvNOTFOUND, s)
  | some pa =>
    let bs := imageBlocks (s.physRead pa 64)
    (kvOK, (s.physWrite pa 64 0).dropRefs bs)

/-- An image in stall overwritten. -/
def State.putImage (s : State) (va image : Nat) : State := s.stallWrite ((va - meshBase) / 65536) (va % 65536) 64 image

/-- PXINS (R388): b says whether it inserts or removes. -/
def pxins (f : Form) (s : State) : Res :=
  let w := s.me.opAddr f.a
  let b := (s.me.opU f.b).toNat
  if 1 < b then illegal s f 2
  else match readStallRec s w 64 with
    | .error e => laFault s e
    | .ok (va, image) =>
      if bits image 80 8 == 0 || 12 < bits image 80 8 || bits image 96 32 == 0 || 192 < bits image 96 32 then
        .fault s cKVREQ w.toNat
      else asRelease (fun s =>
        match s.kvQ (bits image 64 8 % 4) with
        | none => kvDone f kvKVOFF s
        | some q =>
          if b == 0 then
            match s.pxInsert q s.me.vf image with
            | (st, some winner, s) => kvDone f st (s.putImage va winner)
            | (st, none, s) => kvDone f st s
          else
            let (st, s) := s.pxRemove q s.me.vf image
            kvDone f st s) s

/-- PXINS with b = 0 (R109, R388); the word's b decides. -/
def execPxinsInsert (f : Form) (s : State) : Host.Outcome State Fault Refusal := issueCost f 16 (pxins f) s

/-- PXINS with b = 1 (R110, R388); the word's b decides. -/
def execPxinsRemove (f : Form) (s : State) : Host.Outcome State Fault Refusal := issueCost f 16 (pxins f) s

/-- PXGET (R388). -/
def execPxget (f : Form) (s : State) : Host.Outcome State Fault Refusal :=
  issueCost f 16 (fun s =>
    match readStallRec s (s.me.opAddr f.a) 64 with
    | .error e => laFault s e
    | .ok (va, image) => asRelease (fun s =>
        match s.kvQ (bits image 64 8 % 4) with
        | none => kvDone f kvKVOFF s
        | some q =>
          match s.pxFind q s.me.vf (bits image 64 8) (bits image 0 64) with
          | none => kvDone f kvNOTFOUND s
          | some pa => kvDone f kvOK (s.putImage va (s.physRead pa 64))) s) s

end Sys2Proof.Machine
end

