-- ==== Sys2Proof/Machine/Vector.lean ====
section
/-! DEFINITION. Vector instructions: lanes, masks, shapes and steps (spec/15_vector_instructions.md R344 to R347, R367 to
R369), and major 0x70, vector arithmetic (R348 to R351; spec/10_numbers_and_format_table.md R229, R232, R233, R239). -/
namespace Sys2Proof.Machine

/-! Lanes and masks. -/

/-- Element `i` of width `w` of a vector. -/
def lane (v : VWord) (w i : Nat) : Nat := bits v.toNat (w * i) w

/-- A vector with elements written. -/
def setLanes (v : VWord) (w : Nat) (es : List (Nat × Nat)) : VWord :=
  BitVec.ofNat 512 (es.foldl (fun x e => setBits x (w * e.1) w e.2) v.toNat)

/-- Whether a lane is active under a form's mask (R344). -/
def Ctx.active (x : Ctx) (f : Form) (i : Nat) : Bool := bit (x.mreg f.vx.mask).toNat i

/-- The active lanes below `n`. -/
def Ctx.actives (x : Ctx) (f : Form) (n : Nat) : List Nat := (List.range n).filter (x.active f)

/-- The inactive lanes below `n` that the zero policy clears (R344). -/
def Ctx.zeros (x : Ctx) (f : Form) (n : Nat) : List (Nat × Nat) :=
  if f.vx.mz then ((List.range n).filter fun i => !x.active f i).map (·, 0) else []

/-- The rounding mode of an instruction: its own, dynamic, or RNE for the reserved code (R226, R258). -/
def Ctx.roundMode (x : Ctx) (f : Form) : Nat :=
  if f.vx.rnd == 0 then fieldOf (x.srGet rFCSR) 0 3 else if f.vx.rnd == 7 then 1 else f.vx.rnd

/-- The seed of the context. -/
def Ctx.seed (x : Ctx) : Word := x.srGet rRSEED

/-- RSEED after an instruction that rounds under a mode (R229). -/
def Ctx.stepSeed (x : Ctx) (rounds : Bool) (rm : Nat) : Ctx :=
  if rounds && rm == 6 then x.srSet rRSEED (x.srGet rRSEED + 0x9E3779B97F4A7C15) else x

/-- The fallbacks of R258 for a vector instruction: whether it rounds and gives integer arithmetic results in this issue,
and whether it has a fourth operand and may iterate over a shape. -/
def vecWarn (x : Ctx) (f : Form) (rounds satOk has4 shapes : Bool) : Bool :=
  2 ≤ f.npfx || (match f.hint with | .stamp _ => true | .plain _ _ _ => false) ||
  f.vx.rnd == 7 || (f.vx.rnd != 0 && !rounds) || (f.vx.sat && !satOk) || (f.vx.op4.isSome && !has4) ||
  (f.vx.shp && !(shapes && (isShape f.d || isShape f.a || isShape f.b))) || x.strayEntry f

/-- The end of an instruction's turn with a vector instruction counted where it has been issued (R410). -/
def countVec (s : State) : Res → Res
  | .done t => .done (t.modMe (·.count 12 1))
  | .hold t w phase => .hold (if phase != 0 && ((s.me.block.map (·.phase)).getD 0 == 0) then t.modMe (·.count 12 1) else t) w phase
  | r => r

/-- Whether an instruction iterates over a shape (R367). -/
def shaped (f : Form) : Bool := f.vx.shp && (isShape f.d || isShape f.a || isShape f.b)

/-- The acting context as a vector instruction sees it: in its later steps a shape-iterated one has the entries that it read at
its issue (R234, R369). -/
def State.issued (s : State) (f : Form) : State :=
  match s.me.shapeEnt with
  | some e => if shaped f then s.modMe (·.asIssued e) else s
  | none => s

/-- A step of a shape-iterated instruction. The first reads the format table and consumes a pending FMTP, which it keeps for the
later ones (R234, R252, R369); the context's own stay as they are. -/
def shapeStep (f : Form) (body : State → Res) (s : State) : Res :=
  let x := s.me
  if !shaped f then body s
  else match x.shapeEnt with
    | none => match body s with
      | .again t => .again (t.modMe fun y =>
          { y.setStat bPFX false with shapes := y.shapes.put x.tlvl ⟨x.pc, x.ftab, x.statBit bPFX, x.srGet rPFXH⟩ })
      | r => r
    | some _ =>
      let back (t : State) : State := t.modMe fun y => { y.withFmtp (x.statBit bPFX) (x.srGet rPFXH) with ftab := x.ftab }
      match body (s.issued f) with
      | .done t => .done (back t)
      | .jump t pc => .jump (back t) pc
      | .fault t code val => .fault (back t) code val
      | .hold t w phase => .hold (back t) w phase
      | .again t => .again (back t)
      | .ended t fin => .ended (back t) fin

/-- The issue of a vector instruction with the fallbacks that apply whatever its elements are. -/
def issueVecWarn (f : Form) (cost : Nat) (warns : Bool) (body : State → Res) (s : State) : Host.Outcome State Fault Refusal :=
  issueWith f cost warns (namesEntry f) false noReport (fun s => countVec s (shapeStep f body s)) s

/-- The issue of a vector instruction. -/
def issueVec (f : Form) (cost : Nat) (body : State → Res) (s : State) : Host.Outcome State Fault Refusal :=
  issueVecWarn f cost false body s

/-- The end of an instruction's element work: flags, the seed and the fallbacks. -/
def State.vecEnd (s : State) (f : Form) (fl : FFlags) (rounds satOk has4 shapes : Bool) : State :=
  let w := vecWarn s.me f rounds satOk has4 shapes
  let rm := s.me.roundMode f
  (s.modMe fun x => (x.raise fl).stepSeed rounds rm).warnIf w

/-- The address of the failing parcel `k` of a word (R257). -/
def parcelAt (s : State) (f : Form) (k : Nat) : Nat := (s.me.pc + BitVec.ofNat 64 (4 * (f.npfx + k))).toNat

/-- ILLEGAL for a VX field, which names the prefix (R257). -/
def illegalVx (s : State) (f : Form) : Res := .fault s cILLEGAL (s.me.pc + BitVec.ofNat 64 (4 * (f.npfx - 1))).toNat

/-- A mask that selects sources: MZ = 1 raises ILLEGAL (R346). -/
def selector (f : Form) (body : State → Res) (s : State) : Res := if f.vx.mz then illegalVx s f else body s

/-! Entries of registers. -/

/-- The entry of a vector register at a position, whose number is kept for FMTUSE. -/
def vecEnt (x : Ctx) (f : Form) (p : Pos) : Except Flt Ent := plainEntry x (x.entryNo f p)

/-- FMTUSE of a position's entry where a condition fails (R233). -/
def useIf (x : Ctx) (f : Form) (p : Pos) (ok : Bool) : Except Flt Unit :=
  if ok then .ok () else .error (cFMTUSE, x.entryNo f p)

/-- The container that a scalar or a short immediate supplies in every lane (R345). -/
def Ctx.splat (x : Ctx) (o : Operand) (w : Nat) : Nat := (x.opS o).toNat % 2 ^ w

/-- The register of the fourth operand, by default D (R249, R348). -/
def fourth (f : Form) : Nat := f.vx.op4.getD f.d.num

/-! Shapes (R274, R367, R368). -/

/-- A shape record: the address of element 0, its entry, whether the address is an LA, and the sizes and strides. -/
structure Shape where
  base : Word
  fmt  : Nat
  la   : Bool
  dims : List (Nat × Int)
  deriving DecidableEq, Repr

/-- The record of 512 bits, or `none` where it breaks R274. -/
def shapeOf (raw : Nat) : Option Shape :=
  let nd := bits raw 72 3
  let dims := (List.range nd).map fun k => (bits raw (128 + 96 * k) 32, sxInt 64 (bits raw (160 + 96 * k) 64))
  if nd == 0 || 4 < nd || bits raw 69 3 != 0 || bits raw 75 5 != 0 || bits raw 81 47 != 0 || dims.any (·.1 == 0) then none
  else some ⟨BitVec.ofNat 64 (bits raw 0 64), bits raw 64 5, bit raw 80, dims⟩

/-- Elements of a shape. -/
def Shape.count (h : Shape) : Nat := h.dims.foldl (fun n d => n * d.1) 1

/-- Offset of element `i` in iteration order, dimension 0 fastest. -/
def shapeOff : List (Nat × Int) → Nat → Int
  | [], _ => 0
  | (n, st) :: rest, i => (i % n : Nat) * st + shapeOff rest (i / n)

/-- The access of element `i` of a shape of width `w` for lane `l`; the address is kept in 64 bits until it is checked. A
nibble is named by its mask (R224, R368). -/
def Shape.elem (h : Shape) (w i l data : Nat) : Elem :=
  let o := shapeOff h.dims i
  if w == 4 then
    let hi := o % 2 == 1
    ⟨l, (h.base + BitVec.ofInt 64 (o / 2)).toNat, 1, if hi then data * 16 else data, if hi then 0xF0 else 0xF⟩
  else ⟨l, (h.base + BitVec.ofInt 64 (o * (w / 8 : Nat))).toNat, w / 8, data, 2 ^ w - 1⟩

/-- The record that a shape-record pointer names (R244, R274). -/
def readShape (s : State) (o : Operand) : Except Flt Shape :=
  let w := s.me.opAddr o
  match checkLa s.cur.core w 64 64 with
  | .error e => .error e
  | .ok (c, off) =>
    match s.stallPoison c off 64 with
    | some p => .error (cPOISON, w.toNat + p - stallPa c off)
    | none =>
      match shapeOf (s.stallRead c off 64) with
      | some h => if 2 ^ 32 ≤ h.count then .error (cSHPFMT, w.toNat) else .ok h
      | none => .error (cSHPFMT, w.toNat)

/-! Accesses of elements, with addresses in 64 bits. -/

/-- The at-issue checks of every element (R353). -/
def checkElemsAt (s : State) (la : Bool) : List Elem → Except Flt Unit
  | [] => .ok ()
  | e :: es =>
    let w := BitVec.ofNat 64 e.va
    match (if la then (checkLa s.cur.core w e.size e.size).map fun _ => () else (s.checkVa s.me.vf w e.size).map fun _ => ()) with
    | .error x => .error x
    | .ok _ => checkElemsAt s la es

/-- An element read at a bank, with its poison (R89). -/
def bankElem (s : State) (e : Elem) (c o : Nat) : Except Flt Nat × State :=
  match s.stallPoison c o e.size with
  | some p => (.error (cPOISON, e.va + p - stallPa c o), s.countErr (stkOf c) 3)
  | none => (.ok (e.pick (s.stallRead c o e.size)), s)

/-- Elements read through an LA, in lane order. -/
def readLaElems (s : State) : List Elem → Except Flt (List (Nat × Nat)) × State
  | [] => (.ok [], s)
  | e :: es =>
    match checkLa s.cur.core (BitVec.ofNat 64 e.va) e.size e.size with
    | .error x => (.error x, s)
    | .ok (c, o) =>
      match bankElem s e c o with
      | (.error x, s) => (.error x, s)
      | (.ok v, s) =>
        match readLaElems s es with
        | (.error x, s) => (.error x, s)
        | (.ok vs, s) => (.ok ((e.lane, v) :: vs), s)

/-- Elements of a shape at virtual addresses, read at their homes (R354, R368; log entry 42). -/
def readVaElems (s : State) : List Elem → Except Flt (List (Nat × Nat)) × State
  | [] => (.ok [], s)
  | e :: es =>
    let x := s.me
    let one : Except Flt Nat × State :=
      match s.checkVa x.vf (BitVec.ofNat 64 e.va) e.size with
      | .error z => (.error z, s)
      | .ok (.mesh c o) => bankElem s e c o
      | .ok (.virt va) =>
        match s.homeRead ⟨s.cur.core, s.cur.ctx, x.vf⟩ x.asid va e.size .rd with
        | (.error z, s) => (.error (z, e.va), s)
        | (.ok (v, bad), s) =>
          if bad then (.error (cPOISON, e.va / 8 * 8), s.countErr (s.firstHome s.cur.core x.asid va / 64) 3)
          else (.ok (e.pick v), s)
    match one with
    | (.error z, s) => (.error z, s)
    | (.ok v, s) =>
      match readVaElems s es with
      | (.error z, s) => (.error z, s)
      | (.ok vs, s) => (.ok ((e.lane, v) :: vs), s)

/-- Whether elements of a shape at virtual addresses have to wait at their homes before they are read. -/
def State.elemsWait (s : State) (la : Bool) (es : List Elem) : Bool :=
  !la && es.any fun e => match s.checkVa s.me.vf (BitVec.ofNat 64 e.va) e.size with
    | .ok (.virt va) => s.homeWaits ⟨s.cur.core, s.cur.ctx, s.me.vf⟩ s.me.asid va .rd
    | _ => false

/-- Elements stored through an LA, in lane order (R158, R354). -/
def writeLaElems (s : State) (es : List Elem) : State :=
  es.foldl (fun s e =>
    match checkLa s.cur.core (BitVec.ofNat 64 e.va) e.size e.size with
    | .ok (c, o) =>
      match ReqOp.result .store e (s.stallRead c o e.size) with
      | some v => s.stallWrite c o e.size v
      | none => s
    | .error _ => s) s

/-- Elements stored: through an LA at once, else posted with one journal entry (R354). They have passed their checks. -/
def storeElemsAt (f : Form) (la : Bool) (es : List Elem) (fin : State → Res) (s : State) : Res :=
  if la then fin (writeLaElems s es)
  else postElems f .store (es.map fun e => { e with va := e.va % 2 ^ 56 }) { vec := true } fin s

/-- Elements stored by steps, one journal entry for each (R368): an instruction that finds fewer free entries waits. -/
def storeStepsAt (f : Form) (la : Bool) (steps : List (List Elem)) (fin : State → Res) (s : State) : Res :=
  if la then fin (writeLaElems s steps.flatten)
  else if 64 < s.myCore.journal.length + steps.length then .hold s .journal 0
  else steps.foldr (fun es k => storeElemsAt f false es k) fin s

/-- The cost of accesses (R435): 16 for each 64 bytes through an LA, 40 for each line otherwise. -/
def elemCost (la : Bool) (es : List Elem) : Nat :=
  if la then ((es.foldl (fun n e => n + e.size) 0) + 63) / 64 * 16
  else (es.map (·.va / 64)).eraseDups.length * 40

/-! Sources and destinations of shape-capable instructions. -/

/-- What an operand position supplies or takes. -/
inductive VSrc where
  | none
  | reg (r : Nat)
  | shp (h : Shape)
  /-- The same container in every lane. -/
  | val (c : Nat)
  deriving DecidableEq, Repr

/-- A position with its entry: a register, or a shape under SHP; a shape without SHP raises ILLEGAL (R367). `chk` admits
the entry by its number. -/
def vecPos (s : State) (f : Form) (p : Pos) (chk : Nat → Except Flt Ent) : Except Flt (VSrc × Ent) :=
  match p.of f with
  | .shape _ _ =>
    if !f.vx.shp then .error (cILLEGAL, parcelAt s f (if p == .b then 2 else 1))
    else match readShape s (p.of f) with
      | .error e => .error e
      | .ok h => (chk ((s.me.pfxEntry p).getD h.fmt)).map fun t => (.shp h, t)
  | o => (chk (s.me.entryNo f p)).map fun t => (.reg o.num, t)

/-- The number of the entry that a position is read or written under. -/
def posEntry (s : State) (f : Form) (p : Pos) : Nat :=
  match p.of f with
  | .shape _ _ => match readShape s (p.of f) with
    | .ok h => (s.me.pfxEntry p).getD h.fmt
    | .error _ => 0
  | _ => s.me.entryNo f p

/-- Elements of a source for some lanes of a step: `l` is the lane, element `step * m + l` of a shape. -/
def VSrc.elems (v : VSrc) (w step m : Nat) (ls : List Nat) : List Elem :=
  match v with
  | .shp h => ls.map fun l => h.elem w (step * m + l) l 0
  | _ => []

/-- Whether a source lies in memory at virtual addresses. -/
def VSrc.isVa : VSrc → Bool
  | .shp h => !h.la
  | _ => false

/-- Whether a source is a shape through an LA. -/
def VSrc.isLa : VSrc → Bool
  | .shp h => h.la
  | _ => false

/-- The number of elements of a shape operand. -/
def VSrc.count : VSrc → Option Nat
  | .shp h => some h.count
  | _ => Option.none

/-- The containers of a source by lane: `idx` is the register lane that lane `l` reads. -/
def VSrc.read (v : VSrc) (s : State) (w step m : Nat) (idx : Nat → Nat) (ls : List Nat) :
    Except Flt (List (Nat × Nat)) × State :=
  match v with
  | .none => (.ok (ls.map (·, 0)), s)
  | .reg r => (.ok (ls.map fun l => (l, lane (s.me.vreg r) w (idx l))), s)
  | .val c => (.ok (ls.map (·, c)), s)
  | .shp h =>
    let es := VSrc.elems (.shp h) w step m ls
    if h.la then readLaElems s es else readVaElems s es

/-- One shape-capable instruction as it stands at issue: destination, sources, entries, lanes of a step, the element
count of its shapes, and the register lanes that a lane reads and writes. -/
structure Plan where
  d  : VSrc
  a  : VSrc
  b  : VSrc
  c  : VSrc
  ed : Ent
  ea : Ent
  eb : Ent
  m  : Nat
  n  : Option Nat
  di : Nat → Nat
  ai : Nat → Nat

/-- The common count of the shapes of an instruction, or SHPFMT (R368). -/
def shapeCount (s : State) (f : Form) (vs : List VSrc) : Except Flt (Option Nat) :=
  let ns := vs.filterMap VSrc.count
  match ns with
  | [] => .ok none
  | n :: rest =>
    if rest.all (· == n) then .ok (some n)
    else .error (cSHPFMT, (s.me.opAddr (if isShape f.d then f.d else if isShape f.a then f.a else f.b)).toNat)

/-- The step at hand and the number of steps (R369). -/
def Plan.step (p : Plan) (s : State) : Nat := if p.n.isSome then fieldOf (s.me.srGet rSHIX) 0 32 else 0
def Plan.steps (p : Plan) : Nat := match p.n with
  | some n => (n + p.m - 1) / p.m
  | none => 1

/-- Whether a lane of the step at hand is active: the mask governs lane `l` of a step, or the destination's element in
the register form (R344, R356, R368). -/
def Plan.lanes (p : Plan) (f : Form) (s : State) : List Nat :=
  match p.n with
  | some n => (List.range p.m).filter fun l => s.me.active f l && p.step s * p.m + l < n
  | none => (List.range p.m).filter fun l => s.me.active f (p.di l)

/-- The number of a lane's element for RSTO (R229). -/
def Plan.elemNo (p : Plan) (s : State) (l : Nat) : Nat := if p.n.isSome then p.step s * p.m + l else p.di l

/-- The cost of the accesses of the step at hand. -/
def Plan.memCost (p : Plan) (f : Form) (s : State) : Nat :=
  let ls := p.lanes f s
  let one (v : VSrc) (w : Nat) : Nat := match v with
    | .shp h => elemCost h.la (v.elems w (p.step s) p.m ls)
    | _ => 0
  one p.d p.ed.w + one p.a p.ea.w + one p.b p.eb.w + (match f.vx.op4 with
    | some _ => 0
    | none => one p.c p.ed.w)

/-- What one element gives, from its number and the containers of A, B and the fourth operand. -/
abbrev Calc := Nat → Nat → Nat → Nat → Nat × FFlags

/-- The completion of a shape-capable instruction: SHIX is cleared where it has iterated (R369). -/
def Plan.finish (p : Plan) (f : Form) (rounds satOk has4 : Bool) (s : State) : Res :=
  let s := s.vecEnd f FFlags.none rounds satOk has4 true
  .done (if p.n.isSome then s.modMe (·.srSet rSHIX 0) else s)

/-- The end of a step: the next one follows at the next issue, or the instruction completes (R369). -/
def Plan.next (p : Plan) (f : Form) (fl : FFlags) (rounds satOk has4 : Bool) (s : State) : Res :=
  let s := s.modMe (·.raise fl)
  if p.step s + 1 < p.steps then .again (s.modMe (·.srSet rSHIX (BitVec.ofNat 64 (p.step s + 1))))
  else p.finish f rounds satOk has4 s

/-- The value of a lane in a list of lanes. -/
def laneVal (vs : List (Nat × Nat)) (l : Nat) : Nat := ((vs.find? (·.1 == l)).map (·.2)).getD 0

/-- The elements of a destination shape with their data. -/
def Shape.stores (h : Shape) (w step m : Nat) (rs : List (Nat × Nat)) : List Elem :=
  rs.map fun r => h.elem w (step * m + r.1) r.1 r.2

/-- One step: every address is checked, the sources are read, the elements computed and the destination written (R353,
R368). Sources at virtual addresses wait for the context's own stores. -/
def Plan.run (p : Plan) (f : Form) (rounds satOk has4 : Bool) (elem : Calc) (s : State) : Res :=
  let k := p.step s
  if p.n.isSome && p.steps ≤ k then p.finish f rounds satOk has4 s
  else
    let ls := p.lanes f s
    let chk (v : VSrc) (w : Nat) : Except Flt Unit := checkElemsAt s v.isLa (v.elems w k p.m ls)
    match chk p.a p.ea.w, chk p.b p.eb.w, chk p.c p.ed.w, chk p.d p.ed.w with
    | .error e, _, _, _ => laFault s e
    | _, .error e, _, _ => laFault s e
    | _, _, .error e, _ => laFault s e
    | _, _, _, .error e => laFault s e
    | .ok _, .ok _, .ok _, .ok _ =>
      if (p.a.isVa || p.b.isVa || p.c.isVa) && s.myCore.storesOut s.cur.ctx then .hold s .acks 0
      else if [(p.a, p.ea.w), (p.b, p.eb.w), (p.c, p.ed.w)].any fun v => s.elemsWait v.1.isLa (v.1.elems v.2 k p.m ls) then
        .hold s .pins 0
      else match p.a.read s p.ea.w k p.m p.ai ls with
        | (.error e, s) => .fault s e.1 e.2
        | (.ok av, s) =>
          match p.b.read s p.eb.w k p.m id ls with
          | (.error e, s) => .fault s e.1 e.2
          | (.ok bv, s) =>
            match p.c.read s p.ed.w k p.m id ls with
            | (.error e, s) => .fault s e.1 e.2
            | (.ok cv, s) =>
              let out := ls.map fun l => (l, elem (p.elemNo s l) (laneVal av l) (laneVal bv l) (laneVal cv l))
              let fl := out.foldl (fun g o => g.or o.2.2) FFlags.none
              let rs := out.map fun o => (o.1, o.2.1)
              match p.d with
              | .shp h => storeElemsAt f h.la (h.stores p.ed.w k p.m rs) (p.next f fl rounds satOk has4) s
              | .reg r =>
                let off := if f.vx.mz then ((List.range p.m).filter fun l => !ls.contains l).map fun l => (p.di l, 0) else []
                p.next f fl rounds satOk has4
                  (s.modMe fun x => x.setV r (setLanes (x.vreg r) p.ed.w (off ++ rs.map fun o => (p.di o.1, o.2))))
              | _ => p.next f fl rounds satOk has4 s

/-! Element arithmetic. -/

/-- The arithmetic of major 0x70 by function number (R348). -/
inductive VFun where
  | add | sub | mul | fma | fms | fnma | min | max | abs | neg | and | or | xor | shl | shr | sar
  deriving DecidableEq, Repr

/-- Whether a function is bitwise, a shift, or has a fourth operand. -/
def VFun.isBitwise : VFun → Bool
  | .and => true
  | .or => true
  | .xor => true
  | _ => false
def VFun.isShift : VFun → Bool
  | .shl => true
  | .shr => true
  | .sar => true
  | _ => false
def VFun.has4 : VFun → Bool
  | .fma => true
  | .fms => true
  | .fnma => true
  | _ => false
def VFun.hasB : VFun → Bool
  | .abs => false
  | .neg => false
  | _ => true

/-- The integer forms (R349): exact, then wrapped or saturated (R346). -/
def intFun (fn : VFun) (ed ea eb : Ent) (sat : Bool) (a b c : Nat) : Nat × FFlags :=
  let w := ed.w
  let x := ea.decodeInt a
  let y := eb.decodeInt b
  let z := ed.decodeInt c
  match fn with
  | .add => ed.putInt sat (x + y)
  | .sub => ed.putInt sat (x - y)
  | .mul => ed.putInt sat (x * y)
  | .fma => ed.putInt sat (x * y + z)
  | .fms => ed.putInt sat (x * y - z)
  | .fnma => ed.putInt sat (-(x * y) + z)
  | .min => ed.putInt sat (if y < x then y else x)
  | .max => ed.putInt sat (if x < y then y else x)
  | .abs => ed.putInt sat x.natAbs
  | .neg => if ed.sgn then ed.putInt sat (-x) else ed.satInt (-x)
  | .and => (a.land b, FFlags.none)
  | .or => (a.lor b, FFlags.none)
  | .xor => (a.xor b, FFlags.none)
  | .shl => ed.putInt sat (x * 2 ^ min b (w + 1))
  | .shr => (if b < w then a / 2 ^ b else 0, FFlags.none)
  | .sar =>
    if ea.sgn then (wrapNat w (x / 2 ^ min b (w - 1)), FFlags.none)
    else (if b < w then a / 2 ^ b else 0, FFlags.none)

/-- The order of min and max: −0 below +0 (R232). -/
def minMax (want : Bool) (a b : Val) : Val :=
  let c := if a.isZero && b.isZero then (if a.neg && !b.neg then -1 else if b.neg && !a.neg then 1 else 0) else cmpVals a b
  if want then (if c < 0 then b else a) else (if c ≤ 0 then a else b)

/-- A product with an addend, signs already applied (R232): the NaN rule takes A, B and the addend as they were read. -/
def fusedVals (rdn : Bool) (a b c : Val) (negp negc : Bool) : Val × FFlags :=
  let bad := (a.isInf && b.isZero) || (a.isZero && b.isInf)
  match firstNan [a, b, c] with
  | some v => (v, { sigFlags [a, b, c] with nv := (sigFlags [a, b, c]).nv || bad })
  | none =>
    match mulVals a b with
    | none => (.dnan, { FFlags.none with nv := true })
    | some p => sumVals rdn [if negp then p.negate else p, if negc then c.negate else c]

/-- The floating-point forms (R232, R349), exact. -/
def floatFun (fn : VFun) (rdn : Bool) (a b c : Val) : Val × FFlags :=
  let two (k : Val × FFlags) : Val × FFlags := match firstNan [a, b] with
    | some v => (v, sigFlags [a, b])
    | none => k
  let pick (want : Bool) : Val × FFlags :=
    if a.isNan && b.isNan then two (a, FFlags.none)
    else if a.isNan then (b, sigFlags [a])
    else if b.isNan then (a, sigFlags [b])
    else (minMax want a b, FFlags.none)
  match fn with
  | .add => two (sumVals rdn [a, b])
  | .sub => two (sumVals rdn [a, b.negate])
  | .mul => two (match mulVals a b with
    | some v => (v, FFlags.none)
    | none => (.dnan, { FFlags.none with nv := true }))
  | .fma => fusedVals rdn a b c false false
  | .fms => fusedVals rdn a b c false true
  | .fnma => fusedVals rdn a b c true false
  | .min => pick false
  | .max => pick true
  | .abs => (a.withSign false, FFlags.none)
  | .neg => (a.negate, FFlags.none)
  | _ => (a, FFlags.none)

/-- One element of an arithmetic instruction (R349). -/
def arithCalc (fn : VFun) (ed ea eb : Ent) (sat : Bool) (rm : Nat) (seed : Word) : Calc := fun j a b c =>
  if ed.int then intFun fn ed ea eb sat a b c
  else
    let (v, e1) := floatFun fn (rm == 4) (ea.decode a) (eb.decode b) (ed.decode c)
    let (r, e2) := ed.encode rm (rstoBits seed j) v
    (r, e1.or e2)

/-- The operands of an arithmetic instruction: valid entries of one width, all POL 3 or none (R233, R345, R349). -/
def arithPlan (fn : VFun) (f : Form) (s : State) : Except Flt Plan :=
  let x := s.me
  match vecPos s f .d (plainEntry x), vecPos s f .a (plainEntry x) with
  | .error e, _ => .error e
  | _, .error e => .error e
  | .ok (d, ed), .ok (a, ea) =>
    let bpos : Except Flt (VSrc × Ent) :=
      match f.b with
      | .none => .ok (.none, ea)
      | .scalar _ => .ok (.val (x.splat f.b ea.w), ea)
      | .imm _ _ => .ok (.val (x.splat f.b ea.w), ea)
      | _ => vecPos s f .b (plainEntry x)
    match bpos with
    | .error e => .error e
    | .ok (b, eb) =>
      let int := fn.isBitwise || fn.isShift || ed.int
      if int && !ed.int then .error (cFMTUSE, posEntry s f .d)
      else if ea.w != ed.w || ea.int != ed.int then .error (cFMTUSE, posEntry s f .a)
      else if eb.w != ed.w || eb.int != ed.int then .error (cFMTUSE, posEntry s f .b)
      else
        let c : VSrc := if !fn.has4 then .none else match f.vx.op4 with
          | some r => .reg r
          | none => d
        match shapeCount s f [d, a, b] with
        | .error e => .error e
        | .ok n => .ok ⟨d, a, b, c, ed, ea, eb, ed.lanes, n, id, id⟩

/-- An arithmetic instruction. -/
def vecArith (fn : VFun) (f : Form) (s : State) : Host.Outcome State Fault Refusal :=
  let plan := arithPlan fn f (s.issued f)
  let cost := match plan with
    | .ok p => (if p.ed.int then 12 else 24) + p.memCost f s
    | .error _ => 12
  issueVec f cost (fun s =>
    match plan with
    | .error e => laFault s e
    | .ok p =>
      p.run f (!p.ed.int) p.ed.int fn.has4
        (arithCalc fn p.ed p.ea p.eb f.vx.sat (s.me.roundMode f) s.me.seed) s) s

/-- VADD (R349). -/
def execVadd (f : Form) (s : State) : Host.Outcome State Fault Refusal := vecArith .add f s
/-- VSUB (R349). -/
def execVsub (f : Form) (s : State) : Host.Outcome State Fault Refusal := vecArith .sub f s
/-- VMUL (R349). -/
def execVmul (f : Form) (s : State) : Host.Outcome State Fault Refusal := vecArith .mul f s
/-- VFMA (R349). -/
def execVfma (f : Form) (s : State) : Host.Outcome State Fault Refusal := vecArith .fma f s
/-- VFMS (R349). -/
def execVfms (f : Form) (s : State) : Host.Outcome State Fault Refusal := vecArith .fms f s
/-- VFNMA (R349). -/
def execVfnma (f : Form) (s : State) : Host.Outcome State Fault Refusal := vecArith .fnma f s
/-- VMIN (R349). -/
def execVmin (f : Form) (s : State) : Host.Outcome State Fault Refusal := vecArith .min f s
/-- VMAX (R349). -/
def execVmax (f : Form) (s : State) : Host.Outcome State Fault Refusal := vecArith .max f s
/-- VABS (R349). -/
def execVabs (f : Form) (s : State) : Host.Outcome State Fault Refusal := vecArith .abs f s
/-- VNEG (R349). -/
def execVneg (f : Form) (s : State) : Host.Outcome State Fault Refusal := vecArith .neg f s
/-- VAND (R349). -/
def execVand (f : Form) (s : State) : Host.Outcome State Fault Refusal := vecArith .and f s
/-- VOR (R349). -/
def execVor (f : Form) (s : State) : Host.Outcome State Fault Refusal := vecArith .or f s
/-- VXOR (R349). -/
def execVxor (f : Form) (s : State) : Host.Outcome State Fault Refusal := vecArith .xor f s
/-- VSHL (R349). -/
def execVshl (f : Form) (s : State) : Host.Outcome State Fault Refusal := vecArith .shl f s
/-- VSHR (R349). -/
def execVshr (f : Form) (s : State) : Host.Outcome State Fault Refusal := vecArith .shr f s
/-- VSAR (R349). -/
def execVsar (f : Form) (s : State) : Host.Outcome State Fault Refusal := vecArith .sar f s

/-! VCMP, VSEL and VDOT. -/

/-- A comparison of floating-point values under a condition code (R232, R248). -/
def cmpFloat (cc : Nat) (a b : Val) : Bool × FFlags :=
  if a.isNan || b.isNan then (cc == 1, if cc ≤ 1 then sigFlags [a, b] else { FFlags.none with nv := true })
  else
    let o := cmpVals a b
    (match if 6 ≤ cc then cc - 4 else cc with
      | 0 => o == 0
      | 1 => o != 0
      | 2 => o < 0
      | 3 => o ≤ 0
      | 4 => 0 < o
      | _ => 0 ≤ o, FFlags.none)

/-- A comparison of integers, by value, or by container bits for LO to HS (R350). -/
def cmpInt (cc : Nat) (ea eb : Ent) (a b : Nat) : Bool :=
  let x : Int := if 6 ≤ cc then a else ea.decodeInt a
  let y : Int := if 6 ≤ cc then b else eb.decodeInt b
  match if 6 ≤ cc then cc - 4 else cc with
  | 0 => x == y
  | 1 => x != y
  | 2 => x < y
  | 3 => x ≤ y
  | 4 => y < x
  | _ => y ≤ x

/-- The containers of B: a vector under its own entry, or one value in A's entry (R345). -/
def vecB (x : Ctx) (f : Form) (ea : Ent) : Except Flt (Ent × (Nat → Nat)) :=
  match f.b with
  | .vec r _ => (vecEnt x f .b).map fun e => (e, lane (x.vreg r) e.w)
  | o => .ok (ea, fun _ => x.splat o ea.w)

/-- A mask with bits written below `n` and cleared above (R350). -/
def maskBits (old : MaskWord) (n : Nat) (bs : List (Nat × Bool)) : MaskWord :=
  BitVec.ofNat 128 (bs.foldl (fun m b => setBits m b.1 1 b.2.toNat) (old.toNat % 2 ^ n))

/-- VCMP (R350). -/
def execVcmp (f : Form) (s : State) : Host.Outcome State Fault Refusal :=
  issueVec f 12 (fun s =>
    let x := s.me
    match vecEnt x f .a with
    | .error e => laFault s e
    | .ok ea =>
      match vecB x f ea with
      | .error e => laFault s e
      | .ok (eb, bv) =>
        if eb.w != ea.w || eb.int != ea.int then .fault s cFMTUSE (x.entryNo f .b)
        else
          let n := ea.lanes
          let cc := f.d.cc
          let one (i : Nat) : Bool × FFlags :=
            let a := lane (x.vreg f.a.num) ea.w i
            if ea.int then (cmpInt cc ea eb a (bv i), FFlags.none) else cmpFloat cc (ea.decode a) (eb.decode (bv i))
          let out := (x.actives f n).map fun i => (i, one i)
          let fl := out.foldl (fun g o => g.or o.2.2) FFlags.none
          let old := if f.vx.mz then 0 else x.mreg f.d.num
          let s := s.modMe (·.setM f.d.num (maskBits old n (out.map fun o => (o.1, o.2.1))))
          .done ((s.vecEnd f fl false false false false).warnIf (6 ≤ cc && !ea.int))) s

/-- Entries of D, A and B, of one width and one kind (R345, R349). -/
def threeEnts (x : Ctx) (f : Form) : Except Flt (Ent × Ent × Ent) :=
  match vecEnt x f .d, vecEnt x f .a, vecEnt x f .b with
  | .error e, _, _ => .error e
  | _, .error e, _ => .error e
  | _, _, .error e => .error e
  | .ok d, .ok a, .ok b =>
    if a.w != d.w || a.int != d.int then .error (cFMTUSE, x.entryNo f .a)
    else if b.w != d.w || b.int != d.int then .error (cFMTUSE, x.entryNo f .b)
    else .ok (d, a, b)

/-- VSEL (R351). -/
def execVsel (f : Form) (s : State) : Host.Outcome State Fault Refusal :=
  issueVec f 12 (selector f fun s =>
    let x := s.me
    match threeEnts x f with
    | .error e => laFault s e
    | .ok (d, _, _) =>
      let es := (List.range d.lanes).map fun i =>
        (i, lane (if x.active f i then x.vreg f.a.num else x.vreg f.b.num) d.w i)
      .done ((s.modMe fun x => x.setV f.d.num (setLanes (x.vreg f.d.num) d.w es)).vecEnd f FFlags.none false false false false)) s

/-- The sum of products and an addend, exact (R239, R351). -/
def dotVals (rdn : Bool) (as bs : List Val) (c : Val) : Val × FFlags :=
  let all := as ++ bs ++ [c]
  match firstNan all with
  | some v => (v, sigFlags all)
  | none =>
    let ps := (as.zip bs).map fun p => mulVals p.1 p.2
    if ps.any Option.isNone then (.dnan, { FFlags.none with nv := true })
    else sumVals rdn (ps.filterMap id ++ [c])

/-- VDOT (R351). -/
def execVdot (f : Form) (s : State) : Host.Outcome State Fault Refusal :=
  issueVec f 24 (fun s =>
    let x := s.me
    match vecEnt x f .d, vecEnt x f .a, vecEnt x f .b with
    | .error e, _, _ => laFault s e
    | _, .error e, _ => laFault s e
    | _, _, .error e => laFault s e
    | .ok d, .ok a, .ok b =>
      if d.w < a.w || a.int != d.int then .fault s cFMTUSE (x.entryNo f .a)
      else if b.w != a.w || b.int != d.int then .fault s cFMTUSE (x.entryNo f .b)
      else
        let r := d.w / a.w
        let rm := x.roundMode f
        let one (i : Nat) : Nat × FFlags :=
          let ks := (List.range r).map (r * i + ·)
          let c := lane (x.vreg (fourth f)) d.w i
          if d.int then
            d.putInt f.vx.sat (ks.foldl (fun t k =>
              t + a.decodeInt (lane (x.vreg f.a.num) a.w k) * b.decodeInt (lane (x.vreg f.b.num) b.w k)) (d.decodeInt c))
          else
            let (v, e1) := dotVals (rm == 4) (ks.map fun k => a.decode (lane (x.vreg f.a.num) a.w k))
              (ks.map fun k => b.decode (lane (x.vreg f.b.num) b.w k)) (d.decode c)
            let (z, e2) := d.encode rm (rstoBits x.seed i) v
            (z, e1.or e2)
        let out := (x.actives f d.lanes).map fun i => (i, one i)
        let fl := out.foldl (fun g o => g.or o.2.2) FFlags.none
        let es := x.zeros f d.lanes ++ out.map fun o => (o.1, o.2.1)
        .done ((s.modMe fun x => x.setV f.d.num (setLanes (x.vreg f.d.num) d.w es)).vecEnd f fl (!d.int) d.int true false)) s

end Sys2Proof.Machine
end

