-- ==== Sys2Proof/Machine/Quant.lean ====
section
/-! DEFINITION. Block-4 data: VQUANT and VDEQ (spec/15_vector_instructions.md R359 to R361, R369;
spec/10_numbers_and_format_table.md R236 to R238). -/
namespace Sys2Proof.Machine

/-! Codes (R236). Twice the value of a code is an integer. -/

/-- Twice the value of a code of a type. -/
def codeTwice (t c : Nat) : Int :=
  let c := c % 16
  match t with
  | 0 => 2 * sxInt 4 c
  | 1 =>
    let m : Int := ([0, 1, 2, 3, 4, 6, 8, 12] : List Int).getD (c % 8) 0
    if 8 ≤ c then -m else m
  | 2 => if c % 8 == 0 then 0 else (if 8 ≤ c then -1 else 1) * 2 ^ (c % 8)
  | _ => if c < 8 then 2 * (c : Int) else (if bit c 2 then -1 else 1) * 2 ^ (5 + c % 4)

/-- The value of a code under a block's type and scale exponent, in an entry of bias `bias` (R236). -/
def codeVal (bias : Int) (t xexp c : Nat) : Val :=
  let q := codeTwice t c
  let neg := q < 0 || ((t == 1 || t == 2) && 8 ≤ c % 16)
  Val.mk neg q.natAbs (xexp - bias - 1)

/-- The limits of a type, doubled and without sign: below and above zero (R237). -/
def typeMin (t : Nat) : Nat := ([16, 12, 128, 256] : List Nat).getD t 0
def typeMax (t : Nat) : Nat := ([14, 12, 128, 256] : List Nat).getD t 0

/-- The magnitudes, doubled, that a type has on one side of zero, rising, each with its code. -/
def typeMags (t : Nat) (neg : Bool) : List (Nat × Nat) :=
  match t, neg with
  | 0, false => (List.range 8).map fun c => (2 * c, c)
  | 0, true => (0, 0) :: (List.range 8).map fun c => (2 * (c + 1), 15 - c)
  | 1, n => ([0, 1, 2, 3, 4, 6, 8, 12] : List Nat).zipIdx.map fun p => (p.1, p.2 + (if n then 8 else 0))
  | 2, n => (0, if n then 8 else 0) :: (List.range 7).map fun k => (2 ^ (k + 1), k + 1 + (if n then 8 else 0))
  | _, false => ((List.range 8).map fun c => (2 * c, c)) ++ (List.range 4).map fun k => (2 ^ (5 + k), 8 + k)
  | _, true => (0, 0) :: (List.range 4).map fun k => (2 ^ (5 + k), 12 + k)

/-- An element as VQUANT takes it: its sign and magnitude m × 2^x (R237). A NaN is zero, with NV; ±∞ is the largest FP32
magnitude. -/
structure QElem where
  neg : Bool
  m   : Nat
  x   : Int
  nan : Bool
  deriving DecidableEq, Repr

/-- The element of a value. -/
def qElem : Val → QElem
  | .nan _ _ _ _ => ⟨false, 0, 0, true⟩
  | .zero n => ⟨n, 0, 0, false⟩
  | .inf n => ⟨n, 2 ^ 24 - 1, 104, false⟩
  | .fin n m x _ => ⟨n, m, x, false⟩

/-- The binade of an element, or `none` for a zero or NaN. -/
def QElem.binade (e : QElem) : Option Int := if e.m == 0 then none else some (Machine.binade e.m e.x)

/-- How many elements of a list belong to the block that its first one starts: at most 64, with binades within T (R237). -/
def blockLen (t : Nat) : List QElem → Nat → Option (Int × Int) → Nat
  | [], n, _ => n
  | e :: rest, n, range =>
    if n == 64 then n
    else match e.binade, range with
      | none, _ => blockLen t rest (n + 1) range
      | some b, none => blockLen t rest (n + 1) (some (b, b))
      | some b, some (lo, hi) =>
        let lo := min lo b
        let hi := max hi b
        if (t : Int) < hi - lo then n else blockLen t rest (n + 1) (some (lo, hi))

/-- Whether every element fits a type's limits at a scale exponent (R237). -/
def fitsScale (bias : Int) (t xexp : Nat) (es : List QElem) : Bool :=
  es.all fun e => e.m == 0 || !magGt e.m e.x (if e.neg then typeMin t else typeMax t) (xexp - bias - 1)

/-- The scale exponent of a block under a type (R237). -/
def scaleExp (bias : Int) (t : Nat) (es : List QElem) : Nat :=
  if es.all (·.m == 0) then 0 else ((List.range 64).find? fun k => fitsScale bias t k es).getD 63

/-- The code of an element under a type and a scale (R226, R237), with its events; `j` is its number for RSTO. -/
def codeOf (bias : Int) (t xexp rm : Nat) (seed : Word) (j : Nat) (e : QElem) : Nat × FFlags :=
  if e.nan then (0, { FFlags.none with nv := true })
  else
    let mags := typeMags t e.neg
    let unit : Int := xexp - bias - 1
    if e.m == 0 then ((mags.headD (0, 0)).2, FFlags.none)
    else
      let below := mags.filter fun p => !magGt p.1 unit e.m e.x
      let lo := below.getLastD (0, 0)
      match mags.find? fun p => magGt p.1 unit e.m e.x with
      | none => (lo.2, { FFlags.none with sat := magGt e.m e.x lo.1 unit, nx := magGt e.m e.x lo.1 unit })
      | some hi =>
        let b := min e.x unit
        let v := e.m * 2 ^ (e.x - b).toNat - lo.1 * 2 ^ (unit - b).toNat
        let gap := (hi.1 - lo.1) * 2 ^ (unit - b).toNat
        if v == 0 then (lo.2, FFlags.none)
        else
          let c := if 2 * v < gap then 1 else if 2 * v == gap then 2 else 3
          let up :=
            if rm == 1 && c == 2 && lo.2 % 2 == 0 && hi.2 % 2 == 0 then Config.hybridTie
            else roundsUp rm e.neg (lo.2 % 2 == 1) c (v * 2 ^ 24 / gap) (rstoBits seed j)
          (if up then hi.2 else lo.2, { FFlags.none with nx := true })

/-- The exponent at which the errors of a block are summed: below every element and every scale. -/
def errExp (bias : Int) (es : List QElem) : Int := es.foldl (fun b e => if e.m == 0 then b else min b e.x) (-bias - 1)

/-- The summed error of a block's codes (R237), in units of 2^b. -/
def blockErr (bias : Int) (t xexp : Nat) (b : Int) (es : List QElem) (cs : List Nat) : Nat :=
  (es.zip cs).foldl (fun n p =>
    let v : Int := (if p.1.neg then -1 else 1) * (p.1.m * 2 ^ (p.1.x - b).toNat : Nat)
    let q : Int := codeTwice t p.2 * (2 ^ (xexp - bias - 1 - b).toNat : Nat)
    n + (v - q).natAbs) 0

/-- A block quantised: its type, scale exponent, codes and events (R237). Type 4 chooses the least error, the lower code
on a tie. `j` is the number of its first element. -/
def quantBlock (bias : Int) (ty rm : Nat) (seed : Word) (j : Nat) (es : List QElem) : Nat × Nat × List Nat × FFlags :=
  let one (t : Nat) : Nat × Nat × List Nat × FFlags :=
    let k := scaleExp bias t es
    let cs := es.zipIdx.map fun p => codeOf bias t k rm seed (j + p.2) p.1
    (t, k, cs.map (·.1), cs.foldl (fun g c => g.or c.2) FFlags.none)
  if ty < 4 then one ty
  else
    let b := errExp bias es
    let err (r : Nat × Nat × List Nat × FFlags) : Nat := blockErr bias r.1 r.2.1 b es r.2.2.1
    ([1, 2, 3] : List Nat).foldl (fun best t => let r := one t; if err r < err best then r else best) (one 0)

/-! The descriptor and the side area (R359). -/

/-- A descriptor's fields. -/
structure QDesc where
  t    : Nat
  ty   : Nat
  part : Nat
  side : Nat
  warn : Bool
  deriving DecidableEq, Repr

/-- The descriptor of a 64-bit value for a float operand of `n` lanes, or QDESC (R359). -/
def qDesc (v : Word) (n : Nat) (shaped : Bool) : Except Flt QDesc :=
  let b := v.toNat
  let part := bits b 8 6
  let ty := bits b 4 3
  if bit b 7 || bits b 14 10 != 0 || bits b 48 16 != 0 || 128 / n ≤ part || (shaped && part != 0) then .error (cQDESC, b)
  else .ok ⟨bits b 0 4, min ty 4, part, bits b 24 24, 5 ≤ ty⟩

/-- Where a byte of the side area lies; an area may run on from one stall of the super-group window to the next. -/
def sideAt (core la : Nat) : Except Flt (Nat × Nat) := checkLa core (BitVec.ofNat 64 la) 1 1

/-- Bytes of the side area read, or POISON. -/
def readSide (s : State) (la : Nat) : Nat → Except Flt Nat
  | 0 => .ok 0
  | n + 1 =>
    match sideAt s.cur.core la with
    | .error e => .error e
    | .ok (c, o) =>
      if (s.stallPoison c o 1).isSome then .error (cPOISON, la / 4 * 4)
      else (readSide s (la + 1) n).map fun v => s.stallRead c o 1 + 256 * v

/-- Bytes of the side area written. -/
def writeSide (s : State) (la : Nat) (v : Nat) : Nat → State
  | 0 => s
  | n + 1 =>
    match sideAt s.cur.core la with
    | .error _ => s
    | .ok (c, o) => writeSide (s.stallWrite c o 1 v) (la + 1) (v / 256) n

/-- Bytes of a bitmap for `n` elements: those of 128 codes in the register form (R359). -/
def bitmapBytes (n : Option Nat) : Nat := match n with
  | some n => (n + 127) / 128 * 16
  | none => 16

/-- The checks of the side area: its address, and that its last byte lies in a window too (R359). -/
def checkSide (s : State) (q : QDesc) (n : Option Nat) : Except Flt Unit :=
  match checkLa s.cur.core (BitVec.ofNat 64 q.side) 1 16 with
  | .error e => .error e
  | .ok _ =>
    (sideAt s.cur.core (q.side + bitmapBytes n + (match n with
      | some n => n
      | none => 128) - 1)).map fun _ => ()

/-- Block starts among elements `i` to `i + fuel - 1`, where the block at hand already holds `k` elements (R236). -/
def startsFrom (bm i k : Nat) : Nat → List Nat
  | 0 => []
  | fuel + 1 =>
    if i == 0 || bit bm i || k == 64 then i :: startsFrom bm (i + 1) 1 fuel else startsFrom bm (i + 1) (k + 1) fuel

/-- The block starts among the first `n` elements. -/
def blockStarts (bm n : Nat) : List Nat := startsFrom bm 0 0 n

/-! The operands of VQUANT and VDEQ. -/

/-- One VQUANT or VDEQ at issue: the float position, the code position, their entries, the descriptor, the element count of
its shapes and the lanes of a step. -/
structure QPlan where
  flt  : VSrc
  code : VSrc
  ef   : Ent
  bias : Int
  q    : QDesc
  n    : Option Nat
  m    : Nat
  quant : Bool

/-- A POL 5 entry (R233, R360). -/
def blockEntry (x : Ctx) (e : Nat) : Except Flt Ent :=
  match validEntry x e with
  | .error z => .error z
  | .ok t => if t.pol == 5 then .ok t else .error (cFMTUSE, e)

/-- A floating-point entry (R360). -/
def floatEntry (x : Ctx) (e : Nat) : Except Flt Ent :=
  match plainEntry x e with
  | .error z => .error z
  | .ok t => if t.int then .error (cFMTUSE, e) else .ok t

/-- The operands: `fp` is the position of the float operand, the other of D and A holds codes. -/
def qPlan (f : Form) (fp cp : Pos) (s : State) : Except Flt QPlan :=
  let x := s.me
  match vecPos s f fp (floatEntry x), vecPos s f cp (blockEntry x) with
  | .error e, _ => .error e
  | _, .error e => .error e
  | .ok (fl, ef), .ok (co, ec) =>
    match shapeCount s f [fl, co], qDesc (x.opS f.b) ef.lanes (fl.count.isSome || co.count.isSome) with
    | .error e, _ => .error e
    | _, .error e => .error e
    | .ok n, .ok q =>
      match checkSide s q n with
      | .error e => .error e
      | .ok _ => .ok ⟨fl, co, ef, ec.bias, q, n, ef.lanes, fp == .a⟩

/-- The element at which the instruction goes on: SHIX under shape iteration (R369). -/
def QPlan.first (p : QPlan) (s : State) : Nat := if p.n.isSome then fieldOf (s.me.srGet rSHIX) 0 32 else 0

/-- Accesses of elements `i` to `i + k - 1` of a shape, with lanes counted from `i`. -/
def elemsFrom (h : Shape) (w i k : Nat) : List Elem := (List.range k).map fun l => h.elem w (i + l) l 0

/-- Containers of `k` elements of a position from element `i`; a register supplies the same lanes in every step. -/
def fromPos (s : State) (v : VSrc) (w m i : Nat) (ls : List Nat) : Except Flt (List (Nat × Nat)) × State :=
  match v with
  | .reg r => (.ok (ls.map fun l => (l, lane (s.me.vreg r) w ((i + l) % m))), s)
  | .shp h =>
    let es := ls.map fun l => h.elem w (i + l) l 0
    if h.la then readLaElems s es else readVaElems s es
  | _ => (.ok (ls.map (·, 0)), s)

/-- Steps that begin within elements `i` to `j - 1`: each is paid for once (R436). -/
def stepsIn (m i j : Nat) : Nat := (j + m - 1) / m - (i + m - 1) / m

/-- The elements of a block that begins at element `i`, by their steps (R368): a step in which two blocks meet is stored by each
(log entry 175). -/
def bySteps (m i : Nat) (es : List Elem) : List (List Elem) :=
  ((es.map fun e => (i + e.lane) / m).eraseDups).map fun k => es.filter fun e => (i + e.lane) / m == k

/-- The cost of a quantising instruction at issue: one step, where one begins at its first element. -/
def QPlan.cost (p : QPlan) (s : State) : Nat := if p.first s % p.m == 0 then 48 else 0

/-- The completion of a quantising instruction. -/
def QPlan.finish (p : QPlan) (f : Form) (rounds : Bool) (s : State) : Res :=
  let s := (s.vecEnd f FFlags.none rounds p.quant false true).warnIf p.q.warn
  .done (if p.n.isSome then s.modMe (·.srSet rSHIX 0) else s)

/-- The end of the block of elements `i` to `j - 1`: the next block follows, or the instruction completes. -/
def QPlan.next (p : QPlan) (f : Form) (rounds : Bool) (fl : FFlags) (i j : Nat) (s : State) : Res :=
  let s := s.modMe (·.raise fl)
  let more := stepsIn p.m i j - (if i % p.m == 0 then 1 else 0)
  let s := s.payCore s.cur.core s.cur.ctx (48 * more)
  match p.n with
  | some n => if j < n then .again (s.modMe (·.srSet rSHIX (BitVec.ofNat 64 j))) else p.finish f rounds s
  | none => p.finish f rounds s

/-! VQUANT (R237, R360). -/

/-- The blocks of the register form: every block of a part, with its first element within the part. -/
def partBlocks (t : Nat) (es : List QElem) (i : Nat) : Nat → List (Nat × List QElem)
  | 0 => []
  | fuel + 1 =>
    if es.isEmpty then []
    else
      let k := max 1 (blockLen t es 0 none)
      (i, es.take k) :: partBlocks t (es.drop k) (i + k) fuel

/-- The register form of VQUANT. -/
def vquantReg (f : Form) (p : QPlan) (ra rd : Nat) (s : State) : Res :=
  let x := s.me
  let n := p.m
  let base := p.q.part * n
  match readSide s p.q.side 16 with
  | .error e => laFault s e
  | .ok bm =>
    let es := (List.range n).map fun i =>
      qElem (if x.active f i then p.ef.decode (lane (x.vreg ra) p.ef.w i) else .zero false)
    let blocks := partBlocks p.q.t es 0 (n + 1)
    let bm := (List.range n).foldl (fun b i => setBits b (base + i) 1 (if blocks.any (·.1 == i) then 1 else 0)) bm
    let rm := x.roundMode f
    let out := blocks.map fun b => (b.1, quantBlock p.bias p.q.ty rm x.seed (base + b.1) b.2)
    let fl := out.foldl (fun g o => g.or o.2.2.2.2) FFlags.none
    let s := writeSide s p.q.side bm 16
    let s := out.foldl (fun s o =>
      writeSide s (p.q.side + 16 + (blockStarts bm (base + o.1)).length) (o.2.1 * 64 + o.2.2.1) 1) s
    let cs := out.flatMap fun o => o.2.2.2.1.zipIdx.map fun c => (base + o.1 + c.2, c.1)
    p.next f true fl 0 n (s.modMe fun x => x.setV rd (setLanes (x.vreg rd) 4 cs))

/-- One block of VQUANT under shape iteration (R369). -/
def vquantBlock (f : Form) (p : QPlan) (n : Nat) (s : State) : Res :=
  let i := p.first s
  if n ≤ i then p.finish f true s
  else
    let x := s.me
    let k := min 64 (n - i)
    let on (l : Nat) : Bool := x.active f ((i + l) % p.m)
    let ls := (List.range k).filter on
    let src : List Elem := match p.flt with
      | .shp h => ls.map fun l => h.elem p.ef.w (i + l) l 0
      | _ => []
    match checkElemsAt s p.flt.isLa src, readSide s p.q.side (bitmapBytes p.n) with
    | .error e, _ => laFault s e
    | _, .error e => laFault s e
    | .ok _, .ok bm =>
      if p.flt.isVa && s.myCore.storesOut s.cur.ctx then .hold s .acks 0
      else if s.elemsWait p.flt.isLa src then .hold s .pins 0
      else match fromPos s p.flt p.ef.w p.m i ls with
        | (.error e, s) => .fault s e.1 e.2
        | (.ok vs, s) =>
          let es := (List.range k).map fun l => qElem (if on l then p.ef.decode (laneVal vs l) else .zero false)
          let len := max 1 (blockLen p.q.t es 0 none)
          let (ty, xe, cs, fl) := quantBlock p.bias p.q.ty (x.roundMode f) x.seed i (es.take len)
          let bm := (List.range len).foldl (fun b l => setBits b (i + l) 1 (if l == 0 then 1 else 0)) bm
          let side (s : State) : State :=
            let s := writeSide s p.q.side bm (bitmapBytes p.n)
            writeSide s (p.q.side + bitmapBytes p.n + (blockStarts bm i).length) (ty * 64 + xe) 1
          match p.code with
          | .shp h =>
            let ds := cs.zipIdx.map fun c => h.elem 4 (i + c.2) c.2 c.1
            match checkElemsAt s h.la ds with
            | .error e => laFault s e
            | .ok _ => storeStepsAt f h.la (bySteps p.m i ds) (fun s => p.next f true fl i (i + len) (side s)) s
          | .reg r =>
            let ws := cs.zipIdx.map fun c => ((i + c.2) % p.m, c.1)
            p.next f true fl i (i + len) (side (s.modMe fun x => x.setV r (setLanes (x.vreg r) 4 ws)))
          | _ => p.next f true fl i (i + len) (side s)

/-- VQUANT (R237, R360). -/
def execVquant (f : Form) (s : State) : Host.Outcome State Fault Refusal :=
  let plan := qPlan f .a .d (s.issued f)
  let cost := match plan with
    | .ok p => p.cost s
    | .error _ => 48
  issueVec f cost (selector f fun s =>
    match plan with
    | .error e => laFault s e
    | .ok p =>
      match p.n, p.flt, p.code with
      | some n, _, _ => vquantBlock f p n s
      | none, .reg ra, .reg rd => vquantReg f p ra rd s
      | none, _, _ => p.finish f true s) s

/-! VDEQ (R236, R361). -/

/-- The scale byte of an element's block, given the block starts up to and with it. -/
def scaleOf (s : State) (p : QPlan) (starts : Nat) : Except Flt Nat :=
  readSide s (p.q.side + bitmapBytes p.n + (starts - 1)) 1

/-- The value of a code of an element placed in D's entry. -/
def deqElem (p : QPlan) (rm : Nat) (seed : Word) (scale j c : Nat) : Nat × FFlags :=
  p.ef.encode rm (rstoBits seed j) (codeVal p.bias (scale / 64) (scale % 64) c)

/-- The scale bytes of some elements by their number. -/
def scalesOf (s : State) (p : QPlan) (starts : List Nat) : List Nat → Except Flt (List (Nat × Nat))
  | [] => .ok []
  | e :: es =>
    match scaleOf s p ((starts.filter (· ≤ e)).length) with
    | .error z => .error z
    | .ok b => (scalesOf s p starts es).map ((e, b) :: ·)

/-- The register form of VDEQ. -/
def vdeqReg (f : Form) (p : QPlan) (ra rd : Nat) (s : State) : Res :=
  let x := s.me
  let n := p.m
  let base := p.q.part * n
  match readSide s p.q.side 16 with
  | .error e => laFault s e
  | .ok bm =>
    let act := x.actives f n
    match scalesOf s p (blockStarts bm (base + n)) (act.map (base + ·)) with
    | .error e => laFault s e
    | .ok ss =>
      let rm := x.roundMode f
      let out := act.map fun i => (i, deqElem p rm x.seed (laneVal ss (base + i)) i (lane (x.vreg ra) 4 (base + i)))
      let fl := out.foldl (fun g o => g.or o.2.2) FFlags.none
      let es := x.zeros f n ++ out.map fun o => (o.1, o.2.1)
      p.next f true fl 0 n (s.modMe fun x => x.setV rd (setLanes (x.vreg rd) p.ef.w es))

/-- One block of VDEQ under shape iteration (R369). -/
def vdeqBlock (f : Form) (p : QPlan) (n : Nat) (s : State) : Res :=
  let i := p.first s
  if n ≤ i then p.finish f true s
  else match readSide s p.q.side (bitmapBytes p.n) with
    | .error e => laFault s e
    | .ok bm =>
      let x := s.me
      let starts := blockStarts bm (min n (i + 65))
      let j := (starts.find? (i < ·)).getD (min n (i + 65))
      let act := (List.range (j - i)).filter fun l => x.active f ((i + l) % p.m)
      let src : List Elem := match p.code with
        | .shp h => act.map fun l => h.elem 4 (i + l) l 0
        | _ => []
      let dst : List Elem := match p.flt with
        | .shp h => act.map fun l => h.elem p.ef.w (i + l) l 0
        | _ => []
      match checkElemsAt s p.code.isLa src, checkElemsAt s p.flt.isLa dst, scalesOf s p starts [i] with
      | .error e, _, _ => laFault s e
      | _, .error e, _ => laFault s e
      | _, _, .error e => laFault s e
      | .ok _, .ok _, .ok ss =>
        if p.code.isVa && s.myCore.storesOut s.cur.ctx then .hold s .acks 0
        else if s.elemsWait p.code.isLa src then .hold s .pins 0
        else match fromPos s p.code 4 p.m i act with
          | (.error e, s) => .fault s e.1 e.2
          | (.ok vs, s) =>
            let rm := x.roundMode f
            let out := act.map fun l => (l, deqElem p rm x.seed (laneVal ss i) (i + l) (laneVal vs l))
            let fl := out.foldl (fun g o => g.or o.2.2) FFlags.none
            match p.flt with
            | .shp h =>
              storeStepsAt f h.la (bySteps p.m i (out.map fun o => h.elem p.ef.w (i + o.1) o.1 o.2.1)) (p.next f true fl i j) s
            | .reg r =>
              let off := if f.vx.mz then ((List.range (j - i)).filter fun l => !act.contains l).map fun l => ((i + l) % p.m, 0) else []
              p.next f true fl i j (s.modMe fun x => x.setV r (setLanes (x.vreg r) p.ef.w
                (off ++ out.map fun o => ((i + o.1) % p.m, o.2.1))))
            | _ => p.next f true fl i j s

/-- VDEQ (R236, R361). SAT gives nothing here: its result is no integer (R258). -/
def execVdeq (f : Form) (s : State) : Host.Outcome State Fault Refusal :=
  let plan := qPlan f .d .a (s.issued f)
  let cost := match plan with
    | .ok p => p.cost s
    | .error _ => 48
  issueVec f cost (fun s =>
    match plan with
    | .error e => laFault s e
    | .ok p =>
      match p.n, p.flt, p.code with
      | some n, _, _ => vdeqBlock f p n s
      | none, .reg rd, .reg ra => vdeqReg f p ra rd s
      | none, _, _ => p.finish f true s) s

end Sys2Proof.Machine
end

