-- ==== Sys2Proof/Machine/Matrix.lean ====
section
/-! DEFINITION. Major 0xA0: matrix commands, and the tile's arbiter (spec/16_matrix_kv_attention_instructions.md R370 to
R378; spec/09_launch_and_scheduling.md R220; spec/07_engines_in_the_model.md R178; spec/03_caches_translation_network.md
R86, R87). -/
namespace Sys2Proof.Machine

/-! Geometry and commands in slots. -/

/-- The rows, columns and depth of an edge word (R372). -/
def edgeM (e : Nat) : Nat := bits e 0 5 + 1
def edgeN (e : Nat) : Nat := bits e 5 6 + 1
def edgeK (e : Nat) : Nat := bits e 11 5 + 1

/-- Whether a pair of operand entries may stand in a geometry (R372). -/
def pairOk (a b : FmtWord) : Bool :=
  let x := entOf a
  let y := entOf b
  x.valid && y.valid && x.w == y.w && x.w ≤ 16 && x.int == y.int

/-- A matrix command of the acting program (R371). `a` and `b` are 56-bit addresses, `d` the accumulator, `fc` MACCV's
target entry; `rows` run and `left` bytes are to be counted. -/
def State.matrixOp (s : State) (i : Instr) (a b d fc : Nat) (sync : SyncRef) (rows left : Nat) : EngOp :=
  let q := s.myCore.mseq
  s.newOp (.matrix i a b d (edgeM q.edge) (edgeN q.edge) (edgeK q.edge) (s.engEntry q.fa).toNat (s.engEntry q.fb).toNat fc rows)
    sync rows left

/-- A command goes into the core's queue, and the arbiter looks (R220). -/
def State.queueMatrix (s : State) (o : EngOp) : State :=
  let core := s.cur.core
  let (id, s) := s.engStart o
  (s.modCore core fun k => { k with cmdq := k.cmdq ++ [id] }).later 0 (.matrixArbiterStart (tileOf core))

/-- Whether the queue has no room (R220). -/
def State.cmdqFull (s : State) : Bool := 4 ≤ s.myCore.cmdq.length

/-- A matrix command: outside a matrix program's slot it is ILLEGAL (R370, R191). -/
def matrixSlot (f : Form) (body : State → SlotRes) (s : State) : Host.Outcome State Fault Refusal :=
  if s.cur.unit == .context then issue f (fun s => illegal s f 0) s
  else slotIssue f [.matrixSeq] 0 (fun s => if s.cmdqFull then .wait else body s) s

/-- The accumulator that an operand names, whose format subfield must be f0 (R370). -/
def accOf : Operand → Option Nat
  | .acc r 0 => some r
  | _ => none

/-- A command's memory range: aligned to 64 bytes, in a stall through an LA or in translated memory (R371). -/
def State.matrixRange (s : State) (o : Operand) (n : Nat) : Option Nat :=
  match s.engRange o n 64 with
  | .ok va => if o.isLa || va + n ≤ meshBase then some va else none
  | .error _ => none

/-- Bytes of an MMA operand of `n` elements: dense, or codes, bitmap and scale bytes (R373). -/
def operandBytes (e : Ent) (n : Nat) : Nat := if e.pol == 5 then n / 2 + n / 8 + n else n * e.w / 8

/-- The sync word of MACST and MACCV: absent, a place, or `none` where it fails its checks (R377). -/
def State.matrixSync (s : State) (o : Operand) : Option SyncRef :=
  if o.isNone then some none
  else match syncPlace s.cur.core (s.engAddr o) with
    | .ok p => some (some p)
    | .error _ => none

/-- MGEO (R372): the geometry takes effect for the commands after it. -/
def execMgeo (f : Form) (s : State) : Host.Outcome State Fault Refusal :=
  matrixSlot f (fun s =>
    let e := f.b.immU
    let a := s.engEntry f.d.num
    let b := s.engEntry f.a.num
    if 47 < bits e 5 6 || e / 2 ^ 16 != 0 then .stop s ecILLEGAL
    else if !pairOk a b then .stop s ecFMT
    else
      let s := s.modSeq fun q => { q with fa := f.d.num, fb := f.a.num, edge := e }
      .done (s.queueMatrix (s.matrixOp (.mgeo f) 0 0 0 0 none 32 0))) s

/-- The stall ranges of operands, which the window covers (R178). -/
def stallRange (va n : Nat) : List (Nat × Nat) := if meshBase ≤ va then [(stallBase + (va - meshBase), n)] else []

/-- MMA (R373, R374): its operand window opens here (R178). -/
def execMma (f : Form) (s : State) : Host.Outcome State Fault Refusal :=
  matrixSlot f (fun s =>
    let q := s.myCore.mseq
    let ea := entOf (s.engEntry q.fa)
    let eb := entOf (s.engEntry q.fb)
    match accOf f.d, s.matrixRange f.a (operandBytes ea 1024), s.matrixRange f.b (operandBytes eb 1536) with
    | some r, some a, some b =>
      let (rows, s) := s.validRows 32
      let w := stallRange a (operandBytes ea 1024) ++ stallRange b (operandBytes eb 1536)
      .done (s.queueMatrix { s.matrixOp (.mma f) a b r 0 none rows 0 with window := w })
    | _, _, _ => .stop s ecILLEGAL) s

/-- MACZ (R377). -/
def execMacz (f : Form) (s : State) : Host.Outcome State Fault Refusal :=
  matrixSlot f (fun s =>
    match accOf f.d with
    | some r => .done (s.queueMatrix (s.matrixOp (.macz f) 0 0 r 0 none 32 0))
    | none => .stop s ecILLEGAL) s

/-- MACLD (R377). -/
def execMacld (f : Form) (s : State) : Host.Outcome State Fault Refusal :=
  matrixSlot f (fun s =>
    match accOf f.d, s.matrixRange f.a 6144 with
    | some r, some a =>
      let (rows, s) := s.validRows 32
      .done (s.queueMatrix (s.matrixOp (.macld f) a 0 r 0 none rows 0))
    | _, _ => .stop s ecILLEGAL) s

/-- MACST (R377): its sync word counts the bytes of the elements stored. -/
def execMacst (f : Form) (s : State) : Host.Outcome State Fault Refusal :=
  matrixSlot f (fun s =>
    match accOf f.a, s.matrixRange f.d 6144, s.matrixSync f.b with
    | some r, some a, some sw =>
      let (rows, s) := s.validRows 32
      let e := s.myCore.mseq.edge
      .done (s.queueMatrix (s.matrixOp (.macst f) a 0 r 0 sw rows (min rows (edgeM e) * edgeN e * 4)))
    | _, _, _ => .stop s ecILLEGAL) s

/-- MACCV (R377): a POL 5 or invalid target is a fault of the operation with ECODE 0x07, at its sync word where it names one
(R174, R233), which stops its program. -/
def execMaccv (f : Form) (s : State) : Host.Outcome State Fault Refusal :=
  matrixSlot f (fun s =>
    let fw := s.engEntry (f.a.entry.getD 0)
    let t := entOf fw
    match s.matrixRange f.d (1536 * t.w / 8), s.matrixSync f.b with
    | some a, some sw =>
      let (rows, s) := s.validRows 32
      let e := s.myCore.mseq.edge
      let op := s.matrixOp (.maccv f) a 0 f.a.num fw.toNat sw rows (min rows (edgeM e) * ((edgeN e * t.w + 7) / 8))
      if !t.valid || t.pol == 5 then
        let (id, s) := s.engStart op
        .done (s.engFault id ecFMT)
      else .done (s.queueMatrix op)
    | _, _ => .stop s ecILLEGAL) s

/-- MCHK (R378). -/
def execMchk (f : Form) (s : State) : Host.Outcome State Fault Refusal :=
  matrixSlot f (fun s =>
    match accOf f.d with
    | some r => .done (s.queueMatrix (s.matrixOp (.mchk f) 0 0 r 0 none 32 0))
    | none => .stop s ecILLEGAL) s

/-! The unit. -/

/-- Pins taken back. -/
def State.unpin (s : State) (ps : List (Nat × Nat × Nat)) : State :=
  ps.foldl (fun s p =>
    match s.c2Line p.1 p.2.1 p.2.2 with
    | some c => s.setLine { c with pins := c.pins - 1 }
    | none => s) s

/-- A pin of the line at a location, where there is one to pin; `none` where it must wait (R86). -/
def State.pinLine (s : State) (asid : Nat) (l : Loc) : Option (List (Nat × Nat × Nat) × State) :=
  match l with
  | .line sl vl =>
    match s.c2Line sl asid vl with
    | some c =>
      let ways := (s.c2.filter fun m => m.slice == sl && setOf m.asid m.vline == setOf asid vl && m.pins != 0).length
      if 15 ≤ c.pins || (c.pins == 0 && 8 ≤ ways) then none
      else some ([(sl, asid, vl)], s.setLine { c with pins := c.pins + 1 })
    | none => some ([], s)
  | _ => some ([], s)

/-- The marks of the eight words of a line at a location (R88). -/
def State.lineMarks (s : State) (asid : Nat) (l : Loc) : Nat :=
  match l with
  | .line sl vl => ((s.c2Line sl asid vl).map (·.psn)).getD 0
  | .phys pa => (List.range 8).foldl (fun p w => setBits p w 1 (s.physPoison (pa + 8 * w) 8).isSome.toNat) 0
  | .fabric _ _ => 0

/-- What a pinned read brings: the bytes, the marks of their 8-byte words, and the pins. -/
structure Pinned where
  data  : Nat
  marks : Nat
  pins  : List (Nat × Nat × Nat)
  deriving DecidableEq, Repr

/-- How a pinned read ends: with its data, with a fault's ECODE, or not before a pin is released. -/
inductive PinRes where
  | ok (p : Pinned)
  | fault (ecode : Nat)
  | wait
  deriving DecidableEq, Repr

/-- A read of `n` lines of translated memory, each pinned as it is read (R86). -/
def State.pinRead (s : State) (o : EngOp) (va : Nat) : Nat → PinRes × State
  | 0 => (.ok ⟨0, 0, []⟩, s)
  | n + 1 =>
    let who : Who := ⟨o.core, o.ctx, o.asid / 1024⟩
    if s.homeWaits who o.asid va .rd then (.wait, s)
    else match s.homeLoc who o.asid va .rd with
    | (.error c, s) => (.fault (ecodeOf c), s)
    | (.ok l, s) =>
      match s.locRead o.asid l va 64 with
      | (.error c, s) => (.fault (ecodeOf c), s)
      | (.ok (v, bad), s) =>
        let s := if bad then s.countErr (s.firstHome o.core o.asid va / 64) 3 else s
        let marks := s.lineMarks o.asid l
        match s.pinLine o.asid l with
        | none => (.wait, s)
        | some (ps, s) =>
          match State.pinRead s o (va + 64) n with
          | (.ok q, s) => (.ok ⟨v + 2 ^ 512 * q.data, marks + 2 ^ 8 * q.marks, ps ++ q.pins⟩, s)
          | (r, s) => (r, s.unpin ps)

/-- An operand's shape: its entry, its elements, and which of them the command uses (R373). -/
structure Operand2 where
  e    : Ent
  n    : Nat
  used : Nat → Bool

/-- The blocks of a POL 5 operand: its boundary bitmap gives them (R236, R373). -/
def Operand2.starts (p : Operand2) (data : Nat) : List Nat := blockStarts (data / 2 ^ (4 * p.n) % 2 ^ p.n) p.n

/-- Offset of the scale bytes. -/
def Operand2.scaleAt (p : Operand2) : Nat := p.n / 2 + p.n / 8

/-- The index of the scale byte of each element, in order. -/
def scaleIdx (starts : List Nat) (n : Nat) : List Nat :=
  ((List.range n).foldl (fun (g : List Nat × Nat) i =>
    let k := if starts.contains i then g.2 + 1 else g.2
    ((k - 1) :: g.1, k)) ([], 0)).1.reverse

/-- The bytes that a command consumes of an operand: those of the elements used and, under POL 5, the bitmap and the
scale bytes of their blocks (R373). -/
def Operand2.bytes (p : Operand2) (data : Nat) : List Nat :=
  let es := (List.range p.n).filter p.used
  let own := (es.map fun i => i * p.e.w / 8).eraseDups
  if p.e.pol == 5 then
    let ks := scaleIdx (p.starts data) p.n
    own ++ (List.range (p.n / 8)).map (p.n / 2 + ·) ++ (es.map fun i => p.scaleAt + ks.getD i 0).eraseDups
  else own

/-- The values of an operand's elements, in storage order. -/
def Operand2.vals (p : Operand2) (data : Nat) : List Val :=
  if p.e.pol == 5 then
    let ks := scaleIdx (p.starts data) p.n
    ks.zipIdx.map fun k =>
      let sc := bits data (8 * (p.scaleAt + k.1)) 8
      codeVal p.e.bias (sc / 64) (sc % 64) (bits data (4 * k.2) 4)
  else (List.range p.n).map fun i => p.e.decode (bits data (p.e.w * i) p.e.w)

/-- Bytes of an operand that are read: under POL 5 the scale bytes end with the last block (R373). -/
def Operand2.len (p : Operand2) (data : Nat) : Nat :=
  if p.e.pol == 5 then p.scaleAt + (p.starts data).length else p.n * p.e.w / 8

/-- An operand in translated memory read at the start with its lines pinned: codes and bitmap first, then the scale bytes
of the blocks present. A mark on a byte consumed is ECODE 0x05 (R371). -/
def State.readPinned (s : State) (o : EngOp) (p : Operand2) (va : Nat) : PinRes × State :=
  let first := if p.e.pol == 5 then p.scaleAt else p.n * p.e.w / 8
  match s.pinRead o va (first / 64) with
  | (.ok a, s) =>
    let rest := (p.len a.data + 63) / 64 - first / 64
    match s.pinRead o (va + first) rest with
    | (.ok b, s) =>
      let data := a.data + 2 ^ (8 * first) * b.data
      let marks := a.marks + 2 ^ (first / 8) * b.marks
      if (p.bytes data).any fun i => bit marks (i / 8) then (.fault ecPOISON, s.unpin (a.pins ++ b.pins))
      else (.ok ⟨data, marks, a.pins ++ b.pins⟩, s)
    | (r, s) => (r, s.unpin a.pins)
  | r => r

/-- An operand in stall memory: each granule as it stands, or as it stood before a store that met the open window, which
of them a free value says (R178). -/
def State.readWindow (s : State) (o : EngOp) (va : Nat) : Nat → Nat × State
  | 0 => (0, s)
  | n + 1 =>
    let pa := stallBase + (va - meshBase)
    let now := memRead s.mem pa 64
    let olds := (o.olds.filter (·.1 == pa / 64)).map (·.2.toNat)
    let (v, s) : Nat × State :=
      if olds.isEmpty then (now, s)
      else
        let (w, s) := s.draw
        ((now :: olds).getD (w.toNat % (olds.length + 1)) now, s)
    let (rest, s) := State.readWindow s o (va + 64) n
    (v + 2 ^ 512 * rest, s)

/-- Rows of a command that run: below M and the valid count (R374). -/
def activeRows (m rows : Nat) : Nat := min m rows

/-- The operands of an MMA. -/
def operandA (ea : Ent) (m k rows : Nat) : Operand2 := ⟨ea, 1024, fun i => i / 32 < activeRows m rows && i % 32 < k⟩
def operandB (eb : Ent) (n k : Nat) : Operand2 := ⟨eb, 1536, fun i => i / 32 < n && i % 32 < k⟩

/-- FP32, the format of the accumulators (R370). -/
def fp32 : Ent := entOf 0x81C1FEF1
def int32 : Ent := entOf 0x81980001

/-- The element of the float mode (R374): NaN, 0 × ∞ or both infinities give the default NaN. -/
def mmaFloat (acc : Val) (as bs : List Val) : Nat :=
  let ps := (as.zip bs).map fun p => mulVals p.1 p.2
  if acc.isNan || as.any Val.isNan || bs.any Val.isNan || ps.any Option.isNone then 0x7FC00000
  else (fp32.encode 1 0 (sumVals false (acc :: ps.filterMap id)).1).1

/-- The exact integer of a value. -/
def Val.toInt : Val → Int
  | .fin n m _ _ => if n then -(m : Int) else m
  | _ => 0

/-- The element of the integer mode (R374), and whether it saturated. -/
def mmaInt (acc : Int) (as bs : List Val) : Nat × Bool :=
  let t := (as.zip bs).foldl (fun t p => t + p.1.toInt * p.2.toInt) acc
  let (c, e) := int32.satInt t
  (c, e.sat)

/-- The accumulator elements that an MMA writes, by key, and whether any saturated. -/
def mmaResults (x : Ctx) (ea eb : Ent) (acc m n k rows da db : Nat) : List (Nat × BitVec 32) × Bool :=
  let av := (operandA ea m k rows).vals da
  let bv := (operandB eb n k).vals db
  let out := (List.range (activeRows m rows)).flatMap fun r => (List.range n).map fun c =>
    let key := 1536 * acc + 48 * r + c
    let as := (av.drop (32 * r)).take k
    let bs := (bv.drop (32 * c)).take k
    let old := (x.acc.get key 0).toNat
    if ea.int then
      let (v, sat) := mmaInt (int32.decodeInt old) as bs
      (key, BitVec.ofNat 32 v, sat)
    else (key, BitVec.ofNat 32 (mmaFloat (fp32.decode old) as bs), false)
  (out.map fun o => (o.1, o.2.1), out.any (·.2.2))

/-- Accumulator elements written. -/
def Ctx.putAcc (x : Ctx) (es : List (Nat × BitVec 32)) : Ctx := { x with acc := es.foldl (fun m e => m.set e.1 e.2 0) x.acc }

/-- A checksum mismatch of a tile: counted on the stack, and reported when the window's count reaches the threshold of
the tile's core CO 0 (R376, R455). -/
def State.countMma (s : State) (core : Nat) : State :=
  let tile := tileOf core
  let st := stkOf core
  let n := s.tileErr.get tile 0 + 1
  let s := { s with tileErr := s.tileErr.put tile n }
  { s with pkg := { s.pkg with errCnt := s.pkg.errCnt.put st (bumpField (s.pkg.errCnt.get st 0) 4),
                               errLast := if n == (s.core (tile * 8)).tcthr then
                                   s.pkg.errLast.put st (bumpField (s.pkg.errLast.get st 0) 4)
                                 else s.pkg.errLast } }

/-- Cycles of an MMA (R375). -/
def mmaCycles (w : Nat) : Nat := 48 * w / 16

/-- The fields of a matrix operation: instruction, addresses, accumulator, M, N, K, entries, rows. -/
structure MatOp where
  i    : Instr
  a    : Nat
  b    : Nat
  d    : Nat
  m    : Nat
  n    : Nat
  k    : Nat
  fa   : FmtWord
  fb   : FmtWord
  fc   : FmtWord
  rows : Nat

/-- The matrix command that an operation is. -/
def EngOp.mat (o : EngOp) : Option MatOp :=
  match o.act with
  | .matrix i a b d m n k fa fb fc rows =>
    some ⟨i, a, b, d, m, n, k, BitVec.ofNat 32 fa, BitVec.ofNat 32 fb, BitVec.ofNat 32 fc, rows⟩
  | _ => none

/-- The cost of a matrix command (R435): a row that is skipped pays nothing. -/
def MatOp.cost (p : MatOp) : Nat :=
  match p.i with
  | .mma _ => 384 * (entOf p.fa).w / 16 * activeRows p.m p.rows
  | .macld _ => 64 * activeRows p.m p.rows
  | .macst _ => 64 * activeRows p.m p.rows
  | .maccv _ => 64 * activeRows p.m p.rows
  | _ => 0

/-- The elements inside the active rows and the column mask. -/
def MatOp.elems (p : MatOp) : List (Nat × Nat) :=
  (List.range (activeRows p.m p.rows)).flatMap fun r => (List.range p.n).map fun c => (r, c)

/-- MACLD in the unit (R377): the elements, raw, or the ECODE of a fault. -/
def State.runMacld (s : State) (o : EngOp) (p : MatOp) : List (Nat × Nat) → Except Nat (List (Nat × BitVec 32)) × State
  | [] => (.ok [], s)
  | (r, c) :: rest =>
    match s.engRead ⟨o.core, o.ctx, o.asid / 1024⟩ o.asid (p.a + 192 * r + 4 * c) 4 with
    | (.error z, s) => (.error (ecodeOf z), s)
    | (.ok (v, bad), s) =>
      if bad then (.error ecPOISON, s)
      else match State.runMacld s o p rest with
        | (.ok es, s) => (.ok ((1536 * p.d + 48 * r + c, BitVec.ofNat 32 v) :: es), s)
        | r => r

/-- The writes of MACST and MACCV: address, bytes, value. -/
def State.runStores (s : State) (o : EngOp) : List (Nat × Nat × Nat) → Except Nat Unit × State
  | [] => (.ok (), s)
  | (va, n, v) :: rest =>
    match s.engWrite ⟨o.core, o.ctx, o.asid / 1024⟩ o.asid va n v [] with
    | (.error z, s) => (.error (ecodeOf z), s)
    | (.ok _, s) => State.runStores s o rest

/-- The stores of MACCV (R377): each element converted under RNE; of 4-bit elements two share a byte, and a nibble without
a written element keeps its value. The last component says whether an integer target saturated. -/
def State.maccvStores (s : State) (x : Ctx) (o : EngOp) (p : MatOp) : List (Nat × Nat × Nat) × Bool :=
  let t := entOf p.fc
  let src := if (entOf p.fa).int then int32 else fp32
  let val (r c : Nat) : Nat × FFlags := t.encode 1 0 (src.decode (x.acc.get (1536 * p.d + 48 * r + c) 0).toNat)
  let sat := p.elems.any fun e => (val e.1 e.2).2.sat
  if t.w == 4 then
    ((List.range (activeRows p.m p.rows)).flatMap fun r => (List.range ((p.n + 1) / 2)).map fun j =>
      let va := p.a + 24 * r + j
      let hi := if 2 * j + 1 < p.n then (val r (2 * j + 1)).1
        else match s.engRead ⟨o.core, o.ctx, o.asid / 1024⟩ o.asid va 1 with
          | (.ok (v, _), _) => v / 16
          | _ => 0
      (va, 1, (val r (2 * j)).1 + 16 * hi), sat)
  else (p.elems.map fun e => (p.a + (48 * e.1 + e.2) * t.w / 8, t.w / 8, (val e.1 e.2).1), sat)

/-- Whether the check sums of an accumulator match its contents (R378). -/
def Ctx.sumsMatch (x : Ctx) (a : Nat) : Bool :=
  !(x.accSum.any fun e => (32 * a ≤ e.1 && e.1 < 32 * a + 32) || (64 + 48 * a ≤ e.1 && e.1 < 64 + 48 * a + 48))

/-- A command starts in the unit: it pays and does its work, or, for an MMA, reads and pins its operands in translated
memory (R375, R377, R378). `none` where it must wait. -/
def State.startMatrix (s : State) (id : Nat) (o : EngOp) (p : MatOp) : Option State :=
  let s := s.modOp id fun o => { o with started := true }
  let paid (s : State) : State := s.payCore o.core o.ctx p.cost
  let waits (vas : List Nat) (need : Need) : Bool :=
    (vas.map (· / 64)).eraseDups.any fun l => s.engWaits ⟨o.core, o.ctx, o.asid / 1024⟩ o.asid (64 * l) need
  let stores (es : List (Nat × Nat × Nat)) (s : State) : Option State :=
    if waits (es.map (·.1)) .wr then none
    else match s.runStores o es with
      | (.error c, s) => some ((paid s).engFault id c)
      | (.ok _, s) => some ((paid s).later 48 (.engineOpComplete id))
  match p.i with
  | .macz _ =>
    some ((s.modCtx o.core o.ctx fun x =>
      { x with acc := x.acc.filter fun e => e.1 / 1536 != p.d,
               accSum := x.accSum.filter fun e => !((32 * p.d ≤ e.1 && e.1 < 32 * p.d + 32) ||
                 (64 + 48 * p.d ≤ e.1 && e.1 < 64 + 48 * p.d + 48)) }).later 1 (.engineOpComplete id))
  | .macld _ =>
    if waits (p.elems.map fun e => p.a + 192 * e.1 + 4 * e.2) .rd then none
    else match s.runMacld o p p.elems with
    | (.error c, s) => some ((paid s).engFault id c)
    | (.ok es, s) => some (((paid s).modCtx o.core o.ctx (·.putAcc es)).later 48 (.engineOpComplete id))
  | .macst _ =>
    let x := s.ctx o.core o.ctx
    stores (p.elems.map fun e => (p.a + 192 * e.1 + 4 * e.2, 4, (x.acc.get (1536 * p.d + 48 * e.1 + e.2) 0).toNat)) s
  | .maccv _ =>
    let (es, sat) := s.maccvStores (s.ctx o.core o.ctx) o p
    stores es (if sat then s.modCtx o.core o.ctx (·.setStat bSAT true) else s)
  | .mchk _ =>
    if (s.ctx o.core o.ctx).sumsMatch p.d then some (s.later 16 (.engineOpComplete id))
    else some ((s.countMma o.core).engFault id ecMXERR)
  | .mma _ =>
    let get (s : State) (q : Operand2) (va : Nat) : PinRes × State :=
      if meshBase ≤ va then (.ok ⟨0, 0, []⟩, s) else s.readPinned o q va
    match get s (operandA (entOf p.fa) p.m p.k p.rows) p.a with
    | (.wait, _) => none
    | (.fault c, s) => some ((paid s).engFault id c)
    | (.ok qa, s) =>
      match get s (operandB (entOf p.fb) p.n p.k) p.b with
      | (.wait, _) => none
      | (.fault c, s) => some (((paid s).unpin qa.pins).engFault id c)
      | (.ok qb, s) =>
        some (((paid s).modOp id fun o => { o with data := [(0, qa.data), (1, qb.data)], pinned := qa.pins ++ qb.pins }).later
          (mmaCycles (entOf p.fa).w - 1) (.mmaOperandsConsumed o.core))
  | _ => some (s.later 1 (.engineOpComplete id))

/-- The visit that the arbiter makes next (R220): the core at hand while it may start more, else the next one in turn
whose queue has a command that can be paid for. -/
def State.visit (s : State) (tile : Nat) (a : Arb) : Option (Nat × Nat × Nat) :=
  let head (co : Nat) : Option Nat :=
    (s.core (tile * 8 + co)).cmdq.head?.filter fun id =>
      match (s.engOp id).bind (·.mat) with
      | some p => (s.core (tile * 8 + co)).canPay p.cost
      | none => false
  match (if a.left != 0 then head a.co else none) with
  | some id => some (a.co, a.left, id)
  | none =>
    ((List.range 8).map fun i => (a.co + 1 + i) % 8).findSome? fun co =>
      (head co).map fun id => (co, max 1 (fieldOf ((s.core (tile * 8 + co)).srGet rMXW) 0 4), id)

/-- MATRIX_ARBITER_START (R220). -/
def State.arbiterStart (s : State) (tile : Nat) : State :=
  let a := s.arbs.get tile ⟨7, 0, none⟩
  if a.busy.isSome then s
  else match s.visit tile a with
    | none =>
      let s := { s with arbs := s.arbs.put tile { a with left := 0 } }
      if (List.range 8).any fun co => !(s.core (tile * 8 + co)).cmdq.isEmpty then
        (s.cancel (.matrixArbiterStart tile)).later 64 (.matrixArbiterStart tile)
      else s
    | some (co, left, id) =>
      match s.engOp id with
      | none => s.modCore (tile * 8 + co) fun k => { k with cmdq := k.cmdq.filter (· != id) }
      | some o =>
        match o.mat with
        | none => s
        | some p =>
          match s.startMatrix id o p with
          | none => { s with arbs := s.arbs.put tile ⟨co, left, none⟩ }.later 16 (.matrixArbiterStart tile)
          | some s =>
            { s.modCore o.core fun k => { k with cmdq := k.cmdq.filter (· != id) } with
              arbs := s.arbs.put tile ⟨co, left - 1, some id⟩ }

/-- MATRIX_ARBITER_START (R220). -/
def execMatrixArbiterStart (s : State) : Host.Outcome State Fault Refusal :=
  match s.ev with
  | .matrixArbiterStart tile => .next (s.arbiterStart tile)
  | _ => .next s

/-- MMA_OPERANDS_CONSUMED (R178, R374, R376): the window closes, the pins are released, and the product is added; a
mismatch of the check sums reruns it once, and a second one stops the program. -/
def State.operandsConsumed (s : State) (core : Nat) : State :=
  match (s.arbs.find? (·.1 == tileOf core)).bind (·.2.busy) with
  | none => s
  | some id =>
    match s.engOp id with
    | none => s
    | some o =>
      match o.mat with
      | none => s
      | some p =>
        if o.finished then s
        else
          let ea := entOf p.fa
          let eb := entOf p.fb
          let qa := operandA ea p.m p.k p.rows
          let qb := operandB eb p.n p.k
          let get (s : State) (q : Operand2) (va i : Nat) : Nat × Bool × State :=
            if meshBase ≤ va then
              let (d, s) := s.readWindow o va ((operandBytes q.e q.n + 63) / 64)
              let pa := stallBase + (va - meshBase)
              (d, (q.bytes d).any fun b => s.poison.contains ((pa + b) / 4 * 4), s)
            else (o.data.get i 0, false, s)
          let (da, badA, s) := get s qa p.a 0
          let (db, badB, s) := get s qb p.b 1
          let s := (s.modOp id fun o => { o with window := [], olds := [], data := [] }).later 0 (.pinRelease id)
          if badA || badB then s.engFault id ecPOISON
          else
            let k := s.mmaErr.get core 0
            let (es, sat) := mmaResults (s.ctx core o.ctx) ea eb p.d p.m p.n p.k p.rows da db
            let write (s : State) : State := s.modCtx core o.ctx fun x =>
              let x := x.putAcc es
              if sat then x.setStat bSAT true else x
            if k == 0 then (write s).later 1 (.engineOpComplete id)
            else
              let s := (s.countMma core).payCore core o.ctx p.cost
              if k == 1 then
                (write { s with mmaErr := s.mmaErr.erase core }).later (1 + mmaCycles ea.w) (.engineOpComplete id)
              else
                let s := { s with mmaErr := s.mmaErr.set core (k - 2) 0 }
                (((s.countMma core).modOp id fun o => { o with ecode := ecMXERR }).later (1 + mmaCycles ea.w) (.engineOpComplete id))

/-- MMA_OPERANDS_CONSUMED (R178). -/
def execMmaOperandsConsumed (s : State) : Host.Outcome State Fault Refusal :=
  match s.ev with
  | .mmaOperandsConsumed core => .next (s.operandsConsumed core)
  | _ => .next s

/-- PIN_RELEASE (R87): the pins of an operation are taken back, and the stores held at their homes are applied. -/
def State.pinRelease (s : State) (id : Nat) : State :=
  match s.engOp id with
  | none => s
  | some o => ((s.unpin o.pinned).modOp id fun o => { o with pinned := [] }).retryHeld

/-- PIN_RELEASE (R87). -/
def execPinRelease (s : State) : Host.Outcome State Fault Refusal :=
  match s.ev with
  | .pinRelease id => .next (s.pinRelease id)
  | _ => .next s

end Sys2Proof.Machine
end

