-- ==== Sys2Proof/Machine/VecMove.lean ====
section
/-! DEFINITION. Major 0x80: vector loads and stores, movement, conversion, compress, reductions and scans
(spec/15_vector_instructions.md R352 to R358; spec/10_numbers_and_format_table.md R230, R239). Quantisation is in Quant. -/
namespace Sys2Proof.Machine

/-! Loads, stores, gathers and scatters (R353, R354). -/

/-- The elements of a load or store with their lanes: address kind, and addresses in 64 bits. -/
structure MemPlan where
  e    : Ent
  r    : Nat
  la   : Bool
  es   : List Elem
  idle : List Nat
  deriving DecidableEq, Repr

/-- The elements of a register of width `w` at addresses that `at_` gives; of 4-bit containers two share a byte. -/
def regElems (w : Nat) (v : VWord) (ls : List Nat) (at_ : Nat → Word) : List Elem :=
  ls.map fun i =>
    let d := lane v w i
    if w == 4 then ⟨i, (at_ (i / 2)).toNat, 1, if i % 2 == 1 then d * 16 else d, if i % 2 == 1 then 0xF0 else 0xF⟩
    else ⟨i, (at_ i).toNat, w / 8, d, 2 ^ w - 1⟩

/-- The two nibbles of a byte joined where a store writes both (R353). -/
def joinNibbles : List Elem → List Elem
  | a :: b :: rest =>
    if a.mask == 0xF && b.mask == 0xF0 && a.va == b.va && a.size == 1 then
      { a with data := a.data + b.data, mask := 0xFF } :: joinNibbles rest
    else a :: joinNibbles (b :: rest)
  | es => es

/-- The elements of VLD and VST, whose memory operand stands at `mp` and whose register at `rp` (R353, R367). -/
def ldstPlan (f : Form) (mp rp : Pos) (s : State) : Except Flt MemPlan :=
  let x := s.me
  let o := mp.of f
  match vecEnt x f rp with
  | .error e => .error e
  | .ok e =>
    let r := (rp.of f).num
    let n := e.lanes
    match o with
    | .shape _ _ =>
      if !f.vx.shp then .error (cILLEGAL, parcelAt s f 1)
      else if !f.b.isNone then .error (cILLEGAL, parcelAt s f 2)
      else match readShape s o with
        | .error z => .error z
        | .ok h =>
          match plainEntry x ((x.pfxEntry mp).getD h.fmt) with
          | .error z => .error z
          | .ok t =>
            if t.w != e.w then .error (cFMTUSE, (x.pfxEntry mp).getD h.fmt)
            else if n < h.count then .error (cSHPFMT, (x.opAddr o).toNat)
            else
              let ls := (List.range h.count).filter (x.active f)
              .ok ⟨e, r, h.la, ls.map fun l => h.elem e.w l l (lane (x.vreg r) e.w l),
                (List.range n).filter fun l => !ls.contains l⟩
    | _ =>
      let ea := x.opAddr o
      match f.b with
      | .scalar q =>
        if e.w == 4 then .error (cFMTUSE, x.entryNo f rp)
        else .ok ⟨e, r, o.isLa, regElems e.w (x.vreg r) (x.actives f n) (fun i => ea + BitVec.ofNat 64 i * x.sreg q),
          (List.range n).filter fun l => !x.active f l⟩
      | _ => .ok ⟨e, r, o.isLa, regElems e.w (x.vreg r) (x.actives f n)
            (fun i => ea + BitVec.ofNat 64 (i * (if e.w == 4 then 1 else e.w / 8))),
          (List.range n).filter fun l => !x.active f l⟩

/-- The elements of VGATH and VSCAT (R353). -/
def gathPlan (f : Form) (mp rp : Pos) (s : State) : Except Flt MemPlan :=
  let x := s.me
  match vecEnt x f rp, vecEnt x f .b with
  | .error e, _ => .error e
  | _, .error e => .error e
  | .ok e, .ok eb =>
    if e.w == 4 then .error (cFMTUSE, x.entryNo f rp)
    else if !eb.int || eb.w != e.w then .error (cFMTUSE, x.entryNo f .b)
    else
      let r := (rp.of f).num
      let base := x.opAddr (mp.of f)
      .ok ⟨e, r, (mp.of f).isLa, regElems e.w (x.vreg r) (x.actives f e.lanes)
          (fun i => base + BitVec.ofInt 64 (eb.decodeInt (lane (x.vreg f.b.num) eb.w i) * (e.w / 8 : Nat))),
        (List.range e.lanes).filter fun l => !x.active f l⟩

/-- The cost of a vector memory instruction. -/
def planCost (p : Except Flt MemPlan) : Nat :=
  match p with
  | .ok p => 12 + elemCost p.la p.es
  | .error _ => 12

/-- A vector load: the values reach D at once through an LA, else by a request (R347, R354). -/
def vecLoad (f : Form) (p : Except Flt MemPlan) (shapes : Bool) (s : State) : Host.Outcome State Fault Refusal :=
  issueVecWarn f (planCost p) (vecWarn s.me f false false false shapes) (fun s =>
    match p with
    | .error e => laFault s e
    | .ok p =>
      match checkElemsAt s p.la p.es with
      | .error e => laFault s e
      | .ok _ =>
        let d : Dst := .vec p.r p.e.w (if f.vx.mz then p.idle else [])
        if p.la || p.es.isEmpty then
          match readLaElems s p.es with
          | (.error e, s) => .fault s e.1 e.2
          | (.ok vs, s) => .done (s.modMe (·.deliver d vs))
        else loadElems f .load (p.es.map fun e => { e with va := e.va % 2 ^ 56 }) d false false s) s

/-- A vector store (R353, R354). -/
def vecStore (f : Form) (p : Except Flt MemPlan) (shapes : Bool) (s : State) : Host.Outcome State Fault Refusal :=
  issueVec f (planCost p) (fun s =>
    match p with
    | .error e => laFault s e
    | .ok p =>
      match checkElemsAt s p.la p.es with
      | .error e => laFault s e
      | .ok _ =>
        storeElemsAt f p.la (joinNibbles p.es) (fun s => .done (s.vecEnd f FFlags.none false false false shapes)) s) s

/-- VLD (R353, R367). -/
def execVld (f : Form) (s : State) : Host.Outcome State Fault Refusal := vecLoad f (ldstPlan f .a .d s) true s
/-- VST (R353, R367). -/
def execVst (f : Form) (s : State) : Host.Outcome State Fault Refusal := vecStore f (ldstPlan f .d .a s) true s
/-- VGATH (R353). -/
def execVgath (f : Form) (s : State) : Host.Outcome State Fault Refusal := vecLoad f (gathPlan f .a .d s) false s
/-- VSCAT (R353). -/
def execVscat (f : Form) (s : State) : Host.Outcome State Fault Refusal := vecStore f (gathPlan f .d .a s) false s

/-! Movement (R355, R357). -/

/-- A movement into D: `es` are the active lanes with their containers; the others follow the policy. -/
def moveInto (f : Form) (d : Ent) (es : List (Nat × Nat)) (has4 : Bool) (s : State) : Res :=
  .done ((s.modMe fun x => x.setV f.d.num (setLanes (x.vreg f.d.num) d.w (x.zeros f d.lanes ++ es))).vecEnd f FFlags.none
    false false has4 false)

/-- Entries of D and A of one width (R345). -/
def twoEnts (x : Ctx) (f : Form) : Except Flt (Ent × Ent) :=
  match vecEnt x f .d, vecEnt x f .a with
  | .error e, _ => .error e
  | _, .error e => .error e
  | .ok d, .ok a => if a.w != d.w then .error (cFMTUSE, x.entryNo f .a) else .ok (d, a)

/-- VBCAST (R355). -/
def execVbcast (f : Form) (s : State) : Host.Outcome State Fault Refusal :=
  issueVec f 12 (fun s =>
    let x := s.me
    match f.a with
    | .vec r _ =>
      match twoEnts x f with
      | .error e => laFault s e
      | .ok (d, _) =>
        let v := lane (x.vreg r) d.w ((x.opU f.b).toNat % d.lanes)
        moveInto f d ((x.actives f d.lanes).map (·, v)) false s
    | o =>
      match vecEnt x f .d with
      | .error e => laFault s e
      | .ok d => moveInto f d ((x.actives f d.lanes).map (·, x.splat o d.w)) false s) s

/-- VPERM (R355). -/
def execVperm (f : Form) (s : State) : Host.Outcome State Fault Refusal :=
  issueVec f 12 (fun s =>
    let x := s.me
    match twoEnts x f, vecEnt x f .b with
    | .error e, _ => laFault s e
    | _, .error e => laFault s e
    | .ok (d, a), .ok b =>
      if !a.int then .fault s cFMTUSE (x.entryNo f .a)
      else if b.w != d.w then .fault s cFMTUSE (x.entryNo f .b)
      else
        let n := d.lanes
        let get (i : Nat) : Nat :=
          let j := lane (x.vreg f.a.num) a.w i
          match f.vx.op4 with
          | none => lane (x.vreg f.b.num) d.w (j % n)
          | some q => if j % (2 * n) < n then lane (x.vreg f.b.num) d.w (j % (2 * n)) else lane (x.vreg q) d.w (j % (2 * n) - n)
        moveInto f d ((x.actives f n).map fun i => (i, get i)) true s) s

/-- VSPLT (R355): the odd elements are written last. -/
def execVsplt (f : Form) (s : State) : Host.Outcome State Fault Refusal :=
  issueVec f 12 (fun s =>
    let x := s.me
    match twoEnts x f, vecEnt x f .b with
    | .error e, _ => laFault s e
    | _, .error e => laFault s e
    | .ok (d, _), .ok b =>
      if b.w != d.w then .fault s cFMTUSE (x.entryNo f .b)
      else
        let n := d.lanes
        let get (j : Nat) : Nat := if j < n then lane (x.vreg f.a.num) d.w j else lane (x.vreg f.b.num) d.w (j - n)
        let write (k : Nat) (r : Nat) (y : Ctx) : Ctx :=
          y.setV r (setLanes (y.vreg r) d.w (x.zeros f n ++ (x.actives f n).map fun i => (i, get (2 * i + k))))
        let s := s.modMe (write 0 f.d.num)
        let s := match f.vx.op4 with
          | some q => s.modMe (write 1 q)
          | none => s
        .done (s.vecEnd f FFlags.none false false true false)) s

/-- VMOVS (R355): extract or insert. -/
def execVmovs (f : Form) (s : State) : Host.Outcome State Fault Refusal :=
  issueVec f 12 (fun s =>
    let x := s.me
    let b := (x.opU f.b).toNat
    match f.d, f.a with
    | .scalar q, .vec r _ =>
      match vecEnt x f .a with
      | .error e => laFault s e
      | .ok a =>
        let c := lane (x.vreg r) a.w (b % a.lanes)
        .done ((s.putS q (BitVec.ofInt 64 (if a.int && a.sgn then sxInt a.w c else c))).vecEnd f FFlags.none false false false false)
    | .vec r _, .scalar q =>
      match vecEnt x f .d with
      | .error e => laFault s e
      | .ok d =>
        let i := b % d.lanes
        let es := if x.active f i then [(i, (x.sreg q).toNat % 2 ^ d.w)] else if f.vx.mz then [(i, 0)] else []
        .done ((s.modMe fun x => x.setV r (setLanes (x.vreg r) d.w es)).vecEnd f FFlags.none false false false false)
    | _, _ => illegal s f 1) s

/-- VCMPR (R357). -/
def execVcmpr (f : Form) (s : State) : Host.Outcome State Fault Refusal :=
  issueVec f 12 (selector f fun s =>
    let x := s.me
    match twoEnts x f with
    | .error e => laFault s e
    | .ok (d, _) =>
      let n := d.lanes
      let sel := (x.actives f n).map (lane (x.vreg f.a.num) d.w)
      let c := sel.length
      let tail (i : Nat) : Nat := match f.vx.op4 with
        | some q => lane (x.vreg q) d.w i
        | none => 0
      let es := (List.range n).map fun i => (i, (sel[i]?).getD (tail i))
      let s := s.modMe fun x => (x.setV f.d.num (setLanes (x.vreg f.d.num) d.w es)).srSet rVCNT (BitVec.ofNat 64 c)
      .done (s.vecEnd f FFlags.none false false true false)) s

/-- VEXPD (R357). -/
def execVexpd (f : Form) (s : State) : Host.Outcome State Fault Refusal :=
  issueVec f 12 (fun s =>
    let x := s.me
    match twoEnts x f with
    | .error e => laFault s e
    | .ok (d, _) => moveInto f d ((x.actives f d.lanes).zipIdx.map fun p => (p.1, lane (x.vreg f.a.num) d.w p.2)) false s) s

/-! Conversion. -/

/-- The part of VCVT: B, or 0 (R356). -/
def partOf (f : Form) : Nat := f.b.immU

/-- The operands of VCVT (R356, R368). -/
def cvtPlan (f : Form) (s : State) : Except Flt Plan :=
  let x := s.me
  match vecPos s f .d (plainEntry x), vecPos s f .a (plainEntry x) with
  | .error e, _ => .error e
  | _, .error e => .error e
  | .ok (d, ed), .ok (a, ea) =>
    let p := partOf f
    let m := 512 / max ed.w ea.w
    if max ed.w ea.w / min ed.w ea.w ≤ p then .error (cILLEGAL, parcelAt s f 2)
    else match shapeCount s f [d, a] with
      | .error e => .error e
      | .ok n => .ok ⟨d, a, .none, .none, ed, ea, ea, m, n, fun l => if ed.w < ea.w then p * m + l else l,
          fun l => if ea.w < ed.w then p * m + l else l⟩

/-- VCVT (R230, R356). -/
def execVcvt (f : Form) (s : State) : Host.Outcome State Fault Refusal :=
  let plan := cvtPlan f (s.issued f)
  let cost := match plan with
    | .ok p => 24 + p.memCost f s
    | .error _ => 24
  issueVec f cost (fun s =>
    match plan with
    | .error e => laFault s e
    | .ok p =>
      let rm := s.me.roundMode f
      let seed := s.me.seed
      p.run f (!(p.ed.int && p.ea.int)) true false (fun j a _ _ => p.ed.encode rm (rstoBits seed j) (p.ea.decode a)) s) s

/-! Reductions and scans (R239, R358). -/

/-- How the nodes of a reduction work: the operation, D's entry, saturation and rounding. -/
structure Red where
  op   : Nat
  ed   : Ent
  ea   : Ent
  sat  : Bool
  rm   : Nat
  seed : Word

/-- A value on its way through a reduction: an exact value, an integer or container bits. -/
inductive RedVal where
  | flt (v : Val)
  | int (i : Int)
  | bits (c : Nat)
  deriving DecidableEq, Repr

/-- A container of an entry as a reduction reads it. -/
def Red.leaf (r : Red) (e : Ent) (c : Nat) : RedVal :=
  if 3 ≤ r.op then .bits c else if e.int then .int (e.decodeInt c) else .flt (e.decode c)

/-- A value placed in D's entry (R239, R346), with the element number for RSTO. -/
def Red.put (r : Red) (j : Nat) : RedVal → Nat × FFlags
  | .bits c => (c, FFlags.none)
  | .int i => r.ed.putInt r.sat i
  | .flt v => r.ed.encode r.rm (rstoBits r.seed j) v

/-- A node of two values, rounded into D's entry. -/
def Red.node (r : Red) (j : Nat) (a b : RedVal) : RedVal × FFlags :=
  match a, b with
  | .bits x, .bits y => (.bits (if r.op == 3 then x.land y else if r.op == 4 then x.lor y else x.xor y), FFlags.none)
  | .int x, .int y =>
    let (c, e) := r.ed.putInt r.sat (if r.op == 0 then x + y else if r.op == 1 then min x y else max x y)
    (.int (r.ed.decodeInt c), e)
  | .flt x, .flt y =>
    let (v, e1) := floatFun (if r.op == 0 then .add else if r.op == 1 then .min else .max) (r.rm == 4) x y (.zero false)
    let (c, e2) := r.put j (.flt v)
    (.flt (r.ed.decode c), e1.or e2)
  | _, _ => (a, FFlags.none)

/-- The identity of an operation in D's entry (R358). -/
def Red.ident (r : Red) : Nat :=
  match r.op with
  | 0 => 0
  | 1 => if r.ed.int then wrapNat r.ed.w r.ed.intMax else (r.ed.encode 2 0 (.inf false)).1
  | 2 => if r.ed.int then wrapNat r.ed.w r.ed.intMin else (r.ed.encode 2 0 (.inf true)).1
  | 3 => 2 ^ r.ed.w - 1
  | _ => 0

/-- One level of the pairwise tree: adjacent pairs, an absent member passing the other (R239). `j` counts the nodes. -/
def Red.level (r : Red) (step : Nat) : List (Option RedVal) → Nat → List (Option RedVal) × Nat × FFlags
  | a :: b :: rest, j =>
    let (n, j, e) := match a, b with
      | some x, some y =>
        let (v, e) := r.node (Config.nodeElement step j) x y
        (some v, j + 1, e)
      | some x, none => (some x, j, FFlags.none)
      | none, y => (y, j, FFlags.none)
    let (ns, j, e') := Red.level r step rest j
    (n :: ns, j, e.or e')
  | vs, j => (vs, j, FFlags.none)

/-- The tree of a list of lanes; an empty list has no value. -/
def Red.tree (r : Red) (step : Nat) (vs : List (Option RedVal)) (j : Nat) : Nat → Option RedVal × Nat × FFlags
  | 0 => (none, j, FFlags.none)
  | fuel + 1 =>
    match vs with
    | [] => (none, j, FFlags.none)
    | [v] => (v, j, FFlags.none)
    | _ =>
      let (vs, j, e) := r.level step vs j
      let (v, j, e') := Red.tree r step vs j fuel
      (v, j, e.or e')

/-- The checks that VRED and VSCAN share: the operation in B, the entries and their widths (R358). -/
def redOf (f : Form) (s : State) (ed ea : Ent) (ne : Nat) : Except Flt Red :=
  let op := bits f.b.immU 0 3
  if ed.int != ea.int then .error (cFMTUSE, ne)
  else if 3 ≤ op && ed.w != ea.w then .error (cFMTUSE, ne)
  else .ok ⟨op, ed, ea, f.vx.sat, s.me.roundMode f, s.me.seed⟩

/-- Whether a rounding modifier and SAT are taken without a warning: they go by the entries alone, whatever the operation
(R268). -/
def Red.rounds (r : Red) : Bool := !r.ed.int
def Red.satOk (r : Red) : Bool := r.ed.int

/-- The operands of VRED (R358, R368). -/
def vredPlan (f : Form) (s : State) : Except Flt (Plan × Red) :=
  let x := s.me
  if f.b.immU / 8 != 0 || 6 ≤ f.b.immU then .error (cILLEGAL, parcelAt s f 2)
  else match vecEnt x f .d, vecPos s f .a (plainEntry x) with
    | .error e, _ => .error e
    | _, .error e => .error e
    | .ok ed, .ok (a, ea) =>
      match redOf f s ed ea (posEntry s f .a), shapeCount s f [a] with
      | .error e, _ => .error e
      | _, .error e => .error e
      | .ok r, .ok n =>
        .ok (⟨.none, a, .none, .none, ed, ea, ea, if n.isSome then 512 / max ed.w ea.w else ea.lanes, n, id, id⟩, r)

/-- One step of VRED: the tree of its lanes, combined with the running result from the second step on (R358, R369). -/
def vredStep (f : Form) (p : Plan) (r : Red) (s : State) : Res :=
  let k := p.step s
  if p.n.isSome && p.steps ≤ k then p.finish f r.rounds r.satOk false s
  else
    let ls := p.lanes f s
    match checkElemsAt s p.a.isLa (p.a.elems p.ea.w k p.m ls) with
    | .error e => laFault s e
    | .ok _ =>
      if p.a.isVa && s.myCore.storesOut s.cur.ctx then .hold s .acks 0
      else if s.elemsWait p.a.isLa (p.a.elems p.ea.w k p.m ls) then .hold s .pins 0
      else match p.a.read s p.ea.w k p.m id ls with
        | (.error e, s) => .fault s e.1 e.2
        | (.ok vs, s) =>
          let leaves := (List.range p.m).map fun l => (vs.find? (·.1 == l)).map fun v => r.leaf p.ea v.2
          let (v, j, e) := r.tree k leaves 0 10
          let run := lane (s.me.vreg f.d.num) p.ed.w 0
          let (c, e') : Nat × FFlags :=
            if k == 0 then match v with
              | some v => r.put (Config.nodeElement k j) v
              | none => (r.ident, FFlags.none)
            else match v with
              | some v =>
                let (n, e1) := r.node (Config.nodeElement k j) (r.leaf p.ed run) v
                let (c, e2) := r.put (Config.nodeElement k (j + 1)) n
                (c, e1.or e2)
              | none => (run, FFlags.none)
          p.next f (e.or e') r.rounds r.satOk false
            (s.modMe fun x => x.setV f.d.num (BitVec.ofNat 512 c))

/-- VRED (R239, R358). -/
def execVred (f : Form) (s : State) : Host.Outcome State Fault Refusal :=
  let plan := vredPlan f (s.issued f)
  let cost := match plan with
    | .ok (p, _) => (if p.ed.int then 12 else 24) + p.memCost f s
    | .error _ => 12
  issueVec f cost (selector f fun s =>
    match plan with
    | .error e => laFault s e
    | .ok (p, r) => vredStep f p r s) s

/-- The running combination of a scan over the active lanes, with each lane's output (R358). -/
def Red.scan (r : Red) (ex : Bool) (vs : List (Nat × Nat)) (acc : Option RedVal) : List (Nat × Nat) × FFlags :=
  match vs with
  | [] => ([], FFlags.none)
  | (i, c) :: rest =>
    let x := r.leaf r.ea c
    if ex then
      let a := acc.getD (r.leaf r.ed r.ident)
      let (o, e1) := r.put i a
      let (n, e2) := if rest.isEmpty then (a, FFlags.none) else r.node (Config.nodeElement 0 i) a x
      let (os, e3) := Red.scan r ex rest (some n)
      ((i, o) :: os, (e1.or e2).or e3)
    else
      let (n, e1) := match acc with
        | some a => r.node i a x
        | none => (x, FFlags.none)
      let (o, e2) := r.put i n
      let (os, e3) := Red.scan r ex rest (some (r.leaf r.ed o))
      ((i, o) :: os, (e1.or e2).or e3)

/-- VSCAN (R239, R358). -/
def execVscan (f : Form) (s : State) : Host.Outcome State Fault Refusal :=
  let x := s.me
  let cost := match twoEnts x f with
    | .ok (d, _) => if d.int then 12 else 24
    | .error _ => 12
  issueVec f cost (fun s =>
    let x := s.me
    if f.b.immU / 16 != 0 || 6 ≤ bits f.b.immU 0 3 then illegal s f 2
    else match twoEnts x f with
      | .error e => laFault s e
      | .ok (d, a) =>
        match redOf f s d a (x.entryNo f .a) with
        | .error e => laFault s e
        | .ok r =>
          let vs := (x.actives f d.lanes).map fun i => (i, lane (x.vreg f.a.num) a.w i)
          let (os, fl) := r.scan (bit f.b.immU 3) vs none
          let es := x.zeros f d.lanes ++ os
          .done ((s.modMe fun x => x.setV f.d.num (setLanes (x.vreg f.d.num) d.w es)).vecEnd f fl r.rounds r.satOk false false)) s

end Sys2Proof.Machine
end

