-- ==== Sys2Proof/Machine/VecSpecial.lean ====
section
/-! DEFINITION. Major 0x90: special functions, histograms, sorting, search and classes
(spec/15_vector_instructions.md R362 to R366; spec/10_numbers_and_format_table.md R232). -/
namespace Sys2Proof.Machine

/-! Special functions. A function's value is given as the integer part of its magnitude on a grid of 2^x that is finer
than every rounding decision, and whether anything is left over. The irrational ones are computed from below with 192
fractional bits, which settles every integer part unless the value lies within 2^-90 of a grid point (log entry 43). -/

/-- Fractional bits of the fixed-point numbers. -/
def fxBits : Nat := 192

/-- ln 2 from below: 2 × (z + z³/3 + z⁵/5 + …) at z = 1/3. -/
def fxAtanh (z zz : Nat) (k : Nat) : Nat → Nat
  | 0 => 0
  | fuel + 1 => z / (2 * k + 1) + fxAtanh (z * zz / 2 ^ fxBits) zz (k + 1) fuel

/-- 2 × atanh (a / b) for a < b, from below. -/
def fxLn (a b : Nat) : Nat :=
  let z := a * 2 ^ fxBits / b
  2 * fxAtanh z (z * z / 2 ^ fxBits) 0 130

/-- ln 2. -/
def fxLn2 : Nat := fxLn 1 3

/-- The sum 1 + y + y²/2 + … for a fixed-point y below 1, from below. -/
def fxExpSum (t y : Nat) (k : Nat) : Nat → Nat
  | 0 => 0
  | fuel + 1 => t + fxExpSum (t * y / 2 ^ fxBits / (k + 1)) y (k + 1) fuel

/-- e^y for a fixed-point y below 2^12, from below: the sum at y / 2^12, squared 12 times. -/
def fxExp (y : Nat) : Nat :=
  (List.range 12).foldl (fun e _ => e * e / 2 ^ fxBits) (fxExpSum (2 ^ fxBits) (y / 2 ^ 12) 0 40)

/-- The integer square root by binary digits, from bit `k - 1` down. -/
def isqrt (n r : Nat) : Nat → Nat
  | 0 => r
  | k + 1 => let c := r + 2 ^ k; isqrt n (if c * c ≤ n then c else r) k

/-- A magnitude at least 0 as fixed point, from below. -/
def fxOf (m : Nat) (x : Int) : Nat :=
  let e := x + fxBits
  if 0 ≤ e then m * 2 ^ e.toNat else m / 2 ^ (-e).toNat

/-- 1/x for m × 2^x. -/
def rcpVal (neg : Bool) (m : Nat) (x : Int) : Val :=
  let k := m.log2 + 96
  .fin neg (2 ^ k / m) (-x - k) (2 ^ k % m != 0)

/-- 1/√x for m × 2^x: the square root of 2^k / m with an even exponent. -/
def rsqVal (m : Nat) (x : Int) : Val :=
  let k := 2 * m.log2 + 200 + (if x % 2 == 0 then 0 else 1)
  let q := 2 ^ k / m
  let r := isqrt q 0 (q.log2 / 2 + 1)
  .fin false r (-(x + k) / 2) (r * r * m != 2 ^ k)

/-- 2^x for ±m × 2^x, whose fraction f gives e^(f ln 2). -/
def exp2Val (neg : Bool) (m : Nat) (x : Int) : Val :=
  if 13 ≤ binade m x then .fin false 1 (if neg then -8192 else 8192) true
  else if x < -400 && binade m x < -200 then
    (if neg then .fin false (2 ^ 97 - 1) (-97) true else .fin false (2 ^ 96) (-96) true)
  else
    let s : Int := if neg then -(m : Int) else m
    let d : Int := 2 ^ (-x).toNat
    let i : Int := if 0 ≤ x then s * 2 ^ x.toNat else s / d
    let f : Int := if 0 ≤ x then 0 else s % d
    if f == 0 then .fin false 1 i false
    else .fin false (fxExp (f.toNat * fxLn2 / d.toNat) / 2 ^ 96) (i - 96) true

/-- log2 of m × 2^x. -/
def log2Val (m : Nat) (x : Int) : Val :=
  let e := binade m x
  let one := 2 ^ m.log2
  if m == one then Val.ofInt e
  else
    let l := fxLn (m - one) (m + one) * 2 ^ fxBits / fxLn2
    let v : Int := e * 2 ^ fxBits + l
    if v < 0 then .fin true (v.natAbs / 2 ^ 60) (60 - fxBits) true else .fin false (v.toNat / 2 ^ 60) (60 - fxBits) true

/-- tanh of ±m × 2^x: (E − 1) / (E + 1) at E = e^(2|x|). -/
def tanhVal (neg : Bool) (m : Nat) (x : Int) : Val :=
  let b := binade m x
  if b < -40 then .fin neg (m * 2 ^ 96 - 1) (x - 96) true
  else if 7 ≤ b then .fin neg (2 ^ 96 - 1) (-96) true
  else
    let e := fxExp (fxOf m (x + 1))
    .fin neg (2 ^ 120 * (e - 2 ^ fxBits) / (e + 2 ^ fxBits)) (-120) true

/-- 1 / (1 + e^−x) of ±m × 2^x. -/
def sigmVal (neg : Bool) (m : Nat) (x : Int) : Val :=
  if 11 ≤ binade m x then (if neg then .fin false 1 (-4096) true else .fin false (2 ^ 96 - 1) (-96) true)
  else
    let e := fxExp (fxOf m x)
    if neg then
      let k := e.log2 + 120
      .fin false (2 ^ k / (e + e / 2 ^ 150 + 1 + 2 ^ fxBits)) (fxBits - k) true
    else .fin false (2 ^ 120 * e / (e + 2 ^ fxBits)) (-120) true

/-- The special functions, in the order of R362. -/
inductive SFun where
  | rcp | rsq | exp2 | log2 | tanh | sigm
  deriving DecidableEq, Repr

def SFun.no : SFun → Nat
  | .rcp => 0
  | .rsq => 1
  | .exp2 => 2
  | .log2 => 3
  | .tanh => 4
  | .sigm => 5

/-- The value of a special function (R232, R363). -/
def specialVal (fn : SFun) (v : Val) : Val × FFlags :=
  let nv : Val × FFlags := (.dnan, { FFlags.none with nv := true })
  let dz (n : Bool) : Val × FFlags := (.inf n, { FFlags.none with dz := true })
  let ok (v : Val) : Val × FFlags := (v, FFlags.none)
  match v with
  | .nan n s f w => (.nan n false f w, { FFlags.none with nv := s })
  | .inf n =>
    match fn with
    | .rcp => ok (.zero n)
    | .rsq => if n then nv else ok (.zero false)
    | .exp2 => ok (if n then .zero false else .inf false)
    | .log2 => if n then nv else ok (.inf false)
    | .tanh => ok (.fin n 1 0 false)
    | .sigm => ok (if n then .zero false else .fin false 1 0 false)
  | .zero n =>
    match fn with
    | .rcp => dz n
    | .rsq => dz n
    | .exp2 => ok (.fin false 1 0 false)
    | .log2 => dz true
    | .tanh => ok (.zero n)
    | .sigm => ok (.fin false 1 (-1) false)
  | .fin n m x _ =>
    match fn with
    | .rcp => ok (rcpVal n m x)
    | .rsq => if n then nv else ok (rsqVal m x)
    | .exp2 => ok (exp2Val n m x)
    | .log2 => if n then nv else ok (log2Val m x)
    | .tanh => ok (tanhVal n m x)
    | .sigm => ok (sigmVal n m x)

/-- The fields of an entry as one number. -/
def Ent.code (e : Ent) : Nat :=
  e.sgn.toNat + 2 * e.ew + 2 ^ 5 * e.fw + 2 ^ 10 * (e.bias + 256).toNat + 2 ^ 19 * e.pol + 2 ^ 22 * e.sub.toNat

/-- A result in a 32-bit entry (R363): one of the values that the accuracy of the function allows, chosen by a free
value; the same operand gives the same result. Log entry 11. -/
def wideSpecial (fn : SFun) (ed ea : Ent) (c : Nat) (v : Val) : Nat × FFlags :=
  match v with
  | .fin neg m x more =>
    let q := ed.quantum (binade m x)
    let (n, k, _) := splitAt m x q more
    let pick := Config.specialChoice fn.no (c + 2 ^ 32 * ea.code + 2 ^ 64 * ed.code)
    let loose := fn == .tanh || fn == .sigm
    let r := if loose then (if k == 0 then n + pick % 5 - 2 else n + pick % 4 - 1) else if k == 0 then n else n + pick % 2
    let (z, e) := ed.encode 1 0 (Val.mk neg r q)
    let inexact := k != 0 || r != n
    (z, { e with nx := e.nx || inexact, uf := e.uf || (inexact && binade m x < 1 - ed.bias) })
  | .zero neg =>
    if fn == .tanh then
      let r := Config.specialChoice fn.no (c + 2 ^ 32 * ea.code + 2 ^ 64 * ed.code) % 3
      let q := if ed.sub then 1 - ed.bias - ed.fw else 1 - ed.bias
      let (z, e) := ed.encode 1 0 (Val.mk neg r q)
      (z, { e with nx := r != 0, uf := r != 0 })
    else ed.encode 1 0 (.zero neg)
  | v => ed.encode 1 0 v

/-- One element of a special function. -/
def specialElem (fn : SFun) (ed ea : Ent) (rm : Nat) (seed : Word) (j c : Nat) : Nat × FFlags :=
  let a := ea.decode c
  let (v, e1) := specialVal fn a
  let limit := a.isInf || a.isNan
  let (z, e2) := if ed.w == 32 && !limit then wideSpecial fn ed ea c v else ed.encode rm (rstoBits seed j) v
  (z, e1.or e2)

/-- The operands of a special function: floating-point entries of one width (R345, R363). -/
def specialPlan (f : Form) (s : State) : Except Flt Plan :=
  let x := s.me
  match vecPos s f .d (plainEntry x), vecPos s f .a (plainEntry x) with
  | .error e, _ => .error e
  | _, .error e => .error e
  | .ok (d, ed), .ok (a, ea) =>
    if ed.int then .error (cFMTUSE, posEntry s f .d)
    else if ea.int || ea.w != ed.w then .error (cFMTUSE, posEntry s f .a)
    else match shapeCount s f [d, a] with
      | .error e => .error e
      | .ok n => .ok ⟨d, a, .none, .none, ed, ea, ea, ed.lanes, n, id, id⟩

/-- A special function (R363). -/
def vecSpecial (fn : SFun) (f : Form) (s : State) : Host.Outcome State Fault Refusal :=
  let plan := specialPlan f (s.issued f)
  let cost := match plan with
    | .ok p => 48 + p.memCost f s
    | .error _ => 48
  issueVec f cost (fun s =>
    match plan with
    | .error e => laFault s e
    | .ok p =>
      let rm := s.me.roundMode f
      let seed := s.me.seed
      p.run f true false false (fun j a _ _ => specialElem fn p.ed p.ea rm seed j a) s) s

/-- VRCP (R363). -/
def execVrcp (f : Form) (s : State) : Host.Outcome State Fault Refusal := vecSpecial .rcp f s
/-- VRSQ (R363). -/
def execVrsq (f : Form) (s : State) : Host.Outcome State Fault Refusal := vecSpecial .rsq f s
/-- VEXP2 (R363). -/
def execVexp2 (f : Form) (s : State) : Host.Outcome State Fault Refusal := vecSpecial .exp2 f s
/-- VLOG2 (R363). -/
def execVlog2 (f : Form) (s : State) : Host.Outcome State Fault Refusal := vecSpecial .log2 f s
/-- VTANH (R363). -/
def execVtanh (f : Form) (s : State) : Host.Outcome State Fault Refusal := vecSpecial .tanh f s
/-- VSIGM (R363). -/
def execVsigm (f : Form) (s : State) : Host.Outcome State Fault Refusal := vecSpecial .sigm f s

/-! Histograms and merging (R364). -/

/-- The operands of VHIST: POL 3 entries, the weights in A's width. -/
def vhistPlan (f : Form) (s : State) : Except Flt Plan :=
  let x := s.me
  match vecEnt x f .d, vecPos s f .a (plainEntry x) with
  | .error e, _ => .error e
  | _, .error e => .error e
  | .ok ed, .ok (a, ea) =>
    if !ed.int then .error (cFMTUSE, x.entryNo f .d)
    else if !ea.int then .error (cFMTUSE, posEntry s f .a)
    else
      let b : Except Flt (VSrc × Ent) := match f.b with
        | .vec r _ => (vecEnt x f .b).map fun e => (.reg r, e)
        | _ => .ok (.none, ea)
      match b, shapeCount s f [a] with
      | .error e, _ => .error e
      | _, .error e => .error e
      | .ok (b, eb), .ok n =>
        if !eb.int || eb.w != ea.w then .error (cFMTUSE, x.entryNo f .b)
        else .ok ⟨.none, a, b, .none, ed, ea, eb, if n.isSome then 512 / max ed.w ea.w else ea.lanes, n, id, id⟩

/-- The bins after the elements of a step, in lane order. -/
def histBins (ed ea eb : Ent) (sat weighted : Bool) (d : VWord) (av bv : List (Nat × Nat)) : VWord × FFlags :=
  av.foldl (fun (g : VWord × FFlags) v =>
    let x := ea.decodeInt v.2
    if 0 ≤ x && x < ed.lanes then
      let w : Int := if weighted then eb.decodeInt (laneVal bv v.1) else 1
      let (c, e) := ed.putInt sat (ed.decodeInt (lane g.1 ed.w x.toNat) + w)
      (setLanes g.1 ed.w [(x.toNat, c)], g.2.or e)
    else g) (d, FFlags.none)

/-- One step of VHIST. -/
def vhistStep (f : Form) (p : Plan) (s : State) : Res :=
  let k := p.step s
  if p.n.isSome && p.steps ≤ k then p.finish f false true false s
  else
    let ls := p.lanes f s
    match checkElemsAt s p.a.isLa (p.a.elems p.ea.w k p.m ls) with
    | .error e => laFault s e
    | .ok _ =>
      if p.a.isVa && s.myCore.storesOut s.cur.ctx then .hold s .acks 0
      else if s.elemsWait p.a.isLa (p.a.elems p.ea.w k p.m ls) then .hold s .pins 0
      else match p.a.read s p.ea.w k p.m id ls with
        | (.error e, s) => .fault s e.1 e.2
        | (.ok av, s) =>
          match p.b.read s p.eb.w k p.m id ls with
          | (.error e, s) => .fault s e.1 e.2
          | (.ok bv, s) =>
            let (d, fl) := histBins p.ed p.ea p.eb f.vx.sat (!f.b.isNone) (s.me.vreg f.d.num) av bv
            p.next f fl false true false (s.modMe (·.setV f.d.num d))

/-- VHIST (R364). -/
def execVhist (f : Form) (s : State) : Host.Outcome State Fault Refusal :=
  let plan := vhistPlan f (s.issued f)
  let cost := match plan with
    | .ok p => 48 + p.memCost f s
    | .error _ => 48
  issueVec f cost (selector f fun s =>
    match plan with
    | .error e => laFault s e
    | .ok p => vhistStep f p s) s

/-- The maximal runs of consecutive active lanes of equal keys: each run's lanes in order (R364). -/
def runsOf (key : Nat → Nat) (act : Nat → Bool) : List Nat → List (List Nat)
  | [] => []
  | i :: rest =>
    let rs := runsOf key act rest
    if !act i then rs
    else match rs with
      | (j :: js) :: more => if j == i + 1 && key j == key i then (i :: j :: js) :: more else [i] :: (j :: js) :: more
      | _ => [[i]]

/-- VHMRG (R364). -/
def execVhmrg (f : Form) (s : State) : Host.Outcome State Fault Refusal :=
  issueVec f 48 (fun s =>
    let x := s.me
    match twoEnts x f, vecEnt x f .b with
    | .error e, _ => laFault s e
    | _, .error e => laFault s e
    | .ok (d, a), .ok b =>
      if b.w != d.w || b.int != d.int then .fault s cFMTUSE (x.entryNo f .b)
      else
        let n := d.lanes
        let rm := x.roundMode f
        let runs := runsOf (lane (x.vreg f.a.num) a.w) (x.active f) (List.range n)
        let sum (ls : List Nat) : Nat × FFlags :=
          let cs := ls.map (lane (x.vreg f.b.num) b.w)
          if d.int then d.putInt f.vx.sat (cs.foldl (fun t c => t + b.decodeInt c) 0)
          else
            let vs := cs.map b.decode
            let (v, e1) : Val × FFlags := match firstNan vs with
              | some v => (v, sigFlags vs)
              | none => sumVals (rm == 4) vs
            let (z, e2) := d.encode rm (rstoBits x.seed (ls.getLastD 0)) v
            (z, e1.or e2)
        let out := runs.map fun ls => (ls, sum ls)
        let fl := out.foldl (fun g o => g.or o.2.2) FFlags.none
        let es := out.flatMap fun o => o.1.dropLast.map (·, 0) ++ [(o.1.getLastD 0, o.2.1)]
        let es := x.zeros f n ++ es
        .done ((s.modMe fun x => x.setV f.d.num (setLanes (x.vreg f.d.num) d.w es)).vecEnd f fl (!d.int) d.int false false)) s

/-! Sorting, search and classes (R365, R366). -/

/-- The rank of a value's kind in ascending order. -/
def sortRank : Val → Int
  | .nan n _ _ _ => if n then -4 else 4
  | .inf n => if n then -3 else 3
  | .fin n _ _ _ => if n then -2 else 2
  | .zero n => if n then -1 else 1

/-- Whether a key sorts strictly before another (R365). -/
def sortsBefore (e : Ent) (a b : Nat) : Bool :=
  if e.int then e.decodeInt a < e.decodeInt b
  else
    let x := e.decode a
    let y := e.decode b
    if sortRank x != sortRank y then sortRank x < sortRank y
    else match x, y with
      | .fin _ _ _ _, .fin _ _ _ _ => cmpVals x y < 0
      | _, _ => false

/-- A lane put into a sorted list before the first that it precedes; equal keys keep their order. -/
def sortInsert (lt : Nat → Nat → Bool) (i : Nat) : List Nat → List Nat
  | [] => [i]
  | j :: rest => if lt j i || !lt i j then j :: sortInsert lt i rest else i :: j :: rest

/-- Lanes in sorted order, stably. -/
def sortLanes (lt : Nat → Nat → Bool) (ls : List Nat) : List Nat := ls.foldl (fun acc i => sortInsert lt i acc) []

/-- VSORT (R365). -/
def execVsort (f : Form) (s : State) : Host.Outcome State Fault Refusal :=
  issueVec f 48 (fun s =>
    let x := s.me
    if 1 < f.b.immU then illegal s f 2
    else match twoEnts x f with
      | .error e => laFault s e
      | .ok (d, a) =>
        let n := d.lanes
        let key := lane (x.vreg f.a.num) a.w
        let down := f.b.immU == 1
        let lt (i j : Nat) : Bool := if down then sortsBefore a (key j) (key i) else sortsBefore a (key i) (key j)
        let act := x.actives f n
        let order := sortLanes lt act
        let into (src : VWord) : List (Nat × Nat) := (act.zip order).map fun p => (p.1, lane src d.w p.2)
        let s := s.modMe fun y => y.setV f.d.num (setLanes (y.vreg f.d.num) d.w (x.zeros f n ++ into (x.vreg f.a.num)))
        let s := match f.vx.op4 with
          | some q => s.modMe fun y => y.setV q (setLanes (y.vreg q) d.w (into (x.vreg q)))
          | none => s
        .done (s.vecEnd f FFlags.none false false true false)) s

/-- VSRCH (R366). -/
def execVsrch (f : Form) (s : State) : Host.Outcome State Fault Refusal :=
  issueVec f 48 (fun s =>
    let x := s.me
    match twoEnts x f, vecEnt x f .b with
    | .error e, _ => laFault s e
    | _, .error e => laFault s e
    | .ok (d, a), .ok b =>
      if !d.int || d.w < 8 then .fault s cFMTUSE (x.entryNo f .d)
      else if b.w != d.w || b.int != a.int then .fault s cFMTUSE (x.entryNo f .b)
      else
        let n := d.lanes
        let one (i : Nat) : Nat × FFlags :=
          let q := lane (x.vreg f.a.num) a.w i
          let js := (List.range n).map fun j =>
            let k := lane (x.vreg f.b.num) b.w j
            if a.int then (decide (b.decodeInt k < a.decodeInt q), FFlags.none) else cmpFloat 2 (b.decode k) (a.decode q)
          let fl := js.foldl (fun g r => g.or r.2) FFlags.none
          (if !a.int && (a.decode q).isNan then n else (js.filter (·.1)).length, fl)
        let out := (x.actives f n).map fun i => (i, one i)
        let fl := out.foldl (fun g o => g.or o.2.2) FFlags.none
        let es := x.zeros f n ++ out.map fun o => (o.1, o.2.1)
        .done ((s.modMe fun x => x.setV f.d.num (setLanes (x.vreg f.d.num) d.w es)).vecEnd f fl false false false false)) s

/-- The class number of a value under its entry (R366). -/
def classOf (e : Ent) : Val → Nat
  | .nan _ sig _ _ => if sig then 8 else 9
  | .inf n => if n then 0 else 7
  | .zero n => if n then 3 else 4
  | .fin n m x _ =>
    let sub := e.pol != 4 && binade m x < 1 - e.bias
    match n, sub with
    | true, false => 1
    | true, true => 2
    | false, true => 5
    | false, false => 6

/-- VCLASS (R366). -/
def execVclass (f : Form) (s : State) : Host.Outcome State Fault Refusal :=
  issueVec f 12 (fun s =>
    let x := s.me
    match vecEnt x f .d, vecEnt x f .a with
    | .error e, _ => laFault s e
    | _, .error e => laFault s e
    | .ok d, .ok a =>
      if !d.int || d.w < 8 then .fault s cFMTUSE (x.entryNo f .d)
      else if a.int || a.w != d.w then .fault s cFMTUSE (x.entryNo f .a)
      else moveInto f d ((x.actives f d.lanes).map fun i => (i, classOf a (a.decode (lane (x.vreg f.a.num) a.w i)))) false s) s

end Sys2Proof.Machine
end

