-- ==== Sys2Proof/Machine/Attn.lean ====
section
/-! DEFINITION. Attention in the slices: the work of a contributor and the weighbridge
(spec/04_kv_store_and_slice_attention.md R107, R111 to R119), ATTN and AMRG
(spec/16_matrix_kv_attention_instructions.md R389, R390). -/
namespace Sys2Proof.Machine

/-! FP32 arithmetic on bits under RNE (R112). -/

/-- A value in FP32, rounded to nearest even. -/
def f32Of (v : Val) : Nat := (fp32.encode 1 0 v).1

/-- A function of FP32 containers. -/
def f32Fun (fn : VFun) (a b c : Nat) : Nat := f32Of (floatFun fn false (fp32.decode a) (fp32.decode b) (fp32.decode c)).1

def f32Add (a b : Nat) : Nat := f32Fun .add a b 0
def f32Mul (a b : Nat) : Nat := f32Fun .mul a b 0
def f32Fma (a b c : Nat) : Nat := f32Fun .fma a b c

/-- exp2 of the difference of two containers, which is not rounded first (R111, R114). -/
def f32Exp2Sub (a b : Nat) : Nat :=
  f32Of (specialVal .exp2 (floatFun .sub false (fp32.decode a) (fp32.decode b) (.zero false)).1).1

def f32IsNan (a : Nat) : Bool := (fp32.decode a).isNan
def f32Gt (a b : Nat) : Bool := 0 < cmpVals (fp32.decode a) (fp32.decode b)

/-- −∞, +∞ and the default quiet NaN. -/
def f32NegInf : Nat := 0xFF800000
def f32Inf : Nat := 0x7F800000
def f32Nan : Nat := 0x7FC00000

/-- An element of an entry in FP32, as VCVT converts it under RNE (R112). -/
def f32From (e : Ent) (c : Nat) : Nat := f32Of (e.decode c)

/-- `n` elements of an entry at the start of a word, in FP32. -/
def f32Row (e : Ent) (data n : Nat) : List Nat := (List.range n).map fun i => f32From e (bits data (e.w * i) e.w)

/-- One level of a pairwise tree. -/
def pairSums : List Nat → List Nat
  | a :: b :: rest => f32Add a b :: pairSums rest
  | xs => xs

/-- The pairwise tree in element order (R112). -/
def treeSum (xs : List Nat) : Nat → Nat
  | 0 => xs.headD 0
  | fuel + 1 => if xs.length ≤ 1 then xs.headD 0 else treeSum (pairSums xs) fuel

/-- dot of R112. -/
def dotRows (q k : List Nat) : Nat := treeSum ((q.zip k).map fun p => f32Mul p.1 p.2) 9

/-! Triples. -/

/-- The triple of a contributor that has used no token (R112). -/
def Triple.empty (d : Nat) : Triple := ⟨f32NegInf, 0, List.replicate d 0, 0, 0, 0, 0⟩

/-- A triple all default quiet NaN, with its counts. -/
def Triple.allNan (t : Triple) : Triple := { t with m := f32Nan, l := f32Nan, o := t.o.map fun _ => f32Nan }

/-- One token added to a head's triple (R111, R112). -/
def Triple.token (t : Triple) (scale : Nat) (q k v : List Nat) : Triple :=
  if f32IsNan t.m then t
  else
    let sc := f32Mul scale (dotRows q k)
    if f32IsNan sc || sc == f32Inf then t.allNan
    else
      let t := if f32Gt sc t.m then
          let c := f32Exp2Sub t.m sc
          { t with l := f32Mul t.l c, o := t.o.map (f32Mul · c), m := sc }
        else t
      let p := if sc == f32NegInf then 0 else f32Exp2Sub sc t.m
      { t with l := f32Add t.l p, o := (t.o.zip v).map fun x => f32Fma p x.2 x.1 }

/-- The counts of R114 added, saturating. -/
def Triple.addCounts (t u : Triple) : Triple :=
  { t with nused := min 0xFFFFFFFF (t.nused + u.nused), miss := min 0xFFFF (t.miss + u.miss),
           cold := min 0xFFFF (t.cold + u.cold), pois := min 0xFFFF (t.pois + u.pois) }

/-- Two triples of one head combined (R114). -/
def Triple.merge (t u : Triple) : Triple :=
  let r : Triple :=
    if f32IsNan t.m || f32IsNan u.m then t.allNan
    else if t.l == 0 then u
    else if u.l == 0 then t
    else
      let m := if f32Gt u.m t.m then u.m else t.m
      let e1 := f32Exp2Sub t.m m
      let e2 := f32Exp2Sub u.m m
      let two (a b : Nat) : Nat := f32Add (f32Mul a e1) (f32Mul b e2)
      { t with m := m, l := two t.l u.l, o := (t.o.zip u.o).map fun x => two x.1 x.2 }
  { r with nused := t.nused, miss := t.miss, cold := t.cold, pois := t.pois }.addCounts u

/-- Two sets of triples combined head by head. -/
def mergeSets (ts us : List Triple) : List Triple := (ts.zip us).map fun x => x.1.merge x.2

/-- Bytes of a record of D elements (R116). -/
def recBytes (d : Nat) : Nat := 64 + 4 * d

/-- A record of R116. -/
def Triple.record (t : Triple) : Nat :=
  t.m + t.l * 2 ^ 32 + t.nused * 2 ^ 64 + t.miss * 2 ^ 96 + t.cold * 2 ^ 112 + t.pois * 2 ^ 128 +
    (t.o.zipIdx.foldl (fun n x => n + x.1 * 2 ^ (32 * x.2)) 0) * 2 ^ 512

/-- The triple of a record. -/
def tripleOf (d raw : Nat) : Triple :=
  ⟨bits raw 0 32, bits raw 32 32, (List.range d).map fun i => bits raw (512 + 32 * i) 32, bits raw 64 32, bits raw 96 16,
   bits raw 112 16, bits raw 128 16⟩

/-- The records of a set, in head order. -/
def packRecords (d : Nat) (ts : List Triple) : Nat :=
  ts.zipIdx.foldl (fun n x => n + x.1.record * 2 ^ (8 * recBytes d * x.2)) 0

/-- The triples of `g` records. -/
def unpackRecords (d g raw : Nat) : List Triple :=
  (List.range g).map fun i => tripleOf d (bits raw (8 * recBytes d * i) (8 * recBytes d))

/-! ATTN at issue. -/

/-- FQ: a float entry that is not POL 5 (R233, R389). -/
def queryEntry (x : FmtWord) (n : Nat) : Except Flt FmtWord :=
  let e := entOf x
  if !e.valid then .error (cFMTINV, n) else if e.pol == 5 || e.int then .error (cFMTUSE, n) else .ok x

/-- The checks of ATTN at issue: what the operation does, its sync word and the bytes that it writes. -/
def attnReq (s : State) (w : Word) : Except Flt (EngAct × SyncRef × Nat) :=
  match readKvReq s .attn w with
  | .error e => .error e
  | .ok (_, r) =>
    let d := dimOf r.dsel
    let g := r.gm1 + 1
    match queryEntry (s.me.fent r.fq) r.fq, kvEntry (s.me.fent r.fk) r.fk d, kvEntry (s.me.fent r.fv) r.fv d with
    | .error e, _, _ => .error e
    | _, .error e, _ => .error e
    | _, _, .error e => .error e
    | .ok fq, .ok fk, .ok fv =>
      match laRange s.cur.core r.ala (g * d * (entOf fq).w / 8) 64, laRange s.cur.core r.bla (g * recBytes d) 64,
          syncPlace s.cur.core (BitVec.ofNat 64 r.swla) with
      | .error e, _, _ => .error e
      | _, .error e, _ => .error e
      | _, _, .error e => .error e
      | .ok a, .ok b, .ok sw =>
        .ok (.attn r.seq r.head r.lblk r.nlb r.dsel r.gm1 fq fk fv r.scale a b, some sw, g * recBytes d)

/-- ATTN (R389). -/
def execAttn (f : Form) (s : State) : Host.Outcome State Fault Refusal :=
  issueWith f 16 (scalarWarn f false) false false (kvReport f) (fun s =>
    match attnReq s (s.me.opAddr f.a) with
    | .error e => laFault s e
    | .ok (act, sync, n) => asRelease (fun s =>
        let (id, s) := s.engStart { s.newOp act sync 1 n with started := true }
        .done (s.later 1 (.pitchMapRequest id))) s) s

/-! The request at the pitch map. -/

/-- Keys of an operation's table of values: the queries, and the blocks that a slice has passed. -/
def dataQueries : Nat := 0
def dataPassed (slice : Nat) : Nat := 1 + slice

/-- The result written, with the poison of heads whose queries are poisoned, and the end of the operation (R116, R389). -/
def State.attnWrite (s : State) (id : Nat) (o : EngOp) (d bla : Nat) (ts : List Triple) : State :=
  let core := (bla - meshBase) / 65536
  let off := bla % 65536
  let s := s.stallWrite core off (ts.length * recBytes d) (packRecords d ts)
  let bad := o.poisonHeads.flatMap fun h => (List.range (recBytes d / 4)).map fun i => stallPa core off + h * recBytes d + 4 * i
  let s := bad.foldl (fun s pa => s.setPoison pa) s
  if o.poisonHeads.isEmpty then s.later 0 (.engineOpComplete id) else s.engFault id ecPOISON

/-- ATTN at the pitch map: its queries are read, and the lookups go to the home slices of its blocks, with the number of
triples that each merge point will combine (R111, R114, R389). -/
def State.attnRequest (s : State) (id : Nat) (o : EngOp) (seq head lblk nlb dsel gm1 : Nat) (fq : FmtWord) (ala bla : Nat) :
    State :=
  let d := dimOf dsel
  let n := d * (entOf fq).w / 8
  let (raw, _) := stallAt s ala ((gm1 + 1) * n)
  let heads := (List.range (gm1 + 1)).filter fun h => (stallAt s (ala + h * n) n).2.isSome
  let s := heads.foldl (fun s _ => s.countErr (stkOf ((ala - meshBase) / 65536)) 3) s
  let o := { o with data := o.data.put dataQueries raw, poisonHeads := heads }
  let s := s.modOp id fun _ => o
  match s.kvQ (head % 4), nlb with
  | some q, n + 1 =>
    let slices := ((List.range (n + 1)).foldl (fun m i => NatSet.insert (q.home ⟨o.asid / 1024, seq, head, lblk + i⟩) m) [])
    let quads := (slices.map (· / 16)).eraseDups
    let exps : Assoc Nat := quads.foldl (fun e k => e.put (64 + k) (slices.filter (· / 16 == k)).length) []
    let s := s.modOp id fun o => { o with
      slices := slices, expects := exps.put 128 quads.length,
      trips := slices.map fun k => (k, List.replicate (gm1 + 1) (Triple.empty d)) }
    slices.foldl (fun s k => s.later (homeLat o.core (64 * (head % 4) + k)) (.attnContributor id k)) s
  | _, _ =>
    s.attnWrite id o d bla (List.replicate (gm1 + 1) { Triple.empty d with miss := min 0xFFFF nlb })

/-- PITCH_MAP_REQUEST (R105): the request of a KVAPP or an ATTN reaches the home slices of its keys. -/
def execPitchMapRequest (s : State) : Host.Outcome State Fault Refusal :=
  match s.ev with
  | .pitchMapRequest id =>
    match s.engOp id with
    | some o =>
      if o.finished then .next s
      else match o.act with
        | .kvapp req seq head lblk slot dsel fk fv ala bla =>
          .next (s.kvAppend id o req ⟨o.asid / 1024, seq, head, lblk⟩ slot dsel fk fv ala bla)
        | .attn seq head lblk nlb dsel gm1 fq _ _ _ ala bla => .next (s.attnRequest id o seq head lblk nlb dsel gm1 fq ala bla)
        | _ => .next s
    | none => .next s
  | _ => .next s

/-! A contributor. -/

/-- The C2 lines that hold bytes of a range pinned while an attention unit reads them; `none` where one must wait (R86). -/
def State.pinBlock (s : State) (pa n : Nat) : Option (List (Nat × Nat × Nat) × State) :=
  (s.c2.filter fun l => pa / 64 ≤ l.pline && 64 * l.pline < pa + n).foldl (fun acc l =>
    match acc with
    | none => none
    | some (ps, s) =>
      match s.pinLine l.asid (.line l.slice l.vline) with
      | none => none
      | some (qs, s) => some (ps ++ qs, s)) (some ([], s))

/-- The triples of a slice after one block: NTOK tokens in slot order (R111). -/
def blockTriples (ts : List Triple) (bad : List Nat) (fq fk fv : Ent) (d scale queries krows vrows ntok : Nat) : List Triple :=
  let rows := (List.range ntok).map fun t =>
    (f32Row fk (krows / 2 ^ (d * fk.w * t)) d, f32Row fv (vrows / 2 ^ (d * fv.w * t)) d)
  ts.zipIdx.map fun x =>
    if bad.contains x.2 then x.1
    else
      let q := f32Row fq (queries / 2 ^ (d * fq.w * x.2)) d
      rows.foldl (fun t r => t.token scale q r.1 r.2) x.1

/-- Base-die cycles of a block's arithmetic in cycles of the reference clock (R113): the base die runs at 1.8 GHz. -/
def blockCycles (d g w : Nat) : Nat :=
  let c := (32 * d * g + (if w ≤ 16 then 128 else 64) - 1) / (if w ≤ 16 then 128 else 64)
  (c * 21 + 17) / 18

/-- One block looked up and added by the contributor of a slice (R107, R111, R113): the cycles until it goes on, and
whether the block is passed. -/
def State.attnBlock (s : State) (id : Nat) (o : EngOp) (slice : Nat) (q : KvQ) (k : KvKey) (dsel gm1 : Nat)
    (fq fk fv : FmtWord) (scale : Nat) : Bool × Nat × State :=
  let d := dimOf dsel
  let ek := entOf fk
  let ev := entOf fv
  let w := max ek.w ev.w
  let ts := o.trips.get slice []
  let put (s : State) (ts : List Triple) : State := s.modOp id fun o => { o with trips := o.trips.put slice ts }
  match if (s.kvQ q.stack).isSome then s.kvLookup q k else none with
  | none => (true, 1, put s (ts.map fun t => t.addCounts { Triple.empty 0 with miss := 1 }))
  | some h =>
    if h.tier == 2 then (true, 1, put s (ts.map fun t => t.addCounts { Triple.empty 0 with cold := 1 }))
    else
      let cost := 32 * d * (gm1 + 1) * w / 16
      if s.diePurse.get q.stack (1048576 * 1024) < (cost : Int) then (false, 64, s)
      else
        let pa := h.pa q
        let ntok := min 16 (eNtok (s.kvHolder q h))
        let nk := ntok * d * ek.w / 8
        let nv := ntok * d * ev.w / 8
        match s.pinBlock pa 16384 with
        | none => (false, 16, s)
        | some (ps, s) =>
          let s := (s.payDie q.stack cost).modOp id fun o => { o with slicePins := o.slicePins.put slice ps }
          let t := s.fillLat (64 * q.stack + slice) ⟨0, 0, true, false, false, 0, 0, h.tier, pa, 0, false⟩
          let go := blockCycles d (gm1 + 1) w + (if o.data.has (dataPassed slice) then 0 else t)
          if (s.physPoison pa nk).isSome || (s.physPoison (pa + 0x2000) nv).isSome then
            (true, go, put (s.countErr q.stack 3) (ts.map fun t => t.addCounts { Triple.empty 0 with pois := 1 }))
          else
            let new := blockTriples ts o.poisonHeads (entOf fq) ek ev d scale (o.data.get dataQueries 0) (s.physRead pa nk)
              (s.physRead (pa + 0x2000) nv) ntok
            (true, go, put s (new.map fun t => t.addCounts { Triple.empty 0 with nused := ntok }))

/-- The pins of a slice's last block taken back (R86, R87). -/
def State.unpinSlice (s : State) (id : Nat) (o : EngOp) (slice : Nat) : State :=
  match o.slicePins.get slice [] with
  | [] => s
  | ps => ((s.unpin ps).modOp id fun o => { o with slicePins := o.slicePins.erase slice }).retryHeld

/-- A contributor's turn: its next block, or its triples go to the weighbridge. -/
def State.attnContributor (s : State) (id slice : Nat) : State :=
  match s.engOp id with
  | none => s
  | some o =>
    match o.act with
    | .attn seq head lblk nlb dsel gm1 fq fk fv scale _ _ =>
      if o.finished then s
      else
        let s := s.unpinSlice id o slice
        let stack := head % 4
        let q := kvqOf stack (s.pkg.kvPool.get stack 0)
        let from_ := o.data.get (dataPassed slice) 0
        match (List.range (nlb - from_)).find? fun i => q.home ⟨o.asid / 1024, seq, head, lblk + from_ + i⟩ == slice with
        | none => s.later 1 (.weighbridgeMerge id slice)
        | some i =>
          let (passed, t, s) := s.attnBlock id o slice q ⟨o.asid / 1024, seq, head, lblk + from_ + i⟩ dsel gm1 fq fk fv scale
          let s := if passed then s.modOp id fun o => { o with data := o.data.put (dataPassed slice) (from_ + i + 1) } else s
          s.later t (.attnContributor id slice)
    | _ => s

/-- ATTN_CONTRIBUTOR (R111). -/
def execAttnContributor (s : State) : Host.Outcome State Fault Refusal :=
  match s.ev with
  | .attnContributor id slice => .next (s.attnContributor id slice)
  | _ => .next s

/-! The weighbridge (R114 to R116). The merge points are 64 to 67, the quadrants', and 128, the stack's, which forwards to
the requester's. -/

/-- A set of triples reaches its next merge point, or the requester. -/
def State.weighbridge (s : State) (id from_ : Nat) : State :=
  match s.engOp id with
  | none => s
  | some o =>
    match o.act with
    | .attn _ head _ _ dsel _ _ _ _ _ _ bla =>
      if o.finished then s
      else if from_ == 128 then s.attnWrite id o (dimOf dsel) bla (o.merges.get 128 [])
      else
        let ts := if from_ < 64 then o.trips.get from_ [] else o.merges.get from_ []
        let p := if from_ < 64 then 64 + from_ / 16 else 128
        let m := if o.merges.has p then mergeSets (o.merges.get p []) ts else ts
        let e := o.expects.get p 1 - 1
        let s := s.modOp id fun o => { o with merges := o.merges.put p m, expects := o.expects.put p e }
        if e != 0 then s
        else s.later (if p == 128 then (homeLat o.core (64 * (head % 4)) + 1) / 2 else 8) (.weighbridgeMerge id p)
    | _ => s

/-- WEIGHBRIDGE_MERGE (R114). -/
def execWeighbridgeMerge (s : State) : Host.Outcome State Fault Refusal :=
  match s.ev with
  | .weighbridgeMerge id k => .next (s.weighbridge id k)
  | _ => .next s

/-! AMRG (R390). -/

/-- Bytes of a set that an AMRG's b describes. -/
def amrgBytes (b : Nat) : Nat := (bits b 26 3 + 1) * recBytes (dimOf (bits b 24 2))

/-- A set of records read through an LA: its place and its bits. -/
def readSet (s : State) (w : Word) (n : Nat) : Except Flt (Nat × Nat) :=
  match laRange s.cur.core w.toNat n 64 with
  | .error e => .error e
  | .ok va =>
    match stallAt s va n with
    | (_, some p) => .error (cPOISON, w.toNat + p - stallPa ((va - meshBase) / 65536) (va % 65536))
    | (v, none) => .ok (va, v)

/-- AMRG (R390): its three sets cost as LDL and STL accesses do (R435). -/
def execAmrg (f : Form) (s : State) : Host.Outcome State Fault Refusal :=
  issueCost f (3 * 16 * (amrgBytes (s.me.opU f.b).toNat / 64)) (fun s =>
    let b := (s.me.opU f.b).toNat
    let n := amrgBytes b
    let d := dimOf (bits b 24 2)
    let g := bits b 26 3 + 1
    if bits b 29 35 != 0 || bits b 24 2 == 3 then .fault s cKVREQ (s.me.opAddr f.a).toNat
    else match readSet s (s.me.opAddr f.a) n, readSet s (BitVec.ofNat 64 (bits b 0 24)) n, laRange s.cur.core (s.me.opAddr f.d).toNat n 64 with
      | .error e, _, _ => laFault s e
      | _, .error e, _ => laFault s e
      | _, _, .error e => laFault s e
      | .ok (_, x), .ok (_, y), .ok va =>
        .done (s.stallWrite ((va - meshBase) / 65536) (va % 65536) n
          (packRecords d (mergeSets (unpackRecords d g x) (unpackRecords d g y))))) s

end Sys2Proof.Machine
end

