-- ==== Sys2Proof/Machine/Migrate.lean ====
section
/-! DEFINITION. The migration engine at work: HEAT and MIGR (spec/16_matrix_kv_attention_instructions.md R393), the heat
policy (spec/03_caches_translation_network.md R91; spec/05_tiers_and_parking.md R127, R128), moves of KV blocks, the
switch of a move (R124 to R126), and row retirement (R136; spec/20_host_fabric_bringup.md R456). -/
namespace Sys2Proof.Machine

/-! HEAT and MIGR (R393). -/

/-- The page of an address that an instruction names, or its precise fault. The mesh window holds no page. -/
def State.namedPage (s : State) (w : Word) : Except Flt Trans × State :=
  match s.checkVa s.me.vf w 1 with
  | .error e => (.error e, s)
  | .ok (.mesh _ _) => (.error (cXLNP, w.toNat), s)
  | .ok (.virt va) =>
    match s.pageOf s.cur.core s.me.asid va with
    | (.error c, s) => (.error (c, w.toNat), s)
    | (.ok t, s) => (.ok t, s)

/-- What HEAT writes into d. -/
def State.heatWord (s : State) (t : Trans) (va : Nat) : Nat :=
  let registered := !t.fab && (s.regOf t).isSome
  if t.fab || t.tier == 2 then t.tier * 2 ^ 16 + registered.toNat * 2 ^ 18 + 2 ^ 63
  else s.heat.get (t.pa va / 65536) 0 + t.tier * 2 ^ 16 + registered.toNat * 2 ^ 18

/-- HEAT (R393): a fabric page is never registered (R121). -/
def execHeat (f : Form) (s : State) : Host.Outcome State Fault Refusal :=
  issueCost f 40 (fun s =>
    let b := (s.me.opU f.b).toNat
    let w := s.me.opAddr f.a
    if 2 < b then illegal s f 2
    else match s.namedPage w with
      | (.error e, s) => .fault s e.1 e.2
      | (.ok t, s) =>
        let s := if t.fab || b == 0 then s
          else if b == 1 then s.register s.me.asid t
          else { s with regs := s.regs.erase (regKey t.tier t.base) }
        .done (s.putS f.d.sreg (BitVec.ofNat 64 (s.heatWord t (w.toNat % 2 ^ 56))))) s

/-- What MIGR answers for a page and a tier (R121, R122, R126, R129), with the move where it is accepted. -/
def State.migrate (s : State) (asid : Nat) (t : Trans) (tier : Nat) : Nat × State :=
  if t.fab then (kvREMOTE, s)
  else if 0x200000 < t.size then (kvSIZE, s)
  else
    let s := s.register asid t
    if s.pageMoving t.tier t.base || s.holdsPark t then (kvBUSY, s)
    else if t.tier == tier then (kvSAME, s)
    else match s.regOf t with
      | none => (kvBUSY, s)
      | some (_, r) =>
        match s.movePage r t.tier t.base tier none with
        | none => (kvTIERFULL, s)
        | some s => (kvOK, s)

/-- MIGR (R393), a read-modify-write with .AR (R394). -/
def execMigr (f : Form) (s : State) : Host.Outcome State Fault Refusal :=
  issueCost f 40 (fun s =>
    let b := (s.me.opU f.b).toNat
    if 2 < b then illegal s f 2
    else asRelease (fun s =>
      match s.namedPage (s.me.opAddr f.a) with
      | (.error e, s) => .fault s e.1 e.2
      | (.ok t, s) =>
        let (st, s) := s.migrate s.me.asid t b
        kvDone f st s) s) s

/-! Heat (R91, R128). -/

/-- Whether the migration engine may start a move of a registered page of HBM or the CXL tier: 64 KiB or 2 MiB, not
moving, and no park record in it (R121, R129). -/
def State.pageFree (s : State) (pa size : Nat) : Bool :=
  size ≤ 0x200000 && !s.pageMoving (if pa < hbmTop then 0 else 1) pa &&
  !(s.parks.any fun p => pa ≤ p.2.pa && p.2.pa < pa + size)

/-- The heat of a page: the greatest of its frames' counters. -/
def State.pageHeat (s : State) (pa size : Nat) : Nat :=
  (List.range (size / 65536)).foldl (fun h i => max h (s.heat.get (pa / 65536 + i) 0)) 0

/-- A page put among pages by falling heat, after those as hot. -/
def heatInsert (h : Nat) (r : Nat × RegPage) : List (Nat × (Nat × RegPage)) → List (Nat × (Nat × RegPage))
  | [] => [(h, r)]
  | (g, q) :: rest => if g < h then (h, r) :: (g, q) :: rest else (g, q) :: heatInsert h r rest

/-- Moves started in order until `n` have; one whose pool is empty is counted in MIGSKIP (R122). -/
def State.startHeat (s : State) (n : Nat) : List (Nat × (Nat × RegPage)) → State
  | [] => s
  | (_, (key, r)) :: rest =>
    if n == 0 then s
    else
      let pa := key * 65536
      let tier := if pa < hbmTop then 0 else 1
      match s.movePage r tier pa (1 - tier) none with
      | some s => State.startHeat s (n - 1) rest
      | none => State.startHeat (s.countSkip (r.asid / 1024)) n rest

/-- The scan of one stack's engine over the registered pages of one function (R128): promotions first, hottest first. -/
def State.heatScan (s : State) (stack vf : Nat) : State :=
  let cfg := (s.vf vf).heatCfg
  let promo := bits cfg 0 16
  let demo := bits cfg 16 16
  let mine (e : Nat × RegPage) : Bool := e.1 < 2 ^ 40 && stackOfPa (e.1 * 65536) == stack && e.2.asid / 1024 == vf
  let step (e : Nat × RegPage) : Nat × RegPage :=
    if mine e && e.1 * 65536 < hbmTop then
      (e.1, { e.2 with below := if s.pageHeat (e.1 * 65536) e.2.size < demo then min 255 (e.2.below + 1) else 0 })
    else e
  let s := { s with regs := s.regs.map step }
  let pages := s.regs.filter fun e => mine e && bit (bits cfg 40 4) e.2.cls && s.pageFree (e.1 * 65536) e.2.size
  let up := pages.filter fun (e : Nat × RegPage) => hbmTop ≤ e.1 * 65536 && promo != 0 && promo ≤ s.pageHeat (e.1 * 65536) e.2.size
  let down := pages.filter fun (e : Nat × RegPage) => e.1 * 65536 < hbmTop && demo != 0 && bits cfg 32 8 ≤ e.2.below
  let hot := up.foldl (fun l e => heatInsert (s.pageHeat (e.1 * 65536) e.2.size) e l) []
  s.startHeat (bits cfg 44 8) (hot ++ down.map fun e => (0, e))

/-- HEAT_HALVING (R91): every counter halves; the scans of R128 follow, and the millisecond in which an error vector is
raised at most once begins anew (R448). -/
def State.halveHeat (s : State) : State :=
  let s := s.heat.foldl (fun s (e : Nat × Nat) => s.setHeat e.1 (e.2 / 2)) { s with errRose := [] }
  let vfs := (s.regs.map fun e => e.2.asid / 1024).eraseDups
  let s := (List.range 4).foldl (fun s k => vfs.foldl (fun s v => s.heatScan k v) s) s
  s.atBoundary 1000000 0 .heatHalving

/-- HEAT_HALVING (R91). -/
def execHeatHalving (s : State) : Host.Outcome State Fault Refusal :=
  match s.ev with
  | .heatHalving => .next s.halveHeat
  | _ => .next s

/-! Moves of KV blocks. -/

/-- The quarter of a KV head as its descriptor stands, and the key of a move. -/
def State.quarterOf (s : State) (head : Nat) : KvQ := kvqOf (head % 4) (s.pkg.kvPool.get (head % 4) 0)

/-- The move of a found block to a place started; the block is marked as moving (R98, R106). -/
def State.moveKv (s : State) (q : KvQ) (k : KvKey) (h : KvHit) (dst dstTier : Nat) (block park row : Option Nat) : State :=
  let src := if h.tier == 0 then h.pa q else h.frame
  let s := s.setKvHolder q h (eSetMig (s.kvHolder q h) true)
  s.addMove ⟨moveDie h.tier src dstTier dst, k.vf, .kv k.seq k.head k.lblk, src, h.tier, dst, dstTier, block, park, row,
    false, false⟩

/-- A block moved to a frame of the CXL or flash tier, where its pool has one. -/
def State.moveKvToFrame (s : State) (q : KvQ) (k : KvKey) (h : KvHit) (tier : Nat) (park row : Option Nat) : Option State :=
  (s.takeFrame k.vf (poolNo tier 65536)).map fun r => r.2.moveKv q k h r.1 tier none park row

/-- A block moved into HBM through replace (R103): the status of a failure. -/
def State.moveKvToHbm (s : State) (q : KvQ) (k : KvKey) (h : KvHit) (limit : Bool) (park row : Option Nat) : Nat × State :=
  let e := s.kvHolder q h
  match s.placeBlock q k limit (eNtok e) (eRef e) (bit e 73) with
  | (.error st, s) => (st, s)
  | (.ok j, s) => (kvOK, s.moveKv q k h (q.blockPa j) 0 (some (q.index j)) park row)

/-- A move of a KV block given up: the block keeps its source, and the place claimed for it is free again (R126, R132); what
waited for the move goes on. -/
def State.dropKvMove (s : State) (id : Nat) (m : Move) (k : KvKey) (refused : Bool) : State :=
  let q := s.quarterOf k.head
  let s := match s.kvLookup q k with
    | some h => s.setKvHolder q h (eSetMig (s.kvHolder q h) false)
    | none => s
  let s := s.dropMove id m refused
  (match m.block with
  | some b => s.freeMap q (b % 2 ^ 22)
  | none => s).retryKv

/-- Alias records of a block rewritten from one tier and LOC to another (R134, R136). -/
def State.moveAliases (s : State) (q : KvQ) (oldTier old tier loc : Nat) : State :=
  (List.range q.recs).foldl (fun s r =>
    let (e, l, next) := s.kvRec q r
    if eState e == esAlias && eTier e == oldTier && l == old then s.setKvRec q r (eSetTier e tier) loc next else s) s

/-- Lists of the prefix index that name a block rewritten to its new index (R136). -/
def State.moveIndexed (s : State) (q : KvQ) (old new : Nat) : State :=
  (List.range (2 ^ q.logpx)).foldl (fun s i =>
    let pa := q.px + 64 * i
    let e := s.physRead pa 64
    let n := bits e 80 8
    if n == 0 then s
    else
      let e' := (List.range n).foldl (fun e i => if bits e (128 + 32 * i) 24 == old then setBits e (128 + 32 * i) 24 new else e) e
      if e' == e then s else s.physWrite pa 64 e') s

/-- The blocks of a quarter on retired rows whose entries keep a key (R136). -/
def State.retiredOf (s : State) (q : KvQ) (k : KvKey) : List Nat :=
  ((s.retired.filter fun r => q.base ≤ 1024 * r && 1024 * r < q.base + 2 ^ q.logq * 16384).map fun r =>
    (1024 * r - q.base) / 16384).eraseDups.filter fun j => eState (s.mapEntry q j) == esRetired && s.mapEntry q j % 2 ^ 70 == k.code

/-- The record that a block leaves or keeps outside HBM. -/
def coldEntry (k : KvKey) (e tier : Nat) : Nat := mkEntry k (eState e) true tier (eNtok e) (eRef e) (bit e 73)

/-- The switch of a KV block (R106, R124, R133, R134, R136): its entry and records name its new place; `none` where no
overflow record is free for it. -/
def State.switchKv (s : State) (m : Move) (q : KvQ) (k : KvKey) (h : KvHit) : Option State :=
  let e := eSetMig (s.kvHolder q h) false
  let gone := if m.row.isSome then (if m.dstTier == 0 then 0 else k.code) + esRetired * 2 ^ 70 else 0
  match m.srcTier, m.dstTier with
  | 0, 0 =>
    let j := (m.block.getD 0) % 2 ^ 22
    let new := eSetState (eSetNtok (eSetRef (eSetParked (s.mapEntry q j) (bit e 73)) (eRef e)) (eNtok e)) (eState e)
    let s := (s.setMapEntry q j new).freeMapAs q h.loc gone
    some ((s.moveAliases q 0 (q.index h.loc) 0 (q.index j)).moveIndexed q (q.index h.loc) (q.index j))
  | 0, t =>
    let loc := m.dst / 2 ^ 14
    let s' := if eOvf e then s.dropRecOf q k h.loc else s
    (s'.appendRec q (q.group k) (coldEntry k e t) loc).map fun s =>
      ((s.setMapEntry q h.loc gone).setHeldBlocks k.vf q.stack (s.heldBlocks k.vf q.stack - 1)).moveAliases q 0
        (q.index h.loc) t loc
  | _, 0 =>
    let j := (m.block.getD 0) % 2 ^ 22
    let new := eSetState (eSetNtok (eSetRef (eSetParked (s.mapEntry q j) (bit e 73)) (eRef e)) (eNtok e)) (eState e)
    let s := (s.setMapEntry q j new).moveAliases q m.srcTier h.loc 0 (q.index j)
    let s := (s.retiredOf q k).foldl (fun s i => s.moveIndexed q (q.index i) (q.index j)) s
    match h.rec_ with
    | some r => some (s.removeRec q (q.group k) r)
    | none => some s
  | _, t =>
    match h.rec_ with
    | some r =>
      let (_, _, next) := s.kvRec q r
      let loc := if t == 2 then m.dst / 2 ^ 16 else m.dst / 2 ^ 14
      some ((s.setKvRec q r (eSetTier e t) loc next).moveAliases q m.srcTier h.loc t loc)
    | none => some s

/-- What follows a KV move for the parked sequence that it belongs to. -/
def State.afterKv (s : State) (m : Move) : State :=
  match m.park with
  | some p => s.later 0 (if m.srcTier < m.dstTier then .parkDemotionDone p else .parkPromotionDone p)
  | none => s

/-- Whether the retirement list of a row's stack is full (R456). -/
def State.listFull (s : State) (row : Nat) : Bool :=
  4096 ≤ (s.retired.filter fun r => stackOfPa (1024 * r) == stackOfPa (1024 * row)).length

/-- A row on its stack's retirement list, and its frame out of every pool (R136). A free KV block on it is retired. -/
def State.listRow (s : State) (row : Nat) : State :=
  let pa := 1024 * row
  let s := { s with retired := NatSet.insert row s.retired }.dropFrames pa
  match s.kvQ (stackOfPa pa) with
  | some q =>
    let j := (pa - q.base) / 16384
    if q.base ≤ pa && j < 2 ^ q.logq && eState (s.mapEntry q j) == esFree then s.setMapEntry q j (esRetired * 2 ^ 70) else s
  | none => s

/-- The row of a finished move listed. -/
def State.afterRow (s : State) (m : Move) : State :=
  match m.row with
  | some r => s.listRow r
  | none => s

/-- A try again of a retirement at the next millisecond. -/
def State.rowAgain (s : State) (m : Move) : State :=
  match m.row with
  | some r => s.later msCycles (.rowRetirement (1024 * r))
  | none => s

/-- The end of a KV block's copy: the block switches, or stays where it was. -/
def State.kvCopied (s : State) (id : Nat) (m : Move) (k : KvKey) : State :=
  let q := s.quarterOf k.head
  if s.switchPinned m.srcTier m.src 16384 then s.later 64 (.migrationCopyDone id)
  else if !destOk m.dstTier m.dst 16384 then ((s.dropKvMove id m k true).afterKv m).rowAgain m
  else match s.kvLookup q k with
    | none => ((s.dropKvMove id m k false).afterKv m).afterRow m
    | some h =>
      if h.tier != m.srcTier || (if h.tier == 0 then h.pa q else h.frame) != m.src then
        ((s.dropKvMove id m k false).afterKv m).rowAgain m
      else
        let s := if m.srcTier == 2 then s else s.flushRange m.src 16384
        let s := if m.dstTier == 2 then s else s.flushRange m.dst 16384
        match s.switchKv m q k h with
        | none => ((s.dropKvMove id m k false).afterKv m).rowAgain m
        | some s =>
          let s := s.copyData m.srcTier m.src m.dstTier m.dst 16384
          let s := if m.srcTier == 0 then s else s.giveFrame m.vf m.srcTier 65536 m.src
          (((s.endMove id m.die).retryKv).afterKv m).afterRow m

/-- MIGRATION_COPY_DONE (R124). -/
def execMigrationCopyDone (s : State) : Host.Outcome State Fault Refusal :=
  match s.ev with
  | .migrationCopyDone id =>
    match s.moves.find? (·.1 == id) with
    | none => .next s
    | some (_, m) =>
      match m.kind with
      | .page asid va size =>
        let t := s.pageCopied id m asid va size
        if t.moves.has id then .next t
        else if (t.mappedAt asid va m.dstTier m.dst).isSome then .next (t.afterRow m)
        else .next (t.rowAgain m)
      | .kv seq head lblk => .next (s.kvCopied id m ⟨m.vf, seq, head, lblk⟩)
  | _ => .next s

/-- MIGRATION_ABANDON (R126): the destination has refused a write. -/
def execMigrationAbandon (s : State) : Host.Outcome State Fault Refusal :=
  match s.ev with
  | .migrationAbandon id =>
    match s.moves.find? (·.1 == id) with
    | none => .next s
    | some (_, m) =>
      match m.kind with
      | .page _ _ _ => .next ((s.dropMove id m true).rowAgain m)
      | .kv seq head lblk => .next (((s.dropKvMove id m ⟨m.vf, seq, head, lblk⟩ true).afterKv m).rowAgain m)
  | _ => .next s

/-! Row retirement (R136). -/

/-- A KV block on a row: it moves through replace, else to the CXL tier; else the row waits. -/
def State.retireKv (s : State) (q : KvQ) (j row : Nat) : State :=
  let e := s.mapEntry q j
  let again (s : State) : State := s.later msCycles (.rowRetirement (1024 * row))
  if eState e == esFree || eState e == esRetired then s.listRow row
  else if eMig e || s.kvClaimed q j then again s
  else
    let k := keyOf e
    let h : KvHit := ⟨0, j, none, none, false⟩
    match s.moveKvToHbm q k h false none (some row) with
    | (0, s) => s
    | (_, s) =>
      match s.moveKvToFrame q k h 1 none (some row) with
      | some s => s
      | none => again (s.countSkip k.vf)

/-- A registered page on a row: it moves within HBM where a frame is free, else to the CXL tier; else the row waits. -/
def State.retirePage (s : State) (base : Nat) (r : RegPage) (row : Nat) : State :=
  let again (s : State) : State := s.later msCycles (.rowRetirement (1024 * row))
  if !s.pageFree base r.size then again s
  else match s.movePage r 0 base 0 (some row) with
    | some s => s
    | none =>
      match s.movePage r 0 base 1 (some row) with
      | some s => s
      | none => again (s.countSkip (r.asid / 1024))

/-- A row of HBM retired (R136, R456): the data that the device can move are moved first. -/
def State.retireRow (s : State) (row : Nat) : State :=
  let pa := 1024 * row
  let stack := stackOfPa pa
  if s.retired.contains row || hbmTop ≤ pa || s.moves.any (·.2.row == some row) then s
  else if s.listFull row then { s with retFull := NatSet.insert stack s.retFull }.raiseMsix 0 2
  else
    let block := match s.kvQ stack with
      | some q => if q.base ≤ pa && pa < q.base + 2 ^ q.logq * 16384 then some (q, (pa - q.base) / 16384) else none
      | none => none
    match block with
    | some (q, j) => s.retireKv q j row
    | none =>
      match s.regs.find? fun e => e.1 * 65536 ≤ pa && pa < e.1 * 65536 + e.2.size && e.2.size ≤ 0x200000 with
      | some (key, r) => (s.dropFrames pa).retirePage (key * 65536) r row
      | none => s.listRow row

/-- ROW_RETIREMENT (R136). -/
def execRowRetirement (s : State) : Host.Outcome State Fault Refusal :=
  match s.ev with
  | .rowRetirement pa => .next (s.retireRow (rowOfPa pa))
  | _ => .next s

end Sys2Proof.Machine
end

