-- ==== Sys2Proof/Machine/Park.lean ====
section
/-! DEFINITION. Parked continuations: the park record, PARK and WAKE, aging, demotion, promotion and the requeue
(spec/05_tiers_and_parking.md R129 to R135; spec/16_matrix_kv_attention_instructions.md R391, R392;
spec/25_program_parked_attention.md R468). -/
namespace Sys2Proof.Machine

/-! Fields of a park record (R129). -/
def Park.seq (p : Park) : Nat := bits p.raw 232 32
def Park.heads (p : Park) : Nat := if bits p.raw 264 8 == 0 then 256 else bits p.raw 264 8
def Park.nlb (p : Park) : Nat := bits p.raw 272 24
def Park.t1 (p : Park) : Nat := bits p.raw 312 16
/-- T2; below T1 it acts as equal to T1 (R130). -/
def Park.t2 (p : Park) : Nat := max (bits p.raw 328 24) (bits p.raw 312 16)
/-- Whether T2 is never reached. -/
def Park.noFlash (p : Park) : Bool := bits p.raw 328 24 == 0xFFFFFF
def Park.age (p : Park) : Nat := bits p.raw 352 32
/-- RETRY raised, saturating. -/
def Park.retry (p : Park) : Park := { p with raw := setBits p.raw 456 16 (min 0xFFFF (bits p.raw 456 16 + 1)) }
def Park.setState (p : Park) (st : Nat) : Park := { p with raw := setBits p.raw 296 4 st, state := st }

/-- The key of a block of a parked range. -/
def Park.key (p : Park) (head lblk : Nat) : KvKey := ⟨p.vf, p.seq, head, lblk⟩

/-- The blocks of a range as head and logical block: ascending logical block, then ascending head. -/
def Park.range (p : Park) : List (Nat × Nat) :=
  (List.range p.nlb).flatMap fun lb => (List.range p.heads).map fun h => (h, lb)

/-- The blocks of a range in the order of promotion: descending logical block, ascending head (R134). -/
def Park.rangeUp (p : Park) : List (Nat × Nat) :=
  (List.range p.nlb).reverse.flatMap fun lb => (List.range p.heads).map fun h => (h, lb)

/-- What a lookup of a block of a range finds, with its quarter. -/
def State.parkHit (s : State) (p : Park) (b : Nat × Nat) : Option (KvQ × KvHit) :=
  match s.kvQ (b.1 % 4) with
  | none => none
  | some q => (s.kvLookup q (p.key b.1 b.2)).map fun h => (q, h)

/-- Park `id`, if the device holds it. -/
def State.park (s : State) (id : Nat) : Option Park := (s.parks.find? (·.1 == id)).map (·.2)

/-- The record with the blocks counted by tier (R129). -/
def State.countTiers (s : State) (p : Park) : Park :=
  let tiers := p.range.filterMap fun b => (s.parkHit p b).map (·.2.tier)
  let n (t : Nat) : Nat := (tiers.filter (· == t)).length
  { p with raw := setBits (setBits (setBits p.raw 384 24 (n 0)) 408 24 (n 1)) 432 24 (n 2) }

/-- A park kept, and its record written at the place that PARK found (R129). -/
def State.putPark (s : State) (id : Nat) (p : Park) : State :=
  let p := s.countTiers p
  { s with parks := s.parks.put id p }.physWrite p.pa 64 p.raw

/-- PARKED written on every block of a range: its entry, or the record that names it (R98, R132). -/
def State.markParked (s : State) (p : Park) (on : Bool) : State :=
  p.range.foldl (fun s b =>
    match s.parkHit p b with
    | none => s
    | some (q, h) =>
      let s := match h.rec_ with
        | some r =>
          let (e, loc, next) := s.kvRec q r
          s.setKvRec q r (eSetParked e on) loc next
        | none => s
      if h.tier == 0 && !h.shared then s.setMapEntry q h.loc (eSetParked (s.mapEntry q h.loc) on) else s) s

/-! The requeue (R132, R468). -/

/-- The continuation entry of a park record. -/
def Park.entry (p : Park) : QRun :=
  ⟨bits p.raw 0 64, bits p.raw 64 64, 0, 0, p.qcore, bits p.raw 216 16, 2 * bits p.raw 300 2⟩

/-- PARKED cleared and the continuation pushed onto QUEUE at PRIO: STATE 8, and the record is the program's again; a full
list leaves STATE 7 and the push is tried again. -/
def State.requeue (s : State) (id : Nat) (p : Park) : State :=
  let s := s.markParked p false
  match s.lqPush (bits p.raw 302 8) (bits p.raw 300 2) p.entry p.launch with
  | some s =>
    let p := s.countTiers (p.setState 8)
    { s with parks := s.parks.erase id }.physWrite p.pa 64 p.raw
  | none => s.putPark id { (p.setState 7).retry with pushed := true, todo := [], waiting := [] }

/-! Demotion (R133). -/

/-- Whether a block found is one that a demotion step moves: a live one with one reference, to CXL from HBM and to flash from
the CXL tier (log entry 176). -/
def State.eligible (s : State) (p : Park) (q : KvQ) (h : KvHit) : Bool :=
  let e := s.kvHolder q h
  h.tier == (if p.state == 3 then 0 else 1) && !h.shared && eState e == esLive && eRef e == 1

/-- Moves of the blocks of a demotion step started in order, and the blocks that must wait: a pool is empty, or the block is
moving already. -/
def State.demoteBlocks (s : State) (id : Nat) (p : Park) : List (Nat × Nat) → List (Nat × Nat) × State
  | [] => ([], s)
  | b :: bs =>
    let later (s : State) (keep : Bool) : List (Nat × Nat) × State :=
      let (l, s) := State.demoteBlocks s id p bs
      (if keep then b :: l else l, s)
    match s.parkHit p b with
    | none => later s false
    | some (q, h) =>
      if !s.eligible p q h then later s false
      else if eMig (s.kvHolder q h) then later s true
      else match s.moveKvToFrame q (p.key b.1 b.2) h (if p.state == 3 then 1 else 2) (some id) none with
        | some s => later s false
        | none => later (s.countSkip p.vf) true

/-- Whether a move of a park is under way. -/
def State.parkMoves (s : State) (id : Nat) : Bool := s.moves.any (·.2.park == some id)

/-- A demotion step goes on; once every eligible block is demoted the next state follows (R132). -/
def State.demote (s : State) (id : Nat) (p : Park) : State :=
  let (todo, s) := s.demoteBlocks id p p.todo
  let p := { p with todo := todo }
  if !todo.isEmpty || s.parkMoves id then s.putPark id p
  else if p.state == 5 then s.putPark id (p.setState 6)
  else if p.noFlash || p.age < p.t2 then s.putPark id (p.setState 4)
  else
    let p := { p.setState 5 with todo := p.range }
    let (todo, s) := s.demoteBlocks id p p.todo
    let p := { p with todo := todo }
    if !todo.isEmpty || s.parkMoves id then s.putPark id p else s.putPark id (p.setState 6)

/-- PARK_T1_EXPIRY (R132): the demotion to the CXL tier starts. -/
def execParkT1Expiry (s : State) : Host.Outcome State Fault Refusal :=
  match s.ev with
  | .parkT1Expiry id =>
    match s.park id with
    | some p =>
      if p.state == 2 && p.t1 != 0xFFFF && p.t1 ≤ p.age then .next (s.demote id { p.setState 3 with todo := p.range }) else .next s
    | none => .next s
  | _ => .next s

/-- PARK_T2_EXPIRY (R132): the demotion to the flash tier starts. -/
def execParkT2Expiry (s : State) : Host.Outcome State Fault Refusal :=
  match s.ev with
  | .parkT2Expiry id =>
    match s.park id with
    | some p =>
      if p.state == 4 && !p.noFlash && p.t2 ≤ p.age then .next (s.demote id { p.setState 5 with todo := p.range }) else .next s
    | none => .next s
  | _ => .next s

/-- PARK_DEMOTION_DONE (R133): a block has been demoted, or its move was given up. -/
def execParkDemotionDone (s : State) : Host.Outcome State Fault Refusal :=
  match s.ev with
  | .parkDemotionDone id =>
    match s.park id with
    | some p => if p.state == 3 || p.state == 5 then .next (s.demote id p) else .next s
    | none => .next s
  | _ => .next s

/-- PARK_POOL_RETRY (R132): blocks that found their pool empty try again. -/
def execParkPoolRetry (s : State) : Host.Outcome State Fault Refusal :=
  match s.ev with
  | .parkPoolRetry id =>
    match s.park id with
    | some p => if p.state == 3 || p.state == 5 then .next (s.demote id p) else .next s
    | none => .next s
  | _ => .next s

/-! Promotion (R134, R135). -/

/-- A found block outside HBM as its own key finds it: an alias leads to the block that it shares. -/
def State.ownHit (s : State) (q : KvQ) (k : KvKey) (h : KvHit) : KvKey × KvHit :=
  match h.shared, s.kvOwner q h with
  | true, some r => (keyOf (s.kvRec q r).1, { h with rec_ := some r, shared := false })
  | _, _ => (k, h)

/-- Moves of a range's blocks toward HBM started in order, with the park: a block whose place is refused waits for the next
scan. A block reached through an alias comes up too (R132, R135). -/
def State.promoteBlocks (s : State) (id : Nat) (p : Park) : List (Nat × Nat) → Park × State
  | [] => (p, s)
  | b :: bs =>
    match s.parkHit p b with
    | none => State.promoteBlocks s id p bs
    | some (q, h) =>
      let (k, h) := s.ownHit q (p.key b.1 b.2) h
      if h.tier == 0 || p.waiting.contains b || eMig (s.kvHolder q h) then State.promoteBlocks s id p bs
      else if h.tier == 1 then
        match s.moveKvToHbm q k h true (some id) none with
        | (0, s) => State.promoteBlocks s id p bs
        | (_, s) => State.promoteBlocks s id { p.retry with waiting := p.waiting ++ [b] } bs
      else
        match s.moveKvToFrame q k h 1 (some id) none with
        | some s => State.promoteBlocks s id p bs
        | none => State.promoteBlocks (s.countSkip p.vf) id { p with waiting := p.waiting ++ [b] } bs

/-- A promotion goes on; once every block of the range is in HBM the continuation is requeued (R135). -/
def State.promote (s : State) (id : Nat) (p : Park) : State :=
  let (p, s) := s.promoteBlocks id p p.rangeUp
  let cold := p.range.any fun b => match s.parkHit p b with
    | some (_, h) => h.tier != 0
    | none => false
  if cold || s.parkMoves id then s.putPark id p else s.requeue id p

/-- PARK_PROMOTION_DONE (R135): a block has come up a tier, or its move was given up. -/
def execParkPromotionDone (s : State) : Host.Outcome State Fault Refusal :=
  match s.ev with
  | .parkPromotionDone id =>
    match s.park id with
    | some p => if p.state == 7 && !p.pushed then .next (s.promote id p) else .next s
    | none => .next s
  | _ => .next s

/-- PROMOTION_RETRY (R134): blocks that found no place try again. -/
def execPromotionRetry (s : State) : Host.Outcome State Fault Refusal :=
  match s.ev with
  | .promotionRetry id =>
    match s.park id with
    | some p => if p.state == 7 && !p.pushed then .next (s.promote id { p with waiting := [] }) else .next s
    | none => .next s
  | _ => .next s

/-- PARK_PUSH_RETRY (R468): a push that found the list full is tried again. -/
def execParkPushRetry (s : State) : Host.Outcome State Fault Refusal :=
  match s.ev with
  | .parkPushRetry id =>
    match s.park id with
    | some p => if p.state == 7 && p.pushed then .next (s.requeue id p) else .next s
    | none => .next s
  | _ => .next s

/-! Aging (R130, R132). -/

/-- What a park's millisecond brings. -/
def Park.due (p : Park) (id : Nat) : List Event :=
  match p.state with
  | 2 => if p.t1 != 0xFFFF && p.t1 ≤ p.age then [.parkT1Expiry id] else []
  | 3 => if p.todo.isEmpty then [] else [.parkPoolRetry id]
  | 4 => if !p.noFlash && p.t2 ≤ p.age then [.parkT2Expiry id] else []
  | 5 => if p.todo.isEmpty then [] else [.parkPoolRetry id]
  | 7 => if p.pushed then [.parkPushRetry id] else [.promotionRetry id]
  | _ => []

/-- AGE brought up to date, and what it makes due. -/
def State.ageParks (s : State) : State :=
  s.parks.foldl (fun s e =>
    let id := e.1
    let p := e.2
    let age := min (2 ^ 32 - 1) ((p.aged + (s.clk - p.since)) / msCycles)
    if age ≤ p.age then s
    else
      let p := { p with raw := setBits p.raw 352 32 age }
      let s := s.putPark id p
      (p.due id).foldl (fun s ev => s.later 0 ev) (s.later msCycles .parkAgeTick)) s

/-- PARK_AGE_TICK (R130). -/
def execParkAgeTick (s : State) : Host.Outcome State Fault Refusal :=
  match s.ev with
  | .parkAgeTick => .next s.ageParks
  | _ => .next s

/-! Wakes (R131, R132). -/

/-- The copies of a park given up; their sources stay (R132). -/
def State.dropParkMoves (s : State) (id : Nat) : State :=
  (s.moves.filter (·.2.park == some id)).foldl (fun s e =>
    match e.2.kind with
    | .kv seq head lblk => s.dropKvMove e.1 e.2 ⟨e.2.vf, seq, head, lblk⟩ false
    | .page _ _ _ => s) s

/-- A wake event of a park (R132). -/
def State.wakePark (s : State) (id : Nat) : State :=
  match s.park id with
  | none => s
  | some p =>
    match p.state with
    | 2 => s.requeue id p
    | 7 => s.modVf p.vf fun v => { v with wakeDup := satInc64 v.wakeDup }
    | _ => (s.dropParkMoves id).promote id { p.setState 7 with todo := [], waiting := [] }

/-- The parks whose wake words have been written are woken (R131). -/
def State.drainWakes (s : State) : State := s.wakes.foldl (fun s id => s.wakePark id) { s with wakes := [] }

/-- WAKE (R392): a release, and a read-modify-write of the record with .AR (R394). -/
def execWake (f : Form) (s : State) : Host.Outcome State Fault Refusal :=
  issueCost f 40 (fun s =>
    let w := s.me.opAddr f.a
    asRelease (fun s =>
      match s.checkVa s.me.vf w 1 with
      | .error e => laFault s e
      | .ok (.mesh _ _) => kvDone f kvNOTPARKED s
      | .ok (.virt va) =>
        match s.translate (stkOf s.cur.core) s.me.asid va with
        | (.error c, s, _) => .fault s c w.toNat
        | (.ok t, s, _) =>
          match transFault t .rw va with
          | some c => .fault s c w.toNat
          | none =>
            match if t.fab then none else s.parks.find? (·.2.pa == t.pa va) with
            | none => kvDone f kvNOTPARKED s
            | some (id, _) => kvDone f kvOK (s.wakePark id)) s) s

/-! PARK (R391). -/

/-- A local-target HBM page that an address reaches, or none (R129, R131). -/
def State.parkPage (s : State) (w : Word) (al : Nat) : Option (Nat × Trans) × State :=
  match s.checkVa s.me.vf w al with
  | .ok (.virt va) =>
    match s.translate (stkOf s.cur.core) s.me.asid va with
    | (.error _, s, _) => (none, s)
    | (.ok t, s, _) =>
      (if t.fab || t.tier != 0 || (transFault t .rd va).isSome then none else some (va, t), s)
  | _ => (none, s)

/-- The record that PARK writes: STATE 2, and the aging and requeue fields of the launch (R130, R391). -/
def parkRecord (req frame asid lrec : Nat) : Nat :=
  let t1 := if bit req 184 then 0 else if bits lrec 320 16 == 0 then 200 else bits lrec 320 16
  let t2 := if bits lrec 336 24 == 0 then 10000 else bits lrec 336 24
  bits req 0 64 + frame * 2 ^ 64 + bits req 192 32 * 2 ^ 128 + bits req 64 56 * 2 ^ 160 + asid * 2 ^ 216 +
    bits req 128 32 * 2 ^ 232 + bits req 120 8 * 2 ^ 264 + bits req 160 24 * 2 ^ 272 + 2 * 2 ^ 296 +
    bits lrec 185 2 * 2 ^ 300 + bits lrec 177 8 * 2 ^ 302 + t1 * 2 ^ 312 + t2 * 2 ^ 328

/-- The routine ends without a signal, and the helper goes on as NEXT does; its launch's record stays with the
continuation (R216, R391). -/
def endParked (f : Form) (st : Nat) (s : State) : Res :=
  let core := s.cur.core
  let c := s.cur.ctx
  .ended (s.acquire.putS f.d.sreg (BitVec.ofNat 64 st)) fun s =>
    ((s.retire core c false (s.me.pc + BitVec.ofNat 64 (formLen f))).endRoutine core c false).popNext core c

/-- Parks that the watch table of a slice holds (R131). -/
def State.watches (s : State) (slice : Nat) : Nat := (s.parks.filter (·.2.slice == slice)).length

/-- PARK past its release: the checks of R129 to R131, then the record, the watch and the first state (R132). -/
def park (f : Form) (req : Nat) (s : State) : Res :=
  let x := s.me
  let code := BitVec.ofNat 64 (bits req 0 64)
  let lrec := x.launch.bind fun l => (s.launches.find? (·.1 == l)).map (·.2.raw)
  let (recAt, s) := s.parkPage (s.me.opAddr f.a) 64
  let (wakeAt, s) := s.parkPage (extend56 (bits req 64 56)) 8
  match recAt, wakeAt, lrec with
  | some (rva, rt), some (wva, wt), some lrec =>
    if rt.cls != 3 || !canonical code || code.toNat % 4 != 0 || bits req 185 7 != 0 || bits req 224 32 != 0 then
      kvDone f kvBADPARK s
    else if s.seqParked x.vf (bits req 128 32) then kvDone f kvBUSY s
    else
      let slice := wt.slice s.cur.core x.asid wva
      if 256 ≤ s.watches slice then kvDone f kvWATCHFULL s
      else
        let (id, s) := s.fresh
        let p : Park := ⟨rt.pa rva, parkRecord req (x.sreg 62).toNat x.asid lrec, x.vf, x.launch, s.cur.core, wt.pa wva, slice,
          2, s.clk, [], [], false, 0⟩
        let s := s.later msCycles .parkAgeTick
        if s.physRead p.wakePa 8 != 0 then endParked f kvWOKEN ({ s with parks := s.parks.put id p }.requeue id p)
        else
          let s := ({ s with parks := s.parks.put id p }.markParked p true).putPark id p
          endParked f kvOK (if p.t1 == 0 then s.later 0 (.parkT1Expiry id) else s)
  | _, _, _ => kvDone f kvBADPARK s

/-- PARK (R391). -/
def execPark (f : Form) (s : State) : Host.Outcome State Fault Refusal :=
  issueCost f 56 (helperOnly fun s =>
    match readStallRec s (s.me.opAddr f.b) 32 with
    | .error e => laFault s e
    | .ok (_, req) => asRelease (park f req) s) s

end Sys2Proof.Machine
end

