-- ==== Sys2Proof/Machine/Power.lean ====
section
/-! DEFINITION. The microsecond grant, islands and operating points, rack caps, temperature and the steering of the device
clock (spec/19_power_and_clocks.md R434 to R443; spec/20_host_fabric_bringup.md R452, R457). -/
namespace Sys2Proof.Machine

/-! Rack caps (R443). -/

/-- The cap in force in watts: the lease's, else the fallback of PKGPWR. -/
def State.cap (s : State) : Nat := if s.clk < s.capEnd then s.capW else 10 * s.pkg.fallback

/-- Whether a message number is newer than the latest valid one. -/
def capNewer (n last : Nat) : Bool :=
  let d := (n % 2 ^ 32 + 2 ^ 32 - last) % 2 ^ 32
  0 < d && d < 2 ^ 31

/-- A rack cap message: a newer one becomes valid, and takes effect at the next grant. -/
def State.capMessage (s : State) (n watts lease : Nat) : State :=
  if !capNewer n s.capLast then s
  else
    let t := lease % 2 ^ 16 * msCycles
    { s with capLast := n % 2 ^ 32, capNext := some (max 700 (min 2800 watts), s.clk + t) }.later t .capLeaseExpiry

/-- CAPMSG (R443). -/
def execCapmsg (s : State) : Host.Outcome State Fault Refusal :=
  match s.ev with
  | .capmsg n watts lease => .next (s.capMessage n watts lease)
  | _ => .next s

/-- CAP_LEASE_EXPIRY (R443): the fallback applies where no later lease is in force. -/
def execCapLeaseExpiry (s : State) : Host.Outcome State Fault Refusal :=
  match s.ev with
  | .capLeaseExpiry => .next (if s.capEnd ≤ s.clk then { s with capW := 0, capEnd := 0 } else s)
  | _ => .next s

/-! The grant (R437, R438). -/

/-- The limits of a core's and a base die's purse in 1/1,024 token (R435). -/
def purseLimit : Int := 4096 * 1024
def dieLimit : Int := 1048576 * 1024

/-- The grant of an island in 1/1,024 token: P × 1 µs / e(k), with P in mW and e(k) in pJ (R437). -/
def State.grantOf (s : State) (i : Nat) : Nat :=
  Config.islandBudget i s.cap * 1000 * 1024 / Config.fuseEnergy i (s.island i).point

/-- The mesh neighbours of a core within its quadrant (R438). -/
def neighbours (n : Nat) : List Nat :=
  let q := n / 1024 * 1024
  let col := n % 32
  let row := n % 1024 / 32
  (if col == 0 then [] else [n - 1]) ++ (if col == 31 then [] else [n + 1]) ++
  (if row == 0 then [] else [q + 32 * (row - 1) + col]) ++ (if row == 31 then [] else [q + 32 * (row + 1) + col])

/-- What a core with a purse gives to each neighbour (R437, step 3). -/
def State.gives (s : State) (n : Nat) (purse : Int) : Int :=
  let keep : Int := 1024 * (max s.pkg.keep (s.core n).reserve : Nat)
  if keep < purse then (purse - keep) / 4 else 0

/-- A core's purse after its quadrant's share, the passing and the cut (R437, steps 2 to 4). -/
def State.grantedPurse (s : State) (share : Nat → Nat) (n : Nat) : Int :=
  let after (m : Nat) : Int := (s.core m).purse + share (quadOf m)
  let ns := neighbours n
  let own := after n - s.gives n (after n) * ns.length
  min purseLimit (ns.foldl (fun p m => p + s.gives m (after m)) own)

/-- A core with a new purse; tokens that arrive wake its SLEEP contexts, which then try again (R436). -/
def Core.withPurse (k : Core) (p : Int) : Core :=
  let woken := if k.purse < p && 0 < p then k.ctxs.map fun (e : Nat × Ctx) =>
      (e.1, if e.2.st == CtxSt.sleep then { e.2 with st := .ready } else e.2)
    else k.ctxs
  { k with purse := p, ctxs := woken }

/-- The cores whose purses a grant can change: those with something of their own, and their neighbours; a core that is as
it was at reset among such cores stays full. -/
def State.grantedCores (s : State) : List Nat :=
  s.cores.foldl (fun m e => (e.1 :: neighbours e.1).foldl (fun m n => NatSet.insert n m) m) []

/-- The grant of one microsecond (R437). -/
def State.grant (s : State) : State :=
  let s := match s.capNext with
    | some (w, e) => { s with capW := w, capEnd := e, capNext := none }
    | none => s
  let g (i : Nat) : Nat := s.grantOf i
  let islands := (List.range 36).foldl (fun (m : Assoc Island) i => m.put i { s.island i with budget := g i / 1024 }) s.islands
  let total (q : Nat) : Nat := g (islandOf q 0) + g (islandOf q 1)
  let share (q : Nat) : Nat := (total q - s.overdraw.get q 0) / 1024
  let purses := s.grantedCores.map fun n => (n, s.grantedPurse share n)
  let excess := (List.range 16).foldl (fun (m : Assoc Nat) q => m.set q (s.overdraw.get q 0 - total q) 0) s.overdraw
  let dies := (List.range 4).foldl (fun (m : Assoc Int) d =>
    m.put d (min dieLimit (s.diePurse.get d dieLimit + (g (dieIsland d) : Nat)))) s.diePurse
  let s := { s with islands := islands, overdraw := excess, diePurse := dies }
  let s := purses.foldl (fun s e => if (s.core e.1).purse == e.2 then s else s.modCore e.1 (·.withPurse e.2)) s
  s.atBoundary 1000 1 .tokenGrant

/-! Islands and operating points (R441, R442). -/

/-- Points of an island: 0 to 15, or 0 to 12 for a base die (R441). -/
def topPoint (i : Nat) : Nat := if i < 32 then 15 else 12

/-- Whether a point is usable: its applied voltage is at least 0.58 V (R441). -/
def usable (i k : Nat) : Bool := 580 ≤ Config.fuseVolt i k + 35

/-- The lowest usable point (R441). -/
def lowestPoint (i : Nat) : Nat := ((List.range 16).find? (usable i)).getD 4

/-- Cycles of a voltage slew at 10 mV per µs (R442). -/
def slewCycles (i k j : Nat) : Nat := 210 * ((Config.fuseVolt i k : Int) - Config.fuseVolt i j).natAbs

/-- The highest accepted point that has not expired, or 0 (R442). -/
def Island.held (x : Island) (clk : Nat) : Nat := (x.holds.filter (clk < ·.2)).foldl (fun m h => max m h.1) 0

def State.putIsland (s : State) (i : Nat) (x : Island) : State := { s with islands := s.islands.put i x }

/-- The limits on an island's point: accepted points below; the cap, the lowest usable point at 110 °C, and the top above
(R441 to R443, R457). -/
def State.clampPoint (s : State) (i k : Nat) : Nat :=
  let low := lowestPoint i
  if 880 ≤ s.pkg.therm then low
  else max low (min (min (topPoint i) (Config.capPoint i s.cap)) (max k ((s.island i).held s.clk)))

/-- An island that is to move to a point starts its change: up by voltage first, down by frequency first (R442). -/
def State.steer (s : State) (i k : Nat) : State :=
  let x := s.island i
  let k := s.clampPoint i k
  if x.change != .none || k == x.point then s
  else if x.point < k then (s.putIsland i { x with change := .raise k }).later (slewCycles i x.point k) (.voltageSlewDone i)
  else (s.putIsland i { x with change := .switch k true }).later 512 (.frequencySwitchDone i)

/-- The status of a request for a point at a sample (R406): BUSY where the island is changing or was as the request arrived (R442);
an accepted one holds for 1 ms. -/
def State.answerPoint (s : State) (i k : Nat) : Nat × State :=
  let x := s.island i
  if x.change != .none || 16 ≤ k then (2, s)
  else if !usable i k then (1, s)
  else if Config.capPoint i s.cap < k then (3, s)
  else (0, (s.putIsland i { x with holds := x.holds ++ [(k, s.clk + msCycles)] }).later msCycles (.pointHoldExpiry i))

/-- STALL_RATIO_SAMPLE (R442): the waiting requests are answered, then each island goes where Bortus chooses within its
limits; where nothing is chosen it keeps its point (log entry 1). -/
def State.sample (s : State) (choices : List (Nat × Nat)) : State :=
  let asked := s.pwreqs
  let s := asked.foldl (fun s r =>
    let (st, s) := s.answerPoint r.2.2.1 r.2.2.2
    { s with pwdone := s.pwdone ++ [(r.1, r.2.1, st)] }) { s with pwreqs := [] }
  let s := (List.range 36).foldl (fun s i =>
    s.steer i (((choices.find? (·.1 == i)).map (·.2)).getD (s.island i).point)) s
  if s.due.any fun e => e.2 == .stallRatioSample [] then s else s.later 21000 (.stallRatioSample [])

/-- STALL_RATIO_SAMPLE (R442). -/
def execStallRatioSample (s : State) : Host.Outcome State Fault Refusal :=
  match s.ev with
  | .stallRatioSample choices => .next (s.sample choices)
  | _ => .next s

/-- VOLTAGE_SLEW_DONE (R442): a raise goes on with its frequency switch; a lowering is over. -/
def State.slewDone (s : State) (i : Nat) : State :=
  let x := s.island i
  match x.change with
  | .raise k => (s.putIsland i { x with change := .switch k false }).later 512 (.frequencySwitchDone i)
  | .slewDown _ => s.putIsland i { x with change := .none }
  | _ => s

/-- VOLTAGE_SLEW_DONE (R442). -/
def execVoltageSlewDone (s : State) : Host.Outcome State Fault Refusal :=
  match s.ev with
  | .voltageSlewDone i => .next (s.slewDone i)
  | _ => .next s

/-- FREQUENCY_SWITCH_DONE (R442): the point is in force; a lowering goes on with its slew. -/
def State.switchDone (s : State) (i : Nat) : State :=
  let x := s.island i
  match x.change with
  | .switch k lowering =>
    let y := { x with ticks := x.ticksAt s.clk, counted := s.clk, point := k }
    if lowering then (s.putIsland i { y with change := .slewDown k }).later (slewCycles i x.point k) (.voltageSlewDone i)
    else s.putIsland i { y with change := .none }
  | _ => s

/-- FREQUENCY_SWITCH_DONE (R442). -/
def execFrequencySwitchDone (s : State) : Host.Outcome State Fault Refusal :=
  match s.ev with
  | .frequencySwitchDone i => .next (s.switchDone i)
  | _ => .next s

/-- POINT_HOLD_EXPIRY (R442). -/
def execPointHoldExpiry (s : State) : Host.Outcome State Fault Refusal :=
  match s.ev with
  | .pointHoldExpiry i =>
    let x := s.island i
    .next (s.putIsland i { x with holds := x.holds.filter (s.clk < ·.2) })
  | _ => .next s

/-- TOKEN_GRANT (R437). -/
def execTokenGrant (s : State) : Host.Outcome State Fault Refusal :=
  match s.ev with
  | .tokenGrant =>
    let s := s.grant
    .next ((s.bells.filter fun e => !e.2.arrived.isEmpty).foldl (fun s e => s.bellCheck e.1) s)
  | _ => .next s

/-! Temperature (R457). -/

/-- A reading of the temperatures, in 0.125 °C: above 100 °C a step down, at 110 °C the lowest usable points and vector 2, at
120 °C no power. -/
def State.readTherm (s : State) (temps : List Nat) : State :=
  let t := temps.foldl max 0 % 2 ^ 16
  let s := { s with pkg := { s.pkg with therm := t } }
  if 960 ≤ t then { s with power := false }
  else
    let s := if 880 ≤ t then s.raiseMsix 0 2 else s
    if t ≤ 800 then s
    else (List.range 36).foldl (fun s i => s.steer i ((s.island i).point - 1)) s

/-- THERMAL_SAMPLE (R457). -/
def execThermalSample (s : State) : Host.Outcome State Fault Refusal :=
  match s.ev with
  | .thermalSample temps => .next (s.readTherm temps)
  | _ => .next s

/-! The device clock (R206, R452). -/

/-- A correction of the device clock: below 1 µs by frequency, 1 ns in each 10 µs, which is 100 ppm; else as one step. -/
def State.correctClock (s : State) (ns : Int) : State :=
  if 1000 ≤ ns.natAbs then { s with nsOff := s.nsOff + ns }
  else if ns == 0 then s
  else
    let step : Int := if 0 < ns then 1 else -1
    let s := { s with nsOff := s.nsOff + step }
    if ns == step then s else s.later 21000 (.ptpCorrection (ns - step))

/-- SYNCHRONISATION_LOST (R452): the clock holds its frequency; corrections under way end. -/
def execSynchronisationLost (s : State) : Host.Outcome State Fault Refusal :=
  match s.ev with
  | .synchronisationLost => .next { s with due := s.due.filter fun e => match e.2 with
      | .ptpCorrection _ => false
      | _ => true }
  | _ => .next s

end Sys2Proof.Machine
end

