-- ==== Sys2Proof/Machine/Table.lean ====
section
/-! DEFINITION. The events of the launch controller: the time-triggered table, launch queues, completion-bit starts, gangs
and helper pops (spec/09_launch_and_scheduling.md R206 to R218; spec/08_execution_model.md R184, R186). -/
namespace Sys2Proof.Machine

/-- The running state of a slot. -/
def State.ttRun (s : State) (i : Nat) : TtRun := s.tt.get i ⟨none, 0, false, 0⟩

def State.putRun (s : State) (i : Nat) (r : TtRun) : State := { s with tt := s.tt.put i r }

/-- What a slot reads as: EN reads 0 where the slot does not lie in the table cycle (R207). -/
def State.slotRead (s : State) (raw : Nat) : Nat :=
  if slotOffs raw < s.pkg.ttCyc && slotOffs raw + slotLen raw ≤ s.pkg.ttCyc then raw else setBits raw 67 1 0

/-- Whether a slot fires at all. -/
def State.slotActive (s : State) (raw : Nat) : Bool := bit (s.slotRead raw) 67 && slotKind raw != 0

/-- The fire time of a slot in table cycle `j`, in ns. -/
def State.fireTime (s : State) (raw j : Nat) : Nat := s.pkg.ttEpoch + j * s.pkg.ttCyc + slotOffs raw

/-- The first table cycle whose fire time is not before `ns`. -/
def State.firstTableCycle (s : State) (raw ns : Nat) : Nat :=
  (ns + s.pkg.ttCyc - 1 - (s.pkg.ttEpoch + slotOffs raw)) / s.pkg.ttCyc

/-- An event due once the device clock has reached `ns`. -/
def State.laterNs (s : State) (ns : Nat) (e : Event) : State := s.later (s.cycleAt ns - s.clk) e

/-- An event due in `d` cycles, where it is not due already. -/
def State.laterOnce (s : State) (d : Nat) (e : Event) : State := if s.due.any (·.2 == e) then s else s.later d e

/-- The slot that an event is a fire time of. -/
def fireSlotOf : Event → Option Nat
  | .ttPeriodicLaunch i => some i
  | .ttQueueDrain i => some i
  | .ttQuiesce i => some i
  | _ => none

/-- The fire event of a slot of a kind. -/
def fireEvent (kind i : Nat) : Event :=
  match kind with
  | 1 => .ttPeriodicLaunch i
  | 2 => .ttQueueDrain i
  | _ => .ttQuiesce i

/-- The events due with a slot's firing: those that share a fire time stand in ascending slot index (R208). -/
def dueFire (t i : Nat) (e : Event) : List (Nat × Event) → List (Nat × Event)
  | [] => [(t, e)]
  | (u, j) :: rest =>
    if t < u || (t == u && (match fireSlotOf j with | some k => decide (i < k) | none => false)) then (t, e) :: (u, j) :: rest
    else (u, j) :: dueFire t i e rest

/-- A slot's next firing made due, in place of any that was. -/
def State.armSlot (s : State) (i : Nat) : State :=
  let s := { s with due := s.due.filter (fireSlotOf ·.2 != some i) }
  let raw := s.slotRaw i
  if !s.slotActive raw then s
  else { s with due := dueFire (s.cycleAt (s.fireTime raw (s.ttRun i).cycle)) i (fireEvent (slotKind raw) i) s.due }

/-- A slot armed from the present time; `fresh` forgets the table cycles it has fired in, as a new TTEPOCH or TTCYC does. -/
def State.startSlot (s : State) (fresh : Bool) (i : Nat) : State :=
  let r := s.ttRun i
  let j := s.firstTableCycle (s.slotRaw i) s.ns
  (s.putRun i { r with cycle := if fresh then j else max r.cycle j }).armSlot i

/-- The slots that the table holds. -/
def State.slotIndexes (s : State) : List Nat := s.pkg.ttSlot.map (·.1)

/-- Firings counted in SKIPS, and one counted in FIRES (R207). -/
def State.addSkips (s : State) (i n : Nat) : State :=
  let raw := s.slotRaw i
  { s with pkg := { s.pkg with ttSlot := s.pkg.ttSlot.put i (setBits raw 192 32 (min 0xFFFFFFFF (bits raw 192 32 + n))) } }
def State.addFire (s : State) (i : Nat) : State :=
  let raw := s.slotRaw i
  { s with pkg := { s.pkg with ttSlot := s.pkg.ttSlot.put i (setBits raw 224 32 ((bits raw 224 32 + 1) % 2 ^ 32)) } }

/-- Whether the previous firing of a slot is still running (R209). -/
def State.slotRunning (s : State) (r : TtRun) : Bool := r.launch.isSome || s.ns < r.until_

/-- A firing that is no overrun (R208): `t` is its fire time. -/
def State.fireSlot (s : State) (i t : Nat) : State :=
  let raw := s.slotRaw i
  match slotKind raw with
  | 1 =>
    let pa := bits raw 128 39 * 64
    let (got, s) := if inHbm pa 128 then s.acceptRaw (slotVf raw) 0 (s.physRead pa 128) (some i) else (none, s)
    match got with
    | some l => (s.addFire i).putRun i { s.ttRun i with launch := some l }
    | none => s.addSkips i 1
  | k =>
    let s := (s.addFire i).putRun i { s.ttRun i with until_ := t + slotLen raw }
    let s := if k == 2 then s.laterOnce 0 (.launchQueuePop (slotQueue raw)) else s
    s.laterNs (t + slotLen raw) (.ttSlotEnd i)

/-- Whether a slot's firing at this time is an overrun (R209). -/
def State.overruns (s : State) (i : Nat) : Bool :=
  s.slotRunning (s.ttRun i) || (slotKind (s.slotRaw i) == 1 && s.quietVf (slotVf (s.slotRaw i)))

/-- A slot's fire time has come (R208, R209). -/
def State.slotTime (s : State) (kind i : Nat) : State :=
  let raw := s.slotRaw i
  if !s.slotActive raw || slotKind raw != kind then s
  else
    let r := s.ttRun i
    let t := s.fireTime raw r.cycle
    let s := s.putRun i { r with cycle := r.cycle + 1 }
    let s := if !s.overruns i then s.fireSlot i t
      else if slotDefer raw && !r.deferred then s.putRun i { s.ttRun i with deferred := true }
      else s.addSkips i 1
    s.armSlot i

/-- TT_PERIODIC_LAUNCH (R208). -/
def execTtPeriodicLaunch (s : State) : Host.Outcome State Fault Refusal :=
  match s.ev with
  | .ttPeriodicLaunch i => .next (s.slotTime 1 i)
  | _ => .next s

/-- TT_QUEUE_DRAIN (R208). -/
def execTtQueueDrain (s : State) : Host.Outcome State Fault Refusal :=
  match s.ev with
  | .ttQueueDrain i => .next (s.slotTime 2 i)
  | _ => .next s

/-- TT_QUIESCE (R208). -/
def execTtQuiesce (s : State) : Host.Outcome State Fault Refusal :=
  match s.ev with
  | .ttQuiesce i => .next (s.slotTime 3 i)
  | _ => .next s

/-- The end of a queue-drain or a quiesce: deferred firings may follow (R209). -/
def State.slotEnd (s : State) (i : Nat) : State :=
  let r := s.ttRun i
  if s.ns < r.until_ then s
  else
    let s := s.putRun i { r with until_ := 0 }
    (s.tt.filter (·.2.deferred)).foldl (fun s e => s.laterOnce 0 (.ttDeferredFire e.1)) s

/-- TT_SLOT_END (R208, R209). -/
def execTtSlotEnd (s : State) : Host.Outcome State Fault Refusal :=
  match s.ev with
  | .ttSlotEnd i => .next (s.slotEnd i)
  | _ => .next s

/-- TT_DEFERRED_FIRE (R209): once, when the running firing or the quiesce has ended. -/
def execTtDeferredFire (s : State) : Host.Outcome State Fault Refusal :=
  match s.ev with
  | .ttDeferredFire i =>
    let r := s.ttRun i
    if !r.deferred then .next s
    else if !s.slotActive (s.slotRaw i) then .next (s.putRun i { r with deferred := false })
    else if s.overruns i then .next s
    else .next ((s.putRun i { r with deferred := false }).fireSlot i (s.fireTime (s.slotRaw i) (r.cycle - 1)))
  | _ => .next s

/-- The table after a correction of the device clock: fire times that the correction has passed count in SKIPS, and what is
due moves with the clock (R206). -/
def State.retime (s : State) : State :=
  let s := s.slotIndexes.foldl (fun s i =>
    let raw := s.slotRaw i
    if !s.slotActive raw then s
    else
      let r := s.ttRun i
      let n := s.firstTableCycle raw s.ns - r.cycle
      ((if n == 0 then s else s.addSkips i n).putRun i { r with cycle := r.cycle + n }).armSlot i) s
  s.tt.foldl (fun s e => if e.2.until_ == 0 then s else (s.cancel (.ttSlotEnd e.1)).laterNs e.2.until_ (.ttSlotEnd e.1)) s

/-- The events that recur with the device clock, each with its period in ns and the cycles after its boundary (R59, R91,
R437). -/
def clockEvents : List (Nat × Nat × Event) := [(1000, 1, .tokenGrant), (1000000, 0, .heatHalving), (10000000, 0, .shiftWindowClear)]

/-- The recurring events moved with a corrected clock that read `old`: a boundary that the clock was moved past happens at
once, and one already reached stays due (log entry 85). -/
def State.moveBoundaries (s : State) (old : Nat) : State :=
  clockEvents.foldl (fun s (e : Nat × Nat × Event) =>
    match s.due.find? (·.2 == e.2.2) with
    | none => s
    | some (t, _) =>
      if t ≤ s.clk + e.2.1 then s
      else if old / e.1 < s.ns / e.1 then (s.cancel e.2.2).later e.2.1 e.2.2
      else (s.cancel e.2.2).atBoundary e.1 e.2.1 e.2.2) s

/-- PTP_CORRECTION (R206, R452). -/
def execPtpCorrection (s : State) : Host.Outcome State Fault Refusal :=
  match s.ev with
  | .ptpCorrection ns => .next ((s.correctClock ns).retime.moveBoundaries s.ns)
  | _ => .next s

/-! Launch queues (R213). -/

/-- A refusal of a popped entry (R212, R448). -/
def State.refuseEntry (s : State) (vf : Nat) : State :=
  (s.modVf vf fun v => { v with lRefuse := satInc64 v.lRefuse }).raiseErr vf

/-- A popped entry carried through: a launch is accepted, a continuation pushed to its core's queue; the flag tells whether
that is over. A continuation of a core that its function has set no queue of is refused. -/
def State.carryEntry (s : State) (e : QRun) (owner : Option Nat) : Bool × State :=
  let vf := e.asid / 1024
  if bit e.kind 0 then
    match s.checkVa vf (BitVec.ofNat 64 e.lrec) 64 with
    | .ok (.virt va) =>
      match s.acceptVa vf 0 e.asid va none with
      | (some _, s) => (true, s)
      | (none, s) => (true, s.refuseEntry vf)
    | _ => (true, s.refuseEntry vf)
  else if !(s.hasCore vf e.qcore && ((s.core e.qcore).queue.map (·.vf)) == some vf) then
    (true, (s.refuseEntry vf).recordDone owner)
  else match s.pushRecord e.qcore { e with kind := 0, lrec := 0 } owner with
    | some s => (true, s)
    | none => (false, s)

/-- The list that a pop takes from: the first whose oldest entry is of no function under quiesce (R213). -/
def State.popList (s : State) (q : Nat) : Option (Nat × QRun × Option Nat) :=
  (List.range 4).findSome? fun p => (s.lqPeek q p).bind fun e =>
    if s.quietVf (e.1.asid / 1024) then none else some (p, e.1, e.2.2)

/-- Whether some running slot drains a queue. -/
def State.draining (s : State) (q : Nat) : Bool :=
  s.tt.any fun e => slotKind (s.slotRaw e.1) == 2 && slotQueue (s.slotRaw e.1) == q && s.ns < e.2.until_

/-- A pop of a launch queue, after the entry popped before has been carried through (R213). -/
def State.popQueue (s : State) (q : Nat) : State :=
  match s.lqCarry.find? (·.1 == q) with
  | some (_, e, owner) =>
    match s.carryEntry e owner with
    | (true, s) => { s with lqCarry := s.lqCarry.erase q }.laterOnce 1 (.launchQueuePop q)
    | (false, s) => s.laterOnce 64 (.launchQueuePop q)
  | none =>
    if !s.draining q then s
    else match s.popList q with
      | none => s.laterOnce 64 (.launchQueuePop q)
      | some (p, e, owner) =>
        match (s.lqDrop q p).carryEntry e owner with
        | (true, s) => s.laterOnce 1 (.launchQueuePop q)
        | (false, s) => { s with lqCarry := s.lqCarry.put q (e, owner) }.laterOnce 64 (.launchQueuePop q)

/-- LAUNCH_QUEUE_POP (R213). -/
def execLaunchQueuePop (s : State) : Host.Outcome State Fault Refusal :=
  match s.ev with
  | .launchQueuePop q => .next (s.popQueue q)
  | _ => .next s

/-! Helpers, units and gangs. -/

/-- HELPER_POP (R184, R186): a helper that a gang keeps from the record tries again. -/
def execHelperPop (s : State) : Host.Outcome State Fault Refusal :=
  match s.ev with
  | .helperPop core c =>
    let t := s.popHelper core c
    let waits := (t.ctx core c).st == .free && bit ((t.core core).srGet rHPOOL).toNat c &&
      0 < ((t.core core).queue.map (·.inRing)).getD 0
    .next (if waits then t.laterOnce 64 (.helperPop core c) else t)
  | _ => .next s

/-- A PLACED gang whose units have all been pushed is RUNNING (R218). -/
def State.gangPushed (s : State) (lid : Nat) : State :=
  match (s.launches.find? (·.1 == lid)).bind (·.2.gang) with
  | none => s
  | some g =>
    match s.gangs.find? (·.1 == g) with
    | none => s
    | some (_, gg) =>
      let all := gg.members.all fun l => ((s.launches.find? (·.1 == l)).map (·.2.waiting.isEmpty)).getD true
      if gg.st == .placed && all then { s with gangs := s.gangs.put g { gg with st := .running } } else s

/-- A unit that waits for its completion bit or for room in its queue (R211, R215). -/
def State.unitStart (s : State) (lid u : Nat) : State :=
  match s.launches.find? (·.1 == lid) with
  | none => s
  | some (_, l) =>
    if !l.waiting.contains u then s
    else if !bit l.raw 760 then (s.pushUnit lid u).gangPushed lid
    else
      let start (w : Nat) (s : State) : State :=
        if bit w (u % 64) then (s.pushUnit lid u).gangPushed lid else s.later 64 (.conUnitStart lid u)
      let who : Who := ⟨l.cores.headD 0, 0, l.vf⟩
      match s.checkVa l.vf (extend56 (bits l.raw 704 56 + u / 64 * 8)) 8 with
      | .ok (.mesh c o) => start (s.stallRead c o 8) s
      | .ok (.virt va) =>
        if s.homeWaits who l.asid va .rd then s.later 64 (.conUnitStart lid u)
        else match s.homeRead who l.asid va 8 .rd with
          | (.ok (w, _), s) => start w s
          | (.error _, s) => s.later 64 (.conUnitStart lid u)
      | .error _ => s.later 64 (.conUnitStart lid u)

/-- CON_UNIT_START (R215). -/
def execConUnitStart (s : State) : Host.Outcome State Fault Refusal :=
  match s.ev with
  | .conUnitStart l u => .next (s.unitStart l u)
  | _ => .next s

/-- The cores that a gang's members place. -/
def State.gangCores (s : State) (g : Gang) : List Nat :=
  (g.members.flatMap fun l => ((s.launches.find? (·.1 == l)).map (·.2.cores)).getD []).eraseDups

/-- Whether a gang is the first that is PENDING, and every W0 unit of it has a FREE helper that no other gang holds (R218). -/
def State.placeable (s : State) (g : Nat) (gg : Gang) : Bool :=
  !(s.gangs.any fun e => e.1 < g && e.2.st == .pending) &&
  (s.gangCores gg).all fun core => s.gangNeeds gg core ≤ (s.freeHelpers core).length

/-- A PENDING gang placed: its helpers are reserved and its units pushed in one step (R218). -/
def State.placeGang (s : State) (g : Nat) : State :=
  match s.gangs.find? (·.1 == g) with
  | none => s
  | some (_, gg) =>
    if gg.st != .pending then s
    else if s.quietVf gg.vf || !s.placeable g gg then s.later 64 (.gangPlace g)
    else
      let held := (s.gangCores gg).flatMap fun core =>
        ((s.freeHelpers core).take (s.gangNeeds gg core)).map fun c => (core, c)
      let s := { s with gangs := s.gangs.put g { gg with st := .placed, reserved := held } }
      gg.members.foldl (fun s l => (s.startUnits l).gangPushed l) s

/-- GANG_PLACE (R218). -/
def execGangPlace (s : State) : Host.Outcome State Fault Refusal :=
  match s.ev with
  | .gangPlace g => .next (s.placeGang g)
  | _ => .next s

end Sys2Proof.Machine
end

