-- ==== Sys2Proof/Machine/Supervise.lean ====
section
/-! DEFINITION. Traps taken at a boundary, pre-emption requests, forced saves and restores, and the debug window
(spec/18_traps_preemption_contexts.md R414 to R432; spec/17_format_and_system_instructions.md R403). -/
namespace Sys2Proof.Machine

/-! Boundaries. -/

/-- A wait at which the instruction has had no effect yet, so that its context stands before it. -/
def Wait.unissued (w : Wait) : Bool :=
  w.abandonable || (match w with
    | .acks | .journal | .gap _ | .performed _ | .loads _ | .pins | .quiet => true
    | _ => false)

/-- Whether a context stands at an instruction boundary where a trap may be taken or a save begin: before an instruction
that has not been issued, or in a wait that it leaves, with the values of its loads arrived (R317, R414, R422, R426). -/
def Ctx.atBoundary (x : Ctx) : Bool :=
  (x.st == .ready || x.st == .wait || x.st == .sleep) && !x.idle && x.loads.isEmpty &&
  (match x.block with
    | none => true
    | some b => b.phase == 0 && b.wait.unissued)

/-- Whether a control context waits for a launch (R182, R288). -/
def Ctx.waitsLaunch (x : Ctx) : Bool := x.idle && x.st == .wait

/-- Whether an asynchronous trap is due and can be entered (R420). -/
def Ctx.asyncDue (x : Ctx) : Bool := x.refusal && x.atBoundary

/-- ASYNC_TRAP_ENTRY (R420). -/
def execAsyncTrapEntry (s : State) : Host.Outcome State Fault Refusal :=
  match s.ev with
  | .asyncTrapEntry core c => if (s.ctx core c).asyncDue then .next (s.enterAsync core c) else .next s
  | _ => .next s

/-- Whether a step report is due and can be taken (R431). -/
def Ctx.stepDue (x : Ctx) : Bool := x.step.isSome && x.tlvl == 0 && x.atBoundary

/-- The STEP trap that stayed due (R414, R431). -/
def State.takeStep (s : State) (core c : Nat) : State :=
  let x := s.ctx core c
  match x.step with
  | none => s
  | some r =>
    (s.setCtx core c { x with step := none }).enterTrap core c (causeWord cSTEP false 0 0 r.1 r.2.2) (BitVec.ofNat 64 r.2.1) x.pc

/-- Whether a supervisor event is due and can be entered (R424). -/
def Core.eventDue (k : Core) : Bool :=
  let x := k.ctx 0
  (k.rqovf != 0 || k.ckill != 0) && x.tlvl == 0 && (x.atBoundary || x.waitsLaunch)

/-- SUPERVISOR_EVENT_ENTRY (R424): the event is entered with all that has accumulated; RQOVF comes before CKILL. -/
def State.takeEvent (s : State) (core : Nat) : State :=
  let k := s.core core
  if !k.eventDue then s
  else if k.rqovf != 0 then (s.setCore core { k with rqovf := 0 }).enterEvent core cRQOVF k.rqovf
  else (s.setCore core { k with ckill := 0 }).enterEvent core cCKILL k.ckill

/-- SUPERVISOR_EVENT_ENTRY (R424). -/
def execSupervisorEventEntry (s : State) : Host.Outcome State Fault Refusal :=
  match s.ev with
  | .supervisorEventEntry core => .next (s.takeEvent core)
  | _ => .next s

/-! Pre-emption (R425 to R427). -/

/-- The statuses of a request. -/
def pqOK : Nat := 0
def pqBUSY : Nat := 1
def pqBADSAVE : Nat := 2

/-- Whether a save area qualifies: aligned to 64 bytes, in local-target HBM pages of class general with RD and WR. -/
def State.areaOk (s : State) (core asid area : Nat) : Bool × State :=
  let page (s : State) (va : Nat) : Bool × State :=
    match s.translate (stkOf core) asid va with
    | (.error _, s, _) => (false, s)
    | (.ok t, s, _) => (!t.fab && t.tier == 0 && t.cls == 3 && (transFault t .rw va).isNone, s)
  if area % 64 != 0 || meshBase < area + 16384 then (false, s)
  else
    let (a, s) := page s area
    let (b, s) := page s (area + 16383)
    (a && b, s)

/-- A pre-emption request checked, and STAT.PREQ and PREQDL.REMAIN set (R425). -/
def State.preemptRequest (s : State) (vf core c deadline area : Nat) : Nat × State :=
  let x := s.ctx core c
  if numCores ≤ core || numCtxs ≤ c then (pqBADSAVE, s)
  else if x.statBit bPREQ || x.st == .free || x.st == .saved || x.st == .drain then (pqBUSY, s)
  else if x.vf != vf then (pqBADSAVE, s)
  else
    match s.areaOk core x.asid (area % 2 ^ 56) with
    | (false, s) => (pqBADSAVE, s)
    | (true, s) =>
      (pqOK, s.modCtx core c fun x => { (x.setStat bPREQ true).srSet rPREQDL (BitVec.ofNat 64 (deadline % 2 ^ 32)) with
        preq := some ⟨vf, area % 2 ^ 56, false⟩ })

/-- PREEMPT_REQUEST (R425): the status stands in the window. -/
def execPreemptRequest (s : State) : Host.Outcome State Fault Refusal :=
  match s.ev with
  | .preemptRequest vf core c deadline area =>
    let (st, s) := s.preemptRequest vf core c deadline area
    .next (s.modVf vf fun v => { v with preqStat := st })
  | _ => .next s

/-- REMAIN after `dt` cycles, while STAT.PREQ is set and the context is not STOPPED (R425). -/
def Ctx.passTime (x : Ctx) (dt : Nat) : Ctx :=
  if x.statBit bPREQ && x.st != .stopped then
    x.srSet rPREQDL (BitVec.ofNat 64 ((x.srGet rPREQDL).toNat - dt))
  else x

/-- Whether a forced save is due at this boundary (R426). -/
def State.forceDue (s : State) (core c : Nat) : Bool :=
  let x := s.ctx core c
  let bell := match x.block with
    | some ⟨.bell _ _ _, _, _⟩ => x.st == .wait
    | some ⟨.save _ true, _, _⟩ => true
    | _ => false
  x.preq.isSome && x.statBit bPREQ && x.srGet rPREQDL == 0 && (s.core core).phase.isNone && (s.core core).stopped.isNone &&
  (x.atBoundary || x.waitsLaunch || bell)

/-- FORCED_SAVE (R426, R427): an arrival at a bell is withdrawn; once the context has drained every group is saved. -/
def State.forcedSave (s : State) (core c : Nat) : State :=
  if !s.forceDue core c then s
  else
    let s := s.withdrawBell core c
    if s.saveReady core c then s.saveContext core c 255 true
    else s.modCtx core c fun x => { x with block := some ⟨.save 255 true, s.clk, 0⟩, st := if x.idle then .wait else .ready }

/-- FORCED_SAVE (R426). -/
def execForcedSave (s : State) : Host.Outcome State Fault Refusal :=
  match s.ev with
  | .forcedSave core c => .next (s.forcedSave core c)
  | _ => .next s

/-- The 16 KiB of an area of a function, read in the ASID of the context that its header names (log entry 21); `none` where
no context's area is found there. -/
def State.readArea (s : State) (vf area : Nat) : Option Nat × State :=
  let slots := s.cores.flatMap fun e => (List.range numCtxs).filterMap fun c =>
    if (e.2.ctx c).vf == vf && s.hasCore vf e.1 then some (e.1, c) else none
  slots.foldl (fun (r : Option Nat × State) slot =>
    match r with
    | (some a, s) => (some a, s)
    | (none, s) =>
      let asid := (s.ctx slot.1 slot.2).asid
      match s.virtRead ⟨slot.1, slot.2, vf⟩ asid (area % 2 ^ 56) 16384 .rd with
      | (.error _, s) => (none, s)
      | (.ok (a, _), s) =>
        let h := areaBytes a 8 8
        if bits h 14 14 == slot.1 && bits h 10 4 == slot.2 then (some a, s) else (none, s)) (none, s)

/-- CONTEXT_RESTORE (R430): a restore that must wait for the sequencers tries again. The device's own, of a checkpoint,
names its area physically. -/
def State.contextRestore (s : State) (vf area : Nat) (phys : Bool) : State :=
  let (got, s) := if phys then (some (s.physRead area 16384), s) else s.readArea vf area
  let r := match got with
    | none => (some rsBADSAVE, s)
    | some a => s.restoreFrom vf a
  match r with
  | (some st, s) => if phys then s else s.modVf vf fun v => { v with restStat := st }
  | (none, s) => s.later 64 (.contextRestore vf area phys)

/-- CONTEXT_RESTORE (R430). -/
def execContextRestore (s : State) : Host.Outcome State Fault Refusal :=
  match s.ev with
  | .contextRestore vf area phys => .next (s.contextRestore vf area phys)
  | _ => .next s

/-! The debug window (R403, R431, R432). -/

/-- What a write to DEBUG leaves there: core, context and the bit of what it asks for (R446). -/
def State.noteDebug (s : State) (vf core c b : Nat) (on : Bool) : State :=
  s.modVf vf fun w => { w with debug := core % 2 ^ 14 + c % 2 ^ 4 * 2 ^ 14 + on.toNat * 2 ^ b }

/-- DEBUG_STOP (R432), on a core of the function. -/
def execDebugStop (s : State) : Host.Outcome State Fault Refusal :=
  match s.ev with
  | .debugStop vf core =>
    let s := s.noteDebug vf core 0 18 true
    .next (if s.hasCore vf core then s.stopCore core else s)
  | _ => .next s

/-- A context that returns to the state it left: bounds and windows that did not count move on by the time stopped (R432). -/
def Ctx.resume (x : Ctx) (dt : Nat) : Ctx :=
  if x.st != .stopped then x
  else
    let block := x.block.map fun b => match b.wait with
      | .barrier d core off p r len => { b with wait := .barrier (d + dt) core off p r len }
      | .realign pc d => { b with wait := .realign pc (if d == 0 then 0 else d + dt) }
      | _ => b
    { x with st := if x.back == .wait && x.block.isNone && !x.idle then .ready else x.back, block := block }

/-- A core resumed. -/
def State.resumeCore (s : State) (core : Nat) : State :=
  match (s.core core).stopped with
  | none => s
  | some t =>
    let dt := s.clk - t
    let s := s.modCore core fun k => (List.range numCtxs).foldl (fun k c =>
      if (k.ctx c).st == .stopped then k.setCtx c ((k.ctx c).resume dt) else k) { k with stopped := none }
    (List.range numCtxs).foldl (fun s c =>
      match (s.ctx core c).block with
      | some ⟨.barrier d _ _ _ _ _, _, _⟩ => s.later (d - s.clk) (.bwaitTimeout core c)
      | some ⟨.realign _ d, _, _⟩ => if d == 0 then s else s.later (d - s.clk) (.realignTimeout core c)
      | _ => s) s

/-- DEBUG_RESUME (R432). -/
def execDebugResume (s : State) : Host.Outcome State Fault Refusal :=
  match s.ev with
  | .debugResume vf core =>
    let s := s.noteDebug vf core 0 19 true
    .next (if s.hasCore vf core then s.resumeCore core else s)
  | _ => .next s

/-- DEBUG_STOP_ENABLE (R403). -/
def execDebugStopEnable (s : State) : Host.Outcome State Fault Refusal :=
  match s.ev with
  | .debugStopEnable vf core on =>
    let s := s.noteDebug vf core 0 20 on
    .next (if s.hasCore vf core then s.modCore core fun k => { k with dbgEn := on } else s)
  | _ => .next s

/-- DEBUG_SET_STEP (R431). -/
def execDebugSetStep (s : State) : Host.Outcome State Fault Refusal :=
  match s.ev with
  | .debugSetStep vf core c on =>
    let s := s.noteDebug vf core c 21 on
    .next (if s.hasCore vf core && c < numCtxs then s.modCtx core c (·.setStat bSTEP on) else s)
  | _ => .next s

end Sys2Proof.Machine
end

