-- ==== Sys2Proof/Machine/Reset.lean ====
section
/-! DEFINITION. The resets of a function and of the package, bring-up, and the whole-memory checkpoint
(spec/18_traps_preemption_contexts.md R433; spec/20_host_fabric_bringup.md R453, R454; spec/05_tiers_and_parking.md R137 to
R139; spec/02_stall_and_tracks.md R39). -/
namespace Sys2Proof.Machine

/-! The reset of a function (R433). -/

/-- The core that an event names as its own. -/
def eventCore : Event → Option Nat
  | .realignTimeout core _ => some core
  | .bwaitTimeout core _ => some core
  | .trackMotionEnd core _ => some core
  | .trackAccessStart core _ => some core
  | .trackRealignmentDone core _ => some core
  | .trackAccessComplete core _ => some core
  | .mmaOperandsConsumed core => some core
  | .asyncTrapEntry core _ => some core
  | .supervisorEventEntry core => some core
  | .helperPop core _ => some core
  | .forcedSave core _ => some core
  | _ => none

/-- A core whose contexts have stopped issuing, with its engine work, its journal and its queue gone (R433, step 1). -/
def Core.halt (k : Core) : Core :=
  { k with
    ctxs := k.ctxs.map fun (e : Nat × Ctx) =>
      (e.1, { e.2 with st := if e.1 == 0 then .wait else .free, idle := true, block := none, launch := none, step := none,
                       refusal := false, preq := none, fork := none, pending := [] }),
    journal := [], cmdq := [], seqOwner := none, mseq := Seq.reset, cseq := Seq.reset, phase := none, latch := none,
    stopped := none, purse := k.purse + k.hold, hold := 0, queue := none }

/-- Step 1: the cores of a function halt, and what they had under way is abandoned. -/
def State.haltCores (s : State) (v : Nat) : State :=
  let mine (core : Nat) : Bool := s.hasCore v core
  let gone := s.ops.filter fun e => mine e.2.core
  let s1 := gone.foldl (fun s e => e.2.slicePins.foldl (fun s p => s.unpin p.2) (s.unpin e.2.pinned)) s
  let s1 := { s1 with
    cores := s1.cores.map fun (e : Nat × Core) => if mine e.1 then (e.1, e.2.halt) else e,
    ops := s1.ops.filter fun e => !mine e.2.core,
    reqs := s1.reqs.filter fun e => !mine e.2.core,
    fills := s1.fills.filter fun e => e.2.asid / 1024 != v,
    xvals := s1.xvals.filter fun e => !mine e.2.dst,
    svcs := s1.svcs.filter fun (r : Svc) => !mine r.core,
    pwreqs := s1.pwreqs.filter fun (r : Nat × Nat × Nat × Nat) => !mine r.1,
    pwdone := s1.pwdone.filter fun (r : Nat × Nat × Nat) => !mine r.1,
    arbs := s1.arbs.filter fun e => !mine (8 * e.1),
    due := s1.due.filter fun e => !((eventCore e.2).map mine).getD false }
  let s1 := { s1 with held := s1.held.filter fun i => s1.reqs.has i,
                      fills := s1.fills.map fun (e : Nat × Fill) =>
                        (e.1, { e.2 with waiters := e.2.waiters.filter fun i => s1.reqs.has i }) }
  let ended := (s1.launches.filter fun e => e.2.vf == v).map (·.1)
  let s1 := { s1 with launches := s1.launches.filter fun e => e.2.vf != v,
                      gangs := s1.gangs.filter fun e => e.2.vf != v,
                      bells := s1.bells.filter fun e => !ended.contains (e.1 / 8) }
  (s1.tt.filter fun e => (e.2.launch.map ended.contains).getD false).foldl (fun s e => s.slotEnded e.1) s1.retryHeld

/-- The entries of a function on one stack freed: its index entries, its records with their frames, its blocks. -/
def State.freeKv (s : State) (v : Nat) (q : KvQ) : State :=
  let s := (List.range (2 ^ q.logpx)).foldl (fun s i =>
    let pa := q.px + 64 * i
    let e := s.physRead pa 64
    if bits e 80 8 != 0 && bits e 72 6 == v then (s.physWrite pa 64 0).dropRefs (imageBlocks e) else s) s
  let s := (List.range q.recs).foldl (fun s r =>
    let (e, loc, _) := s.kvRec q r
    if eState e == esFree || (keyOf e).vf != v then s
    else
      let s := s.removeRec q (q.group (keyOf e)) r
      if eState e == esAlias then (if eTier e == 0 then s.dropRefs [loc] else s)
      else if eTier e == 0 then s
      else s.giveFrame v (eTier e) 65536 (if eTier e == 1 then loc % 2 ^ 31 * 2 ^ 14 else flashAddr loc)) s
  let s := (List.range (2 ^ q.logq)).foldl (fun s j =>
    let e := s.mapEntry q j
    if eState e == esFree || (keyOf e).vf != v then s
    else s.setMapEntry q j (if eState e == esRetired then esRetired * 2 ^ 70 else 0)) s
  s.setHeldBlocks v q.stack 0

/-- Step 2: lines and translations of the function's ASIDs go without write-back, its KV entries become free, and its
parks are abandoned. -/
def State.forgetFunction (s : State) (v : Nat) : State :=
  let s := { s with
    c2 := s.c2.filter fun l => l.asid / 1024 != v, tlb := s.tlb.filter fun t => t.asid / 1024 != v,
    walks := s.walks.filter fun w => w.asid / 1024 != v, icache := s.icache.filter fun e => e.2.1 / 1024 != v,
    cores := s.cores.map fun (e : Nat × Core) =>
      (e.1, { e.2 with c1 := e.2.c1.filter fun l => l.asid / 1024 != v,
                       hints := e.2.hints.filter fun h => h.asid / 1024 != v }) }
  let s := (s.moves.filter fun e => e.2.vf == v).foldl (fun s e =>
    match e.2.kind with
    | .kv seq head lblk => s.dropKvMove e.1 e.2 ⟨v, seq, head, lblk⟩ false
    | .page _ _ _ => s) s
  let parks : Assoc Park := s.parks.filter fun e => e.2.vf != v
  let s := { s with parks := parks, wakes := s.wakes.filter fun i => parks.has i }
  (List.range 4).foldl (fun s k =>
    match s.kvQ k with
    | some q => s.freeKv v q
    | none => s) s

/-- Cycles that the clearing of a function's cores takes (log entry 2). -/
def clearCycles : Nat := 2048

/-- VFRESET (R433): steps 1 and 2, and the clearing of step 3 begins. -/
def State.vfReset (s : State) (v : Nat) : State :=
  if (s.vf v).resetting then s
  else ((((s.modVf v fun w => { w with resetting := true }).haltCores v).forgetFunction v).later clearCycles (.functionResetDone v))

/-- VFRESET (R433). -/
def execVfreset (s : State) : Host.Outcome State Fault Refusal :=
  match s.ev with
  | .vfreset v => .next (s.vfReset v)
  | _ => .next s

/-- A core at its reset values; its tokens and the suspect bits of its tracks stay (R59, R433). -/
def Core.cleared (k : Core) : Core :=
  { Core.reset with purse := k.purse, lastCtx := k.lastCtx, nextIssue := k.nextIssue,
                    tracks := (k.tracks.filter fun e => e.2.susp).map fun (e : Nat × Track) => (e.1, { Track.reset with susp := true }) }

/-- Step 3: stalls and tracks clear, registers at their reset values, counters from 0 (R39, R223, R433, R448). -/
def State.vfCleared (s : State) (v : Nat) : State :=
  let stall (a : Nat) : Bool := inStall a && s.hasCore v ((a - stallBase) / 65536)
  let s := { s with
    cores := s.cores.map fun (e : Nat × Core) => if s.hasCore v e.1 then (e.1, e.2.cleared) else e,
    mem := s.mem.filter fun c => !stall c.1, poison := s.poison.filter fun w => !stall w }
  s.modVf v fun w => { w with resetting := false, migSkip := 0, migErr := 0, wakeDup := 0, rqDrop := 0, doneErr := 0, lRefuse := 0 }

/-- FUNCTION_RESET_DONE (R433). -/
def execFunctionResetDone (s : State) : Host.Outcome State Fault Refusal :=
  match s.ev with
  | .functionResetDone v => .next (s.vfCleared v)
  | _ => .next s

/-! Cold and warm resets, and bring-up (R453, R454). -/

/-- The package after a cold or warm reset: all that R453 clears, while memory outside the stalls, the flash tier and the
retirement list stay. `image` is the firmware image that boots. -/
def State.restart (s : State) (image : Nat) : State :=
  { State.reset with
    mem := s.mem.filter fun c => !inStall c.1, poison := s.poison.filter fun w => !inStall w, flash := s.flash,
    retired := s.retired, retFull := s.retFull, ckpt := s.ckpt, agenda := s.agenda, msix := s.msix, hostOut := s.hostOut,
    nextId := s.nextId, free := s.free, pkg := { Pkg.reset with fwImage := image } }

/-- COLD_RESET (R453): it also brings power back (R457). -/
def execColdReset (s : State) : Host.Outcome State Fault Refusal :=
  match s.ev with
  | .coldReset => .next (s.restart s.pkg.fwImage)
  | _ => .next s

/-- FWLOAD (R453): a warm reset that boots the image named. -/
def execFwload (s : State) : Host.Outcome State Fault Refusal :=
  match s.ev with
  | .fwload pa => .next (s.restart (pa + 1))
  | _ => .next s

/-- The end of bring-up: the image runs where its signature verifies, else the device waits for FWLOAD (R454). -/
def State.bringUp (s : State) : State :=
  if bits s.pkg.fwStat 0 2 != 0 then s
  else
    let ok := Config.signatureOk s.pkg.fwImage s.free
    let version := Config.imageVersion s.pkg.fwImage s.free % 2 ^ 32
    { s with free := s.free + 1,
             pkg := { s.pkg with fwStat := (if ok then 1 else 2) + version * 2 ^ 32, fwVersion := version } }

/-- BRING_UP_COMPLETE (R454). -/
def execBringUpComplete (s : State) : Host.Outcome State Fault Refusal :=
  match s.ev with
  | .bringUpComplete => .next s.bringUp
  | _ => .next s

/-! The checkpoint (R137 to R139). -/

/-- Bytes of a checkpoint, and the cycles that the flash tier takes for them at 48 GB/s (R138). -/
def ckptBytes : Nat := 568009424896
def ckptCycles : Nat := ckptBytes * 21 / 480

/-- The save area of a context in the region of CKPTSAVE (R139). -/
def State.ckptArea (s : State) (core c : Nat) : Nat := bits s.pkg.ckptSave 16 29 * 65536 + 16384 * (11 * core + c)

/-- Free bytes of the flash tier: those of frames that hold nothing. -/
def State.flashFree (s : State) : Nat :=
  Config.flashBytes - 65536 * ((s.flash.map fun c => c.1 / 65536).eraseDups).length

/-- Every context of the package. -/
def allCtxs : List (Nat × Nat) := (List.range numCores).flatMap fun n => (List.range numCtxs).map fun c => (n, c)

/-- CHECKPOINT_START (R137, R138): every context that is not FREE is asked to save at once into its area of the region;
one saved before is written there as its slot holds it. -/
def State.ckptStart (s : State) : State :=
  if s.quiesced || s.pkg.ckptState == 1 then s
  else if s.flashFree < ckptBytes then { s with pkg := { s.pkg with ckptState := 3 } }
  else
    let s := { s with pkg := { s.pkg with ckptState := 1 } }
    allCtxs.foldl (fun s p =>
      let x := s.ctx p.1 p.2
      if x.st == .free then s
      else if x.st == .saved then
        (savePieces (s.core p.1) p.1 p.2 255 true).foldl (fun s r => s.physWrite (s.ckptArea p.1 p.2 + r.1) r.2.1 r.2.2) s
      else s.modCtx p.1 p.2 fun x => { (x.setStat bPREQ true).srSet rPREQDL 0 with
        preq := some ⟨x.vf, s.ckptArea p.1 p.2, true⟩ }) s

/-- CHECKPOINT_START (R137). -/
def execCheckpointStart (s : State) : Host.Outcome State Fault Refusal :=
  match s.ev with
  | .checkpointStart => .next s.ckptStart
  | _ => .next s

/-- Whether the quiesce of a checkpoint is over: every context is SAVED or FREE, and no engine works, that of
migration among them. -/
def State.ckptQuiet (s : State) : Bool :=
  s.pkg.ckptState == 1 && !s.quiesced && s.ops.all (·.2.finished) && s.reqs.isEmpty && s.moves.isEmpty &&
  allCtxs.all fun p => (s.ctx p.1 p.2).st == .free || (s.ctx p.1 p.2).st == .saved

/-- The image of a quiesced device taken (R137, R139): areas of contexts that are FREE begin with zero, and dirty lines are
written back first. -/
def State.ckptTake (s : State) : State :=
  let s := allCtxs.foldl (fun s p =>
    if (s.ctx p.1 p.2).st == .free then s.physWrite (s.ckptArea p.1 p.2) 16 0 else s) s
  let s := (s.c2.filter (·.dirty)).foldl (fun s l => (s.writeBack l).setLine { l with dirty := false }) s
  let image : Image :=
    ⟨s.mem.filter (fun c => c.1 < hbmTop || inStall c.1), s.poison.filter (fun w => w < hbmTop || inStall w), s.cores, s.heat,
     s.parks.map fun (e : Nat × Park) => (e.1, { e.2 with aged := e.2.aged + (s.clk - e.2.since), since := s.clk }), s.kvHeld, s.lq⟩
  { s with ckpt := some image, quiesced := true }.later ckptCycles .checkpointDone

/-- Timers that did not age while the device was quiesced (R138): what is due, windows and parks move on by `dt`, and the
table counts what it has missed. -/
def State.unfreeze (s : State) (dt : Nat) : State :=
  ({ s with
    quiesced := false, due := s.due.map fun (e : Nat × Event) => (e.1 + dt, e.2), capEnd := if s.capEnd == 0 then 0 else s.capEnd + dt,
    capNext := s.capNext.map fun (c : Nat × Nat) => (c.1, c.2 + dt),
    parks := s.parks.map fun (e : Nat × Park) => (e.1, { e.2 with since := e.2.since + dt }),
    islands := s.islands.map fun (e : Nat × Island) => (e.1, { e.2 with holds := e.2.holds.map fun (h : Nat × Nat) => (h.1, h.2 + dt) }) }).retime

/-- CHECKPOINT_DONE (R138): the contexts stay SAVED, for a restore to resume. -/
def execCheckpointDone (s : State) : Host.Outcome State Fault Refusal :=
  match s.ev with
  | .checkpointDone => .next ({ s with pkg := { s.pkg with ckptState := 2 } }.unfreeze ckptCycles)
  | _ => .next s

/-- The parks of an image age on from where they stood (R130, R139). -/
def State.resumeParks (s : State) (parks : Assoc Park) : State :=
  parks.foldl (fun s (e : Nat × Park) => s.later (2100000 - e.2.aged % 2100000) .parkAgeTick)
    { s with parks := parks.map fun (e : Nat × Park) => (e.1, { e.2 with since := s.clk }) }

/-- The images written back over memory, stalls and tracks; nothing that was under way before goes on (R139). -/
def State.writeBackImage (s : State) (m : Image) : State :=
  let out (a : Nat) : Bool := !(a < hbmTop || inStall a)
  let cores := (List.range numCores).filterMap fun n =>
    let k := s.core n
    let old := m.cores.get n Core.reset
    if s.cores.has n || m.cores.has n then
      some (n, { k.halt with
        ctxs := (List.range numCtxs).map fun c => (c, if (k.ctx c).st == CtxSt.saved then k.ctx c
          else { Ctx.reset c with idle := (old.ctx c).idle }),
        journal := k.journal.filter fun e => e.2.state == 2, words := old.words, badWords := old.badWords, c1 := [] })
    else none
  { s.resumeParks m.parks with
    mem := m.mem.foldl (fun (r : List Host.Cell) c => memSetByte r c.1 c.2) (s.mem.filter fun c => out c.1),
    poison := m.poison.foldl (fun r w => NatSet.insert w r) (s.poison.filter out),
    cores := cores, c2 := [], tlb := [], walks := [], icache := [], fills := [], reqs := [], held := [], wakes := [], ops := [],
    msgs := [], xvals := [], bells := [], arbs := [], heat := m.heat, kvHeld := m.kvHeld, kvWait := [], lq := m.lq,
    due := (s.resumeParks m.parks).due.filter fun e => (eventCore e.2).isNone }

/-- One context of a checkpoint restored under R430, or left FREE where its header is zero or its restore fails; the count
of those that fail. -/
def State.ckptContext (s : State) (p : Nat × Nat) : Nat × State :=
  let area := s.ckptArea p.1 p.2
  let leave (s : State) : State := s.modCtx p.1 p.2 fun x => { x with st := .free, block := none, preq := none }
  let h := s.physRead (area + 8) 8
  if s.physRead area 16 == 0 then (0, leave s)
  else
    let s := s.modCtx p.1 p.2 fun x => { x with st := .saved }
    let a := s.physRead area 16384
    match s.restoreFrom (bits (areaBytes a 0x18 8) 10 6) a with
    | (some st, s') => if st == rsOK && h != 0 then (0, s') else (1, leave s)
    | (none, s') => (0, s'.later 64 (.contextRestore (bits (areaBytes a 0x18 8) 10 6) area true))

/-- CHECKPOINT_RESTORE (R139): the images are written back, and the contexts restored in ascending order; they stay
quiesced until the writes are done. Without an image nothing happens. -/
def State.ckptRestore (s : State) : State :=
  if s.quiesced || s.pkg.ckptState == 1 then s
  else match s.ckpt with
    | none => s
    | some m =>
      let s := s.writeBackImage m
      let (n, s) := allCtxs.foldl (fun (r : Nat × State) p =>
        let (k, s) := r.2.ckptContext p
        (r.1 + k, s)) (0, s)
      { s with quiesced := true, pkg := { s.pkg with ckptState := 1, ckptFail := n % 2 ^ 16 } }.later ckptCycles
        .checkpointRestoreDone

/-- CHECKPOINT_RESTORE (R139). -/
def execCheckpointRestore (s : State) : Host.Outcome State Fault Refusal :=
  match s.ev with
  | .checkpointRestore => .next s.ckptRestore
  | _ => .next s

/-- CHECKPOINT_RESTORE_DONE (R139). -/
def execCheckpointRestoreDone (s : State) : Host.Outcome State Fault Refusal :=
  match s.ev with
  | .checkpointRestoreDone => .next ({ s with pkg := { s.pkg with ckptState := 2 } }.unfreeze ckptCycles)
  | _ => .next s

end Sys2Proof.Machine
end

