-- ==== Sys2Proof/Machine/HostIf.lean ====
section
/-! DEFINITION. What the host and remote devices ask: register windows, the stall window, HBM, launch-queue pushes,
doorbells, counters, attestation and fabric requests (spec/20_host_fabric_bringup.md R444 to R456;
spec/09_launch_and_scheduling.md R207, R214). -/
namespace Sys2Proof.Machine

/-! Registers (R445, R446). An offset below 64 KiB lies in the package window; function v's window stands at
0x100000 + 0x1000 v (log entry 23). -/

/-- A 64-bit half of a wider register written, its reserved bits zero. -/
def setHalf (old half v width : Nat) : Nat := setBits old (64 * half) 64 (v % 2 ^ 64) % 2 ^ width

/-- The package window's plain registers. -/
def Pkg.write (p : Pkg) (off v : Nat) : Pkg :=
  if off == 0x0 then (if p.fabEn == 0 then { p with devId := v % 2 ^ 18 } else p)
  else if off == 0x8 then { p with fabEn := v % 2 ^ 10 }
  else if off == 0x10 then
    { p with keep := min 4096 (bits v 0 13), fallback := max 70 (min 280 (bits v 16 12)) }
  else if off == 0x30 then { p with podBase := v % 2 ^ 18 }
  else if 0x40 ≤ off && off < 0xC0 then
    let k := (off - 0x40) / 16
    { p with fabWin := p.fabWin.set k (setHalf (p.fabWin.get k 0) ((off - 0x40) / 8 % 2) v 69) 0 }
  else if off == 0x238 then { p with ckptSave := bits v 16 29 * 2 ^ 16 }
  else if off == 0x488 then { p with lqBase := v % 2 ^ 45 }
  else if 0x6000 ≤ off && off < 0x6400 then
    let k := (off - 0x6000) / 16
    { p with sgMask := p.sgMask.set k (setHalf (p.sgMask.get k 0) ((off - 0x6000) / 8 % 2) v 128) 0 }
  else p

/-- A word of a table slot written (R207): reserved bits are zero, and a write to SKIPS and FIRES clears them. -/
def slotWrite (raw w v : Nat) : Nat :=
  match w with
  | 0 => setBits raw 0 64 (v % 2 ^ 64)
  | 1 => setBits raw 64 64 (v % 2 ^ 18)
  | 2 => setBits raw 128 64 (v % 2 ^ 39)
  | _ => setBits raw 192 64 0

/-- HEATBASE written: the heat table begins anew there, and holds the counters as they are (R91; log entry 103). -/
def State.placeHeat (s : State) (base : Nat) : State :=
  let s := { s with pkg := { s.pkg with heatBase := base } }
  if base == 0 then s
  else
    let n := heatSlot 0 (cxlTop / 65536)
    s.heat.foldl (fun s (e : Nat × Nat) => s.setHeat e.1 e.2) ((s.flushRange base n).clearRange base n)

/-- The low `n` bytes of a value, lowest first. -/
def bytesOf (v n : Nat) : List Byte := (List.range n).map fun i => BitVec.ofNat 8 (bits v (8 * i) 8)

/-- A package register written. -/
def State.writePkg (s : State) (off v : Nat) : State :=
  if off == 0x20 then
    s.slotIndexes.foldl (fun s i => s.startSlot true i) { s with pkg := { s.pkg with ttEpoch := v % 2 ^ 64 } }
  else if off == 0x28 then
    s.slotIndexes.foldl (fun s i => s.startSlot true i) { s with pkg := { s.pkg with ttCyc := max 1000 (v % 2 ^ 32) } }
  else if 0x400 ≤ off && off < 0x480 then
    let k := (off - 0x400) / 32
    s.setKvPool k (setBits (s.pkg.kvPool.get k 0) (64 * ((off - 0x400) / 8 % 4)) 64 (v % 2 ^ 64))
  else if 0x1000 ≤ off && off < 0x5000 then
    let i := (off - 0x1000) / 32
    let w := (off - 0x1000) / 8 % 4
    let s := { s with pkg := { s.pkg with ttSlot := s.pkg.ttSlot.put i (slotWrite (s.slotRaw i) w v) } }
    if w == 3 then s else s.startSlot false i
  else if off == 0x480 then s.placeHeat (v % 2 ^ 45)
  else { s with pkg := s.pkg.write off v }

/-- VFQUOTA and HEATCFG as stored (R81, R128). -/
def quotaWrite (v : Nat) : Nat := (List.range 4).foldl (fun n c => n + min 16 (bits v (5 * c) 5) * 2 ^ (5 * c)) 0
def heatWrite (v : Nat) : Nat := setBits (v % 2 ^ 52) 32 8 (max 1 (bits v 32 8))

/-- A pool register written: its place and its count of frames (R446). -/
def Vf.writePool (w : Vf) (n v : Nat) : Vf :=
  { w with pools := w.pools.set n (bits v 0 45) 0, frames := w.frames.set n (bits v 0 12 * 1024) 0 }

/-- Whether a function has a live context (R446). -/
def State.vfLive (s : State) (v : Nat) : Bool :=
  s.cores.any fun e => (List.range numCtxs).any fun c => (e.2.ctx c).live && (e.2.ctx c).vf == v

/-- A register of a function window written; where a live context forbids it, it is ignored and WERR set. A ring given
anew starts at its first entry. -/
def State.writeVf (s : State) (v off value : Nat) : State :=
  let guarded (f : Vf → Vf) : State := if s.vfLive v then s.modVf v fun w => { w with werr := true } else s.modVf v f
  let page : Nat := bits value 12 33 * 4096
  let ring : Nat := page + bits value 0 4
  if off == 0x0 then guarded fun w => { w with asidTab := page }
  else if off == 0x8 then s.modVf v fun w => { w with quota := quotaWrite value }
  else if off == 0x10 then s.modVf v fun w => { w with heatCfg := heatWrite value }
  else if off == 0x18 then s.modVf v fun w => { w with kvLim := value % 2 ^ 23 }
  else if off == 0x20 || off == 0x28 || off == 0x30 then s.modVf v (·.writePool ((off - 0x20) / 8) value)
  else if off == 0x38 then guarded fun w => { w with ovfBase := page }
  else if off == 0x40 then guarded fun w => { w with svcRing := ring, svcTail := 0 }
  else if off == 0x58 then guarded fun w => { w with killRing := ring, killTail := 0 }
  else if off == 0x120 || off == 0x128 || off == 0x130 then s.modVf v (·.writePool ((off - 0x120) / 8 + 3) value)
  else s

/-- HOST_REGISTER_WRITE (R445, R446): an aligned 8-byte write. -/
def State.hostRegister (s : State) (off v : Nat) : State :=
  if off % 8 != 0 then s
  else if off < 0x10000 then s.writePkg off v
  else if 0x100000 ≤ off && off < 0x140000 then s.writeVf ((off - 0x100000) / 0x1000) (off % 0x1000) v
  else s

/-- HOST_REGISTER_WRITE (R446). -/
def execHostRegisterWrite (s : State) : Host.Outcome State Fault Refusal :=
  match s.ev with
  | .hostRegisterWrite off v => .next (s.hostRegister off v)
  | _ => .next s

/-- The word at an offset of a package register that holds several, by number and width. -/
def halfOf (r off base : Nat) : Nat := bits r (64 * ((off - base) / 8)) 64

/-- RETSTAT (R445, R456): each stack's rows retired and RETFULL. -/
def State.retStat (s : State) : Nat :=
  (List.range 4).foldl (fun w k =>
    w + (s.retired.filter fun r => stackOfPa (1024 * r) == k).length % 2 ^ 13 * 2 ^ (16 * k) +
      (s.retFull.contains k).toNat * 2 ^ (16 * k + 13)) 0

/-- KVPOOL of a stack as it reads: EN 0 where a field is out of range (R96). -/
def State.kvPoolRead (s : State) (k : Nat) : Nat :=
  setBits (s.pkg.kvPool.get k 0) 158 1 (s.kvQ k).isSome.toNat

/-- A register of the package window as it reads; `none` at an offset that none which reads has (R445). -/
def State.readPkg (s : State) (off : Nat) : Option Nat :=
  let p := s.pkg
  if off == 0x0 then some p.devId
  else if off == 0x8 then some p.fabEn
  else if off == 0x10 then some (p.keep + p.fallback * 2 ^ 16)
  else if off == 0x20 then some p.ttEpoch
  else if off == 0x28 then some p.ttCyc
  else if off == 0x30 then some p.podBase
  else if 0x40 ≤ off && off < 0xC0 then
    let k := (off - 0x40) / 16
    some (halfOf (p.fabWin.get k 0) off (0x40 + 16 * k))
  else if 0x100 ≤ off && off < 0x120 then some (p.errCnt.get ((off - 0x100) / 8) 0)
  else if 0x120 ≤ off && off < 0x140 then some (p.errLast.get ((off - 0x120) / 8) 0)
  else if off == 0x200 then some s.retStat
  else if off == 0x220 then some p.fwStat
  else if off == 0x230 then some p.therm
  else if off == 0x238 then some p.ckptSave
  else if off == 0x240 then some (p.ckptState * 2 ^ 2 + p.ckptFail * 2 ^ 16)
  else if 0x400 ≤ off && off < 0x480 then
    let k := (off - 0x400) / 32
    some (halfOf (s.kvPoolRead k) off (0x400 + 32 * k))
  else if off == 0x480 then some p.heatBase
  else if off == 0x488 then some p.lqBase
  else if off == 0x4B0 then some p.lqStatus
  else if 0x1000 ≤ off && off < 0x5000 then
    let i := (off - 0x1000) / 32
    some (halfOf (s.slotRead (s.slotRaw i)) off (0x1000 + 32 * i))
  else if 0x6000 ≤ off && off < 0x6400 then
    let k := (off - 0x6000) / 16
    some (halfOf (p.sgMask.get k 0) off (0x6000 + 16 * k))
  else none

/-- A register of a function window as it reads (R446 to R448). -/
def Vf.read (w : Vf) (off : Nat) : Option Nat :=
  if off == 0x0 then some w.asidTab
  else if off == 0x8 then some w.quota
  else if off == 0x10 then some w.heatCfg
  else if off == 0x18 then some w.kvLim
  else if off == 0x20 || off == 0x28 || off == 0x30 then some (w.pools.get ((off - 0x20) / 8) 0)
  else if off == 0x38 then some w.ovfBase
  else if off == 0x40 then some w.svcRing
  else if off == 0x48 then some w.svcTail
  else if off == 0x58 then some w.killRing
  else if off == 0x60 then some (w.killTail + w.killDrop * 2 ^ 32)
  else if off == 0x90 then some w.preqStat
  else if off == 0xA8 then some w.restStat
  else if off == 0xC0 then some w.debug
  else if off == 0xE0 then some w.resetting.toNat
  else if off == 0xE8 then some w.werr.toNat
  else if off == 0xF0 then some 0
  else if off == 0x100 then some w.migSkip
  else if off == 0x108 then some w.migErr
  else if off == 0x110 then some w.wakeDup
  else if off == 0x118 then some w.rqDrop
  else if off == 0x120 || off == 0x128 || off == 0x130 then some (w.pools.get ((off - 0x120) / 8 + 3) 0)
  else if off == 0x138 then some w.doneErr
  else if off == 0x140 then some w.lRefuse
  else none

/-- An aligned 8-byte read of a window register by the host: its bytes are the answer, or none where nothing reads there; a read
of FNSTAT clears WERR (R446). -/
def State.hostRegisterRead (s : State) (off : Nat) : State :=
  let answer (r : Option Nat) : Option (List Byte) := r.map fun w => bytesOf w 8
  if off % 8 != 0 then { s with hostOut := none }
  else if off < 0x10000 then { s with hostOut := answer (s.readPkg off) }
  else if 0x100000 ≤ off && off < 0x140000 then
    let v := (off - 0x100000) / 0x1000
    let r := off % 0x1000
    let s := { s with hostOut := answer ((s.vf v).read r) }
    if r == 0xE8 then s.modVf v fun w => { w with werr := false } else s
  else { s with hostOut := none }

/-! Launch-queue pushes (R214). -/

/-- The entry of a 32-byte push. -/
def lqEntry (e : Nat) : QRun :=
  let cont := bit e 10
  let p := bits e 8 2
  ⟨if cont then bits e 64 64 else 0, if cont then bits e 128 64 else 0, if cont then 0 else bits e 64 64, bits e 192 64,
   if cont then bits e 32 16 else 0, bits e 16 16, (if cont then 0 else 1) + 2 * p⟩

/-- LQPUSH (R214): the status of the latest push stands in the window. -/
def execLqpush (s : State) : Host.Outcome State Fault Refusal :=
  match s.ev with
  | .lqpush _ e =>
    match s.lqPush (bits e 0 8) (bits e 8 2) (lqEntry e) none with
    | some s => .next { s with pkg := { s.pkg with lqStatus := stOK } }
    | none => .next { s with pkg := { s.pkg with lqStatus := stLQFULL } }
  | _ => .next s

/-! Doorbells and single registers. -/

/-- SVCDB (R449): the reply of a waiting entry; any other index is ignored. -/
def State.svcReply (s : State) (vf idx : Nat) : State :=
  match s.svcRing vf with
  | none => s
  | some (base, _) =>
    let w := BitVec.ofNat 64 (s.physRead (base + 32 * idx + 16) 8)
    { s with svcs := s.svcs.map fun (r : Svc) =>
        if r.vf == vf && r.idx == idx && r.reply.isNone then { r with reply := some w } else r }

/-- SVCDB (R449). -/
def execSvcdb (s : State) : Host.Outcome State Fault Refusal :=
  match s.ev with
  | .svcdb vf idx => .next (s.svcReply vf (idx % 2 ^ 12))
  | _ => .next s

/-- TRKCLR (R59, R445). -/
def execTrkclr (s : State) : Host.Outcome State Fault Refusal :=
  match s.ev with
  | .trkclr core t =>
    if core < numCores && t < 256 then
      .next (s.modCore core fun k => k.setTrack t { k.track t with susp := false })
    else .next s
  | _ => .next s

/-- COUNTER_CLEAR (R448): MIGSKIP, MIGERR, WAKEDUP, RQDROP, DONEERR and LREFUSE by number. -/
def execCounterClear (s : State) : Host.Outcome State Fault Refusal :=
  match s.ev with
  | .counterClear vf n => .next (s.modVf vf fun v =>
      match n with
      | 0 => { v with migSkip := 0 }
      | 1 => { v with migErr := 0 }
      | 2 => { v with wakeDup := 0 }
      | 3 => { v with rqDrop := 0 }
      | 4 => { v with doneErr := 0 }
      | 5 => { v with lRefuse := 0 }
      | _ => v)
  | _ => .next s

/-- The six fields of a register of soft-error counts with those cleared whose written bits are all ones (R455). -/
def clearFields (r v : Nat) : Nat :=
  (List.range 6).foldl (fun r c => if bits v (10 * c) 10 == 1023 then setBits r (10 * c) 10 0 else r) r

/-- ERRCNT_CLEAR (R455): register 0 to 3 is ERRCNT of a stack, 4 to 7 its ERRLAST. -/
def execErrcntClear (s : State) : Host.Outcome State Fault Refusal :=
  match s.ev with
  | .errcntClear r v =>
    let p := s.pkg
    .next { s with pkg :=
      if r < 4 then { p with errCnt := p.errCnt.set r (clearFields (p.errCnt.get r 0) v) 0 }
      else { p with errLast := p.errLast.set (r - 4) (clearFields (p.errLast.get (r - 4) 0) v) 0 } }
  | _ => .next s

/-! The stall window (R447). -/

/-- Whether every byte of a range of the window lies in a core of the function. -/
def State.windowOk (s : State) (vf off n : Nat) : Bool :=
  off + n ≤ 2 ^ 30 && (List.range ((off + n - 1) / 65536 + 1 - off / 65536)).all fun i => s.hasCore vf (off / 65536 + i)

/-- Bytes written through the window in order: an aligned 8-byte word is performed whole (R152, R447). -/
def State.windowWrite (s : State) (off : Nat) (bs : List Byte) : Nat → State
  | 0 => s
  | fuel + 1 =>
    if bs.isEmpty then s
    else
      let n := min bs.length (8 - off % 8)
      let v := (bs.take n).foldr (fun b r => b.toNat + 256 * r) 0
      State.windowWrite (s.stallWrite (off / 65536) (off % 65536) n v) (off + n) (bs.drop n) fuel

/-- HOST_STALL_WRITE (R447); a refused one leaves no answer. -/
def execHostStallWrite (s : State) : Host.Outcome State Fault Refusal :=
  match s.ev with
  | .hostStallWrite vf off bs =>
    if s.windowOk vf off bs.length then .next { s.windowWrite off bs (bs.length + 1) with hostOut := some [] }
    else .next { s with hostOut := none }
  | _ => .next s

/-- HOST_STALL_READ (R447). -/
def execHostStallRead (s : State) : Host.Outcome State Fault Refusal :=
  match s.ev with
  | .hostStallRead vf off n =>
    if s.windowOk vf off n then .next { s with hostOut := some (bytesOf (memRead s.mem (stallBase + off) n) n) }
    else .next { s with hostOut := none }
  | _ => .next s

/-- STLSYNC (R447): earlier stall writes of the host have been performed, since each is one step; it reads 0. -/
def execStlsync (s : State) : Host.Outcome State Fault Refusal :=
  match s.ev with
  | .stlsync _ => .next { s with hostOut := some (bytesOf 0 8) }
  | _ => .next s

/-! HBM as the host sees it, attestation and the fabric. -/

/-- HOST_MEMORY_ACCESS (R444): coherent with C2; what is not HBM is refused. -/
def execHostMemoryAccess (s : State) : Host.Outcome State Fault Refusal :=
  match s.ev with
  | .hostMemoryAccess pa n write =>
    if !inHbm pa n || !populated (pa + n - 1) then .next { s with hostOut := none }
    else match write with
      | some v => .next { s.physWrite pa n v with hostOut := some [] }
      | none => .next { s with hostOut := some (bytesOf (s.physRead pa n) n) }
  | _ => .next s

/-- SPDM_REQUEST (R454): the answer signs the boot ROM, the firmware and the retirement list as measured. -/
def execSpdmRequest (s : State) : Host.Outcome State Fault Refusal :=
  match s.ev with
  | .spdmRequest code =>
    .next { s with spdm := Config.spdmAnswer code (s.pkg.fwImage :: s.pkg.fwVersion :: s.retired) }
  | _ => .next s

/-- Whether a window of the fabric admits an access (R451): `need` is bit 66 for reads, 67 for stores, 68 for atomics. -/
def State.fabAdmits (s : State) (pa n need : Nat) : Bool :=
  (List.range 8).any fun k =>
    let w := s.pkg.fabWin.get k 0
    let base := bits w 0 33 * 4096
    bit w need && base ≤ pa && pa + n ≤ base + bits w 33 33 * 4096

/-- REMOTE_FABRIC_REQUEST (R26, R80, R451): performed at the memory controller, coherent with C2; the answer is the bytes
read, or none where the access is refused. -/
def State.fabRequest (s : State) (pa n : Nat) (op : FabOp) (data : Nat) : State :=
  let need := match op with
    | .read => 66
    | .write => 67
    | .atomic _ => 68
  if n == 0 || !s.fabAdmits pa n need || !(populated pa || inStall pa) || !(populated (pa + n - 1) || inStall (pa + n - 1)) then
    { s with hostOut := none }
  else
    let old := s.physRead pa n
    match op with
    | .read => { s with hostOut := some (bytesOf old n) }
    | .write => { s.physWrite pa n data with hostOut := some [] }
    | .atomic k =>
      let s' := match rmwNew k (8 * n) old (bits data 0 (8 * n)) (bits data (8 * n) (8 * n)) with
        | some v => s.physWrite pa n v
        | none => s
      { s' with hostOut := some (bytesOf old n) }

/-- REMOTE_FABRIC_REQUEST (R26, R451). -/
def execRemoteFabricRequest (s : State) : Host.Outcome State Fault Refusal :=
  match s.ev with
  | .remoteFabricRequest _ pa n op data => .next (s.fabRequest pa n op data)
  | _ => .next s

end Sys2Proof.Machine
end

