-- ==== Sys2Proof/Machine/Scalar.lean ====
section
/-! DEFINITION. Major 0x00: the scalar integer instructions (spec/13_scalar_control_task_instructions.md R278 to R284). -/
namespace Sys2Proof.Machine

/-- Leading zeros, 64 for 0 (R280). -/
def clz64 (a : Word) : Nat := if a == 0 then 64 else 63 - a.toNat.log2

/-- Trailing zeros, 64 for 0 (R280). -/
def ctz64 (a : Word) : Nat := ((List.range 64).find? fun i => bit a.toNat i).getD 64

/-- One bits (R280). -/
def popc64 (a : Word) : Nat := (List.range 64).foldl (fun n i => n + (bit a.toNat i).toNat) 0

/-- Bits [127:64] of the signed and of the unsigned product (R280). -/
def mulHigh (a b : Word) : Word := BitVec.ofInt 64 (a.toInt * b.toInt / 2 ^ 64)
def mulHighU (a b : Word) : Word := BitVec.ofNat 64 (a.toNat * b.toNat / 2 ^ 64)

/-- The bit-field extraction of R282. -/
def bfx (a b : Word) : Word := BitVec.ofNat 64 (bits a.toNat (fieldOf b 0 6) (fieldOf b 6 6 + 1))

/-- The bit-field insertion of R282; bits above 63 are dropped. -/
def bfi (d a b : Word) : Word := BitVec.ofNat 64 (setBits d.toNat (fieldOf b 0 6) (fieldOf b 6 6 + 1) a.toNat)

/-- Bit b[5:0] of a in every higher bit (R282). -/
def sextBit (a b : Word) : Word := sxWord (fieldOf b 0 6 + 1) a.toNat

/-- An instruction d := op a b, with a short immediate sign-extended (R278, R280). -/
def aluS (op : Word → Word → Word) (f : Form) (s : State) : Res :=
  .done (s.putS f.d.sreg (op (s.me.opS f.a) (s.me.opS f.b)))

/-- An instruction d := op a b, with a short immediate zero-extended. -/
def aluU (op : Word → Word → Word) (f : Form) (s : State) : Res :=
  .done (s.putS f.d.sreg (op (s.me.opS f.a) (s.me.opU f.b)))

/-- An instruction d := op a. -/
def alu1 (op : Word → Word) (f : Form) (s : State) : Res := .done (s.putS f.d.sreg (op (s.me.opS f.a)))

/-- Division and remainder (R281): by zero they trap under STAT.DZE, and give `byZero` of the dividend without it. -/
def divide (op : Word → Word → Word) (byZero : Word → Word) (f : Form) (s : State) : Res :=
  let a := s.me.opS f.a
  let b := s.me.opS f.b
  if b == 0 then
    if s.me.statBit bDZE then .fault s cDIVZ 0 else .done (s.putS f.d.sreg (byZero a))
  else .done (s.putS f.d.sreg (op a b))

/-- ADD: d := a + b (R280). -/
def execAdd (f : Form) (s : State) : Host.Outcome State Fault Refusal := issue f (aluS (· + ·) f) s

/-- ADDI: d := a + imm (R280). -/
def execAddi (f : Form) (s : State) : Host.Outcome State Fault Refusal := issue f (aluS (· + ·) f) s

/-- SUB: d := a − b (R280). -/
def execSub (f : Form) (s : State) : Host.Outcome State Fault Refusal := issue f (aluS (· - ·) f) s

/-- MUL: d := the low 64 bits of a × b (R280). -/
def execMul (f : Form) (s : State) : Host.Outcome State Fault Refusal := issue f (aluS (· * ·) f) s

/-- MULH: d := the high 64 bits of the signed product (R280). -/
def execMulh (f : Form) (s : State) : Host.Outcome State Fault Refusal := issue f (aluS mulHigh f) s

/-- MULHN: d := the high 64 bits of the unsigned product (R280). -/
def execMulhn (f : Form) (s : State) : Host.Outcome State Fault Refusal := issue f (aluS mulHighU f) s

/-- DIV: the signed quotient, toward zero (R281). -/
def execDiv (f : Form) (s : State) : Host.Outcome State Fault Refusal := issue f (divide (fun a b => BitVec.ofInt 64 (a.toInt.tdiv b.toInt)) (fun _ => BitVec.allOnes 64) f) s

/-- DIVN: the unsigned quotient (R281). -/
def execDivn (f : Form) (s : State) : Host.Outcome State Fault Refusal := issue f (divide (fun a b => BitVec.ofNat 64 (a.toNat / b.toNat)) (fun _ => BitVec.allOnes 64) f) s

/-- REM: the signed remainder, with the dividend's sign (R281). -/
def execRem (f : Form) (s : State) : Host.Outcome State Fault Refusal := issue f (divide (fun a b => BitVec.ofInt 64 (a.toInt.tmod b.toInt)) (fun a => a) f) s

/-- REMN: the unsigned remainder (R281). -/
def execRemn (f : Form) (s : State) : Host.Outcome State Fault Refusal := issue f (divide (fun a b => BitVec.ofNat 64 (a.toNat % b.toNat)) (fun a => a) f) s

/-- AND (R280). -/
def execAnd (f : Form) (s : State) : Host.Outcome State Fault Refusal := issue f (aluS (· &&& ·) f) s

/-- OR (R280). -/
def execOr (f : Form) (s : State) : Host.Outcome State Fault Refusal := issue f (aluS (· ||| ·) f) s

/-- XOR (R280). -/
def execXor (f : Form) (s : State) : Host.Outcome State Fault Refusal := issue f (aluS (· ^^^ ·) f) s

/-- ANDN: a and not b (R280). -/
def execAndn (f : Form) (s : State) : Host.Outcome State Fault Refusal := issue f (aluS (fun a b => a &&& ~~~b) f) s

/-- SHL: a shifted left by b[5:0] (R280). -/
def execShl (f : Form) (s : State) : Host.Outcome State Fault Refusal := issue f (aluU (fun a b => a <<< fieldOf b 0 6) f) s

/-- SHR: a shifted right, logical (R280). -/
def execShr (f : Form) (s : State) : Host.Outcome State Fault Refusal := issue f (aluU (fun a b => a >>> fieldOf b 0 6) f) s

/-- SAR: a shifted right, arithmetic (R280). -/
def execSar (f : Form) (s : State) : Host.Outcome State Fault Refusal := issue f (aluU (fun a b => a.sshiftRight (fieldOf b 0 6)) f) s

/-- ROTL: a rotated left (R280). -/
def execRotl (f : Form) (s : State) : Host.Outcome State Fault Refusal := issue f (aluU (fun a b => a.rotateLeft (fieldOf b 0 6)) f) s

/-- CLZ: leading zeros (R280). -/
def execClz (f : Form) (s : State) : Host.Outcome State Fault Refusal := issue f (alu1 (fun a => BitVec.ofNat 64 (clz64 a)) f) s

/-- CTZ: trailing zeros (R280). -/
def execCtz (f : Form) (s : State) : Host.Outcome State Fault Refusal := issue f (alu1 (fun a => BitVec.ofNat 64 (ctz64 a)) f) s

/-- POPC: one bits (R280). -/
def execPopc (f : Form) (s : State) : Host.Outcome State Fault Refusal := issue f (alu1 (fun a => BitVec.ofNat 64 (popc64 a)) f) s

/-- MIN: the signed minimum (R280). -/
def execMin (f : Form) (s : State) : Host.Outcome State Fault Refusal := issue f (aluS (fun a b => if a.slt b then a else b) f) s

/-- MAX: the signed maximum (R280). -/
def execMax (f : Form) (s : State) : Host.Outcome State Fault Refusal := issue f (aluS (fun a b => if a.slt b then b else a) f) s

/-- MINN: the unsigned minimum (R280). -/
def execMinn (f : Form) (s : State) : Host.Outcome State Fault Refusal := issue f (aluS (fun a b => if a.ult b then a else b) f) s

/-- MAXN: the unsigned maximum (R280). -/
def execMaxn (f : Form) (s : State) : Host.Outcome State Fault Refusal := issue f (aluS (fun a b => if a.ult b then b else a) f) s

/-- BFX (R282). -/
def execBfx (f : Form) (s : State) : Host.Outcome State Fault Refusal := issue f (aluU bfx f) s

/-- BFI reads d and replaces its field (R282). -/
def execBfi (f : Form) (s : State) : Host.Outcome State Fault Refusal :=
  issue f (fun s => .done (s.putS f.d.sreg (bfi (s.me.opS f.d) (s.me.opS f.a) (s.me.opU f.b)))) s

/-- SEXT (R282). -/
def execSext (f : Form) (s : State) : Host.Outcome State Fault Refusal := issue f (aluU sextBit f) s

/-- MOVI: step k of A builds part of a 64-bit value; k above 2, or high bits of the immediate in step 2, are ILLEGAL
(R283). -/
def execMovi (f : Form) (s : State) : Host.Outcome State Fault Refusal :=
  issue f (fun s =>
    let d := s.me.opS f.d
    let imm := f.b.immU
    match f.a.immU with
    | 0 => .done (s.putS f.d.sreg (sxWord 24 imm))
    | 1 => .done (s.putS f.d.sreg (BitVec.ofNat 64 (setBits (sxWord 24 imm * 2 ^ 24).toNat 0 24 d.toNat)))
    | 2 =>
      if bits imm 16 8 != 0 then illegal s f 2
      else .done (s.putS f.d.sreg (withField d 48 16 imm))
    | _ => illegal s f 1) s

/-- MOV: d := a (R280). -/
def execMov (f : Form) (s : State) : Host.Outcome State Fault Refusal := issue f (alu1 (fun a => a) f) s

/-- LEA writes the address that A forms, plus b when B is a scalar (R284). -/
def execLea (f : Form) (s : State) : Host.Outcome State Fault Refusal :=
  issue f (fun s => .done (s.putS f.d.sreg (s.me.opAddr f.a + s.me.opS f.b))) s

/-- SEL: b where the predicate is true, and 0 where it is false (R284). -/
def execSel (f : Form) (s : State) : Host.Outcome State Fault Refusal :=
  issue f (fun s => .done (s.putS f.d.sreg (if s.me.pred f.a.predNo then s.me.opS f.b else 0))) s

end Sys2Proof.Machine
end

