-- ==== Sys2Proof/Machine/Dispatch.lean ====
section
/-! DEFINITION. One arm per constructor of `Instr`: the call of its meaning. -/
namespace Sys2Proof.Machine

/-- The effect of one instruction of the acting agent, or of the event at hand. -/
def exec (i : Instr) (s : State) : Host.Outcome State Fault Refusal :=
  match i with
  | .add f => Sys2Proof.Machine.execAdd f s
  | .addi f => Sys2Proof.Machine.execAddi f s
  | .sub f => Sys2Proof.Machine.execSub f s
  | .mul f => Sys2Proof.Machine.execMul f s
  | .mulh f => Sys2Proof.Machine.execMulh f s
  | .mulhn f => Sys2Proof.Machine.execMulhn f s
  | .div f => Sys2Proof.Machine.execDiv f s
  | .divn f => Sys2Proof.Machine.execDivn f s
  | .rem f => Sys2Proof.Machine.execRem f s
  | .remn f => Sys2Proof.Machine.execRemn f s
  | .and f => Sys2Proof.Machine.execAnd f s
  | .or f => Sys2Proof.Machine.execOr f s
  | .xor f => Sys2Proof.Machine.execXor f s
  | .andn f => Sys2Proof.Machine.execAndn f s
  | .shl f => Sys2Proof.Machine.execShl f s
  | .shr f => Sys2Proof.Machine.execShr f s
  | .sar f => Sys2Proof.Machine.execSar f s
  | .rotl f => Sys2Proof.Machine.execRotl f s
  | .clz f => Sys2Proof.Machine.execClz f s
  | .ctz f => Sys2Proof.Machine.execCtz f s
  | .popc f => Sys2Proof.Machine.execPopc f s
  | .min f => Sys2Proof.Machine.execMin f s
  | .max f => Sys2Proof.Machine.execMax f s
  | .minn f => Sys2Proof.Machine.execMinn f s
  | .maxn f => Sys2Proof.Machine.execMaxn f s
  | .bfx f => Sys2Proof.Machine.execBfx f s
  | .bfi f => Sys2Proof.Machine.execBfi f s
  | .sext f => Sys2Proof.Machine.execSext f s
  | .movi f => Sys2Proof.Machine.execMovi f s
  | .mov f => Sys2Proof.Machine.execMov f s
  | .lea f => Sys2Proof.Machine.execLea f s
  | .sel f => Sys2Proof.Machine.execSel f s
  | .cmp f => Sys2Proof.Machine.execCmp f s
  | .cmpi f => Sys2Proof.Machine.execCmpi f s
  | .pset f => Sys2Proof.Machine.execPset f s
  | .br f => Sys2Proof.Machine.execBr f s
  | .jmp f => Sys2Proof.Machine.execJmp f s
  | .call f => Sys2Proof.Machine.execCall f s
  | .callr f => Sys2Proof.Machine.execCallr f s
  | .ret f => Sys2Proof.Machine.execRet f s
  | .nop f => Sys2Proof.Machine.execNop f s
  | .exit f => Sys2Proof.Machine.execExit f s
  | .loop f => Sys2Proof.Machine.execLoop f s
  | .loopi f => Sys2Proof.Machine.execLoopi f s
  | .lbrk f => Sys2Proof.Machine.execLbrk f s
  | .realign f => Sys2Proof.Machine.execRealign f s
  | .start f => Sys2Proof.Machine.execStart f s
  | .hwait f => Sys2Proof.Machine.execHwait f s
  | .done f => Sys2Proof.Machine.execDone f s
  | .doneJ f => Sys2Proof.Machine.execDoneJ f s
  | .next f => Sys2Proof.Machine.execNext f s
  | .fork f => Sys2Proof.Machine.execFork f s
  | .rdv f => Sys2Proof.Machine.execRdv f s
  | .gset f => Sys2Proof.Machine.execGset f s
  | .spawn f => Sys2Proof.Machine.execSpawn f s
  | .join f => Sys2Proof.Machine.execJoin f s
  | .launch f => Sys2Proof.Machine.execLaunch f s
  | .yield f => Sys2Proof.Machine.execYield f s
  | .send f => Sys2Proof.Machine.execSend f s
  | .recv f => Sys2Proof.Machine.execRecv f s
  | .rprobe f => Sys2Proof.Machine.execRprobe f s
  | .xmit f => Sys2Proof.Machine.execXmit f s
  | .xsel f => Sys2Proof.Machine.execXsel f s
  | .bell f => Sys2Proof.Machine.execBell f s
  | .arrive f => Sys2Proof.Machine.execArrive f s
  | .bwait f => Sys2Proof.Machine.execBwait f s
  | .binit f => Sys2Proof.Machine.execBinit f s
  | .ld sz f => Sys2Proof.Machine.execLd sz f s
  | .st sz f => Sys2Proof.Machine.execSt sz f s
  | .ldl sz f => Sys2Proof.Machine.execLdl sz f s
  | .stl sz f => Sys2Proof.Machine.execStl sz f s
  | .lda dbl f => Sys2Proof.Machine.execLda dbl f s
  | .strl dbl f => Sys2Proof.Machine.execStrl dbl f s
  | .fence f => Sys2Proof.Machine.execFence f s
  | .lbsync f => Sys2Proof.Machine.execLbsync f s
  | .pref f => Sys2Proof.Machine.execPref f s
  | .c1inv f => Sys2Proof.Machine.execC1inv f s
  | .jrd f => Sys2Proof.Machine.execJrd f s
  | .atomSwap dbl ord f => Sys2Proof.Machine.execAtomSwap dbl ord f s
  | .atomAdd dbl ord f => Sys2Proof.Machine.execAtomAdd dbl ord f s
  | .atomAnd dbl ord f => Sys2Proof.Machine.execAtomAnd dbl ord f s
  | .atomOr dbl ord f => Sys2Proof.Machine.execAtomOr dbl ord f s
  | .atomXor dbl ord f => Sys2Proof.Machine.execAtomXor dbl ord f s
  | .atomMin dbl ord f => Sys2Proof.Machine.execAtomMin dbl ord f s
  | .atomMax dbl ord f => Sys2Proof.Machine.execAtomMax dbl ord f s
  | .atomMinn dbl ord f => Sys2Proof.Machine.execAtomMinn dbl ord f s
  | .atomMaxn dbl ord f => Sys2Proof.Machine.execAtomMaxn dbl ord f s
  | .atomLoad dbl ord f => Sys2Proof.Machine.execAtomLoad dbl ord f s
  | .atomStore dbl ord f => Sys2Proof.Machine.execAtomStore dbl ord f s
  | .cas dbl ord f => Sys2Proof.Machine.execCas dbl ord f s
  | .town f => Sys2Proof.Machine.execTown f s
  | .tseek f => Sys2Proof.Machine.execTseek f s
  | .trew f => Sys2Proof.Machine.execTrew f s
  | .trd f => Sys2Proof.Machine.execTrd f s
  | .trds f => Sys2Proof.Machine.execTrds f s
  | .twr f => Sys2Proof.Machine.execTwr f s
  | .twrs f => Sys2Proof.Machine.execTwrs f s
  | .thead f => Sys2Proof.Machine.execThead f s
  | .tsync f => Sys2Proof.Machine.execTsync f s
  | .trdv f => Sys2Proof.Machine.execTrdv f s
  | .twrv f => Sys2Proof.Machine.execTwrv f s
  | .acopy f => Sys2Proof.Machine.execAcopy f s
  | .acopyt f => Sys2Proof.Machine.execAcopyt f s
  | .swinit f => Sys2Proof.Machine.execSwinit f s
  | .swwait f => Sys2Proof.Machine.execSwwait f s
  | .swread f => Sys2Proof.Machine.execSwread f s
  | .cbset f => Sys2Proof.Machine.execCbset f s
  | .cbwait f => Sys2Proof.Machine.execCbwait f s
  | .vadd f => Sys2Proof.Machine.execVadd f s
  | .vsub f => Sys2Proof.Machine.execVsub f s
  | .vmul f => Sys2Proof.Machine.execVmul f s
  | .vfma f => Sys2Proof.Machine.execVfma f s
  | .vfms f => Sys2Proof.Machine.execVfms f s
  | .vfnma f => Sys2Proof.Machine.execVfnma f s
  | .vmin f => Sys2Proof.Machine.execVmin f s
  | .vmax f => Sys2Proof.Machine.execVmax f s
  | .vabs f => Sys2Proof.Machine.execVabs f s
  | .vneg f => Sys2Proof.Machine.execVneg f s
  | .vand f => Sys2Proof.Machine.execVand f s
  | .vor f => Sys2Proof.Machine.execVor f s
  | .vxor f => Sys2Proof.Machine.execVxor f s
  | .vshl f => Sys2Proof.Machine.execVshl f s
  | .vshr f => Sys2Proof.Machine.execVshr f s
  | .vsar f => Sys2Proof.Machine.execVsar f s
  | .vcmp f => Sys2Proof.Machine.execVcmp f s
  | .vsel f => Sys2Proof.Machine.execVsel f s
  | .vdot f => Sys2Proof.Machine.execVdot f s
  | .vld f => Sys2Proof.Machine.execVld f s
  | .vst f => Sys2Proof.Machine.execVst f s
  | .vgath f => Sys2Proof.Machine.execVgath f s
  | .vscat f => Sys2Proof.Machine.execVscat f s
  | .vbcast f => Sys2Proof.Machine.execVbcast f s
  | .vperm f => Sys2Proof.Machine.execVperm f s
  | .vcvt f => Sys2Proof.Machine.execVcvt f s
  | .vcmpr f => Sys2Proof.Machine.execVcmpr f s
  | .vexpd f => Sys2Proof.Machine.execVexpd f s
  | .vred f => Sys2Proof.Machine.execVred f s
  | .vscan f => Sys2Proof.Machine.execVscan f s
  | .vmovs f => Sys2Proof.Machine.execVmovs f s
  | .vquant f => Sys2Proof.Machine.execVquant f s
  | .vdeq f => Sys2Proof.Machine.execVdeq f s
  | .vsplt f => Sys2Proof.Machine.execVsplt f s
  | .vrcp f => Sys2Proof.Machine.execVrcp f s
  | .vrsq f => Sys2Proof.Machine.execVrsq f s
  | .vexp2 f => Sys2Proof.Machine.execVexp2 f s
  | .vlog2 f => Sys2Proof.Machine.execVlog2 f s
  | .vtanh f => Sys2Proof.Machine.execVtanh f s
  | .vsigm f => Sys2Proof.Machine.execVsigm f s
  | .vhist f => Sys2Proof.Machine.execVhist f s
  | .vhmrg f => Sys2Proof.Machine.execVhmrg f s
  | .vsort f => Sys2Proof.Machine.execVsort f s
  | .vsrch f => Sys2Proof.Machine.execVsrch f s
  | .vclass f => Sys2Proof.Machine.execVclass f s
  | .mgeo f => Sys2Proof.Machine.execMgeo f s
  | .mma f => Sys2Proof.Machine.execMma f s
  | .macz f => Sys2Proof.Machine.execMacz f s
  | .macld f => Sys2Proof.Machine.execMacld f s
  | .macst f => Sys2Proof.Machine.execMacst f s
  | .maccv f => Sys2Proof.Machine.execMaccv f s
  | .mchk f => Sys2Proof.Machine.execMchk f s
  | .ewait f => Sys2Proof.Machine.execEwait f s
  | .eguard f => Sys2Proof.Machine.execEguard f s
  | .eloop f => Sys2Proof.Machine.execEloop f s
  | .ejmp f => Sys2Proof.Machine.execEjmp f s
  | .eend f => Sys2Proof.Machine.execEend f s
  | .kvapp f => Sys2Proof.Machine.execKvapp f s
  | .kvmap f => Sys2Proof.Machine.execKvmap f s
  | .kvrel f => Sys2Proof.Machine.execKvrel f s
  | .pxinsInsert f => Sys2Proof.Machine.execPxinsInsert f s
  | .pxinsRemove f => Sys2Proof.Machine.execPxinsRemove f s
  | .pxget f => Sys2Proof.Machine.execPxget f s
  | .attn f => Sys2Proof.Machine.execAttn f s
  | .amrg f => Sys2Proof.Machine.execAmrg f s
  | .park f => Sys2Proof.Machine.execPark f s
  | .wake f => Sys2Proof.Machine.execWake f s
  | .heat f => Sys2Proof.Machine.execHeat f s
  | .migr f => Sys2Proof.Machine.execMigr f s
  | .fmtset f => Sys2Proof.Machine.execFmtset f s
  | .fmtget f => Sys2Proof.Machine.execFmtget f s
  | .fmtp f => Sys2Proof.Machine.execFmtp f s
  | .trap f => Sys2Proof.Machine.execTrap f s
  | .tret f => Sys2Proof.Machine.execTret f s
  | .svc f => Sys2Proof.Machine.execSvc f s
  | .mfsr f => Sys2Proof.Machine.execMfsr f s
  | .mtsr f => Sys2Proof.Machine.execMtsr f s
  | .pwreq f => Sys2Proof.Machine.execPwreq f s
  | .tokq f => Sys2Proof.Machine.execTokq f s
  | .tokres f => Sys2Proof.Machine.execTokres f s
  | .time f => Sys2Proof.Machine.execTime f s
  | .perf f => Sys2Proof.Machine.execPerf f s
  | .c2opXlat f => Sys2Proof.Machine.execC2opXlat f s
  | .c2opWbinv f => Sys2Proof.Machine.execC2opWbinv f s
  | .c2opWb f => Sys2Proof.Machine.execC2opWb f s
  | .c2opIcinv f => Sys2Proof.Machine.execC2opIcinv f s
  | .c2opAsidall f => Sys2Proof.Machine.execC2opAsidall f s
  | .brk f => Sys2Proof.Machine.execBrk f s
  | .realignTimeout => Sys2Proof.Machine.execRealignTimeout s
  | .bwaitTimeout => Sys2Proof.Machine.execBwaitTimeout s
  | .trackMotionEnd => Sys2Proof.Machine.execTrackMotionEnd s
  | .trackAccessStart => Sys2Proof.Machine.execTrackAccessStart s
  | .trackRealignmentDone => Sys2Proof.Machine.execTrackRealignmentDone s
  | .trackAccessComplete => Sys2Proof.Machine.execTrackAccessComplete s
  | .shiftWindowClear => Sys2Proof.Machine.execShiftWindowClear s
  | .matrixArbiterStart => Sys2Proof.Machine.execMatrixArbiterStart s
  | .mmaOperandsConsumed => Sys2Proof.Machine.execMmaOperandsConsumed s
  | .engineOpComplete => Sys2Proof.Machine.execEngineOpComplete s
  | .syncWordArrival => Sys2Proof.Machine.execSyncWordArrival s
  | .pitchMapRequest => Sys2Proof.Machine.execPitchMapRequest s
  | .attnContributor => Sys2Proof.Machine.execAttnContributor s
  | .weighbridgeMerge => Sys2Proof.Machine.execWeighbridgeMerge s
  | .asyncTrapEntry => Sys2Proof.Machine.execAsyncTrapEntry s
  | .supervisorEventEntry => Sys2Proof.Machine.execSupervisorEventEntry s
  | .c2Request => Sys2Proof.Machine.execC2Request s
  | .c2FillArrival => Sys2Proof.Machine.execC2FillArrival s
  | .loadResponse => Sys2Proof.Machine.execLoadResponse s
  | .storeAcknowledge => Sys2Proof.Machine.execStoreAcknowledge s
  | .storeRefusal => Sys2Proof.Machine.execStoreRefusal s
  | .pinRelease => Sys2Proof.Machine.execPinRelease s
  | .meshWindowArrival => Sys2Proof.Machine.execMeshWindowArrival s
  | .exchangeArrival => Sys2Proof.Machine.execExchangeArrival s
  | .messageArrival => Sys2Proof.Machine.execMessageArrival s
  | .remoteFabricRequest => Sys2Proof.Machine.execRemoteFabricRequest s
  | .backInvalidate => Sys2Proof.Machine.execBackInvalidate s
  | .migrationCopyDone => Sys2Proof.Machine.execMigrationCopyDone s
  | .migrationAbandon => Sys2Proof.Machine.execMigrationAbandon s
  | .heatHalving => Sys2Proof.Machine.execHeatHalving s
  | .parkAgeTick => Sys2Proof.Machine.execParkAgeTick s
  | .parkT1Expiry => Sys2Proof.Machine.execParkT1Expiry s
  | .parkT2Expiry => Sys2Proof.Machine.execParkT2Expiry s
  | .parkDemotionDone => Sys2Proof.Machine.execParkDemotionDone s
  | .parkPromotionDone => Sys2Proof.Machine.execParkPromotionDone s
  | .parkPushRetry => Sys2Proof.Machine.execParkPushRetry s
  | .promotionRetry => Sys2Proof.Machine.execPromotionRetry s
  | .parkPoolRetry => Sys2Proof.Machine.execParkPoolRetry s
  | .rowRetirement => Sys2Proof.Machine.execRowRetirement s
  | .tokenGrant => Sys2Proof.Machine.execTokenGrant s
  | .stallRatioSample => Sys2Proof.Machine.execStallRatioSample s
  | .voltageSlewDone => Sys2Proof.Machine.execVoltageSlewDone s
  | .frequencySwitchDone => Sys2Proof.Machine.execFrequencySwitchDone s
  | .pointHoldExpiry => Sys2Proof.Machine.execPointHoldExpiry s
  | .thermalSample => Sys2Proof.Machine.execThermalSample s
  | .capmsg => Sys2Proof.Machine.execCapmsg s
  | .capLeaseExpiry => Sys2Proof.Machine.execCapLeaseExpiry s
  | .ptpCorrection => Sys2Proof.Machine.execPtpCorrection s
  | .ttPeriodicLaunch => Sys2Proof.Machine.execTtPeriodicLaunch s
  | .ttQueueDrain => Sys2Proof.Machine.execTtQueueDrain s
  | .ttQuiesce => Sys2Proof.Machine.execTtQuiesce s
  | .ttSlotEnd => Sys2Proof.Machine.execTtSlotEnd s
  | .ttDeferredFire => Sys2Proof.Machine.execTtDeferredFire s
  | .launchQueuePop => Sys2Proof.Machine.execLaunchQueuePop s
  | .helperPop => Sys2Proof.Machine.execHelperPop s
  | .conUnitStart => Sys2Proof.Machine.execConUnitStart s
  | .gangPlace => Sys2Proof.Machine.execGangPlace s
  | .bellRelease => Sys2Proof.Machine.execBellRelease s
  | .bellTimeout => Sys2Proof.Machine.execBellTimeout s
  | .exchangePhaseEnd => Sys2Proof.Machine.execExchangePhaseEnd s
  | .preemptRequest => Sys2Proof.Machine.execPreemptRequest s
  | .forcedSave => Sys2Proof.Machine.execForcedSave s
  | .contextRestore => Sys2Proof.Machine.execContextRestore s
  | .debugStop => Sys2Proof.Machine.execDebugStop s
  | .debugResume => Sys2Proof.Machine.execDebugResume s
  | .debugStopEnable => Sys2Proof.Machine.execDebugStopEnable s
  | .debugSetStep => Sys2Proof.Machine.execDebugSetStep s
  | .vfreset => Sys2Proof.Machine.execVfreset s
  | .coldReset => Sys2Proof.Machine.execColdReset s
  | .fwload => Sys2Proof.Machine.execFwload s
  | .checkpointStart => Sys2Proof.Machine.execCheckpointStart s
  | .checkpointDone => Sys2Proof.Machine.execCheckpointDone s
  | .checkpointRestore => Sys2Proof.Machine.execCheckpointRestore s
  | .lqpush => Sys2Proof.Machine.execLqpush s
  | .svcdb => Sys2Proof.Machine.execSvcdb s
  | .trkclr => Sys2Proof.Machine.execTrkclr s
  | .stlsync => Sys2Proof.Machine.execStlsync s
  | .hostStallWrite => Sys2Proof.Machine.execHostStallWrite s
  | .hostStallRead => Sys2Proof.Machine.execHostStallRead s
  | .counterClear => Sys2Proof.Machine.execCounterClear s
  | .errcntClear => Sys2Proof.Machine.execErrcntClear s
  | .hostRegisterWrite => Sys2Proof.Machine.execHostRegisterWrite s
  | .synchronisationLost => Sys2Proof.Machine.execSynchronisationLost s
  | .hostMemoryAccess => Sys2Proof.Machine.execHostMemoryAccess s
  | .spdmRequest => Sys2Proof.Machine.execSpdmRequest s
  | .checkpointRestoreDone => Sys2Proof.Machine.execCheckpointRestoreDone s
  | .functionResetDone => Sys2Proof.Machine.execFunctionResetDone s
  | .bringUpComplete => Sys2Proof.Machine.execBringUpComplete s

end Sys2Proof.Machine
end

