-- ==== Sys2Proof/Machine/Sched.lean ====
section
/-! DEFINITION. Who moves next: events that are due, the contexts and sequencers that may issue
(spec/09_launch_and_scheduling.md R219; spec/08_execution_model.md R191, R197, R205), the passing of time, physical errors,
and what one turn of an agent does. -/
namespace Sys2Proof.Machine

/-! Who may issue. -/

/-- Whether what holds a context's instruction is over, so that it issues again. -/
def State.waitOver (s : State) (core c : Nat) (w : Wait) : Bool :=
  let k := s.core core
  match w with
  | .reply req => !s.reqs.has req
  | .acks => !k.storesOut c
  | .journal => k.journal.length < 64
  | .track _ _ => false
  | .trackStill t => (k.track t).idle
  | .recover first n => (List.range n).all fun i => (k.track (first + i)).idle
  | .loopBack => !s.loopBackOut core c
  | .hwait m => (List.range numCtxs).any fun h => bit m h && (k.ctx h).sigCount != 0
  | .recv ch => !chEn (k.chan ch) || (chCount (k.chan ch) != 0 && !({ s with cur := ⟨core, c, .context⟩ } : State).recvBehind ch)
  | .credit dst ch => 0 < s.credits core dst ch || !s.pipeFrom core dst ch
  | .syncGen d off g => genPassed (swGen (s.syncWord d off)) g
  | .compBit t => t ≤ s.clk
  | .barrier _ d off p _ _ => bits (s.stallRead d off 16) 24 4 != p
  | .bell _ _ _ => false
  | .realign pc d => d ≤ s.clk || s.tileAligned core (k.ctx c).launch (BitVec.ofNat 64 pc)
  | .rdv => s.forkOver core c
  | .sequencers => k.seqOwner.isNone
  | .copies => !s.copiesFull core
  | .joins => s.forkOver core c && !(s.ops.any fun e => (k.ctx c).pending.contains e.1 && !e.2.finished)
  | .service (some _) => s.svcs.any fun r => r.core == core && r.ctx == c && r.reply.isSome
  | .service none =>
    match s.svcRing (k.ctx c).vf with
    | none => false
    | some (_, logn) =>
      let open_ := s.svcs.filter fun r => r.vf == (k.ctx c).vf && r.reply.isNone
      open_.length < 2 ^ logn && !open_.any (·.idx == (s.vf (k.ctx c).vf).svcTail)
  | .power => s.pwdone.any fun r => r.1 == core && r.2.1 == c
  | .stamp t => t ≤ s.clk
  | .quiet => !s.quietVf (k.ctx c).vf
  | .pins => true
  | .gap t => t ≤ s.clk
  | .save _ _ => s.saveReady core c
  | .performed ids => ids.all fun id => !(s.reqs.any fun r => r.1 == id && !r.2.done)
  | .loads ids => ids.all fun id => !((k.ctx c).loads.any (·.1 == id))

/-- Whether a core's island is in a frequency switch, during which nothing of it issues (R442). -/
def State.switching (s : State) (core : Nat) : Bool :=
  match (s.island (islandOf (quadOf core) 0)).change with
  | .switch _ _ => true
  | _ => false

/-- Whether a core is being cleared by the reset of its function, during which none of its contexts issues (R39). -/
def State.clearing (s : State) (core : Nat) : Bool := s.vfs.any fun e => e.2.resetting && s.hasCore e.1 core

/-- Whether a core lets its agents act: powered up, not stopped (R432), not in a switch, not being cleared. -/
def State.coreRuns (s : State) (core : Nat) : Bool :=
  bits s.pkg.fwStat 0 2 == 1 && !s.quiesced && (s.core core).stopped.isNone && !s.switching core && !s.clearing core

/-- Whether something is taken at a context's boundary: a trap, a supervisor event or a forced save (R414, R426). -/
def State.boundaryDue (s : State) (core c : Nat) : Bool :=
  let x := s.ctx core c
  x.asyncDue || x.stepDue || (c == 0 && (s.core core).eventDue) ||
  (s.forceDue core c && (match x.block with
    | some ⟨.save _ _, _, _⟩ => s.saveReady core c
    | _ => true))

/-- Whether a context has an instruction to issue now. -/
def State.canIssue (s : State) (core c : Nat) : Bool :=
  let x := s.ctx core c
  (x.st == .ready || x.st == .wait) && !x.idle &&
  (match x.block with
    | none => x.st == .ready
    | some ⟨.save _ true, _, _⟩ => false
    | some b => x.tryAt ≤ s.clk && s.waitOver core c b.wait)

/-- Whether a context acts in this cycle (R197, R219). -/
def State.ctxActs (s : State) (core c : Nat) : Bool :=
  let k := s.core core
  s.coreRuns core && k.nextIssue ≤ s.clk &&
  (match k.phase with
    | none => true
    | some (_, a, _) => a == c) &&
  (s.boundaryDue core c || s.canIssue core c)

/-- Whether a sequencer acts in this cycle: at command boundaries, but not in the phase of another context, nor while its own is
being saved (R191, R197, R427, R432). -/
def State.seqActs (s : State) (core : Nat) (u : AgentUnit) : Bool :=
  let k := s.core core
  let q := if u == .matrixSeq then k.mseq else k.cseq
  match k.seqOwner with
  | none => false
  | some o =>
    o < numCtxs && s.coreRuns core && (k.phase.all fun p => p.2.1 == o) && q.live && q.gapTo ≤ s.clk &&
    (match (k.ctx o).block with
      | some ⟨.save _ _, _, _⟩ => false
      | _ => true)

/-- The contexts of a core in the order of R219. -/
def State.ctxOrder (s : State) (core : Nat) : List Nat :=
  let k := s.core core
  let cyc := (List.range numCtxs).map fun i => (k.lastCtx + 1 + i) % numCtxs
  let urgent := s.boundaryDue core 0 || (k.ctx 0).statBit bPREQ
  if urgent && !(k.lastCtx == 0 && k.nextIssue == s.clk) then 0 :: cyc else cyc

/-- The agent of a core that acts next in this cycle. -/
def State.nextOf (s : State) (core : Nat) : Option Agent :=
  match (s.ctxOrder core).find? (s.ctxActs core) with
  | some c => some ⟨core, c, .context⟩
  | none =>
    let o := ((s.core core).seqOwner).getD 0
    if s.seqActs core .matrixSeq then some ⟨core, o, .matrixSeq⟩
    else if s.seqActs core .copySeq then some ⟨core, o, .copySeq⟩ else none

/-- The agent that acts next in this cycle: of the first listed core of the package that has one (R13). -/
def State.nextAgent (s : State) : Option Agent := (s.cores.filter fun e => e.1 < numCores).findSome? fun e => s.nextOf e.1

/-! One turn. -/

/-- The yield point and the issue gap of an instruction (R243). -/
def yieldPoint (i : Instr) : Bool :=
  match i.form with
  | some f => (match f.hint with
    | .plain y _ _ => y
    | .stamp _ => false)
  | none => false

def issueGap (i : Instr) : Nat :=
  match i.form with
  | some f => (match f.hint with
    | .plain _ _ g => g
    | .stamp _ => 0)
  | none => 0

/-- Whether a context stands before its instruction, which has had no effect. -/
def Ctx.fresh (x : Ctx) : Bool :=
  match x.block with
  | none => true
  | some b => b.phase == 0 && (b.wait.unissued || (match b.wait with
    | .save _ _ => true
    | _ => false))

/-- Whether a context's issue gap has still to run (R243). -/
def Ctx.gapLeft (x : Ctx) (clk g : Nat) : Bool :=
  g != 0 && clk < x.lastIssue + g &&
  (match x.block with
    | none => true
    | some ⟨.gap _, 0, _⟩ => true
    | some ⟨.gap _, _, _⟩ => true
    | _ => false)

/-- A context's instruction decoded: a yield point saves first, a gap is waited for, and the instruction runs. -/
def State.runInstr (s : State) (core c : Nat) (i : Instr) : Host.Outcome State Fault Refusal :=
  let x := s.ctx core c
  if yieldPoint i && x.statBit bPREQ && x.preq.isSome && x.fresh then
    .next (if s.saveReady core c then s.saveContext core c 255 false
      else s.setCtx core c { x with block := some ⟨.save 255 false, s.clk, 0⟩, tryAt := s.clk + 1, st := .ready })
  else if x.gapLeft s.clk (issueGap i) then
    .next (s.setCtx core c { x with block := some ⟨.gap (x.lastIssue + issueGap i), s.clk, 0⟩, tryAt := s.clk + 1, st := .ready })
  else exec i s

/-- A precise fault of the word that a context is to issue, before its guard is read; loads under way come first. -/
def State.wordFault (s : State) (core c code val : Nat) : State :=
  let x := s.ctx core c
  if x.loads.isEmpty then s.enterTrap core c (causeWord code false 0 0 0 0) (BitVec.ofNat 64 val) x.pc
  else s.setCtx core c { x with block := some ⟨.loads (x.loads.map (·.1)), s.clk, 0⟩, tryAt := s.clk + 1 }

/-- A context fetches and issues; a fetch fault and a word that is ILLEGAL in itself are precise (R242, R257, R414), and a
fetch that has to wait holds the context. -/
def State.issueCtx (s : State) (core c : Nat) : Host.Outcome State Fault Refusal :=
  match s.fetch core c with
  | (.error (code, val), s) =>
    if code == fetchHeld then
      .next (s.modCtx core c fun x => { x with block := x.block.or (some ⟨.pins, s.clk, 0⟩), tryAt := s.clk + 1 })
    else .next (s.wordFault core c code val)
  | (.ok i, s) =>
    match badParcel i with
    | some k => .next (s.wordFault core c cILLEGAL ((s.ctx core c).pc + BitVec.ofNat 64 (4 * k)).toNat)
    | none => s.runInstr core c i

/-- Whether a context's turn in this cycle has issued nothing: it is held before its instruction, or asleep. -/
def Ctx.stayed (x : Ctx) (clk : Nat) : Bool :=
  x.st == .sleep || (x.tryAt == clk + 1 && (x.block.any fun b => b.phase == 0))

/-- A turn of a context that has issued nothing leaves the core's cycle to the others (R205, R219). -/
def leaveCycle (core c next : Nat) : Host.Outcome State Fault Refusal → Host.Outcome State Fault Refusal
  | .next t => .next (if (t.ctx core c).stayed t.clk then t.modCore core fun k => { k with nextIssue := next } else t)
  | o => o

/-- The turn of a context: what is due at its boundary comes first, in the order of R414; then it issues. -/
def State.turnCtx (s : State) (core c : Nat) : Host.Outcome State Fault Refusal :=
  let next := (s.core core).nextIssue
  let s := { s with cur := ⟨core, c, .context⟩ }.modCore core fun k => { k with nextIssue := s.clk + 1 }
  let x := s.ctx core c
  if x.asyncDue then exec .asyncTrapEntry { s with ev := .asyncTrapEntry core c }
  else if x.stepDue then .next (s.takeStep core c)
  else if c == 0 && (s.core core).eventDue then exec .supervisorEventEntry { s with ev := .supervisorEventEntry core }
  else if s.forceDue core c then exec .forcedSave { s with ev := .forcedSave core c }
  else leaveCycle core c next (s.issueCtx core c)

/-- The command in a sequencer's slot, or the code that it stops the program with: bytes 0 to 11 hold one word without a
prefix, and bytes 12 to 15 are zero (R191, R256). -/
def State.slotInstr (s : State) (core : Nat) (q : Seq) : Except Nat Instr :=
  let v := s.stallRead core q.pos 16
  if (s.stallPoison core q.pos 16).isSome then .error ecPOISON
  else if bits v 96 32 != 0 || isVxParcel (bits v 0 32) then .error ecILLEGAL
  else match decodeWord .empty (bits v 0 32) (bits v 32 32) (bits v 64 32) with
    | .ok i => .ok i
    | .error _ => .error ecILLEGAL

/-- The turn of a sequencer. -/
def State.turnSeq (s : State) (a : Agent) : Host.Outcome State Fault Refusal :=
  let s := { s with cur := a }.modSeq fun q => { q with gapTo := max q.gapTo (s.clk + 1) }
  match s.slotInstr a.core s.mySeq with
  | .ok i => exec i s
  | .error code => .next (s.stopProgram a.core a.unit code)

/-- The turn of an agent. -/
def State.turn (s : State) (a : Agent) : Host.Outcome State Fault Refusal :=
  if a.unit == .context then s.turnCtx a.core a.ctx else s.turnSeq a

/-- Whether an arrival on the exchange fabric is due now: it comes before any instruction of its cycle (R200). -/
def State.arrivalDue (s : State) : Bool :=
  s.due.any fun e => e.1 ≤ s.clk && (match e.2 with
    | .exchangeArrival _ => true
    | _ => false)

/-- Whether an agent may take a turn now. -/
def State.mayTurn (s : State) (a : Agent) : Bool :=
  !s.arrivalDue && a.core < numCores && a.ctx < numCtxs &&
  (if a.unit == .context then s.ctxActs a.core a.ctx
   else (s.core a.core).seqOwner == some a.ctx && s.seqActs a.core a.unit)

/-! Events. -/

/-- Whether an event comes from outside the device: the host, remote devices, Bortus, the rack. -/
def outsideEvent : Event → Bool
  | .remoteFabricRequest _ _ _ _ _ | .backInvalidate _ | .thermalSample _ | .capmsg _ _ _ | .ptpCorrection _
  | .preemptRequest _ _ _ _ _ | .contextRestore _ _ false | .debugStop _ _ | .debugResume _ _ | .debugStopEnable _ _ _
  | .debugSetStep _ _ _ _ | .vfreset _ | .coldReset | .fwload _ | .checkpointStart | .checkpointRestore | .lqpush _ _
  | .svcdb _ _ | .trkclr _ _ | .stlsync _ | .hostStallWrite _ _ _ | .hostStallRead _ _ _ | .counterClear _ _
  | .errcntClear _ _ | .hostRegisterWrite _ _ | .synchronisationLost | .hostMemoryAccess _ _ _ | .spdmRequest _ => true
  | _ => false

/-- The events due without the first that equals `e` and is due by now; `none` where there is none. -/
def takeDue (clk : Nat) (e : Event) : List (Nat × Event) → Option (List (Nat × Event))
  | [] => none
  | (t, j) :: rest =>
    if clk < t then none else if j == e then some rest else (takeDue clk e rest).map ((t, j) :: ·)

/-- An event performed. -/
def State.perform (s : State) (e : Event) : Host.Outcome State Fault Refusal := exec e.instr { s with ev := e }

/-- An event that the agenda names: from outside at any time; one of the device's own only when it is due, where it
overtakes others that are. A sample may come with the choices that Bortus makes (R442). -/
def State.agendaEvent (s : State) (e : Event) : Host.Outcome State Fault Refusal :=
  let key : Event := match e with
    | .stallRatioSample _ => Event.stallRatioSample []
    | e => e
  if outsideEvent e then s.perform e
  else match takeDue s.clk key s.due with
    | some due => { s with due := due }.perform e
    | none => .next s

/-- Whether an event goes on while the device is quiesced (R138). -/
def whileQuiesced : Event → Bool
  | .checkpointDone => true
  | .checkpointRestoreDone => true
  | _ => false

/-- The first event that is due now, and the state without it. -/
def State.dueNow (s : State) : Option (Event × State) :=
  match s.due.find? fun e => !s.quiesced || whileQuiesced e.2 with
  | some (t, e) => if t ≤ s.clk then some (e, { s with due := s.due.erase (t, e) }) else none
  | none => none

/-- A physical error (R57, R62, R88, R376, R378, R126, R455, R456). -/
def State.suffer (s : State) (e : Env) : State :=
  match e with
  | .slip core t d => s.modTrack core t fun tr => { tr with slip := tr.slip + d }
  | .poison pa =>
    let s := s.setPoison (poisonWord pa)
    if pa < hbmTop then s.later 0 (.rowRetirement pa) else s
  | .badTrackWord core t pos => s.modCore core fun k => { k with badWords := NatSet.insert (1024 * t + pos % 1024) k.badWords }
  | .corrected stack cls row =>
    let s := s.countErr (stack % 4) (cls % 3)
    if cls % 3 != 2 then s
    else
      let n := s.rowErr.get row 0 + 1
      let s := { s with rowErr := s.rowErr.put row n }
      if n == 4 then s.later 0 (.rowRetirement (1024 * row)) else s
  | .mmaError core n => { s with mmaErr := s.mmaErr.set core n 0 }
  | .accError core c idx v =>
    s.modCtx core c fun x =>
      let idx := idx % 3072
      let row := 32 * (idx / 1536) + idx % 1536 / 48
      let col := 64 + 48 * (idx / 1536) + idx % 48
      let d := x.acc.get idx 0 - v
      { x with acc := x.acc.set idx v 0,
               accSum := (x.accSum.set row (x.accSum.get row 0 + d) 0).set col (x.accSum.get col 0 + d) 0 }
  | .moveRefused id => s.later 0 (.migrationAbandon id)

/-! Time. -/

/-- A context's counters of cycles over `dt` cycles, of which its island makes `ticks` (R410). -/
def Ctx.countTime (x : Ctx) (clk dt ticks : Nat) : Ctx :=
  if x.st == .free || !((List.range 8).any fun k => bit (x.srGet (rPMEV k)).toNat 6) then x
  else
    let wait (p : Wait → Bool) : Bool := match x.block with
      | some b => p b.wait
      | none => false
    let x' := x.count 0 ticks
    match x.st with
    | .ready =>
      let x' := x'.count 2 (if x.lastIssue == clk then dt - 1 else dt)
      let x' := if wait fun w => w == .journal then x'.count 8 dt else x'
      if wait fun w => match w with
        | .track _ _ => true
        | .trackStill _ => true
        | _ => false
      then x'.count 10 dt else x'
    | .wait => x'.count 3 dt
    | .sleep => x'.count 4 dt
    | _ => x'

/-- `dt` cycles pass: the clock, PREQDL.REMAIN and the counters of cycles. -/
def State.pass (s : State) (dt : Nat) : State :=
  let ticks (core : Nat) : Nat :=
    let i := s.island (islandOf (quadOf core) 0)
    i.ticksAt (s.clk + dt) / 21 - i.ticksAt s.clk / 21
  { s with
    clk := s.clk + dt,
    cores := s.cores.map fun (e : Nat × Core) =>
      (e.1, { e.2 with ctxs := e.2.ctxs.map fun (x : Nat × Ctx) => (x.1, (x.2.passTime dt).countTime s.clk dt (ticks e.1)) }) }

/-- The cycles at which a core may have something to do: its next issue, gaps and stamps, its sequencers, and saves. -/
def State.wakeTimes (s : State) (core : Nat) : List Nat :=
  let k := s.core core
  let ctx (x : Ctx) : List Nat :=
    (if x.block.isSome then [x.tryAt] else []) ++
    (match x.block with
      | some ⟨.compBit t, _, _⟩ => [t]
      | some ⟨.gap t, _, _⟩ => [t]
      | some ⟨.stamp t, _, _⟩ => [t]
      | some ⟨.realign _ d, _, _⟩ => [d]
      | _ => []) ++
    (if x.statBit bPREQ then [s.clk + (x.srGet rPREQDL).toNat] else [])
  k.nextIssue :: (if k.mseq.live then [k.mseq.gapTo] else []) ++ (if k.cseq.live then [k.cseq.gapTo] else []) ++
    k.ctxs.flatMap fun e => ctx e.2

/-- The cycle that comes next: the first at which an event is due or an agent may act. -/
def State.nextTime (s : State) : Nat :=
  let evs := (s.due.filter fun e => !s.quiesced || whileQuiesced e.2).map (·.1)
  let ts := (evs ++ s.cores.flatMap fun e => s.wakeTimes e.1).filter (s.clk < ·)
  match ts with
  | [] => s.clk + 1
  | t :: rest => rest.foldl min t

/-- What follows each turn at once: parks whose wake word was written (R131), and the quiesce of a checkpoint (R137). -/
def State.settleTurn (s : State) : State :=
  let s := if s.wakes.isEmpty then s else s.drainWakes
  if s.pkg.ckptState != 1 || s.quiesced then s
  else
    let late := s.cores.flatMap fun e => (e.2.ctxs.filter fun x =>
      x.2.st != .free && x.2.st != .saved && x.2.st != .drain && x.2.preq.isNone).map fun x => (e.1, x.1)
    let s := late.foldl (fun s p => s.modCtx p.1 p.2 fun x => { (x.setStat bPREQ true).srSet rPREQDL 0 with
      preq := some ⟨x.vf, s.ckptArea p.1 p.2, true⟩ }) s
    if s.ckptQuiet then s.ckptTake else s

/-- The outcome with what follows a turn. -/
def settled : Host.Outcome State Fault Refusal → Host.Outcome State Fault Refusal
  | .next s => .next s.settleTurn
  | o => o

/-- A turn that the agenda names. One that is not possible is passed over. -/
def State.agendaTurn (s : State) (t : Turn) : Host.Outcome State Fault Refusal :=
  match t with
  | .issue a => if s.mayTurn a then s.turn a else .next s
  | .event e => s.agendaEvent e
  | .env e => .next (s.suffer e)
  | .hostRead off => .next (s.hostRegisterRead off)

/-- Who moves: without power only a cold reset counts (R457); a turn from the agenda comes first, then an event that is due,
then an agent that may act in this cycle; else time passes (log entry 1). -/
def State.move1 (s : State) : Host.Outcome State Fault Refusal :=
  match s.agenda with
  | t :: rest =>
    let s := { s with agenda := rest }
    if !s.power && t != .event .coldReset then .next s else s.agendaTurn t
  | [] =>
    if !s.power then .next s
    else match s.dueNow with
      | some (e, s) => s.perform e
      | none =>
        match s.nextAgent with
        | some a => s.turn a
        | none => .next (s.pass (s.nextTime - s.clk))

/-- One turn of the machine. -/
def State.moveOnce (s : State) : Host.Outcome State Fault Refusal := settled s.move1

/-! A program placed for the next step. -/

/-- The bits of a page-table entry of a page of HBM with all rights and class general (R23). -/
def leafBits : Nat := 1 + 2 + 4 + 8 + 3 * 2 ^ 4 + 2 ^ 10

/-- Function 0 given an ASID table whose address space 0 maps the first GiB of addresses to the second GiB of HBM, all
translations and lines of that space forgotten (R21 to R23). -/
def State.placeTables (s : State) : State :=
  let s := { s with c2 := s.c2.filter fun l => l.asid != 0, tlb := s.tlb.filter fun t => t.asid != 0,
                    walks := s.walks.filter fun w => w.asid != 0, icache := s.icache.filter fun e => e.2.1 != 0 }
  let s := s.modVf 0 fun v => { v with asidTab := 0x10000 }
  let s := s.physWrite 0x10000 8 (1 + 0x20000)
  let s := s.physWrite 0x20000 8 (1 + 0x21000)
  let s := s.physWrite 0x21000 8 (1 + 0x22000)
  s.physWrite 0x22000 8 (leafBits + 0x40000000)

/-- Bytes of an instruction stored from address 0 of address space 0, at which context 0 of core 0 stands ready. -/
def State.placeInstr (s : State) (v n : Nat) : State :=
  let s := s.placeTables.physWrite 0x40000000 n v
  let s := s.modCore 0 fun k => { k with stopped := none, phase := none, nextIssue := s.clk }
  let i := islandOf 0 0
  let s := { s with islands := s.islands.put i { s.island i with change := .none } }
  let s := s.modCtx 0 0 fun x =>
    ({ x with st := .ready, idle := false, pc := 0, block := none, refusal := false, step := none, preq := none } : Ctx).srSet
      rCTXID 0
  let s := s.modCtx 0 0 fun x => { x.setStat bPREQ false with loads := [] }
  let s := s.modCore 0 fun k => { k with rqovf := 0, ckill := 0 }
  { s with power := true, quiesced := false, wakes := [], agenda := [.issue ⟨0, 0, .context⟩],
           vfs := s.vfs.map fun (e : Nat × Vf) => (e.1, { e.2 with resetting := false }),
           pkg := { s.pkg with fwStat := setBits s.pkg.fwStat 0 2 1 },
           due := s.due.filter fun e => match e.2 with
             | .bringUpComplete => false
             | .exchangeArrival _ => false
             | _ => true }

end Sys2Proof.Machine
end

