-- ==== Sys2Proof/Machine/Step.lean ====
section
/-! DEFINITION. One step of the machine, and a program placed where it fetches its next instruction. -/
namespace Sys2Proof.Machine

/-- One step: one turn of whoever moves next. -/
def step (s : State) : Host.Outcome State Fault Refusal := s.moveOnce

/-- The state with an instruction stored where the next step fetches: its bits are numbered as spec/opcode_table.json
numbers them, and the bits at and above `nbits`, up to the four parcels of a prefixed word, are zero (log entry 17). -/
def State.withFetchWord (s : State) (nbits w : Nat) : State := s.placeInstr (w % 2 ^ nbits) 16

end Sys2Proof.Machine
end

