-- ==== Sys2Proof/Safety.lean ====
section
/-! DEFINITION. What claims speak of: when a context runs an instruction, the state in which the instruction has
completed, what may differ between two states, and what counts as a safe state and a safe run. -/
namespace Sys2Proof.Machine

/-- The canonical form of the memories (log entry 3). -/
def State.memOk (s : State) : Bool := memWf s.mem && memWf s.flash

/-- Every core that the state or the agenda names is a core of the package, with a context of it (R13, R181). -/
def State.agentsOk (s : State) : Bool :=
  s.cores.all (fun e => e.1 < numCores) &&
  s.agenda.all (fun t => match t with
    | .issue a => a.core < numCores && a.ctx < numCtxs
    | _ => true)

/-- The registers of the package window lie in their fields' ranges: DEVID, FABEN, KEEP, FALLBACK and TTCYC (R207, R439,
R445). -/
def State.windowRanges (s : State) : Bool :=
  s.pkg.devId < 2 ^ 18 && s.pkg.fabEn < 2 ^ 10 && s.pkg.keep ≤ 4096 && 70 ≤ s.pkg.fallback && s.pkg.fallback ≤ 280 &&
  1000 ≤ s.pkg.ttCyc && s.pkg.ttCyc < 2 ^ 32

/-- An outcome that goes on. -/
def isNext : Host.Outcome State Fault Refusal → Bool
  | .next _ => true
  | _ => false

/-- A run of `k` steps that neither faults nor is refused. -/
def safeRun (k : Nat) (s : State) : Bool := isNext (Sys2Proof.core.run k s)

/-- A context runs the body of an instruction: it exists, has not been held past the first phase, its guard passes (R242),
its purse can pay (R436), it is not single-stepped (R431), and no load under way writes a scalar that the instruction names
(R317). -/
structure Runs (f : Form) (cost : Nat) (s : State) : Prop where
  agent  : s.agentOk = true
  unit   : s.cur.unit = .context
  fresh  : (s.me.block.map (·.phase)).getD 0 = 0
  guard  : s.me.pred f.gp ≠ f.gs
  pays   : s.myCore.canPay cost = true
  noStep : s.me.statBit bSTEP = false
  ready  : s.me.awaited f = []

/-- The address after an instruction. -/
def State.fall (s : State) (f : Form) : Word := s.me.pc + BitVec.ofNat 64 (formLen f)

/-- The state in which an instruction at `s` whose effect has given `t` has completed toward `npc`: the cost is drawn
(R435), STAT.WARN set where a fallback applies (R258, R252), a pending FMTP consumed, and the loop end action taken
(R290). -/
def State.after (s : State) (cost : Nat) (warns : Bool) (npc : Word) (t : State) : State :=
  ((t.payCore s.cur.core s.cur.ctx cost).warnIf warns).retire s.cur.core s.cur.ctx false npc

/-- Whether an instruction outside the vector majors that names no format entry sets STAT.WARN (R258, R252). -/
def State.plainWarn (s : State) (f : Form) : Bool := scalarWarn f false || s.me.statBit bPFX

/-- What an instruction may change in its own context, besides the pc, STAT.WARN and STAT.PFX, the loop registers that the
loop end action writes, and the counters. -/
structure May where
  regs  : List Nat := []
  vecs  : List Nat := []
  masks : List Nat := []
  srs   : List Nat := []
  fmts  : List Nat := []
  slots : List Nat := []
  stats : List Nat := []
  acc   : Bool := false

/-- The system registers that completing any instruction may change: STAT, the loop counts and LOOPST (R290). The two
numbers after LOOPST name no register; a depth above 4, which no run reaches, would count there. -/
def endRegs : List Nat := [rSTAT, rLC 0, rLC 1, rLC 2, rLC 3, rLOOPST, rLC 5, rLC 6]

/-- The acting context's registers after an instruction, but for what it may change. -/
structure RegsKept (w : May) (s t : State) : Prop where
  scalars : ∀ r, r ∉ w.regs → t.me.sreg r = s.me.sreg r
  vectors : ∀ r, r ∉ w.vecs → t.me.vreg r = s.me.vreg r
  masks   : ∀ r, r ∉ w.masks → t.me.mreg r = s.me.mreg r
  accs    : w.acc = false → t.me.acc = s.me.acc ∧ t.me.accSum = s.me.accSum
  fmts    : ∀ f, f ∉ w.fmts → t.me.fent f = s.me.fent f
  slots   : ∀ g, g ∉ w.slots → t.me.guard g = s.me.guard g
  srs     : ∀ n, n ∉ w.srs → n ∉ endRegs → t.me.srGet n = s.me.srGet n
  stat    : rSTAT ∉ w.srs → ∀ i, i < 64 → i ∉ bWARN :: bPFX :: w.stats → t.me.statBit i = s.me.statBit i
  signal  : t.me.sigCount = s.me.sigCount ∧ t.me.launch = s.me.launch ∧ t.me.fork = s.me.fork ∧
            t.me.pending = s.me.pending

/-- Everything outside the acting context: other contexts, the tracks, journals and C1 of every core, the device's windows
and tables, and time. -/
structure RestKept (s t : State) : Prop where
  cur     : t.cur = s.cur
  clk     : t.clk = s.clk
  others  : ∀ n c, ¬(n = s.cur.core ∧ c = s.cur.ctx) → t.ctx n c = s.ctx n c
  tracks  : ∀ n, (t.core n).tracks = (s.core n).tracks ∧ (t.core n).words = (s.core n).words
  caches  : ∀ n, (t.core n).c1 = (s.core n).c1 ∧ (t.core n).journal = (s.core n).journal
  shared  : ∀ n, (t.core n).sr = (s.core n).sr ∧ (t.core n).queue = (s.core n).queue
  windows : t.pkg = s.pkg ∧ t.vfs = s.vfs
  work    : t.ops = s.ops ∧ t.reqs = s.reqs ∧ t.launches = s.launches ∧ t.due = s.due

/-- Every byte of memory reads as before, poison included. -/
structure MemKept (s t : State) : Prop where
  bytes  : ∀ a, t.physByte a = s.physByte a
  poison : t.poison = s.poison
  flash  : t.flash = s.flash

/-- An instruction that writes only registers of its context. -/
structure Kept (w : May) (s t : State) : Prop where
  regs : RegsKept w s t
  rest : RestKept s t
  mem  : MemKept s t

/-- How a completed instruction leaves its context: at the pc and with the loop registers that the loop end action gives,
WARN set where a fallback applied and no FMTP pending (R252, R258, R290). -/
structure Completed (warns : Bool) (npc : Word) (s t : State) : Prop where
  pc    : t.me.pc = (s.me.loopEnd npc 5).pc
  loops : ∀ r, r ∈ endRegs → r ≠ rSTAT → t.me.srGet r = (s.me.loopEnd npc 5).srGet r
  free  : t.me.block = none
  warn  : t.me.statBit bWARN = (s.me.statBit bWARN || warns)
  pfx   : t.me.statBit bPFX = false

/-- An instruction of the acting context answers a next state of which `P` holds. -/
def Gives (i : Instr) (s : State) (P : State → Prop) : Prop := ∃ t, exec i s = .next t ∧ P t

/-- An event at hand answers a next state of which `P` holds. -/
def Happens (e : Event) (s : State) (P : State → Prop) : Prop := Gives e.instr { s with ev := e } P

/-- Events at hand, one after another, each answer a next state, and `P` holds of the last. -/
def Follows : List Event → State → (State → Prop) → Prop
  | [], s, P => P s
  | e :: es, s, P => Happens e s fun t => Follows es t P

/-- An instruction of the acting context answers a next state, in which it has begun, and completes by the events of a list, at
hand one after another: of the state that they leave, `P` holds. -/
def CompletesBy (i : Instr) (es : List Event) (s : State) (P : State → Prop) : Prop := Gives i s fun t => Follows es t P

/-- Every byte of memory outside the `n` bytes at `off` of a core's stall reads as before. -/
def StallStore (core off n : Nat) (s t : State) : Prop :=
  (∀ a, a < stallPa core off ∨ stallPa core off + n ≤ a → t.physByte a = s.physByte a) ∧ t.flash = s.flash

/-- The result of an instruction in its scalar destination: every other scalar register is as in `s`, and a write to s0 is
discarded (R246, R247). -/
def Result (f : Form) (w : Word) (s t : State) : Prop :=
  ∀ r, t.me.sreg r = if r = f.d.sreg ∧ r ≠ 0 then w else s.me.sreg r

/-- A context held at its instruction, which has had no effect: in WAIT (R205) or, for an interlock, READY. -/
def Held (st : CtxSt) (s t : State) : Prop :=
  t.me.st = st ∧ t.me.pc = s.me.pc ∧ t.me.block.isSome = true ∧ RegsKept {} s t ∧ MemKept s t

/-- An instruction writes `w` to its scalar destination, a write to s0 being discarded (R246, R247), changes nothing else,
and completes at the next instruction. -/
def Writes (i : Instr) (f : Form) (s : State) (w : Word) : Prop :=
  Gives i s fun t =>
    (∀ r, t.me.sreg r = if r = f.d.sreg ∧ r ≠ 0 then w else s.me.sreg r) ∧
    Kept { regs := [f.d.sreg] } s t ∧ Completed (s.plainWarn f) (s.fall f) s t

/-- An instruction writes `b` to its destination predicate, p0 apart, and completes at the next instruction (R246, R286). -/
def Decides (i : Instr) (f : Form) (s : State) (b : Bool) : Prop :=
  Gives i s fun t =>
    (∀ p, p < 64 → t.me.pred p = if p = f.d.predNo ∧ p ≠ 0 then b else s.me.pred p) ∧
    Kept { srs := [rPREDS] } s t ∧ Completed (s.plainWarn f) (s.fall f) s t

/-- An instruction's guard fails, and it takes its issue slot: the cost of a NOP is there, and no single step is asked for
(R242, R435, R431). -/
structure Skips (f : Form) (s : State) : Prop where
  agent  : s.agentOk = true
  unit   : s.cur.unit = .context
  fresh  : (s.me.block.map (·.phase)).getD 0 = 0
  guard  : s.me.pred f.gp = f.gs
  pays   : s.myCore.canPay 4 = true
  noStep : s.me.statBit bSTEP = false

/-- An instruction branches to `pc` (R279, R290), changing the registers of `w` alone, of which `P` holds. -/
def Branches (i : Instr) (f : Form) (s : State) (w : May) (pc : Word) (P : State → Prop := fun _ => True) : Prop :=
  Gives i s fun t => P t ∧ Kept w s t ∧ Completed (s.plainWarn f) pc s t

/-- An instruction completes with the effect that `t` is of `s`: `t` is `s` with the effect made, before the cost is drawn
and the pc moves on. -/
def Effects (i : Instr) (f : Form) (cost : Nat) (s t : State) : Prop :=
  exec i s = .next (s.after cost (s.plainWarn f) (s.fall f) t)

/-- The elements of width `w` of D after a vector instruction: what the active lanes hold, the others under the form's
policy (R344). -/
def Lanes (f : Form) (w : Nat) (want : Nat → Nat) (s t : State) : Prop :=
  ∀ i, i < 512 / w → lane (t.me.vreg f.d.num) w i =
    if s.me.active f i then want i % 2 ^ w else if f.vx.mz then 0 else lane (s.me.vreg f.d.num) w i

/-- A vector instruction in its register form completes: its events are added to the sticky flags (R228), the seed moves on
where it has rounded stochastically (R229), and it changes nothing but what `w` names. -/
def VecDone (f : Form) (fl : FFlags) (warns rounds : Bool) (w : May) (s t : State) : Prop :=
  t.me.srGet rFCSR = (s.me.raise fl).srGet rFCSR ∧ t.me.statBit bSAT = (s.me.statBit bSAT || fl.sat) ∧
  t.me.srGet rRSEED = (if rounds && s.me.roundMode f == 6 then s.me.srGet rRSEED + 0x9E3779B97F4A7C15 else s.me.srGet rRSEED) ∧
  Kept { w with srs := rFCSR :: rRSEED :: w.srs, stats := [bSAT] } s t ∧
  Completed (warns || (s.me.statBit bPFX && !namesEntry f)) (s.fall f) s t

/-- The events of the active lanes together (R228). -/
def flagsOf (f : Form) (n : Nat) (one : Nat → Nat × FFlags) (s : State) : FFlags :=
  (s.me.actives f n).foldl (fun g i => g.or (one i).2) FFlags.none

/-- A sequencer performs a command of its program (R191, R193, R256, R436): it admits the word, the gap has passed, EGUARD
does not skip it, and the core can pay. -/
structure Commands (f : Form) (unit : AgentUnit) (cost : Nat) (s : State) : Prop where
  agent  : s.agentOk = true
  unit   : s.cur.unit = unit ∧ unit ≠ .context
  word   : slotOk f = true
  gap    : gapOf f = 0 ∨ s.mySeq.gapped = true
  noSkip : s.mySeq.skip = false
  pays   : s.myCore.canPay cost = true

/-- A sequencer has gone on to the next slot, under its loops (R191, R381), and its command's guard is used up (R193). -/
def GoesOn (s t : State) : Prop :=
  let q := s.mySeq.goTo ((s.mySeq.pos + 16) % 65536) 3
  t.cur = s.cur ∧ t.mySeq.pos = q.pos ∧ t.mySeq.loops = q.loops ∧ t.mySeq.regs = q.regs ∧ t.mySeq.skip = false ∧
  t.mySeq.vnext = none ∧ t.mySeq.live = s.mySeq.live

/-- An instruction raises a precise fault at `s` (R414, R416), where no load of its context is under way (R317): the trap is
entered at the instruction, with nothing of it done. -/
def Traps (i : Instr) (s : State) (code val : Nat) : Prop :=
  s.me.loads = [] → exec i s = .next (s.enterTrap s.cur.core s.cur.ctx (causeWord code false 0 0 0 0) (BitVec.ofNat 64 val) s.me.pc)

/-- An instruction that reads stall memory at issue raises the fault of that read, a poisoned delivery being counted (R19, R89). -/
def TrapsLa (i : Instr) (s : State) (e : Flt) : Prop :=
  s.me.loads = [] → exec i s = .next ((s.countLa e).enterTrap s.cur.core s.cur.ctx (causeWord e.1 false 0 0 0 0)
    (BitVec.ofNat 64 e.2) s.me.pc)

/-- An instruction that waits at the home for its answer (R394) completes with `w` in its scalar destination, after the
acquire of R147, memory and the rest being as its work has left them in `u`. -/
def Answers (i : Instr) (f : Form) (s u : State) (w : Nat) : Prop :=
  Gives i s fun t =>
    Result f (BitVec.ofNat 64 w) s t ∧ (t.core s.cur.core).c1 = (u.core s.cur.core).c1Acquire.c1 ∧
    RegsKept { regs := [f.d.sreg], stats := [bORACE] } s t ∧ MemKept u t ∧ Completed (s.plainWarn f) (s.fall f) s t

/-- A release that is held, with nothing done, while stores of its context are unacknowledged (R147). It waits for the context's
loads too: it passes where `State.relWait` names nothing. -/
def WaitsForStores (i : Instr) (s : State) : Prop :=
  s.myCore.storesOut s.cur.ctx = true → Gives i s fun t => Held .ready s t

/-- A context's instruction begins an operation of an engine (R168, R170): it is outstanding on its sync word, at the pitch
map after `delay` cycles (R105), and the instruction completes. -/
def BeginsAtMap (i : Instr) (f : Form) (act : EngAct) (sync : SyncRef) (bytes delay : Nat) (s : State) : Prop :=
  Gives i s fun t =>
    (∃ o, t.ops.find? (·.1 == s.nextId) = some (s.nextId, o) ∧ o.act = act ∧ o.sync = sync ∧ o.left = bytes ∧
      o.core = s.cur.core ∧ o.ctx = s.cur.ctx ∧ o.asid = s.me.asid ∧ o.finished = false ∧ o.ecode = 0) ∧
    t.me.pending = s.me.pending ++ [s.nextId] ∧ (s.clk + delay, Event.pitchMapRequest s.nextId) ∈ t.due ∧
    RegsKept {} (s.modMe fun x => { x with pending := x.pending ++ [s.nextId] }) t ∧ MemKept s t ∧
    Completed (s.plainWarn f) (s.fall f) s t

end Sys2Proof.Machine
end

