-- ==== Sys2Proof/Certificates/Slice0/Obligations.lean ====
section
/-! DEFINITION. The statements for the provers. -/
open Sys2Proof Sys2Proof.Machine

/-! Scalar instructions (spec/13_scalar_control_task_instructions.md). -/

/-- R280: the result of every arithmetic, logical, shift, count and move instruction of major 0x00, a write to s0 being
discarded (R247), with everything else kept. -/
def Obligations.ScalarResults : Prop :=
  ∀ (f : Form) (s : State), Runs f 4 s →
    let a := s.me.opS f.a
    let b := s.me.opS f.b
    let u := s.me.opU f.b
    let n := (u.extractLsb' 0 6).toNat
    Writes (.add f) f s (a + b) ∧ Writes (.addi f) f s (a + b) ∧ Writes (.sub f) f s (a - b) ∧ Writes (.mul f) f s (a * b) ∧
    Writes (.mulh f) f s ((a.signExtend 128 * b.signExtend 128).extractLsb' 64 64) ∧
    Writes (.mulhn f) f s ((a.setWidth 128 * b.setWidth 128).extractLsb' 64 64) ∧
    Writes (.and f) f s (a &&& b) ∧ Writes (.or f) f s (a ||| b) ∧ Writes (.xor f) f s (a ^^^ b) ∧
    Writes (.andn f) f s (a &&& ~~~b) ∧
    Writes (.shl f) f s (a <<< n) ∧ Writes (.shr f) f s (a >>> n) ∧ Writes (.sar f) f s (a.sshiftRight n) ∧
    Writes (.rotl f) f s (a <<< n ||| a >>> (64 - n)) ∧
    (∃ z, Writes (.clz f) f s (BitVec.ofNat 64 z) ∧ z ≤ 64 ∧ (∀ i, 64 - z ≤ i → a.getLsbD i = false) ∧
      (z < 64 → a.getLsbD (63 - z) = true)) ∧
    (∃ z, Writes (.ctz f) f s (BitVec.ofNat 64 z) ∧ z ≤ 64 ∧ (∀ i, i < z → a.getLsbD i = false) ∧
      (z < 64 → a.getLsbD z = true)) ∧
    Writes (.popc f) f s (BitVec.ofNat 64 ((List.range 64).countP (a.getLsbD ·))) ∧
    Writes (.min f) f s (if a.toInt ≤ b.toInt then a else b) ∧ Writes (.max f) f s (if a.toInt ≤ b.toInt then b else a) ∧
    Writes (.minn f) f s (if a.toNat ≤ b.toNat then a else b) ∧ Writes (.maxn f) f s (if a.toNat ≤ b.toNat then b else a) ∧
    Writes (.mov f) f s a

/-- R281: quotients toward zero and remainders with the dividend's sign, −2^63 by −1 wrapping; by zero, DIVZ under
STAT.DZE, and all ones or the dividend without it. -/
def Obligations.DivideResults : Prop :=
  ∀ (f : Form) (s : State), Runs f 4 s →
    let a := s.me.opS f.a
    let b := s.me.opS f.b
    (b ≠ 0 →
      Writes (.div f) f s (BitVec.ofInt 64 (a.toInt.tdiv b.toInt)) ∧ Writes (.rem f) f s (BitVec.ofInt 64 (a.toInt.tmod b.toInt)) ∧
      Writes (.divn f) f s (BitVec.ofNat 64 (a.toNat / b.toNat)) ∧ Writes (.remn f) f s (BitVec.ofNat 64 (a.toNat % b.toNat))) ∧
    (b = 0 → s.me.statBit bDZE = false →
      Writes (.div f) f s (BitVec.allOnes 64) ∧ Writes (.divn f) f s (BitVec.allOnes 64) ∧
      Writes (.rem f) f s a ∧ Writes (.remn f) f s a) ∧
    (b = 0 → s.me.statBit bDZE = true →
      Traps (.div f) s cDIVZ 0 ∧ Traps (.divn f) s cDIVZ 0 ∧ Traps (.rem f) s cDIVZ 0 ∧ Traps (.remn f) s cDIVZ 0)

/-- R282, bit by bit: BFX takes W bits of a from POS, BFI puts the low W bits of a at POS of d, and SEXT copies one bit of a
upward.
R283 and R284: MOVI's three steps and its ILLEGAL cases, LEA's sum, and SEL's choice. -/
def Obligations.BitFieldAndMoveResults : Prop :=
  (∀ (f : Form) (s : State), Runs f 4 s →
    let a := s.me.opS f.a
    let d := s.me.opS f.d
    let u := s.me.opU f.b
    let pos := (u.extractLsb' 0 6).toNat
    let w := (u.extractLsb' 6 6).toNat + 1
    (∃ r, Writes (.bfx f) f s r ∧ ∀ i, i < 64 → r.getLsbD i = (decide (i < w) && a.getLsbD (pos + i))) ∧
    (∃ r, Writes (.bfi f) f s r ∧
      ∀ i, i < 64 → r.getLsbD i = if pos ≤ i ∧ i < pos + w then a.getLsbD (i - pos) else d.getLsbD i) ∧
    (∃ r, Writes (.sext f) f s r ∧ ∀ i, i < 64 → r.getLsbD i = a.getLsbD (min i pos))) ∧
  (∀ (f : Form) (s : State), Runs f 4 s →
    let d := s.me.opS f.d
    let at_ (k : Nat) := (s.me.pc + BitVec.ofNat 64 (4 * (f.npfx + k))).toNat
    (∀ v, f.b = .imm 24 v → v < 2 ^ 24 →
      let x := (BitVec.ofNat 24 v).signExtend 64
      (f.a.immU = 0 → Writes (.movi f) f s x) ∧
      (f.a.immU = 1 → Writes (.movi f) f s (x <<< 24 ||| d &&& 0xFFFFFF)) ∧
      (f.a.immU = 2 → v < 2 ^ 16 → Writes (.movi f) f s (BitVec.ofNat 64 v <<< 48 ||| d &&& 0xFFFFFFFFFFFF)) ∧
      (f.a.immU = 2 → 2 ^ 16 ≤ v → Traps (.movi f) s cILLEGAL (at_ 2)) ∧
      (3 ≤ f.a.immU → Traps (.movi f) s cILLEGAL (at_ 1))) ∧
    Writes (.lea f) f s (s.me.opAddr f.a + s.me.opS f.b) ∧
    Writes (.sel f) f s (if s.me.pred f.a.predNo then s.me.opS f.b else 0))

/-! Compare, predicates and control. -/

/-- R286 and R248: CMP and CMPI write the relation of their condition code, PSET a truth table over two predicates or
whether a scalar is nonzero. -/
def Obligations.CompareResults : Prop :=
  ∀ (f : Form) (s : State), Runs f 4 s →
    let a := s.me.opS f.a
    let b := s.me.opS f.b
    (∀ r cc, f.d = .pred r cc →
      let holds : Bool := match cc with
        | 0 => decide (a = b) | 1 => decide (a ≠ b)
        | 2 => decide (a.toInt < b.toInt) | 3 => decide (a.toInt ≤ b.toInt)
        | 4 => decide (b.toInt < a.toInt) | 5 => decide (b.toInt ≤ a.toInt)
        | 6 => decide (a.toNat < b.toNat) | 7 => decide (a.toNat ≤ b.toNat)
        | 8 => decide (b.toNat < a.toNat) | _ => decide (b.toNat ≤ a.toNat)
      Decides (.cmp f) f s holds ∧ Decides (.cmpi f) f s holds) ∧
    (∀ p cc w v, f.a = .pred p cc → f.b = .imm w v → v < 256 →
      Decides (.pset f) f s ((v / 16).testBit (2 * (s.me.pred p).toNat + (s.me.pred (v % 16)).toNat))) ∧
    (∀ p cc w v, f.a = .pred p cc → f.b = .imm w v → 256 ≤ v →
      Traps (.pset f) s cILLEGAL (s.me.pc + BitVec.ofNat 64 (4 * (f.npfx + 2))).toNat) ∧
    (∀ r, f.a = .scalar r → f.b = .none → Decides (.pset f) f s (decide (s.me.sreg r ≠ 0)))

/-- R279 and R287: the targets of the branches, the link register of the calls, and the faults of a bad target, which write
neither pc nor lr; a branch whose guard fails falls through. A call, and a RET of lr, waits for a load under way into lr (R317). -/
def Obligations.BranchTargets : Prop :=
  (∀ (f : Form) (s : State), Runs f 4 s →
    let at_ := s.me.pc + BitVec.ofNat 64 (4 * f.npfx)
    let disp := BitVec.ofInt 64 (4 * f.b.immS)
    let ret := if f.a = .none then s.me.sreg 63 else s.me.opS f.a
    let good (w : Word) : Prop := canonical w = true ∧ w.toNat % 4 = 0
    let plain (i : Instr) (w : Word) : Prop :=
      (good w → Branches i f s {} w) ∧ (canonical w = false → Traps i s cADDRNC w.toNat) ∧
      (canonical w = true → w.toNat % 4 ≠ 0 → Traps i s cMISALIGN w.toNat)
    let linked (i : Instr) (w : Word) : Prop :=
      (good w → Branches i f s { regs := [63] } w fun t => t.me.sreg 63 = at_ + 12) ∧
      (canonical w = false → Traps i s cADDRNC w.toNat) ∧
      (canonical w = true → w.toNat % 4 ≠ 0 → Traps i s cMISALIGN w.toNat)
    plain (.br f) (at_ + disp) ∧ plain (.jmp f) (s.me.opS f.a + disp) ∧
    ((f.a = .none → s.me.awaiting [63] = []) → plain (.ret f) ret) ∧
    (s.me.awaiting [63] = [] → linked (.call f) (at_ + disp) ∧ linked (.callr f) (s.me.opS f.a + s.me.opS f.b)) ∧
    (∀ l ls, s.me.awaiting [63] = l :: ls → ∀ i ∈ [Instr.call f, .callr f], Gives i s fun t => Held .ready s t)) ∧
  (∀ (f : Form) (s : State), Skips f s → ∀ i ∈ [Instr.br f, .call f, .jmp f, .callr f, .ret f],
    Gives i s fun t => Kept {} s t ∧ Completed false (s.fall f) s t)

/-- R242 and R252: an instruction of a context whose guard fails does nothing but take its issue slot, at the cost of a NOP
(R435), whichever it is; it consumes a pending FMTP, unless it is an FMTP itself. The commands of an engine program, which
no context may run, are apart (R370). A word that is ILLEGAL in itself raises ILLEGAL whatever its guard says.
R436: a core that cannot pay for an instruction puts its context to SLEEP at that instruction. -/
def Obligations.GuardAndTokenChecks : Prop :=
  (∀ (f : Form) (s : State), Skips f s →
    (∀ i : Instr, i.form = some f → i ∉ [Instr.fmtp f, .mgeo f, .mma f, .macz f, .macld f, .macst f, .maccv f, .mchk f, .ewait f,
        .eguard f, .eloop f, .ejmp f, .eend f] →
      Gives i s fun t => Kept {} s t ∧ Completed false (s.fall f) s t) ∧
    Gives (.fmtp f) s fun t => Kept {} s t ∧ t.me.pc = (s.me.loopEnd (s.fall f) 5).pc ∧
      t.me.statBit bPFX = s.me.statBit bPFX ∧ t.me.statBit bWARN = s.me.statBit bWARN) ∧
  (∀ (s u : State) (core c k : Nat) (i : Instr), s.fetch core c = (.ok i, u) → badParcel i = some k → (u.ctx core c).loads = [] →
    s.issueCtx core c = .next (u.enterTrap core c (causeWord cILLEGAL false 0 0 0 0)
      (BitVec.ofNat 64 ((u.ctx core c).pc + BitVec.ofNat 64 (4 * k)).toNat) (u.ctx core c).pc)) ∧
  (∀ (f : Form) (s : State), s.agentOk = true → s.cur.unit = .context → (s.me.block.map (·.phase)).getD 0 = 0 →
    s.me.pred f.gp ≠ f.gs → s.me.awaited f = [] → s.myCore.canPay 4 = false →
    ∀ i ∈ [Instr.add f, .div f, .movi f, .cmp f, .br f, .call f, .loop f, .lbrk f, .nop f, .exit f, .mtsr f, .mfsr f],
      exec i s = .next (s.modMe fun x => { x with st := .sleep }))

/-- R288: NOP completes and changes nothing. EXIT, which waits for the context's loads (R317), ends the routine: its record counts
as finished, or will once the stores it has under way are performed (R176, R216), the control context waits for a launch, and a
helper becomes FREE, or DRAIN while its engine work runs, with kind EXIT signalled where the count is not full (R295). -/
def Obligations.NopAndExitEffects : Prop :=
  ∀ (f : Form) (s : State), Runs f 4 s →
    Branches (.nop f) f s {} (s.fall f) ∧
    (∀ l r, (s.me.launch = none ∨ s.me.launch = some l ∧ s.launches.find? (·.1 == l) = some (l, r) ∧ r.done = false ∧ 1 < r.left) →
      s.me.loads = [] → Gives (.exit f) s fun t =>
        let x := t.ctx s.cur.core s.cur.ctx
        let owes := s.myCore.journal.any fun e => e.2.ctx == s.cur.ctx && e.2.state == 1 && !e.2.orphan && e.2.owed.isNone
        (s.me.launch = some l → owes = false → t.launches = s.launches.put l { r with left := r.left - 1 }) ∧
        (s.me.launch = some l → owes = true → t.launches = s.launches) ∧
        x.launch = none ∧ x.idle = true ∧ x.block = none ∧
        (s.cur.ctx = 0 → x.st = .wait) ∧
        (s.cur.ctx ≠ 0 → x.st = (if s.engineWork s.cur.core s.cur.ctx then .drain else .free) ∧
          x.sigKind = (if s.me.sigCount < 255 then 2 else s.me.sigKind) ∧
          x.sigCount = (if s.me.sigCount < 255 then s.me.sigCount + 1 else s.me.sigCount)))

/-- R289: LOOP in its order: a disp below 6 is ILLEGAL, a count above 2^32 − 1 raises LOOPCNT, a count of 0 skips the body, a
fifth level raises LOOPDEPTH, and otherwise a level is pushed and the body entered. -/
def Obligations.LoopPushesLevel : Prop :=
  ∀ (f : Form) (s : State), Runs f 4 s →
    let at_ := s.me.pc + BitVec.ofNat 64 (4 * f.npfx)
    let le := at_ + BitVec.ofNat 64 (4 * f.d.immU)
    let n := fieldOf (s.me.srGet rLOOPST) 0 3
    ∀ p ∈ [(Instr.loop f, (s.me.opS f.a).toNat), (Instr.loopi f, f.b.immU)],
      (f.d.immU < 6 → Traps p.1 s cILLEGAL (s.me.pc + BitVec.ofNat 64 (4 * (f.npfx + 1))).toNat) ∧
      (6 ≤ f.d.immU → 2 ^ 32 ≤ p.2 → Traps p.1 s cLOOPCNT p.2) ∧
      (6 ≤ f.d.immU → p.2 = 0 → Branches p.1 f s {} le) ∧
      (6 ≤ f.d.immU → p.2 < 2 ^ 32 → p.2 ≠ 0 → 4 ≤ n → Traps p.1 s cLOOPDEPTH 0) ∧
      (6 ≤ f.d.immU → f.d.immU < 2 ^ 16 → p.2 < 2 ^ 32 → p.2 ≠ 0 → n < 4 → Gives p.1 s fun t =>
        t.me.pc = at_ + 12 ∧ t.me.srGet (rLS n) = at_ + 12 ∧ t.me.srGet (rLE n) = le ∧
        t.me.srGet (rLC n) = BitVec.ofNat 64 (p.2 - 1) ∧ t.me.srGet rLOOPST = BitVec.ofNat 64 (n + 1) ∧
        (∀ k, k < 4 → k ≠ n → t.me.srGet (rLC k) = s.me.srGet (rLC k)) ∧
        Kept { srs := [rLS n, rLE n] } s t)

/-- R290: what the end action makes of a next pc.
R291 and R279: LBRK pops the innermost level and branches to its end, the outer levels acting there; an end that is no canonical
word address raises its fault, with the level kept; with no level it only sets STAT.WARN. -/
def Obligations.LoopEndAndBreak : Prop :=
  (∀ (x : Ctx) (npc : Word), let n := fieldOf (x.srGet rLOOPST) 0 3
    (n = 0 → (x.loopEnd npc 5).pc = npc) ∧
    (n ≠ 0 → npc ≠ x.srGet (rLE (n - 1)) → (x.loopEnd npc 5).pc = npc ∧
      ∀ r, (x.loopEnd npc 5).srGet r = x.srGet r) ∧
    (n ≠ 0 → npc = x.srGet (rLE (n - 1)) → x.srGet (rLC (n - 1)) ≠ 0 →
      (x.loopEnd npc 5).pc = x.srGet (rLS (n - 1)) ∧
      ∀ r, (x.loopEnd npc 5).srGet r = if r = rLC (n - 1) then x.srGet (rLC (n - 1)) - 1 else x.srGet r) ∧
    (n = 1 → npc = x.srGet (rLE 0) → x.srGet (rLC 0) = 0 →
      (x.loopEnd npc 5).pc = npc ∧ ∀ r, (x.loopEnd npc 5).srGet r = if r = rLOOPST then 0 else x.srGet r)) ∧
  (∀ (f : Form) (s : State), Runs f 4 s →
    let n := fieldOf (s.me.srGet rLOOPST) 0 3
    (n = 0 → Gives (.lbrk f) s fun t => Kept {} s t ∧ Completed true (s.fall f) s t) ∧
    (n ≠ 0 → canonical (s.me.srGet (rLE (n - 1))) = false → Traps (.lbrk f) s cADDRNC (s.me.srGet (rLE (n - 1))).toNat) ∧
    (n ≠ 0 → canonical (s.me.srGet (rLE (n - 1))) = true → (s.me.srGet (rLE (n - 1))).toNat % 4 ≠ 0 →
      Traps (.lbrk f) s cMISALIGN (s.me.srGet (rLE (n - 1))).toNat) ∧
    (n ≠ 0 → canonical (s.me.srGet (rLE (n - 1))) = true → (s.me.srGet (rLE (n - 1))).toNat % 4 = 0 → Gives (.lbrk f) s fun t =>
      let y := s.me.srSet rLOOPST (BitVec.ofNat 64 (n - 1))
      t.me.pc = (y.loopEnd (s.me.srGet (rLE (n - 1))) 5).pc ∧
      (∀ r, r ≠ rSTAT → t.me.srGet r = (y.loopEnd (s.me.srGet (rLE (n - 1))) 5).srGet r) ∧ Kept {} s t))

/-! Traps and the return from them (spec/17_format_and_system_instructions.md, spec/18_traps_preemption_contexts.md). -/

/-- R416 and R253: taking a trap at level n writes TCAUSEn, TRETn and TVALn, moves STAT.PFX into PFXHn with the fields of
PFXH, raises TLVL to n, sets the pc to TVEC for level 1 and TVEC + 0x100 for level 2, and changes no other register.
R423 and R416: a trap due at level 2 kills its context: the record goes to the function's kill ring or is counted as
dropped, CKILL and the kill vector are raised, and the context's routine ends. Stated for a helper in no launch and no
gang. -/
def Obligations.TrapEntrySavesState : Prop :=
  (∀ (s : State) (core c cause : Nat) (tval ret : Word),
    let x := s.ctx core c
    let n := x.tlvl + 1
    let y := (s.enterTrap core c cause tval ret).ctx core c
    n ≤ 2 →
      y.srGet (rTCAUSE n) = BitVec.ofNat 64 cause ∧ y.srGet (rTRET n) = ret ∧ y.srGet (rTVAL n) = tval ∧
      (y.srGet (rPFXHn n)).extractLsb' 0 19 = (x.srGet rPFXH).extractLsb' 0 19 ∧
      (y.srGet (rPFXHn n)).getLsbD 19 = x.statBit bPFX ∧ y.statBit bPFX = false ∧ y.tlvl = n ∧
      y.pc = x.srGet rTVEC + BitVec.ofNat 64 (0x100 * (n - 1)) ∧ y.st = .ready ∧ y.block = none ∧
      (∀ r, r ∉ [rSTAT, rTCAUSE n, rTRET n, rTVAL n, rPFXHn n] → y.srGet r = x.srGet r) ∧
      (∀ i, i < 64 → i ∉ [17, 18, 19] → y.statBit i = x.statBit i) ∧
      y.s = x.s ∧ y.v = x.v ∧ y.m = x.m ∧ y.acc = x.acc ∧ y.guards = x.guards ∧ y.ftab = x.ftab ∧
      (∀ m d, ¬(m = core ∧ d = c) → (s.enterTrap core c cause tval ret).ctx m d = s.ctx m d)) ∧
  (∀ (s : State) (core c cause : Nat) (tval ret : Word),
    let x := s.ctx core c
    2 ≤ x.tlvl → c ≠ 0 → x.launch = none →
      let t := s.enterTrap core c cause tval ret
      ((t.ctx core c).st = .free ∨ (t.ctx core c).st = .drain) ∧ (t.ctx core c).launch = none ∧
      (x.vf, 1) ∈ t.msix ∧
      ((t.vf x.vf).killTail = (s.vf x.vf).killTail + 1 ∨
        (t.vf x.vf).killDrop = min ((s.vf x.vf).killDrop + 1) (2 ^ 32 - 1)) ∧
      ((s.ctx core 0).st ≠ .saved → ((s.ctx core 0).live ∨ (s.ctx core 0).idle) →
        (t.core core).ckill = (s.core core).ckill + 1))

/-- R403: TRAP takes SWTRAP with its immediate in TVAL and the next instruction in TRET; BREAK raises BREAK at itself, or
stops its core under debug stop, both once the context's loads have arrived (R317); neither does anything where its guard fails. -/
def Obligations.TrapAndBreakEffects : Prop :=
  (∀ (f : Form) (s : State), Runs f 4 s → s.me.loads = [] →
    (s.me.tlvl < 2 → Gives (.trap f) s fun t =>
      let n := s.me.tlvl + 1
      t.me.tlvl = n ∧ t.me.srGet (rTCAUSE n) = BitVec.ofNat 64 cSWTRAP ∧
      t.me.srGet (rTVAL n) = BitVec.ofNat 64 (f.a.immU % 2 ^ 16) ∧
      t.me.srGet (rTRET n) = (s.me.loopEnd (s.fall f) 5).pc ∧
      t.me.pc = s.me.srGet rTVEC + BitVec.ofNat 64 (0x100 * (n - 1)) ∧ (∀ r, t.me.sreg r = s.me.sreg r) ∧
      RestKept s t ∧ MemKept s t) ∧
    (s.myCore.dbgEn = false → Traps (.brk f) s cBREAK (f.a.immU % 2 ^ 16)) ∧
    (s.myCore.dbgEn = true → s.myCore.stopped = none → Gives (.brk f) s fun t =>
      (t.core s.cur.core).stopped = some s.clk ∧ t.me.pc = s.me.pc ∧ t.me.tlvl = s.me.tlvl ∧
      (s.me.st = .ready → t.me.st = .stopped) ∧
      (∀ c, c < numCtxs → (t.ctx s.cur.core c).st ∉ [CtxSt.ready, .wait, .sleep, .xhold]) ∧ MemKept s t)) ∧
  (∀ (f : Form) (s : State), Skips f s → ∀ i ∈ [Instr.trap f, .brk f],
      Gives i s fun t => Kept {} s t ∧ Completed false (s.fall f) s t)

/-- R404 and R421: TRET at level n restores the pc (through the loop end action, which is log entry 70's reading), TLVL,
STAT.PFX and PFXH, and frees the refused entries that an asynchronous level names; at level 0 it is ILLEGAL.
R431 and R414: with STAT.STEP set at level 0, the context takes STEP at the boundary after an instruction, with the
instruction's effect made and TRET naming the next. -/
def Obligations.TrapReturnAndStep : Prop :=
  (∀ (f : Form) (s : State), Runs f 4 s → s.me.loads = [] →
     let n := s.me.tlvl
     let ph := s.me.srGet (rPFXHn n)
     let cause := (s.me.srGet (rTCAUSE n)).toNat
     (n = 0 → Traps (.tret f) s cILLEGAL (s.me.pc + BitVec.ofNat 64 (4 * f.npfx)).toNat) ∧
     (1 ≤ n → n ≤ 2 → Gives (.tret f) s fun t =>
       t.me.pc = (s.me.loopEnd (s.me.srGet (rTRET n)) 5).pc ∧ t.me.tlvl = n - 1 ∧ t.me.statBit bPFX = ph.getLsbD 19 ∧
       t.me.srGet rPFXH = (ph.extractLsb' 0 19).setWidth 64 ∧ (∀ r, t.me.sreg r = s.me.sreg r) ∧
       (∀ r, r ∉ endRegs → r ≠ rPFXH → t.me.srGet r = s.me.srGet r) ∧ MemKept s t ∧
       (cause.testBit 8 = false → (t.core s.cur.core).journal = s.myCore.journal) ∧
       (cause.testBit 8 = true → (s.myCore.journal.map (·.1)).Nodup → ∀ e ∈ s.myCore.journal, e ∉ (t.core s.cur.core).journal →
         e.2.ctx = s.cur.ctx ∧ e.2.state = 2 ∧ bits cause 9 6 ≤ e.1))) ∧
  (∀ (f : Form) (s : State), s.agentOk = true → s.cur.unit = .context → (s.me.block.map (·.phase)).getD 0 = 0 →
     s.me.pred f.gp ≠ f.gs → s.me.awaited f = [] → s.myCore.canPay 4 = true → s.me.statBit bSTEP = true → s.me.tlvl = 0 →
     s.me.refusal = false →
     Gives (.add f) s fun t =>
       t.me.tlvl = 1 ∧ t.me.srGet (rTCAUSE 1) = BitVec.ofNat 64 cSTEP ∧ t.me.srGet (rTRET 1) = (s.me.loopEnd (s.fall f) 5).pc ∧
       t.me.pc = s.me.srGet rTVEC ∧
       ∀ r, t.me.sreg r = if r = f.d.sreg ∧ r ≠ 0 then s.me.opS f.a + s.me.opS f.b else s.me.sreg r)

/-! The format table and system registers. -/

/-- R396 and R397: FMTSET writes a legal or an invalid entry of f8 to f31, raising FMTRO and FMTILL otherwise, and FMTGET
reads one; FMTP names entries for the next instruction (R251, R252). -/
def Obligations.FormatTableAccess : Prop :=
  ∀ (f : Form) (s : State), Runs f 4 s →
    let k := f.d.num
    let a : FmtWord := (s.me.sreg f.a.sreg).setWidth 32
    let sets (w : FmtWord) : Prop := Gives (.fmtset f) s fun t =>
      t.me.fent k = w ∧ Kept { fmts := [k] } s t ∧ Completed (s.plainWarn f) (s.fall f) s t
    (k < 8 → Traps (.fmtset f) s cFMTRO k) ∧
    (8 ≤ k → a.getLsbD 31 = false → sets 0) ∧
    (8 ≤ k → a.getLsbD 31 = true → entryLegal a = true → sets a) ∧
    (8 ≤ k → a.getLsbD 31 = true → entryLegal a = false → Traps (.fmtset f) s cFMTILL k) ∧
    Writes (.fmtget f) f s ((s.me.fent f.a.num).setWidth 64) ∧
    ((Instr.fmtp f).wf = true → Gives (.fmtp f) s fun t =>
      (∀ p ∈ [(0, f.d), (1, f.a), (2, f.b)],
        (∀ e, p.2 = .fmt e → (t.me.srGet rPFXH).getLsbD (16 + p.1) = true ∧ bits (t.me.srGet rPFXH).toNat (5 * p.1) 5 = e) ∧
        (p.2 = .none → (t.me.srGet rPFXH).getLsbD (16 + p.1) = false)) ∧
      t.me.statBit bPFX = true ∧ t.me.statBit bWARN = (s.me.statBit bWARN || s.me.statBit bPFX || scalarWarn f false) ∧
      t.me.pc = (s.me.loopEnd (s.fall f) 5).pc ∧ t.me.block = none ∧ Kept { srs := [rPFXH] } s t)

/-- R399 to R402: what MFSR reads of each register, once motions are charged up to this cycle (R51), and ILLEGAL for a number
that names no register.
R399 to R402: MTSR writes the bits that a register has, a reserved bit being written as zero with STAT.WARN; the registers
that only the control context writes, and those that nobody writes, raise SRPERM. -/
def Obligations.SystemRegisterAccess : Prop :=
  (∀ (f : Form) (s : State), Runs f 4 s →
     let u := s.settleAll s.cur.core
     let n := f.a.num
     let reads (w : Word) : Prop := Gives (.mfsr f) s fun t =>
       (∀ r, t.me.sreg r = if r = f.d.sreg ∧ r ≠ 0 then w else s.me.sreg r) ∧
       Kept { regs := [f.d.sreg] } u t ∧ Completed (s.plainWarn f) (s.fall f) s t
     (n ∈ [0x000, 0x001, 0x005, 0x006, 0x007, 0x008, 0x009, 0x010, 0x011, 0x012, 0x013, 0x014, 0x015, 0x016, 0x017, 0x018,
         0x019, 0x020, 0x021, 0x022, 0x023, 0x024, 0x025, 0x026, 0x027, 0x028, 0x029, 0x02A, 0x02B, 0x02C, 0x030, 0x036,
         0x040, 0x041, 0x042, 0x060, 0x061, 0x062, 0x063, 0x064, 0x065, 0x066, 0x067] → reads (u.me.srGet n)) ∧
     (n ∈ [0x004, 0x00B, 0x035, 0x043] → reads (s.myCore.srGet n)) ∧
     (n = 0x002 → reads (BitVec.ofNat 64 (s.cur.core + s.cur.ctx * 2 ^ 14 + s.pkg.devId % 2 ^ 18 * 2 ^ 18))) ∧
     (n = 0x00A → ∃ w, reads w ∧ w.extractLsb' 0 19 = (s.me.srGet rPFXH).extractLsb' 0 19 ∧ w.getLsbD 19 = s.me.statBit bPFX ∧
       w.toNat < 2 ^ 20) ∧
     (n ∈ [0x00C, 0x00D, 0x00F, 0x01A, 0x01F, 0x02D, 0x02F, 0x038, 0x03F, 0x044, 0x04F, 0x068, 0x100, 0xFFF] → s.me.loads = [] →
       Gives (.mfsr f) s fun t =>
         t = u.enterTrap s.cur.core s.cur.ctx (causeWord cILLEGAL false 0 0 0 0)
           (BitVec.ofNat 64 (s.me.pc + BitVec.ofNat 64 (4 * (f.npfx + 1))).toNat) s.me.pc)) ∧
  (∀ (f : Form) (s : State), Runs f 4 s →
     let u := s.settleAll s.cur.core
     let a := s.me.opS f.a
     let n := f.d.num
     let denied : Prop := s.me.loads = [] → Gives (.mtsr f) s fun t =>
       t = u.enterTrap s.cur.core s.cur.ctx (causeWord cSRPERM false 0 0 0 0) (BitVec.ofNat 64 n) s.me.pc
     (∀ mask : Word, (n, mask) ∈ [(0x005, 0xFFFFFFFF), (0x007, BitVec.allOnes 64), (0x009, 0xFFFFFFFF), (0x015, BitVec.allOnes 64),
         (0x016, BitVec.allOnes 64), (0x017, 0xF7FFF), (0x018, 0xF7FFF), (0x020, BitVec.allOnes 64), (0x024, BitVec.allOnes 64),
         (0x036, 0xFF)] →
       Gives (.mtsr f) s fun t => t.me.srGet n = a &&& mask ∧ Kept { srs := [n] } u t ∧
         t.me.statBit bWARN = (s.me.statBit bWARN || s.plainWarn f || decide (a &&& ~~~mask ≠ 0)) ∧
         t.me.pc = ((s.me.srSet n (a &&& mask)).loopEnd (s.fall f) 5).pc) ∧
     (n ∈ [0x028, 0x029, 0x02A, 0x02B] → Gives (.mtsr f) s fun t =>
       let y := (s.me.srSet n (a &&& 0xFFFFFFFF)).loopEnd (s.fall f) 5
       t.me.pc = y.pc ∧ t.me.srGet n = y.srGet n ∧ Kept {} u t) ∧
     (∀ mask : Word, (n, mask) ∈ [(0x030, BitVec.allOnes 64)] → s.cur.ctx = 0 →
       Gives (.mtsr f) s fun t => t.me.srGet n = a &&& mask ∧ Kept { srs := [n] } u t) ∧
     (∀ mask : Word, (n, mask) ∈ [(0x004, 0x7FE), (0x043, BitVec.allOnes 64)] → s.cur.ctx = 0 →
       Gives (.mtsr f) s fun t => (t.core s.cur.core).srGet n = a &&& mask ∧ RegsKept {} u t ∧ MemKept u t ∧
         t.me.statBit bWARN = (s.me.statBit bWARN || s.plainWarn f || decide (a &&& ~~~mask ≠ 0))) ∧
     (n ∈ [0x001, 0x004, 0x00B, 0x030, 0x035, 0x043, 0x050, 0x05F] → s.cur.ctx ≠ 0 → denied) ∧
     (n ∈ [0x002, 0x003, 0x00A, 0x019, 0x031, 0x034, 0x037, 0x040, 0x042] → denied))

/-- R407 to R410: TOKQ, TOKRES, TIME and PERF, with their ILLEGAL operands and CTXPERM for a helper. Nothing but the context
changes; a TOKRES at whose core a bell waits may release that bell (R196). -/
def Obligations.TokenTimeAndCounterResults : Prop :=
  ∀ (f : Form) (s : State), Runs f 4 s →
    let at_ (k : Nat) := (s.me.pc + BitVec.ofNat 64 (4 * (f.npfx + k))).toNat
    let layer := s.island (2 * (s.cur.core / 1024))
    (f.a.immU = 0 → Writes (.tokq f) f s (BitVec.ofInt 64 (s.myCore.purse / 1024)) ∧
      Writes (.time f) f s (BitVec.ofNat 64 s.ns)) ∧
    (f.a.immU = 1 → Writes (.tokq f) f s (BitVec.ofNat 64 s.myCore.reserve) ∧
      Writes (.time f) f s (BitVec.ofNat 64 ((layer.ticks + (6 + layer.point) * (s.clk - layer.counted)) / 21))) ∧
    (f.a.immU = 2 → Writes (.tokq f) f s (BitVec.ofNat 64 (s.me.drawn / 1024)) ∧ Traps (.time f) s cILLEGAL (at_ 1)) ∧
    (f.a.immU = 3 → Writes (.tokq f) f s (BitVec.ofNat 64 (layer.budget % 2 ^ 32))) ∧
    (4 ≤ f.a.immU → Traps (.tokq f) s cILLEGAL (at_ 1) ∧ Traps (.time f) s cILLEGAL (at_ 1)) ∧
    (s.cur.ctx ≠ 0 → Traps (.tokres f) s cCTXPERM 0) ∧
    (s.cur.ctx = 0 → Gives (.tokres f) s fun t =>
      let a := (s.me.opU f.a).toNat
      (t.core s.cur.core).reserve = min 4096 a ∧
      (∀ r, t.me.sreg r = if r = f.d.sreg ∧ r ≠ 0 then BitVec.ofNat 64 s.myCore.reserve else s.me.sreg r) ∧
      RegsKept { regs := [f.d.sreg] } s t ∧ MemKept s t ∧
      ((∀ e ∈ s.bells, ∀ a ∈ e.2.arrived, a.1 ≠ s.cur.core) → RestKept s t) ∧
      Completed (s.plainWarn f || decide (4096 < a)) (s.fall f) s t) ∧
    (f.a.immU ≤ 7 → f.b.immU = 0 → Writes (.perf f) f s (s.me.pmc.get f.a.immU 0)) ∧
    (f.a.immU ≤ 7 → f.b.immU = 1 → Gives (.perf f) s fun t =>
      (∀ r, t.me.sreg r = if r = f.d.sreg ∧ r ≠ 0 then s.me.pmc.get f.a.immU 0 else s.me.sreg r) ∧
      Kept { regs := [f.d.sreg] } s t ∧ Completed (s.plainWarn f) (s.fall f) s t) ∧
    (8 ≤ f.a.immU → Traps (.perf f) s cILLEGAL (at_ 1)) ∧
    (f.a.immU ≤ 7 → 2 ≤ f.b.immU → Traps (.perf f) s cILLEGAL (at_ 2))

/-! Tasks (spec/13_scalar_control_task_instructions.md R294 to R303). -/

/-- R147 and R143: an instruction that is a release is held, with nothing of it done, while stores of its context are
unacknowledged, and then while loads of it are under way, loop-back ones apart (R42). -/
def Obligations.ReleasesWaitForStores : Prop :=
  (∀ s : State, (s.myCore.storesOut s.cur.ctx = true → s.relWait = some .acks) ∧
    (s.myCore.storesOut s.cur.ctx = false → ∀ l, l ∈ s.me.loads → (∀ q ∈ s.reqs, q.1 = l.1 → q.2.loopBack = false) →
      ∃ ids, s.relWait = some (.loads ids) ∧ l.1 ∈ ids) ∧
    (s.myCore.storesOut s.cur.ctx = false → s.me.loads = [] → s.relWait = none)) ∧
  ∀ (f : Form) (s : State) (wt : Wait), Runs f 4 s → s.relWait = some wt →
    let held (i : Instr) : Prop := Gives i s fun t =>
      (∃ since, t.me.block = some ⟨wt, since, 0⟩) ∧ t.me.pc = s.me.pc ∧ t.me.st = .ready ∧ Kept {} s t
    held (.fence f) ∧ held (.gset f) ∧
    (s.cur.ctx ≠ 0 → held (.done f) ∧ held (.next f)) ∧
    (s.cur.ctx = 0 → canonical (s.me.opS f.a) = true → (s.me.opS f.a).toNat % 4 = 0 → held (.start f)) ∧
    (f.b.immU < 2 ^ 16 → held (.svc f)) ∧
    (∀ p, s.checkVa s.me.vf (s.me.opAddr f.a) 32 = .ok p → held (.spawn f) ∧ held (.join f)) ∧
    (f.b = .none → ∀ p, s.checkVa s.me.vf (s.me.opAddr f.a) 64 = .ok p → held (.launch f)) ∧
    (f.b ≠ .none → (s.me.opAddr f.a).toNat % 64 = 0 → held (.launch f))

/-- R295 and R185: START checks its code pointer, answers BADHELP and BUSY, and otherwise starts the helper with the listed
state; a helper that issues it raises CTXPERM.
R295: HWAIT takes the lowest signalling helper of its mask, lowers its count, and gives its number and kind; an empty mask
gives 0, and a mask in which nobody signals holds the context in WAIT.
R296 and R186: DONE, DONE.J and NEXT end a helper's routine with a signal of kind 1, NEXT then finding no record; the
control context that issues them raises CTXPERM. -/
def Obligations.HelperStartsAndSignals : Prop :=
  (∀ (f : Form) (s : State), Runs f 4 s →
     let a := s.me.opS f.a
     let h := fieldOf (s.me.sreg f.d.sreg) 0 4
     let x := s.ctx s.cur.core h
     (s.cur.ctx ≠ 0 → Traps (.start f) s cCTXPERM 0) ∧
     (s.cur.ctx = 0 → canonical a = false → Traps (.start f) s cADDRNC a.toNat) ∧
     (s.cur.ctx = 0 → canonical a = true → a.toNat % 4 ≠ 0 → Traps (.start f) s cMISALIGN a.toNat) ∧
     (s.cur.ctx = 0 → canonical a = true → a.toNat % 4 = 0 → s.relWait = none →
       (h = 0 ∨ 10 < h → Writes (.start f) f s (BitVec.ofNat 64 stBADHELP)) ∧
       (1 ≤ h → h ≤ 10 → x.st ≠ .free ∨ s.mayTake s.cur.core h s.me.launch = false →
         Writes (.start f) f s (BitVec.ofNat 64 stBUSY)) ∧
       (1 ≤ h → h ≤ 10 → x.st = .free → s.mayTake s.cur.core h s.me.launch = true → Gives (.start f) s fun t =>
         let y := t.ctx s.cur.core h
         y.st = .ready ∧ y.pc = a ∧ (∀ r, y.sreg r = if r = 62 then s.me.opS f.b else 0) ∧
         (∀ p, p < 16 → y.pred p = decide (p = 0)) ∧ (∀ g, y.guard g = .hold) ∧ y.statBit bPFX = false ∧ y.tlvl = 0 ∧
         (∀ k, k < 4 → y.srGet (rLS k) = 0 ∧ y.srGet (rLE k) = 0 ∧ y.srGet (rLC k) = 0) ∧ y.srGet rLOOPST = 0 ∧
         y.srGet rSHCHG = x.srGet rSHCHG ∧ (∀ k, y.fent k = s.me.fent k) ∧ y.launch = s.me.launch ∧
         (∀ r, t.me.sreg r = if r = f.d.sreg ∧ r ≠ 0 then 0 else s.me.sreg r) ∧
         (∀ n c, (n ≠ s.cur.core ∨ c ≠ 0 ∧ c ≠ h) → t.ctx n c = s.ctx n c) ∧ MemKept s t ∧
         Completed (s.plainWarn f) (s.fall f) s t))) ∧
  ((∀ (f : Form) (s : State), Runs f 4 s → s.cur.ctx = 0 →
     let a := s.me.opU f.a
     let signals (h : Nat) : Prop := 1 ≤ h ∧ h ≤ 10 ∧ a.getLsbD h = true ∧ (s.ctx s.cur.core h).sigCount ≠ 0
     (a.extractLsb' 1 10 = 0 → Writes (.hwait f) f s 0) ∧
     (a.extractLsb' 1 10 ≠ 0 → (∀ h, ¬signals h) → Gives (.hwait f) s fun t =>
       t.me.st = .wait ∧ t.me.pc = s.me.pc ∧ Kept {} s t ∧ ∃ m since, t.me.block = some ⟨.hwait m, since, 0⟩) ∧
     (∀ h, signals h → (∀ k, signals k → h ≤ k) → Gives (.hwait f) s fun t =>
       (t.ctx s.cur.core h).sigCount = (s.ctx s.cur.core h).sigCount - 1 ∧
       (∀ r, t.me.sreg r = if r = f.d.sreg ∧ r ≠ 0 then BitVec.ofNat 64 (h + 16 * (s.ctx s.cur.core h).sigKind)
         else s.me.sreg r) ∧
       RegsKept { regs := [f.d.sreg] } s t ∧ MemKept s t ∧ Completed (s.plainWarn f) (s.fall f) s t)) ∧
   (∀ (f : Form) (s : State), Runs f 4 s →
     (s.cur.ctx = 0 → Traps (.done f) s cCTXPERM 0 ∧ Traps (.doneJ f) s cCTXPERM 0 ∧ Traps (.next f) s cCTXPERM 0) ∧
     (s.cur.ctx ≠ 0 → s.relWait = none → s.me.loads = [] → s.me.launch = none → s.me.pending = [] → s.me.fork = none →
       s.engineWork s.cur.core s.cur.ctx = false → s.ops = [] → s.myCore.queue = none →
       let ends (i : Instr) : Prop := Gives i s fun t =>
         (t.ctx s.cur.core s.cur.ctx).st = .free ∧
         (t.ctx s.cur.core s.cur.ctx).sigKind = (if s.me.sigCount < 255 then 1 else s.me.sigKind) ∧
         (t.ctx s.cur.core s.cur.ctx).sigCount = (if s.me.sigCount < 255 then s.me.sigCount + 1 else s.me.sigCount) ∧
         (∀ n c, ¬(n = s.cur.core ∧ c = s.cur.ctx) → t.ctx n c = s.ctx n c) ∧ MemKept s t
       ends (.done f) ∧ ends (.doneJ f) ∧ ends (.next f))))

/-- R297 and R298: FORK starts its programs at their slots with the context's registers and format table copied and every
guard slot at HOLD; RDV gives both programs' first faults and stopping slots, and 0 with STAT.WARN where no fork awaits it. -/
def Obligations.ForkStartsAndRdvJoins : Prop :=
  ∀ (f : Form) (s : State), Runs f 4 s →
    (∀ m c, ownSlot s (s.me.opAddr f.a) = .ok m → ownSlot s (s.me.opAddr f.b) = .ok c → f.a ≠ .none → f.b ≠ .none →
      s.relWait = none → s.me.awaiting (List.range 16) = [] → s.me.fork = none → s.myCore.seqOwner = none →
      Gives (.fork f) s fun t =>
        let k := t.core s.cur.core
        k.seqOwner = some s.cur.ctx ∧ k.mseq.live = true ∧ k.mseq.pos = m ∧ k.cseq.live = true ∧ k.cseq.pos = c ∧
        (∀ r, r < 16 → k.mseq.regs.get r 0 = s.me.sreg r ∧ k.cseq.regs.get r 0 = s.me.sreg r) ∧
        (∀ e, e < 32 → k.mseq.snap.get e 0 = s.me.fent e ∧ k.cseq.snap.get e 0 = s.me.fent e) ∧ (∀ g, t.me.guard g = .hold) ∧
        t.me.fork = some ⟨⟨true, 0, 0, m⟩, ⟨true, 0, 0, c⟩⟩ ∧ (∀ r, t.me.sreg r = s.me.sreg r) ∧ MemKept s t ∧
        Completed (s.plainWarn f) (s.fall f) s t) ∧
    (∀ e, forkSide s f.a = .error e → Traps (.fork f) s e.1 e.2) ∧
    (s.me.fork = none → Gives (.rdv f) s fun t =>
      (∀ r, t.me.sreg r = if r = f.d.sreg ∧ r ≠ 0 then 0 else s.me.sreg r) ∧ Kept { regs := [f.d.sreg] } s t ∧
      Completed true (s.fall f) s t) ∧
    (∀ k, s.me.fork = some k → s.forkOver s.cur.core s.cur.ctx = true → Gives (.rdv f) s fun t =>
      (∀ r, t.me.sreg r = if r = f.d.sreg ∧ r ≠ 0 then
        BitVec.ofNat 64 (k.m.code % 2 ^ 8 + k.c.code % 2 ^ 8 * 2 ^ 8 + k.m.slot % 2 ^ 12 * 2 ^ 16 + k.c.slot % 2 ^ 12 * 2 ^ 28)
        else s.me.sreg r) ∧ t.me.fork = none ∧ MemKept s t ∧ Completed (s.plainWarn f) (s.fall f) s t) ∧
    (∀ k, s.me.fork = some k → s.forkOver s.cur.core s.cur.ctx = false → Gives (.rdv f) s fun t =>
      t.me.st = .wait ∧ t.me.pc = s.me.pc ∧ Kept {} s t)

/-- R299: GSET, once its earlier accesses are acknowledged, writes its guard slot, 3 as SKIP with STAT.WARN.
R303 and R427: YIELD completes with no effect without STAT.PREQ; with it, the context is SAVED, at the instruction after it,
once it has drained.
R190: REALIGN completes outside any launch; in one, where no core of the tile keeps a context of the launch away from it, or
where its window has closed, it completes, and else it waits, the end of its window being due.
Bad operands of YIELD and REALIGN are ILLEGAL. -/
def Obligations.GuardYieldAndRealign : Prop :=
  ∀ (f : Form) (s : State), Runs f 4 s →
    let bad : Nat := (s.me.pc + BitVec.ofNat 64 (4 * (f.npfx + 1))).toNat
    let v := fieldOf (s.me.opU f.a) 0 2
    (s.relWait = none → Gives (.gset f) s fun t =>
      t.me.guard f.d.num = (if v = 0 then .hold else if v = 1 then .run else .skip) ∧
      Kept { slots := [f.d.num] } s t ∧ Completed (s.plainWarn f || decide (v = 3)) (s.fall f) s t) ∧
    (s.me.statBit bPREQ = false → (f.a = .none ∨ f.a.immU ≤ 255) → Branches (.yield f) f s {} (s.fall f)) ∧
    (∀ p, s.me.statBit bPREQ = true → (f.a = .none ∨ f.a.immU ≤ 255) → s.saveReady s.cur.core s.cur.ctx = true → s.me.loads = [] →
      s.me.preq = some p → p.phys = true → Gives (.yield f) s fun t =>
        t.me.st = .saved ∧ t.me.statBit bPREQ = false ∧ t.me.pc = (s.me.loopEnd (s.fall f) 5).pc ∧
        ∀ r, t.me.sreg r = s.me.sreg r) ∧
    (s.me.statBit bPREQ = true → (f.a = .none ∨ f.a.immU ≤ 255) → s.saveReady s.cur.core s.cur.ctx = false →
      Gives (.yield f) s fun t => (∃ m since, t.me.block = some ⟨.save m false, since, 0⟩) ∧ t.me.pc = s.me.pc ∧ Kept {} s t) ∧
    (f.a ≠ .none → 256 ≤ f.a.immU → Traps (.yield f) s cILLEGAL bad) ∧
    (s.me.launch = none → 1 ≤ f.a.immU → f.a.immU ≤ 4095 → Branches (.realign f) f s {} (s.fall f)) ∧
    (1 ≤ f.a.immU → f.a.immU ≤ 4095 → s.tileAligned s.cur.core s.me.launch s.me.pc = true → Gives (.realign f) s fun t =>
      RegsKept {} s t ∧ MemKept s t ∧ Completed (s.plainWarn f) (s.fall f) s t) ∧
    (∀ pc dl since, 1 ≤ f.a.immU → f.a.immU ≤ 4095 → s.me.block = some ⟨.realign pc dl, since, 0⟩ → dl ≤ s.clk →
      Gives (.realign f) s fun t => RegsKept {} s t ∧ MemKept s t ∧ Completed (s.plainWarn f) (s.fall f) s t) ∧
    (1 ≤ f.a.immU → f.a.immU ≤ 4095 → s.me.block = none → s.tileAligned s.cur.core s.me.launch s.me.pc = false →
      Gives (.realign f) s fun t => t.me.st = .wait ∧ t.me.pc = s.me.pc ∧
        t.me.block = some ⟨.realign s.me.pc.toNat (s.clk + f.a.immU), s.clk, 0⟩ ∧
        (s.clk + f.a.immU, Event.realignTimeout s.cur.core s.cur.ctx) ∈ t.due ∧ RegsKept {} s t ∧ MemKept s t) ∧
    (f.a.immU = 0 ∨ 4096 ≤ f.a.immU → Traps (.realign f) s cILLEGAL bad)

/-- R301, for a record in the mesh window: SPAWN stores JOIN, and pushes at 0; JOIN counts down, pushes at its last decrement,
and gives UNDERFLOW with STAT.WARN at 0, with STAT.UNJOIN where an operation is outstanding; a record whose fields are bad gives
BADREC, and an address that R28 refuses its fault.
R301, for a record of translated memory that no access under way holds up: the same results over the state that the record's
reading leaves.
R302: LAUNCH without B is accepted or refused at once, a record of the mesh window being refused, and waits while its function is
quiesced (log entry 72); with B it pushes an entry onto queue b[7:0] at priority b[9:8], checking the alignment alone; the status
is OK, BADLREC or LQFULL. -/
def Obligations.SpawnJoinAndLaunch : Prop :=
  (∀ (f : Form) (s : State), Runs f 4 s →
     let w := s.me.opAddr f.a
     let n := fieldOf (s.me.opU f.b) 0 32
     (∀ e, s.checkVa s.me.vf w 32 = .error e → Traps (.spawn f) s e.1 e.2 ∧ Traps (.join f) s e.1 e.2) ∧
     (∀ c o, s.relWait = none → s.checkVa s.me.vf w 32 = .ok (.mesh c o) → s.stallPoison c o 32 = none →
       let rcd := s.stallRead c o 32
       let j := bits rcd 128 32
       let gives (i : Instr) (st : Nat) (warns : Bool) (P : State → Prop) : Prop := Gives i s fun t =>
         P t ∧ Result f (BitVec.ofNat 64 st) s t ∧ RegsKept { regs := [f.d.sreg], stats := [bORACE, bUNJOIN] } s t ∧
         Completed (s.plainWarn f || warns) (s.fall f) s t
       let stores (v : Nat) (t : State) : Prop := t.stallRead c (o + 16) 4 = v ∧ StallStore c (o + 16) 4 s t
       let joins (t : State) : Prop := t.me.statBit bUNJOIN = (s.me.statBit bUNJOIN || s.me.outstanding)
       let pushed := (s.stallWrite c (o + 16) 4 0).pushRecord (bits rcd 160 14)
         ⟨bits rcd 0 64, bits rcd 64 64, 0, 0, bits rcd 160 14, s.me.asid, 0⟩ s.me.launch
       (s.recordOk s.me rcd = false → gives (.spawn f) stBADREC false (MemKept s)) ∧
       (s.recordOk s.me rcd = true → n ≠ 0 → gives (.spawn f) stOK false (stores n)) ∧
       (s.recordOk s.me rcd = true → n = 0 → pushed = none → gives (.spawn f) stQFULL false (stores 0)) ∧
       (∀ q, s.recordOk s.me rcd = true → n = 0 → pushed = some q → gives (.spawn f) stPUSHED false (MemKept q)) ∧
       (j = 0 → gives (.join f) stUNDERFLOW true fun t => MemKept s t ∧ joins t) ∧
       (1 < j → gives (.join f) stOK false fun t => stores (j - 1) t ∧ joins t) ∧
       (j = 1 → s.recordOk s.me rcd = false → gives (.join f) stBADREC false fun t => stores 0 t ∧ joins t) ∧
       (j = 1 → s.recordOk s.me rcd = true → ∃ st, st ∈ [stQFULL, stPUSHED] ∧ gives (.join f) st false joins))) ∧
  (∀ (f : Form) (s u : State) (rec va : Nat), Runs f 4 s → s.relWait = none →
     s.checkVa s.me.vf (s.me.opAddr f.a) 32 = .ok (.virt va) → s.ownOut va = [] →
     s.homeWaits ⟨s.cur.core, s.cur.ctx, s.me.vf⟩ s.me.asid va .rw = false →
     let w := s.me.opAddr f.a
     let n := fieldOf (s.me.opU f.b) 0 32
     let j := bits rec 128 32
     let gives (i : Instr) (v : State) (st : Nat) : Prop := Gives i s fun t =>
       Result f (BitVec.ofNat 64 st) v t ∧ RegsKept { regs := [f.d.sreg] } v t ∧ MemKept v t ∧
       Completed (s.plainWarn f) (s.fall f) v t
     readRecord s w = (.ok rec, u) → u.cur = s.cur → u.me.statBit bSTEP = false → u.me.outstanding = false →
       (u.recordOk u.me rec = false → gives (.spawn f) u stBADREC) ∧
       (∀ v, u.recordOk u.me rec = true → writeJoin u w n = (.ok (), v) → v.cur = s.cur → v.me.statBit bSTEP = false →
         (n ≠ 0 → gives (.spawn f) v stOK) ∧
         (let pushed := v.pushRecord (bits rec 160 14) ⟨bits rec 0 64, bits rec 64 64, 0, 0, bits rec 160 14, v.me.asid, 0⟩ v.me.launch
          n = 0 → (pushed = none → gives (.spawn f) v stQFULL) ∧ (∀ q, pushed = some q → gives (.spawn f) q stPUSHED))) ∧
       (j = 0 → Gives (.join f) s fun t => Result f (BitVec.ofNat 64 stUNDERFLOW) u t ∧ RegsKept { regs := [f.d.sreg] } u t ∧
         MemKept u t ∧ Completed true (s.fall f) u t) ∧
       (∀ v, 1 < j → writeJoin u w (j - 1) = (.ok (), v) → v.cur = s.cur → v.me.statBit bSTEP = false → v.me.outstanding = false →
         gives (.join f) v stOK)) ∧
  (∀ (f : Form) (s : State), Runs f 4 s → s.relWait = none →
     let w := s.me.opAddr f.a
     let b := (s.me.opU f.b).toNat
     let p := bits b 8 2
     let gives (v : State) (st : Nat) : Prop := Gives (.launch f) s fun t =>
       Result f (BitVec.ofNat 64 st) v t ∧ RegsKept { regs := [f.d.sreg] } v t ∧ MemKept v t ∧
       Completed (s.plainWarn f) (s.fall f) v t
     (∀ e, f.b = .none → s.checkVa s.me.vf w 64 = .error e → Traps (.launch f) s e.1 e.2) ∧
     (∀ q, f.b = .none → s.checkVa s.me.vf w 64 = .ok q →
       (s.quietVf s.me.vf = true → Gives (.launch f) s fun t =>
         (∃ since, t.me.block = some ⟨.quiet, since, 0⟩) ∧ t.me.pc = s.me.pc ∧ Kept {} s t) ∧
       (s.quietVf s.me.vf = false → meshBase ≤ w.toNat % 2 ^ 56 → Writes (.launch f) f s (BitVec.ofNat 64 stBADLREC)) ∧
       (∀ l u, s.quietVf s.me.vf = false → s.acceptVa s.me.vf s.cur.core s.me.asid (w.toNat % 2 ^ 56) none = (l, u) →
         u.cur = s.cur → u.me.statBit bSTEP = false → gives u (if l.isSome then stOK else stBADLREC))) ∧
     (f.b ≠ .none → w.toNat % 64 ≠ 0 → Traps (.launch f) s cMISALIGN w.toNat) ∧
     (f.b ≠ .none → w.toNat % 64 = 0 →
       let pushed := s.lqPush (bits b 0 8) p ⟨0, 0, w.toNat, 0, 0, s.me.asid, 1 + 2 * p⟩ none
       (∀ u, pushed = some u → Gives (.launch f) s fun t =>
         Result f (BitVec.ofNat 64 stOK) s t ∧ RegsKept { regs := [f.d.sreg], stats := [bORACE] } s t ∧ MemKept u t ∧
         Completed (s.plainWarn f) (s.fall f) s t) ∧
       (pushed = none → Writes (.launch f) f s (BitVec.ofNat 64 stLQFULL))))

/-! Messages, the exchange and barriers (spec/13_scalar_control_task_instructions.md R304 to R313;
spec/08_execution_model.md R196 to R203). -/

/-- R305: SEND's faults, its wait for a credit on a pipe, and the message that it posts: its payload, its arrival later, and
no register changed.
R203 and R424: a message that arrives at an enabled channel with room is written at TAIL, which then advances; any other
makes RQOVF pending with its entry in the core's overflow area, or is dropped and counted where that is full or not there.
R306: RECV copies the oldest entry to its aligned LA, advances HEAD and gives the entry's last eight bytes; an empty channel,
or one that another context has waited longer on, holds it, a disabled one gives 0 with STAT.WARN. RPROBE gives the number of
entries. -/
def Obligations.Messages : Prop :=
  (∀ (f : Form) (s : State), Runs f 16 s →
     let a := (s.me.opS f.a).toNat
     let dst := bits a 0 14
     let len := bits a 16 6
     let w := s.me.opAddr f.b
     let src := s.cur.core
     (laPlace src w.toNat = none → Traps (.send f) s cLAFLT w.toNat) ∧
     (∀ c o, laPlace src w.toNat = some (c, o) →
       (len = 0 ∨ 56 < len → Traps (.send f) s cMSGFMT a) ∧
       (1 ≤ len → len ≤ 56 → laPlace src (w.toNat + len - 1) = none → Traps (.send f) s cMSGFMT a) ∧
       (1 ≤ len → len ≤ 56 → (laPlace src (w.toNat + len - 1)).isSome = true →
         (s.hasCore s.me.vf dst = false → Traps (.send f) s cMESHPART a) ∧
         (s.hasCore s.me.vf dst = true → s.relWait = none →
           (s.pipeFrom src dst f.d.num = true → s.credits src dst f.d.num = 0 → Gives (.send f) s fun t => Held .wait s t) ∧
           (s.pipeFrom src dst f.d.num = false ∨ s.credits src dst f.d.num ≠ 0 → s.stallPoison c o len = none →
             Gives (.send f) s fun t =>
               t.msgs.get s.nextId ⟨0, 0, 0, 0, 0⟩ = ⟨src, dst, f.d.num, len, s.stallRead c o len⟩ ∧
               (∃ k, (k, Event.messageArrival s.nextId) ∈ t.due ∧ s.clk < k) ∧ RegsKept {} s t ∧ MemKept s t ∧
               Completed (s.plainWarn f) (s.fall f) s t))))) ∧
  ((∀ (s : State) (id : Nat) (m : Msg), s.msgs.find? (·.1 == id) = some (id, m) →
     let r := (s.core m.dst).chan m.chan
     let size := 2 ^ chLogn r
     let entry := m.data % 2 ^ (8 * m.len) + m.src * 2 ^ 448 + m.len * 2 ^ 464 + m.chan * 2 ^ 472
     let vf := s.vfOfCore m.dst
     let n := (s.core m.dst).ovfCount
     let room := regPage (s.vf vf).ovfBase + 4096 * m.dst + 64 * n
     let fits : Prop := chEn r = true ∧ (chPipe r = false ∨ chSrc r = m.src) ∧ chCount r < size
     (fits → Happens (.messageArrival id) s fun t =>
         t.stallRead m.dst (chBase r + 64 * (chTail r % size)) 64 = entry % 2 ^ 512 ∧
         chTail ((t.core m.dst).chan m.chan) = (chTail r + 1) % (2 * size) ∧
         chHead ((t.core m.dst).chan m.chan) = chHead r ∧
         StallStore m.dst (chBase r + 64 * (chTail r % size)) 64 s t ∧ ∀ n c k, (t.ctx n c).sreg k = (s.ctx n c).sreg k) ∧
     (¬fits → n < 64 → regPage (s.vf vf).ovfBase ≠ 0 → inHbm room 64 = true → Happens (.messageArrival id) s fun t =>
       t.physRead room 64 = entry % 2 ^ 512 ∧ (t.core m.dst).ovfCount = n + 1 ∧ (t.core m.dst).rqovf.testBit m.chan = true ∧
       (∀ k, k ≠ m.chan → (t.core m.dst).rqovf.testBit k = (s.core m.dst).rqovf.testBit k) ∧
       (t.core m.dst).chan m.chan = r ∧ ∀ k c j, (t.ctx k c).sreg j = (s.ctx k c).sreg j) ∧
     (¬fits → (64 ≤ n ∨ regPage (s.vf vf).ovfBase = 0 ∨ inHbm room 64 = false) → Happens (.messageArrival id) s fun t =>
       (t.vf vf).rqDrop = satInc64 (s.vf vf).rqDrop ∧ (∀ n c, t.ctx n c = s.ctx n c) ∧ MemKept s t)) ∧
   (∀ (f : Form) (s : State),
     let core := s.cur.core
     let ch := f.a.num
     let r := s.myCore.chan ch
     let at_ := chBase r + 64 * (chHead r % 2 ^ chLogn r)
     (Runs f 16 s → ∀ e, checkLa core (s.me.opAddr f.b) 64 64 = .error e → Traps (.recv f) s e.1 e.2) ∧
     (Runs f 16 s → ∀ c o, checkLa core (s.me.opAddr f.b) 64 64 = .ok (c, o) →
       (chEn r = false → Gives (.recv f) s fun t =>
         Result f 0 s t ∧ Kept { regs := [f.d.sreg] } s t ∧ Completed true (s.fall f) s t) ∧
       (chEn r = true → (chCount r = 0 ∨ s.recvBehind ch = true) → Gives (.recv f) s fun t => Held .wait s t) ∧
       (chEn r = true → chCount r ≠ 0 → s.recvBehind ch = false → s.stallPoison core at_ 64 = none →
         Gives (.recv f) s fun t =>
           t.stallRead c o 64 = s.stallRead core at_ 64 ∧
           chHead ((t.core core).chan ch) = (chHead r + 1) % 2 ^ (chLogn r + 1) ∧
           Result f (BitVec.ofNat 64 (bits (s.stallRead core at_ 64) 448 64)) s t ∧
           RegsKept { regs := [f.d.sreg], stats := [bORACE] } s t ∧ StallStore c o 64 s t ∧
           Completed (s.plainWarn f) (s.fall f) s t)) ∧
     (Runs f 4 s → Writes (.rprobe f) f s (BitVec.ofNat 64 (chCount r)))))

/-- R196 and R309: BELL's faults and statuses, and its own effect: it arrives at its bell, at once, and its context waits there
until the bell is left.
R196, R197 and R440: a release completes the BELL of the arrived context with OK, starts the exchange phase on its core, with the
reserve moved into the hold, and puts the core's other contexts that run or wait in XHOLD; a bound that elapses first completes it
with TIMEOUT. Stated for a bell at which one context has arrived.
R197 and R440: at the end of a phase every XHOLD context of the core is READY again, a stopped one resumes so, and what is left
of the hold returns to the purse. Stated for a domain of one core. -/
def Obligations.BellsAndPhases : Prop :=
  (∀ (f : Form) (s : State), Runs f 4 s →
     let k := f.a.immU
     (7 < k → Traps (.bell f) s cILLEGAL (s.me.pc + BitVec.ofNat 64 (4 * (f.npfx + 1))).toNat) ∧
     (k ≤ 7 → s.bellOf s.cur.core k = none → Writes (.bell f) f s (BitVec.ofNat 64 stNOTMEMBER)) ∧
     (∀ key, k ≤ 7 → s.bellOf s.cur.core k = some key →
       ((∃ c, c ≠ s.cur.ctx ∧ (s.cur.core, c) ∈ (s.bell key).arrived) → Writes (.bell f) f s (BitVec.ofNat 64 stBUSY)) ∧
       ((∀ c, (s.cur.core, c) ∉ (s.bell key).arrived) → s.relWait = none → Gives (.bell f) s fun t =>
         (t.bell key).arrived = (s.bell key).arrived ++ [(s.cur.core, s.cur.ctx)] ∧
         ((t.bell key).rel = none ∨ (t.bell key).rel = some (s.clk + 20) ∨ (t.bell key).rel = (s.bell key).rel) ∧
         t.me.block = some ⟨.bell key f.d.sreg (formLen f), ((s.me.block).map (·.since)).getD s.clk, 1⟩ ∧
         t.me.st = .wait ∧ t.me.pc = s.me.pc ∧ RegsKept {} s t ∧ MemKept s t))) ∧
  ((∀ (s : State) (key core c d len since : Nat), c < numCtxs →
     (s.bell key).arrived = [(core, c)] → (s.ctx core c).block = some ⟨.bell key d len, since, 1⟩ →
     (s.ctx core c).statBit bSTEP = false →
     let x := s.ctx core c
     ((s.bell key).rel = some s.clk → Happens (.bellRelease key) s fun t =>
       (t.core core).phase = some (key, c, s.clk) ∧ (t.core core).hold = (s.core core).reserve * 1024 ∧
       (t.core core).purse = (s.core core).purse - ((s.core core).reserve * 1024 : Nat) ∧
       (d ≠ 0 → (t.ctx core c).sreg d = BitVec.ofNat 64 stOK) ∧ (t.ctx core c).block = none ∧
       (t.ctx core c).pc = (x.loopEnd (x.pc + BitVec.ofNat 64 len) 5).pc ∧
       (∀ e, e < numCtxs → e ≠ c → (s.ctx core e).idle = false → (s.ctx core e).st ∈ [CtxSt.ready, .wait, .sleep] →
         (t.ctx core e).st = .xhold) ∧
       (∀ n e, n ≠ core → t.ctx n e = s.ctx n e) ∧ MemKept s t) ∧
     (∀ since0 l, (s.bell key).since = some since0 → s.launchOf (key / 8) = some l → since0 + bits l.raw 384 32 ≤ s.clk →
       Happens (.bellTimeout key) s fun t =>
         (t.bell key).arrived = [] ∧ (d ≠ 0 → (t.ctx core c).sreg d = BitVec.ofNat 64 stTIMEOUT) ∧
         (t.ctx core c).block = none ∧ (t.ctx core c).pc = (x.loopEnd (x.pc + BitVec.ofNat 64 len) 5).pc ∧ (∀ n e, ¬(n = core ∧ e = c) → t.ctx n e = s.ctx n e) ∧ MemKept s t)) ∧
   (∀ (s : State) (key core arrived start : Nat), s.bellCores key = [core] →
     (s.core core).phase = some (key, arrived, start) → Happens (.exchangePhaseEnd key) s fun t =>
       (t.core core).phase = none ∧ (t.core core).latch = none ∧ (t.core core).hold = 0 ∧
       (t.core core).purse = (s.core core).purse + (s.core core).hold ∧
       (∀ c, c < numCtxs → (t.ctx core c).st = (if (s.ctx core c).st = .xhold then .ready else (s.ctx core c).st) ∧
         ((s.ctx core c).st = .stopped → (s.ctx core c).back = .xhold → (t.ctx core c).back = .ready)) ∧
       (∀ n c, n ≠ core → t.ctx n c = s.ctx n c) ∧ MemKept s t))

/-- R198 to R200 and R308: XMIT at its stamp sends its value, to reach the core that the outbound map names at phase cycle
c + 6 + 2 × hops; without a stamp, outside a phase, or under a map entry that does not name it a core of the domain, it raises
XSLOT. XSEL takes what arrives in its cycle, or zero with STAT.XEMPTY.
R200: a value that arrives alone is stored at its offset of the receiver's stall, or stands in its latch for that cycle. -/
def Obligations.ExchangeTransfers : Prop :=
  (∀ (f : Form) (s : State), Runs f 4 s → s.me.statBit bPFX = false →
    (∀ v n off, xmitValue f s.me = .ok (v, n) → xmitTarget f n s.me = .ok off →
      (∀ y r g, f.hint = .plain y r g → Traps (.xmit f) s cXSLOT (xslotVal s 0)) ∧
      (∀ c, f.hint = .stamp c → s.myCore.phase = none → Traps (.xmit f) s cXSLOT (xslotVal s c)) ∧
      (∀ c key who c0 l, f.hint = .stamp c → s.myCore.phase = some (key, who, c0) → s.launchOf (key / 8) = some l →
        c < lrXlen l.raw → s.clk = c0 + c →
        let e := s.stallRead s.cur.core (bits l.raw 432 16 + 2 * c) 2
        let dst := quadOf s.cur.core * 1024 + bits e 0 10
        let at_ := c + 6 + 2 * hops s.cur.core dst
        (bit e 15 = true → dst ∈ s.bellCores key → at_ < lrXlen l.raw → Gives (.xmit f) s fun t =>
          t.xvals.get s.nextId ⟨0, 0, 0, none, 0, 0⟩ = ⟨s.cur.core, dst, c0 + at_, off, n, v⟩ ∧
          (c0 + at_, Event.exchangeArrival s.nextId) ∈ t.due ∧ RegsKept {} s t ∧ MemKept s t ∧
          Completed (scalarWarn f true) (s.fall f) s t) ∧
        (bit e 15 = false ∨ dst ∉ s.bellCores key → Traps (.xmit f) s cXSLOT (xslotVal s c)))) ∧
    (∀ r, f.a = .scalar r → xmitValue f s.me = .ok ((s.me.sreg r).toNat, 8)) ∧
    (∀ w, f.d = .none → xmitTarget f w s.me = .ok none) ∧
    (∀ b x w, f.d = .la b x → (s.me.opAddr f.d).toNat < 0x10000 → (s.me.opAddr f.d).toNat % w = 0 →
      xmitTarget f w s.me = .ok (some (s.me.opAddr f.d).toNat)) ∧
    (∀ c key who c0 l, f.hint = .stamp c → s.myCore.phase = some (key, who, c0) → s.launchOf (key / 8) = some l →
      c < lrXlen l.raw → s.clk = c0 + c →
      let completes (t : State) : Prop := MemKept s t ∧ Completed (scalarWarn f true) (s.fall f) s t
      (∀ v, s.myCore.latch = some (s.clk, v) →
        (∀ r, f.d = .scalar r → Gives (.xsel f) s fun t =>
          Result f (v.setWidth 64) s t ∧ RegsKept { regs := [r] } s t ∧ completes t) ∧
        (∀ r e u, f.d = .vec r e → plainEntry s.me e = .ok u → Gives (.xsel f) s fun t =>
          t.me.vreg r = v ∧ RegsKept { vecs := [r] } s t ∧ completes t)) ∧
      (s.myCore.latch = none → ∀ r, f.d = .scalar r → Gives (.xsel f) s fun t =>
        Result f 0 s t ∧ t.me.statBit bXEMPTY = true ∧ RegsKept { regs := [r], stats := [bXEMPTY] } s t ∧ completes t)) ∧
    (∀ c r, f.hint = .stamp c → f.d = .scalar r → s.myCore.phase = none → Traps (.xsel f) s cXSLOT (xslotVal s c))) ∧
  (∀ (s : State) (id : Nat) (x : XVal), s.xvals = [(id, x)] →
    (∀ o, x.off = some o → Happens (.exchangeArrival id) s fun t =>
      t.stallRead x.dst o x.size = x.data % 2 ^ (8 * x.size) ∧ StallStore x.dst o x.size s t ∧ t.xvals = [] ∧
      ∀ n c r, (t.ctx n c).sreg r = (s.ctx n c).sreg r) ∧
    (x.off = none → Happens (.exchangeArrival id) s fun t =>
      (t.core x.dst).latch = some (x.cycle, BitVec.ofNat 512 x.data) ∧ MemKept s t ∧ t.xvals = [] ∧
      ∀ n c r, (t.ctx n c).sreg r = (s.ctx n c).sreg r))

/-- R310 to R313: BINIT writes an object; ARRIVE, once its earlier accesses are acknowledged, counts an arrival, advances the
phase at the last and loses one of another phase, with BOVR under STAT.BTRAP; BWAIT completes as soon as the phase is another, and
with TIMEOUT at once for a bound of 0, and else waits.
R313 and R190: a BWAIT whose bound has passed reads its object once more and completes with TIMEOUT, TOUTS raised, or with
OK; a REALIGN whose window has closed completes at its next turn. -/
def Obligations.BarrierObjects : Prop :=
  (∀ (f : Form) (s : State), Runs f 16 s → s.relWait = none →
    (∀ e, objectAt s (s.me.opAddr f.d) = .error e → Traps (.binit f) s e.1 e.2) ∧
    (∀ c o, objectAt s (s.me.opAddr f.d) = .ok (c, o) → Gives (.binit f) s fun t =>
      let n := bits (s.me.opU f.a).toNat 0 12
      let y := t.stallRead c o 16
      bits y 0 12 = 0 ∧ bits y 12 12 = max 1 n ∧ bits y 24 4 = bits (s.me.opU f.a).toNat 12 4 ∧ y < 2 ^ 28 ∧
      RegsKept { stats := [bORACE] } s t ∧ StallStore c o 16 s t ∧
      Completed (s.plainWarn f || decide (n = 0)) (s.fall f) s t) ∧
    (∀ e, objectAt s (s.me.opAddr f.a) = .error e → Traps (.arrive f) s e.1 e.2 ∧ Traps (.bwait f) s e.1 e.2) ∧
    (∀ c o, objectAt s (s.me.opAddr f.a) = .ok (c, o) → s.stallPoison c o 16 = none →
      let b := (s.me.opU f.b).toNat
      let n := max 1 (bits b 0 12)
      let x := s.stallRead c o 16
      (∀ st, (bits b 12 4 = bits x 24 4 ∧ bits x 0 12 + n < bits x 12 12 ∧ st = stOK) ∨
          (bits b 12 4 = bits x 24 4 ∧ bits x 0 12 + n = bits x 12 12 ∧ st = stCOMPLETE) ∨
          (bits b 12 4 = bits x 24 4 ∧ bits x 12 12 < bits x 0 12 + n ∧ s.me.statBit bBTRAP = false ∧ st = stOVERRUN) ∨
          (bits b 12 4 ≠ bits x 24 4 ∧ s.me.statBit bBTRAP = false ∧ st = stOVERRUN) →
        Gives (.arrive f) s fun t =>
          let y := t.stallRead c o 16
          (st = stOK → bits y 0 12 = bits x 0 12 + n ∧ bits y 24 4 = bits x 24 4) ∧
          (st = stCOMPLETE → bits y 0 12 = 0 ∧ bits y 24 4 = (bits x 24 4 + 1) % 16 ∧ bits y 32 14 = s.cur.core % 2 ^ 14) ∧
          (st = stOVERRUN → bit y 28 = true ∧ bits y 48 14 = if bit x 28 then bits x 48 14 else s.cur.core % 2 ^ 14) ∧
          (bits b 12 4 ≠ bits x 24 4 → bits y 0 12 = bits x 0 12 ∧ bits y 24 4 = bits x 24 4) ∧
          (bits b 12 4 = bits x 24 4 ∧ st = stOVERRUN → bits y 0 12 = 0 ∧ bits y 24 4 = (bits x 24 4 + 1) % 16) ∧
          bits y 12 12 = bits x 12 12 ∧
          Result f (BitVec.ofNat 64 (x % 2 ^ 32 * 2 ^ 32 + st)) s t ∧
          RegsKept { regs := [f.d.sreg], stats := [bORACE] } s t ∧
          StallStore c o 16 s t ∧ Completed (s.plainWarn f || decide (bits b 0 12 = 0)) (s.fall f) s t) ∧
      (bits b 12 4 ≠ bits x 24 4 ∨ bits x 12 12 < bits x 0 12 + n → s.me.statBit bBTRAP = true → s.me.tlvl < 2 →
        s.me.loads = [] → Gives (.arrive f) s fun t =>
          t.me.tlvl = s.me.tlvl + 1 ∧ t.me.srGet (rTCAUSE t.me.tlvl) = BitVec.ofNat 64 cBOVR ∧
          t.me.srGet (rTRET t.me.tlvl) = (s.me.loopEnd (s.fall f) 5).pc ∧ bit (t.stallRead c o 16) 28 = true ∧
          Result f (BitVec.ofNat 64 (x % 2 ^ 32 * 2 ^ 32 + stOVERRUN)) s t ∧ StallStore c o 16 s t) ∧
      (bits x 24 4 ≠ bits (s.me.opS f.b).toNat 0 4 → Gives (.bwait f) s fun t =>
        Result f (BitVec.ofNat 64 (x % 2 ^ 32 * 2 ^ 32 + stOK)) s t ∧ RegsKept { regs := [f.d.sreg] } s t ∧ MemKept s t ∧
        Completed (s.plainWarn f) (s.fall f) s t) ∧
      (bits x 24 4 = bits (s.me.opS f.b).toNat 0 4 → bits (s.me.opS f.b).toNat 16 32 = 0 → Gives (.bwait f) s fun t =>
        bits (t.stallRead c o 16) 64 16 = min 0xFFFF (bits x 64 16 + 1) ∧
        Result f (BitVec.ofNat 64 (x % 2 ^ 32 * 2 ^ 32 + stTIMEOUT)) s t ∧ StallStore c o 16 s t ∧
        RegsKept { regs := [f.d.sreg], stats := [bORACE] } s t ∧ Completed (s.plainWarn f) (s.fall f) s t) ∧
      (bits x 24 4 = bits (s.me.opS f.b).toNat 0 4 → bits (s.me.opS f.b).toNat 16 32 ≠ 0 → s.me.block = none →
        Gives (.bwait f) s fun t => Held .wait s t ∧
          (s.clk + bits (s.me.opS f.b).toNat 16 32, Event.bwaitTimeout s.cur.core s.cur.ctx) ∈ t.due))) ∧
  (∀ (s : State) (core c : Nat),
    (∀ dl bc off p d len since ph, (s.ctx core c).block = some ⟨.barrier dl bc off p d len, since, ph⟩ → dl ≤ s.clk →
      (s.ctx core c).st = .wait → (s.ctx core c).statBit bSTEP = false →
      let x := s.stallRead bc off 16
      let st := if bits x 24 4 = p then stTIMEOUT else stOK
      Happens (.bwaitTimeout core c) s fun t =>
        (d ≠ 0 → (t.ctx core c).sreg d = BitVec.ofNat 64 (x % 2 ^ 32 * 2 ^ 32 + st)) ∧ (t.ctx core c).block = none ∧
        (t.ctx core c).st = .ready ∧
        (t.ctx core c).pc = ((s.ctx core c).loopEnd ((s.ctx core c).pc + BitVec.ofNat 64 len) 5).pc ∧ (bits x 24 4 = p → bits (t.stallRead bc off 16) 64 16 = min 0xFFFF (bits x 64 16 + 1)) ∧
        StallStore bc off 16 s t ∧ ∀ n e r, ¬(n = core ∧ e = c) → (t.ctx n e).sreg r = (s.ctx n e).sreg r) ∧
    (∀ pc dl since, (s.ctx core c).block = some ⟨.realign pc dl, since, 0⟩ → dl ≤ s.clk → (s.ctx core c).st = .wait →
      Happens (.realignTimeout core c) s fun t =>
        (t.ctx core c).block = some ⟨.realign pc 0, since, 0⟩ ∧ (∀ r, (t.ctx core c).sreg r = (s.ctx core c).sreg r) ∧
        (∀ n e, ¬(n = core ∧ e = c) → t.ctx n e = s.ctx n e) ∧ MemKept s t))

/-! Loads, stores and atomics (spec/14_memory_track_copy_instructions.md R315 to R326). -/

/-- R316 and R317 through an LA (R16): a load of every size reads the stall, sign- or zero-extended; LDA does so as an acquire;
an LA that R16 or R19 refuses raises its fault.
R16: the own window gives the core's own stall and the super-group window another core of its 128; every other value is
LAFLT, and a misaligned one MISALIGN.
R316, R318 and R319 through an LA: a store of every size writes its low bytes to the stall, and no other byte of memory and
no register changes; STRL first waits for the context's earlier accesses (R147), and LDA for its earlier releases (R160). -/
def Obligations.LocalLoadsAndStores : Prop :=
  ((∀ (f : Form) (s : State), Runs f 16 s → f.a.isLa = true →
     let w := s.me.opAddr f.a
     (∀ (sz : LdSize) (n : Nat) (ext : Nat → Word), (sz, n) ∈ [(LdSize.bs, 1), (.bz, 1), (.hs, 2), (.hz, 2), (.w, 4), (.d, 8)] →
       (∀ v, ext v = match sz with
         | .bs => (BitVec.ofNat 8 v).signExtend 64
         | .hs => (BitVec.ofNat 16 v).signExtend 64
         | .w => (BitVec.ofNat 32 v).signExtend 64
         | _ => BitVec.ofNat 64 v) →
       (∀ e, checkLa s.cur.core w n n = .error e → Traps (.ld sz f) s e.1 e.2 ∧ Traps (.ldl sz f) s e.1 e.2) ∧
       (∀ c o, checkLa s.cur.core w n n = .ok (c, o) → s.stallPoison c o n = none →
         Writes (.ld sz f) f s (ext (s.stallRead c o n)) ∧ Writes (.ldl sz f) f s (ext (s.stallRead c o n)))) ∧
     (∀ (dbl : Bool) c o, checkLa s.cur.core w (if dbl then 8 else 4) (if dbl then 8 else 4) = .ok (c, o) →
       s.stallPoison c o (if dbl then 8 else 4) = none → s.relsOut = [] → Gives (.lda dbl f) s fun t =>
         Result f (if dbl then BitVec.ofNat 64 (s.stallRead c o 8) else (BitVec.ofNat 32 (s.stallRead c o 4)).signExtend 64) s t ∧
         RegsKept { regs := [f.d.sreg] } s t ∧ MemKept s t ∧ Completed (s.plainWarn f) (s.fall f) s t)) ∧
   (∀ (core : Nat) (w : Word) (n : Nat), n ∈ [1, 2, 4, 8, 16, 64] → core < numCores →
     let v := w.toNat
     (v < 0x10000 → v % n = 0 → checkLa core w n n = .ok (core, v)) ∧
     (0x800000 ≤ v → v < 0x1000000 → v % n = 0 →
       checkLa core w n n = .ok (core / 128 * 128 + v / 65536 % 128, v % 65536)) ∧
     (0x10000 ≤ v → v < 0x800000 → checkLa core w n n = .error (cLAFLT, v)) ∧
     (0x1000000 ≤ v → checkLa core w n n = .error (cLAFLT, v)) ∧
     (v < 0x10000 ∨ 0x800000 ≤ v ∧ v < 0x1000000 → v % n ≠ 0 → checkLa core w n n = .error (cMISALIGN, v)))) ∧
  (∀ (f : Form) (s : State), Runs f 16 s → f.d.isLa = true →
     let w := s.me.opAddr f.d
     let stores (i : Instr) (n : Nat) : Prop :=
       ∀ c o, checkLa s.cur.core w n n = .ok (c, o) → Gives i s fun t =>
         t.stallRead c o n = (s.me.opS f.a).toNat % 2 ^ (8 * n) ∧ StallStore c o n s t ∧ RegsKept { stats := [bORACE] } s t ∧
         Completed (s.plainWarn f) (s.fall f) s t
     (∀ p ∈ [(StSize.b, 1), (.h, 2), (.w, 4), (.d, 8)],
       stores (.st p.1 f) p.2 ∧ stores (.stl p.1 f) p.2 ∧
       (∀ e, checkLa s.cur.core w p.2 p.2 = .error e → Traps (.st p.1 f) s e.1 e.2 ∧ Traps (.stl p.1 f) s e.1 e.2)) ∧
     (s.relWait = none → stores (.strl false f) 4 ∧ stores (.strl true f) 8) ∧
     (s.myCore.storesOut s.cur.ctx = true → ∀ p, checkLa s.cur.core w 8 8 = .ok p → Gives (.strl true f) s fun t =>
       Held .ready s t))

/-- R316, R317 and R93: a load at a virtual address is served from C1 where every word is valid there and no load under way has the
line; otherwise a request leaves for the home, and the context goes on behind it, the instruction complete, where the load will
find its value as things stand (log entry 16), or else holds its instruction until the answer.
R318 and R325: a store at a virtual address takes the lowest free journal entry and completes, its request on the way; with
the journal full it is held at issue. -/
def Obligations.GlobalAccesses : Prop :=
  (∀ (f : Form) (s : State) (sz : LdSize) (n : Nat), Runs f 40 s → f.a.isLa = false →
    (sz, n) ∈ [(LdSize.bs, 1), (.bz, 1), (.hs, 2), (.hz, 2), (.w, 4), (.d, 8)] →
    let w := s.me.opAddr f.a
    let va := w.toNat % 2 ^ 56
    let hit := s.myCore.c1Line s.me.asid (va / 64)
    let el := scalarElem w n 0
    (∀ e, s.checkVa s.me.vf w n = .error e → Traps (.ld sz f) s e.1 e.2 ∧ Traps (.ldl sz f) s e.1 e.2) ∧
    (s.checkVa s.me.vf w n = .ok (.virt va) → va < meshBase →
      (∀ c v, hit = some c → c.serves va n = true → c.read va n = (v, false) → s.loadUnder s.me [el] = false →
        Writes (.ld sz f) f s (if sz = .bz ∨ sz = .hz then BitVec.ofNat 64 v else sxWord (8 * n) v)) ∧
      ((hit = none ∨ (∃ c, hit = some c ∧ c.serves va n = false) ∨ s.loadUnder s.me [el] = true) →
        ∀ i ∈ [Instr.ld sz f, .ldl sz f], Gives i s fun t =>
        (∃ r, t.reqs.find? (·.1 == s.nextId) = some (s.nextId, r) ∧ r.core = s.cur.core ∧ r.ctx = s.cur.ctx ∧ r.op = .load ∧
          r.els.map (·.va) = [va] ∧ r.els.map (·.size) = [n] ∧ r.done = false) ∧
        (∃ k, (k, Event.c2Request s.nextId) ∈ t.due) ∧ RegsKept {} s t ∧ MemKept s t ∧
        (s.foreseen s.cur.core s.me.asid .rd el = true →
          (∃ d, t.me.loads = s.me.loads ++ [(s.nextId, d, s.me.pc)]) ∧ Completed (s.plainWarn f) (s.fall f) s t) ∧
        (s.foreseen s.cur.core s.me.asid .rd el = false →
          (∃ since, t.me.block = some ⟨.reply s.nextId, since, 1⟩) ∧ t.me.pc = s.me.pc)))) ∧
  (∀ (f : Form) (s : State), Runs f 40 s → f.d.isLa = false →
    let w := s.me.opAddr f.d
    let va := w.toNat % 2 ^ 56
    ∀ p ∈ [(StSize.b, 1, 0), (.h, 2, 1), (.w, 4, 2), (.d, 8, 3)],
      (∀ e, s.checkVa s.me.vf w p.2.1 = .error e → Traps (.st p.1 f) s e.1 e.2 ∧ Traps (.stl p.1 f) s e.1 e.2) ∧
      (∀ q, s.checkVa s.me.vf w p.2.1 = .ok q → s.myCore.freeEntry = none → Gives (.st p.1 f) s fun t => Held .ready s t) ∧
      (s.checkVa s.me.vf w p.2.1 = .ok (.virt va) → va < meshBase → ∀ j, s.myCore.freeEntry = some j →
        ∀ i ∈ [Instr.st p.1 f, .stl p.1 f], Gives i s fun t =>
          (∃ e, (t.core s.cur.core).journal.find? (·.1 == j) = some (j, e) ∧ e.state = 1 ∧ e.va = extend56 va ∧
            e.data = BitVec.ofNat 64 ((s.me.opS f.a).toNat % 2 ^ (8 * p.2.1)) ∧ e.size = p.2.2 ∧ e.ctx = s.cur.ctx) ∧
          (∃ r, t.reqs.find? (·.1 == s.nextId) = some (s.nextId, r) ∧ r.op = .store ∧ r.jidx = some j ∧ r.els.map (·.va) = [va]) ∧
          RegsKept {} s t ∧ MemKept s t ∧ Completed (s.plainWarn f) (s.fall f) s t))

/-- R320 and R321 through an LA, once the context's earlier accesses are performed: the new value that every atomic leaves, and
the old value, sign-extended, that every one but STORE writes to D. R145: .ACQ of a store, .REL of a load and .REL of a CAS that
fails set STAT.WARN. -/
def Obligations.LocalAtomicResults : Prop :=
  ∀ (f : Form) (s : State) (dbl : Bool) (ord : MemOrd), Runs f 16 s → f.a.isLa = true →
    s.relWait = none → s.relsOut = [] →
    let n := if dbl then 8 else 4
    ∀ c o, checkLa s.cur.core (s.me.opAddr f.a) n n = .ok (c, o) → s.stallPoison c o n = none →
      let x := s.stallRead c o n
      let b := (s.me.opS f.b).toNat % 2 ^ (8 * n)
      let signed (v : Nat) : Int := if v < 2 ^ (8 * n - 1) then v else (v : Int) - 2 ^ (8 * n)
      let old : Word := if dbl then BitVec.ofNat 64 x else (BitVec.ofNat 32 x).signExtend 64
      let gives (i : Instr) (new : Nat) (warns : Bool) : Prop := Gives i s fun t =>
        t.stallRead c o n = new % 2 ^ (8 * n) ∧ Result f old s t ∧ RegsKept { regs := [f.d.sreg], stats := [bORACE] } s t ∧
        StallStore c o n s t ∧ Completed (s.plainWarn f || warns) (s.fall f) s t
      let rmw (i : Instr) (new : Nat) : Prop := gives i new false
      let expects : Prop := x = (s.me.opS f.d).toNat % 2 ^ (8 * n)
      rmw (.atomSwap dbl ord f) b ∧ rmw (.atomAdd dbl ord f) (x + b) ∧ rmw (.atomAnd dbl ord f) (x &&& b) ∧
      rmw (.atomOr dbl ord f) (x ||| b) ∧ rmw (.atomXor dbl ord f) (x ^^^ b) ∧
      rmw (.atomMin dbl ord f) (if signed x ≤ signed b then x else b) ∧
      rmw (.atomMax dbl ord f) (if signed x ≤ signed b then b else x) ∧
      rmw (.atomMinn dbl ord f) (if x ≤ b then x else b) ∧ rmw (.atomMaxn dbl ord f) (if x ≤ b then b else x) ∧
      gives (.atomLoad dbl ord f) x (ord == .rel) ∧ (expects → rmw (.cas dbl ord f) b) ∧
      (¬expects → gives (.cas dbl ord f) x (ord == .rel)) ∧
      (Gives (.atomStore dbl ord f) s fun t =>
        t.stallRead c o n = b ∧ RegsKept { stats := [bORACE] } s t ∧ StallStore c o n s t ∧
        Completed (s.plainWarn f || ord == .acq) (s.fall f) s t)

/-- R322 to R325 and R41: FENCE, once its context's accesses are acknowledged, and C1INV without A clear the words of C1 that are not owned;
LBSYNC with no loop-back access, PREF and C1INV of a line complete; JRD gives a journal entry's words, 0 for a free entry and
for one that a helper may not see. -/
def Obligations.FencesAndJournalReads : Prop :=
  ∀ (f : Form) (s : State),
    (Runs f 4 s →
      (s.relWait = none → Gives (.fence f) s fun t =>
        (t.core s.cur.core).c1 = s.myCore.c1Acquire.c1 ∧ RegsKept {} s t ∧ MemKept s t ∧
        Completed (s.plainWarn f) (s.fall f) s t) ∧
      (s.loopBackOut s.cur.core s.cur.ctx = false → Branches (.lbsync f) f s {} (s.fall f)) ∧
      (s.loopBackOut s.cur.core s.cur.ctx = true → Gives (.lbsync f) s fun t => Held .ready s t) ∧
      (Gives (.c1inv f) s fun t =>
        (f.a = .none → (t.core s.cur.core).c1 = s.myCore.c1Acquire.c1) ∧
        (f.a ≠ .none → ∀ l ∈ (t.core s.cur.core).c1, l.asid = s.me.asid →
          l.vline = (s.me.opAddr f.a).toNat % 2 ^ 56 / 64 → ∀ w, w < 16 → bit l.valid w = true → bit l.owned w = true) ∧
        RegsKept {} s t ∧ MemKept s t ∧ Completed (s.plainWarn f) (s.fall f) s t) ∧
      (let i := fieldOf (s.me.opS f.a) 0 6
       let seen (e : JEntry) : Prop := s.cur.ctx = 0 ∨ e.ctx = s.cur.ctx
       (∀ e, s.myCore.journal.find? (·.1 == i) = some (i, e) → seen e →
         (f.b.immU = 0 → Writes (.jrd f) f s e.va) ∧ (f.b.immU = 1 → Writes (.jrd f) f s e.data) ∧
         (f.b.immU = 2 → Writes (.jrd f) f s (BitVec.ofNat 64 (jStatus e)))) ∧
       (f.b.immU ≤ 2 → (s.myCore.journal.find? (·.1 == i) = none ∨
         ∃ e, s.myCore.journal.find? (·.1 == i) = some (i, e) ∧ ¬seen e) → Writes (.jrd f) f s 0) ∧
       (3 ≤ f.b.immU → Traps (.jrd f) s cILLEGAL (s.me.pc + BitVec.ofNat 64 (4 * (f.npfx + 2))).toNat))) ∧
    (Runs f (if f.a.isLa then 16 else 40) s → f.b.immU ≤ 1 → Gives (.pref f) s fun t =>
      RegsKept {} s t ∧ MemKept s t ∧ Completed (s.plainWarn f) (s.fall f) s t)

/-- R72, R90 and R93: a load's request that finds its line at the home is answered with the line's bytes, and its response is
due; memory keeps every byte but those of the page's entry in the heat table.
R14: a request that reaches a stall by the mesh is performed at its bank.
R73, R80 and R85: a fill of a local page that no old line, no full quota and no want of tokens hinder installs the line with
memory's bytes at its home and counts in C2FILLS of its requester; R450: a back-invalidate of a line of the expansion tier leaves no copy. -/
def Obligations.HomeRequestsAndFills : Prop :=
  (∀ (s : State) (id : Nat) (r : Req) (e : Elem), s.reqs.find? (·.1 == id) = some (id, r) → r.els = [e] → r.all = [e] →
     r.got = [] → r.fault = none → r.done = false → r.jidx = none → e.mask = 2 ^ (8 * e.size) - 1 → e.size ∈ [2, 4, 8] →
     (∀ l, r.op = .load → e.va < meshBase → e.va % 64 + e.size ≤ 64 → s.held = [] → s.fills = [] →
       s.behind id r = false → s.c2Line (s.firstHome r.core r.asid e.va) r.asid (e.va / 64) = some l → l.rd = true → l.psn = 0 →
       Happens (.c2Request id) s fun t =>
         (∃ q, t.reqs.find? (·.1 == id) = some (id, q) ∧ q.done = true ∧ q.fault = none ∧
           q.got = [(e.lane, bits l.data.toNat (8 * (e.va % 64)) (8 * e.size))]) ∧
         (∃ k, (k, Event.loadResponse id) ∈ t.due) ∧
         (let slot := heatSlot s.pkg.heatBase (l.pline * 64 / 65536)
          ∀ a, (a < slot ∨ slot + 4 ≤ a) → memByte t.mem a = memByte s.mem a) ∧ ∀ n c x, (t.ctx n c).sreg x = (s.ctx n c).sreg x) ∧
     (let core := (e.va - meshBase) / 65536
      let off := e.va % 65536
      meshBase ≤ e.va → s.stallPoison core off e.size = none → off + e.size ≤ 65536 →
       (r.op = .load → Happens (.meshWindowArrival id) s fun t =>
         (∃ q, t.reqs.find? (·.1 == id) = some (id, q) ∧ q.done = true ∧ q.got = [(e.lane, s.stallRead core off e.size)]) ∧
         MemKept s t) ∧
       (r.op = .store → Happens (.meshWindowArrival id) s fun t =>
         t.stallRead core off e.size = e.data % 2 ^ (8 * e.size) ∧ StallStore core off e.size s t))) ∧
  ((∀ (s : State) (k : Nat) (f : Fill), s.fills.find? (·.1 == k) = some (k, f) → f.tr.fab = false → f.waiters = [] →
     let pl := f.tr.pa (f.vline * 64) / 64
     s.fillWaits f.slice f.asid (f.vline * 64) f.vf f.tr = false → s.c2Line f.slice f.asid f.vline = none →
     s.remapOf pl f.asid f.vline = [] → s.victim f.slice f.asid f.vline f.vf f.tr.cls = some none →
     Happens (.c2FillArrival k) s fun t =>
       (∃ l, t.c2Line f.slice f.asid f.vline = some l ∧ l.pline = pl ∧ l.dirty = false ∧
         l.data = BitVec.ofNat 512 (memRead s.mem (l.pline * 64) 64) ∧ l.rd = f.tr.rd ∧ l.wr = f.tr.wr ∧ l.ex = f.tr.ex ∧
         l.vf = f.vf ∧ l.core = f.core ∧ l.ctx = f.ctx) ∧
       (t.ctx f.core f.ctx).srGet rC2FILLS = (s.ctx f.core f.ctx).srGet rC2FILLS + 1 ∧
       t.fills.find? (·.1 == k) = none ∧ t.mem = s.mem) ∧
   (∀ (s : State) (pa : Nat), inCxl pa 1 = true →
     (∀ l, s.lineOf pa = some l → l.pins = 0 → s.canWriteBack l = true → (∀ m ∈ s.c2, m.pline = l.pline → m.same l = true) →
       Happens (.backInvalidate pa) s fun t =>
         t.lineOf pa = none ∧ (l.dirty = true → memRead t.mem (l.pline * 64) 64 = l.data.toNat) ∧
         (l.dirty = false → t.mem = s.mem)) ∧
     (s.lineOf pa = none → Happens (.backInvalidate pa) s fun t => t.mem = s.mem ∧ t.c2 = s.c2)))

/-- R317, R28, R148, R326 and R420: a load's response completes the instruction that it holds with the value, or takes its fault;
where the context has gone on behind the load (log entry 16), it writes the value alone, or the fault is taken at the load. A
store's acknowledgement frees its journal entry; a refusal marks the entry and makes the trap of its context due. -/
def Obligations.ResponsesCompleteAccesses : Prop :=
  ∀ (s : State) (id : Nat) (r : Req), s.reqs.find? (·.1 == id) = some (id, r) → r.done = true →
    let x := s.ctx r.core r.ctx
    (∀ since ph d n sg v, x.block = some ⟨.reply id, since, ph⟩ → x.loads.find? (·.1 == id) = none → x.statBit bSTEP = false →
      r.dst = .scalar d n sg → r.got = [(0, v)] → r.fault = none → Happens (.loadResponse id) s fun t =>
        let y := t.ctx r.core r.ctx
        (∀ k, y.sreg k = if k = d ∧ k ≠ 0 then (if sg then sxWord (8 * n) v else BitVec.ofNat 64 v) else x.sreg k) ∧
        y.block = none ∧
        y.pc = (x.loopEnd (x.pc + BitVec.ofNat 64 r.len) 5).pc ∧ (t.reqs.find? (·.1 == id)) = none ∧ MemKept s t ∧
        ∀ n c, ¬(n = r.core ∧ c = r.ctx) → t.ctx n c = s.ctx n c) ∧
    (∀ d n sg v, (∃ l, x.loads.find? (·.1 == id) = some l) → r.dst = .scalar d n sg → r.got = [(0, v)] → r.fault = none →
      Happens (.loadResponse id) s fun t =>
        let y := t.ctx r.core r.ctx
        (∀ k, y.sreg k = if k = d ∧ k ≠ 0 then (if sg then sxWord (8 * n) v else BitVec.ofNat 64 v) else x.sreg k) ∧
        y.loads = x.loads.filter (·.1 != id) ∧ y.block = x.block ∧ y.pc = x.pc ∧ (t.reqs.find? (·.1 == id)) = none ∧
        MemKept s t ∧ ∀ n c, ¬(n = r.core ∧ c = r.ctx) → t.ctx n c = s.ctx n c) ∧
    (∀ d w i v, (∃ l, x.loads.find? (·.1 == id) = some l) → r.dst = .vec d w [] → r.got = [(i, v)] → w * i + w ≤ 512 → r.fault = none →
      Happens (.loadResponse id) s fun t =>
        let y := t.ctx r.core r.ctx
        lane (y.vreg d) w i = v % 2 ^ w ∧ (∀ j, j ≠ i → w * j + w ≤ 512 → lane (y.vreg d) w j = lane (x.vreg d) w j) ∧
        (∀ k, k ≠ d → y.vreg k = x.vreg k) ∧ (∀ k, y.sreg k = x.sreg k) ∧ y.loads = x.loads.filter (·.1 != id) ∧
        y.block = x.block ∧ y.pc = x.pc ∧ MemKept s t) ∧
    (∀ l code v, x.loads.find? (·.1 == id) = some l → r.fault = some (code, v) → (∀ k, r.dst ≠ .doneBit k) →
      Happens (.loadResponse id) s fun t =>
        t = ({ s with reqs := s.reqs.erase id, ev := .loadResponse id } : State).enterTrap r.core r.ctx
          (causeWord code false 0 0 0 0) (BitVec.ofNat 64 v) l.2.2) ∧
    (∀ since ph code v, x.block = some ⟨.reply id, since, ph⟩ → x.loads.find? (·.1 == id) = none → r.fault = some (code, v) →
      (∀ k, r.dst ≠ .doneBit k) → Happens (.loadResponse id) s fun t =>
        t = ({ s with reqs := s.reqs.erase id, ev := .loadResponse id } : State).enterTrap r.core r.ctx
          (causeWord code false 0 0 0 0) (BitVec.ofNat 64 v) x.pc) ∧
    (∀ j, r.jidx = some j → r.fault = none → (∀ e, (s.core r.core).journal.find? (·.1 == j) = some (j, e) → e.owed = none) →
      Happens (.storeAcknowledge id) s fun t =>
      (t.core r.core).journal.find? (·.1 == j) = none ∧ (∀ i, i ≠ j → (t.core r.core).journal.find? (·.1 == i) =
        (s.core r.core).journal.find? (·.1 == i)) ∧ MemKept s t) ∧
    (∀ j e code v, r.jidx = some j → r.fault = some (code, v) → (s.core r.core).journal.find? (·.1 == j) = some (j, e) →
      e.orphan = false → (∀ k, x.block ≠ some k) → Happens (.storeRefusal id) s fun t =>
        (t.core r.core).journal.find? (·.1 == j) = some (j, { e with state := 2, cause := code }) ∧
        (t.ctx r.core r.ctx).refusal = true ∧ (t.ctx r.core r.ctx).pc = x.pc ∧ MemKept s t)

/-! Tracks (spec/14_memory_track_copy_instructions.md R328 to R334; spec/02_stall_and_tracks.md R43 to R66). -/

/-- R330 to R334, once motions are charged up to this cycle (R51): a context that does not own the track raises TRKOWN;
TSEEK and TREW set the architected head and begin the motion, or queue it behind earlier accesses; an access is queued with the
head that it addresses, a stepping form moving the architected head, and holds its context until it completes; on a still, seated
and aligned track with nothing queued before it and the port free, every access completes at its start and its completion, with
the word under the port read or written. THEAD reads the head; TSYNC waits for a still track, and completes under the ownership
that it was accepted under (R53); TOWN gives its statuses and moves the ownership of its range, a recover once the operations
accepted on it are over (R55). -/
def Obligations.TrackInstructions : Prop :=
  ∀ (f : Form) (s : State),
    let core := s.cur.core
    let c := s.cur.ctx
    let u := s.settleAll core
    let owned (n : Nat) : Prop := u.ownsTrack core c n false = true
    let rest (n : Nat) (t : State) : Prop :=
      (∀ k, k ≠ n → t.track core k = u.track core k) ∧ (∀ m d, ¬(m = core ∧ d = c) → t.ctx m d = u.ctx m d) ∧ MemKept u t
    let notOwner (i : Instr) (n : Nat) : Prop := u.ownsTrack core c n false = false → s.me.loads = [] →
      exec i s = .next (u.enterTrap core c (causeWord cTRKOWN false 0 0 0 0)
        (BitVec.ofNat 64 (n + 256 * (u.track core n).head)) s.me.pc)
    let seeks (i : Instr) (n a : Nat) : Prop := owned n → Gives i s fun t =>
      (t.track core n).head = a ∧
      let waits := (u.track core n).queue ≠ [] ∨ ∃ m, (u.track core n).motion = some m ∧ m.step = true
      (¬waits →
        (t.track core n).motion = some ⟨(u.track core n).phys, a, s.clk, 0, c, false, false⟩ ∧ (t.track core n).queue = [] ∧
        (s.clk + 2 * ((a : Int) - (u.track core n).phys).natAbs, Event.trackMotionEnd core n) ∈ t.due) ∧
      (waits → (t.track core n).motion = (u.track core n).motion ∧
        (t.track core n).queue = (u.track core n).queue ++ [⟨s.nextId, .seek, 0, a, c, none, .none, 0⟩]) ∧
      rest n t ∧ RegsKept {} u t ∧ Completed (s.plainWarn f) (s.fall f) s t
    let queues (i : Instr) (o : Operand) (act : TrkAct) (step : Bool) (d : Dst) : Prop := owned o.num → Gives i s fun t =>
      let tr := u.track core o.num
      (t.track core o.num).queue = tr.queue ++ [⟨s.nextId, act, o.port, tr.head, c, none, d, formLen f⟩] ∧
      (t.track core o.num).head = (if step then (if o.down then tr.head - 1 else min 255 (tr.head + 1)) else tr.head) ∧
      (t.core core).words = (u.core core).words ∧ (∃ since, t.me.block = some ⟨.track o.num s.nextId, since, 1⟩) ∧
      t.me.pc = s.me.pc ∧ rest o.num t ∧ RegsKept {} u t
    let clear (n : Nat) : Prop :=
      let tr := u.track core n
      tr.queue = [] ∧ tr.motion = none ∧ tr.probe = none ∧ tr.started = false ∧ tr.unseat = false ∧ tr.phys = tr.head ∧
      tr.slip % 8 = 0 ∧ u.ownsTrack core c n false = true ∧ (s.core core).portAt ≤ s.clk
    let under (n port p : Nat) : Prop := 256 * port + (u.track core n).head + (u.track core n).slip = (p : Int) ∧ p < 1024
    let word (k : Nat) : BitVec 32 := (u.core core).words.get k 0
    let accesses (n : Nat) : List Event := [.trackAccessStart core n, .trackAccessComplete core n]
    (Runs f 8 s →
      (∀ p, clear f.a.num → under f.a.num f.a.port p → (u.core core).badWords.contains (1024 * f.a.num + p) = false →
        ∀ i ∈ [Instr.trd f, .trds f], CompletesBy i (accesses f.a.num) s fun t =>
          Result f ((word (1024 * f.a.num + p)).setWidth 64) u t ∧ (t.core core).words = (u.core core).words ∧
          RegsKept { regs := [f.d.sreg] } u t ∧ MemKept u t ∧ Completed (s.plainWarn f) (s.fall f) u t) ∧
      (∀ p, clear f.d.num → under f.d.num f.d.port p → ∀ i ∈ [Instr.twr f, .twrs f], CompletesBy i (accesses f.d.num) s fun t =>
        (∀ k, (t.core core).words.get k 0 = if k = 1024 * f.d.num + p then (s.me.opS f.a).setWidth 32 else word k) ∧
        RegsKept {} u t ∧ MemKept u t ∧ Completed (s.plainWarn f) (s.fall f) u t) ∧
      notOwner (.trd f) f.a.num ∧ notOwner (.twr f) f.d.num ∧
      queues (.trd f) f.a (.read false f.a.down) false (.scalar f.d.sreg 4 false) ∧
      queues (.trds f) f.a (.read true f.a.down) true (.scalar f.d.sreg 4 false) ∧
      queues (.twr f) f.d (.write false f.d.down ((s.me.opS f.a).toNat % 2 ^ 32)) false .none ∧
      queues (.twrs f) f.d (.write true f.d.down ((s.me.opS f.a).toNat % 2 ^ 32)) true .none) ∧
    (Runs f 4 s →
      notOwner (.tseek f) f.d.num ∧ notOwner (.trew f) f.d.num ∧ notOwner (.thead f) f.a.num ∧
      ((s.me.opU f.a).toNat ≤ 255 → seeks (.tseek f) f.d.num (s.me.opU f.a).toNat) ∧
      (owned f.d.num → 255 < (s.me.opU f.a).toNat → s.me.loads = [] → exec (.tseek f) s = .next (u.enterTrap core c
        (causeWord cTRKRANGE false 0 0 0 0) (BitVec.ofNat 64 (f.d.num + 256 * (u.track core f.d.num).head)) s.me.pc)) ∧
      seeks (.trew f) f.d.num 0 ∧
      (owned f.a.num → Gives (.thead f) s fun t =>
        Result f (BitVec.ofNat 64 (u.track core f.a.num).head) s t ∧ Kept { regs := [f.d.sreg] } u t ∧
        Completed (s.plainWarn f) (s.fall f) s t) ∧
      (notOwner (.tsync f) f.d.num ∨ s.syncing f.d.num = true) ∧
      (owned f.d.num ∨ s.syncing f.d.num = true →
        ((u.track core f.d.num).idle = true → (u.track core f.d.num).unseat = false → Gives (.tsync f) s fun t =>
          Kept {} u t ∧ Completed (s.plainWarn f) (s.fall f) s t) ∧
        ((u.track core f.d.num).idle = false → Gives (.tsync f) s fun t =>
          (∃ since, t.me.block = some ⟨.trackStill f.d.num, since, 0⟩) ∧ t.me.pc = s.me.pc ∧ Kept {} u t))) ∧
    (Runs f 128 s →
      let reads (i : Instr) (o v : Operand) (p : Pos) (act : TrkAct) (d : Dst) : Prop :=
        ∀ e g, o.num % 16 = 0 → v.entry = some e → f.b = .none → plainEntry s.me ((s.me.pfxEntry p).getD e) = .ok g →
          (∀ k, k < 16 → owned (o.num + k)) → Gives i s fun t =>
            (∀ k, k < 16 → (t.track core (o.num + k)).queue = (u.track core (o.num + k)).queue ++
              [⟨s.nextId, if k = 0 then act else .member o.num, o.port, (u.track core (o.num + k)).head, c, none, d, formLen f⟩]) ∧
            (∃ since, t.me.block = some ⟨.track o.num s.nextId, since, 1⟩) ∧ t.me.pc = s.me.pc ∧
            (t.core core).words = (u.core core).words ∧ RegsKept {} u t ∧ MemKept u t
      let all (n : Nat) : List Event := (List.range 16).map (fun k => Event.trackAccessStart core (n + k)) ++ [.trackAccessComplete core n]
      let plain (o v : Operand) (p : Pos) : Prop :=
        o.num % 16 = 0 ∧ f.b = .none ∧ ∃ e g, v.entry = some e ∧ plainEntry s.me ((s.me.pfxEntry p).getD e) = .ok g
      (∀ p : Nat → Nat, plain f.a f.d .d → (∀ k, k < 16 → clear (f.a.num + k) ∧ under (f.a.num + k) f.a.port (p k) ∧
          (u.core core).badWords.contains (1024 * (f.a.num + k) + p k) = false) →
        CompletesBy (.trdv f) (all f.a.num) s fun t =>
          (∀ k, k < 16 → lane (t.me.vreg f.d.num) 32 k = (word (1024 * (f.a.num + k) + p k)).toNat) ∧
          (t.core core).words = (u.core core).words ∧ RegsKept { vecs := [f.d.num] } u t ∧ MemKept u t ∧
          t.me.pc = (s.me.loopEnd (s.fall f) 5).pc ∧ t.me.block = none) ∧
      (∀ p : Nat → Nat, plain f.d f.a .a → (∀ k, k < 16 → clear (f.d.num + k) ∧ under (f.d.num + k) f.d.port (p k)) →
        CompletesBy (.twrv f) (all f.d.num) s fun t =>
          (∀ j, (∀ k, k < 16 → j = 1024 * (f.d.num + k) + p k →
              ((t.core core).words.get j 0).toNat = lane (s.me.vreg f.a.num) 32 k) ∧
            ((∀ k, k < 16 → j ≠ 1024 * (f.d.num + k) + p k) → (t.core core).words.get j 0 = word j)) ∧
          RegsKept {} u t ∧ MemKept u t ∧ t.me.pc = (s.me.loopEnd (s.fall f) 5).pc ∧ t.me.block = none) ∧
      reads (.trdv f) f.a f.d .d .readV (.vec f.d.num 32 []) ∧
      reads (.twrv f) f.d f.a .a (.writeV (s.me.vreg f.a.num)) .none) ∧
    (Runs f 4 s → s.me.block = none → c ≠ 0 → Traps (.town f) s cCTXPERM 0) ∧
    (Runs f 4 s → s.me.block = none → c = 0 →
      let a := (s.me.opS f.a).toNat
      let b := (s.me.opS f.b).toNat
      let h := bits a 0 4
      let first := bits b 0 8
      let n := bits b 8 8 + 1
      let inRange (k : Nat) : Prop := first ≤ k ∧ k < first + n
      let moves (owner : Nat) : Prop := Gives (.town f) s fun t =>
        (∀ k, (t.track core k) = if inRange k then { s.track core k with owner := owner } else s.track core k) ∧
        Result f 0 s t ∧ RegsKept { regs := [f.d.sreg] } s t ∧ MemKept s t ∧ Completed (s.plainWarn f) (s.fall f) s t
      let recovers : Prop := Gives (.town f) s fun t =>
        (∀ k, (t.track core k) = if inRange k then { u.track core k with owner := 0 } else u.track core k) ∧
        Result f 0 u t ∧ RegsKept { regs := [f.d.sreg] } u t ∧ MemKept u t ∧ Completed (s.plainWarn f) (s.fall f) u t
      (256 < first + n → Writes (.town f) f s 4) ∧
      (first + n ≤ 256 → h = 0 ∨ 10 < h → Writes (.town f) f s 1) ∧
      (first + n ≤ 256 → 1 ≤ h → h ≤ 10 → bit a 8 = false →
        ((s.ctx core h).st = .drain ∨ (s.ctx core h).st = .saved → Writes (.town f) f s 1) ∧
        ((s.ctx core h).st ≠ .drain → (s.ctx core h).st ≠ .saved →
          ((∃ k, inRange k ∧ s.ownsTrack core 0 k false = false) → Writes (.town f) f s 2) ∧
          ((∀ k, inRange k → s.ownsTrack core 0 k false = true) →
            ((∃ k, inRange k ∧ (s.track core k).susp = true) → Writes (.town f) f s 3) ∧
            ((∀ k, inRange k → (s.track core k).susp = false) → moves h)))) ∧
      (first + n ≤ 256 → 1 ≤ h → h ≤ 10 → bit a 8 = true →
        ((∃ k, inRange k ∧ s.ownsTrack core h k false = false) → Writes (.town f) f s 2) ∧
        ((∀ k, inRange k → s.ownsTrack core h k false = true) →
          ((∀ k, inRange k → (u.track core k).idle = true) → recovers) ∧
          ((∃ k, inRange k ∧ (u.track core k).idle = false) → Gives (.town f) s fun t =>
            (∃ since, t.me.block = some ⟨.recover first n, since, 1⟩) ∧ t.me.pc = s.me.pc ∧
            (∀ k, t.track core k = u.track core k) ∧ RegsKept {} u t ∧ MemKept u t))))

/-- R47, R51 and R65: a motion that has covered its distance ends with the track at its target and every position charged to the
context that began it; one that was under way before a restore leaves the track unseated. R48 and R57: an access of a still track starts with the test of the position code. R58: a probing that
matches moves the track by its displacement and is charged. R332: the access at the head of the queue reads or writes the word
under its port, and its context completes. R62: an uncorrectable word raises TRKECC. R59: the counts begin anew each 10 ms. -/
def Obligations.TrackEvents : Prop :=
  ∀ (s : State) (core n : Nat),
    let tr := s.track core n
    let after (e : Event) (P : State → Prop) : Prop := Happens e s fun t =>
      P t ∧ (∀ k, k ≠ n → t.track core k = s.track core k) ∧ MemKept s t
    (∀ m, tr.motion = some m →
      let d := ((m.target : Int) - m.from_).natAbs
      m.done ≤ d → m.since + 2 * d ≤ s.clk → after (.trackMotionEnd core n) fun t =>
        t.track core n = { tr with motion := none, phys := m.target, unseat := tr.unseat && m.old } ∧
        (t.ctx core m.ctx).srGet rSHCHG = (s.ctx core m.ctx).srGet rSHCHG + BitVec.ofNat 64 (d - m.done) ∧
        (t.core core).words = (s.core core).words) ∧
    (∀ op rest, tr.queue = op :: rest → tr.started = false → tr.motion = none → tr.probe = none →
      (op.act = .seek → after (.trackAccessStart core n) fun t =>
        (t.track core n).queue = rest ∧ (t.track core n).motion = some ⟨tr.phys, op.head, s.clk, 0, op.ctx, false, false⟩) ∧
      (op.act ≠ .seek → tr.unseat = true ∨ tr.phys ≠ op.head → after (.trackAccessStart core n) fun t =>
        (t.track core n).queue = tr.queue ∧ (t.track core n).motion = some ⟨tr.phys, op.head, s.clk, 0, op.ctx, false, false⟩) ∧
      (op.act ≠ .seek → tr.unseat = false → tr.phys = op.head →
        (∀ p ∈ [((1 : Int), (-1 : Int), 3, 8), (-1, 1, 1, 3), (2, -2, 10, 24), (-2, 2, 6, 15), (3, -3, 21, 48), (-3, 3, 15, 35)],
          (tr.slip - p.1) % 8 = 0 → after (.trackAccessStart core n) fun t =>
            (t.track core n).probe = some ⟨p.2.2.1, p.2.1, false, s.clk, 0⟩ ∧ (t.track core n).queue = tr.queue ∧
            (s.clk + p.2.2.2, Event.trackRealignmentDone core n) ∈ t.due) ∧
        (tr.slip % 8 = 4 → after (.trackAccessStart core n) fun t =>
          (t.track core n).probe = some ⟨24, 0, true, s.clk, 0⟩ ∧ (s.clk + 54, Event.trackRealignmentDone core n) ∈ t.due) ∧
        (tr.slip % 8 = 0 → op.act.tracks n = [n] → (s.core core).portAt ≤ s.clk → after (.trackAccessStart core n) fun t =>
          (t.track core n).started = true ∧ (t.core core).portAt = s.clk + 1 ∧
          (s.clk + 3, Event.trackAccessComplete core n) ∈ t.due))) ∧
    (∀ op rest p, tr.queue = op :: rest → tr.probe = some p → p.fails = false → after (.trackRealignmentDone core n) fun t =>
      (t.track core n).slip = tr.slip + p.shift ∧ (t.track core n).count = min 255 (tr.count + 1) ∧ (t.track core n).probe = none ∧
      (t.track core n).queue = tr.queue ∧ (t.track core n).head = tr.head ∧
      (t.ctx core op.ctx).srGet rSHCHG = (s.ctx core op.ctx).srGet rSHCHG + BitVec.ofNat 64 (p.moves - p.done)) ∧
    (∀ op rest since ph (p : Nat), tr.queue = op :: rest → tr.started = true → op.eng = none →
      (s.ctx core op.ctx).block = some ⟨.track n op.id, since, ph⟩ → (s.ctx core op.ctx).statBit bSTEP = false →
      256 * op.port + op.head + tr.slip = (p : Int) → p < 1024 →
      let x := s.ctx core op.ctx
      let w := (s.core core).words.get (1024 * n + p) 0
      let completes (t : State) : Prop :=
        (t.track core n).queue = rest ∧ (t.track core n).head = tr.head ∧ (t.track core n).started = false ∧
        (t.ctx core op.ctx).block = none ∧ (t.ctx core op.ctx).pc = (x.loopEnd (x.pc + BitVec.ofNat 64 op.len) 5).pc
      let moves (step dn : Bool) (t : State) : Prop :=
        let h := if dn then op.head - 1 else min 255 (op.head + 1)
        tr.motion = none → (t.track core n).motion = if step = true ∧ h ≠ op.head then some ⟨tr.phys, h, s.clk, 0, op.ctx, true, false⟩ else none
      (∀ step dn d, op.act = .read step dn → op.dst = .scalar d 4 false →
        (s.core core).badWords.contains (1024 * n + p) = false → after (.trackAccessComplete core n) fun t =>
          completes t ∧ moves step dn t ∧ (t.core core).words = (s.core core).words ∧
          ∀ r, (t.ctx core op.ctx).sreg r = if r = d ∧ r ≠ 0 then w.setWidth 64 else x.sreg r) ∧
      (∀ step dn, op.act = .read step dn → (s.core core).badWords.contains (1024 * n + p) = true → x.tlvl < 2 →
        after (.trackAccessComplete core n) fun t =>
          (t.ctx core op.ctx).srGet (rTCAUSE (x.tlvl + 1)) = BitVec.ofNat 64 (causeWord cTRKECC false 0 0 0 0) ∧
          (t.ctx core op.ctx).srGet (rTRET (x.tlvl + 1)) = x.pc ∧ (t.track core n).head = op.head) ∧
      (∀ step dn v, op.act = .write step dn v → op.dst = .none → after (.trackAccessComplete core n) fun t =>
        completes t ∧ moves step dn t ∧ (∀ r, (t.ctx core op.ctx).sreg r = x.sreg r) ∧
        ∀ k, (t.core core).words.get k 0 = if k = 1024 * n + p then BitVec.ofNat 32 v else (s.core core).words.get k 0)) ∧
    (Happens .shiftWindowClear s fun t => (∀ m k, (t.track m k).count = 0) ∧ t.rowErr = [] ∧
      (s.nextBoundary 10000000, Event.shiftWindowClear) ∈ t.due ∧ (∀ m c, t.ctx m c = s.ctx m c) ∧ MemKept s t)

/-! Copies, sync words and completion bits (spec/14_memory_track_copy_instructions.md R335 to R343;
spec/07_engines_in_the_model.md R168 to R176). -/

/-- R337 to R339: ACOPY and ACOPYT check their word and ranges, wait at issue for earlier accesses and for room, and then begin an
operation that is outstanding on its sync word; an ACOPYT also gives its track's head its final value, in order behind the
track's earlier accesses. -/
def Obligations.CopyInstructions : Prop :=
  ∀ (f : Form) (s : State), Runs f 0 s →
    let core := s.cur.core
    let c := s.cur.ctx
    let b := (s.engVal f.b).toNat
    let u := s.settleAll core
    let sync := syncPlace core (BitVec.ofNat 64 (bits b 24 24))
    let begins (v t : State) (act : EngAct) (sw : Nat × Nat) (rows : Nat) : Prop :=
      (∃ o, t.ops.find? (·.1 == s.nextId) = some (s.nextId, o) ∧ o.act = act ∧ o.sync = some sw ∧ o.rows = rows ∧
        o.core = core ∧ o.ctx = c ∧ o.asid = s.me.asid ∧ o.finished = false ∧ o.ecode = 0) ∧
      t.me.pending = s.me.pending ++ [s.nextId] ∧
      RegsKept {} (v.modMe fun x => { x with pending := x.pending ++ [s.nextId] }) t ∧ MemKept s t ∧
      Completed (s.plainWarn f) (s.fall f) s t
    (let len := bits b 0 24
     (len % 8 ≠ 0 ∨ len < 8 ∨ 16777208 < len ∨ bits b 48 16 ≠ 0 → Traps (.acopy f) s cCPYFMT b) ∧
     (len % 8 = 0 → 8 ≤ len → len ≤ 16777208 → bits b 48 16 = 0 →
      (∀ e, s.engRange f.d len 8 = .error e → Traps (.acopy f) s e.1 e.2) ∧
      ∀ d a sw, s.engRange f.d len 8 = .ok d → s.engRange f.a len 8 = .ok a → sync = .ok sw →
        (s.myCore.storesOut c = true → Gives (.acopy f) s fun t => Held .ready s t) ∧
        (s.relWait = none → s.copiesFull core = true → Gives (.acopy f) s fun t => Held .ready s t) ∧
        (s.relWait = none → s.copiesFull core = false → Gives (.acopy f) s fun t =>
          begins s t (.copy d a len) sw ((len + 63) / 64) ∧ (s.clk + 90, Event.syncWordArrival s.nextId 0) ∈ t.due))) ∧
    (let n := bits b 0 9
     let all := bit b 9
     let tracks (toTrack : Bool) (m : Operand) (k p : Nat) (dn : Bool) : Prop :=
      let h := (u.track core k).head
      (n < 1 ∨ 256 < n ∨ bits b 10 14 ≠ 0 ∨ bits b 48 16 ≠ 0 → Traps (.acopyt f) s cCPYFMT b) ∧
      (1 ≤ n → n ≤ 256 → bits b 10 14 = 0 → bits b 48 16 = 0 → ∀ va sw,
        s.engRange m (4 * n * (if all then 4 else 1)) 4 = .ok va → sync = .ok sw →
        (u.ownsTrack core c k false = false → s.me.loads = [] → exec (.acopyt f) s = .next (u.enterTrap core c
          (causeWord cTRKOWN false 0 0 0 0) (BitVec.ofNat 64 (k + 256 * h)) s.me.pc)) ∧
        (u.ownsTrack core c k false = true →
          (if dn then h + 1 < n else 256 < h + n) → s.me.loads = [] → exec (.acopyt f) s = .next (u.enterTrap core c
          (causeWord cTRKRANGE false 0 0 0 0) (BitVec.ofNat 64 (k + 256 * h)) s.me.pc)) ∧
        (u.ownsTrack core c k false = true → ¬(if dn then h + 1 < n else 256 < h + n) →
          s.relWait = none → s.copiesFull core = false → Gives (.acopyt f) s fun t =>
            begins u t (.copyTrack toTrack k p dn all va n h) sw n ∧
            (t.track core k).head = (if dn then h - n else min 255 (h + n)) ∧
            (t.track core k).queue = (u.track core k).queue ++ [⟨s.nextId + 1, .copy s.nextId, p, h, c, some s.nextId, .none, 0⟩] ∧
            (∀ j, j ≠ k → t.track core j = u.track core j)))
     (∀ k p dn, f.d = .track k p dn → (f.a.isLa = true ∨ ∃ r x, f.a = .bo r x) → tracks true f.a k p dn) ∧
     (∀ k p dn, f.a = .track k p dn → (f.d.isLa = true ∨ ∃ r x, f.d = .bo r x) → tracks false f.d k p dn) ∧
     (∀ k p dn j q up, f.d = .track k p dn → f.a = .track j q up →
      Traps (.acopyt f) s cILLEGAL (s.me.pc + BitVec.ofNat 64 (4 * (f.npfx + 1))).toNat))

/-- R172, R176 and R340 to R342: SWINIT sets TARGET and keeps GEN; SWWAIT completes once GEN has passed b, and SWREAD reads a
half of the word, a mark on the bytes that they deliver apart (R89); CBSET, once its context's accesses are acknowledged, sets a
bit of the word that b names, and CBWAIT completes once the bit is 1. -/
def Obligations.SyncWordsAndBits : Prop :=
  ∀ (f : Form) (s : State),
    let core := s.cur.core
    (Runs f 16 s →
      (∀ e, syncPlace core (s.me.opAddr f.d) = .error e → Traps (.swinit f) s e.1 e.2) ∧
      (∀ c o, syncPlace core (s.me.opAddr f.d) = .ok (c, o) → Gives (.swinit f) s fun t =>
        let a := (s.me.opS f.a).toNat
        let w := t.stallRead c o 16
        bits w 0 40 = bits a 0 40 ∧ bits w 40 40 = 0 ∧ bits w 80 24 = bits (s.stallRead c o 16) 80 24 ∧ bits w 104 24 = 0 ∧
        StallStore c o 16 s t ∧ RegsKept { stats := [bORACE] } s t ∧
        Completed (s.plainWarn f || decide (bits a 40 24 ≠ 0)) (s.fall f) s t) ∧
      (∀ e, syncPlace core (s.me.opAddr f.a) = .error e → Traps (.swwait f) s e.1 e.2) ∧
      (∀ c o, syncPlace core (s.me.opAddr f.a) = .ok (c, o) →
        let w := s.stallRead c o 16
        let past := (bits w 80 24 + 2 ^ 24 - bits (s.me.opU f.b).toNat 0 24) % 2 ^ 24
        (s.stallPoison c (o + 10) 6 = none → 0 < past ∧ past < 2 ^ 23 → Gives (.swwait f) s fun t =>
          Result f (BitVec.ofNat 64 (bits w 80 33)) s t ∧ (t.core core).c1 = s.myCore.c1Acquire.c1 ∧ MemKept s t ∧
          RegsKept { regs := [f.d.sreg] } (s.modMe fun x => { x with pending := t.me.pending }) t ∧
          Completed (s.plainWarn f) (s.fall f) s t) ∧
        (s.stallPoison c (o + 10) 6 = none → past = 0 ∨ 2 ^ 23 ≤ past → Gives (.swwait f) s fun t => Held .wait s t) ∧
        (f.b.immU ≤ 1 → s.stallPoison c (o + 8 * f.b.immU) 8 = none → Writes (.swread f) f s (BitVec.ofNat 64 (bits w (64 * f.b.immU) 64)))) ∧
      (2 ≤ f.b.immU → Traps (.swread f) s cILLEGAL (s.me.pc + BitVec.ofNat 64 (4 * (f.npfx + 2))).toNat)) ∧
    (let b := (s.me.opU f.b).toNat
     let k := bits b 0 6
     let w := s.me.opAddr f.a + BitVec.ofNat 64 (8 * bits b 6 26)
     (Runs f 16 s → f.a.isLa = true → ∀ c o, checkLa core w 8 8 = .ok (c, o) → s.stallPoison c o 8 = none →
      (s.relWait = none → Gives (.cbset f) s fun t =>
        t.stallRead c o 8 = s.stallRead c o 8 ||| 2 ^ k ∧ StallStore c o 8 s t ∧
        t.me.statBit bUNJOIN = (s.me.statBit bUNJOIN || !s.me.pending.isEmpty || s.me.fork.isSome) ∧
        RegsKept { stats := [bORACE, bUNJOIN] } s t ∧ Completed (s.plainWarn f) (s.fall f) s t) ∧
      (s.myCore.storesOut s.cur.ctx = true → Gives (.cbset f) s fun t => Held .ready s t) ∧
      ((s.stallRead c o 8).testBit k = true → Gives (.cbwait f) s fun t =>
        Result f (BitVec.ofNat 64 (s.stallRead c o 8)) s t ∧ RegsKept { regs := [f.d.sreg] } s t ∧
        (t.core core).c1 = s.myCore.c1Acquire.c1 ∧ MemKept s t ∧ Completed (s.plainWarn f) (s.fall f) s t) ∧
      ((s.stallRead c o 8).testBit k = false → Gives (.cbwait f) s fun t => Held .wait s t)) ∧
     (Runs f 40 s → f.a.isLa = false → ∀ va, s.checkVa s.me.vf w 8 = .ok (.virt va) → va < meshBase →
      (∀ j, s.myCore.freeEntry = some j → s.relWait = none → s.me.outstanding = false →
        Gives (.cbset f) s fun t =>
          (∃ r, t.reqs.find? (·.1 == s.nextId) = some (s.nextId, r) ∧ r.op = .rmw 3 (2 ^ k) 0 ∧ r.jidx = some j ∧
            r.els.map (·.va) = [va] ∧ r.els.map (·.size) = [8]) ∧ RegsKept {} s t ∧ Completed (s.plainWarn f) (s.fall f) s t) ∧
      (∀ v u, s.ownOut va = [] → s.homeWaits ⟨core, s.cur.ctx, s.me.vf⟩ s.me.asid va .rw = false →
        s.homeRead ⟨core, s.cur.ctx, s.me.vf⟩ s.me.asid va 8 .rw = (.ok (v, false), u) → u.cur = s.cur →
        u.me.statBit bSTEP = false → v.testBit k = true → Gives (.cbwait f) s fun t =>
          Result f (BitVec.ofNat 64 v) u t ∧ RegsKept { regs := [f.d.sreg] } u t ∧ MemKept u t ∧
          Completed (s.plainWarn f) (s.fall f) u t)))

/-- R172 to R174: what an arrival of `n` bytes makes of a sync word; a row of a copy between two stalls is performed and its
bytes are counted, the next row or the completion following; the completion of an operation counts the bytes left and records
its first fault. -/
def Obligations.CopyAndCompletionEvents : Prop :=
  (∀ w n, w < 2 ^ 128 → n < 2 ^ 24 →
    let v := swArrive w n
    let target := bits w 0 40
    let count := bits w 40 40 + n
    bits v 0 40 = target ∧
    (target = 0 → bits v 40 40 = min (2 ^ 40 - 1) count ∧ bits v 80 24 = bits w 80 24 ∧
      (bit v 112 = true ↔ bit w 112 = true ∨ 2 ^ 40 ≤ count)) ∧
    (target ≠ 0 → count < target → bits v 40 40 = count ∧ bits v 80 24 = bits w 80 24 ∧ bits v 104 24 = bits w 104 24) ∧
    (target ≠ 0 → target ≤ count → bits v 40 40 = 0 ∧ bits v 80 24 = (bits w 80 24 + 1) % 2 ^ 24 ∧
      (bit v 112 = true ↔ bit w 112 = true ∨ target < count))) ∧
  (∀ (s : State) (id c off dc do_ sc so len : Nat) (o : EngOp), s.ops.find? (·.1 == id) = some (id, o) →
    o.act = .copy (meshBase + 65536 * dc + do_) (meshBase + 65536 * sc + so) len → do_ + len ≤ 65536 → so + len ≤ 65536 →
    o.sync = some (c, off) → off + 16 ≤ 65536 → c ≠ dc → dc ≠ sc → dc < numCores → sc < numCores → c < numCores →
    o.rowsDone = [] → o.low < o.rows → o.rows = (len + 63) / 64 → len % 8 = 0 → o.finished = false → o.ecode = 0 →
    (s.core o.core).canPay 48 = true → s.stallPoison sc so len = none → Happens (.syncWordArrival id o.low) s fun t =>
      let n := min 64 (len - 64 * o.low)
      t.stallRead dc (do_ + 64 * o.low) n = s.stallRead sc (so + 64 * o.low) n ∧
      t.stallRead c off 16 = swArrive (s.stallRead c off 16) n ∧
      (∃ p, t.ops.find? (·.1 == id) = some (id, p) ∧ p.low = o.low + 1 ∧ p.left = o.left - n) ∧
      (o.low + 1 < o.rows → (s.clk + 1, Event.syncWordArrival id (o.low + 1)) ∈ t.due) ∧
      (o.low + 1 = o.rows → (s.clk + 1, Event.engineOpComplete id) ∈ t.due) ∧
      ∀ n e r, (t.ctx n e).sreg r = (s.ctx n e).sreg r) ∧
  (∀ (s : State) (id c off : Nat) (o : EngOp), s.ops.find? (·.1 == id) = some (id, o) → o.finished = false →
    o.sync = some (c, off) → off + 16 ≤ 65536 → c < numCores → Happens (.engineOpComplete id) s fun t =>
      let w := s.stallRead c off 16
      let v := if o.left = 0 then w else swArrive w o.left
      t.stallRead c off 16 = (if o.ecode = 0 then v
        else if bit v 112 then v else setBits (setBits v 104 8 o.ecode) 112 1 1) ∧
      (∃ p, t.ops.find? (·.1 == id) = some (id, p) ∧ p.finished = true) ∧ StallStore c off 16 s t ∧
      ∀ n e r, (t.ctx n e).sreg r = (s.ctx n e).sreg r)

/-! Vectors (spec/15_vector_instructions.md R344 to R369; spec/10_numbers_and_format_table.md R221 to R239). -/

/-- R344 to R346, R349, R368 and R369: every instruction of vector arithmetic gives the active lanes of D the function of its
lanes of A, B and the fourth operand, under the entries that it read at its issue (R234), of one width and kind, B being a vector
or one value; a step of a shape in the stall gives the lanes of that step and leaves SHIX at the next. The integer functions are exact, then wrapped, or saturated
under SAT. -/
def Obligations.VectorArithmetic : Prop :=
  (∀ (f : Form) (s : State) (ed ea eb : Ent) (d : Nat) (e : Nat) (bv : Nat → Nat), f.d = .vec d e →
    let x := (s.issued f).me
    vecEnt x f .d = .ok ed → ea.w = ed.w → eb.w = ed.w → ea.int = ed.int → eb.int = ed.int →
    ((∃ r k, f.b = .vec r k ∧ vecEnt x f .b = .ok eb ∧ bv = lane (s.me.vreg r) eb.w) ∨
      (((∃ r, f.b = .scalar r) ∨ ∃ k v, f.b = .imm k v) ∧ eb = ea ∧ bv = fun _ => (s.me.opS f.b).toNat % 2 ^ ea.w) ∨
      (f.b = .none ∧ eb = ea ∧ bv = fun _ => 0)) →
    let cost := if ed.int then 12 else 24
    let rm := s.me.roundMode f
    let c (fn : VFun) (i : Nat) : Nat := if fn.has4 then lane (s.me.vreg (f.vx.op4.getD d)) ed.w i else 0
    ∀ p ∈ [(Instr.vadd f, VFun.add), (.vsub f, .sub), (.vmul f, .mul), (.vfma f, .fma), (.vfms f, .fms), (.vfnma f, .fnma),
        (.vmin f, .min), (.vmax f, .max), (.vabs f, .abs), (.vneg f, .neg), (.vand f, .and), (.vor f, .or), (.vxor f, .xor),
        (.vshl f, .shl), (.vshr f, .shr), (.vsar f, .sar)],
      (p.2.isBitwise = true ∨ p.2.isShift = true → ed.int = true) →
      (∀ a k, f.a = .vec a k → vecEnt x f .a = .ok ea → Runs f cost s →
        let one (i : Nat) := arithCalc p.2 ed ea eb f.vx.sat rm s.me.seed i (lane (s.me.vreg a) ea.w i) (bv i) (c p.2 i)
        Gives p.1 s fun t => Lanes f ed.w (fun i => (one i).1) s t ∧
          VecDone f (flagsOf f ed.lanes one s) (vecWarn s.me f (!ed.int) ed.int p.2.has4 true) (!ed.int)
            { vecs := [d] } s t) ∧
      (∀ r k h (av : Nat → Nat), f.a = .shape r k → f.vx.shp = true → readShape s f.a = .ok h → h.la = true →
        plainEntry x ((x.pfxEntry .a).getD h.fmt) = .ok ea →
        let m := ed.lanes
        let i0 := bits (s.me.srGet rSHIX).toNat 0 32 * m
        let ls := (List.range m).filter fun l => s.me.active f l && i0 + l < h.count
        let es := ls.map fun l => h.elem ea.w (i0 + l) l 0
        (∀ q ∈ es, ∃ x o, checkLa s.cur.core (BitVec.ofNat 64 q.va) q.size q.size = .ok (x, o) ∧
          s.stallPoison x o q.size = none ∧ av q.lane = q.pick (s.stallRead x o q.size)) →
        Runs f (cost + elemCost true es) s → i0 + m < h.count →
        let one (i : Nat) := arithCalc p.2 ed ea eb f.vx.sat rm s.me.seed (i0 + i) (av i) (bv i) (c p.2 i)
        Gives p.1 s fun t => (∀ l ∈ ls, lane (t.me.vreg d) ed.w l = (one l).1 % 2 ^ ed.w) ∧
          t.me.srGet rSHIX = BitVec.ofNat 64 (bits (s.me.srGet rSHIX).toNat 0 32 + 1) ∧ t.me.pc = s.me.pc ∧ MemKept s t ∧
          RegsKept { vecs := [d], srs := [rFCSR, rSHIX], stats := [bSAT] } s t)) ∧
  (∀ (ed ea eb : Ent) (sat : Bool) (a b c : Nat), ea.w = ed.w → eb.w = ed.w → a < 2 ^ ed.w → b < 2 ^ ed.w →
    let x := ea.decodeInt a
    let y := eb.decodeInt b
    let z := ed.decodeInt c
    let gives (fn : VFun) (v : Int) : Prop :=
      let r := (intFun fn ed ea eb sat a b c).1
      r < 2 ^ ed.w ∧ (sat = false → (r : Int) = v % 2 ^ ed.w) ∧ (sat = true → ed.decodeInt r = max ed.intMin (min ed.intMax v))
    gives .add (x + y) ∧ gives .sub (x - y) ∧ gives .mul (x * y) ∧ gives .fma (x * y + z) ∧ gives .fms (x * y - z) ∧
    gives .fnma (z - x * y) ∧ gives .min (min x y) ∧ gives .max (max x y) ∧ gives .abs x.natAbs ∧
    (ed.sgn = true → gives .neg (-x)) ∧ gives .shl (x * 2 ^ b) ∧
    (intFun .and ed ea eb sat a b c).1 = a &&& b ∧ (intFun .or ed ea eb sat a b c).1 = a ||| b ∧
    (intFun .xor ed ea eb sat a b c).1 = a ^^^ b ∧ (intFun .shr ed ea eb sat a b c).1 = a / 2 ^ b ∧
    (ea.sgn = true → ((intFun .sar ed ea eb sat a b c).1 : Int) = x / 2 ^ b % 2 ^ ed.w) ∧
    (ea.sgn = false → (intFun .sar ed ea eb sat a b c).1 = a / 2 ^ b))

/-- R350, R351, R355 and R357, in the register form: VCMP writes a mask, VSEL chooses by one, VDOT sums products, VBCAST, VPERM, VSPLT and VMOVS move
elements, VCMPR packs the active elements and counts them in VCNT, and VEXPD spreads them. -/
def Obligations.VectorComparesAndMoves : Prop :=
  ∀ (f : Form) (s : State), shaped f = false →
    let x := s.me
    let A := x.vreg f.a.num
    let B := x.vreg f.b.num
    let plain := vecWarn x f false false false false
    let plain4 := vecWarn x f false false true false
    let moves (i : Instr) (w : Nat) (warn : Bool) (want : Nat → Nat) : Prop := Gives i s fun t =>
      Lanes f w want s t ∧ VecDone f FFlags.none warn false { vecs := [f.d.num] } s t
    (Runs f 12 s →
      (∀ ea eb bv r cc, f.d = .mask r cc → r ≠ 0 → vecEnt x f .a = .ok ea → vecB x f ea = .ok (eb, bv) → eb.w = ea.w →
        eb.int = ea.int →
        let a (i : Nat) := ea.decodeInt (lane A ea.w i)
        let b (i : Nat) := eb.decodeInt (bv i)
        let ints (i : Nat) : Bool := match cc with
          | 0 => decide (a i = b i) | 1 => decide (a i ≠ b i) | 2 => decide (a i < b i) | 3 => decide (a i ≤ b i)
          | 4 => decide (b i < a i) | 5 => decide (b i ≤ a i) | 6 => decide (lane A ea.w i < bv i)
          | 7 => decide (lane A ea.w i ≤ bv i) | 8 => decide (bv i < lane A ea.w i) | _ => decide (bv i ≤ lane A ea.w i)
        let flts (i : Nat) := cmpFloat cc (ea.decode (lane A ea.w i)) (eb.decode (bv i))
        cc ≤ 9 → Gives (.vcmp f) s fun t =>
          (∀ i, i < 128 → (t.me.mreg r).getLsbD i = if ea.lanes ≤ i then false
            else if x.active f i then (if ea.int then ints i else (flts i).1) else !f.vx.mz && (x.mreg r).getLsbD i) ∧
          VecDone f (if ea.int then FFlags.none else flagsOf f ea.lanes (fun i => (0, (flts i).2)) s)
            (plain || (decide (6 ≤ cc) && !ea.int)) false { masks := [r] } s t) ∧
      (∀ d a b, threeEnts x f = .ok (d, a, b) → f.vx.mz = false → Gives (.vsel f) s fun t =>
        (∀ i, i < d.lanes → lane (t.me.vreg f.d.num) d.w i = lane (if x.active f i then A else B) d.w i) ∧
        VecDone f FFlags.none plain false { vecs := [f.d.num] } s t) ∧
      (∀ d, vecEnt x f .d = .ok d → (∀ r k, f.a ≠ .vec r k) → moves (.vbcast f) d.w plain fun _ => (x.opS f.a).toNat) ∧
      (∀ d a r k, f.a = .vec r k → twoEnts x f = .ok (d, a) →
        moves (.vbcast f) d.w plain fun _ => lane A d.w ((x.opU f.b).toNat % d.lanes)) ∧
      (∀ d a b, twoEnts x f = .ok (d, a) → vecEnt x f .b = .ok b → a.int = true → b.w = d.w →
        (f.vx.op4 = none → moves (.vperm f) d.w plain4 fun i => lane B d.w (lane A d.w i % d.lanes)) ∧
        (∀ q, f.vx.op4 = some q → moves (.vperm f) d.w plain4 fun i =>
          let j := lane A d.w i % (2 * d.lanes)
          if j < d.lanes then lane B d.w j else lane (x.vreg q) d.w (j - d.lanes))) ∧
      (∀ d a b, twoEnts x f = .ok (d, a) → vecEnt x f .b = .ok b → b.w = d.w →
        let get (j : Nat) : Nat := if j < d.lanes then lane A d.w j else lane B d.w (j - d.lanes)
        (f.vx.op4 = none → moves (.vsplt f) d.w plain4 fun i => get (2 * i)) ∧
        (∀ q, f.vx.op4 = some q → q ≠ f.d.num → Gives (.vsplt f) s fun t =>
          Lanes f d.w (fun i => get (2 * i)) s t ∧ Lanes { f with d := .vec q 0 } d.w (fun i => get (2 * i + 1)) s t ∧
          VecDone f FFlags.none plain4 false { vecs := [f.d.num, q] } s t)) ∧
      (∀ a q r k, f.d = .scalar q → f.a = .vec r k → vecEnt x f .a = .ok a →
        let v := lane A a.w ((x.opU f.b).toNat % a.lanes)
        Gives (.vmovs f) s fun t => Result f (BitVec.ofInt 64 (if a.int then a.decodeInt v else v)) s t ∧
          VecDone f FFlags.none plain false { regs := [q] } s t) ∧
      (∀ d q r k, f.d = .vec r k → f.a = .scalar q → vecEnt x f .d = .ok d →
        let i := (x.opU f.b).toNat % d.lanes
        Gives (.vmovs f) s fun t =>
          (∀ j, j < d.lanes → lane (t.me.vreg r) d.w j = if j ≠ i then lane (x.vreg r) d.w j
            else if x.active f i then (x.sreg q).toNat % 2 ^ d.w else if f.vx.mz then 0 else lane (x.vreg r) d.w j) ∧
          VecDone f FFlags.none plain false { vecs := [r] } s t) ∧
      (∀ d a, twoEnts x f = .ok (d, a) →
        let act := x.actives f d.lanes
        (f.vx.mz = false → Gives (.vcmpr f) s fun t =>
          (∀ j, j < d.lanes → lane (t.me.vreg f.d.num) d.w j = match act[j]? with
            | some i => lane A d.w i
            | none => match f.vx.op4 with
              | some q => lane (x.vreg q) d.w j
              | none => 0) ∧
          t.me.srGet rVCNT = BitVec.ofNat 64 act.length ∧
          VecDone f FFlags.none plain4 false { vecs := [f.d.num], srs := [rVCNT] } s t) ∧
        moves (.vexpd f) d.w plain fun i => lane A d.w (x.actives f i).length)) ∧
    (Runs f 24 s → ∀ d a b, vecEnt x f .d = .ok d → vecEnt x f .a = .ok a → vecEnt x f .b = .ok b → a.w ≤ d.w → b.w = a.w →
      a.int = d.int → b.int = d.int →
      let r := d.w / a.w
      let c (i : Nat) := lane (x.vreg (fourth f)) d.w i
      let one (i : Nat) : Nat × FFlags :=
        if d.int then d.putInt f.vx.sat (d.decodeInt (c i) + ((List.range r).map fun k =>
          a.decodeInt (lane A a.w (r * i + k)) * b.decodeInt (lane B a.w (r * i + k))).sum)
        else
          let v := dotVals (x.roundMode f == 4) ((List.range r).map fun k => a.decode (lane A a.w (r * i + k)))
            ((List.range r).map fun k => b.decode (lane B a.w (r * i + k))) (d.decode (c i))
          let z := d.encode (x.roundMode f) (rstoBits x.seed i) v.1
          (z.1, v.2.or z.2)
      Gives (.vdot f) s fun t => Lanes f d.w (fun i => (one i).1) s t ∧
        VecDone f (flagsOf f d.lanes one s) (vecWarn x f (!d.int) d.int true false) (!d.int) { vecs := [f.d.num] } s t)

/-- R230, R356, R358 and R363, in the register form: VCVT converts the elements of its part; VRED leaves the tree of the active elements in element 0 of
D and clears the rest, an integer sum being the sum modulo 2^w; VSCAN leaves the running combinations; each special function is
taken element by element. -/
def Obligations.ConversionsAndReductions : Prop :=
  ∀ (f : Form) (s : State) (ed ea : Ent) (d a e k : Nat), shaped f = false → f.d = .vec d e → f.a = .vec a k →
    vecEnt s.me f .d = .ok ed → vecEnt s.me f .a = .ok ea →
    let x := s.me
    let rm := x.roundMode f
    let A := lane (x.vreg a) ea.w
    let cost := if ed.int then 12 else 24
    (Runs f 24 s →
      let p := f.b.immU
      let m := 512 / max ed.w ea.w
      let at_ (l : Nat) : Nat := if ed.w < ea.w then p * m + l else l
      let one (l : Nat) : Nat × FFlags :=
        ed.encode rm (rstoBits x.seed (at_ l)) (ea.decode (A (if ea.w < ed.w then p * m + l else l)))
      let ls := (List.range m).filter fun l => x.active f (at_ l)
      (max ed.w ea.w / min ed.w ea.w ≤ p → Traps (.vcvt f) s cILLEGAL (parcelAt s f 2)) ∧
      (p < max ed.w ea.w / min ed.w ea.w → Gives (.vcvt f) s fun t =>
        (∀ l, l < m → lane (t.me.vreg d) ed.w (at_ l) = if x.active f (at_ l) then (one l).1 % 2 ^ ed.w
          else if f.vx.mz then 0 else lane (x.vreg d) ed.w (at_ l)) ∧
        (∀ i, i < ed.lanes → (∀ l, l < m → i ≠ at_ l) → lane (t.me.vreg d) ed.w i = lane (x.vreg d) ed.w i) ∧
        VecDone f (ls.foldl (fun g l => g.or (one l).2) FFlags.none) (vecWarn x f (!(ed.int && ea.int)) true false true)
          (!(ed.int && ea.int)) { vecs := [d] } s t)) ∧
    (Runs f cost s → f.vx.mz = false → f.b.immU < 6 → ed.int = ea.int → (3 ≤ f.b.immU → ed.w = ea.w) →
      let r : Red := ⟨f.b.immU, ed, ea, f.vx.sat, rm, x.seed⟩
      let leaves := (List.range ea.lanes).map fun i => if x.active f i then some (r.leaf ea (A i)) else none
      let act := x.actives f ea.lanes
      let result (v : Nat) : Prop := Gives (.vred f) s fun t => t.me.vreg d = BitVec.ofNat 512 v ∧
        (∃ fl, VecDone f fl (vecWarn x f r.rounds r.satOk false true) r.rounds { vecs := [d] } s t) ∧ MemKept s t
      (∀ v j fl, r.tree 0 leaves 0 10 = (some v, j, fl) → result (r.put (Config.nodeElement 0 j) v).1) ∧
      (f.b.immU = 0 → ed.int = true → f.vx.sat = false →
        result ((act.map fun i => ea.decodeInt (A i)).sum % 2 ^ ed.w).toNat) ∧
      (f.b.immU = 3 → result (act.foldl (fun v i => v &&& A i) (2 ^ ed.w - 1))) ∧
      (f.b.immU = 4 → result (act.foldl (fun v i => v ||| A i) 0)) ∧
      (f.b.immU = 5 → result (act.foldl (fun v i => v ^^^ A i) 0))) ∧
    (Runs f cost s → bits f.b.immU 0 3 < 6 → f.b.immU < 16 → ed.int = ea.int → ed.w = ea.w →
      let r : Red := ⟨bits f.b.immU 0 3, ed, ea, f.vx.sat, rm, x.seed⟩
      let out := r.scan (bit f.b.immU 3) ((x.actives f ed.lanes).map fun i => (i, A i)) none
      (Gives (.vscan f) s fun t => Lanes f ed.w (laneVal out.1) s t ∧
        VecDone f out.2 (vecWarn x f r.rounds r.satOk false false) r.rounds { vecs := [d] } s t) ∧
      (bits f.b.immU 0 3 = 0 → ed.int = true → f.vx.sat = false → Gives (.vscan f) s fun t =>
        Lanes f ed.w (fun i => (((x.actives f (if bit f.b.immU 3 then i else i + 1)).map fun j => ea.decodeInt (A j)).sum
          % 2 ^ ed.w).toNat) s t)) ∧
    (Runs f 48 s → ed.int = false → ea.int = false → ea.w = ed.w →
      ∀ p ∈ [(Instr.vrcp f, SFun.rcp), (.vrsq f, .rsq), (.vexp2 f, .exp2), (.vlog2 f, .log2), (.vtanh f, .tanh), (.vsigm f, .sigm)],
        let one (i : Nat) := specialElem p.2 ed ea rm x.seed i (A i)
        Gives p.1 s fun t => Lanes f ed.w (fun i => (one i).1) s t ∧
          VecDone f (flagsOf f ed.lanes one s) (vecWarn x f true false false true) true { vecs := [d] } s t)

/-- R364 to R366, in the register form: VHIST adds its weights into the bins that the elements of A name; VHMRG leaves each run's sum in its last lane
and 0 in the others; VSORT puts the active elements in order, stably, and carries a payload along; VSRCH counts the keys below
each element; VCLASS gives class numbers. -/
def Obligations.VectorSearches : Prop :=
  ∀ (f : Form) (s : State) (ed ea : Ent) (d a e k : Nat), shaped f = false → f.d = .vec d e → f.a = .vec a k →
    vecEnt s.me f .d = .ok ed → vecEnt s.me f .a = .ok ea →
    let x := s.me
    let rm := x.roundMode f
    let n := ed.lanes
    let A := lane (x.vreg a) ea.w
    (∀ eb (wt : Nat → Int), Runs f 48 s → f.vx.mz = false → ed.int = true → ea.int = true →
      ((f.b = .none ∧ wt = fun _ => 1) ∨ ∃ r q, f.b = .vec r q ∧ vecEnt x f .b = .ok eb ∧ eb.int = true ∧ eb.w = ea.w ∧
        wt = fun i => eb.decodeInt (lane (x.vreg r) eb.w i)) →
      f.vx.sat = false → Gives (.vhist f) s fun t =>
        (∀ j, j < n → (lane (t.me.vreg d) ed.w j : Int) = (lane (x.vreg d) ed.w j +
          (((x.actives f ea.lanes).filter fun i => ea.decodeInt (A i) == j).map wt).sum) % 2 ^ ed.w) ∧
        VecDone f FFlags.none (vecWarn x f false true false true) false { vecs := [d] } s t) ∧
    (∀ eb, ea.w = ed.w → vecEnt x f .b = .ok eb → eb.w = ed.w →
      let B := lane (x.vreg f.b.num) eb.w
      (Runs f 48 s → eb.int = ed.int →
        let run (i : Nat) : List Nat := (List.range (i + 1)).filter fun j =>
          (List.range (i + 1)).all fun q => decide (q < j) || (x.active f q && A q == A i)
        let sum (i : Nat) : Nat × FFlags :=
          if ed.int then ed.putInt f.vx.sat ((run i).map fun j => eb.decodeInt (B j)).sum
          else
            let vs := (run i).map fun j => eb.decode (B j)
            let v := match firstNan vs with
              | some v => (v, sigFlags vs)
              | none => sumVals (rm == 4) vs
            let z := ed.encode rm (rstoBits x.seed i) v.1
            (z.1, v.2.or z.2)
        let one (i : Nat) : Nat × FFlags :=
          if i + 1 < n ∧ x.active f (i + 1) = true ∧ A (i + 1) = A i then (0, FFlags.none) else sum i
        Gives (.vhmrg f) s fun t => Lanes f ed.w (fun i => (one i).1) s t ∧
          VecDone f (flagsOf f n one s) (vecWarn x f (!ed.int) ed.int false false) (!ed.int) { vecs := [d] } s t) ∧
      (Runs f 48 s → ed.int = true → 8 ≤ ed.w → eb.int = ea.int →
        let below (i j : Nat) : Bool := if ea.int then decide (eb.decodeInt (B j) < ea.decodeInt (A i))
          else (cmpFloat 2 (eb.decode (B j)) (ea.decode (A i))).1
        Gives (.vsrch f) s fun t =>
          Lanes f ed.w (fun i => if ea.int = false ∧ (ea.decode (A i)).isNan = true then n else (List.range n).countP (below i)) s t ∧
          (∃ fl, (ea.int = true → fl = FFlags.none) ∧
            VecDone f fl (vecWarn x f false false false false) false { vecs := [d] } s t))) ∧
    (Runs f 48 s → ea.w = ed.w → f.b.immU ≤ 1 →
      let act := x.actives f n
      let lt (i j : Nat) : Bool :=
        if f.b.immU = 1 then sortsBefore ea (A j) (A i) else sortsBefore ea (A i) (A j)
      let order := sortLanes lt act
      (ea.int = true → order.Perm act ∧ order.Pairwise fun i j => lt j i = false ∧ (lt i j = false → i < j)) ∧
      (f.vx.op4 = none → Gives (.vsort f) s fun t =>
          (∀ (c i j : Nat), act[c]? = some i → order[c]? = some j → lane (t.me.vreg d) ed.w i = A j) ∧
          (∀ i, i < n → x.active f i = false → lane (t.me.vreg d) ed.w i = if f.vx.mz then 0 else lane (x.vreg d) ed.w i) ∧
          VecDone f FFlags.none (vecWarn x f false false true false) false { vecs := [d] } s t) ∧
      (∀ q, f.vx.op4 = some q → q ≠ d → Gives (.vsort f) s fun t =>
          (∀ (c i j : Nat), act[c]? = some i → order[c]? = some j → lane (t.me.vreg d) ed.w i = A j ∧
            lane (t.me.vreg q) ed.w i = lane (x.vreg q) ed.w j) ∧
          VecDone f FFlags.none (vecWarn x f false false true false) false { vecs := [d, q] } s t)) ∧
    (Runs f 12 s → ed.int = true → 8 ≤ ed.w → ea.int = false → ea.w = ed.w → Gives (.vclass f) s fun t =>
      Lanes f ed.w (fun i => match ea.decode (A i) with
        | .inf neg => if neg then 0 else 7
        | .zero neg => if neg then 3 else 4
        | .nan _ sig _ _ => if sig then 8 else 9
        | .fin neg m q _ => if ea.pol != 4 && decide (binade m q < 1 - ea.bias) then (if neg then 2 else 5)
            else (if neg then 1 else 6)) s t ∧
      VecDone f FFlags.none (vecWarn x f false false false false) false { vecs := [d] } s t)

/-- R353 and R354: through an LA, VLD and VGATH fill the active lanes of D from their addresses, unit-strided, at a scalar's stride
or at the offsets of a vector, and VST and VSCAT store the active lanes in lane order; the first bad address raises its fault with
nothing loaded. At virtual addresses a store is posted, and one request of all its elements leaves for a load: the context goes
on behind it, the instruction complete, where every element will find its value as things stand (log entry 16), or else is held. -/
def Obligations.VectorMemory : Prop :=
  ∀ (f : Form) (s : State) (e : Ent),
    let x := s.me
    let core := s.cur.core
    let act := x.actives f e.lanes
    let size := max 1 (e.w / 8)
    let cost := 12 + (act.length * size + 63) / 64 * 16
    let place (a : Word) (c o : Nat) : Prop := checkLa core a size size = .ok (c, o)
    let strides (m : Operand) (addr : Nat → Word) : Prop :=
      (f.b = .none ∧ ∀ i, addr i = x.opAddr m + BitVec.ofNat 64 (if e.w = 4 then i / 2 else i * (e.w / 8))) ∨
      (∃ q, f.b = .scalar q ∧ e.w ≠ 4 ∧ ∀ i, addr i = x.opAddr m + BitVec.ofNat 64 i * x.sreg q)
    let offsets (m : Operand) (addr : Nat → Word) : Prop :=
      ∃ r k eb, f.b = .vec r k ∧ vecEnt x f .b = .ok eb ∧ eb.int = true ∧ eb.w = e.w ∧ e.w ≠ 4 ∧
        ∀ i, addr i = x.opAddr m + BitVec.ofInt 64 (eb.decodeInt (lane (x.vreg r) eb.w i) * (e.w / 8 : Nat))
    let forms : List (Instr × Instr × Bool × ((Operand) → (Nat → Word) → Prop)) :=
      [(.vld f, .vst f, true, strides), (.vgath f, .vscat f, false, offsets)]
    ∀ p ∈ forms, ∀ addr : Nat → Word,
      (∀ d k, f.d = .vec d k → vecEnt x f .d = .ok e → p.2.2.2 f.a addr →
        (f.a.isLa = true → Runs f cost s →
          (∀ want : Nat → Nat, (∀ i ∈ act, ∃ c o, place (addr i) c o ∧ s.stallPoison c o size = none ∧
            want i = if e.w = 4 then (if i % 2 = 1 then s.stallRead c o 1 / 16 else s.stallRead c o 1 % 16)
              else s.stallRead c o size) →
            Gives p.1 s fun t => Lanes f e.w want s t ∧
              VecDone f FFlags.none (vecWarn x f false false false p.2.2.1) false { vecs := [d] } s t) ∧
          (∀ i er, i ∈ act → (∀ j ∈ act, j < i → ∃ c o, place (addr j) c o) → checkLa core (addr i) size size = .error er →
            Traps p.1 s er.1 er.2)) ∧
        (f.a.isLa = false → (∃ r y, f.a = .bo r y) → act ≠ [] → s.myCore.c1 = [] →
          (∀ i ∈ act, ∃ va, s.checkVa x.vf (addr i) size = .ok (.virt va)) →
          (∃ q, planCost (if p.2.2.1 then ldstPlan f .a .d s else gathPlan f .a .d s) = q ∧ Runs f q s) →
          Gives p.1 s fun t =>
            (∃ r, t.reqs.find? (·.1 == s.nextId) = some (s.nextId, r) ∧ r.op = .load ∧
              r.els.map (·.va) = act.map fun i => (addr i).toNat % 2 ^ 56) ∧ RegsKept {} s t ∧ MemKept s t ∧
            ((∀ i ∈ act, s.foreseen core x.asid .rd (scalarElem (addr i) size 0) = true) →
              (∃ d, t.me.loads = x.loads ++ [(s.nextId, d, x.pc)]) ∧
              Completed (vecWarn x f false false false p.2.2.1 || (x.statBit bPFX && !namesEntry f)) (s.fall f) s t) ∧
            ((∃ i ∈ act, s.foreseen core x.asid .rd (scalarElem (addr i) size 0) = false) →
              (∃ since, t.me.block = some ⟨.reply s.nextId, since, 1⟩) ∧ t.me.pc = x.pc))) ∧
      (∀ a k, f.a = .vec a k → vecEnt x f .a = .ok e → p.2.2.2 f.d addr →
        (f.d.isLa = true → Runs f cost s → ∀ cs os : Nat → Nat, (∀ i ∈ act, place (addr i) (cs i) (os i)) → Gives p.2.1 s fun t =>
          (∀ i ∈ act, (∀ j ∈ act, i < j → ¬(cs j = cs i ∧ os j = os i ∧ (e.w ≠ 4 ∨ j % 2 = i % 2))) →
            lane (x.vreg a) e.w i = if e.w = 4 then t.stallRead (cs i) (os i) 1 / 16 ^ (i % 2) % 16
              else t.stallRead (cs i) (os i) size) ∧
          (∀ y, (∀ i ∈ act, ¬(stallPa (cs i) (os i) ≤ y ∧ y < stallPa (cs i) (os i) + size)) → t.physByte y = s.physByte y) ∧
          t.flash = s.flash ∧ RegsKept { stats := [bORACE] } s t ∧
          Completed (vecWarn x f false false false p.2.2.1 || (x.statBit bPFX && !namesEntry f)) (s.fall f) s t) ∧
        (f.d.isLa = false → (∃ r y, f.d = .bo r y) → act ≠ [] → e.w ≠ 4 →
          (∀ i ∈ act, ∃ va, s.checkVa x.vf (addr i) size = .ok (.virt va)) → (∃ j, s.myCore.freeEntry = some j) →
          (∃ q, planCost (if p.2.2.1 then ldstPlan f .d .a s else gathPlan f .d .a s) = q ∧ Runs f q s) →
          Gives p.2.1 s fun t =>
            (∃ r, t.reqs.find? (·.1 == s.nextId) = some (s.nextId, r) ∧ r.op = .store ∧
              r.els.map (·.va) = (act.map fun i => (addr i).toNat % 2 ^ 56) ∧
              r.els.map (·.data) = act.map fun i => lane (x.vreg a) e.w i) ∧
            RegsKept {} s t ∧ MemKept s t ∧
            Completed (vecWarn x f false false false p.2.2.1 || (x.statBit bPFX && !namesEntry f)) (s.fall f) s t))

/-- R236, R237 and R359 to R361 in the register form: VQUANT cuts its elements into blocks, writes each block's codes, marks its
start in the bitmap and writes its type and scale after the bitmap; VDEQ gives each active lane the value of its code under the
type and scale of the block that the bitmap puts it in. -/
def Obligations.QuantisedVectors : Prop :=
  ∀ (f : Form) (s : State) (p : QPlan) (ra rd c o bm : Nat), Runs f 48 s → shaped f = false →
    let x := s.me
    let n := p.m
    let base := p.q.part * n
    let rm := x.roundMode f
    p.n = none → s.stallRead c o 16 = bm → s.stallPoison c o 144 = none → o + 144 ≤ 65536 →
    checkLa s.cur.core (BitVec.ofNat 64 p.q.side) 1 16 = .ok (c, o) → p.q.side % 65536 = o →
    (qPlan f .a .d s = .ok p → p.flt = .reg ra → p.code = .reg rd → f.d.num = rd → f.vx.mz = false → n ≤ 128 →
      let es := (List.range n).map fun i => qElem (if x.active f i then p.ef.decode (lane (x.vreg ra) p.ef.w i) else .zero false)
      let blocks := partBlocks p.q.t es 0 (n + 1)
      let quant (b : Nat × List QElem) := quantBlock p.bias p.q.ty rm x.seed (base + b.1) b.2
      (blocks.flatMap (·.2) = es ∧ ∀ b ∈ blocks, 1 ≤ b.2.length ∧ b.2.length ≤ 64) ∧
      Gives (.vquant f) s fun t =>
        let bm' := t.stallRead c o 16
        (∀ i, i < 128 → bit bm' i = if base ≤ i ∧ i < base + n then blocks.any (fun b => base + b.1 == i) else bit bm i) ∧
        (∀ b ∈ blocks, (∀ k v, (quant b).2.2.1[k]? = some v → lane (t.me.vreg rd) 4 (base + b.1 + k) = v % 16) ∧
          t.stallRead c (o + 16 + (blockStarts bm' (base + b.1)).length) 1 = ((quant b).1 * 64 + (quant b).2.1) % 256) ∧
        (∀ i, i < 128 → ¬(base ≤ i ∧ i < base + n) → lane (t.me.vreg rd) 4 i = lane (x.vreg rd) 4 i) ∧
        StallStore c o 144 s t ∧ RegsKept { vecs := [rd], srs := [rFCSR, rRSEED], stats := [bSAT, bORACE] } s t ∧
        Completed (vecWarn x f true true false true || p.q.warn || (x.statBit bPFX && !namesEntry f)) (s.fall f) s t) ∧
    (qPlan f .d .a s = .ok p → p.flt = .reg rd → p.code = .reg ra → f.d.num = rd →
      let starts := blockStarts bm (base + n)
      let scale (i : Nat) := s.stallRead c (o + 16 + ((starts.filter (· ≤ base + i)).length - 1)) 1
      let one (i : Nat) := p.ef.encode rm (rstoBits x.seed i)
        (codeVal p.bias (scale i / 64) (scale i % 64) (lane (x.vreg ra) 4 (base + i)))
      Gives (.vdeq f) s fun t => Lanes f p.ef.w (fun i => (one i).1) s t ∧
        VecDone f (flagsOf f n one s) (vecWarn x f true false false true || p.q.warn) true { vecs := [rd] } s t)

/-! Matrix commands and engine programs (spec/16_matrix_kv_attention_instructions.md R370 to R381). -/

/-- R370 to R373, R377, R378 and R220: in a matrix program each command that passes its checks takes its place in the core's queue
with the geometry, entries and rows that it will run under, and the sequencer goes on; one that does not stops the program with
its code, and a full queue holds it. R233 and R174: a MACCV whose target entry is invalid or has POL 5 begins as an operation that ends with
ECODE 0x07 at its sync word. A context that issues one raises ILLEGAL. -/
def Obligations.MatrixCommands : Prop :=
  (∀ (f : Form) (s : State), Commands f .matrixSeq 0 s →
    let core := s.cur.core
    let q := s.myCore.mseq
    let rows := min 32 q.valid
    let fa := s.engEntry q.fa
    let fb := s.engEntry q.fb
    let m := bits q.edge 0 5 + 1
    let n := bits q.edge 5 6 + 1
    let k := bits q.edge 11 5 + 1
    let all := [Instr.mgeo f, .mma f, .macz f, .macld f, .macst f, .maccv f, .mchk f]
    let stops (i : Instr) (code : Nat) : Prop := exec i s = .next (s.stopProgram core .matrixSeq code)
    let queues (i : Instr) (act : EngAct) (sync : SyncRef) (left : Nat) (geo : Nat × Nat × Nat) : Prop := Gives i s fun t =>
      (∃ o, t.ops.find? (·.1 == s.nextId) = some (s.nextId, o) ∧ o.act = act ∧ o.sync = sync ∧ o.left = left ∧ o.core = core ∧
        o.ctx = s.cur.ctx ∧ o.unit = .matrixSeq ∧ o.finished = false) ∧
      (t.core core).cmdq = s.myCore.cmdq ++ [s.nextId] ∧ (t.core core).mseq.ops = q.ops ++ [s.nextId] ∧
      ((t.core core).mseq.fa, (t.core core).mseq.fb, (t.core core).mseq.edge) = geo ∧
      (s.clk, Event.matrixArbiterStart (tileOf core)) ∈ t.due ∧ GoesOn s t ∧ MemKept s t ∧
      ∀ c r, (t.ctx core c).sreg r = (s.ctx core c).sreg r
    let same := (q.fa, q.fb, q.edge)
    (4 ≤ s.myCore.cmdq.length → ∀ i ∈ all, exec i s = .next s) ∧
    (s.myCore.cmdq.length < 4 →
      (let e := f.b.immU
       let a := s.engEntry f.d.num
       let b := s.engEntry f.a.num
       let pair : Prop := a.getLsbD 31 = true ∧ b.getLsbD 31 = true ∧ (entOf a).w = (entOf b).w ∧ (entOf a).w ≤ 16 ∧
         ((entOf a).pol = 3 ↔ (entOf b).pol = 3)
       (47 < bits e 5 6 ∨ 2 ^ 16 ≤ e → stops (.mgeo f) 0x10) ∧
       (bits e 5 6 ≤ 47 → e < 2 ^ 16 → ¬pair → stops (.mgeo f) 0x07) ∧
       (bits e 5 6 ≤ 47 → e < 2 ^ 16 → pair → queues (.mgeo f) (.matrix (.mgeo f) 0 0 0 (bits e 0 5 + 1) (bits e 5 6 + 1)
         (bits e 11 5 + 1) a.toNat b.toNat 0 32) none 0 (f.d.num, f.a.num, e))) ∧
      (∀ r, f.d = .acc r 0 →
        queues (.macz f) (.matrix (.macz f) 0 0 r m n k fa.toNat fb.toNat 0 32) none 0 same ∧
        queues (.mchk f) (.matrix (.mchk f) 0 0 r m n k fa.toNat fb.toNat 0 32) none 0 same ∧
        (∀ a b, s.matrixRange f.a (operandBytes (entOf fa) 1024) = some a →
          s.matrixRange f.b (operandBytes (entOf fb) 1536) = some b →
          queues (.mma f) (.matrix (.mma f) a b r m n k fa.toNat fb.toNat 0 rows) none 0 same) ∧
        (∀ a, s.matrixRange f.a 6144 = some a →
          queues (.macld f) (.matrix (.macld f) a 0 r m n k fa.toNat fb.toNat 0 rows) none 0 same) ∧
        (s.matrixRange f.a 6144 = none → stops (.macld f) 0x10)) ∧
      (∀ r e, f.d = .acc r e → e ≠ 0 → stops (.macz f) 0x10 ∧ stops (.mchk f) 0x10 ∧ stops (.mma f) 0x10 ∧ stops (.macld f) 0x10) ∧
      (∀ r e a sw, f.a = .acc r e → s.matrixSync f.b = some sw →
        (e = 0 → s.matrixRange f.d 6144 = some a →
          queues (.macst f) (.matrix (.macst f) a 0 r m n k fa.toNat fb.toNat 0 rows) sw (min rows m * n * 4) same) ∧
        (let fc := s.engEntry e
         s.matrixRange f.d (1536 * (entOf fc).w / 8) = some a →
          ((entOf fc).valid = false ∨ (entOf fc).pol = 5 → Gives (.maccv f) s fun t =>
            (∃ o, t.ops.find? (·.1 == s.nextId) = some (s.nextId, o) ∧
              o.act = .matrix (.maccv f) a 0 r m n k fa.toNat fb.toNat fc.toNat rows ∧ o.sync = sw ∧ o.ecode = 0x07 ∧
              o.left = min rows m * ((n * (entOf fc).w + 7) / 8) ∧ o.finished = false) ∧
            (s.clk + 1, Event.engineOpComplete s.nextId) ∈ t.due ∧ (t.core core).cmdq = s.myCore.cmdq ∧ GoesOn s t ∧
            MemKept s t) ∧
          ((entOf fc).valid = true → (entOf fc).pol ≠ 5 →
            queues (.maccv f) (.matrix (.maccv f) a 0 r m n k fa.toNat fb.toNat fc.toNat rows) sw
              (min rows m * ((n * (entOf fc).w + 7) / 8)) same))))) ∧
  (∀ (f : Form) (s : State), Runs f 4 s →
    ∀ i ∈ [Instr.mgeo f, .mma f, .macz f, .macld f, .macst f, .maccv f, .mchk f, .ewait f, .eguard f, .eloop f, .ejmp f, .eend f],
      Traps i s cILLEGAL (s.me.pc + BitVec.ofNat 64 (4 * f.npfx)).toNat)

/-- R191, R193, R377 to R381: EWAIT goes on once its sync word's generation has passed b or its program has nothing left to
complete; EGUARD waits at HOLD and else consumes its slot; ELOOP enters its body or skips it, and the end of the body starts the
next iteration with the register advanced; EJMP goes to its slot, leaving every level; EEND ends the program. SWINIT and CBSET act
from a copy program as from a context. -/
def Obligations.ProgramCommands : Prop :=
  (∀ (f : Form) (s : State) (u : AgentUnit), u ≠ .context → Commands f u 4 s →
    let core := s.cur.core
    let q := s.mySeq
    let stops (i : Instr) (code : Nat) : Prop := exec i s = .next (s.stopProgram core u code)
    let stays (i : Instr) : Prop := exec i s = .next s
    let kept (t : State) : Prop := MemKept s t ∧ ∀ c r, (t.ctx core c).sreg r = (s.ctx core c).sreg r
    (f.a = .none → (q.ops = [] → Gives (.ewait f) s fun t => GoesOn s t ∧ kept t) ∧ (q.ops ≠ [] → stays (.ewait f))) ∧
    (∀ c o, f.a ≠ .none → syncPlace core (s.engAddr f.a) = .ok (c, o) →
      let past := (bits (s.stallRead c o 16) 80 24 + 2 ^ 24 - bits (s.engVal f.b).toNat 0 24) % 2 ^ 24
      (0 < past ∧ past < 2 ^ 23 → Gives (.ewait f) s fun t => GoesOn s t ∧ kept t) ∧
      (past = 0 ∨ 2 ^ 23 ≤ past → stays (.ewait f))) ∧
    (∀ g, f.d = .slot g →
      (s.me.guard g = .hold → stays (.eguard f)) ∧
      (s.me.guard g = .run → Gives (.eguard f) s fun t =>
        t.mySeq.pos = (q.goTo ((q.pos + 16) % 65536) 3).pos ∧ t.mySeq.skip = false ∧
        t.mySeq.vnext = some (s.me.gvcnt.get g 0).toNat ∧ t.me.guard g = .hold ∧ kept t) ∧
      (s.me.guard g = .skip → Gives (.eguard f) s fun t =>
        t.mySeq.pos = (q.goTo ((q.pos + 16) % 65536) 3).pos ∧ t.mySeq.skip = true ∧ t.me.guard g = .hold ∧ kept t)) ∧
    (let n := bits f.d.immU 0 8
     (n = 0 ∨ 2 ≤ q.loops.length → stops (.eloop f) 0x10) ∧
     (n ≠ 0 → q.loops.length < 2 →
      (f.b.immU = 0 → Gives (.eloop f) s fun t => t.mySeq.pos = (q.goTo ((q.pos + 16 * (n + 1)) % 65536) 3).pos ∧ kept t) ∧
      (f.b.immU ≠ 0 → Gives (.eloop f) s fun t => t.mySeq.pos = (q.pos + 16) % 65536 ∧
        t.mySeq.loops = q.loops ++ [⟨f.b.immU, n, (q.pos + 16) % 65536, 64 * sxInt 8 (bits f.d.immU 8 8), f.a.sreg⟩] ∧ kept t))) ∧
    (let target : Int := q.pos + 16 * f.b.immS
     (target < 0 ∨ 65536 ≤ target → stops (.ejmp f) 0x10) ∧
     (0 ≤ target → target < 65536 → Gives (.ejmp f) s fun t => (t.mySeq.pos : Int) = target ∧ t.mySeq.loops = [] ∧ kept t)) ∧
    Gives (.eend f) s fun t =>
      (u = .matrixSeq → (t.core core).mseq.live = false) ∧ (u = .copySeq → (t.core core).cseq.live = false) ∧ kept t) ∧
  (∀ (q : Seq) (l : ELoop) (rest : List ELoop) (pos fuel : Nat), q.loops = rest ++ [l] →
    (pos ≠ (l.first + 16 * l.n) % 65536 → (q.goTo pos (fuel + 1)).pos = pos ∧ (q.goTo pos (fuel + 1)).loops = q.loops) ∧
    (pos = (l.first + 16 * l.n) % 65536 → 1 < l.rem → (q.goTo pos (fuel + 1)).pos = l.first ∧
      (q.goTo pos (fuel + 1)).loops = rest ++ [{ l with rem := l.rem - 1 }] ∧
      ∀ r, (q.goTo pos (fuel + 1)).regs.get r 0 = if r = l.reg ∧ r ≠ 0 then q.regs.get r 0 + BitVec.ofInt 64 l.step
        else q.regs.get r 0) ∧
    (pos = (l.first + 16 * l.n) % 65536 → l.rem ≤ 1 → rest = [] → (q.goTo pos (fuel + 2)).pos = pos ∧
      (q.goTo pos (fuel + 2)).loops = [])) ∧
  (∀ (f : Form) (s : State), Commands f .copySeq 16 s →
    let core := s.cur.core
    (∀ c o, syncPlace core (s.engAddr f.d) = .ok (c, o) → Gives (.swinit f) s fun t =>
      let a := (s.engVal f.a).toNat
      let w := t.stallRead c o 16
      bits w 0 40 = bits a 0 40 ∧ bits w 40 40 = 0 ∧ bits w 80 24 = bits (s.stallRead c o 16) 80 24 ∧ bits w 104 24 = 0 ∧
      StallStore c o 16 s t ∧ GoesOn s t) ∧
    (∀ c o, f.a.isLa = true →
      checkLa core (s.engAddr f.a + BitVec.ofNat 64 (8 * bits (s.engVal f.b).toNat 6 26)) 8 8 = .ok (c, o) →
      Gives (.cbset f) s fun t => t.stallRead c o 8 = s.stallRead c o 8 ||| 2 ^ bits (s.engVal f.b).toNat 0 6 ∧
        StallStore c o 8 s t ∧ GoesOn s t))

/-- R220 and R377: a command that the arbiter visits starts in the tile's unit: MACZ clears its accumulator and its check sums,
MACLD loads the elements of its active rows, MACST stores them, and MCHK finds a mismatch of check sums. R178 and R374: when an
MMA has consumed its operands its window closes, its pins come due for release, and the product of the active rows is added. R87:
a release lowers the pins of its lines. -/
def Obligations.MatrixEvents : Prop :=
  (∀ (s : State) (tile co left id : Nat) (a : Arb) (o : EngOp) (p : MatOp), s.arbs.get tile ⟨7, 0, none⟩ = a → a.busy = none →
    s.visit tile a = some (co, left, id) → s.ops.find? (·.1 == id) = some (id, o) → o.mat = some p → o.finished = false →
    let x := s.ctx o.core o.ctx
    let at_ (r c : Nat) : Nat := 1536 * p.d + 48 * r + c
    let rows := min p.m p.rows
    let starts (P : State → Prop) : Prop := Happens (.matrixArbiterStart tile) s fun t =>
      P t ∧ t.arbs.get tile ⟨7, 0, none⟩ = ⟨co, left - 1, some id⟩ ∧
      (t.core o.core).cmdq = (s.core o.core).cmdq.filter (· != id) ∧ ∀ r, (t.ctx o.core o.ctx).sreg r = x.sreg r
    (∀ f, p.i = .macz f → starts fun t =>
      (∀ k, (t.ctx o.core o.ctx).acc.get k 0 = if k / 1536 = p.d then 0 else x.acc.get k 0) ∧
      (t.ctx o.core o.ctx).sumsMatch p.d = true ∧ (s.clk + 1, Event.engineOpComplete id) ∈ t.due ∧ MemKept s t) ∧
    (∀ f, p.i = .mchk f →
      (x.sumsMatch p.d = true → starts fun t => (s.clk + 16, Event.engineOpComplete id) ∈ t.due ∧
        (t.ctx o.core o.ctx).acc = x.acc ∧ MemKept s t) ∧
      (x.sumsMatch p.d = false → o.ecode = 0 → starts fun t =>
        (∃ q, t.ops.find? (·.1 == id) = some (id, q) ∧ q.ecode = 0x11) ∧ (s.clk + 1, Event.engineOpComplete id) ∈ t.due ∧
        MemKept s t)) ∧
    (∀ f c off, p.a = meshBase + 65536 * c + off → off + 6144 ≤ 65536 → c < numCores → p.m ≤ 32 → p.n ≤ 48 →
      (p.i = .macld f → s.stallPoison c off 6144 = none → starts fun t =>
        (∀ r j, r < rows → j < p.n → ((t.ctx o.core o.ctx).acc.get (at_ r j) 0).toNat = s.stallRead c (off + 192 * r + 4 * j) 4) ∧
        (∀ k, (∀ r j, r < rows → j < p.n → k ≠ at_ r j) → (t.ctx o.core o.ctx).acc.get k 0 = x.acc.get k 0) ∧
        (s.clk + 48, Event.engineOpComplete id) ∈ t.due ∧ MemKept s t) ∧
      (p.i = .macst f → starts fun t =>
        (∀ r j, r < rows → j < p.n → t.stallRead c (off + 192 * r + 4 * j) 4 = (x.acc.get (at_ r j) 0).toNat) ∧
        StallStore c off 6144 s t ∧ (t.ctx o.core o.ctx).acc = x.acc ∧ (s.clk + 48, Event.engineOpComplete id) ∈ t.due))) ∧
  (∀ (s : State) (core id : Nat) (ar : Arb) (o : EngOp) (p : MatOp), s.arbs.find? (·.1 == tileOf core) = some (tileOf core, ar) →
    ar.busy = some id → s.ops.find? (·.1 == id) = some (id, o) → o.mat = some p → o.finished = false → o.core = core →
    p.a < meshBase → p.b < meshBase → s.mmaErr.get core 0 = 0 → Happens (.mmaOperandsConsumed core) s fun t =>
      let x := s.ctx core o.ctx
      let res := mmaResults x (entOf p.fa) (entOf p.fb) p.d p.m p.n p.k p.rows (o.data.get 0 0) (o.data.get 1 0)
      (t.ctx core o.ctx).acc = (x.putAcc res.1).acc ∧ (t.ctx core o.ctx).statBit bSAT = (x.statBit bSAT || res.2) ∧
      (∃ q, t.ops.find? (·.1 == id) = some (id, q) ∧ q.window = [] ∧ q.olds = []) ∧
      (s.clk, Event.pinRelease id) ∈ t.due ∧ (s.clk + 1, Event.engineOpComplete id) ∈ t.due ∧ MemKept s t) ∧
  (∀ (acc : Int) (as bs : List Val),
    let sum := acc + ((as.zip bs).map fun p => p.1.toInt * p.2.toInt).sum
    int32.decodeInt (mmaInt acc as bs).1 = max (-2147483648) (min 2147483647 sum)) ∧
  (∀ (s : State) (id sl asid vl : Nat) (o : EngOp) (c : C2Line), s.ops.find? (·.1 == id) = some (id, o) → s.held = [] →
    o.pinned = [(sl, asid, vl)] → s.c2Line sl asid vl = some c → Happens (.pinRelease id) s fun t =>
      (∃ d, t.c2Line sl asid vl = some d ∧ d.pins = c.pins - 1 ∧ d.data = c.data) ∧
      (∃ q, t.ops.find? (·.1 == id) = some (id, q) ∧ q.pinned = []) ∧ MemKept s t ∧ ∀ n c', t.ctx n c' = s.ctx n c')

/-! The KV store, attention, tiers and parking (spec/16_matrix_kv_attention_instructions.md R382 to R394;
spec/04_kv_store_and_slice_attention.md, spec/05_tiers_and_parking.md). -/

/-- R384 to R388, R394 and R233: KVAPP checks its request at issue and begins, of a context or in a copy slot; one that breaks R384
raises KVREQ, and in a slot one whose formats are refused begins as an operation that ends with ECODE 0x07, any other stopping the
program. KVMAP, KVREL, PXINS and PXGET wait as releases for the context's stores, and complete with the status and counts of what
they have done: KVOFF without their quarter, KVREL of a parked sequence having done nothing, and PXGET and a losing PXINS having
put the index's entry in their image. A request or an image that cannot be read faults, a poisoned one being counted. -/
def Obligations.KvStoreInstructions : Prop :=
  ∀ (f : Form) (s : State),
    let w := s.me.opAddr f.a
    let vf := s.me.vf
    let image (i : Instr) (c o e st : Nat) (u : State) : Prop := Gives i s fun t =>
      t.stallRead c o 64 = e % 2 ^ 512 ∧ StallStore c o 64 u t ∧ Result f (BitVec.ofNat 64 st) s t ∧
      (t.core s.cur.core).c1 = (u.core s.cur.core).c1Acquire.c1 ∧ RegsKept { regs := [f.d.sreg], stats := [bORACE] } s t ∧
      Completed (s.plainWarn f) (s.fall f) s t
    (Runs f 16 s →
      (∀ va r, readStallRec s w 64 = .ok (va, r) →
        (kvReqBad .kvapp r = true → Traps (.kvapp f) s cKVREQ w.toNat) ∧
        (kvReqBad .kvrel r = true → Traps (.kvrel f) s cKVREQ w.toNat)) ∧
      (∀ e, readStallRec s w 64 = .error e → TrapsLa (.kvapp f) s e ∧ TrapsLa (.kvrel f) s e ∧ TrapsLa (.pxget f) s e ∧
        ((s.me.opU f.b).toNat ≤ 1 → TrapsLa (.pxinsInsert f) s e ∧ TrapsLa (.pxinsRemove f) s e)) ∧
      (∀ e, kvappReq s w = .error e → TrapsLa (.kvapp f) s e) ∧
      (∀ act sync la, kvappReq s w = .ok (act, sync, la) → WaitsForStores (.kvapp f) s ∧
        (s.relWait = none → BeginsAtMap (.kvapp f) f act sync 64 130 s)) ∧
      (∀ va r, readKvReq s .kvrel w = .ok (va, r) → WaitsForStores (.kvrel f) s ∧
        (s.relWait = none →
          (s.seqParked vf r.seq = true → Answers (.kvrel f) f s s kvPARKED) ∧
          (s.seqParked vf r.seq = false → ∀ off n u, s.releaseHeads vf r = (off, n, u) →
            Answers (.kvrel f) f s u ((if off then kvKVOFF else kvOK) + 256 * (n % 2 ^ 24))))) ∧
      (∀ va x, readStallRec s w 64 = .ok (va, x) →
        let head := bits x 64 8
        let bad : Prop := bits x 80 8 = 0 ∨ 12 < bits x 80 8 ∨ bits x 96 32 = 0 ∨ 192 < bits x 96 32
        let c := (va - meshBase) / 65536
        let o := va % 65536
        (∀ b, (s.me.opU f.b).toNat = b → ∀ p ∈ [(0, Instr.pxinsInsert f), (1, .pxinsRemove f)],
          (1 < b → Traps p.2 s cILLEGAL (s.me.pc + BitVec.ofNat 64 (4 * (f.npfx + 2))).toNat) ∧
          (b = p.1 → bad → Traps p.2 s cKVREQ w.toNat) ∧
          (b = p.1 → ¬bad → WaitsForStores p.2 s ∧ (s.relWait = none →
            (s.kvQ (head % 4) = none → Answers p.2 f s s kvKVOFF) ∧
            (∀ q, s.kvQ (head % 4) = some q →
              (b = 0 → ∀ st u, s.pxInsert q vf x = (st, none, u) → Answers (.pxinsInsert f) f s u st) ∧
              (b = 0 → ∀ st e u, s.pxInsert q vf x = (st, some e, u) → image (.pxinsInsert f) c o e st u) ∧
              (b = 1 → ∀ pa, s.pxFind q vf head (bits x 0 64) = some pa →
                Answers (.pxinsRemove f) f s ((s.physWrite pa 64 0).dropRefs (imageBlocks (s.physRead pa 64))) kvOK) ∧
              (b = 1 → s.pxFind q vf head (bits x 0 64) = none → Answers (.pxinsRemove f) f s s kvNOTFOUND))))) ∧
        WaitsForStores (.pxget f) s ∧
        (s.relWait = none →
          (s.kvQ (head % 4) = none → Answers (.pxget f) f s s kvKVOFF) ∧
          (∀ q, s.kvQ (head % 4) = some q →
            (s.pxFind q vf head (bits x 0 64) = none → Answers (.pxget f) f s s kvNOTFOUND) ∧
            (∀ pa, s.pxFind q vf head (bits x 0 64) = some pa → image (.pxget f) c o (s.physRead pa 64) kvOK s))))) ∧
    (Runs f 32 s →
      (∀ e, readKvReq s .kvmap w = .error e → TrapsLa (.kvmap f) s e) ∧
      (∀ va r e, readKvReq s .kvmap w = .ok (va, r) → readStallRec s (s.me.opAddr f.b) 64 = .error e → TrapsLa (.kvmap f) s e) ∧
      (∀ va r vb x, readKvReq s .kvmap w = .ok (va, r) → readStallRec s (s.me.opAddr f.b) 64 = .ok (vb, x) →
        (bits x 80 8 = 0 ∨ 12 < bits x 80 8 → Traps (.kvmap f) s cKVREQ (s.me.opAddr f.b).toNat) ∧
        (1 ≤ bits x 80 8 → bits x 80 8 ≤ 12 → WaitsForStores (.kvmap f) s ∧ (s.relWait = none →
          (s.kvQ (r.head % 4) = none → Answers (.kvmap f) f s s kvKVOFF) ∧
          (∀ q st n u, s.kvQ (r.head % 4) = some q → s.mapAliases q ⟨vf, r.seq, r.head, r.lblk⟩ 0 (imageBlocks x) = (st, n, u) →
            Answers (.kvmap f) f s u (st + 256 * n)))))) ∧
    (Commands f .copySeq 16 s →
      let begins (act : EngAct) (sync : SyncRef) (ecode delay : Nat) (e : Event) : Prop := Gives (.kvapp f) s fun t =>
        (∃ o, t.ops.find? (·.1 == s.nextId) = some (s.nextId, o) ∧ o.act = act ∧ o.sync = sync ∧ o.left = 64 ∧ o.unit = .copySeq ∧
          o.ecode = ecode ∧ o.finished = false) ∧
        (s.clk + delay, e) ∈ t.due ∧ GoesOn s t ∧ MemKept s t
      (∀ act sync la, kvappReq s (s.engAddr f.a) = .ok (act, sync, la) → begins act sync 0 130 (.pitchMapRequest s.nextId)) ∧
      (∀ va r n sw, readKvReq s .kvapp (s.engAddr f.a) = .ok (va, r) → kvappReq s (s.engAddr f.a) = .error (cKVFMT, n) →
        syncPlace s.cur.core (BitVec.ofNat 64 r.swla) = .ok sw →
        begins (.kvapp va r.seq r.head r.lblk r.slot r.dsel (s.engEntry r.fk) (s.engEntry r.fv) 0 0) (some sw) 0x07 1
          (.engineOpComplete s.nextId)) ∧
      (∀ e, kvappReq s (s.engAddr f.a) = .error e → e.1 ≠ cKVFMT →
        exec (.kvapp f) s = .next (s.stopProgram s.cur.core .copySeq 0x10)))

/-- R389, R390, R112, R114 and R116: ATTN checks its request and begins; AMRG completes with two sets merged head by head into a
third, a head whose l is 0 giving way to the other and the counts adding up, saturating.
R385, R105, R106 and R87: at the home of its key, a KVAPP of a live block writes its two rows at its slot, raises NTOK and stores
its status; the next slot alone is taken, a prefix block or one reached by an alias is SHARED, and nothing changes where the quarter
is not enabled; one that meets a moving block, a pinned line or an earlier held one of its key is held.
R111, R112 and R107: a token whose score is not a number, or is plus infinity, makes its head's triple not a number; a contributor
adds one block to its slice's triples: a missing, a cold or a poisoned one to the counts, any other token by token, or waits for
its base die's tokens. R111, R114 and R116: an ATTN over no blocks writes empty triples and completes; a set of triples that
reaches a merge point on which others are awaited is merged there, the last goes on to the next, and at the requester's the
records are written and the operation completes. -/
def Obligations.AttentionAndPitchMap : Prop :=
  (∀ (f : Form) (s : State),
    let w := s.me.opAddr f.a
    (Runs f 16 s →
      (∀ va r, readStallRec s w 64 = .ok (va, r) → kvReqBad .attn r = true → Traps (.attn f) s cKVREQ w.toNat) ∧
      (∀ e, attnReq s w = .error e → TrapsLa (.attn f) s e) ∧
      (∀ act sync n, attnReq s w = .ok (act, sync, n) → WaitsForStores (.attn f) s ∧
        (s.relWait = none → BeginsAtMap (.attn f) f act sync n 1 s))) ∧
    (let b := (s.me.opU f.b).toNat
     let d := 64 * 2 ^ bits b 24 2
     let g := bits b 26 3 + 1
     let n := g * (64 + 4 * d)
     Runs f (3 * 16 * (n / 64)) s →
      (bits b 29 35 ≠ 0 ∨ bits b 24 2 = 3 → Traps (.amrg f) s cKVREQ w.toNat) ∧
      (bits b 29 35 = 0 → bits b 24 2 ≠ 3 → ∀ ca oa cb ob cd od,
        checkLa s.cur.core w n 64 = .ok (ca, oa) → checkLa s.cur.core (BitVec.ofNat 64 (bits b 0 24)) n 64 = .ok (cb, ob) →
        checkLa s.cur.core (s.me.opAddr f.d) n 64 = .ok (cd, od) → s.stallPoison ca oa n = none → s.stallPoison cb ob n = none →
        oa + n ≤ 65536 → ob + n ≤ 65536 → Gives (.amrg f) s fun t =>
          t.stallRead cd od n = packRecords d ((List.range g).map fun h =>
            (tripleOf d (s.stallRead ca (oa + h * (64 + 4 * d)) (64 + 4 * d))).merge
              (tripleOf d (s.stallRead cb (ob + h * (64 + 4 * d)) (64 + 4 * d)))) % 2 ^ (8 * n) ∧
          StallStore cd od n s t ∧ RegsKept { stats := [bORACE] } s t ∧ Completed (s.plainWarn f) (s.fall f) s t))) ∧
  (∀ x y : Triple, let z := x.merge y
    z.nused = min 0xFFFFFFFF (x.nused + y.nused) ∧ z.miss = min 0xFFFF (x.miss + y.miss) ∧
    z.cold = min 0xFFFF (x.cold + y.cold) ∧ z.pois = min 0xFFFF (x.pois + y.pois) ∧
    (f32IsNan x.m = false → f32IsNan y.m = false → x.l = 0 → z.m = y.m ∧ z.l = y.l ∧ z.o = y.o) ∧
    (f32IsNan x.m = false → f32IsNan y.m = false → x.l ≠ 0 → y.l = 0 → z.m = x.m ∧ z.l = x.l ∧ z.o = x.o) ∧
    (f32IsNan x.m = true ∨ f32IsNan y.m = true → z.m = 0x7FC00000 ∧ z.l = 0x7FC00000 ∧ ∀ v ∈ z.o, v = 0x7FC00000)) ∧
  (∀ (x : Triple) (scale : Nat) (q k v : List Nat), let z := x.token scale q k v
    let sc := f32Mul scale (dotRows q k)
    (z.nused, z.miss, z.cold, z.pois) = (x.nused, x.miss, x.cold, x.pois) ∧
    (f32IsNan x.m = true → z = x) ∧
    (f32IsNan x.m = false → f32IsNan sc = true ∨ sc = f32Inf →
      z.m = 0x7FC00000 ∧ z.l = 0x7FC00000 ∧ ∀ e ∈ z.o, e = 0x7FC00000) ∧
    (f32IsNan x.m = false → f32IsNan sc = false → sc ≠ f32Inf →
      (f32Gt sc x.m = true → z.m = sc ∧ z.l = f32Add (f32Mul x.l (f32Exp2Sub x.m sc)) (if sc = f32NegInf then 0 else f32Exp2Sub sc sc)) ∧
      (f32Gt sc x.m = false → z.m = x.m ∧ z.l = f32Add x.l (if sc = f32NegInf then 0 else f32Exp2Sub sc x.m)))) ∧
  (∀ (s : State) (id req seq head lblk slot dsel ala bla : Nat) (fk fv : FmtWord) (o : EngOp), s.engOp id = some o →
    o.finished = false → o.act = .kvapp req seq head lblk slot dsel fk fv ala bla → o.low = 0 →
    let k : KvKey := ⟨o.asid / 1024, seq, head, lblk⟩
    let ends (st : Nat) (u t : State) : Prop :=
      t = ((u.stallWrite ((req - meshBase) / 65536) (req % 65536 + 31) 1 st).modOp id fun o => { o with low := 1 }).later 130
        (.engineOpComplete id)
    let s' : State := { s with ev := .pitchMapRequest id }
    ((s.kvMoving k = true ∨ s.kvPinned k = true ∨ ∃ i, i ∈ s.kvWait.takeWhile (· != id) ∧ s.kvKeyOf i = some k) →
      Happens (.pitchMapRequest id) s fun t =>
        id ∈ t.kvWait ∧ (id ∈ s.kvWait → t.kvWait = s.kvWait) ∧ (id ∉ s.kvWait → t.kvWait = s.kvWait ++ [id]) ∧
        (s.kvPinned k = true → (s.clk + 16, Event.pitchMapRequest id) ∈ t.due) ∧ t.ops = s.ops ∧ MemKept s t ∧
        ∀ n c, t.ctx n c = s.ctx n c) ∧
    (s.kvWait = [] → s.kvQ (head % 4) = none → Happens (.pitchMapRequest id) s (ends kvKVOFF s')) ∧
    (∀ q, s.kvWait = [] → s.kvQ (head % 4) = some q → s.kvMoving k = false → s.kvPinned k = false →
      (s.seqParked k.vf seq = true → Happens (.pitchMapRequest id) s (ends kvPARKED s')) ∧
      (s.seqParked k.vf seq = false → s.kvLookup q k = none → slot ≠ 0 → Happens (.pitchMapRequest id) s (ends kvORDER s')) ∧
      (∀ h, s.seqParked k.vf seq = false → s.kvLookup q k = some h → h.tier = 2 → Happens (.pitchMapRequest id) s (ends kvCOLD s')) ∧
      (∀ h, s.seqParked k.vf seq = false → s.kvLookup q k = some h → h.tier ≠ 2 →
        eState (s.kvHolder q h) = esPrefix ∨ h.shared = true → Happens (.pitchMapRequest id) s (ends kvSHARED s')) ∧
      (∀ h, s.seqParked k.vf seq = false → s.kvLookup q k = some h → h.tier ≠ 2 → h.shared = false →
        eState (s.kvHolder q h) = esLive →
        (slot ≠ eNtok (s.kvHolder q h) → Happens (.pitchMapRequest id) s (ends kvORDER s')) ∧
        (slot = eNtok (s.kvHolder q h) →
          let nk := 64 * 2 ^ dsel * (entOf fk).w / 8
          let nv := 64 * 2 ^ dsel * (entOf fv).w / 8
          let u := (s'.writeRow ala (h.pa q + slot * nk) nk).writeRow bla (h.pa q + 0x2000 + slot * nv) nv
          Happens (.pitchMapRequest id) s (ends kvOK (u.setKvHolder q h (eSetNtok (s.kvHolder q h) (slot + 1)))))))) ∧
  (∀ (s : State) (id seq head lblk dsel gm1 scale ala bla : Nat) (fq fk fv : FmtWord) (o : EngOp) , s.engOp id = some o →
    o.finished = false → o.act = .attn seq head lblk 0 dsel gm1 fq fk fv scale ala bla → dsel ≤ 2 → gm1 ≤ 7 →
    (∀ h, h ≤ gm1 → (stallAt s (ala + h * (64 * 2 ^ dsel * (entOf fq).w / 8)) (64 * 2 ^ dsel * (entOf fq).w / 8)).2 = none) →
    bla % 65536 + (gm1 + 1) * (64 + 256 * 2 ^ dsel) ≤ 65536 → Happens (.pitchMapRequest id) s fun t =>
      let n := (gm1 + 1) * (64 + 256 * 2 ^ dsel)
      t.stallRead ((bla - meshBase) / 65536) (bla % 65536) n =
        packRecords (64 * 2 ^ dsel) (List.replicate (gm1 + 1) ⟨0xFF800000, 0, List.replicate (64 * 2 ^ dsel) 0, 0, 0, 0, 0⟩) ∧
      StallStore ((bla - meshBase) / 65536) (bla % 65536) n s t ∧ (s.clk, Event.engineOpComplete id) ∈ t.due ∧
      ∀ n c r, (t.ctx n c).sreg r = (s.ctx n c).sreg r) ∧
  (∀ (s : State) (id seq head lblk nlb dsel gm1 scale ala bla slice : Nat) (fq fk fv : FmtWord) (o : EngOp), s.engOp id = some o →
    o.finished = false → o.act = .attn seq head lblk nlb dsel gm1 fq fk fv scale ala bla →
    (o.slicePins.get slice [] = [] → nlb ≤ o.data.get (1 + slice) 0 → Happens (.attnContributor id slice) s fun t =>
      (s.clk + 1, Event.weighbridgeMerge id slice) ∈ t.due ∧ t.ops = s.ops ∧ MemKept s t ∧ ∀ n c, t.ctx n c = s.ctx n c) ∧
    (let stack := head % 4
     let q := kvqOf stack (s.pkg.kvPool.get stack 0)
     let at_ := o.data.get (1 + slice) 0
     let key (i : Nat) : KvKey := ⟨o.asid / 1024, seq, head, lblk + at_ + i⟩
     let ts := o.trips.get slice []
     ∀ i, o.slicePins.get slice [] = [] → (List.range (nlb - at_)).find? (fun i => q.home (key i) == slice) = some i →
      let passes (n : Option Nat) (us : List Triple) : Prop := Happens (.attnContributor id slice) s fun t =>
        (∃ p, t.engOp id = some p ∧ p.trips.get slice [] = us ∧ p.data.get (1 + slice) 0 = at_ + i + 1) ∧
        (∃ d, (s.clk + d, Event.attnContributor id slice) ∈ t.due ∧ (n = some d ∨ n = none)) ∧ MemKept s t ∧
        ∀ n c, t.ctx n c = s.ctx n c
      ((s.kvQ stack).isSome = false ∨ s.kvLookup q (key i) = none →
        passes (some 1) (ts.map fun t => t.addCounts ⟨0, 0, [], 0, 1, 0, 0⟩)) ∧
      (∀ h, (s.kvQ stack).isSome = true → s.kvLookup q (key i) = some h →
        let cost := 32 * (64 * 2 ^ dsel) * (gm1 + 1) * max (entOf fk).w (entOf fv).w / 16
        (h.tier = 2 → passes (some 1) (ts.map fun t => t.addCounts ⟨0, 0, [], 0, 0, 1, 0⟩)) ∧
        (h.tier ≠ 2 → s.diePurse.get stack (1048576 * 1024) < (cost : Int) → Happens (.attnContributor id slice) s fun t =>
          t.ops = s.ops ∧ (s.clk + 64, Event.attnContributor id slice) ∈ t.due ∧ MemKept s t) ∧
        (h.tier ≠ 2 → (cost : Int) ≤ s.diePurse.get stack (1048576 * 1024) →
          (∀ l ∈ s.c2, ¬(h.pa q / 64 ≤ l.pline ∧ 64 * l.pline < h.pa q + 16384)) →
          let n := min 16 (eNtok (s.kvHolder q h))
          let nk := n * (64 * 2 ^ dsel) * (entOf fk).w / 8
          let nv := n * (64 * 2 ^ dsel) * (entOf fv).w / 8
          let bad : Prop := (s.physPoison (h.pa q) nk).isSome = true ∨ (s.physPoison (h.pa q + 0x2000) nv).isSome = true
          (bad → passes none (ts.map fun t => t.addCounts ⟨0, 0, [], 0, 0, 0, 1⟩)) ∧
          (¬bad → passes none ((blockTriples ts o.poisonHeads (entOf fq) (entOf fk) (entOf fv) (64 * 2 ^ dsel) scale
            (o.data.get 0 0) (s.physRead (h.pa q) nk) (s.physRead (h.pa q + 0x2000) nv) n).map
              fun t => t.addCounts ⟨0, 0, [], n, 0, 0, 0⟩))))) ∧
    (let ts := o.merges.get 128 []
     let n := ts.length * (64 + 256 * 2 ^ dsel)
     o.poisonHeads = [] → bla % 65536 + n ≤ 65536 → Happens (.weighbridgeMerge id 128) s fun t =>
       t.stallRead ((bla - meshBase) / 65536) (bla % 65536) n = packRecords (64 * 2 ^ dsel) ts % 2 ^ (8 * n) ∧
       StallStore ((bla - meshBase) / 65536) (bla % 65536) n s t ∧ (s.clk, Event.engineOpComplete id) ∈ t.due ∧
       ∀ n c r, (t.ctx n c).sreg r = (s.ctx n c).sreg r) ∧
    (slice < 64 →
      let p := 64 + slice / 16
      let ts := o.trips.get slice []
      let m := if o.merges.has p then (o.merges.get p []).zip ts |>.map fun x => x.1.merge x.2 else ts
      Happens (.weighbridgeMerge id slice) s fun t =>
        (∃ q, t.engOp id = some q ∧ q.merges.get p [] = m ∧ q.expects.get p 1 = o.expects.get p 1 - 1) ∧
        (o.expects.get p 1 ≤ 1 → (s.clk + 8, Event.weighbridgeMerge id p) ∈ t.due) ∧ MemKept s t ∧ ∀ n c, t.ctx n c = s.ctx n c))

/-- R391 to R394, R129 to R132, R121 to R123: PARK checks its record, waits as a release, and completes with BADPARK, BUSY or WATCHFULL
where it may not park (the order of BUSY and WATCHFULL before the wake word is log entry 187's, the rights asked log entry 188's);
otherwise it parks: the record is written in STATE 2 and the helper's routine ends without a signal, or the continuation is requeued
at once where the wake word is already nonzero; only a helper may issue it. WAKE completes with OK and gives the wake event to a
parked record, and with NOTPARKED for anything else. HEAT completes with a page's counter, tier and registration, which it changes
under b; MIGR completes with the status that refuses, or with OK and the move started. Both take the fault of an address that does
not translate. -/
def Obligations.ParkWakeHeatMigr : Prop :=
  ∀ (f : Form) (s : State),
    let w := s.me.opAddr f.a
    let b := (s.me.opU f.b).toNat
    let faults (i : Instr) (u : State) (code : Nat) (v : Word) : Prop := s.me.loads = [] →
      exec i s = .next (u.enterTrap s.cur.core s.cur.ctx (causeWord code false 0 0 0 0) v s.me.pc)
    (Runs f 56 s →
      (s.cur.ctx = 0 → Traps (.park f) s cCTXPERM 0) ∧
      (s.cur.ctx ≠ 0 → ∀ e, readStallRec s (s.me.opAddr f.b) 32 = .error e → TrapsLa (.park f) s e) ∧
      (s.cur.ctx ≠ 0 → ∀ vb req, readStallRec s (s.me.opAddr f.b) 32 = .ok (vb, req) → WaitsForStores (.park f) s ∧
        (s.relWait = none → ∀ ra u wa v lr, s.parkPage w 64 = (ra, u) → u.parkPage (extend56 (bits req 64 56)) 8 = (wa, v) →
          (s.me.launch.bind fun l => s.launches.find? (·.1 == l)) = lr →
          (ra = none ∨ wa = none ∨ lr = none → Answers (.park f) f s v kvBADPARK) ∧
          (∀ rva rt wva wt l r, ra = some (rva, rt) → wa = some (wva, wt) → lr = some (l, r) →
            let code := BitVec.ofNat 64 (bits req 0 64)
            let good : Prop := rt.cls = 3 ∧ canonical code = true ∧ code.toNat % 4 = 0 ∧ bits req 185 7 = 0 ∧ bits req 224 32 = 0
            (¬good → Answers (.park f) f s v kvBADPARK) ∧
            (good → s.seqParked s.me.vf (bits req 128 32) = true → Answers (.park f) f s v kvBUSY) ∧
            (good → s.seqParked s.me.vf (bits req 128 32) = false →
              256 ≤ s.watches (wt.slice s.cur.core s.me.asid wva) → Answers (.park f) f s v kvWATCHFULL) ∧
            (good → s.seqParked s.me.vf (bits req 128 32) = false → s.watches (wt.slice s.cur.core s.me.asid wva) < 256 →
              s.me.loads = [] → (∀ e ∈ s.parks, e.1 < s.nextId) → s.engineWork s.cur.core s.cur.ctx = false →
              s.myCore.queue = none →
              let woken := v.physRead (wt.pa wva) 8 ≠ 0
              Gives (.park f) s fun t =>
                let x := t.ctx s.cur.core s.cur.ctx
                x.st = .free ∧ x.launch = none ∧ x.sigCount = s.me.sigCount ∧
                (f.d.sreg ≠ 0 → x.sreg f.d.sreg = BitVec.ofNat 64 (if woken then kvWOKEN else kvOK)) ∧
                (¬woken → ∃ p, (s.nextId, p) ∈ t.parks ∧ p.state = 2 ∧ p.pa = rt.pa rva ∧ p.vf = s.me.vf ∧ p.launch = s.me.launch ∧
                  p.wakePa = wt.pa wva ∧ p.since = s.clk ∧ p.aged = 0 ∧ bits p.raw 0 64 = bits req 0 64 ∧
                  bits p.raw 64 64 = (s.me.sreg 62).toNat) ∧
                (woken → ∀ p, (s.nextId, p) ∈ t.parks → p.state = 7)))))) ∧
    (Runs f 40 s →
      (WaitsForStores (.wake f) s ∧ (b ≤ 2 → WaitsForStores (.migr f) s)) ∧
      (2 < b → Traps (.heat f) s cILLEGAL (parcelAt s f 2) ∧ Traps (.migr f) s cILLEGAL (parcelAt s f 2)) ∧
      (s.relWait = none →
        (∀ e, s.checkVa s.me.vf w 1 = .error e → TrapsLa (.wake f) s e) ∧
        (∀ c o, s.checkVa s.me.vf w 1 = .ok (.mesh c o) → Answers (.wake f) f s s kvNOTPARKED) ∧
        (∀ va e u k, s.checkVa s.me.vf w 1 = .ok (.virt va) → s.translate (stkOf s.cur.core) s.me.asid va = (.error e, u, k) →
          faults (.wake f) u e w) ∧
        (∀ va t u k, s.checkVa s.me.vf w 1 = .ok (.virt va) → s.translate (stkOf s.cur.core) s.me.asid va = (.ok t, u, k) →
          (∀ e, transFault t .rw va = some e → faults (.wake f) u e w) ∧
          (transFault t .rw va = none →
            (t.fab = true ∨ s.parks.find? (·.2.pa == t.pa va) = none → Answers (.wake f) f s u kvNOTPARKED) ∧
            (∀ id p, t.fab = false → s.parks.find? (·.2.pa == t.pa va) = some (id, p) →
              Answers (.wake f) f s (u.wakePark id) kvOK)))) ∧
      (∀ e u, b ≤ 2 → s.namedPage w = (.error e, u) →
        faults (.heat f) u e.1 (BitVec.ofNat 64 e.2) ∧ (s.relWait = none → faults (.migr f) u e.1 (BitVec.ofNat 64 e.2))) ∧
      (∀ t u, b ≤ 2 → s.namedPage w = (.ok t, u) →
        (∃ reg : Bool, Gives (.heat f) s fun v =>
          Result f (BitVec.ofNat 64 (t.tier * 2 ^ 16 + reg.toNat * 2 ^ 18 +
            (if t.fab = true ∨ t.tier = 2 then 2 ^ 63 else s.heat.get (t.pa (w.toNat % 2 ^ 56) / 65536) 0))) s v ∧
          (t.fab = true → reg = false ∧ v.regs = s.regs) ∧
          (t.fab = false → (v.regOf t).isSome = reg ∧ (b = 0 → v.regs = s.regs) ∧ (b = 1 → reg = true) ∧
            (b = 2 → v.regs = s.regs.erase (regKey t.tier t.base))) ∧
          RegsKept { regs := [f.d.sreg] } s v ∧ MemKept s v ∧ Completed (s.plainWarn f) (s.fall f) s v) ∧
        (s.relWait = none →
          (t.fab = true → Answers (.migr f) f s u kvREMOTE) ∧
          (t.fab = false → 0x200000 < t.size → Answers (.migr f) f s u kvSIZE) ∧
          (t.fab = false → t.size ≤ 0x200000 →
            let v := u.register s.me.asid t
            (v.pageMoving t.tier t.base = true ∨ v.holdsPark t = true → Answers (.migr f) f s v kvBUSY) ∧
            (v.pageMoving t.tier t.base = false → v.holdsPark t = false →
              (t.tier = b → Answers (.migr f) f s v kvSAME) ∧
              (t.tier ≠ b → ∀ k r, v.regOf t = some (k, r) →
                (v.movePage r t.tier t.base b none = none → Answers (.migr f) f s v kvTIERFULL) ∧
                (∀ m, v.movePage r t.tier t.base b none = some m → Answers (.migr f) f s m kvOK)))))))

/-- R405, R406, R411, R412, R442 and R449: SVC writes its request at the tail of its function's ring, raises the service vector
and waits for the reply, with which it then completes; PWREQ puts its request to the sample and waits for its status, with which it
then completes, and gives RANGE for a bad point; C2OP checks its address, its address space and its range, and then, where no line is
pinned, no fill is in flight and the write-backs can be paid (R87, R412, R436), completes with no line, translation or instruction
block left of the range that its operation names, every dirty line having been written back; it is held where a pin or the tokens are
missing. -/
def Obligations.ServicePowerAndCacheControl : Prop :=
  ∀ (f : Form) (s : State), Runs f 4 s →
    let core := s.cur.core
    let c := s.cur.ctx
    let vf := s.me.vf
    let a := (s.me.opU f.a).toNat
    (2 ^ 16 ≤ f.b.immU → Traps (.svc f) s cILLEGAL (parcelAt s f 2)) ∧
    (f.b.immU < 2 ^ 16 → WaitsForStores (.svc f) s) ∧
    (f.b.immU < 2 ^ 16 → s.relWait = none →
      (∀ r v, s.svcs.find? (fun r => r.core == core && r.ctx == c) = some r → r.reply = some v → Gives (.svc f) s fun t =>
        Result f v s t ∧ t.svcs = s.svcs.erase r ∧ (t.core core).c1 = s.myCore.c1Acquire.c1 ∧
        RegsKept { regs := [f.d.sreg] } s t ∧ MemKept s t ∧ Completed (s.plainWarn f) (s.fall f) s t) ∧
      (∀ r, s.svcs.find? (fun r => r.core == core && r.ctx == c) = some r → r.reply = none →
        Gives (.svc f) s fun t => Held .wait s t ∧ t.svcs = s.svcs) ∧
      (∀ base logn, s.svcs.find? (fun r => r.core == core && r.ctx == c) = none → s.svcRing vf = some (base, logn) →
        let open_ := s.svcs.filter fun r => r.vf == vf && r.reply.isNone
        let tail := (s.vf vf).svcTail
        (2 ^ logn ≤ open_.length → Gives (.svc f) s fun t => Held .wait s t ∧ t.svcs = s.svcs) ∧
        (open_.length < 2 ^ logn → open_.any (·.idx == tail) = false → tail < 2 ^ logn → vf < 64 → Gives (.svc f) s fun t =>
          t.physRead (base + 32 * tail) 32 = (s.me.sreg f.a.sreg).toNat + f.b.immU * 2 ^ 64 + core * 2 ^ 80 + c * 2 ^ 94 + vf * 2 ^ 98 ∧
          (t.vf vf).svcTail = (tail + 1) % 2 ^ logn ∧ (vf, 0) ∈ t.msix ∧ t.svcs = s.svcs ++ [⟨vf, tail, core, c, none⟩] ∧
          t.me.st = .wait ∧ t.me.pc = s.me.pc ∧ RegsKept {} s t))) ∧
    (c ≠ 0 → Traps (.pwreq f) s cCTXPERM 0) ∧
    (c = 0 → 31 < a → Writes (.pwreq f) f s 4) ∧
    (c = 0 → a ≤ 31 →
      (∀ r, s.pwdone.find? (fun r => r.1 == core && r.2.1 == c) = some r → Gives (.pwreq f) s fun t =>
        Result f (BitVec.ofNat 64 r.2.2) s t ∧ t.pwdone = s.pwdone.erase r ∧ RegsKept { regs := [f.d.sreg] } s t ∧ MemKept s t ∧
        Completed (s.plainWarn f) (s.fall f) s t) ∧
      (s.pwdone.find? (fun r => r.1 == core && r.2.1 == c) = none → (s.pwreqs.any fun r => r.1 == core && r.2.1 == c) = false →
        Gives (.pwreq f) s fun t =>
          t.pwreqs = s.pwreqs ++ [(core, c, 2 * (core / 1024) + a / 16,
            a % 16 + if (s.island (2 * (core / 1024) + a / 16)).change = .none then 0 else 16)] ∧ Held .wait s t)) ∧
    (let w := s.me.opAddr f.a
     let d := (s.me.sreg f.b.sreg).toNat
     let lo := w.toNat % 2 ^ 56
     let asid := if bit d 3 then s.me.asid else bits d 48 16
     let all := [(0, Instr.c2opXlat f), (1, .c2opWbinv f), (2, .c2opWb f), (3, .c2opIcinv f), (4, .c2opAsidall f)]
     let mine : Prop := if c = 0 then asid / 1024 = vf else asid = s.me.asid
     ∀ p ∈ all,
      (canonical w = false → Traps p.2 s cADDRNC w.toNat) ∧
      (canonical w = true → (4 < bits d 0 3 ∨ bits d 4 4 ≠ 0) → Traps p.2 s cILLEGAL (parcelAt s f 2)) ∧
      (canonical w = true → bits d 0 3 = p.1 → bits d 4 4 = 0 →
        (¬mine → Writes p.2 f s 1) ∧
        (mine → p.1 ≠ 4 → (bits d 8 40 = 0 ∨ 2 ^ 56 < lo + bits d 8 40) → Writes p.2 f s 2) ∧
        (mine → (p.1 = 4 ∨ (bits d 8 40 ≠ 0 ∧ lo + bits d 8 40 ≤ 2 ^ 56)) →
          let r : C2Range := if p.1 = 4 then ⟨asid, 0, 2 ^ 56⟩ else ⟨asid, lo, lo + bits d 8 40⟩
          let mustWait : Prop := p.1 ≠ 2 ∧ p.1 ≠ 3 ∧ (∃ l ∈ s.c2, r.hasLine l.asid l.vline = true ∧ l.pins ≠ 0)
          WaitsForStores p.2 s ∧
          (s.relWait = none → mustWait ∨ (p.1 ≠ 3 ∧ (s.cleanRange r).dirtyIn r = true) → Gives p.2 s fun t =>
            t.me.block.isSome = true ∧ t.me.pc = s.me.pc ∧ RegsKept { srs := [rC2WBS] } s t) ∧
          (s.relWait = none → ¬mustWait → (p.1 = 3 ∨ (s.cleanRange r).dirtyIn r = false) → s.fills = [] → Gives p.2 s fun t =>
            Result f 0 s t ∧ RegsKept { regs := [f.d.sreg], srs := [rC2WBS] } s t ∧ Completed (s.plainWarn f) (s.fall f) s t ∧
            (p.1 ≠ 3 → ∀ l ∈ s.c2, r.hasLine l.asid l.vline = true → l.dirty = true → 
              (∀ m ∈ s.c2, m.pline = l.pline ∨ m.same l = true → m = l) → memRead t.mem (l.pline * 64) 64 = l.data.toNat) ∧
            (p.1 = 0 ∨ p.1 = 4 → ∀ e ∈ t.tlb, r.hasPage e.asid e.tr.vbase e.tr.size = false) ∧
            (p.1 = 0 ∨ p.1 = 1 ∨ p.1 = 4 → ∀ l ∈ t.c2, r.hasLine l.asid l.vline = false) ∧
            (p.1 = 2 → ∀ l ∈ t.c2, r.hasLine l.asid l.vline = true → l.dirty = false) ∧
            (p.1 = 3 ∨ p.1 = 4 → ∀ e ∈ t.icache, r.hasLine e.2.1 e.2.2.1 = false) ∧
            (p.1 = 3 → MemKept s t ∧ t.c2 = s.c2)))))

/-! The device's own events and what the host asks (spec/05_tiers_and_parking.md, spec/09_launch_and_scheduling.md,
spec/18_traps_preemption_contexts.md, spec/19_power_and_clocks.md, spec/20_host_fabric_bringup.md). -/

/-- R124: at the switch of a page its data lie at the new place, its entry names it, and no cached translation names the old (stated
where the heat table lies apart from the page and its entry); a copy that is done switches so, its frame goes back to its pool and
the move is over.
R126: a move whose destination does not stand, or is refused, is given up and counted in MIGERR; a pinned line or a fill on its way
delays the switch.
R91: heat halves each millisecond, in the host's table too, and nothing else of memory changes. R130 and R132: a park's AGE counts milliseconds and makes its demotions due at T1 and T2; a
demotion with nothing left to move goes on to STATE 4 or 6. R135 and R468: a promotion with nothing left to move, and a push tried
again, requeue the continuation, or stay in STATE 7 while the list is full. R136 and R456: a row with no data that the device can
move is listed at once; a full list raises vector 2. -/
def Obligations.MigrationAndParkEvents : Prop :=
  (∀ (s : State) (m : Move) (asid va size entry : Nat), s.memOk = true → s.c2 = [] → m.srcTier < 2 → m.dstTier < 2 →
    (m.src + size ≤ m.dst ∨ m.dst + size ≤ m.src) → (entry + 8 ≤ m.src ∨ m.src + size ≤ entry) →
    (entry + 8 ≤ m.dst ∨ m.dst + size ≤ entry) → entry % 8 = 0 →
    (s.pkg.heatBase ≠ 0 → ∀ p, let h := heatSlot s.pkg.heatBase p
      (h + 4 ≤ m.dst ∨ m.dst + size ≤ h) ∧ (h + 4 ≤ entry ∨ entry + 8 ≤ h)) →
    let t := s.switchPage m asid va size entry
    (∀ i, i < size → memByte t.mem (m.dst + i) = memByte s.mem (m.src + i)) ∧
    bits (t.physRead entry 8) 12 33 = m.dst / 4096 % 2 ^ 33 ∧ bits (t.physRead entry 8) 8 2 = m.dstTier ∧
    bits (t.physRead entry 8) 0 8 = bits (s.physRead entry 8) 0 8 ∧
    ∀ e ∈ t.tlb, e.tr.tier = m.srcTier → e.tr.base = m.src → e.tr.fab = true) ∧
  (∀ (s : State) (id asid va size : Nat) (m : Move), s.moves.find? (·.1 == id) = some (id, m) → m.kind = .page asid va size →
    m.row = none → m.block = none → s.held = [] →
    let given (t : State) : Prop := t.moves.find? (·.1 == id) = none ∧ (t.vf m.vf).migErr = satInc64 (s.vf m.vf).migErr ∧
      ∀ n c r, (t.ctx n c).sreg r = (s.ctx n c).sreg r
    Happens (.migrationAbandon id) s given ∧
    (s.switchPinned m.srcTier m.src size = true → Happens (.migrationCopyDone id) s fun t =>
      (s.clk + 64, Event.migrationCopyDone id) ∈ t.due ∧ t.moves = s.moves ∧ MemKept s t) ∧
    (s.switchPinned m.srcTier m.src size = false → destOk m.dstTier m.dst size = false →
      Happens (.migrationCopyDone id) s given) ∧
    (s.switchPinned m.srcTier m.src size = false → destOk m.dstTier m.dst size = true →
      (s.switchFills m.srcTier m.src size = true → Happens (.migrationCopyDone id) s fun t =>
        (s.clk + 64, Event.migrationCopyDone id) ∈ t.due ∧ t.moves = s.moves.put id { m with closing := true } ∧ MemKept s t) ∧
      (∀ entry, s.switchFills m.srcTier m.src size = false → s.mappedAt asid va m.srcTier m.src = some entry →
        let u : State := { s with moves := s.moves.put id { m with closing := true } }
        let v := (u.switchPage m asid va size entry).giveFrame m.vf m.srcTier size m.src
        Happens (.migrationCopyDone id) s fun t =>
          t.moves.find? (·.1 == id) = none ∧ t.mem = v.mem ∧ t.flash = v.flash ∧ t.poison = v.poison ∧ t.c2 = v.c2 ∧
          t.tlb = v.tlb ∧ t.regs = v.regs ∧ t.parks = v.parks ∧ t.heat = v.heat ∧ ∀ n c r, (t.ctx n c).sreg r = (s.ctx n c).sreg r))) ∧
  (∀ (s : State), s.regs = [] → (s.heat.map (·.1)).Nodup → Happens .heatHalving s fun t =>
    (∀ k, t.heat.get k 0 = s.heat.get k 0 / 2) ∧ (s.nextBoundary 1000000, Event.heatHalving) ∈ t.due ∧
    (let slot (p : Nat) : Nat := heatSlot s.pkg.heatBase p
     (∀ a, (s.pkg.heatBase ≠ 0 → ∀ e ∈ s.heat, a < slot e.1 ∨ slot e.1 + 4 ≤ a) → t.physByte a = s.physByte a) ∧
     ∀ p h, s.pkg.heatBase ≠ 0 → s.heat = [(p, h)] → inHbm (slot p) 4 = true → t.physRead (slot p) 4 = h / 2 % 2 ^ 32)) ∧
  (∀ (s : State) (id : Nat) (p : Park), s.parks = [(id, p)] → s.moves = [] → p.nlb = 0 →
    let holds (t : State) (P : Park → Prop) : Prop := ∃ q, t.parks = [(id, q)] ∧ P q ∧ q.wakePa = p.wakePa
    let after4 (t : State) : Prop := holds t fun q => q.state = if p.noFlash = true ∨ p.age < p.t2 then 4 else 6
    let requeued (e : Event) : Prop :=
      (s.lqPush (bits p.raw 302 8) (bits p.raw 300 2) p.entry p.launch = none → Happens e s fun t => holds t fun q =>
        q.state = 7 ∧ q.pushed = true) ∧
      ((s.lqPush (bits p.raw 302 8) (bits p.raw 300 2) p.entry p.launch).isSome = true → Happens e s fun t => t.parks = [])
    let age := min (2 ^ 32 - 1) ((p.aged + (s.clk - p.since)) / msCycles)
    (p.age < age → Happens .parkAgeTick s fun t =>
      (holds t fun q => q.age = age ∧ q.state = p.state) ∧ (s.clk + msCycles, Event.parkAgeTick) ∈ t.due ∧
      (p.state = 2 → p.t1 ≠ 0xFFFF → p.t1 ≤ age → (s.clk, Event.parkT1Expiry id) ∈ t.due) ∧
      (p.state = 4 → p.noFlash = false → p.t2 ≤ age → (s.clk, Event.parkT2Expiry id) ∈ t.due)) ∧
    (p.state = 2 → p.t1 ≠ 0xFFFF → p.t1 ≤ p.age → Happens (.parkT1Expiry id) s after4) ∧
    (p.state = 2 → p.age < p.t1 → Happens (.parkT1Expiry id) s fun t => t.parks = s.parks ∧ MemKept s t) ∧
    (p.state = 4 → p.noFlash = false → p.t2 ≤ p.age → Happens (.parkT2Expiry id) s fun t => holds t fun q => q.state = 6) ∧
    (p.state = 3 → p.todo = [] → Happens (.parkDemotionDone id) s after4 ∧ Happens (.parkPoolRetry id) s after4) ∧
    (p.state = 7 → p.pushed = false → requeued (.parkPromotionDone id) ∧ requeued (.promotionRetry id)) ∧
    (p.state = 7 → p.pushed = true → requeued (.parkPushRetry id))) ∧
  (∀ (s : State) (pa : Nat), let row := rowOfPa pa
    1024 * row < hbmTop → s.retired.contains row = false → s.moves = [] →
    (s.listFull row = true → Happens (.rowRetirement pa) s fun t =>
      (0, 2) ∈ t.msix ∧ t.retired = s.retired ∧ MemKept s t ∧ t.retFull.contains (stackOfPa (1024 * row)) = true) ∧
    (s.listFull row = false → s.kvQ (stackOfPa (1024 * row)) = none → s.regs = [] → Happens (.rowRetirement pa) s fun t =>
      t.retired.contains row = true ∧ (∀ r, s.retired.contains r = true → t.retired.contains r = true) ∧
      ∀ n c r, (t.ctx n c).sreg r = (s.ctx n c).sreg r))

/-- R437 and R436: each microsecond's grant raises the die purses by their islands' grants up to their limits, leaves no core's
purse above 4,096 tokens, wakes the SLEEP contexts of a core whose purse it has raised above zero, and lets a new cap take effect.
R406 and R442: a sample answers what PWREQ asked; a raise ends with its frequency switch, a lowering with its slew, and no point
changes before its switch. R443: a newer cap message takes effect, clamped, and its lease expires. R457: temperatures over their
limits raise vector 2 and cut the power. R206 and R452: corrections of the device clock. -/
def Obligations.PowerAndClockEvents : Prop :=
  ∀ (s : State),
    let quiet (t : State) : Prop := MemKept s t ∧ ∀ n c r, (t.ctx n c).sreg r = (s.ctx n c).sreg r
    (Happens .tokenGrant s fun t => quiet t ∧ (s.nextBoundary 1000 + 1, Event.tokenGrant) ∈ t.due ∧ t.capNext = none ∧
      (∀ w e, s.capNext = some (w, e) → t.capW = w ∧ t.capEnd = e) ∧
      (s.capNext = none → ∀ d, d < 4 → t.diePurse.get d (1048576 * 1024) =
        min (1048576 * 1024) (s.diePurse.get d (1048576 * 1024) + (s.grantOf (32 + d) : Nat))) ∧
      (∀ e ∈ s.cores, (t.core e.1).purse ≤ 4096 * 1024) ∧
      (∀ n c, (s.core n).purse < (t.core n).purse → 0 < (t.core n).purse → (t.ctx n c).st ≠ .sleep)) ∧
    (Happens (.stallRatioSample []) s fun t => quiet t ∧ t.pwreqs = [] ∧ (∀ i, (t.island i).point = (s.island i).point) ∧
      (∃ k, (k, Event.stallRatioSample []) ∈ t.due) ∧
      (∀ core c i k, s.pwreqs = [(core, c, i, k)] → t.pwdone = s.pwdone ++ [(core, c,
        if (s.island i).change ≠ .none ∨ 16 ≤ k then 2 else if usable i k = false then 1
        else if Config.capPoint i s.cap < k then 3 else 0)])) ∧
    (∀ i k, ((s.island i).change = .raise k → Happens (.voltageSlewDone i) s fun t => quiet t ∧
        (t.island i).change = .switch k false ∧ (t.island i).point = (s.island i).point ∧
        (s.clk + 512, Event.frequencySwitchDone i) ∈ t.due) ∧
      ((s.island i).change = .slewDown k → Happens (.voltageSlewDone i) s fun t => quiet t ∧ (t.island i).change = .none ∧
        (t.island i).point = (s.island i).point) ∧
      ((s.island i).change = .switch k false → Happens (.frequencySwitchDone i) s fun t => quiet t ∧
        (t.island i).change = .none ∧ (t.island i).point = k) ∧
      ((s.island i).change = .switch k true → Happens (.frequencySwitchDone i) s fun t => quiet t ∧
        (t.island i).change = .slewDown k ∧ (t.island i).point = k ∧ ∃ d, (d, Event.voltageSlewDone i) ∈ t.due)) ∧
    (∀ i, Happens (.pointHoldExpiry i) s fun t => quiet t ∧ (∀ h ∈ (t.island i).holds, s.clk < h.2) ∧
      (t.island i).point = (s.island i).point) ∧
    (∀ temps, let w := temps.foldl max 0 % 2 ^ 16
      Happens (.thermalSample temps) s fun t => quiet t ∧ t.pkg.therm = w ∧ (960 ≤ w → t.power = false) ∧
        (w < 960 → t.power = s.power) ∧ (880 ≤ w → w < 960 → (0, 2) ∈ t.msix) ∧
        (w ≤ 800 → t.islands = s.islands)) ∧
    (∀ n watts lease, let d := (n % 2 ^ 32 + 2 ^ 32 - s.capLast) % 2 ^ 32
      (0 < d ∧ d < 2 ^ 31 → Happens (.capmsg n watts lease) s fun t => quiet t ∧ t.capLast = n % 2 ^ 32 ∧
        t.capNext = some (max 700 (min 2800 watts), s.clk + lease % 2 ^ 16 * msCycles) ∧ t.capW = s.capW) ∧
      (¬(0 < d ∧ d < 2 ^ 31) → Happens (.capmsg n watts lease) s fun t => quiet t ∧ t.capLast = s.capLast ∧
        t.capNext = s.capNext)) ∧
    (Happens .capLeaseExpiry s fun t => quiet t ∧ (s.capEnd ≤ s.clk → t.cap = 10 * s.pkg.fallback) ∧
      (s.clk < s.capEnd → t.cap = s.cap)) ∧
    (∀ ns : Int, (1000 ≤ ns.natAbs → Happens (.ptpCorrection ns) s fun t => quiet t ∧ t.nsOff = s.nsOff + ns) ∧
      (1 < ns → ns < 1000 → Happens (.ptpCorrection ns) s fun t => quiet t ∧ t.nsOff = s.nsOff + 1 ∧
        (s.clk + 21000, Event.ptpCorrection (ns - 1)) ∈ t.due) ∧
      (-1000 < ns → ns < -1 → Happens (.ptpCorrection ns) s fun t => quiet t ∧ t.nsOff = s.nsOff - 1 ∧
        (s.clk + 21000, Event.ptpCorrection (ns + 1)) ∈ t.due)) ∧
    (Happens .synchronisationLost s fun t => quiet t ∧ t.nsOff = s.nsOff ∧ ∀ k ns, (k, Event.ptpCorrection ns) ∉ t.due)

/-- R207 to R209: a queue-drain or a quiesce that fires runs for its length and counts in FIRES, a periodic launch that is accepted
runs as the slot's launch and counts in FIRES, one that is refused counts in SKIPS; a firing that is still running counts in SKIPS or is
deferred, and a slot that is not active does nothing; the end of a slot lets the deferred ones fire. R213: a pop does nothing unless a
slot drains its queue, and tries again while nothing can be popped; it takes the oldest entry off its list, pushes a continuation to
its core's queue, which waits where that is full, or accepts a launch, and counts what it refuses in LREFUSE. R184 to R186 and R218: a
FREE helper of the pool takes the oldest record of its core's queue, unless a gang keeps it from it, and then tries again. R215 and
R211: a unit that waits is pushed once its completion bit is set, stated for a bit in the mesh window, and its queue has room. R218: a
PENDING gang that can be placed is PLACED with its helpers reserved, or RUNNING at once; one that cannot stays PENDING and tries
again. -/
def Obligations.LaunchControllerEvents : Prop :=
  (∀ (s : State) (i : Nat),
    let raw := s.slotRaw i
    let r := s.ttRun i
    let skips (t : State) : Nat := bits (t.slotRaw i) 192 32
    let fires (t : State) : Nat := bits (t.slotRaw i) 224 32
    (∀ p ∈ [(1, Event.ttPeriodicLaunch i), (2, .ttQueueDrain i), (3, .ttQuiesce i)],
      (s.slotActive raw = false ∨ slotKind raw ≠ p.1 → Happens p.2 s fun t => t = { s with ev := p.2 }) ∧
      (s.slotActive raw = true → slotKind raw = p.1 →
        (s.overruns i = false → p.1 ≠ 1 → Happens p.2 s fun t =>
          (t.ttRun i).until_ = s.fireTime raw r.cycle + slotLen raw ∧ (t.ttRun i).cycle = r.cycle + 1 ∧
          fires t = (fires s + 1) % 2 ^ 32 ∧ skips t = skips s ∧ (∃ k, (k, Event.ttSlotEnd i) ∈ t.due) ∧ MemKept s t) ∧
        (s.overruns i = false → p.1 = 1 →
          let pa := bits raw 128 39 * 64
          let u := ({ s with ev := p.2 } : State).putRun i { r with cycle := r.cycle + 1 }
          (inHbm pa 128 = false → Happens p.2 s fun t =>
            skips t = min 0xFFFFFFFF (skips s + 1) ∧ fires t = fires s ∧ (t.ttRun i).cycle = r.cycle + 1 ∧ MemKept s t) ∧
          (∀ got v, inHbm pa 128 = true → u.acceptRaw (slotVf raw) 0 (s.physRead pa 128) (some i) = (got, v) →
            Happens p.2 s fun t =>
              t.launches = v.launches ∧ MemKept v t ∧ (∀ n c, t.ctx n c = v.ctx n c) ∧ (t.ttRun i).cycle = r.cycle + 1 ∧
              (∀ l, got = some l → (t.ttRun i).launch = some l ∧ fires t = (fires s + 1) % 2 ^ 32 ∧ skips t = skips s) ∧
              (got = none → (t.ttRun i).launch = r.launch ∧ fires t = fires s ∧ skips t = min 0xFFFFFFFF (skips s + 1)))) ∧
        (s.overruns i = true → slotDefer raw = false ∨ r.deferred = true → Happens p.2 s fun t =>
          skips t = min 0xFFFFFFFF (skips s + 1) ∧ fires t = fires s ∧ (t.ttRun i).cycle = r.cycle + 1 ∧ MemKept s t) ∧
        (s.overruns i = true → slotDefer raw = true → r.deferred = false → Happens p.2 s fun t =>
          (t.ttRun i).deferred = true ∧ skips t = skips s ∧ fires t = fires s ∧ MemKept s t))) ∧
    (r.until_ ≤ s.ns → Happens (.ttSlotEnd i) s fun t => (t.ttRun i).until_ = 0 ∧ MemKept s t ∧
      ∀ e ∈ s.tt, e.1 ≠ i → e.2.deferred = true → ∃ k, (k, Event.ttDeferredFire e.1) ∈ t.due) ∧
    (r.deferred = true → s.slotActive raw = true → s.overruns i = false → slotKind raw ≠ 1 → Happens (.ttDeferredFire i) s fun t =>
      (t.ttRun i).deferred = false ∧ fires t = (fires s + 1) % 2 ^ 32 ∧ MemKept s t) ∧
    (r.deferred = false → Happens (.ttDeferredFire i) s fun t => t = { s with ev := .ttDeferredFire i })) ∧
  (∀ (s : State) (q : Nat), s.lqCarry.find? (·.1 == q) = none →
    (s.draining q = false → Happens (.launchQueuePop q) s fun t => t = { s with ev := .launchQueuePop q }) ∧
    (s.draining q = true → s.popList q = none → Happens (.launchQueuePop q) s fun t =>
      (∃ k, (k, Event.launchQueuePop q) ∈ t.due) ∧ t.lq = s.lq ∧ MemKept s t) ∧
    (∀ p e owner, s.draining q = true → s.popList q = some (p, e, owner) →
      let d := ({ s with ev := .launchQueuePop q } : State).lqDrop q p
      let vf := e.asid / 1024
      let mine : Prop := s.hasCore vf e.qcore = true ∧ ((s.core e.qcore).queue.map (·.vf)) = some vf
      let pops (P : State → Prop) : Prop := Happens (.launchQueuePop q) s fun t =>
        P t ∧ (∃ k, (k, Event.launchQueuePop q) ∈ t.due) ∧ (t.lqList q p).popIdx = (s.lqList q p).popIdx + 1
      (bit e.kind 0 = false → mine →
        (∀ v, d.pushRecord e.qcore { e with kind := 0, lrec := 0 } owner = some v → pops fun t =>
          (t.core e.qcore).queue = (v.core e.qcore).queue ∧ MemKept v t ∧ t.lqCarry = s.lqCarry ∧ t.launches = s.launches) ∧
        (d.pushRecord e.qcore { e with kind := 0, lrec := 0 } owner = none → pops fun t =>
          t.lqCarry.find? (·.1 == q) = some (q, e, owner) ∧ MemKept d t ∧ t.launches = s.launches)) ∧
      (bit e.kind 0 = false → ¬mine → owner = none → pops fun t =>
        (t.vf vf).lRefuse = satInc64 (s.vf vf).lRefuse ∧ t.lqCarry = s.lqCarry ∧ MemKept d t) ∧
      (bit e.kind 0 = true →
        (∀ va l v, s.checkVa vf (BitVec.ofNat 64 e.lrec) 64 = .ok (.virt va) → d.acceptVa vf 0 e.asid va none = (l, v) →
          pops fun t => t.launches = v.launches ∧ MemKept v t ∧ t.lqCarry = s.lqCarry ∧
            (t.vf vf).lRefuse = if l.isSome then (s.vf vf).lRefuse else satInc64 (s.vf vf).lRefuse) ∧
        ((∀ va, s.checkVa vf (BitVec.ofNat 64 e.lrec) 64 ≠ .ok (.virt va)) → pops fun t =>
          t.launches = s.launches ∧ MemKept d t ∧ (t.vf vf).lRefuse = satInc64 (s.vf vf).lRefuse)))) ∧
  (∀ (s : State) (core c : Nat) (e : QRun) (owner : Option Nat) (u : State), 1 ≤ c → c ≤ 10 → (s.ctx core c).st = .free →
    bit ((s.core core).srGet rHPOOL).toNat c = true →
    ({ s with ev := .helperPop core c } : State).corePop core = some (e, owner, u) →
    (s.mayTake core c owner = false → Happens (.helperPop core c) s fun t =>
      (∀ n d, t.ctx n d = s.ctx n d) ∧ (∃ k, (k, Event.helperPop core c) ∈ t.due) ∧ (t.core core).queue = (s.core core).queue ∧
      MemKept s t) ∧
    (s.mayTake core c owner = true → Happens (.helperPop core c) s fun t =>
      let y := t.ctx core c
      (t.core core).queue = (u.core core).queue ∧ y.st = .ready ∧ y.pc = BitVec.ofNat 64 e.code ∧ y.launch = owner ∧
      (∀ r, y.sreg r = if r = 62 then BitVec.ofNat 64 e.frame else 0) ∧ y.srGet rCTXID = BitVec.ofNat 64 e.asid ∧ y.tlvl = 0 ∧
      (∀ n d, ¬(n = core ∧ d = c) → t.ctx n d = u.ctx n d) ∧ MemKept u t)) ∧
  (∀ (s : State) (lid unit : Nat) (l : Launch), s.launches.find? (·.1 == lid) = some (lid, l) → l.waiting.contains unit = true →
    let bit_ : Except Flt Place := s.checkVa l.vf (extend56 (bits l.raw 704 56 + unit / 64 * 8)) 8
    (bit l.raw 760 = true → ∀ c o, bit_ = .ok (.mesh c o) → bit (s.stallRead c o 8) (unit % 64) = false →
      Happens (.conUnitStart lid unit) s fun t =>
        (s.clk + 64, Event.conUnitStart lid unit) ∈ t.due ∧ t.launches = s.launches ∧ MemKept s t) ∧
    ((bit l.raw 760 = false ∨ ∃ c o, bit_ = .ok (.mesh c o) ∧ bit (s.stallRead c o 8) (unit % 64) = true) →
     (s.gangs = [] ∨ l.gang = none) →
    let core := unitCore l unit
    let pushed := ({ s with ev := .conUnitStart lid unit } : State).pushRecord core (unitEntry l.raw core unit) (some lid)
    (pushed = none → Happens (.conUnitStart lid unit) s fun t =>
      (s.clk + 64, Event.conUnitStart lid unit) ∈ t.due ∧ t.launches = s.launches ∧ MemKept s t) ∧
    (∀ u, pushed = some u → Happens (.conUnitStart lid unit) s fun t =>
      (∃ m, t.launches.find? (·.1 == lid) = some (lid, m) ∧ m.waiting = l.waiting.filter (· != unit)) ∧
      (t.core core).queue = (u.core core).queue ∧ MemKept u t))) ∧
  (∀ (s : State) (g : Nat) (gg : Gang), s.gangs.find? (·.1 == g) = some (g, gg) →
    (gg.st = .pending → s.quietVf gg.vf = true ∨ s.placeable g gg = false → Happens (.gangPlace g) s fun t =>
      (s.clk + 64, Event.gangPlace g) ∈ t.due ∧ t.gangs = s.gangs ∧ MemKept s t) ∧
    (gg.st = .pending → s.quietVf gg.vf = false → s.placeable g gg = true → Happens (.gangPlace g) s fun t =>
      (∃ h, t.gangs.find? (·.1 == g) = some (g, h) ∧ h.members = gg.members ∧ (h.st = .placed ∨ h.st = .running) ∧
        h.reserved = (s.gangCores gg).flatMap fun core => ((s.freeHelpers core).take (s.gangNeeds gg core)).map fun c => (core, c)) ∧
      (∀ l ∈ gg.members, ∀ r, s.launches.find? (·.1 == l) = some (l, r) → bit r.raw 760 = true → ∀ u ∈ r.waiting,
        (s.clk + 1, Event.conUnitStart l u) ∈ t.due) ∧ ∀ n c r, (t.ctx n c).sreg r = (s.ctx n c).sreg r) ∧
    (gg.st ≠ .pending → Happens (.gangPlace g) s fun t => t = { s with ev := .gangPlace g }))

/-- R420 and R424: an asynchronous trap names the lowest refused entry of its context and how many there are; a supervisor event
enters level 1 of the control context at TVEC + 0x200 with the mask or the count that has accumulated, which it clears. R425: what
a pre-emption request answers. R426, R427 and R150: a forced save that has drained charges the context's motions up to its cycle, writes the area, invalidates C1
as an acquire does, and leaves the context SAVED. R428, R430, R223 and R6: what a restore checks, and the registers that it brings
back, under the fates of their field maps, entries f0 to f7 unchanged. R403, R431 and R432: the debug window. -/
def Obligations.SupervisionEvents : Prop :=
  (∀ (s : State) (core c j : Nat) (e : JEntry) (rest : List (Nat × JEntry)),
    let x := s.ctx core c
    let n := x.tlvl + 1
    let mine := (s.core core).journal.filter fun e => e.2.ctx == c && e.2.state == 2
    (x.asyncDue = true → x.tlvl < 2 → mine = (j, e) :: rest → Happens (.asyncTrapEntry core c) s fun t =>
      let y := t.ctx core c
      y.tlvl = n ∧ y.srGet (rTCAUSE n) = BitVec.ofNat 64 (e.cause + 2 ^ 8 + j % 64 * 2 ^ 9 + mine.length * 2 ^ 16) ∧
      y.srGet (rTVAL n) = e.va ∧ y.srGet (rTRET n) = x.pc ∧ y.refusal = false ∧
      y.pc = x.srGet rTVEC + BitVec.ofNat 64 (0x100 * (n - 1)) ∧ (∀ r, y.sreg r = x.sreg r) ∧ MemKept s t) ∧
    (x.asyncDue = false → Happens (.asyncTrapEntry core c) s fun t => t = { s with ev := .asyncTrapEntry core c })) ∧
  (∀ (s : State) (core : Nat),
    let k := s.core core
    let x := s.ctx core 0
    let enters (code val : Nat) (t : State) : Prop :=
      let y := t.ctx core 0
      y.tlvl = 1 ∧ y.srGet (rTCAUSE 1) = BitVec.ofNat 64 code ∧ y.srGet (rTVAL 1) = BitVec.ofNat 64 val ∧
      y.srGet (rTRET 1) = x.pc ∧ y.pc = x.srGet rTVEC + 0x200 ∧ y.st = .ready ∧ MemKept s t
    (k.eventDue = false → Happens (.supervisorEventEntry core) s fun t => t = { s with ev := .supervisorEventEntry core }) ∧
    (k.eventDue = true → k.rqovf ≠ 0 → Happens (.supervisorEventEntry core) s fun t =>
      enters cRQOVF k.rqovf t ∧ (t.core core).rqovf = 0 ∧ (t.core core).ckill = k.ckill) ∧
    (k.eventDue = true → k.rqovf = 0 → Happens (.supervisorEventEntry core) s fun t =>
      enters cCKILL k.ckill t ∧ (t.core core).ckill = 0)) ∧
  (∀ (s : State) (vf core c deadline area : Nat),
    let x := s.ctx core c
    let answers (n : Nat) : Prop := Happens (.preemptRequest vf core c deadline area) s fun t =>
      (t.vf vf).preqStat = n ∧ (∀ m d, t.ctx m d = s.ctx m d) ∧ MemKept s t
    (core < numCores → c < numCtxs → x.statBit bPREQ = true ∨ x.st = .free ∨ x.st = .saved ∨ x.st = .drain → answers pqBUSY) ∧
    (core < numCores → c < numCtxs → x.statBit bPREQ = false → x.st ≠ .free → x.st ≠ .saved → x.st ≠ .drain →
      (x.vf ≠ vf → answers pqBADSAVE) ∧ (x.vf = vf → area % 2 ^ 56 % 64 ≠ 0 → answers pqBADSAVE) ∧
      (∀ u, x.vf = vf → ({ s with ev := .preemptRequest vf core c deadline area } : State).areaOk core x.asid (area % 2 ^ 56)
          = (true, u) → u.ctx core c = x → Happens (.preemptRequest vf core c deadline area) s fun t =>
        let y := t.ctx core c
        (t.vf vf).preqStat = pqOK ∧ y.statBit bPREQ = true ∧ y.srGet rPREQDL = BitVec.ofNat 64 (deadline % 2 ^ 32) ∧
        y.preq = some ⟨vf, area % 2 ^ 56, false⟩ ∧ y.pc = x.pc ∧ (∀ r, y.sreg r = x.sreg r) ∧ MemKept u t))) ∧
  (∀ (s : State) (core c : Nat), s.forceDue core c = true → (∀ b, (s.ctx core c).block ≠ some b) →
    (s.saveReady core c = true → ∀ p u, (s.ctx core c).preq = some p →
      let v := ({ s with ev := .forcedSave core c } : State).settleAll core
      v.writePieces ⟨core, c, (s.ctx core c).vf⟩ (s.ctx core c).asid p.area p.phys
        (savePieces (v.core core) core c 255 true) = (.ok (), u) → Happens (.forcedSave core c) s fun t =>
      (t.ctx core c).st = .saved ∧ (t.ctx core c).statBit bPREQ = false ∧ (t.ctx core c).preq = none ∧
      (t.core core).c1 = (u.core core).c1Acquire.c1 ∧ MemKept u t) ∧
    (s.saveReady core c = false → Happens (.forcedSave core c) s fun t =>
      (∃ since, (t.ctx core c).block = some ⟨.save 255 true, since, 0⟩) ∧ (t.ctx core c).pc = (s.ctx core c).pc ∧ MemKept s t)) ∧
  (∀ (s : State) (vf a : Nat),
    let core := bits a 78 14
    let c := bits a 74 4
    let k := s.core core
    (bits a 92 36 ≠ 0 ∨ numCtxs ≤ c ∨ bits a 202 6 ≠ vf → s.restoreFrom vf a = (some 2, s)) ∧
    (bits a 92 36 = 0 → c < numCtxs → bits a 202 6 = vf → (k.ctx c).st ≠ .saved → s.restoreFrom vf a = (some 1, s)) ∧
    (bits a 92 36 = 0 → c < numCtxs → bits a 202 6 = vf → (k.ctx c).st = .saved →
      (∀ t, t < 256 → (bits a 5120 256).testBit t = true → k.trackBusy c t = false) → bit a 73 = false →
      ∃ u, s.restoreFrom vf a = (some 0, u) ∧
        let y := u.ctx core c
        let mask := bits a 64 8
        y.pc = BitVec.ofNat 64 a ∧ y.st = (if (k.ctx c).idle then .wait else .ready) ∧
        (∀ r, r < 64 → y.sreg r = if r ≠ 0 ∧ bit mask (r / 16) = true then BitVec.ofNat 64 (a / 2 ^ (8192 + 64 * r)) else 0) ∧
        (∀ r, r < 32 → y.vreg r = if bit mask (4 + r / 16) = true then BitVec.ofNat 512 (a / 2 ^ (16384 + 512 * r)) else 0) ∧
        (∀ r, 0 < r → r < 8 → y.mreg r = if bit mask 7 = true then BitVec.ofNat 128 (a / 2 ^ (12288 + 128 * r))
          else BitVec.allOnes 128) ∧
        (∀ i, i < 8 → y.fent i = presetEntry i) ∧
        (∀ i, 8 ≤ i → i < 32 → y.fent i = if bit a (4096 + 32 * i + 31) then BitVec.ofNat 32 (a / 2 ^ (4096 + 32 * i)) else 0) ∧
        (∀ j r, saveRegsB[j]? = some r → y.srGet r = BitVec.ofNat 64 (srRestored r (bits a (512 + 64 * j) 64)).1) ∧
        (∀ t, t < 256 → (bits a 5120 256).testBit t = true →
          (u.track core t).owner = c ∧ (u.track core t).head = bits a (6144 + 8 * t) 8 ∧ (u.track core t).unseat = true) ∧
        (∀ n d, ¬(n = core ∧ d = c) → u.ctx n d = s.ctx n d) ∧ MemKept s u) ∧
    ∀ area u st v, ({ s with ev := .contextRestore vf area false } : State).readArea vf area = (some a, u) →
      u.restoreFrom vf a = (some st, v) → Happens (.contextRestore vf area false) s fun t =>
        (t.vf vf).restStat = st ∧ (∀ n d, t.ctx n d = v.ctx n d) ∧ MemKept v t) ∧
  (∀ (s : State) (vf core c : Nat) (on : Bool), s.hasCore vf core = true →
    (Happens (.debugStopEnable vf core on) s fun t => (t.core core).dbgEn = on ∧ (∀ n d, t.ctx n d = s.ctx n d) ∧ MemKept s t) ∧
    (c < numCtxs → Happens (.debugSetStep vf core c on) s fun t => (t.ctx core c).statBit bSTEP = on ∧
      (t.ctx core c).pc = (s.ctx core c).pc ∧ (∀ r, (t.ctx core c).sreg r = (s.ctx core c).sreg r) ∧ MemKept s t) ∧
    ((s.core core).stopped = none → Happens (.debugStop vf core) s fun t => (t.core core).stopped = some s.clk ∧
      (∀ d, d < numCtxs → (t.ctx core d).st ∉ [CtxSt.ready, .wait, .sleep, .xhold] ∧ (t.ctx core d).pc = (s.ctx core d).pc) ∧
      MemKept s t) ∧
    (∀ at_, (s.core core).stopped = some at_ → Happens (.debugResume vf core) s fun t => (t.core core).stopped = none ∧
      (∀ d, d < numCtxs → (s.ctx core d).back ≠ .stopped → (t.ctx core d).st ≠ .stopped ∧ (t.ctx core d).pc = (s.ctx core d).pc) ∧
      MemKept s t))

/-- R433: a function's reset leaves no line of its address spaces and its helpers FREE, and its end leaves its stalls zero, its
registers at their reset values and its counters at 0. R453 and R454: a cold reset and FWLOAD clear stalls and contexts and keep the
rest of memory and the retirement list; bring-up ends once. R137 to R139: when a checkpoint starts, ends and is restored. -/
def Obligations.ResetAndCheckpointEvents : Prop :=
  (∀ (s : State) (v : Nat),
    ((s.vf v).resetting = false → s.held = [] → Happens (.vfreset v) s fun t =>
      (t.vf v).resetting = true ∧ (s.clk + 2048, Event.functionResetDone v) ∈ t.due ∧ (∀ l ∈ t.c2, l.asid / 1024 ≠ v) ∧
      (∀ e ∈ t.tlb, e.asid / 1024 ≠ v) ∧ (∀ e ∈ t.parks, e.2.vf ≠ v) ∧ (∀ e ∈ t.launches, e.2.vf ≠ v) ∧
      ∀ core c, s.hasCore v core = true → (c ≠ 0 → (t.ctx core c).st = .free) ∧ (t.core core).queue = none ∧
        t.mayTurn ⟨core, c, .context⟩ = false) ∧
    ((s.vf v).resetting = true → Happens (.vfreset v) s fun t => t = { s with ev := .vfreset v }) ∧
    (Happens (.functionResetDone v) s fun t =>
      (t.vf v).resetting = false ∧ (t.vf v).migSkip = 0 ∧ (t.vf v).migErr = 0 ∧ (t.vf v).wakeDup = 0 ∧ (t.vf v).rqDrop = 0 ∧
      (t.vf v).doneErr = 0 ∧ (t.vf v).lRefuse = 0 ∧
      (∀ core, core < numCores → s.hasCore v core = true →
        (∀ o, o < 65536 → memByte t.mem (stallPa core o) = 0) ∧ (∀ w, (t.core core).words.get w 0 = 0) ∧
        ∀ c r, (t.ctx core c).sreg r = 0 ∧ (t.ctx core c).st = (if c = 0 then .wait else .free)) ∧
      (∀ core c, s.hasCore v core = false → t.ctx core c = s.ctx core c) ∧
      ∀ a, inStall a = false → memByte t.mem a = memByte s.mem a)) ∧
  (∀ (s : State), ∀ p ∈ [(Event.coldReset, s.pkg.fwImage), (.fwload 0x40000, 0x40001)], Happens p.1 s fun t =>
    (∀ a, memByte t.mem a = if inStall a then 0 else memByte s.mem a) ∧ t.flash = s.flash ∧ t.retired = s.retired ∧
    t.pkg = { Pkg.reset with fwImage := p.2 } ∧ t.clk = 0 ∧ t.power = true ∧ t.c2 = [] ∧ t.launches = [] ∧
    (∀ core c r, (t.ctx core c).sreg r = 0 ∧ (t.ctx core c).srGet rTVEC = 0) ∧ (1, Event.bringUpComplete) ∈ t.due) ∧
  (∀ (s : State),
    (bits s.pkg.fwStat 0 2 = 0 → Happens .bringUpComplete s fun t => (bits t.pkg.fwStat 0 2 = 1 ∨ bits t.pkg.fwStat 0 2 = 2) ∧
      bits t.pkg.fwStat 32 32 = t.pkg.fwVersion ∧ t.pkg.fwImage = s.pkg.fwImage ∧ MemKept s t ∧ ∀ n c, t.ctx n c = s.ctx n c) ∧
    (bits s.pkg.fwStat 0 2 ≠ 0 → Happens .bringUpComplete s fun t => t = { s with ev := .bringUpComplete }) ∧
    (s.quiesced = true ∨ s.pkg.ckptState = 1 →
      (Happens .checkpointStart s fun t => t = { s with ev := .checkpointStart }) ∧
      Happens .checkpointRestore s fun t => t = { s with ev := .checkpointRestore }) ∧
    (s.quiesced = false → s.pkg.ckptState ≠ 1 →
      (s.flashFree < ckptBytes → Happens .checkpointStart s fun t => t.pkg = { s.pkg with ckptState := 3 } ∧ MemKept s t ∧
        ∀ n c, t.ctx n c = s.ctx n c) ∧
      (ckptBytes ≤ s.flashFree → Happens .checkpointStart s fun t => t.pkg.ckptState = 1 ∧ t.quiesced = false) ∧
      (s.ckpt = none → Happens .checkpointRestore s fun t => t = { s with ev := .checkpointRestore }) ∧
      (∀ m, s.ckpt = some m → Happens .checkpointRestore s fun t => t.quiesced = true ∧ t.pkg.ckptState = 1 ∧
        (s.clk + ckptCycles, Event.checkpointRestoreDone) ∈ t.due ∧ t.ckpt = s.ckpt)) ∧
    (∀ e ∈ [Event.checkpointDone, .checkpointRestoreDone], Happens e s fun t =>
      t.quiesced = false ∧ t.pkg.ckptState = 2 ∧ MemKept s t ∧ ∀ n c, t.ctx n c = s.ctx n c))

/-- R444, R445 to R449, R451, R454, R455, R59, R91, R214 and R26: what the host and remote devices read and write: HBM and the stalls
of a function's cores, coherent with C2, a remote atomic giving the old value; registers, one that a live context forbids being
ignored with WERR set, and HEATBASE, at which the heat table then holds the counters (log entry 103); launch-queue pushes and
their status; a service's reply; the clearing of counters, of error counts and of a track's suspect bit; the fabric's accesses under a
window's rights. -/
def Obligations.HostAndFabricEvents : Prop :=
  (∀ (s : State) (pa n v : Nat),
    let answers (e : Event) (b : Option (List Byte)) : Prop := Happens e s fun t => t.hostOut = b ∧ MemKept s t ∧
      ∀ n c, t.ctx n c = s.ctx n c
    let reads (k : Nat) : List Byte := (List.range k).map fun i => BitVec.ofNat 8 (s.physByte (pa + i))
    (inHbm pa n = true → populated (pa + n - 1) = true →
      answers (.hostMemoryAccess pa n none) (some (reads n)) ∧
      Happens (.hostMemoryAccess pa n (some v)) s fun t =>
        t.hostOut = some [] ∧ ∀ a, t.physByte a = if pa ≤ a ∧ a < pa + n then bits v (8 * (a - pa)) 8 else s.physByte a) ∧
    (inHbm pa n = false → answers (.hostMemoryAccess pa n none) none ∧ answers (.hostMemoryAccess pa n (some v)) none) ∧
    (∀ dev data, 1 ≤ n → (populated pa || inStall pa) = true → (populated (pa + n - 1) || inStall (pa + n - 1)) = true →
      (s.fabAdmits pa n 66 = true → answers (.remoteFabricRequest dev pa n .read data) (some (reads n))) ∧
      (s.fabAdmits pa n 67 = true → Happens (.remoteFabricRequest dev pa n .write data) s fun t => t.hostOut = some [] ∧
        ∀ a, t.physByte a = if pa ≤ a ∧ a < pa + n then bits data (8 * (a - pa)) 8 else s.physByte a) ∧
      (s.fabAdmits pa n 66 = false → answers (.remoteFabricRequest dev pa n .read data) none) ∧
      (s.fabAdmits pa n 67 = false → answers (.remoteFabricRequest dev pa n .write data) none) ∧
      (∀ k, s.fabAdmits pa n 68 = true → Happens (.remoteFabricRequest dev pa n (.atomic k) data) s fun t =>
        let new := (rmwNew k (8 * n) (s.physRead pa n) (bits data 0 (8 * n)) (bits data (8 * n) (8 * n))).getD (s.physRead pa n)
        t.hostOut = some (reads n) ∧ ∀ a, t.physByte a = if pa ≤ a ∧ a < pa + n then bits new (8 * (a - pa)) 8 else s.physByte a) ∧
      (∀ k, s.fabAdmits pa n 68 = false → answers (.remoteFabricRequest dev pa n (.atomic k) data) none))) ∧
  (∀ (s : State) (vf off n : Nat) (b : List Byte),
    (s.windowOk vf off n = true → Happens (.hostStallRead vf off n) s fun t =>
      t.hostOut = some ((List.range n).map fun i => memByte s.mem (stallBase + off + i)) ∧ MemKept s t) ∧
    (s.windowOk vf off n = false → Happens (.hostStallRead vf off n) s fun t => t.hostOut = none ∧ MemKept s t) ∧
    (s.windowOk vf off b.length = true → Happens (.hostStallWrite vf off b) s fun t => t.hostOut = some [] ∧
      (∀ a, memByte t.mem a = if stallBase + off ≤ a ∧ a < stallBase + off + b.length then b.getD (a - (stallBase + off)) 0
        else memByte s.mem a) ∧ ∀ m c r, (t.ctx m c).sreg r = (s.ctx m c).sreg r) ∧
    (s.windowOk vf off b.length = false → Happens (.hostStallWrite vf off b) s fun t => t.hostOut = none ∧ MemKept s t) ∧
    Happens (.stlsync vf) s fun t => t.hostOut = some (List.replicate 8 0) ∧ MemKept s t) ∧
  (∀ (s : State) (v w : Nat),
    let window (off : Nat) (P : Vf → Prop) : Prop := v < 64 → Happens (.hostRegisterWrite (0x100000 + 0x1000 * v + off) w) s fun t =>
      P (t.vf v) ∧ (∀ u, u ≠ v → t.vf u = s.vf u) ∧ t.pkg = s.pkg ∧ MemKept s t ∧ ∀ n c, t.ctx n c = s.ctx n c
    (s.pkg.fabEn = 0 → Happens (.hostRegisterWrite 0 w) s fun t => t.pkg = { s.pkg with devId := w % 2 ^ 18 } ∧ MemKept s t) ∧
    (s.pkg.fabEn ≠ 0 → Happens (.hostRegisterWrite 0 w) s fun t => t.pkg = s.pkg ∧ MemKept s t) ∧
    (Happens (.hostRegisterWrite 0x10 w) s fun t => MemKept s t ∧
      t.pkg = { s.pkg with keep := min 4096 (bits w 0 13), fallback := max 70 (min 280 (bits w 16 12)) }) ∧
    (let base := w % 2 ^ 45
     let n := heatSlot 0 (cxlTop / 65536)
     Happens (.hostRegisterWrite 0x480 w) s fun t => t.pkg = { s.pkg with heatBase := base } ∧
      ((s.heat.map (·.1)).Nodup → ∀ k, t.heat.get k 0 = s.heat.get k 0) ∧
      (base = 0 → MemKept s t) ∧
      (base ≠ 0 → (∀ e ∈ s.heat, e.1 < cxlTop / 65536) →
        (∀ l ∈ s.c2, 64 * l.pline + 64 ≤ base ∨ base + n ≤ 64 * l.pline) →
        (∀ a, a < base ∨ base + n ≤ a → t.physByte a = s.physByte a) ∧
        ∀ p h, s.heat = [(p, h)] → h < 2 ^ 16 → inHbm (heatSlot base p) 4 = true → t.physRead (heatSlot base p) 4 = h)) ∧
    (s.vfLive v = true → window 0 fun x => x = { s.vf v with werr := true }) ∧
    (s.vfLive v = false → window 0 fun x => x = { s.vf v with asidTab := bits w 12 33 * 4096 }) ∧
    (window 8 fun x => x = { s.vf v with quota := x.quota } ∧ ∀ c, c < 4 → bits x.quota (5 * c) 5 = min 16 (bits w (5 * c) 5)) ∧
    (window 0x18 fun x => x = { s.vf v with kvLim := w % 2 ^ 23 })) ∧
  (∀ (s : State) (vf e : Nat),
    let entry := lqEntry e
    (s.lqPush (bits e 0 8) (bits e 8 2) entry none = none → Happens (.lqpush vf e) s fun t => t.pkg.lqStatus = stLQFULL ∧
      t.lq = s.lq ∧ MemKept s t) ∧
    (∀ base logn head tail, s.lqRing (bits e 0 8) (bits e 8 2) = some (base, logn, head, tail) →
      38 ≤ ringFree (2 ^ logn) head tail → Happens (.lqpush vf e) s fun t => t.pkg.lqStatus = stOK ∧
        (t.lqList (bits e 0 8) (bits e 8 2)).pushIdx = (s.lqList (bits e 0 8) (bits e 8 2)).pushIdx + 1 ∧
        ∀ n c r, (t.ctx n c).sreg r = (s.ctx n c).sreg r)) ∧
  (∀ (s : State) (vf idx core t r v n : Nat),
    (∀ base logn, s.svcRing vf = some (base, logn) → idx < 2 ^ 12 → Happens (.svcdb vf idx) s fun u =>
      u.svcs = s.svcs.map (fun q => if q.vf = vf ∧ q.idx = idx ∧ q.reply = none then
        { q with reply := some (BitVec.ofNat 64 (s.physRead (base + 32 * idx + 16) 8)) } else q) ∧ MemKept s u) ∧
    (core < numCores → t < 256 → Happens (.trkclr core t) s fun u => (u.track core t).susp = false ∧
      (u.track core t).head = (s.track core t).head ∧ (∀ k, k ≠ t → u.track core k = s.track core k) ∧ MemKept s u) ∧
    (Happens (.counterClear vf n) s fun u => MemKept s u ∧ (n = 0 → (u.vf vf).migSkip = 0) ∧ (n = 1 → (u.vf vf).migErr = 0) ∧
      (n = 2 → (u.vf vf).wakeDup = 0) ∧ (n = 3 → (u.vf vf).rqDrop = 0) ∧ (n = 4 → (u.vf vf).doneErr = 0) ∧
      (n = 5 → (u.vf vf).lRefuse = 0) ∧ ∀ k, k ≠ vf → u.vf k = s.vf k) ∧
    (r < 4 → Happens (.errcntClear r v) s fun u => MemKept s u ∧ u.pkg.errLast = s.pkg.errLast ∧ ∀ c, c < 6 →
      bits (u.pkg.errCnt.get r 0) (10 * c) 10 = if bits v (10 * c) 10 = 1023 then 0 else bits (s.pkg.errCnt.get r 0) (10 * c) 10) ∧
    Happens (.spdmRequest n) s fun u => MemKept s u ∧ ∀ m c, u.ctx m c = s.ctx m c)

/-! Decoding, the step, and the machine at reset. -/

/-- R240 to R249 and R257: words that the spec writes out decode to their instructions, and a word that breaks R257 is refused at
its lowest failing parcel. -/
def Obligations.DecodeWords : Prop :=
  let form (d a b : Operand) : Form := ⟨0, Vx.default, false, 0, .plain false false 0, d, a, b⟩
  decodeParcels .empty [0x10040000, 0x30001100, 0x02000004] = .ok (.cmpi (form (.pred 1 0) (.scalar 2) (.imm 24 4)), []) ∧
  decodeParcels .empty [0x20000000, 0xE000F100, 0x03000000] = .ok (.loop (form (.imm 16 15) (.scalar 3) .none), []) ∧
  decodeParcels .empty [0x801C0000, 0x20002200, 0x01000000] = .ok (.vcmpr (form (.vec 2 0) (.vec 1 0) .none), []) ∧
  decodeParcels .empty [0xC0180000, 0x10007A00, 0x05000000] = .ok (.mfsr (form (.scalar 7) (.sysreg 5) .none), []) ∧
  decodeParcels .empty [0xF3000000, 0x700C4000, 0x20003200, 0x01200002] =
    .ok (.vfma { form (.vec 3 0) (.vec 1 0) (.vec 2 0) with npfx := 1, gp := 2, vx := { Vx.default with mask := 1, mz := true } }, []) ∧
  (∀ p ∈ [([0x00000001, 0x10001100, 0x02100003], 0), ([0xE0000000, 0x10001100, 0x02100003], 0), ([0x00FC0000, 0x10001100, 0x02100003], 0),
      ([0xF0000001, 0x00000000, 0x10001100, 0x02100003], 0), ([0x00000000, 0x10401100, 0x02100003], 1),
      ([0x10040000, 0x30000100, 0x02000004], 1), ([0x00000000, 0x10011100, 0x02500003], 2)],
    decodeParcels .empty p.1 = .error (.illegal p.2))

/-- R240 to R249: decoding what the encoder gives for any well-formed instruction gives it back, whatever parcels follow; the rows of
PXINS and of C2OP that one word covers give the row that the decoder names. -/
def Obligations.EncodeDecodeRoundTrip : Prop :=
  ∀ i : Instr, i.wf = true → ∃ ps, encode i = some ps ∧ ∀ rest, decodeParcels .empty (ps ++ rest) = .ok (i.canon, rest)

/-- A step runs the decoded instruction (R240, R197, R219): of the context that may take its turn and the agenda names, once no
trap, event or save is due at its boundary, the instruction whose parcels stand at its pc; at a yield point with a pre-emption request
pending the context is saved first (R243, R426), and an issue gap is waited for. A fetch that fails, and a word that is ILLEGAL in
itself whatever its guard (R242), take their fault at the instruction once the context's loads are over (R257, R414). A turn that has
issued nothing leaves the core's cycle to the other contexts (R205), any other takes it. Of a sequencer a step runs the command in its
slot (R191); of an event that is due, that event. -/
def Obligations.StepRunsDecodedInstruction : Prop :=
  (∀ (s : State) (core c : Nat) (rest : List Turn), s.agenda = .issue ⟨core, c, .context⟩ :: rest → s.power = true →
    s.mayTurn ⟨core, c, .context⟩ = true → s.boundaryDue core c = false → s.forceDue core c = false →
    let s1 := ({ s with agenda := rest, cur := ⟨core, c, .context⟩ } : State).modCore core fun k => { k with nextIssue := s.clk + 1 }
    let takes (o : Host.Outcome State Fault Refusal) : Prop := step s = settled (leaveCycle core c (s.core core).nextIssue o)
    let faults (u : State) (code : Nat) (v : Word) : Prop := (u.ctx core c).loads = [] →
      takes (.next (u.enterTrap core c (causeWord code false 0 0 0 0) v (u.ctx core c).pc))
    (∀ i u, s1.fetch core c = (.ok i, u) → badParcel i = none →
      let x := u.ctx core c
      let saves : Prop := yieldPoint i = true ∧ x.statBit bPREQ = true ∧ x.preq.isSome = true ∧ x.fresh = true
      (¬saves → x.gapLeft u.clk (issueGap i) = false → takes (exec i u)) ∧
      (saves → u.saveReady core c = true → takes (.next (u.saveContext core c 255 false)))) ∧
    (∀ i u k, s1.fetch core c = (.ok i, u) → badParcel i = some k →
      faults u cILLEGAL (BitVec.ofNat 64 ((u.ctx core c).pc + BitVec.ofNat 64 (4 * k)).toNat)) ∧
    (∀ code v u, s1.fetch core c = (.error (code, v), u) → code ≠ fetchHeld → faults u code (BitVec.ofNat 64 v))) ∧
  (∀ (t : State) (core c next : Nat), (t.ctx core c).stayed t.clk = false → leaveCycle core c next (.next t) = .next t) ∧
  (∀ (s : State) (core c : Nat) (ps : List Nat) (i : Instr), decodeParcels .empty ps = .ok (i, []) → ps.length < 2 ^ 54 →
    (∀ k p, ps[k]? = some p → s.fetchParcel core c ((s.ctx core c).pc + BitVec.ofNat 64 (4 * k)) = (.ok p, s)) →
    s.fetch core c = (.ok i, s)) ∧
  (∀ (s : State) (a : Agent) (rest : List Turn) (i : Instr), a.unit ≠ .context → s.agenda = .issue a :: rest → s.power = true →
    s.mayTurn a = true →
    let s1 := ({ s with agenda := rest, cur := a } : State).modSeq fun q => { q with gapTo := max q.gapTo (s.clk + 1) }
    s1.slotInstr a.core s1.mySeq = .ok i → step s = settled (exec i s1)) ∧
  (∀ (s u : State) (e : Event), s.agenda = [] → s.power = true → s.dueNow = some (e, u) →
    step s = settled (exec e.instr { u with ev := e }))

/-- What a cold reset leaves (R39, R52, R182, R183, R223, the reset columns of R401, R418, R439 and R445): control contexts that
wait for a launch, helpers FREE, the preset format table, VCNT all ones, p0 alone true, trap registers 0, stalls and tracks zero with
every head at 0 and every track the control context's, and the registers of the windows. The state meets the memory's canonical form
and names no agent outside the package. The purses at reset are log entry 5's, the registers without a reset
value log entry 6's, and the zeros of memory outside the stalls log entry 3's. -/
def Obligations.ResetValues : Prop :=
  let s := State.reset
  s.memOk = true ∧ s.agentsOk = true ∧ s.windowRanges = true ∧
  (∀ core c, c < numCtxs →
    let x := s.ctx core c
    x.st = (if c = 0 then .wait else .free) ∧ x.idle = true ∧ x.tlvl = 0 ∧ x.statBit bPFX = false ∧
    (∀ r, x.sreg r = 0) ∧ (∀ p, p < 16 → x.pred p = decide (p = 0)) ∧ (∀ g, x.guard g = .hold) ∧
    x.srGet rVCNT = 0xFFFFFFFF ∧ x.srGet rTVEC = 0 ∧ x.srGet rLOOPST = 0 ∧
    (∀ n, n = 1 ∨ n = 2 → x.srGet (rTCAUSE n) = 0 ∧ x.srGet (rTRET n) = 0 ∧ x.srGet (rTVAL n) = 0) ∧
    (∀ p ∈ [(0, (0x81C1FEF1 : FmtWord)), (1, 0x8141FCF1), (2, 0x81403D4B), (3, 0x80C81C69), (4, 0x80C03C4B), (5, 0x80980001),
        (6, 0x81180001), (7, 0x81980001), (8, 0x80288000), (9, 0x80500425), (10, 0x80180001)], x.fent p.1 = p.2) ∧
    (∀ f, 11 ≤ f → x.fent f = 0)) ∧
  (∀ core t, (s.track core t).head = 0 ∧ (s.track core t).owner = 0 ∧ (s.track core t).susp = false) ∧
  (∀ core w, (s.core core).words.get w 0 = 0) ∧ (∀ a, s.physByte a = 0) ∧ (∀ core, (s.core core).journal = []) ∧
  s.pkg.devId = 0 ∧ s.pkg.fabEn = 0 ∧ s.pkg.keep = 256 ∧ s.pkg.fallback = 196 ∧ s.pkg.ttEpoch = 0 ∧ s.pkg.ttCyc = 1000 ∧
  s.pkg.podBase = 0 ∧ s.pkg.fwStat = 0 ∧ s.pkg.ckptSave = 0 ∧ s.pkg.ckptState = 0 ∧ s.pkg.heatBase = 0 ∧ s.pkg.lqBase = 0 ∧
  (∀ v, (s.vf v).asidTab = 0 ∧ (s.vf v).kvLim = 0 ∧ (s.vf v).svcRing = 0 ∧ (s.vf v).killRing = 0 ∧ (s.vf v).werr = false ∧
    (s.vf v).migSkip = 0 ∧ (s.vf v).resetting = false)

/-- No step stops: whatever the state, a step answers a next state, and so does every event and every instruction that an agent of
the package issues (all that the spec describes as a fault is a trap taken, R414). -/
def Obligations.StepNeverStops : Prop :=
  (∀ s : State, ∃ t, step s = .next t) ∧
  (∀ (s : State) (e : Event), Happens e s fun _ => True) ∧
  (∀ (s : State) (i : Instr), s.agentOk = true → Gives i s fun _ => True)

/-- Every step keeps the package window's registers in the ranges that R207, R439 and R445 give them. -/
def Obligations.StepKeepsWindowRanges : Prop :=
  ∀ s t : State, s.windowRanges = true → step s = .next t → t.windowRanges = true
end

