-- ==== Sys2Proof/Laws/Bits.lean ====
section
/-! SUPPORT. Fields of numbers: reading a field after one was replaced. -/
namespace Sys2Proof

theorem bit_eq_testBit (x i : Nat) : bit x i = x.testBit i := by
  unfold bit
  rw [Nat.testBit_eq_decide_div_mod_eq]
  by_cases h : x / 2 ^ i % 2 = 1 <;> simp [h]

theorem bits_testBit (x lo n i : Nat) : (bits x lo n).testBit i = (decide (i < n) && x.testBit (lo + i)) := by
  unfold bits
  rw [Nat.testBit_mod_two_pow, Nat.testBit_div_two_pow, Nat.add_comm]

/-- The bits of a number with a field replaced. -/
theorem setBits_testBit (x lo n v i : Nat) :
    (setBits x lo n v).testBit i = if lo ≤ i ∧ i < lo + n then v.testBit (i - lo) else x.testBit i := by
  unfold setBits
  have h1 : x % 2 ^ lo < 2 ^ lo := Nat.mod_lt _ (Nat.two_pow_pos _)
  have h2 : v % 2 ^ n < 2 ^ n := Nat.mod_lt _ (Nat.two_pow_pos _)
  have e : x / 2 ^ (lo + n) * 2 ^ (lo + n) + v % 2 ^ n * 2 ^ lo + x % 2 ^ lo =
      2 ^ lo * (2 ^ n * (x / 2 ^ (lo + n)) + v % 2 ^ n) + x % 2 ^ lo := by
    rw [Nat.pow_add, Nat.mul_add, Nat.mul_comm (x / _), Nat.mul_comm (v % 2 ^ n), Nat.mul_assoc]
  rw [e, Nat.testBit_two_pow_mul_add _ h1]
  by_cases hlo : i < lo
  · rw [if_pos hlo, if_neg (by omega), Nat.testBit_mod_two_pow]; simp [hlo]
  · rw [if_neg hlo, Nat.testBit_two_pow_mul_add _ h2]
    by_cases hn : i - lo < n
    · rw [if_pos hn, if_pos (by omega), Nat.testBit_mod_two_pow]; simp [hn]
    · rw [if_neg hn, if_neg (by omega), Nat.testBit_div_two_pow]
      congr 1; omega

theorem bits_setBits_self (x lo n v : Nat) : bits (setBits x lo n v) lo n = v % 2 ^ n := by
  apply Nat.eq_of_testBit_eq
  intro i
  rw [bits_testBit, setBits_testBit, Nat.testBit_mod_two_pow]
  by_cases h : i < n
  · simp [h]
  · simp [h]

/-- A field apart from the replaced one reads as before. -/
theorem bits_setBits_ne (x lo n v lo' n' : Nat) (h : lo' + n' ≤ lo ∨ lo + n ≤ lo') :
    bits (setBits x lo n v) lo' n' = bits x lo' n' := by
  apply Nat.eq_of_testBit_eq
  intro i
  rw [bits_testBit, bits_testBit, setBits_testBit]
  by_cases hi : i < n'
  · rw [if_neg (by omega)]
  · simp [hi]

theorem bit_setBits_ne (x lo n v i : Nat) (h : i < lo ∨ lo + n ≤ i) : bit (setBits x lo n v) i = bit x i := by
  rw [bit_eq_testBit, bit_eq_testBit, setBits_testBit, if_neg (by omega)]

theorem bit_setBits_self (x i : Nat) (b : Bool) : bit (setBits x i 1 b.toNat) i = b := by
  rw [bit_eq_testBit, setBits_testBit, if_pos (by omega)]
  cases b <;> simp

theorem bit_mod (x n i : Nat) (h : i < n) : bit (x % 2 ^ n) i = bit x i := by
  rw [bit_eq_testBit, bit_eq_testBit, Nat.testBit_mod_two_pow]; simp [h]

theorem bits_mod (x k lo n : Nat) (h : lo + n ≤ k) : bits (x % 2 ^ k) lo n = bits x lo n := by
  apply Nat.eq_of_testBit_eq
  intro i
  rw [bits_testBit, bits_testBit, Nat.testBit_mod_two_pow]
  by_cases hi : i < n
  · simp [hi, show lo + i < k by omega]
  · simp [hi]

end Sys2Proof
end

