-- ==== Sys2Proof/Laws/Sparse.lean ====
section
/-! SUPPORT. Reading after writing sparse maps and sets, and their canonical form. -/
namespace Sys2Proof.Machine

variable {α : Type}

@[simp] theorem Assoc.get_nil (k : Nat) (d : α) : Assoc.get [] k d = d := rfl

theorem Assoc.get_cons (j k : Nat) (v : α) (m : Assoc α) (d : α) :
    Assoc.get ((j, v) :: m) k d = if j = k then v else Assoc.get m k d := by
  simp [Assoc.get]

@[simp] theorem Assoc.get_erase_self (m : Assoc α) (k : Nat) (d : α) : Assoc.get (Assoc.erase m k) k d = d := by
  induction m with
  | nil => rfl
  | cons e m ih =>
    obtain ⟨j, v⟩ := e
    by_cases h : j = k <;> simp [Assoc.erase, h, Assoc.get_cons, ih]

@[simp] theorem Assoc.get_erase_ne (m : Assoc α) {j k : Nat} (d : α) (h : j ≠ k) :
    Assoc.get (Assoc.erase m j) k d = Assoc.get m k d := by
  induction m with
  | nil => rfl
  | cons e m ih =>
    obtain ⟨i, v⟩ := e
    by_cases hi : i = j
    · subst hi; simp [Assoc.erase, Assoc.get_cons, ih, h]
    · simp [Assoc.erase, hi, Assoc.get_cons, ih]

theorem Assoc.get_insertSorted_self (m : Assoc α) (k : Nat) (v d : α) (h : Assoc.has m k = false) :
    Assoc.get (Assoc.insertSorted m k v) k d = v := by
  induction m with
  | nil => simp [Assoc.insertSorted, Assoc.get_cons]
  | cons e m ih =>
    obtain ⟨j, w⟩ := e
    simp only [Assoc.has, List.any_cons, Bool.or_eq_false_iff, beq_eq_false_iff_ne] at h
    unfold Assoc.insertSorted
    split
    · simp [Assoc.get_cons]
    · simp [Assoc.get_cons, h.1, ih h.2]

theorem Assoc.get_insertSorted_ne (m : Assoc α) {j k : Nat} (v d : α) (h : j ≠ k) :
    Assoc.get (Assoc.insertSorted m j v) k d = Assoc.get m k d := by
  induction m with
  | nil => simp [Assoc.insertSorted, Assoc.get_cons, h]
  | cons e m ih =>
    obtain ⟨i, w⟩ := e
    unfold Assoc.insertSorted
    split
    · simp [Assoc.get_cons, h]
    · simp [Assoc.get_cons, ih]

theorem Assoc.has_erase (m : Assoc α) (k : Nat) : Assoc.has (Assoc.erase m k) k = false := by
  induction m with
  | nil => rfl
  | cons e m ih =>
    obtain ⟨j, v⟩ := e
    by_cases h : j = k
    · simpa [Assoc.erase, h] using ih
    · simp only [Assoc.has] at ih
      simp [Assoc.erase, h, Assoc.has, ih]

@[simp] theorem Assoc.get_put_self (m : Assoc α) (k : Nat) (v d : α) : Assoc.get (Assoc.put m k v) k d = v :=
  Assoc.get_insertSorted_self _ _ _ _ (Assoc.has_erase m k)

@[simp] theorem Assoc.get_put_ne (m : Assoc α) {j k : Nat} (v d : α) (h : j ≠ k) :
    Assoc.get (Assoc.put m j v) k d = Assoc.get m k d := by
  simp [Assoc.put, Assoc.get_insertSorted_ne _ _ _ h, h]

theorem Assoc.get_put (m : Assoc α) (j k : Nat) (v d : α) :
    Assoc.get (Assoc.put m j v) k d = if k = j then v else Assoc.get m k d := by
  by_cases h : k = j
  · simp [h]
  · simp [h, Ne.symm h]

theorem Assoc.get_set [BEq α] [LawfulBEq α] (m : Assoc α) (j k : Nat) (v d : α) :
    Assoc.get (Assoc.set m j v d) k d = if k = j then v else Assoc.get m k d := by
  unfold Assoc.set
  by_cases hv : v = d
  · by_cases h : k = j
    · subst h; simp [hv]
    · simp [hv, h, Assoc.get_erase_ne m d (Ne.symm h)]
  · simp [hv, Assoc.get_put]

@[simp] theorem Assoc.get_set_self [BEq α] [LawfulBEq α] (m : Assoc α) (k : Nat) (v d : α) :
    Assoc.get (Assoc.set m k v d) k d = v := by simp [Assoc.get_set]

@[simp] theorem Assoc.get_set_ne [BEq α] [LawfulBEq α] (m : Assoc α) {j k : Nat} (v d : α) (h : j ≠ k) :
    Assoc.get (Assoc.set m j v d) k d = Assoc.get m k d := by simp [Assoc.get_set, Ne.symm h]

/-! The canonical form. -/

theorem Assoc.mem_erase (m : Assoc α) (k : Nat) (e : Nat × α) (h : e ∈ Assoc.erase m k) : e ∈ m := by
  induction m with
  | nil => simp [Assoc.erase] at h
  | cons a m ih =>
    obtain ⟨j, v⟩ := a
    by_cases hj : j = k
    · simp only [Assoc.erase, hj, beq_self_eq_true, if_true] at h
      exact List.mem_cons_of_mem _ (ih h)
    · simp only [Assoc.erase, beq_iff_eq, hj, if_false, List.mem_cons] at h
      rcases h with h | h
      · simp [h]
      · exact List.mem_cons_of_mem _ (ih h)

theorem Assoc.mem_insertSorted (m : Assoc α) (k : Nat) (v : α) (e : Nat × α) (h : e ∈ Assoc.insertSorted m k v) :
    e = (k, v) ∨ e ∈ m := by
  induction m with
  | nil => simpa [Assoc.insertSorted] using h
  | cons a m ih =>
    obtain ⟨j, w⟩ := a
    unfold Assoc.insertSorted at h
    split at h
    · simpa using h
    · simp only [List.mem_cons] at h ⊢
      rcases h with h | h
      · exact .inr (.inl h)
      · rcases ih h with h | h
        · exact .inl h
        · exact .inr (.inr h)

theorem Assoc.wf_erase [BEq α] (d : α) (m : Assoc α) (k : Nat) (h : Assoc.wf d m = true) :
    Assoc.wf d (Assoc.erase m k) = true := by
  induction m with
  | nil => rfl
  | cons a m ih =>
    obtain ⟨j, v⟩ := a
    simp only [Assoc.wf, Bool.and_eq_true, List.all_eq_true, decide_eq_true_eq] at h
    by_cases hj : j = k
    · simpa [Assoc.erase, hj] using ih h.2
    · simp only [Assoc.erase, beq_iff_eq, hj, if_false, Assoc.wf, Bool.and_eq_true, List.all_eq_true, decide_eq_true_eq]
      exact ⟨⟨h.1.1, fun e he => h.1.2 e (Assoc.mem_erase m k e he)⟩, ih h.2⟩

theorem Assoc.wf_insertSorted [BEq α] (d : α) (m : Assoc α) (k : Nat) (v : α) (hv : (v != d) = true)
    (hk : Assoc.has m k = false) (h : Assoc.wf d m = true) : Assoc.wf d (Assoc.insertSorted m k v) = true := by
  induction m with
  | nil => simp [Assoc.insertSorted, Assoc.wf, hv]
  | cons a m ih =>
    obtain ⟨j, w⟩ := a
    simp only [Assoc.has, List.any_cons, Bool.or_eq_false_iff, beq_eq_false_iff_ne] at hk
    simp only [Assoc.wf, Bool.and_eq_true, List.all_eq_true, decide_eq_true_eq] at h
    unfold Assoc.insertSorted
    split
    · rename_i hlt
      simp only [Assoc.wf, Bool.and_eq_true, List.all_eq_true, decide_eq_true_eq, List.mem_cons, forall_eq_or_imp]
      exact ⟨⟨hv, hlt, fun e he => Nat.lt_trans hlt (h.1.2 e he)⟩, ⟨h.1.1, h.1.2⟩, h.2⟩
    · rename_i hge
      simp only [Assoc.wf, Bool.and_eq_true, List.all_eq_true, decide_eq_true_eq]
      refine ⟨⟨h.1.1, fun e he => ?_⟩, ih hk.2 h.2⟩
      rcases Assoc.mem_insertSorted m k v e he with rfl | he
      · simp only; omega
      · exact h.1.2 e he

/-- A write keeps the canonical form. -/
theorem Assoc.wf_set [BEq α] (d : α) (m : Assoc α) (k : Nat) (v : α) (h : Assoc.wf d m = true) :
    Assoc.wf d (Assoc.set m k v d) = true := by
  unfold Assoc.set
  by_cases hv : (v == d) = true
  · simpa [hv] using Assoc.wf_erase d m k h
  · simp only [hv]
    exact Assoc.wf_insertSorted d _ k v (by simpa [bne] using hv) (Assoc.has_erase m k) (Assoc.wf_erase d m k h)

/-! Maps built from parts. -/

theorem Assoc.wf_cons [BEq α] [LawfulBEq α] (d : α) (e : Nat × α) (m : Assoc α) :
    Assoc.wf d (e :: m) = true ↔ (e.2 != d) = true ∧ (∀ x ∈ m, e.1 < x.1) ∧ Assoc.wf d m = true := by
  simp only [Assoc.wf, Bool.and_eq_true, List.all_eq_true, decide_eq_true_eq, and_assoc]

theorem Assoc.wf_filter [BEq α] [LawfulBEq α] (d : α) (m : Assoc α) (p : Nat × α → Bool) (h : Assoc.wf d m = true) :
    Assoc.wf d (m.filter p) = true := by
  induction m with
  | nil => rfl
  | cons e m ih =>
    obtain ⟨hv, hk, hm⟩ := (Assoc.wf_cons d e m).mp h
    rw [List.filter_cons]
    split
    · exact (Assoc.wf_cons d _ _).mpr ⟨hv, fun x hx => hk x (List.mem_of_mem_filter hx), ih hm⟩
    · exact ih hm

theorem Assoc.wf_append [BEq α] [LawfulBEq α] (d : α) (a b : Assoc α) (ha : Assoc.wf d a = true) (hb : Assoc.wf d b = true)
    (h : ∀ x ∈ a, ∀ y ∈ b, x.1 < y.1) : Assoc.wf d (a ++ b) = true := by
  induction a with
  | nil => exact hb
  | cons e a ih =>
    obtain ⟨hv, hk, hm⟩ := (Assoc.wf_cons d e a).mp ha
    refine (Assoc.wf_cons d _ _).mpr ⟨hv, ?_, ih hm fun x hx => h x (List.mem_cons_of_mem _ hx)⟩
    intro x hx
    rcases List.mem_append.mp hx with hx | hx
    · exact hk x hx
    · exact h e (List.mem_cons_self ..) x hx

/-- Keys renumbered in the same order. -/
theorem Assoc.wf_map_keys [BEq α] [LawfulBEq α] (d : α) (m : Assoc α) (g : Nat → Nat)
    (hg : ∀ x ∈ m, ∀ y ∈ m, x.1 < y.1 → g x.1 < g y.1) (h : Assoc.wf d m = true) :
    Assoc.wf d (m.map fun e => (g e.1, e.2)) = true := by
  induction m with
  | nil => rfl
  | cons e m ih =>
    obtain ⟨hv, hk, hm⟩ := (Assoc.wf_cons d e m).mp h
    refine (Assoc.wf_cons d _ _).mpr ⟨hv, ?_, ih (fun x hx y hy => hg x (List.mem_cons_of_mem _ hx) y (List.mem_cons_of_mem _ hy)) hm⟩
    intro x hx
    obtain ⟨y, hy, rfl⟩ := List.mem_map.mp hx
    exact hg e (List.mem_cons_self ..) y (List.mem_cons_of_mem _ hy) (hk y hy)

end Sys2Proof.Machine
end

