-- ==== Sys2Proof/Laws/State.lean ====
section
/-! SUPPORT. What reads what after one update of the state: cores, contexts, registers and the acting agent. -/
namespace Sys2Proof.Machine

/-! Cores and contexts. -/

@[simp] theorem State.core_setCore_self (s : State) (n : Nat) (k : Core) : (s.setCore n k).core n = k := by
  simp [State.core, State.setCore]

@[simp] theorem State.core_setCore_ne (s : State) {m n : Nat} (k : Core) (h : m ≠ n) :
    (s.setCore m k).core n = s.core n := by
  simp [State.core, State.setCore, h]

theorem State.core_setCore (s : State) (m n : Nat) (k : Core) :
    (s.setCore m k).core n = if n = m then k else s.core n := by
  by_cases h : n = m
  · simp [h]
  · simp [h, Ne.symm h]

@[simp] theorem Core.ctx_setCtx_self (k : Core) (c : Nat) (x : Ctx) : (k.setCtx c x).ctx c = x := by
  simp [Core.ctx, Core.setCtx]

@[simp] theorem Core.ctx_setCtx_ne (k : Core) {c d : Nat} (x : Ctx) (h : c ≠ d) : (k.setCtx c x).ctx d = k.ctx d := by
  simp [Core.ctx, Core.setCtx, h]

@[simp] theorem State.ctx_setCtx_self (s : State) (n c : Nat) (x : Ctx) : (s.setCtx n c x).ctx n c = x := by
  simp [State.ctx, State.setCtx]

theorem State.ctx_setCtx (s : State) (n c m d : Nat) (x : Ctx) :
    (s.setCtx n c x).ctx m d = if m = n ∧ d = c then x else s.ctx m d := by
  by_cases h : m = n
  · subst h
    by_cases hd : d = c
    · simp [hd]
    · simp [State.ctx, State.setCtx, hd, Ne.symm hd]
  · simp [State.ctx, State.setCtx, h, Ne.symm h]

@[simp] theorem State.ctx_modCtx_self (s : State) (n c : Nat) (f : Ctx → Ctx) : (s.modCtx n c f).ctx n c = f (s.ctx n c) := by
  simp [State.modCtx]

theorem State.ctx_modCtx (s : State) (n c m d : Nat) (f : Ctx → Ctx) :
    (s.modCtx n c f).ctx m d = if m = n ∧ d = c then f (s.ctx m d) else s.ctx m d := by
  unfold State.modCtx
  rw [State.ctx_setCtx]
  by_cases h : m = n ∧ d = c
  · obtain ⟨rfl, rfl⟩ := h; simp
  · simp [h]

theorem State.ctx_setCore (s : State) (n m d : Nat) (k : Core) :
    (s.setCore n k).ctx m d = if m = n then k.ctx d else s.ctx m d := by
  by_cases h : m = n
  · subst h; simp [State.ctx]
  · simp [State.ctx, h, Ne.symm h]

theorem State.ctx_modCore (s : State) (n m d : Nat) (f : Core → Core) :
    (s.modCore n f).ctx m d = if m = n then (f (s.core n)).ctx d else s.ctx m d := by
  simp [State.modCore, State.ctx_setCore]

theorem State.core_modCore (s : State) (m n : Nat) (f : Core → Core) :
    (s.modCore m f).core n = if n = m then f (s.core m) else s.core n := by
  simp [State.modCore, State.core_setCore]

theorem State.core_setCtx (s : State) (n c m : Nat) (x : Ctx) :
    (s.setCtx n c x).core m = if m = n then (s.core n).setCtx c x else s.core m := by
  simp [State.setCtx, State.core_setCore]

theorem State.core_modCtx (s : State) (n c m : Nat) (f : Ctx → Ctx) :
    (s.modCtx n c f).core m = if m = n then (s.core n).setCtx c (f (s.ctx n c)) else s.core m := by
  simp [State.modCtx, State.core_setCtx]

/-! The other fields after an update of a core or a context. -/

@[simp] theorem State.setCore_clk (s : State) (n : Nat) (k : Core) : (s.setCore n k).clk = s.clk := rfl
@[simp] theorem State.modCore_clk (s : State) (n : Nat) (g : Core → Core) : (s.modCore n g).clk = s.clk := rfl
@[simp] theorem State.setCtx_clk (s : State) (n c : Nat) (x : Ctx) : (s.setCtx n c x).clk = s.clk := rfl
@[simp] theorem State.modCtx_clk (s : State) (n c : Nat) (g : Ctx → Ctx) : (s.modCtx n c g).clk = s.clk := rfl
@[simp] theorem State.setMe_clk (s : State) (x : Ctx) : (s.setMe x).clk = s.clk := rfl
@[simp] theorem State.modMe_clk (s : State) (g : Ctx → Ctx) : (s.modMe g).clk = s.clk := rfl
@[simp] theorem State.setCore_nsOff (s : State) (n : Nat) (k : Core) : (s.setCore n k).nsOff = s.nsOff := rfl
@[simp] theorem State.modCore_nsOff (s : State) (n : Nat) (g : Core → Core) : (s.modCore n g).nsOff = s.nsOff := rfl
@[simp] theorem State.setCtx_nsOff (s : State) (n c : Nat) (x : Ctx) : (s.setCtx n c x).nsOff = s.nsOff := rfl
@[simp] theorem State.modCtx_nsOff (s : State) (n c : Nat) (g : Ctx → Ctx) : (s.modCtx n c g).nsOff = s.nsOff := rfl
@[simp] theorem State.setMe_nsOff (s : State) (x : Ctx) : (s.setMe x).nsOff = s.nsOff := rfl
@[simp] theorem State.modMe_nsOff (s : State) (g : Ctx → Ctx) : (s.modMe g).nsOff = s.nsOff := rfl
@[simp] theorem State.setCore_power (s : State) (n : Nat) (k : Core) : (s.setCore n k).power = s.power := rfl
@[simp] theorem State.modCore_power (s : State) (n : Nat) (g : Core → Core) : (s.modCore n g).power = s.power := rfl
@[simp] theorem State.setCtx_power (s : State) (n c : Nat) (x : Ctx) : (s.setCtx n c x).power = s.power := rfl
@[simp] theorem State.modCtx_power (s : State) (n c : Nat) (g : Ctx → Ctx) : (s.modCtx n c g).power = s.power := rfl
@[simp] theorem State.setMe_power (s : State) (x : Ctx) : (s.setMe x).power = s.power := rfl
@[simp] theorem State.modMe_power (s : State) (g : Ctx → Ctx) : (s.modMe g).power = s.power := rfl
@[simp] theorem State.setCore_mem (s : State) (n : Nat) (k : Core) : (s.setCore n k).mem = s.mem := rfl
@[simp] theorem State.modCore_mem (s : State) (n : Nat) (g : Core → Core) : (s.modCore n g).mem = s.mem := rfl
@[simp] theorem State.setCtx_mem (s : State) (n c : Nat) (x : Ctx) : (s.setCtx n c x).mem = s.mem := rfl
@[simp] theorem State.modCtx_mem (s : State) (n c : Nat) (g : Ctx → Ctx) : (s.modCtx n c g).mem = s.mem := rfl
@[simp] theorem State.setMe_mem (s : State) (x : Ctx) : (s.setMe x).mem = s.mem := rfl
@[simp] theorem State.modMe_mem (s : State) (g : Ctx → Ctx) : (s.modMe g).mem = s.mem := rfl
@[simp] theorem State.setCore_poison (s : State) (n : Nat) (k : Core) : (s.setCore n k).poison = s.poison := rfl
@[simp] theorem State.modCore_poison (s : State) (n : Nat) (g : Core → Core) : (s.modCore n g).poison = s.poison := rfl
@[simp] theorem State.setCtx_poison (s : State) (n c : Nat) (x : Ctx) : (s.setCtx n c x).poison = s.poison := rfl
@[simp] theorem State.modCtx_poison (s : State) (n c : Nat) (g : Ctx → Ctx) : (s.modCtx n c g).poison = s.poison := rfl
@[simp] theorem State.setMe_poison (s : State) (x : Ctx) : (s.setMe x).poison = s.poison := rfl
@[simp] theorem State.modMe_poison (s : State) (g : Ctx → Ctx) : (s.modMe g).poison = s.poison := rfl
@[simp] theorem State.setCore_flash (s : State) (n : Nat) (k : Core) : (s.setCore n k).flash = s.flash := rfl
@[simp] theorem State.modCore_flash (s : State) (n : Nat) (g : Core → Core) : (s.modCore n g).flash = s.flash := rfl
@[simp] theorem State.setCtx_flash (s : State) (n c : Nat) (x : Ctx) : (s.setCtx n c x).flash = s.flash := rfl
@[simp] theorem State.modCtx_flash (s : State) (n c : Nat) (g : Ctx → Ctx) : (s.modCtx n c g).flash = s.flash := rfl
@[simp] theorem State.setMe_flash (s : State) (x : Ctx) : (s.setMe x).flash = s.flash := rfl
@[simp] theorem State.modMe_flash (s : State) (g : Ctx → Ctx) : (s.modMe g).flash = s.flash := rfl
@[simp] theorem State.setCore_c2 (s : State) (n : Nat) (k : Core) : (s.setCore n k).c2 = s.c2 := rfl
@[simp] theorem State.modCore_c2 (s : State) (n : Nat) (g : Core → Core) : (s.modCore n g).c2 = s.c2 := rfl
@[simp] theorem State.setCtx_c2 (s : State) (n c : Nat) (x : Ctx) : (s.setCtx n c x).c2 = s.c2 := rfl
@[simp] theorem State.modCtx_c2 (s : State) (n c : Nat) (g : Ctx → Ctx) : (s.modCtx n c g).c2 = s.c2 := rfl
@[simp] theorem State.setMe_c2 (s : State) (x : Ctx) : (s.setMe x).c2 = s.c2 := rfl
@[simp] theorem State.modMe_c2 (s : State) (g : Ctx → Ctx) : (s.modMe g).c2 = s.c2 := rfl
@[simp] theorem State.setCore_tlb (s : State) (n : Nat) (k : Core) : (s.setCore n k).tlb = s.tlb := rfl
@[simp] theorem State.modCore_tlb (s : State) (n : Nat) (g : Core → Core) : (s.modCore n g).tlb = s.tlb := rfl
@[simp] theorem State.setCtx_tlb (s : State) (n c : Nat) (x : Ctx) : (s.setCtx n c x).tlb = s.tlb := rfl
@[simp] theorem State.modCtx_tlb (s : State) (n c : Nat) (g : Ctx → Ctx) : (s.modCtx n c g).tlb = s.tlb := rfl
@[simp] theorem State.setMe_tlb (s : State) (x : Ctx) : (s.setMe x).tlb = s.tlb := rfl
@[simp] theorem State.modMe_tlb (s : State) (g : Ctx → Ctx) : (s.modMe g).tlb = s.tlb := rfl
@[simp] theorem State.setCore_walks (s : State) (n : Nat) (k : Core) : (s.setCore n k).walks = s.walks := rfl
@[simp] theorem State.modCore_walks (s : State) (n : Nat) (g : Core → Core) : (s.modCore n g).walks = s.walks := rfl
@[simp] theorem State.setCtx_walks (s : State) (n c : Nat) (x : Ctx) : (s.setCtx n c x).walks = s.walks := rfl
@[simp] theorem State.modCtx_walks (s : State) (n c : Nat) (g : Ctx → Ctx) : (s.modCtx n c g).walks = s.walks := rfl
@[simp] theorem State.setMe_walks (s : State) (x : Ctx) : (s.setMe x).walks = s.walks := rfl
@[simp] theorem State.modMe_walks (s : State) (g : Ctx → Ctx) : (s.modMe g).walks = s.walks := rfl
@[simp] theorem State.setCore_icache (s : State) (n : Nat) (k : Core) : (s.setCore n k).icache = s.icache := rfl
@[simp] theorem State.modCore_icache (s : State) (n : Nat) (g : Core → Core) : (s.modCore n g).icache = s.icache := rfl
@[simp] theorem State.setCtx_icache (s : State) (n c : Nat) (x : Ctx) : (s.setCtx n c x).icache = s.icache := rfl
@[simp] theorem State.modCtx_icache (s : State) (n c : Nat) (g : Ctx → Ctx) : (s.modCtx n c g).icache = s.icache := rfl
@[simp] theorem State.setMe_icache (s : State) (x : Ctx) : (s.setMe x).icache = s.icache := rfl
@[simp] theorem State.modMe_icache (s : State) (g : Ctx → Ctx) : (s.modMe g).icache = s.icache := rfl
@[simp] theorem State.setCore_fills (s : State) (n : Nat) (k : Core) : (s.setCore n k).fills = s.fills := rfl
@[simp] theorem State.modCore_fills (s : State) (n : Nat) (g : Core → Core) : (s.modCore n g).fills = s.fills := rfl
@[simp] theorem State.setCtx_fills (s : State) (n c : Nat) (x : Ctx) : (s.setCtx n c x).fills = s.fills := rfl
@[simp] theorem State.modCtx_fills (s : State) (n c : Nat) (g : Ctx → Ctx) : (s.modCtx n c g).fills = s.fills := rfl
@[simp] theorem State.setMe_fills (s : State) (x : Ctx) : (s.setMe x).fills = s.fills := rfl
@[simp] theorem State.modMe_fills (s : State) (g : Ctx → Ctx) : (s.modMe g).fills = s.fills := rfl
@[simp] theorem State.setCore_reqs (s : State) (n : Nat) (k : Core) : (s.setCore n k).reqs = s.reqs := rfl
@[simp] theorem State.modCore_reqs (s : State) (n : Nat) (g : Core → Core) : (s.modCore n g).reqs = s.reqs := rfl
@[simp] theorem State.setCtx_reqs (s : State) (n c : Nat) (x : Ctx) : (s.setCtx n c x).reqs = s.reqs := rfl
@[simp] theorem State.modCtx_reqs (s : State) (n c : Nat) (g : Ctx → Ctx) : (s.modCtx n c g).reqs = s.reqs := rfl
@[simp] theorem State.setMe_reqs (s : State) (x : Ctx) : (s.setMe x).reqs = s.reqs := rfl
@[simp] theorem State.modMe_reqs (s : State) (g : Ctx → Ctx) : (s.modMe g).reqs = s.reqs := rfl
@[simp] theorem State.setCore_held (s : State) (n : Nat) (k : Core) : (s.setCore n k).held = s.held := rfl
@[simp] theorem State.modCore_held (s : State) (n : Nat) (g : Core → Core) : (s.modCore n g).held = s.held := rfl
@[simp] theorem State.setCtx_held (s : State) (n c : Nat) (x : Ctx) : (s.setCtx n c x).held = s.held := rfl
@[simp] theorem State.modCtx_held (s : State) (n c : Nat) (g : Ctx → Ctx) : (s.modCtx n c g).held = s.held := rfl
@[simp] theorem State.setMe_held (s : State) (x : Ctx) : (s.setMe x).held = s.held := rfl
@[simp] theorem State.modMe_held (s : State) (g : Ctx → Ctx) : (s.modMe g).held = s.held := rfl
@[simp] theorem State.setCore_wakes (s : State) (n : Nat) (k : Core) : (s.setCore n k).wakes = s.wakes := rfl
@[simp] theorem State.modCore_wakes (s : State) (n : Nat) (g : Core → Core) : (s.modCore n g).wakes = s.wakes := rfl
@[simp] theorem State.setCtx_wakes (s : State) (n c : Nat) (x : Ctx) : (s.setCtx n c x).wakes = s.wakes := rfl
@[simp] theorem State.modCtx_wakes (s : State) (n c : Nat) (g : Ctx → Ctx) : (s.modCtx n c g).wakes = s.wakes := rfl
@[simp] theorem State.setMe_wakes (s : State) (x : Ctx) : (s.setMe x).wakes = s.wakes := rfl
@[simp] theorem State.modMe_wakes (s : State) (g : Ctx → Ctx) : (s.modMe g).wakes = s.wakes := rfl
@[simp] theorem State.setCore_ops (s : State) (n : Nat) (k : Core) : (s.setCore n k).ops = s.ops := rfl
@[simp] theorem State.modCore_ops (s : State) (n : Nat) (g : Core → Core) : (s.modCore n g).ops = s.ops := rfl
@[simp] theorem State.setCtx_ops (s : State) (n c : Nat) (x : Ctx) : (s.setCtx n c x).ops = s.ops := rfl
@[simp] theorem State.modCtx_ops (s : State) (n c : Nat) (g : Ctx → Ctx) : (s.modCtx n c g).ops = s.ops := rfl
@[simp] theorem State.setMe_ops (s : State) (x : Ctx) : (s.setMe x).ops = s.ops := rfl
@[simp] theorem State.modMe_ops (s : State) (g : Ctx → Ctx) : (s.modMe g).ops = s.ops := rfl
@[simp] theorem State.setCore_msgs (s : State) (n : Nat) (k : Core) : (s.setCore n k).msgs = s.msgs := rfl
@[simp] theorem State.modCore_msgs (s : State) (n : Nat) (g : Core → Core) : (s.modCore n g).msgs = s.msgs := rfl
@[simp] theorem State.setCtx_msgs (s : State) (n c : Nat) (x : Ctx) : (s.setCtx n c x).msgs = s.msgs := rfl
@[simp] theorem State.modCtx_msgs (s : State) (n c : Nat) (g : Ctx → Ctx) : (s.modCtx n c g).msgs = s.msgs := rfl
@[simp] theorem State.setMe_msgs (s : State) (x : Ctx) : (s.setMe x).msgs = s.msgs := rfl
@[simp] theorem State.modMe_msgs (s : State) (g : Ctx → Ctx) : (s.modMe g).msgs = s.msgs := rfl
@[simp] theorem State.setCore_xvals (s : State) (n : Nat) (k : Core) : (s.setCore n k).xvals = s.xvals := rfl
@[simp] theorem State.modCore_xvals (s : State) (n : Nat) (g : Core → Core) : (s.modCore n g).xvals = s.xvals := rfl
@[simp] theorem State.setCtx_xvals (s : State) (n c : Nat) (x : Ctx) : (s.setCtx n c x).xvals = s.xvals := rfl
@[simp] theorem State.modCtx_xvals (s : State) (n c : Nat) (g : Ctx → Ctx) : (s.modCtx n c g).xvals = s.xvals := rfl
@[simp] theorem State.setMe_xvals (s : State) (x : Ctx) : (s.setMe x).xvals = s.xvals := rfl
@[simp] theorem State.modMe_xvals (s : State) (g : Ctx → Ctx) : (s.modMe g).xvals = s.xvals := rfl
@[simp] theorem State.setCore_heat (s : State) (n : Nat) (k : Core) : (s.setCore n k).heat = s.heat := rfl
@[simp] theorem State.modCore_heat (s : State) (n : Nat) (g : Core → Core) : (s.modCore n g).heat = s.heat := rfl
@[simp] theorem State.setCtx_heat (s : State) (n c : Nat) (x : Ctx) : (s.setCtx n c x).heat = s.heat := rfl
@[simp] theorem State.modCtx_heat (s : State) (n c : Nat) (g : Ctx → Ctx) : (s.modCtx n c g).heat = s.heat := rfl
@[simp] theorem State.setMe_heat (s : State) (x : Ctx) : (s.setMe x).heat = s.heat := rfl
@[simp] theorem State.modMe_heat (s : State) (g : Ctx → Ctx) : (s.modMe g).heat = s.heat := rfl
@[simp] theorem State.setCore_regs (s : State) (n : Nat) (k : Core) : (s.setCore n k).regs = s.regs := rfl
@[simp] theorem State.modCore_regs (s : State) (n : Nat) (g : Core → Core) : (s.modCore n g).regs = s.regs := rfl
@[simp] theorem State.setCtx_regs (s : State) (n c : Nat) (x : Ctx) : (s.setCtx n c x).regs = s.regs := rfl
@[simp] theorem State.modCtx_regs (s : State) (n c : Nat) (g : Ctx → Ctx) : (s.modCtx n c g).regs = s.regs := rfl
@[simp] theorem State.setMe_regs (s : State) (x : Ctx) : (s.setMe x).regs = s.regs := rfl
@[simp] theorem State.modMe_regs (s : State) (g : Ctx → Ctx) : (s.modMe g).regs = s.regs := rfl
@[simp] theorem State.setCore_moves (s : State) (n : Nat) (k : Core) : (s.setCore n k).moves = s.moves := rfl
@[simp] theorem State.modCore_moves (s : State) (n : Nat) (g : Core → Core) : (s.modCore n g).moves = s.moves := rfl
@[simp] theorem State.setCtx_moves (s : State) (n c : Nat) (x : Ctx) : (s.setCtx n c x).moves = s.moves := rfl
@[simp] theorem State.modCtx_moves (s : State) (n c : Nat) (g : Ctx → Ctx) : (s.modCtx n c g).moves = s.moves := rfl
@[simp] theorem State.setMe_moves (s : State) (x : Ctx) : (s.setMe x).moves = s.moves := rfl
@[simp] theorem State.modMe_moves (s : State) (g : Ctx → Ctx) : (s.modMe g).moves = s.moves := rfl
@[simp] theorem State.setCore_parks (s : State) (n : Nat) (k : Core) : (s.setCore n k).parks = s.parks := rfl
@[simp] theorem State.modCore_parks (s : State) (n : Nat) (g : Core → Core) : (s.modCore n g).parks = s.parks := rfl
@[simp] theorem State.setCtx_parks (s : State) (n c : Nat) (x : Ctx) : (s.setCtx n c x).parks = s.parks := rfl
@[simp] theorem State.modCtx_parks (s : State) (n c : Nat) (g : Ctx → Ctx) : (s.modCtx n c g).parks = s.parks := rfl
@[simp] theorem State.setMe_parks (s : State) (x : Ctx) : (s.setMe x).parks = s.parks := rfl
@[simp] theorem State.modMe_parks (s : State) (g : Ctx → Ctx) : (s.modMe g).parks = s.parks := rfl
@[simp] theorem State.setCore_kvHeld (s : State) (n : Nat) (k : Core) : (s.setCore n k).kvHeld = s.kvHeld := rfl
@[simp] theorem State.modCore_kvHeld (s : State) (n : Nat) (g : Core → Core) : (s.modCore n g).kvHeld = s.kvHeld := rfl
@[simp] theorem State.setCtx_kvHeld (s : State) (n c : Nat) (x : Ctx) : (s.setCtx n c x).kvHeld = s.kvHeld := rfl
@[simp] theorem State.modCtx_kvHeld (s : State) (n c : Nat) (g : Ctx → Ctx) : (s.modCtx n c g).kvHeld = s.kvHeld := rfl
@[simp] theorem State.setMe_kvHeld (s : State) (x : Ctx) : (s.setMe x).kvHeld = s.kvHeld := rfl
@[simp] theorem State.modMe_kvHeld (s : State) (g : Ctx → Ctx) : (s.modMe g).kvHeld = s.kvHeld := rfl
@[simp] theorem State.setCore_kvWait (s : State) (n : Nat) (k : Core) : (s.setCore n k).kvWait = s.kvWait := rfl
@[simp] theorem State.modCore_kvWait (s : State) (n : Nat) (g : Core → Core) : (s.modCore n g).kvWait = s.kvWait := rfl
@[simp] theorem State.setCtx_kvWait (s : State) (n c : Nat) (x : Ctx) : (s.setCtx n c x).kvWait = s.kvWait := rfl
@[simp] theorem State.modCtx_kvWait (s : State) (n c : Nat) (g : Ctx → Ctx) : (s.modCtx n c g).kvWait = s.kvWait := rfl
@[simp] theorem State.setMe_kvWait (s : State) (x : Ctx) : (s.setMe x).kvWait = s.kvWait := rfl
@[simp] theorem State.modMe_kvWait (s : State) (g : Ctx → Ctx) : (s.modMe g).kvWait = s.kvWait := rfl
@[simp] theorem State.setCore_launches (s : State) (n : Nat) (k : Core) : (s.setCore n k).launches = s.launches := rfl
@[simp] theorem State.modCore_launches (s : State) (n : Nat) (g : Core → Core) : (s.modCore n g).launches = s.launches := rfl
@[simp] theorem State.setCtx_launches (s : State) (n c : Nat) (x : Ctx) : (s.setCtx n c x).launches = s.launches := rfl
@[simp] theorem State.modCtx_launches (s : State) (n c : Nat) (g : Ctx → Ctx) : (s.modCtx n c g).launches = s.launches := rfl
@[simp] theorem State.setMe_launches (s : State) (x : Ctx) : (s.setMe x).launches = s.launches := rfl
@[simp] theorem State.modMe_launches (s : State) (g : Ctx → Ctx) : (s.modMe g).launches = s.launches := rfl
@[simp] theorem State.setCore_gangs (s : State) (n : Nat) (k : Core) : (s.setCore n k).gangs = s.gangs := rfl
@[simp] theorem State.modCore_gangs (s : State) (n : Nat) (g : Core → Core) : (s.modCore n g).gangs = s.gangs := rfl
@[simp] theorem State.setCtx_gangs (s : State) (n c : Nat) (x : Ctx) : (s.setCtx n c x).gangs = s.gangs := rfl
@[simp] theorem State.modCtx_gangs (s : State) (n c : Nat) (g : Ctx → Ctx) : (s.modCtx n c g).gangs = s.gangs := rfl
@[simp] theorem State.setMe_gangs (s : State) (x : Ctx) : (s.setMe x).gangs = s.gangs := rfl
@[simp] theorem State.modMe_gangs (s : State) (g : Ctx → Ctx) : (s.modMe g).gangs = s.gangs := rfl
@[simp] theorem State.setCore_bells (s : State) (n : Nat) (k : Core) : (s.setCore n k).bells = s.bells := rfl
@[simp] theorem State.modCore_bells (s : State) (n : Nat) (g : Core → Core) : (s.modCore n g).bells = s.bells := rfl
@[simp] theorem State.setCtx_bells (s : State) (n c : Nat) (x : Ctx) : (s.setCtx n c x).bells = s.bells := rfl
@[simp] theorem State.modCtx_bells (s : State) (n c : Nat) (g : Ctx → Ctx) : (s.modCtx n c g).bells = s.bells := rfl
@[simp] theorem State.setMe_bells (s : State) (x : Ctx) : (s.setMe x).bells = s.bells := rfl
@[simp] theorem State.modMe_bells (s : State) (g : Ctx → Ctx) : (s.modMe g).bells = s.bells := rfl
@[simp] theorem State.setCore_lq (s : State) (n : Nat) (k : Core) : (s.setCore n k).lq = s.lq := rfl
@[simp] theorem State.modCore_lq (s : State) (n : Nat) (g : Core → Core) : (s.modCore n g).lq = s.lq := rfl
@[simp] theorem State.setCtx_lq (s : State) (n c : Nat) (x : Ctx) : (s.setCtx n c x).lq = s.lq := rfl
@[simp] theorem State.modCtx_lq (s : State) (n c : Nat) (g : Ctx → Ctx) : (s.modCtx n c g).lq = s.lq := rfl
@[simp] theorem State.setMe_lq (s : State) (x : Ctx) : (s.setMe x).lq = s.lq := rfl
@[simp] theorem State.modMe_lq (s : State) (g : Ctx → Ctx) : (s.modMe g).lq = s.lq := rfl
@[simp] theorem State.setCore_lqCarry (s : State) (n : Nat) (k : Core) : (s.setCore n k).lqCarry = s.lqCarry := rfl
@[simp] theorem State.modCore_lqCarry (s : State) (n : Nat) (g : Core → Core) : (s.modCore n g).lqCarry = s.lqCarry := rfl
@[simp] theorem State.setCtx_lqCarry (s : State) (n c : Nat) (x : Ctx) : (s.setCtx n c x).lqCarry = s.lqCarry := rfl
@[simp] theorem State.modCtx_lqCarry (s : State) (n c : Nat) (g : Ctx → Ctx) : (s.modCtx n c g).lqCarry = s.lqCarry := rfl
@[simp] theorem State.setMe_lqCarry (s : State) (x : Ctx) : (s.setMe x).lqCarry = s.lqCarry := rfl
@[simp] theorem State.modMe_lqCarry (s : State) (g : Ctx → Ctx) : (s.modMe g).lqCarry = s.lqCarry := rfl
@[simp] theorem State.setCore_tt (s : State) (n : Nat) (k : Core) : (s.setCore n k).tt = s.tt := rfl
@[simp] theorem State.modCore_tt (s : State) (n : Nat) (g : Core → Core) : (s.modCore n g).tt = s.tt := rfl
@[simp] theorem State.setCtx_tt (s : State) (n c : Nat) (x : Ctx) : (s.setCtx n c x).tt = s.tt := rfl
@[simp] theorem State.modCtx_tt (s : State) (n c : Nat) (g : Ctx → Ctx) : (s.modCtx n c g).tt = s.tt := rfl
@[simp] theorem State.setMe_tt (s : State) (x : Ctx) : (s.setMe x).tt = s.tt := rfl
@[simp] theorem State.modMe_tt (s : State) (g : Ctx → Ctx) : (s.modMe g).tt = s.tt := rfl
@[simp] theorem State.setCore_islands (s : State) (n : Nat) (k : Core) : (s.setCore n k).islands = s.islands := rfl
@[simp] theorem State.modCore_islands (s : State) (n : Nat) (g : Core → Core) : (s.modCore n g).islands = s.islands := rfl
@[simp] theorem State.setCtx_islands (s : State) (n c : Nat) (x : Ctx) : (s.setCtx n c x).islands = s.islands := rfl
@[simp] theorem State.modCtx_islands (s : State) (n c : Nat) (g : Ctx → Ctx) : (s.modCtx n c g).islands = s.islands := rfl
@[simp] theorem State.setMe_islands (s : State) (x : Ctx) : (s.setMe x).islands = s.islands := rfl
@[simp] theorem State.modMe_islands (s : State) (g : Ctx → Ctx) : (s.modMe g).islands = s.islands := rfl
@[simp] theorem State.setCore_diePurse (s : State) (n : Nat) (k : Core) : (s.setCore n k).diePurse = s.diePurse := rfl
@[simp] theorem State.modCore_diePurse (s : State) (n : Nat) (g : Core → Core) : (s.modCore n g).diePurse = s.diePurse := rfl
@[simp] theorem State.setCtx_diePurse (s : State) (n c : Nat) (x : Ctx) : (s.setCtx n c x).diePurse = s.diePurse := rfl
@[simp] theorem State.modCtx_diePurse (s : State) (n c : Nat) (g : Ctx → Ctx) : (s.modCtx n c g).diePurse = s.diePurse := rfl
@[simp] theorem State.setMe_diePurse (s : State) (x : Ctx) : (s.setMe x).diePurse = s.diePurse := rfl
@[simp] theorem State.modMe_diePurse (s : State) (g : Ctx → Ctx) : (s.modMe g).diePurse = s.diePurse := rfl
@[simp] theorem State.setCore_overdraw (s : State) (n : Nat) (k : Core) : (s.setCore n k).overdraw = s.overdraw := rfl
@[simp] theorem State.modCore_overdraw (s : State) (n : Nat) (g : Core → Core) : (s.modCore n g).overdraw = s.overdraw := rfl
@[simp] theorem State.setCtx_overdraw (s : State) (n c : Nat) (x : Ctx) : (s.setCtx n c x).overdraw = s.overdraw := rfl
@[simp] theorem State.modCtx_overdraw (s : State) (n c : Nat) (g : Ctx → Ctx) : (s.modCtx n c g).overdraw = s.overdraw := rfl
@[simp] theorem State.setMe_overdraw (s : State) (x : Ctx) : (s.setMe x).overdraw = s.overdraw := rfl
@[simp] theorem State.modMe_overdraw (s : State) (g : Ctx → Ctx) : (s.modMe g).overdraw = s.overdraw := rfl
@[simp] theorem State.setCore_pwreqs (s : State) (n : Nat) (k : Core) : (s.setCore n k).pwreqs = s.pwreqs := rfl
@[simp] theorem State.modCore_pwreqs (s : State) (n : Nat) (g : Core → Core) : (s.modCore n g).pwreqs = s.pwreqs := rfl
@[simp] theorem State.setCtx_pwreqs (s : State) (n c : Nat) (x : Ctx) : (s.setCtx n c x).pwreqs = s.pwreqs := rfl
@[simp] theorem State.modCtx_pwreqs (s : State) (n c : Nat) (g : Ctx → Ctx) : (s.modCtx n c g).pwreqs = s.pwreqs := rfl
@[simp] theorem State.setMe_pwreqs (s : State) (x : Ctx) : (s.setMe x).pwreqs = s.pwreqs := rfl
@[simp] theorem State.modMe_pwreqs (s : State) (g : Ctx → Ctx) : (s.modMe g).pwreqs = s.pwreqs := rfl
@[simp] theorem State.setCore_pwdone (s : State) (n : Nat) (k : Core) : (s.setCore n k).pwdone = s.pwdone := rfl
@[simp] theorem State.modCore_pwdone (s : State) (n : Nat) (g : Core → Core) : (s.modCore n g).pwdone = s.pwdone := rfl
@[simp] theorem State.setCtx_pwdone (s : State) (n c : Nat) (x : Ctx) : (s.setCtx n c x).pwdone = s.pwdone := rfl
@[simp] theorem State.modCtx_pwdone (s : State) (n c : Nat) (g : Ctx → Ctx) : (s.modCtx n c g).pwdone = s.pwdone := rfl
@[simp] theorem State.setMe_pwdone (s : State) (x : Ctx) : (s.setMe x).pwdone = s.pwdone := rfl
@[simp] theorem State.modMe_pwdone (s : State) (g : Ctx → Ctx) : (s.modMe g).pwdone = s.pwdone := rfl
@[simp] theorem State.setCore_capW (s : State) (n : Nat) (k : Core) : (s.setCore n k).capW = s.capW := rfl
@[simp] theorem State.modCore_capW (s : State) (n : Nat) (g : Core → Core) : (s.modCore n g).capW = s.capW := rfl
@[simp] theorem State.setCtx_capW (s : State) (n c : Nat) (x : Ctx) : (s.setCtx n c x).capW = s.capW := rfl
@[simp] theorem State.modCtx_capW (s : State) (n c : Nat) (g : Ctx → Ctx) : (s.modCtx n c g).capW = s.capW := rfl
@[simp] theorem State.setMe_capW (s : State) (x : Ctx) : (s.setMe x).capW = s.capW := rfl
@[simp] theorem State.modMe_capW (s : State) (g : Ctx → Ctx) : (s.modMe g).capW = s.capW := rfl
@[simp] theorem State.setCore_capEnd (s : State) (n : Nat) (k : Core) : (s.setCore n k).capEnd = s.capEnd := rfl
@[simp] theorem State.modCore_capEnd (s : State) (n : Nat) (g : Core → Core) : (s.modCore n g).capEnd = s.capEnd := rfl
@[simp] theorem State.setCtx_capEnd (s : State) (n c : Nat) (x : Ctx) : (s.setCtx n c x).capEnd = s.capEnd := rfl
@[simp] theorem State.modCtx_capEnd (s : State) (n c : Nat) (g : Ctx → Ctx) : (s.modCtx n c g).capEnd = s.capEnd := rfl
@[simp] theorem State.setMe_capEnd (s : State) (x : Ctx) : (s.setMe x).capEnd = s.capEnd := rfl
@[simp] theorem State.modMe_capEnd (s : State) (g : Ctx → Ctx) : (s.modMe g).capEnd = s.capEnd := rfl
@[simp] theorem State.setCore_capLast (s : State) (n : Nat) (k : Core) : (s.setCore n k).capLast = s.capLast := rfl
@[simp] theorem State.modCore_capLast (s : State) (n : Nat) (g : Core → Core) : (s.modCore n g).capLast = s.capLast := rfl
@[simp] theorem State.setCtx_capLast (s : State) (n c : Nat) (x : Ctx) : (s.setCtx n c x).capLast = s.capLast := rfl
@[simp] theorem State.modCtx_capLast (s : State) (n c : Nat) (g : Ctx → Ctx) : (s.modCtx n c g).capLast = s.capLast := rfl
@[simp] theorem State.setMe_capLast (s : State) (x : Ctx) : (s.setMe x).capLast = s.capLast := rfl
@[simp] theorem State.modMe_capLast (s : State) (g : Ctx → Ctx) : (s.modMe g).capLast = s.capLast := rfl
@[simp] theorem State.setCore_capNext (s : State) (n : Nat) (k : Core) : (s.setCore n k).capNext = s.capNext := rfl
@[simp] theorem State.modCore_capNext (s : State) (n : Nat) (g : Core → Core) : (s.modCore n g).capNext = s.capNext := rfl
@[simp] theorem State.setCtx_capNext (s : State) (n c : Nat) (x : Ctx) : (s.setCtx n c x).capNext = s.capNext := rfl
@[simp] theorem State.modCtx_capNext (s : State) (n c : Nat) (g : Ctx → Ctx) : (s.modCtx n c g).capNext = s.capNext := rfl
@[simp] theorem State.setMe_capNext (s : State) (x : Ctx) : (s.setMe x).capNext = s.capNext := rfl
@[simp] theorem State.modMe_capNext (s : State) (g : Ctx → Ctx) : (s.modMe g).capNext = s.capNext := rfl
@[simp] theorem State.setCore_tileErr (s : State) (n : Nat) (k : Core) : (s.setCore n k).tileErr = s.tileErr := rfl
@[simp] theorem State.modCore_tileErr (s : State) (n : Nat) (g : Core → Core) : (s.modCore n g).tileErr = s.tileErr := rfl
@[simp] theorem State.setCtx_tileErr (s : State) (n c : Nat) (x : Ctx) : (s.setCtx n c x).tileErr = s.tileErr := rfl
@[simp] theorem State.modCtx_tileErr (s : State) (n c : Nat) (g : Ctx → Ctx) : (s.modCtx n c g).tileErr = s.tileErr := rfl
@[simp] theorem State.setMe_tileErr (s : State) (x : Ctx) : (s.setMe x).tileErr = s.tileErr := rfl
@[simp] theorem State.modMe_tileErr (s : State) (g : Ctx → Ctx) : (s.modMe g).tileErr = s.tileErr := rfl
@[simp] theorem State.setCore_winErr (s : State) (n : Nat) (k : Core) : (s.setCore n k).winErr = s.winErr := rfl
@[simp] theorem State.modCore_winErr (s : State) (n : Nat) (g : Core → Core) : (s.modCore n g).winErr = s.winErr := rfl
@[simp] theorem State.setCtx_winErr (s : State) (n c : Nat) (x : Ctx) : (s.setCtx n c x).winErr = s.winErr := rfl
@[simp] theorem State.modCtx_winErr (s : State) (n c : Nat) (g : Ctx → Ctx) : (s.modCtx n c g).winErr = s.winErr := rfl
@[simp] theorem State.setMe_winErr (s : State) (x : Ctx) : (s.setMe x).winErr = s.winErr := rfl
@[simp] theorem State.modMe_winErr (s : State) (g : Ctx → Ctx) : (s.modMe g).winErr = s.winErr := rfl
@[simp] theorem State.setCore_rowErr (s : State) (n : Nat) (k : Core) : (s.setCore n k).rowErr = s.rowErr := rfl
@[simp] theorem State.modCore_rowErr (s : State) (n : Nat) (g : Core → Core) : (s.modCore n g).rowErr = s.rowErr := rfl
@[simp] theorem State.setCtx_rowErr (s : State) (n c : Nat) (x : Ctx) : (s.setCtx n c x).rowErr = s.rowErr := rfl
@[simp] theorem State.modCtx_rowErr (s : State) (n c : Nat) (g : Ctx → Ctx) : (s.modCtx n c g).rowErr = s.rowErr := rfl
@[simp] theorem State.setMe_rowErr (s : State) (x : Ctx) : (s.setMe x).rowErr = s.rowErr := rfl
@[simp] theorem State.modMe_rowErr (s : State) (g : Ctx → Ctx) : (s.modMe g).rowErr = s.rowErr := rfl
@[simp] theorem State.setCore_arbs (s : State) (n : Nat) (k : Core) : (s.setCore n k).arbs = s.arbs := rfl
@[simp] theorem State.modCore_arbs (s : State) (n : Nat) (g : Core → Core) : (s.modCore n g).arbs = s.arbs := rfl
@[simp] theorem State.setCtx_arbs (s : State) (n c : Nat) (x : Ctx) : (s.setCtx n c x).arbs = s.arbs := rfl
@[simp] theorem State.modCtx_arbs (s : State) (n c : Nat) (g : Ctx → Ctx) : (s.modCtx n c g).arbs = s.arbs := rfl
@[simp] theorem State.setMe_arbs (s : State) (x : Ctx) : (s.setMe x).arbs = s.arbs := rfl
@[simp] theorem State.modMe_arbs (s : State) (g : Ctx → Ctx) : (s.modMe g).arbs = s.arbs := rfl
@[simp] theorem State.setCore_mmaErr (s : State) (n : Nat) (k : Core) : (s.setCore n k).mmaErr = s.mmaErr := rfl
@[simp] theorem State.modCore_mmaErr (s : State) (n : Nat) (g : Core → Core) : (s.modCore n g).mmaErr = s.mmaErr := rfl
@[simp] theorem State.setCtx_mmaErr (s : State) (n c : Nat) (x : Ctx) : (s.setCtx n c x).mmaErr = s.mmaErr := rfl
@[simp] theorem State.modCtx_mmaErr (s : State) (n c : Nat) (g : Ctx → Ctx) : (s.modCtx n c g).mmaErr = s.mmaErr := rfl
@[simp] theorem State.setMe_mmaErr (s : State) (x : Ctx) : (s.setMe x).mmaErr = s.mmaErr := rfl
@[simp] theorem State.modMe_mmaErr (s : State) (g : Ctx → Ctx) : (s.modMe g).mmaErr = s.mmaErr := rfl
@[simp] theorem State.setCore_retired (s : State) (n : Nat) (k : Core) : (s.setCore n k).retired = s.retired := rfl
@[simp] theorem State.modCore_retired (s : State) (n : Nat) (g : Core → Core) : (s.modCore n g).retired = s.retired := rfl
@[simp] theorem State.setCtx_retired (s : State) (n c : Nat) (x : Ctx) : (s.setCtx n c x).retired = s.retired := rfl
@[simp] theorem State.modCtx_retired (s : State) (n c : Nat) (g : Ctx → Ctx) : (s.modCtx n c g).retired = s.retired := rfl
@[simp] theorem State.setMe_retired (s : State) (x : Ctx) : (s.setMe x).retired = s.retired := rfl
@[simp] theorem State.modMe_retired (s : State) (g : Ctx → Ctx) : (s.modMe g).retired = s.retired := rfl
@[simp] theorem State.setCore_retFull (s : State) (n : Nat) (k : Core) : (s.setCore n k).retFull = s.retFull := rfl
@[simp] theorem State.modCore_retFull (s : State) (n : Nat) (g : Core → Core) : (s.modCore n g).retFull = s.retFull := rfl
@[simp] theorem State.setCtx_retFull (s : State) (n c : Nat) (x : Ctx) : (s.setCtx n c x).retFull = s.retFull := rfl
@[simp] theorem State.modCtx_retFull (s : State) (n c : Nat) (g : Ctx → Ctx) : (s.modCtx n c g).retFull = s.retFull := rfl
@[simp] theorem State.setMe_retFull (s : State) (x : Ctx) : (s.setMe x).retFull = s.retFull := rfl
@[simp] theorem State.modMe_retFull (s : State) (g : Ctx → Ctx) : (s.modMe g).retFull = s.retFull := rfl
@[simp] theorem State.setCore_pkg (s : State) (n : Nat) (k : Core) : (s.setCore n k).pkg = s.pkg := rfl
@[simp] theorem State.modCore_pkg (s : State) (n : Nat) (g : Core → Core) : (s.modCore n g).pkg = s.pkg := rfl
@[simp] theorem State.setCtx_pkg (s : State) (n c : Nat) (x : Ctx) : (s.setCtx n c x).pkg = s.pkg := rfl
@[simp] theorem State.modCtx_pkg (s : State) (n c : Nat) (g : Ctx → Ctx) : (s.modCtx n c g).pkg = s.pkg := rfl
@[simp] theorem State.setMe_pkg (s : State) (x : Ctx) : (s.setMe x).pkg = s.pkg := rfl
@[simp] theorem State.modMe_pkg (s : State) (g : Ctx → Ctx) : (s.modMe g).pkg = s.pkg := rfl
@[simp] theorem State.setCore_vfs (s : State) (n : Nat) (k : Core) : (s.setCore n k).vfs = s.vfs := rfl
@[simp] theorem State.modCore_vfs (s : State) (n : Nat) (g : Core → Core) : (s.modCore n g).vfs = s.vfs := rfl
@[simp] theorem State.setCtx_vfs (s : State) (n c : Nat) (x : Ctx) : (s.setCtx n c x).vfs = s.vfs := rfl
@[simp] theorem State.modCtx_vfs (s : State) (n c : Nat) (g : Ctx → Ctx) : (s.modCtx n c g).vfs = s.vfs := rfl
@[simp] theorem State.setMe_vfs (s : State) (x : Ctx) : (s.setMe x).vfs = s.vfs := rfl
@[simp] theorem State.modMe_vfs (s : State) (g : Ctx → Ctx) : (s.modMe g).vfs = s.vfs := rfl
@[simp] theorem State.setCore_svcs (s : State) (n : Nat) (k : Core) : (s.setCore n k).svcs = s.svcs := rfl
@[simp] theorem State.modCore_svcs (s : State) (n : Nat) (g : Core → Core) : (s.modCore n g).svcs = s.svcs := rfl
@[simp] theorem State.setCtx_svcs (s : State) (n c : Nat) (x : Ctx) : (s.setCtx n c x).svcs = s.svcs := rfl
@[simp] theorem State.modCtx_svcs (s : State) (n c : Nat) (g : Ctx → Ctx) : (s.modCtx n c g).svcs = s.svcs := rfl
@[simp] theorem State.setMe_svcs (s : State) (x : Ctx) : (s.setMe x).svcs = s.svcs := rfl
@[simp] theorem State.modMe_svcs (s : State) (g : Ctx → Ctx) : (s.modMe g).svcs = s.svcs := rfl
@[simp] theorem State.setCore_msix (s : State) (n : Nat) (k : Core) : (s.setCore n k).msix = s.msix := rfl
@[simp] theorem State.modCore_msix (s : State) (n : Nat) (g : Core → Core) : (s.modCore n g).msix = s.msix := rfl
@[simp] theorem State.setCtx_msix (s : State) (n c : Nat) (x : Ctx) : (s.setCtx n c x).msix = s.msix := rfl
@[simp] theorem State.modCtx_msix (s : State) (n c : Nat) (g : Ctx → Ctx) : (s.modCtx n c g).msix = s.msix := rfl
@[simp] theorem State.setMe_msix (s : State) (x : Ctx) : (s.setMe x).msix = s.msix := rfl
@[simp] theorem State.modMe_msix (s : State) (g : Ctx → Ctx) : (s.modMe g).msix = s.msix := rfl
@[simp] theorem State.setCore_errRose (s : State) (n : Nat) (k : Core) : (s.setCore n k).errRose = s.errRose := rfl
@[simp] theorem State.modCore_errRose (s : State) (n : Nat) (g : Core → Core) : (s.modCore n g).errRose = s.errRose := rfl
@[simp] theorem State.setCtx_errRose (s : State) (n c : Nat) (x : Ctx) : (s.setCtx n c x).errRose = s.errRose := rfl
@[simp] theorem State.modCtx_errRose (s : State) (n c : Nat) (g : Ctx → Ctx) : (s.modCtx n c g).errRose = s.errRose := rfl
@[simp] theorem State.setMe_errRose (s : State) (x : Ctx) : (s.setMe x).errRose = s.errRose := rfl
@[simp] theorem State.modMe_errRose (s : State) (g : Ctx → Ctx) : (s.modMe g).errRose = s.errRose := rfl
@[simp] theorem State.setCore_hostOut (s : State) (n : Nat) (k : Core) : (s.setCore n k).hostOut = s.hostOut := rfl
@[simp] theorem State.modCore_hostOut (s : State) (n : Nat) (g : Core → Core) : (s.modCore n g).hostOut = s.hostOut := rfl
@[simp] theorem State.setCtx_hostOut (s : State) (n c : Nat) (x : Ctx) : (s.setCtx n c x).hostOut = s.hostOut := rfl
@[simp] theorem State.modCtx_hostOut (s : State) (n c : Nat) (g : Ctx → Ctx) : (s.modCtx n c g).hostOut = s.hostOut := rfl
@[simp] theorem State.setMe_hostOut (s : State) (x : Ctx) : (s.setMe x).hostOut = s.hostOut := rfl
@[simp] theorem State.modMe_hostOut (s : State) (g : Ctx → Ctx) : (s.modMe g).hostOut = s.hostOut := rfl
@[simp] theorem State.setCore_spdm (s : State) (n : Nat) (k : Core) : (s.setCore n k).spdm = s.spdm := rfl
@[simp] theorem State.modCore_spdm (s : State) (n : Nat) (g : Core → Core) : (s.modCore n g).spdm = s.spdm := rfl
@[simp] theorem State.setCtx_spdm (s : State) (n c : Nat) (x : Ctx) : (s.setCtx n c x).spdm = s.spdm := rfl
@[simp] theorem State.modCtx_spdm (s : State) (n c : Nat) (g : Ctx → Ctx) : (s.modCtx n c g).spdm = s.spdm := rfl
@[simp] theorem State.setMe_spdm (s : State) (x : Ctx) : (s.setMe x).spdm = s.spdm := rfl
@[simp] theorem State.modMe_spdm (s : State) (g : Ctx → Ctx) : (s.modMe g).spdm = s.spdm := rfl
@[simp] theorem State.setCore_ckpt (s : State) (n : Nat) (k : Core) : (s.setCore n k).ckpt = s.ckpt := rfl
@[simp] theorem State.modCore_ckpt (s : State) (n : Nat) (g : Core → Core) : (s.modCore n g).ckpt = s.ckpt := rfl
@[simp] theorem State.setCtx_ckpt (s : State) (n c : Nat) (x : Ctx) : (s.setCtx n c x).ckpt = s.ckpt := rfl
@[simp] theorem State.modCtx_ckpt (s : State) (n c : Nat) (g : Ctx → Ctx) : (s.modCtx n c g).ckpt = s.ckpt := rfl
@[simp] theorem State.setMe_ckpt (s : State) (x : Ctx) : (s.setMe x).ckpt = s.ckpt := rfl
@[simp] theorem State.modMe_ckpt (s : State) (g : Ctx → Ctx) : (s.modMe g).ckpt = s.ckpt := rfl
@[simp] theorem State.setCore_quiesced (s : State) (n : Nat) (k : Core) : (s.setCore n k).quiesced = s.quiesced := rfl
@[simp] theorem State.modCore_quiesced (s : State) (n : Nat) (g : Core → Core) : (s.modCore n g).quiesced = s.quiesced := rfl
@[simp] theorem State.setCtx_quiesced (s : State) (n c : Nat) (x : Ctx) : (s.setCtx n c x).quiesced = s.quiesced := rfl
@[simp] theorem State.modCtx_quiesced (s : State) (n c : Nat) (g : Ctx → Ctx) : (s.modCtx n c g).quiesced = s.quiesced := rfl
@[simp] theorem State.setMe_quiesced (s : State) (x : Ctx) : (s.setMe x).quiesced = s.quiesced := rfl
@[simp] theorem State.modMe_quiesced (s : State) (g : Ctx → Ctx) : (s.modMe g).quiesced = s.quiesced := rfl
@[simp] theorem State.setCore_nextId (s : State) (n : Nat) (k : Core) : (s.setCore n k).nextId = s.nextId := rfl
@[simp] theorem State.modCore_nextId (s : State) (n : Nat) (g : Core → Core) : (s.modCore n g).nextId = s.nextId := rfl
@[simp] theorem State.setCtx_nextId (s : State) (n c : Nat) (x : Ctx) : (s.setCtx n c x).nextId = s.nextId := rfl
@[simp] theorem State.modCtx_nextId (s : State) (n c : Nat) (g : Ctx → Ctx) : (s.modCtx n c g).nextId = s.nextId := rfl
@[simp] theorem State.setMe_nextId (s : State) (x : Ctx) : (s.setMe x).nextId = s.nextId := rfl
@[simp] theorem State.modMe_nextId (s : State) (g : Ctx → Ctx) : (s.modMe g).nextId = s.nextId := rfl
@[simp] theorem State.setCore_free (s : State) (n : Nat) (k : Core) : (s.setCore n k).free = s.free := rfl
@[simp] theorem State.modCore_free (s : State) (n : Nat) (g : Core → Core) : (s.modCore n g).free = s.free := rfl
@[simp] theorem State.setCtx_free (s : State) (n c : Nat) (x : Ctx) : (s.setCtx n c x).free = s.free := rfl
@[simp] theorem State.modCtx_free (s : State) (n c : Nat) (g : Ctx → Ctx) : (s.modCtx n c g).free = s.free := rfl
@[simp] theorem State.setMe_free (s : State) (x : Ctx) : (s.setMe x).free = s.free := rfl
@[simp] theorem State.modMe_free (s : State) (g : Ctx → Ctx) : (s.modMe g).free = s.free := rfl
@[simp] theorem State.setCore_cur (s : State) (n : Nat) (k : Core) : (s.setCore n k).cur = s.cur := rfl
@[simp] theorem State.modCore_cur (s : State) (n : Nat) (g : Core → Core) : (s.modCore n g).cur = s.cur := rfl
@[simp] theorem State.setCtx_cur (s : State) (n c : Nat) (x : Ctx) : (s.setCtx n c x).cur = s.cur := rfl
@[simp] theorem State.modCtx_cur (s : State) (n c : Nat) (g : Ctx → Ctx) : (s.modCtx n c g).cur = s.cur := rfl
@[simp] theorem State.setMe_cur (s : State) (x : Ctx) : (s.setMe x).cur = s.cur := rfl
@[simp] theorem State.modMe_cur (s : State) (g : Ctx → Ctx) : (s.modMe g).cur = s.cur := rfl
@[simp] theorem State.setCore_ev (s : State) (n : Nat) (k : Core) : (s.setCore n k).ev = s.ev := rfl
@[simp] theorem State.modCore_ev (s : State) (n : Nat) (g : Core → Core) : (s.modCore n g).ev = s.ev := rfl
@[simp] theorem State.setCtx_ev (s : State) (n c : Nat) (x : Ctx) : (s.setCtx n c x).ev = s.ev := rfl
@[simp] theorem State.modCtx_ev (s : State) (n c : Nat) (g : Ctx → Ctx) : (s.modCtx n c g).ev = s.ev := rfl
@[simp] theorem State.setMe_ev (s : State) (x : Ctx) : (s.setMe x).ev = s.ev := rfl
@[simp] theorem State.modMe_ev (s : State) (g : Ctx → Ctx) : (s.modMe g).ev = s.ev := rfl
@[simp] theorem State.setCore_agenda (s : State) (n : Nat) (k : Core) : (s.setCore n k).agenda = s.agenda := rfl
@[simp] theorem State.modCore_agenda (s : State) (n : Nat) (g : Core → Core) : (s.modCore n g).agenda = s.agenda := rfl
@[simp] theorem State.setCtx_agenda (s : State) (n c : Nat) (x : Ctx) : (s.setCtx n c x).agenda = s.agenda := rfl
@[simp] theorem State.modCtx_agenda (s : State) (n c : Nat) (g : Ctx → Ctx) : (s.modCtx n c g).agenda = s.agenda := rfl
@[simp] theorem State.setMe_agenda (s : State) (x : Ctx) : (s.setMe x).agenda = s.agenda := rfl
@[simp] theorem State.modMe_agenda (s : State) (g : Ctx → Ctx) : (s.modMe g).agenda = s.agenda := rfl
@[simp] theorem State.setCore_due (s : State) (n : Nat) (k : Core) : (s.setCore n k).due = s.due := rfl
@[simp] theorem State.modCore_due (s : State) (n : Nat) (g : Core → Core) : (s.modCore n g).due = s.due := rfl
@[simp] theorem State.setCtx_due (s : State) (n c : Nat) (x : Ctx) : (s.setCtx n c x).due = s.due := rfl
@[simp] theorem State.modCtx_due (s : State) (n c : Nat) (g : Ctx → Ctx) : (s.modCtx n c g).due = s.due := rfl
@[simp] theorem State.setMe_due (s : State) (x : Ctx) : (s.setMe x).due = s.due := rfl
@[simp] theorem State.modMe_due (s : State) (g : Ctx → Ctx) : (s.modMe g).due = s.due := rfl

/-! A context after a register write. -/

@[simp] theorem Ctx.srSet_st (x : Ctx) (n : Nat) (w : Word) : (x.srSet n w).st = x.st := rfl
@[simp] theorem Ctx.setStat_st (x : Ctx) (i : Nat) (b : Bool) : (x.setStat i b).st = x.st := by unfold Ctx.setStat; exact Ctx.srSet_st ..
@[simp] theorem Ctx.setTlvl_st (x : Ctx) (n : Nat) : (x.setTlvl n).st = x.st := by unfold Ctx.setTlvl; exact Ctx.srSet_st ..
@[simp] theorem Ctx.setS_st (x : Ctx) (r : Nat) (w : Word) : (x.setS r w).st = x.st := by unfold Ctx.setS; split <;> rfl
@[simp] theorem Ctx.setV_st (x : Ctx) (r : Nat) (w : VWord) : (x.setV r w).st = x.st := rfl
@[simp] theorem Ctx.setM_st (x : Ctx) (r : Nat) (w : MaskWord) : (x.setM r w).st = x.st := by unfold Ctx.setM; split <;> rfl
@[simp] theorem Ctx.setPred_st (x : Ctx) (r : Nat) (b : Bool) : (x.setPred r b).st = x.st := by unfold Ctx.setPred; split <;> simp only [Ctx.srSet]
@[simp] theorem Ctx.srSet_back (x : Ctx) (n : Nat) (w : Word) : (x.srSet n w).back = x.back := rfl
@[simp] theorem Ctx.setStat_back (x : Ctx) (i : Nat) (b : Bool) : (x.setStat i b).back = x.back := by unfold Ctx.setStat; exact Ctx.srSet_back ..
@[simp] theorem Ctx.setTlvl_back (x : Ctx) (n : Nat) : (x.setTlvl n).back = x.back := by unfold Ctx.setTlvl; exact Ctx.srSet_back ..
@[simp] theorem Ctx.setS_back (x : Ctx) (r : Nat) (w : Word) : (x.setS r w).back = x.back := by unfold Ctx.setS; split <;> rfl
@[simp] theorem Ctx.setV_back (x : Ctx) (r : Nat) (w : VWord) : (x.setV r w).back = x.back := rfl
@[simp] theorem Ctx.setM_back (x : Ctx) (r : Nat) (w : MaskWord) : (x.setM r w).back = x.back := by unfold Ctx.setM; split <;> rfl
@[simp] theorem Ctx.setPred_back (x : Ctx) (r : Nat) (b : Bool) : (x.setPred r b).back = x.back := by unfold Ctx.setPred; split <;> simp only [Ctx.srSet]
@[simp] theorem Ctx.srSet_pc (x : Ctx) (n : Nat) (w : Word) : (x.srSet n w).pc = x.pc := rfl
@[simp] theorem Ctx.setStat_pc (x : Ctx) (i : Nat) (b : Bool) : (x.setStat i b).pc = x.pc := by unfold Ctx.setStat; exact Ctx.srSet_pc ..
@[simp] theorem Ctx.setTlvl_pc (x : Ctx) (n : Nat) : (x.setTlvl n).pc = x.pc := by unfold Ctx.setTlvl; exact Ctx.srSet_pc ..
@[simp] theorem Ctx.setS_pc (x : Ctx) (r : Nat) (w : Word) : (x.setS r w).pc = x.pc := by unfold Ctx.setS; split <;> rfl
@[simp] theorem Ctx.setV_pc (x : Ctx) (r : Nat) (w : VWord) : (x.setV r w).pc = x.pc := rfl
@[simp] theorem Ctx.setM_pc (x : Ctx) (r : Nat) (w : MaskWord) : (x.setM r w).pc = x.pc := by unfold Ctx.setM; split <;> rfl
@[simp] theorem Ctx.setPred_pc (x : Ctx) (r : Nat) (b : Bool) : (x.setPred r b).pc = x.pc := by unfold Ctx.setPred; split <;> simp only [Ctx.srSet]
@[simp] theorem Ctx.srSet_s (x : Ctx) (n : Nat) (w : Word) : (x.srSet n w).s = x.s := rfl
@[simp] theorem Ctx.setStat_s (x : Ctx) (i : Nat) (b : Bool) : (x.setStat i b).s = x.s := by unfold Ctx.setStat; exact Ctx.srSet_s ..
@[simp] theorem Ctx.setTlvl_s (x : Ctx) (n : Nat) : (x.setTlvl n).s = x.s := by unfold Ctx.setTlvl; exact Ctx.srSet_s ..
@[simp] theorem Ctx.setV_s (x : Ctx) (r : Nat) (w : VWord) : (x.setV r w).s = x.s := rfl
@[simp] theorem Ctx.setM_s (x : Ctx) (r : Nat) (w : MaskWord) : (x.setM r w).s = x.s := by unfold Ctx.setM; split <;> rfl
@[simp] theorem Ctx.setPred_s (x : Ctx) (r : Nat) (b : Bool) : (x.setPred r b).s = x.s := by unfold Ctx.setPred; split <;> simp only [Ctx.srSet]
@[simp] theorem Ctx.srSet_v (x : Ctx) (n : Nat) (w : Word) : (x.srSet n w).v = x.v := rfl
@[simp] theorem Ctx.setStat_v (x : Ctx) (i : Nat) (b : Bool) : (x.setStat i b).v = x.v := by unfold Ctx.setStat; exact Ctx.srSet_v ..
@[simp] theorem Ctx.setTlvl_v (x : Ctx) (n : Nat) : (x.setTlvl n).v = x.v := by unfold Ctx.setTlvl; exact Ctx.srSet_v ..
@[simp] theorem Ctx.setS_v (x : Ctx) (r : Nat) (w : Word) : (x.setS r w).v = x.v := by unfold Ctx.setS; split <;> rfl
@[simp] theorem Ctx.setM_v (x : Ctx) (r : Nat) (w : MaskWord) : (x.setM r w).v = x.v := by unfold Ctx.setM; split <;> rfl
@[simp] theorem Ctx.setPred_v (x : Ctx) (r : Nat) (b : Bool) : (x.setPred r b).v = x.v := by unfold Ctx.setPred; split <;> simp only [Ctx.srSet]
@[simp] theorem Ctx.srSet_m (x : Ctx) (n : Nat) (w : Word) : (x.srSet n w).m = x.m := rfl
@[simp] theorem Ctx.setStat_m (x : Ctx) (i : Nat) (b : Bool) : (x.setStat i b).m = x.m := by unfold Ctx.setStat; exact Ctx.srSet_m ..
@[simp] theorem Ctx.setTlvl_m (x : Ctx) (n : Nat) : (x.setTlvl n).m = x.m := by unfold Ctx.setTlvl; exact Ctx.srSet_m ..
@[simp] theorem Ctx.setS_m (x : Ctx) (r : Nat) (w : Word) : (x.setS r w).m = x.m := by unfold Ctx.setS; split <;> rfl
@[simp] theorem Ctx.setV_m (x : Ctx) (r : Nat) (w : VWord) : (x.setV r w).m = x.m := rfl
@[simp] theorem Ctx.setPred_m (x : Ctx) (r : Nat) (b : Bool) : (x.setPred r b).m = x.m := by unfold Ctx.setPred; split <;> simp only [Ctx.srSet]
@[simp] theorem Ctx.srSet_acc (x : Ctx) (n : Nat) (w : Word) : (x.srSet n w).acc = x.acc := rfl
@[simp] theorem Ctx.setStat_acc (x : Ctx) (i : Nat) (b : Bool) : (x.setStat i b).acc = x.acc := by unfold Ctx.setStat; exact Ctx.srSet_acc ..
@[simp] theorem Ctx.setTlvl_acc (x : Ctx) (n : Nat) : (x.setTlvl n).acc = x.acc := by unfold Ctx.setTlvl; exact Ctx.srSet_acc ..
@[simp] theorem Ctx.setS_acc (x : Ctx) (r : Nat) (w : Word) : (x.setS r w).acc = x.acc := by unfold Ctx.setS; split <;> rfl
@[simp] theorem Ctx.setV_acc (x : Ctx) (r : Nat) (w : VWord) : (x.setV r w).acc = x.acc := rfl
@[simp] theorem Ctx.setM_acc (x : Ctx) (r : Nat) (w : MaskWord) : (x.setM r w).acc = x.acc := by unfold Ctx.setM; split <;> rfl
@[simp] theorem Ctx.setPred_acc (x : Ctx) (r : Nat) (b : Bool) : (x.setPred r b).acc = x.acc := by unfold Ctx.setPred; split <;> simp only [Ctx.srSet]
@[simp] theorem Ctx.srSet_accSum (x : Ctx) (n : Nat) (w : Word) : (x.srSet n w).accSum = x.accSum := rfl
@[simp] theorem Ctx.setStat_accSum (x : Ctx) (i : Nat) (b : Bool) : (x.setStat i b).accSum = x.accSum := by unfold Ctx.setStat; exact Ctx.srSet_accSum ..
@[simp] theorem Ctx.setTlvl_accSum (x : Ctx) (n : Nat) : (x.setTlvl n).accSum = x.accSum := by unfold Ctx.setTlvl; exact Ctx.srSet_accSum ..
@[simp] theorem Ctx.setS_accSum (x : Ctx) (r : Nat) (w : Word) : (x.setS r w).accSum = x.accSum := by unfold Ctx.setS; split <;> rfl
@[simp] theorem Ctx.setV_accSum (x : Ctx) (r : Nat) (w : VWord) : (x.setV r w).accSum = x.accSum := rfl
@[simp] theorem Ctx.setM_accSum (x : Ctx) (r : Nat) (w : MaskWord) : (x.setM r w).accSum = x.accSum := by unfold Ctx.setM; split <;> rfl
@[simp] theorem Ctx.setPred_accSum (x : Ctx) (r : Nat) (b : Bool) : (x.setPred r b).accSum = x.accSum := by unfold Ctx.setPred; split <;> simp only [Ctx.srSet]
@[simp] theorem Ctx.srSet_guards (x : Ctx) (n : Nat) (w : Word) : (x.srSet n w).guards = x.guards := rfl
@[simp] theorem Ctx.setStat_guards (x : Ctx) (i : Nat) (b : Bool) : (x.setStat i b).guards = x.guards := by unfold Ctx.setStat; exact Ctx.srSet_guards ..
@[simp] theorem Ctx.setTlvl_guards (x : Ctx) (n : Nat) : (x.setTlvl n).guards = x.guards := by unfold Ctx.setTlvl; exact Ctx.srSet_guards ..
@[simp] theorem Ctx.setS_guards (x : Ctx) (r : Nat) (w : Word) : (x.setS r w).guards = x.guards := by unfold Ctx.setS; split <;> rfl
@[simp] theorem Ctx.setV_guards (x : Ctx) (r : Nat) (w : VWord) : (x.setV r w).guards = x.guards := rfl
@[simp] theorem Ctx.setM_guards (x : Ctx) (r : Nat) (w : MaskWord) : (x.setM r w).guards = x.guards := by unfold Ctx.setM; split <;> rfl
@[simp] theorem Ctx.setPred_guards (x : Ctx) (r : Nat) (b : Bool) : (x.setPred r b).guards = x.guards := by unfold Ctx.setPred; split <;> simp only [Ctx.srSet]
@[simp] theorem Ctx.srSet_gvcnt (x : Ctx) (n : Nat) (w : Word) : (x.srSet n w).gvcnt = x.gvcnt := rfl
@[simp] theorem Ctx.setStat_gvcnt (x : Ctx) (i : Nat) (b : Bool) : (x.setStat i b).gvcnt = x.gvcnt := by unfold Ctx.setStat; exact Ctx.srSet_gvcnt ..
@[simp] theorem Ctx.setTlvl_gvcnt (x : Ctx) (n : Nat) : (x.setTlvl n).gvcnt = x.gvcnt := by unfold Ctx.setTlvl; exact Ctx.srSet_gvcnt ..
@[simp] theorem Ctx.setS_gvcnt (x : Ctx) (r : Nat) (w : Word) : (x.setS r w).gvcnt = x.gvcnt := by unfold Ctx.setS; split <;> rfl
@[simp] theorem Ctx.setV_gvcnt (x : Ctx) (r : Nat) (w : VWord) : (x.setV r w).gvcnt = x.gvcnt := rfl
@[simp] theorem Ctx.setM_gvcnt (x : Ctx) (r : Nat) (w : MaskWord) : (x.setM r w).gvcnt = x.gvcnt := by unfold Ctx.setM; split <;> rfl
@[simp] theorem Ctx.setPred_gvcnt (x : Ctx) (r : Nat) (b : Bool) : (x.setPred r b).gvcnt = x.gvcnt := by unfold Ctx.setPred; split <;> simp only [Ctx.srSet]
@[simp] theorem Ctx.srSet_ftab (x : Ctx) (n : Nat) (w : Word) : (x.srSet n w).ftab = x.ftab := rfl
@[simp] theorem Ctx.setStat_ftab (x : Ctx) (i : Nat) (b : Bool) : (x.setStat i b).ftab = x.ftab := by unfold Ctx.setStat; exact Ctx.srSet_ftab ..
@[simp] theorem Ctx.setTlvl_ftab (x : Ctx) (n : Nat) : (x.setTlvl n).ftab = x.ftab := by unfold Ctx.setTlvl; exact Ctx.srSet_ftab ..
@[simp] theorem Ctx.setS_ftab (x : Ctx) (r : Nat) (w : Word) : (x.setS r w).ftab = x.ftab := by unfold Ctx.setS; split <;> rfl
@[simp] theorem Ctx.setV_ftab (x : Ctx) (r : Nat) (w : VWord) : (x.setV r w).ftab = x.ftab := rfl
@[simp] theorem Ctx.setM_ftab (x : Ctx) (r : Nat) (w : MaskWord) : (x.setM r w).ftab = x.ftab := by unfold Ctx.setM; split <;> rfl
@[simp] theorem Ctx.setPred_ftab (x : Ctx) (r : Nat) (b : Bool) : (x.setPred r b).ftab = x.ftab := by unfold Ctx.setPred; split <;> simp only [Ctx.srSet]
@[simp] theorem Ctx.setS_sr (x : Ctx) (r : Nat) (w : Word) : (x.setS r w).sr = x.sr := by unfold Ctx.setS; split <;> rfl
@[simp] theorem Ctx.setV_sr (x : Ctx) (r : Nat) (w : VWord) : (x.setV r w).sr = x.sr := rfl
@[simp] theorem Ctx.setM_sr (x : Ctx) (r : Nat) (w : MaskWord) : (x.setM r w).sr = x.sr := by unfold Ctx.setM; split <;> rfl
@[simp] theorem Ctx.srSet_pmc (x : Ctx) (n : Nat) (w : Word) : (x.srSet n w).pmc = x.pmc := rfl
@[simp] theorem Ctx.setStat_pmc (x : Ctx) (i : Nat) (b : Bool) : (x.setStat i b).pmc = x.pmc := by unfold Ctx.setStat; exact Ctx.srSet_pmc ..
@[simp] theorem Ctx.setTlvl_pmc (x : Ctx) (n : Nat) : (x.setTlvl n).pmc = x.pmc := by unfold Ctx.setTlvl; exact Ctx.srSet_pmc ..
@[simp] theorem Ctx.setS_pmc (x : Ctx) (r : Nat) (w : Word) : (x.setS r w).pmc = x.pmc := by unfold Ctx.setS; split <;> rfl
@[simp] theorem Ctx.setV_pmc (x : Ctx) (r : Nat) (w : VWord) : (x.setV r w).pmc = x.pmc := rfl
@[simp] theorem Ctx.setM_pmc (x : Ctx) (r : Nat) (w : MaskWord) : (x.setM r w).pmc = x.pmc := by unfold Ctx.setM; split <;> rfl
@[simp] theorem Ctx.setPred_pmc (x : Ctx) (r : Nat) (b : Bool) : (x.setPred r b).pmc = x.pmc := by unfold Ctx.setPred; split <;> simp only [Ctx.srSet]
@[simp] theorem Ctx.srSet_drawn (x : Ctx) (n : Nat) (w : Word) : (x.srSet n w).drawn = x.drawn := rfl
@[simp] theorem Ctx.setStat_drawn (x : Ctx) (i : Nat) (b : Bool) : (x.setStat i b).drawn = x.drawn := by unfold Ctx.setStat; exact Ctx.srSet_drawn ..
@[simp] theorem Ctx.setTlvl_drawn (x : Ctx) (n : Nat) : (x.setTlvl n).drawn = x.drawn := by unfold Ctx.setTlvl; exact Ctx.srSet_drawn ..
@[simp] theorem Ctx.setS_drawn (x : Ctx) (r : Nat) (w : Word) : (x.setS r w).drawn = x.drawn := by unfold Ctx.setS; split <;> rfl
@[simp] theorem Ctx.setV_drawn (x : Ctx) (r : Nat) (w : VWord) : (x.setV r w).drawn = x.drawn := rfl
@[simp] theorem Ctx.setM_drawn (x : Ctx) (r : Nat) (w : MaskWord) : (x.setM r w).drawn = x.drawn := by unfold Ctx.setM; split <;> rfl
@[simp] theorem Ctx.setPred_drawn (x : Ctx) (r : Nat) (b : Bool) : (x.setPred r b).drawn = x.drawn := by unfold Ctx.setPred; split <;> simp only [Ctx.srSet]
@[simp] theorem Ctx.srSet_sigCount (x : Ctx) (n : Nat) (w : Word) : (x.srSet n w).sigCount = x.sigCount := rfl
@[simp] theorem Ctx.setStat_sigCount (x : Ctx) (i : Nat) (b : Bool) : (x.setStat i b).sigCount = x.sigCount := by unfold Ctx.setStat; exact Ctx.srSet_sigCount ..
@[simp] theorem Ctx.setTlvl_sigCount (x : Ctx) (n : Nat) : (x.setTlvl n).sigCount = x.sigCount := by unfold Ctx.setTlvl; exact Ctx.srSet_sigCount ..
@[simp] theorem Ctx.setS_sigCount (x : Ctx) (r : Nat) (w : Word) : (x.setS r w).sigCount = x.sigCount := by unfold Ctx.setS; split <;> rfl
@[simp] theorem Ctx.setV_sigCount (x : Ctx) (r : Nat) (w : VWord) : (x.setV r w).sigCount = x.sigCount := rfl
@[simp] theorem Ctx.setM_sigCount (x : Ctx) (r : Nat) (w : MaskWord) : (x.setM r w).sigCount = x.sigCount := by unfold Ctx.setM; split <;> rfl
@[simp] theorem Ctx.setPred_sigCount (x : Ctx) (r : Nat) (b : Bool) : (x.setPred r b).sigCount = x.sigCount := by unfold Ctx.setPred; split <;> simp only [Ctx.srSet]
@[simp] theorem Ctx.srSet_sigKind (x : Ctx) (n : Nat) (w : Word) : (x.srSet n w).sigKind = x.sigKind := rfl
@[simp] theorem Ctx.setStat_sigKind (x : Ctx) (i : Nat) (b : Bool) : (x.setStat i b).sigKind = x.sigKind := by unfold Ctx.setStat; exact Ctx.srSet_sigKind ..
@[simp] theorem Ctx.setTlvl_sigKind (x : Ctx) (n : Nat) : (x.setTlvl n).sigKind = x.sigKind := by unfold Ctx.setTlvl; exact Ctx.srSet_sigKind ..
@[simp] theorem Ctx.setS_sigKind (x : Ctx) (r : Nat) (w : Word) : (x.setS r w).sigKind = x.sigKind := by unfold Ctx.setS; split <;> rfl
@[simp] theorem Ctx.setV_sigKind (x : Ctx) (r : Nat) (w : VWord) : (x.setV r w).sigKind = x.sigKind := rfl
@[simp] theorem Ctx.setM_sigKind (x : Ctx) (r : Nat) (w : MaskWord) : (x.setM r w).sigKind = x.sigKind := by unfold Ctx.setM; split <;> rfl
@[simp] theorem Ctx.setPred_sigKind (x : Ctx) (r : Nat) (b : Bool) : (x.setPred r b).sigKind = x.sigKind := by unfold Ctx.setPred; split <;> simp only [Ctx.srSet]
@[simp] theorem Ctx.srSet_launch (x : Ctx) (n : Nat) (w : Word) : (x.srSet n w).launch = x.launch := rfl
@[simp] theorem Ctx.setStat_launch (x : Ctx) (i : Nat) (b : Bool) : (x.setStat i b).launch = x.launch := by unfold Ctx.setStat; exact Ctx.srSet_launch ..
@[simp] theorem Ctx.setTlvl_launch (x : Ctx) (n : Nat) : (x.setTlvl n).launch = x.launch := by unfold Ctx.setTlvl; exact Ctx.srSet_launch ..
@[simp] theorem Ctx.setS_launch (x : Ctx) (r : Nat) (w : Word) : (x.setS r w).launch = x.launch := by unfold Ctx.setS; split <;> rfl
@[simp] theorem Ctx.setV_launch (x : Ctx) (r : Nat) (w : VWord) : (x.setV r w).launch = x.launch := rfl
@[simp] theorem Ctx.setM_launch (x : Ctx) (r : Nat) (w : MaskWord) : (x.setM r w).launch = x.launch := by unfold Ctx.setM; split <;> rfl
@[simp] theorem Ctx.setPred_launch (x : Ctx) (r : Nat) (b : Bool) : (x.setPred r b).launch = x.launch := by unfold Ctx.setPred; split <;> simp only [Ctx.srSet]
@[simp] theorem Ctx.srSet_idle (x : Ctx) (n : Nat) (w : Word) : (x.srSet n w).idle = x.idle := rfl
@[simp] theorem Ctx.setStat_idle (x : Ctx) (i : Nat) (b : Bool) : (x.setStat i b).idle = x.idle := by unfold Ctx.setStat; exact Ctx.srSet_idle ..
@[simp] theorem Ctx.setTlvl_idle (x : Ctx) (n : Nat) : (x.setTlvl n).idle = x.idle := by unfold Ctx.setTlvl; exact Ctx.srSet_idle ..
@[simp] theorem Ctx.setS_idle (x : Ctx) (r : Nat) (w : Word) : (x.setS r w).idle = x.idle := by unfold Ctx.setS; split <;> rfl
@[simp] theorem Ctx.setV_idle (x : Ctx) (r : Nat) (w : VWord) : (x.setV r w).idle = x.idle := rfl
@[simp] theorem Ctx.setM_idle (x : Ctx) (r : Nat) (w : MaskWord) : (x.setM r w).idle = x.idle := by unfold Ctx.setM; split <;> rfl
@[simp] theorem Ctx.setPred_idle (x : Ctx) (r : Nat) (b : Bool) : (x.setPred r b).idle = x.idle := by unfold Ctx.setPred; split <;> simp only [Ctx.srSet]
@[simp] theorem Ctx.srSet_block (x : Ctx) (n : Nat) (w : Word) : (x.srSet n w).block = x.block := rfl
@[simp] theorem Ctx.setStat_block (x : Ctx) (i : Nat) (b : Bool) : (x.setStat i b).block = x.block := by unfold Ctx.setStat; exact Ctx.srSet_block ..
@[simp] theorem Ctx.setTlvl_block (x : Ctx) (n : Nat) : (x.setTlvl n).block = x.block := by unfold Ctx.setTlvl; exact Ctx.srSet_block ..
@[simp] theorem Ctx.setS_block (x : Ctx) (r : Nat) (w : Word) : (x.setS r w).block = x.block := by unfold Ctx.setS; split <;> rfl
@[simp] theorem Ctx.setV_block (x : Ctx) (r : Nat) (w : VWord) : (x.setV r w).block = x.block := rfl
@[simp] theorem Ctx.setM_block (x : Ctx) (r : Nat) (w : MaskWord) : (x.setM r w).block = x.block := by unfold Ctx.setM; split <;> rfl
@[simp] theorem Ctx.setPred_block (x : Ctx) (r : Nat) (b : Bool) : (x.setPred r b).block = x.block := by unfold Ctx.setPred; split <;> simp only [Ctx.srSet]
@[simp] theorem Ctx.srSet_step (x : Ctx) (n : Nat) (w : Word) : (x.srSet n w).step = x.step := rfl
@[simp] theorem Ctx.setStat_step (x : Ctx) (i : Nat) (b : Bool) : (x.setStat i b).step = x.step := by unfold Ctx.setStat; exact Ctx.srSet_step ..
@[simp] theorem Ctx.setTlvl_step (x : Ctx) (n : Nat) : (x.setTlvl n).step = x.step := by unfold Ctx.setTlvl; exact Ctx.srSet_step ..
@[simp] theorem Ctx.setS_step (x : Ctx) (r : Nat) (w : Word) : (x.setS r w).step = x.step := by unfold Ctx.setS; split <;> rfl
@[simp] theorem Ctx.setV_step (x : Ctx) (r : Nat) (w : VWord) : (x.setV r w).step = x.step := rfl
@[simp] theorem Ctx.setM_step (x : Ctx) (r : Nat) (w : MaskWord) : (x.setM r w).step = x.step := by unfold Ctx.setM; split <;> rfl
@[simp] theorem Ctx.setPred_step (x : Ctx) (r : Nat) (b : Bool) : (x.setPred r b).step = x.step := by unfold Ctx.setPred; split <;> simp only [Ctx.srSet]
@[simp] theorem Ctx.srSet_refusal (x : Ctx) (n : Nat) (w : Word) : (x.srSet n w).refusal = x.refusal := rfl
@[simp] theorem Ctx.setStat_refusal (x : Ctx) (i : Nat) (b : Bool) : (x.setStat i b).refusal = x.refusal := by unfold Ctx.setStat; exact Ctx.srSet_refusal ..
@[simp] theorem Ctx.setTlvl_refusal (x : Ctx) (n : Nat) : (x.setTlvl n).refusal = x.refusal := by unfold Ctx.setTlvl; exact Ctx.srSet_refusal ..
@[simp] theorem Ctx.setS_refusal (x : Ctx) (r : Nat) (w : Word) : (x.setS r w).refusal = x.refusal := by unfold Ctx.setS; split <;> rfl
@[simp] theorem Ctx.setV_refusal (x : Ctx) (r : Nat) (w : VWord) : (x.setV r w).refusal = x.refusal := rfl
@[simp] theorem Ctx.setM_refusal (x : Ctx) (r : Nat) (w : MaskWord) : (x.setM r w).refusal = x.refusal := by unfold Ctx.setM; split <;> rfl
@[simp] theorem Ctx.setPred_refusal (x : Ctx) (r : Nat) (b : Bool) : (x.setPred r b).refusal = x.refusal := by unfold Ctx.setPred; split <;> simp only [Ctx.srSet]
@[simp] theorem Ctx.srSet_preq (x : Ctx) (n : Nat) (w : Word) : (x.srSet n w).preq = x.preq := rfl
@[simp] theorem Ctx.setStat_preq (x : Ctx) (i : Nat) (b : Bool) : (x.setStat i b).preq = x.preq := by unfold Ctx.setStat; exact Ctx.srSet_preq ..
@[simp] theorem Ctx.setTlvl_preq (x : Ctx) (n : Nat) : (x.setTlvl n).preq = x.preq := by unfold Ctx.setTlvl; exact Ctx.srSet_preq ..
@[simp] theorem Ctx.setS_preq (x : Ctx) (r : Nat) (w : Word) : (x.setS r w).preq = x.preq := by unfold Ctx.setS; split <;> rfl
@[simp] theorem Ctx.setV_preq (x : Ctx) (r : Nat) (w : VWord) : (x.setV r w).preq = x.preq := rfl
@[simp] theorem Ctx.setM_preq (x : Ctx) (r : Nat) (w : MaskWord) : (x.setM r w).preq = x.preq := by unfold Ctx.setM; split <;> rfl
@[simp] theorem Ctx.setPred_preq (x : Ctx) (r : Nat) (b : Bool) : (x.setPred r b).preq = x.preq := by unfold Ctx.setPred; split <;> simp only [Ctx.srSet]
@[simp] theorem Ctx.srSet_fork (x : Ctx) (n : Nat) (w : Word) : (x.srSet n w).fork = x.fork := rfl
@[simp] theorem Ctx.setStat_fork (x : Ctx) (i : Nat) (b : Bool) : (x.setStat i b).fork = x.fork := by unfold Ctx.setStat; exact Ctx.srSet_fork ..
@[simp] theorem Ctx.setTlvl_fork (x : Ctx) (n : Nat) : (x.setTlvl n).fork = x.fork := by unfold Ctx.setTlvl; exact Ctx.srSet_fork ..
@[simp] theorem Ctx.setS_fork (x : Ctx) (r : Nat) (w : Word) : (x.setS r w).fork = x.fork := by unfold Ctx.setS; split <;> rfl
@[simp] theorem Ctx.setV_fork (x : Ctx) (r : Nat) (w : VWord) : (x.setV r w).fork = x.fork := rfl
@[simp] theorem Ctx.setM_fork (x : Ctx) (r : Nat) (w : MaskWord) : (x.setM r w).fork = x.fork := by unfold Ctx.setM; split <;> rfl
@[simp] theorem Ctx.setPred_fork (x : Ctx) (r : Nat) (b : Bool) : (x.setPred r b).fork = x.fork := by unfold Ctx.setPred; split <;> simp only [Ctx.srSet]
@[simp] theorem Ctx.srSet_pending (x : Ctx) (n : Nat) (w : Word) : (x.srSet n w).pending = x.pending := rfl
@[simp] theorem Ctx.setStat_pending (x : Ctx) (i : Nat) (b : Bool) : (x.setStat i b).pending = x.pending := by unfold Ctx.setStat; exact Ctx.srSet_pending ..
@[simp] theorem Ctx.setTlvl_pending (x : Ctx) (n : Nat) : (x.setTlvl n).pending = x.pending := by unfold Ctx.setTlvl; exact Ctx.srSet_pending ..
@[simp] theorem Ctx.setS_pending (x : Ctx) (r : Nat) (w : Word) : (x.setS r w).pending = x.pending := by unfold Ctx.setS; split <;> rfl
@[simp] theorem Ctx.setV_pending (x : Ctx) (r : Nat) (w : VWord) : (x.setV r w).pending = x.pending := rfl
@[simp] theorem Ctx.setM_pending (x : Ctx) (r : Nat) (w : MaskWord) : (x.setM r w).pending = x.pending := by unfold Ctx.setM; split <;> rfl
@[simp] theorem Ctx.setPred_pending (x : Ctx) (r : Nat) (b : Bool) : (x.setPred r b).pending = x.pending := by unfold Ctx.setPred; split <;> simp only [Ctx.srSet]
@[simp] theorem Ctx.srSet_shapes (x : Ctx) (n : Nat) (w : Word) : (x.srSet n w).shapes = x.shapes := rfl
@[simp] theorem Ctx.setStat_shapes (x : Ctx) (i : Nat) (b : Bool) : (x.setStat i b).shapes = x.shapes := by unfold Ctx.setStat; exact Ctx.srSet_shapes ..
@[simp] theorem Ctx.setTlvl_shapes (x : Ctx) (n : Nat) : (x.setTlvl n).shapes = x.shapes := by unfold Ctx.setTlvl; exact Ctx.srSet_shapes ..
@[simp] theorem Ctx.setS_shapes (x : Ctx) (r : Nat) (w : Word) : (x.setS r w).shapes = x.shapes := by unfold Ctx.setS; split <;> rfl
@[simp] theorem Ctx.setV_shapes (x : Ctx) (r : Nat) (w : VWord) : (x.setV r w).shapes = x.shapes := rfl
@[simp] theorem Ctx.setM_shapes (x : Ctx) (r : Nat) (w : MaskWord) : (x.setM r w).shapes = x.shapes := by unfold Ctx.setM; split <;> rfl
@[simp] theorem Ctx.setPred_shapes (x : Ctx) (r : Nat) (b : Bool) : (x.setPred r b).shapes = x.shapes := by unfold Ctx.setPred; split <;> simp only [Ctx.srSet]
@[simp] theorem Ctx.srSet_loads (x : Ctx) (n : Nat) (w : Word) : (x.srSet n w).loads = x.loads := rfl
@[simp] theorem Ctx.setStat_loads (x : Ctx) (i : Nat) (b : Bool) : (x.setStat i b).loads = x.loads := by unfold Ctx.setStat; exact Ctx.srSet_loads ..
@[simp] theorem Ctx.setTlvl_loads (x : Ctx) (n : Nat) : (x.setTlvl n).loads = x.loads := by unfold Ctx.setTlvl; exact Ctx.srSet_loads ..
@[simp] theorem Ctx.setS_loads (x : Ctx) (r : Nat) (w : Word) : (x.setS r w).loads = x.loads := by unfold Ctx.setS; split <;> rfl
@[simp] theorem Ctx.setV_loads (x : Ctx) (r : Nat) (w : VWord) : (x.setV r w).loads = x.loads := rfl
@[simp] theorem Ctx.setM_loads (x : Ctx) (r : Nat) (w : MaskWord) : (x.setM r w).loads = x.loads := by unfold Ctx.setM; split <;> rfl
@[simp] theorem Ctx.setPred_loads (x : Ctx) (r : Nat) (b : Bool) : (x.setPred r b).loads = x.loads := by unfold Ctx.setPred; split <;> simp only [Ctx.srSet]
@[simp] theorem Ctx.srSet_warnHeld (x : Ctx) (n : Nat) (w : Word) : (x.srSet n w).warnHeld = x.warnHeld := rfl
@[simp] theorem Ctx.setStat_warnHeld (x : Ctx) (i : Nat) (b : Bool) : (x.setStat i b).warnHeld = x.warnHeld := by unfold Ctx.setStat; exact Ctx.srSet_warnHeld ..
@[simp] theorem Ctx.setTlvl_warnHeld (x : Ctx) (n : Nat) : (x.setTlvl n).warnHeld = x.warnHeld := by unfold Ctx.setTlvl; exact Ctx.srSet_warnHeld ..
@[simp] theorem Ctx.setS_warnHeld (x : Ctx) (r : Nat) (w : Word) : (x.setS r w).warnHeld = x.warnHeld := by unfold Ctx.setS; split <;> rfl
@[simp] theorem Ctx.setV_warnHeld (x : Ctx) (r : Nat) (w : VWord) : (x.setV r w).warnHeld = x.warnHeld := rfl
@[simp] theorem Ctx.setM_warnHeld (x : Ctx) (r : Nat) (w : MaskWord) : (x.setM r w).warnHeld = x.warnHeld := by unfold Ctx.setM; split <;> rfl
@[simp] theorem Ctx.setPred_warnHeld (x : Ctx) (r : Nat) (b : Bool) : (x.setPred r b).warnHeld = x.warnHeld := by unfold Ctx.setPred; split <;> simp only [Ctx.srSet]
@[simp] theorem Ctx.srSet_tryAt (x : Ctx) (n : Nat) (w : Word) : (x.srSet n w).tryAt = x.tryAt := rfl
@[simp] theorem Ctx.setStat_tryAt (x : Ctx) (i : Nat) (b : Bool) : (x.setStat i b).tryAt = x.tryAt := by unfold Ctx.setStat; exact Ctx.srSet_tryAt ..
@[simp] theorem Ctx.setTlvl_tryAt (x : Ctx) (n : Nat) : (x.setTlvl n).tryAt = x.tryAt := by unfold Ctx.setTlvl; exact Ctx.srSet_tryAt ..
@[simp] theorem Ctx.setS_tryAt (x : Ctx) (r : Nat) (w : Word) : (x.setS r w).tryAt = x.tryAt := by unfold Ctx.setS; split <;> rfl
@[simp] theorem Ctx.setV_tryAt (x : Ctx) (r : Nat) (w : VWord) : (x.setV r w).tryAt = x.tryAt := rfl
@[simp] theorem Ctx.setM_tryAt (x : Ctx) (r : Nat) (w : MaskWord) : (x.setM r w).tryAt = x.tryAt := by unfold Ctx.setM; split <;> rfl
@[simp] theorem Ctx.setPred_tryAt (x : Ctx) (r : Nat) (b : Bool) : (x.setPred r b).tryAt = x.tryAt := by unfold Ctx.setPred; split <;> simp only [Ctx.srSet]
@[simp] theorem Ctx.srSet_lastIssue (x : Ctx) (n : Nat) (w : Word) : (x.srSet n w).lastIssue = x.lastIssue := rfl
@[simp] theorem Ctx.setStat_lastIssue (x : Ctx) (i : Nat) (b : Bool) : (x.setStat i b).lastIssue = x.lastIssue := by unfold Ctx.setStat; exact Ctx.srSet_lastIssue ..
@[simp] theorem Ctx.setTlvl_lastIssue (x : Ctx) (n : Nat) : (x.setTlvl n).lastIssue = x.lastIssue := by unfold Ctx.setTlvl; exact Ctx.srSet_lastIssue ..
@[simp] theorem Ctx.setS_lastIssue (x : Ctx) (r : Nat) (w : Word) : (x.setS r w).lastIssue = x.lastIssue := by unfold Ctx.setS; split <;> rfl
@[simp] theorem Ctx.setV_lastIssue (x : Ctx) (r : Nat) (w : VWord) : (x.setV r w).lastIssue = x.lastIssue := rfl
@[simp] theorem Ctx.setM_lastIssue (x : Ctx) (r : Nat) (w : MaskWord) : (x.setM r w).lastIssue = x.lastIssue := by unfold Ctx.setM; split <;> rfl
@[simp] theorem Ctx.setPred_lastIssue (x : Ctx) (r : Nat) (b : Bool) : (x.setPred r b).lastIssue = x.lastIssue := by unfold Ctx.setPred; split <;> simp only [Ctx.srSet]

/-! Registers after a write. -/

/-- s0 reads zero whatever is written to it; every other scalar reads what was last written (R247). -/
theorem Ctx.sreg_setS (x : Ctx) (r n : Nat) (w : Word) :
    (x.setS r w).sreg n = if n = r ∧ r ≠ 0 then w else x.sreg n := by
  unfold Ctx.setS Ctx.sreg
  by_cases hr : r = 0
  · by_cases hn : n = 0 <;> simp [hr, hn]
  · by_cases hn : n = 0
    · subst hn; simp [hr, Ne.symm hr]
    · simp [hr, hn, Assoc.get_set]

@[simp] theorem Ctx.sreg_zero (x : Ctx) : x.sreg 0 = 0 := rfl

theorem Ctx.vreg_setV (x : Ctx) (r n : Nat) (w : VWord) : (x.setV r w).vreg n = if n = r then w else x.vreg n := by
  simp [Ctx.setV, Ctx.vreg, Assoc.get_set]

theorem Ctx.mreg_setM (x : Ctx) (r n : Nat) (w : MaskWord) :
    (x.setM r w).mreg n = if n = r ∧ r ≠ 0 then w else x.mreg n := by
  unfold Ctx.setM Ctx.mreg
  by_cases hr : r = 0
  · by_cases hn : n = 0 <;> simp [hr, hn]
  · by_cases hn : n = 0
    · subst hn; simp [hr, Ne.symm hr]
    · simp [hr, hn, Assoc.get_set]

theorem Ctx.srGet_srSet (x : Ctx) (n k : Nat) (w : Word) : (x.srSet n w).srGet k = if k = n then w else x.srGet k := by
  by_cases h : k = n
  · subst h; simp [Ctx.srSet, Ctx.srGet]
  · simp only [Ctx.srSet, Ctx.srGet, if_neg h]
    by_cases hv : w = srReset n
    · simp [Assoc.set, hv, Assoc.get_erase_ne _ _ (Ne.symm h)]
    · simp [Assoc.set, hv, Assoc.get_put, h]

@[simp] theorem Ctx.srGet_srSet_self (x : Ctx) (n : Nat) (w : Word) : (x.srSet n w).srGet n = w := by
  simp [Ctx.srGet_srSet]

theorem Ctx.fent_setFent (x : Ctx) (f k : Nat) (w : FmtWord) : (x.setFent f w).fent k = if k = f then w else x.fent k := by
  by_cases h : k = f
  · subst h; simp [Ctx.setFent, Ctx.fent]
  · simp only [Ctx.setFent, Ctx.fent, if_neg h]
    by_cases hv : w = presetEntry f
    · simp [Assoc.set, hv, Assoc.get_erase_ne _ _ (Ne.symm h)]
    · simp [Assoc.set, hv, Assoc.get_put, h]

theorem Ctx.guard_setGuard (x : Ctx) (g k : Nat) (v : Guard) :
    (x.setGuard g v).guard k = if k = g then v else x.guard k := by
  simp [Ctx.setGuard, Ctx.guard, Assoc.get_set]

@[simp] theorem Ctx.srGet_setS (x : Ctx) (r n : Nat) (w : Word) : (x.setS r w).srGet n = x.srGet n := by
  simp [Ctx.srGet]
@[simp] theorem Ctx.srGet_setV (x : Ctx) (r n : Nat) (w : VWord) : (x.setV r w).srGet n = x.srGet n := rfl
@[simp] theorem Ctx.srGet_setM (x : Ctx) (r n : Nat) (w : MaskWord) : (x.setM r w).srGet n = x.srGet n := by
  simp [Ctx.srGet]

/-! The acting agent. -/

@[simp] theorem State.me_setMe (s : State) (x : Ctx) : (s.setMe x).me = x := by simp [State.me, State.setMe]

@[simp] theorem State.me_modMe (s : State) (f : Ctx → Ctx) : (s.modMe f).me = f s.me := by simp [State.modMe]

theorem State.ctx_setMe (s : State) (x : Ctx) (m d : Nat) :
    (s.setMe x).ctx m d = if m = s.cur.core ∧ d = s.cur.ctx then x else s.ctx m d := State.ctx_setCtx ..

theorem State.ctx_modMe (s : State) (f : Ctx → Ctx) (m d : Nat) :
    (s.modMe f).ctx m d = if m = s.cur.core ∧ d = s.cur.ctx then f s.me else s.ctx m d := State.ctx_setCtx ..

/-- A write of a scalar reads back, except in s0 (R246, R247). -/
theorem State.putS_sreg (s : State) (r n : Nat) (w : Word) :
    (s.putS r w).me.sreg n = if n = r ∧ r ≠ 0 then w else s.me.sreg n := by
  simp [State.putS, Ctx.sreg_setS]

end Sys2Proof.Machine
end

