-- ==== Sys2Proof/Laws/Memory.lean ====
section
/-! SUPPORT. Memory: reading after writing, and that every memory operation keeps the canonical form. -/
namespace Sys2Proof.Machine

theorem memByte_memSetByte (m : List Host.Cell) (a b : Nat) (v : Byte) :
    memByte (memSetByte m a v) b = if b = a then v else memByte m b := Assoc.get_set ..

theorem memWf_memSetByte (m : List Host.Cell) (a : Nat) (v : Byte) (h : memWf m = true) :
    memWf (memSetByte m a v) = true := Assoc.wf_set _ _ _ _ h

/-- A write of `n` bytes keeps the canonical form. -/
theorem memWf_memWrite (m : List Host.Cell) (a v n : Nat) (h : memWf m = true) : memWf (memWrite m a v n) = true := by
  induction n generalizing m a v with
  | zero => exact h
  | succ n ih => exact ih _ _ _ (memWf_memSetByte m a _ h)

/-- A byte outside the written ones reads as before. -/
theorem memByte_memWrite_of_out (m : List Host.Cell) (a v n b : Nat) (h : b < a ∨ a + n ≤ b) :
    memByte (memWrite m a v n) b = memByte m b := by
  induction n generalizing m a v with
  | zero => rfl
  | succ n ih =>
    simp only [memWrite]
    rw [ih _ _ _ (by omega), memByte_memSetByte, if_neg (by omega)]

/-- A written byte reads the byte of the value at its place, little-endian (R5). -/
theorem memByte_memWrite_of_in (m : List Host.Cell) (a v n b : Nat) (h : a ≤ b) (h' : b < a + n) :
    memByte (memWrite m a v n) b = BitVec.ofNat 8 (v / 2 ^ (8 * (b - a))) := by
  induction n generalizing m a v with
  | zero => omega
  | succ n ih =>
    simp only [memWrite]
    by_cases hb : b = a
    · subst hb
      rw [memByte_memWrite_of_out _ _ _ _ _ (by omega), memByte_memSetByte]
      simp
    · rw [ih _ _ _ (by omega) (by omega)]
      have hk : 8 * (b - a) = 8 + 8 * (b - (a + 1)) := by omega
      rw [hk, Nat.pow_add, ← Nat.div_div_eq_div_mul]

/-- `n` bytes read after they were written give the value's low `n` bytes. -/
theorem memRead_memWrite (m : List Host.Cell) (a v n : Nat) : memRead (memWrite m a v n) a n = v % 256 ^ n := by
  have key : ∀ k m' w b, (∀ i, i < k → memByte m' (b + i) = BitVec.ofNat 8 (w / 2 ^ (8 * i))) →
      memRead m' b k = w % 256 ^ k := by
    intro k
    induction k with
    | zero => intro m' w b _; simp [memRead, Nat.mod_one]
    | succ k ih =>
      intro m' w b hb
      simp only [memRead]
      have h0 := hb 0 (by omega)
      simp only [Nat.add_zero, Nat.mul_zero, Nat.pow_zero, Nat.div_one] at h0
      rw [h0, ih m' (w / 256) (b + 1) ?_]
      · rw [BitVec.toNat_ofNat, show 256 ^ (k + 1) = 256 * 256 ^ k by rw [Nat.pow_succ, Nat.mul_comm], Nat.mod_mul]
      · intro i hi
        have := hb (i + 1) (by omega)
        rw [show b + 1 + i = b + (i + 1) by omega, this]
        have hk : 8 * (i + 1) = 8 + 8 * i := by omega
        rw [hk, Nat.pow_add, ← Nat.div_div_eq_div_mul]
  exact key n _ v a fun i hi => by
    rw [memByte_memWrite_of_in _ _ _ _ _ (by omega) (by omega)]
    simp

/-! The state's memory. -/

/-- Folding steps that each keep a state's memory keeps it. -/
theorem foldl_mem {α : Type} (f : State → α → State) (hf : ∀ s a, (f s a).mem = s.mem) (l : List α) (s : State) :
    (l.foldl f s).mem = s.mem := by
  induction l generalizing s with
  | nil => rfl
  | cons a l ih => rw [List.foldl_cons, ih, hf]

@[simp] theorem State.noteWrite_mem (s : State) (pa n : Nat) : (s.noteWrite pa n).mem = s.mem := rfl

@[simp] theorem State.noteOrace_mem (s : State) (pa n : Nat) : (s.noteOrace pa n).mem = s.mem := by
  unfold State.noteOrace
  split
  · rfl
  · apply foldl_mem
    intro s e
    dsimp only
    split <;> rfl

@[simp] theorem State.noteOrace_cur (s : State) (pa n : Nat) : (s.noteOrace pa n).cur = s.cur := by
  unfold State.noteOrace
  split
  · rfl
  · have : ∀ (l : Assoc EngOp) (t : State), (List.foldl (fun (s : State) (e : Nat × EngOp) =>
        let gs := (e.2.window.flatMap (granulesIn pa n)).eraseDups
        if gs.isEmpty then s
        else
          let kept := gs.map fun g => (g, BitVec.ofNat 512 (memRead s.mem (64 * g) 64))
          { s.modCtx e.2.core e.2.ctx (·.setStat bORACE true) with
            ops := s.ops.put e.1 { e.2 with olds := e.2.olds ++ kept } }) t l).cur = t.cur := by
      intro l
      induction l with
      | nil => intro t; rfl
      | cons e l ih =>
        intro t
        rw [List.foldl_cons, ih]
        dsimp only
        split <;> rfl
    exact this _ _

theorem State.stallWrite_mem (s : State) (core off n v : Nat) :
    (s.stallWrite core off n v).mem = memWrite s.mem (stallPa core off) v n := by
  simp [State.stallWrite]

/-- A store into a stall reads back (R5, R33). -/
theorem State.stallRead_stallWrite (s : State) (core off n v : Nat) :
    (s.stallWrite core off n v).stallRead core off n = v % 256 ^ n := by
  simp [State.stallRead, State.stallWrite_mem, memRead_memWrite]

/-- A store into a stall leaves every other byte of memory alone. -/
theorem State.stallWrite_byte (s : State) (core off n v a : Nat) (h : a < stallPa core off ∨ stallPa core off + n ≤ a) :
    memByte (s.stallWrite core off n v).mem a = memByte s.mem a := by
  rw [State.stallWrite_mem, memByte_memWrite_of_out _ _ _ _ _ h]

/-- The canonical form of the state's memory and flash. -/
theorem State.stallWrite_wf (s : State) (core off n v : Nat) (h : memWf s.mem = true) :
    memWf (s.stallWrite core off n v).mem = true := by
  rw [State.stallWrite_mem]; exact memWf_memWrite _ _ _ _ h

theorem State.physStore_wf (s : State) (pa n v : Nat) (h : memWf s.mem = true) : memWf (s.physStore pa n v).mem = true := by
  unfold State.physStore
  dsimp only
  split
  · simpa using h
  · simpa using memWf_memWrite _ _ _ _ h

theorem State.physWrite_go_wf (fuel : Nat) (s : State) (pa n v : Nat) (h : memWf s.mem = true) :
    memWf (State.physWrite.go s pa n v fuel).mem = true := by
  induction fuel generalizing s pa n v with
  | zero => exact h
  | succ fuel ih =>
    unfold State.physWrite.go
    split
    · exact h
    · exact ih _ _ _ _ (State.physStore_wf _ _ _ _ h)

/-- A coherent write of any length keeps the canonical form. -/
theorem State.physWrite_wf (s : State) (pa n v : Nat) (h : memWf s.mem = true) : memWf (s.physWrite pa n v).mem = true :=
  State.physWrite_go_wf _ _ _ _ _ h

theorem State.setPoison_wf (s : State) (pa : Nat) (h : memWf s.mem = true) : memWf (s.setPoison pa).mem = true := by
  unfold State.setPoison
  split <;> exact h

/-- Memory after reset is canonical. -/
theorem State.reset_memWf : memWf State.reset.mem = true ∧ memWf State.reset.flash = true := ⟨rfl, rfl⟩

end Sys2Proof.Machine
end

