-- ==== Sys2Proof/Laws/Devices.lean ====
section
/-! SUPPORT. The operations that replace whole ranges of memory (write-backs, moves, clearing, resets, images) keep the
canonical form of memory and flash. -/
namespace Sys2Proof.Machine

theorem memWf_filter (m : List Host.Cell) (p : Host.Cell → Bool) (h : memWf m = true) : memWf (m.filter p) = true :=
  Assoc.wf_filter _ _ _ h

/-- The cells of a move: those below the destination, the moved ones and those above it. -/
theorem memWf_moveCells (from_ to_ : List Host.Cell) (src dst n : Nat) (hf : memWf from_ = true) (ht : memWf to_ = true) :
    memWf (moveCells from_ to_ src dst n) = true := by
  unfold moveCells
  refine Assoc.wf_append _ _ _ (Assoc.wf_append _ _ _ (memWf_filter _ _ ht) ?_ ?_) (memWf_filter _ _ ht) ?_
  · refine Assoc.wf_map_keys _ _ (fun k => k - src + dst) ?_ (memWf_filter _ _ hf)
    intro a ha b hb hab
    have ha := (List.mem_filter.mp ha).2
    have hb := (List.mem_filter.mp hb).2
    simp only [Bool.and_eq_true, decide_eq_true_eq] at ha hb
    omega
  · intro a ha b hb
    have ha := (List.mem_filter.mp ha).2
    obtain ⟨c, hc, rfl⟩ := List.mem_map.mp hb
    have hc := (List.mem_filter.mp hc).2
    simp only [Bool.and_eq_true, decide_eq_true_eq] at ha hc
    dsimp only
    omega
  · intro a ha b hb
    have hb := (List.mem_filter.mp hb).2
    rcases List.mem_append.mp ha with ha | ha
    · have ha := (List.mem_filter.mp ha).2
      simp only [decide_eq_true_eq] at ha hb
      omega
    · obtain ⟨c, hc, rfl⟩ := List.mem_map.mp ha
      have hc := (List.mem_filter.mp hc).2
      simp only [Bool.and_eq_true, decide_eq_true_eq] at hb hc
      dsimp only
      omega

theorem State.storeBack_wf (s : State) (l : C2Line) (h : memWf s.mem = true) : memWf (s.storeBack l).mem = true :=
  memWf_memWrite _ _ _ _ h

theorem State.clearRange_wf (s : State) (pa n : Nat) (h : memWf s.mem = true) : memWf (s.clearRange pa n).mem = true :=
  memWf_filter _ _ h

/-- The cells of `n` bytes of one value that is not the default. -/
theorem memWf_run (pa n : Nat) (b : Byte) (hb : b ≠ memDefault) : memWf ((List.range n).map fun i => (pa + i, b)) = true := by
  induction n with
  | zero => rfl
  | succ n ih =>
    rw [List.range_succ, List.map_append]
    refine Assoc.wf_append _ _ _ ih ?_ ?_
    · simp [Assoc.wf, hb]
    · intro x hx y hy
      obtain ⟨i, hi, rfl⟩ := List.mem_map.mp hx
      simp only [List.map_cons, List.map_nil, List.mem_singleton] at hy
      subst hy
      have := List.mem_range.mp hi
      dsimp only
      omega

theorem State.fillOnes_wf (s : State) (pa n : Nat) (h : memWf s.mem = true) : memWf (s.fillOnes pa n).mem = true := by
  have hc : memWf (s.clearRange pa n).mem = true := s.clearRange_wf pa n h
  refine Assoc.wf_append _ _ _ (Assoc.wf_append _ _ _ (memWf_filter _ _ hc) (memWf_run _ _ _ (by decide)) ?_)
    (memWf_filter _ _ hc) ?_
  · intro a ha b hb
    have ha := (List.mem_filter.mp ha).2
    obtain ⟨i, _, rfl⟩ := List.mem_map.mp hb
    simp only [decide_eq_true_eq] at ha
    dsimp only
    omega
  · intro a ha b hb
    have hb := (List.mem_filter.mp hb).2
    simp only [decide_eq_true_eq] at hb
    rcases List.mem_append.mp ha with ha | ha
    · have ha := (List.mem_filter.mp ha).2
      simp only [decide_eq_true_eq] at ha
      omega
    · obtain ⟨i, hi, rfl⟩ := List.mem_map.mp ha
      have := List.mem_range.mp hi
      dsimp only
      omega

theorem State.copyData_wf (s : State) (srcTier src dstTier dst n : Nat) (h : memWf s.mem = true) (hf : memWf s.flash = true) :
    memWf (s.copyData srcTier src dstTier dst n).mem = true ∧ memWf (s.copyData srcTier src dstTier dst n).flash = true := by
  have from_ : memWf (if srcTier == 2 then s.flash else s.mem) = true := by split <;> assumption
  unfold State.copyData
  dsimp only
  split
  · exact ⟨h, memWf_moveCells _ _ _ _ _ from_ hf⟩
  · exact ⟨memWf_moveCells _ _ _ _ _ from_ h, hf⟩

theorem State.vfCleared_wf (s : State) (v : Nat) (h : memWf s.mem = true) : memWf (s.vfCleared v).mem = true :=
  memWf_filter _ _ h

theorem State.restart_wf (s : State) (image : Nat) (h : memWf s.mem = true) (hf : memWf s.flash = true) :
    memWf (s.restart image).mem = true ∧ memWf (s.restart image).flash = true := ⟨memWf_filter _ _ h, hf⟩

theorem memWf_foldl_set (l : List Host.Cell) (m : List Host.Cell) (h : memWf m = true) :
    memWf (l.foldl (fun (r : List Host.Cell) c => memSetByte r c.1 c.2) m) = true := by
  induction l generalizing m with
  | nil => exact h
  | cons c l ih => exact ih _ (memWf_memSetByte _ _ _ h)

theorem State.writeBackImage_wf (s : State) (m : Image) (h : memWf s.mem = true) : memWf (s.writeBackImage m).mem = true :=
  memWf_foldl_set _ _ (memWf_filter _ _ h)

end Sys2Proof.Machine
end

