-- ==== Sys2Proof/Laws/Issue.lean ====
section
/-! SUPPORT. What the shared operations of the issue of one instruction do: paying, flagging, completing, and the ends of
`issueWith`. -/
namespace Sys2Proof.Machine

/-! Bits of STAT. -/

theorem Ctx.statBit_setStat (x : Ctx) (i j : Nat) (b : Bool) (hj : j < 64) :
    (x.setStat i b).statBit j = if j = i then b else x.statBit j := by
  unfold Ctx.setStat Ctx.statBit
  rw [Ctx.srGet_srSet_self]
  unfold withField
  rw [BitVec.toNat_ofNat, bit_mod _ _ _ hj]
  by_cases h : j = i
  · subst h; rw [if_pos rfl, bit_setBits_self]
  · rw [if_neg h, bit_setBits_ne _ _ _ _ _ (by omega)]

theorem Ctx.srGet_setStat (x : Ctx) (i n : Nat) (b : Bool) (h : n ≠ rSTAT) : (x.setStat i b).srGet n = x.srGet n := by
  unfold Ctx.setStat; rw [Ctx.srGet_srSet, if_neg h]

theorem Ctx.statBit_of_sr {x y : Ctx} (h : x.srGet rSTAT = y.srGet rSTAT) (i : Nat) : x.statBit i = y.statBit i := by
  unfold Ctx.statBit; rw [h]

/-! A context in which only some things have changed. -/

/-- A context as another but for counters, the tokens drawn, its course and the registers of `endRegs`. -/
structure CtxAs (y x : Ctx) : Prop where
  s : y.s = x.s
  v : y.v = x.v
  m : y.m = x.m
  acc : y.acc = x.acc
  accSum : y.accSum = x.accSum
  guards : y.guards = x.guards
  ftab : y.ftab = x.ftab
  signal : y.sigCount = x.sigCount ∧ y.launch = x.launch ∧ y.fork = x.fork ∧ y.pending = x.pending
  sr : ∀ n, n ∉ endRegs → y.srGet n = x.srGet n

theorem CtxAs.refl (x : Ctx) : CtxAs x x := ⟨rfl, rfl, rfl, rfl, rfl, rfl, rfl, ⟨rfl, rfl, rfl, rfl⟩, fun _ _ => rfl⟩

theorem CtxAs.trans {x y z : Ctx} (h : CtxAs z y) (g : CtxAs y x) : CtxAs z x :=
  ⟨h.s.trans g.s, h.v.trans g.v, h.m.trans g.m, h.acc.trans g.acc, h.accSum.trans g.accSum, h.guards.trans g.guards,
   h.ftab.trans g.ftab, ⟨h.signal.1.trans g.signal.1, h.signal.2.1.trans g.signal.2.1, h.signal.2.2.1.trans g.signal.2.2.1,
   h.signal.2.2.2.trans g.signal.2.2.2⟩, fun n hn => (h.sr n hn).trans (g.sr n hn)⟩

/-- Counting changes only the counters. -/
theorem Ctx.count_eq (x : Ctx) (event n : Nat) : ∃ p, x.count event n = { x with pmc := p } := by
  unfold Ctx.count
  have : ∀ (l : List Nat) (y : Ctx), (∃ p, y = { x with pmc := p }) →
      ∃ p, l.foldl (fun x k =>
        let e := x.srGet (rPMEV k)
        if fieldOf e 0 6 == event && bit e.toNat 6 then { x with pmc := x.pmc.set k (x.pmc.get k 0 + BitVec.ofNat 64 n) 0 }
        else x) y = { x with pmc := p } := by
    intro l
    induction l with
    | nil => intro y h; exact h
    | cons k l ih =>
      intro y h
      rw [List.foldl_cons]
      apply ih
      obtain ⟨p, rfl⟩ := h
      dsimp only
      split
      · exact ⟨_, rfl⟩
      · exact ⟨p, rfl⟩
  exact this _ x ⟨x.pmc, rfl⟩

theorem Ctx.count_as (x : Ctx) (event n : Nat) : CtxAs (x.count event n) x := by
  obtain ⟨p, h⟩ := x.count_eq event n
  rw [h]
  exact ⟨rfl, rfl, rfl, rfl, rfl, rfl, rfl, ⟨rfl, rfl, rfl, rfl⟩, fun _ _ => rfl⟩

@[simp] theorem Ctx.srGet_count (x : Ctx) (event n k : Nat) : (x.count event n).srGet k = x.srGet k := by
  obtain ⟨p, h⟩ := x.count_eq event n; rw [h]; rfl

@[simp] theorem Ctx.st_count (x : Ctx) (event n : Nat) : (x.count event n).st = x.st := by
  obtain ⟨p, h⟩ := x.count_eq event n; rw [h]

@[simp] theorem Ctx.block_count (x : Ctx) (event n : Nat) : (x.count event n).block = x.block := by
  obtain ⟨p, h⟩ := x.count_eq event n; rw [h]

@[simp] theorem Ctx.pc_count (x : Ctx) (event n : Nat) : (x.count event n).pc = x.pc := by
  obtain ⟨p, h⟩ := x.count_eq event n; rw [h]

theorem Ctx.setStat_as (x : Ctx) (i : Nat) (b : Bool) : CtxAs (x.setStat i b) x :=
  ⟨by simp, by simp, by simp, by simp, by simp, by simp, by simp, by simp,
   fun n hn => Ctx.srGet_setStat x i n b (by intro h; subst h; exact hn (by simp [endRegs]))⟩

theorem Ctx.srSet_as (x : Ctx) (n : Nat) (w : Word) (h : n ∈ endRegs) : CtxAs (x.srSet n w) x :=
  ⟨rfl, rfl, rfl, rfl, rfl, rfl, rfl, ⟨rfl, rfl, rfl, rfl⟩,
   fun k hk => by rw [Ctx.srGet_srSet, if_neg (by intro e; subst e; exact hk h)]⟩

/-- The loop end action changes the pc, the loop counts and LOOPST. -/
theorem Ctx.loopEnd_as (x : Ctx) (npc : Word) (fuel : Nat) : CtxAs (x.loopEnd npc fuel) x ∧
    (x.loopEnd npc fuel).block = x.block ∧ (x.loopEnd npc fuel).srGet rSTAT = x.srGet rSTAT ∧
    (x.loopEnd npc fuel).st = x.st := by
  induction fuel generalizing x with
  | zero => exact ⟨⟨rfl, rfl, rfl, rfl, rfl, rfl, rfl, ⟨rfl, rfl, rfl, rfl⟩, fun _ _ => rfl⟩, rfl, rfl, rfl⟩
  | succ fuel ih =>
    unfold Ctx.loopEnd
    dsimp only
    split
    · exact ⟨⟨rfl, rfl, rfl, rfl, rfl, rfl, rfl, ⟨rfl, rfl, rfl, rfl⟩, fun _ _ => rfl⟩, rfl, rfl, rfl⟩
    · rename_i hd
      have hd' : fieldOf (x.srGet rLOOPST) 0 3 - 1 < 7 := by
        have : fieldOf (x.srGet rLOOPST) 0 3 < 2 ^ 3 := Nat.mod_lt _ (by decide)
        omega
      split
      · rename_i hlc
        have hm : rLC (fieldOf (x.srGet rLOOPST) 0 3 - 1) ∈ endRegs := by
          have : ∀ d, d < 7 → rLC d ∈ endRegs := by decide
          exact this _ hd'
        have hs : rSTAT ≠ rLC (fieldOf (x.srGet rLOOPST) 0 3 - 1) := by
          have : ∀ d, d < 7 → rSTAT ≠ rLC d := by decide
          exact this _ hd'
        have ha := Ctx.srSet_as x _ (x.srGet (rLC (fieldOf (x.srGet rLOOPST) 0 3 - 1)) - 1) hm
        exact ⟨⟨ha.s, ha.v, ha.m, ha.acc, ha.accSum, ha.guards, ha.ftab, ha.signal, ha.sr⟩, rfl,
          (by show (x.srSet _ _).srGet rSTAT = _; rw [Ctx.srGet_srSet, if_neg hs]), rfl⟩
      · have h := ih (x.srSet rLOOPST (BitVec.ofNat 64 (fieldOf (x.srGet rLOOPST) 0 3 - 1)))
        refine ⟨h.1.trans (Ctx.srSet_as x rLOOPST _ (by simp [endRegs])), h.2.1, ?_, h.2.2.2⟩
        rw [h.2.2.1, Ctx.srGet_srSet, if_neg (by decide)]

/-- The loop end action depends on the loop registers alone, and what it makes of them too. -/
theorem Ctx.loopEnd_congr (x y : Ctx) (npc : Word) (fuel : Nat)
    (h : ∀ n, 0x20 ≤ n → n ≤ 0x2E → x.srGet n = y.srGet n) : (x.loopEnd npc fuel).pc = (y.loopEnd npc fuel).pc ∧
    ∀ n, 0x20 ≤ n → n ≤ 0x2E → (x.loopEnd npc fuel).srGet n = (y.loopEnd npc fuel).srGet n := by
  induction fuel generalizing x y with
  | zero => exact ⟨rfl, h⟩
  | succ fuel ih =>
    have hd : fieldOf (x.srGet rLOOPST) 0 3 - 1 < 7 := by
      have : fieldOf (x.srGet rLOOPST) 0 3 < 2 ^ 3 := Nat.mod_lt _ (by decide)
      omega
    have h0 := h rLOOPST (by decide) (by decide)
    have h1 := h (rLE (fieldOf (x.srGet rLOOPST) 0 3 - 1)) (by unfold rLE; omega) (by unfold rLE; omega)
    have h2 := h (rLC (fieldOf (x.srGet rLOOPST) 0 3 - 1)) (by unfold rLC; omega) (by unfold rLC; omega)
    have h3 := h (rLS (fieldOf (x.srGet rLOOPST) 0 3 - 1)) (by unfold rLS; omega) (by unfold rLS; omega)
    unfold Ctx.loopEnd
    dsimp only
    rw [← h0, ← h1, ← h2, ← h3]
    split
    · exact ⟨rfl, h⟩
    · split
      · refine ⟨rfl, fun n hn hn' => ?_⟩
        show (x.srSet _ _).srGet n = (y.srSet _ _).srGet n
        rw [Ctx.srGet_srSet, Ctx.srGet_srSet, h n hn hn']
      · exact ih _ _ fun n hn hn' => by rw [Ctx.srGet_srSet, Ctx.srGet_srSet, h n hn hn']

theorem CtxAs.sreg {x y : Ctx} (h : CtxAs y x) (r : Nat) : y.sreg r = x.sreg r := by
  unfold Ctx.sreg; rw [h.s]
theorem CtxAs.vreg {x y : Ctx} (h : CtxAs y x) (r : Nat) : y.vreg r = x.vreg r := by
  unfold Ctx.vreg; rw [h.v]
theorem CtxAs.mreg {x y : Ctx} (h : CtxAs y x) (r : Nat) : y.mreg r = x.mreg r := by
  unfold Ctx.mreg; rw [h.m]
theorem CtxAs.fent {x y : Ctx} (h : CtxAs y x) (f : Nat) : y.fent f = x.fent f := by
  unfold Ctx.fent; rw [h.ftab]
theorem CtxAs.guard {x y : Ctx} (h : CtxAs y x) (g : Nat) : y.guard g = x.guard g := by
  unfold Ctx.guard; rw [h.guards]

/-! States in which only the acting context's course and the cores' purses have changed. -/

/-- A state as another but for what paying, flagging and completing an instruction of context `c` of core `n` change. -/
structure StateAs (n c : Nat) (t s : State) : Prop where
  cur : t.cur = s.cur
  clk : t.clk = s.clk
  me : CtxAs (t.ctx n c) (s.ctx n c)
  others : ∀ m d, ¬(m = n ∧ d = c) → t.ctx m d = s.ctx m d
  tracks : ∀ m, (t.core m).tracks = (s.core m).tracks ∧ (t.core m).words = (s.core m).words
  caches : ∀ m, (t.core m).c1 = (s.core m).c1 ∧ (t.core m).journal = (s.core m).journal
  shared : ∀ m, (t.core m).sr = (s.core m).sr ∧ (t.core m).queue = (s.core m).queue
  windows : t.pkg = s.pkg ∧ t.vfs = s.vfs
  work : t.ops = s.ops ∧ t.reqs = s.reqs ∧ t.launches = s.launches ∧ t.due = s.due
  mem : t.mem = s.mem ∧ t.c2 = s.c2 ∧ t.poison = s.poison ∧ t.flash = s.flash

theorem StateAs.trans {n c : Nat} {s t u : State} (h : StateAs n c u t) (g : StateAs n c t s) : StateAs n c u s where
  cur := h.cur.trans g.cur
  clk := h.clk.trans g.clk
  me := h.me.trans g.me
  others m d hm := (h.others m d hm).trans (g.others m d hm)
  tracks m := ⟨(h.tracks m).1.trans (g.tracks m).1, (h.tracks m).2.trans (g.tracks m).2⟩
  caches m := ⟨(h.caches m).1.trans (g.caches m).1, (h.caches m).2.trans (g.caches m).2⟩
  shared m := ⟨(h.shared m).1.trans (g.shared m).1, (h.shared m).2.trans (g.shared m).2⟩
  windows := ⟨h.windows.1.trans g.windows.1, h.windows.2.trans g.windows.2⟩
  work := ⟨h.work.1.trans g.work.1, h.work.2.1.trans g.work.2.1, h.work.2.2.1.trans g.work.2.2.1,
    h.work.2.2.2.trans g.work.2.2.2⟩
  mem := ⟨h.mem.1.trans g.mem.1, h.mem.2.1.trans g.mem.2.1, h.mem.2.2.1.trans g.mem.2.2.1,
    h.mem.2.2.2.trans g.mem.2.2.2⟩

/-- A change of the acting context alone. -/
theorem StateAs.ofCtx (s : State) (n c : Nat) (x : Ctx) (h : CtxAs x (s.ctx n c)) : StateAs n c (s.setCtx n c x) s where
  cur := rfl
  clk := rfl
  me := by simpa using h
  others m d hm := by rw [State.ctx_setCtx, if_neg hm]
  tracks m := by rw [State.core_setCtx]; split <;> (try subst_vars) <;> exact ⟨rfl, rfl⟩
  caches m := by rw [State.core_setCtx]; split <;> (try subst_vars) <;> exact ⟨rfl, rfl⟩
  shared m := by rw [State.core_setCtx]; split <;> (try subst_vars) <;> exact ⟨rfl, rfl⟩
  windows := ⟨rfl, rfl⟩
  work := ⟨rfl, rfl, rfl, rfl⟩
  mem := ⟨rfl, rfl, rfl, rfl⟩

/-- A change of a core that leaves its contexts, tracks, caches, shared registers and queue alone. -/
theorem StateAs.ofCore (s : State) (n c : Nat) (k : Core) (hc : k.ctxs = (s.core n).ctxs)
    (ht : k.tracks = (s.core n).tracks ∧ k.words = (s.core n).words)
    (hk : k.c1 = (s.core n).c1 ∧ k.journal = (s.core n).journal) (hs : k.sr = (s.core n).sr ∧ k.queue = (s.core n).queue) :
    StateAs n c (s.setCore n k) s where
  cur := rfl
  clk := rfl
  me := by
    have : (s.setCore n k).ctx n c = s.ctx n c := by simp [State.ctx, Core.ctx, hc]
    rw [this]; exact CtxAs.refl _
  others m d _ := by
    rw [State.ctx_setCore]; split
    · subst_vars; simp [State.ctx, Core.ctx, hc]
    · rfl
  tracks m := by rw [State.core_setCore]; split <;> (try subst_vars) <;> first | exact ht | exact ⟨rfl, rfl⟩
  caches m := by rw [State.core_setCore]; split <;> (try subst_vars) <;> first | exact hk | exact ⟨rfl, rfl⟩
  shared m := by rw [State.core_setCore]; split <;> (try subst_vars) <;> first | exact hs | exact ⟨rfl, rfl⟩
  windows := ⟨rfl, rfl⟩
  work := ⟨rfl, rfl, rfl, rfl⟩
  mem := ⟨rfl, rfl, rfl, rfl⟩

theorem StateAs.refl (n c : Nat) (s : State) : StateAs n c s s where
  cur := rfl
  clk := rfl
  me := CtxAs.refl _
  others _ _ _ := rfl
  tracks _ := ⟨rfl, rfl⟩
  caches _ := ⟨rfl, rfl⟩
  shared _ := ⟨rfl, rfl⟩
  windows := ⟨rfl, rfl⟩
  work := ⟨rfl, rfl, rfl, rfl⟩
  mem := ⟨rfl, rfl, rfl, rfl⟩

theorem StateAs.ofOverdraw (s : State) (n c : Nat) (o : Assoc Nat) : StateAs n c { s with overdraw := o } s :=
  ⟨rfl, rfl, CtxAs.refl _, fun _ _ _ => rfl, fun _ => ⟨rfl, rfl⟩, fun _ => ⟨rfl, rfl⟩, fun _ => ⟨rfl, rfl⟩, ⟨rfl, rfl⟩,
   ⟨rfl, rfl, rfl, rfl⟩, ⟨rfl, rfl, rfl, rfl⟩⟩

/-- Drawing tokens changes the counters, the tokens drawn, the purse and the overdraw. -/
theorem State.payCore_as (s : State) (n c cost : Nat) : StateAs n c (s.payCore n c cost) s := by
  have h1 : StateAs n c (s.modCtx n c fun x =>
      ({ x with drawn := x.drawn + cost } : Ctx).count 9 ((x.drawn + cost) / 1024 - x.drawn / 1024)) s :=
    StateAs.ofCtx _ _ _ _ (by
      refine (Ctx.count_as _ _ _).trans ?_
      exact ⟨rfl, rfl, rfl, rfl, rfl, rfl, rfl, ⟨rfl, rfl, rfl, rfl⟩, fun _ _ => rfl⟩)
  unfold State.payCore
  dsimp only
  refine StateAs.trans ?_ h1
  generalize (s.modCtx n c fun x =>
      ({ x with drawn := x.drawn + cost } : Ctx).count 9 ((x.drawn + cost) / 1024 - x.drawn / 1024)) = u
  split
  · exact StateAs.ofCore _ _ _ _ rfl ⟨rfl, rfl⟩ ⟨rfl, rfl⟩ ⟨rfl, rfl⟩
  · split
    · exact StateAs.ofCore _ _ _ _ rfl ⟨rfl, rfl⟩ ⟨rfl, rfl⟩ ⟨rfl, rfl⟩
    · exact (StateAs.ofOverdraw _ n c _).trans (StateAs.ofCore _ _ _ _ rfl ⟨rfl, rfl⟩ ⟨rfl, rfl⟩ ⟨rfl, rfl⟩)

theorem State.warnIf_as (s : State) (b : Bool) : StateAs s.cur.core s.cur.ctx (s.warnIf b) s := by
  unfold State.warnIf
  split
  · exact StateAs.ofCtx _ _ _ _ (Ctx.setStat_as _ _ _)
  · exact StateAs.refl _ _ _

/-- What completing an instruction makes of its context. -/
theorem State.retire_as (s : State) (n c : Nat) (isFmtp : Bool) (npc : Word) : StateAs n c (s.retire n c isFmtp npc) s := by
  unfold State.retire
  refine StateAs.trans (StateAs.ofCore _ _ _ _ rfl ⟨rfl, rfl⟩ ⟨rfl, rfl⟩ ⟨rfl, rfl⟩) ?_
  refine StateAs.ofCtx _ _ _ _ ((Ctx.loopEnd_as _ _ _).1.trans ?_)
  refine CtxAs.trans ?_ ((Ctx.count_as _ 1 1).trans (y := (if isFmtp = true then s.ctx n c else (s.ctx n c).setStat bPFX false)) ?_)
  · exact ⟨rfl, rfl, rfl, rfl, rfl, rfl, rfl, ⟨rfl, rfl, rfl, rfl⟩, fun _ _ => rfl⟩
  · split
    · exact CtxAs.refl _
    · exact Ctx.setStat_as _ _ _

/-- Completing an instruction keeps all that `StateAs` keeps. -/
theorem State.after_as (s : State) (cost : Nat) (warns : Bool) (npc : Word) (t : State) (hc : t.cur = s.cur) :
    StateAs s.cur.core s.cur.ctx (s.after cost warns npc t) t := by
  unfold State.after
  refine (State.retire_as _ _ _ _ _).trans ?_
  have hp := t.payCore_as s.cur.core s.cur.ctx cost
  have hcur : (t.payCore s.cur.core s.cur.ctx cost).cur = s.cur := hp.cur.trans hc
  have hw := State.warnIf_as (t.payCore s.cur.core s.cur.ctx cost) warns
  rw [hcur] at hw
  exact hw.trans hp

/-! The context after completion. -/

theorem State.me_eq {s t : State} (h : t.cur = s.cur) : t.me = t.ctx s.cur.core s.cur.ctx := by
  unfold State.me; rw [h]

/-- Drawing tokens leaves every system register and the pc of the context alone. -/
theorem State.payCore_ctx (s : State) (n c cost : Nat) : ∃ d p, (s.payCore n c cost).ctx n c =
    { s.ctx n c with drawn := d, pmc := p } := by
  obtain ⟨p, hp⟩ := ({ (s.ctx n c) with drawn := (s.ctx n c).drawn + cost } : Ctx).count_eq 9
    (((s.ctx n c).drawn + cost) / 1024 - (s.ctx n c).drawn / 1024)
  refine ⟨(s.ctx n c).drawn + cost, p, ?_⟩
  have h0 : (s.modCtx n c fun x => ({ x with drawn := x.drawn + cost } : Ctx).count 9
      ((x.drawn + cost) / 1024 - x.drawn / 1024)).ctx n c = { s.ctx n c with drawn := (s.ctx n c).drawn + cost, pmc := p } := by
    rw [State.ctx_modCtx_self, hp]
  unfold State.payCore
  dsimp only
  revert h0
  generalize (s.modCtx n c fun x => ({ x with drawn := x.drawn + cost } : Ctx).count 9
      ((x.drawn + cost) / 1024 - x.drawn / 1024)) = u
  intro h0
  split
  · rw [State.ctx_setCore, if_pos rfl]; exact h0
  · split
    · rw [State.ctx_setCore, if_pos rfl]; exact h0
    · show (u.setCore n _).ctx n c = _
      rw [State.ctx_setCore, if_pos rfl]; exact h0

theorem State.payCore_cur (s : State) (n c cost : Nat) : (s.payCore n c cost).cur = s.cur := (s.payCore_as n c cost).cur

/-- The context after a completed instruction. -/
theorem State.after_me (s : State) (cost : Nat) (warns : Bool) (npc : Word) (t : State) (hc : t.cur = s.cur) :
    (s.after cost warns npc t).me.block = none ∧
    (s.after cost warns npc t).me.pc = (t.me.loopEnd npc 5).pc ∧
    (s.after cost warns npc t).me.statBit bWARN = (t.me.statBit bWARN || warns) ∧
    (s.after cost warns npc t).me.statBit bPFX = false ∧
    (∀ n, 0x20 ≤ n → n ≤ 0x2E → (s.after cost warns npc t).me.srGet n = (t.me.loopEnd npc 5).srGet n) ∧
    (∀ i, i < 64 → i ≠ bWARN → i ≠ bPFX → (s.after cost warns npc t).me.statBit i = t.me.statBit i) := by
  obtain ⟨d, p, hx⟩ := t.payCore_ctx s.cur.core s.cur.ctx cost
  have hcur : (t.payCore s.cur.core s.cur.ctx cost).cur = s.cur := (State.payCore_cur ..).trans hc
  -- the context as it stands before completing
  have hw : ((t.payCore s.cur.core s.cur.ctx cost).warnIf warns).ctx s.cur.core s.cur.ctx =
      if warns then ({ t.me with drawn := d, pmc := p } : Ctx).setStat bWARN true else { t.me with drawn := d, pmc := p } := by
    have hme : t.ctx s.cur.core s.cur.ctx = t.me := by rw [State.me_eq hc]
    rw [hme] at hx
    unfold State.warnIf
    split
    · unfold State.warn State.modMe State.setMe State.me
      rw [hcur, State.ctx_setCtx_self, hx]
      rfl
    · exact hx
  have hcur2 : ((t.payCore s.cur.core s.cur.ctx cost).warnIf warns).cur = s.cur :=
    (State.warnIf_as _ _).cur.trans hcur
  have hfin : (s.after cost warns npc t).me = (s.after cost warns npc t).ctx s.cur.core s.cur.ctx :=
    State.me_eq ((State.after_as s cost warns npc t hc).cur.trans hc)
  obtain ⟨q, hq⟩ := ((if warns then ({ t.me with drawn := d, pmc := p } : Ctx).setStat bWARN true
      else { t.me with drawn := d, pmc := p }).setStat bPFX false).count_eq 1 1
  obtain ⟨li, sh, hfull⟩ : ∃ li sh, (s.after cost warns npc t).me = Ctx.loopEnd ({ ((if warns then
      ({ t.me with drawn := d, pmc := p } : Ctx).setStat bWARN true else { t.me with drawn := d, pmc := p }).setStat bPFX false)
      with pmc := q, block := none,
           st := if t.me.st == CtxSt.wait || t.me.st == CtxSt.sleep then CtxSt.ready else t.me.st,
           lastIssue := li, warnHeld := false, shapes := sh } : Ctx) npc 5 := by
    rw [hfin]
    unfold State.after State.retire
    dsimp only
    rw [State.ctx_modCore, if_pos rfl]
    show ∃ li sh, (State.modCtx _ _ _ _).ctx s.cur.core s.cur.ctx = _
    rw [State.ctx_modCtx_self]
    simp only [Bool.false_eq_true, if_false]
    rw [hw, hq]
    cases warns <;> exact ⟨_, _, rfl⟩
  have hl := Ctx.loopEnd_as ({ ((if warns then
      ({ t.me with drawn := d, pmc := p } : Ctx).setStat bWARN true else { t.me with drawn := d, pmc := p }).setStat bPFX false)
      with pmc := q, block := none,
           st := if t.me.st == CtxSt.wait || t.me.st == CtxSt.sleep then CtxSt.ready else t.me.st,
           lastIssue := li, warnHeld := false, shapes := sh } : Ctx) npc 5
  have hstat : ∀ i, i < 64 → (s.after cost warns npc t).me.statBit i =
      if i = bPFX then false else if i = bWARN then (t.me.statBit bWARN || warns) else t.me.statBit i := by
    intro i hi
    rw [hfull, Ctx.statBit_of_sr hl.2.2.1]
    show Ctx.statBit (Ctx.setStat _ _ _) i = _
    rw [Ctx.statBit_setStat _ _ _ _ hi]
    by_cases hp : i = bPFX
    · simp [hp]
    · rw [if_neg hp, if_neg hp]
      cases warns
      · by_cases hw : i = bWARN
        · subst hw; simp; rfl
        · simp [hw]; rfl
      · rw [if_pos rfl, Ctx.statBit_setStat _ _ _ _ hi]
        by_cases hw : i = bWARN
        · simp [hw]
        · simp [hw]; rfl
  have hcg : _ ∧ _ := Ctx.loopEnd_congr ({ ((if warns then
      ({ t.me with drawn := d, pmc := p } : Ctx).setStat bWARN true else { t.me with drawn := d, pmc := p }).setStat bPFX false)
      with pmc := q, block := none,
           st := if t.me.st == CtxSt.wait || t.me.st == CtxSt.sleep then CtxSt.ready else t.me.st,
           lastIssue := li, warnHeld := false, shapes := sh } : Ctx) t.me npc 5 (by
    intro n h1 h2
    have hn : n ≠ rSTAT := by unfold rSTAT; omega
    show Ctx.srGet (Ctx.setStat _ _ _) n = _
    rw [Ctx.srGet_setStat _ _ _ _ hn]
    cases warns
    · rfl
    · rw [if_pos rfl, Ctx.srGet_setStat _ _ _ _ hn]; rfl)
  refine ⟨?_, ?_, ?_, ?_, ?_, ?_⟩
  · rw [hfull, hl.2.1]
  · rw [hfull]; exact hcg.1
  · rw [hstat _ (by decide), if_neg (by decide), if_pos rfl]
  · rw [hstat _ (by decide), if_pos rfl]
  · rw [hfull]; exact hcg.2
  · intro i hi h1 h2
    rw [hstat i hi, if_neg h2, if_neg h1]

/-! The ends of an issue. -/

theorem State.stepTrap_off (s : State) (n c : Nat) (rep : Nat × Nat × Nat) (h : (s.ctx n c).statBit bSTEP = false) :
    s.stepTrap n c rep = s := by
  unfold State.stepTrap
  simp [h]

/-- The shared prologue of an issue whose body runs. -/
theorem issueWith_runs {f : Form} {cost : Nat} {s : State} (h : Runs f cost s) (warns named isFmtp : Bool)
    (rep : State → Nat × Nat × Nat) (body : State → Res) :
    issueWith f cost warns named isFmtp rep body s =
      let warn := warns || (s.me.statBit bPFX && !named && !isFmtp)
      let paid (t : State) : State := t.payCore s.cur.core s.cur.ctx cost
      let late := s.holdMe (.loads (s.me.loads.map (·.1))) 0 s.me.warnHeld
      match body s with
      | .done t => .next ((((paid t).warnIf warn).retire s.cur.core s.cur.ctx isFmtp (s.fall f)).stepTrap s.cur.core s.cur.ctx (rep s))
      | .jump t pc => .next ((((paid t).warnIf warn).retire s.cur.core s.cur.ctx isFmtp pc).stepTrap s.cur.core s.cur.ctx (rep s))
      | .fault t code val =>
        if s.me.loads.isEmpty then
          .next (t.enterTrap s.cur.core s.cur.ctx (causeWord code false 0 0 0 0) (BitVec.ofNat 64 val) s.me.pc)
        else .next late
      | .hold t w phase => .next (if phase == 0 then t.holdMe w 0 (warn && w.timesOut) else (paid t).holdMe w phase warn)
      | .again t => .next (((((paid t).warnIf warn).modMe fun y => { y with block := none, lastIssue := s.clk }).modCore s.cur.core
          fun k => { k with lastCtx := s.cur.ctx }).stepTrap s.cur.core s.cur.ctx (rep s))
      | .ended t fin => if s.me.loads.isEmpty then .next (fin ((paid t).warnIf warn)) else .next late := by
  obtain ⟨ha, hu, hf, hg, hp, hs, hl⟩ := h
  have hrun : (s.me.pred f.gp != f.gs) = true := by simpa using hg
  unfold issueWith
  simp only [ha, hu, hf, hrun, hl, State.fall]
  simp only [Bool.not_true, Bool.false_eq_true, if_false, bne_self_eq_false, if_true, hp, Bool.and_false, Bool.not_false,
    List.isEmpty_nil]
  all_goals (cases body s <;> rfl)

/-- An instruction that no load under way concerns goes on at once (R317). -/
theorem afterLoads_ready {rs : List Nat} {body : State → Res} {s : State} (h : s.me.awaiting rs = []) :
    afterLoads rs body s = body s := by simp [afterLoads, h]

/-- Loads under way into a register that it uses hold it, with nothing done (R317). -/
theorem afterLoads_holds {rs : List Nat} {body : State → Res} {s : State} (h : s.me.awaiting rs ≠ []) :
    afterLoads rs body s = .hold s (.loads (s.me.awaiting rs)) 0 := by
  unfold afterLoads
  split
  · exact absurd ‹_› h
  · rfl

/-- An instruction whose effect completes at once. -/
theorem issueWith_done {f : Form} {cost : Nat} {s t : State} (h : Runs f cost s) (warns named : Bool)
    (rep : State → Nat × Nat × Nat) {body : State → Res} (hb : body s = .done t) (hc : t.cur = s.cur)
    (hs : t.me.statBit bSTEP = s.me.statBit bSTEP) :
    issueWith f cost warns named false rep body s =
      .next (s.after cost (warns || (s.me.statBit bPFX && !named)) (s.fall f) t) := by
  have h2 : ((s.after cost (warns || (s.me.statBit bPFX && !named)) (s.fall f) t).ctx s.cur.core s.cur.ctx).statBit bSTEP = false := by
    rw [← State.me_eq ((State.after_as _ _ _ _ t hc).cur.trans hc),
      (State.after_me s cost (warns || (s.me.statBit bPFX && !named)) (s.fall f) t hc).2.2.2.2.2 bSTEP (by decide) (by decide)
        (by decide), hs, h.noStep]
  unfold State.after at h2 ⊢
  rw [issueWith_runs h, hb]
  simp only [Bool.not_false, Bool.and_true]
  rw [State.stepTrap_off _ _ _ _ h2]

/-- A branch. -/
theorem issueWith_jump {f : Form} {cost : Nat} {s t : State} {pc : Word} (h : Runs f cost s) (warns named : Bool)
    (rep : State → Nat × Nat × Nat) {body : State → Res} (hb : body s = .jump t pc) (hc : t.cur = s.cur)
    (hs : t.me.statBit bSTEP = s.me.statBit bSTEP) :
    issueWith f cost warns named false rep body s =
      .next (s.after cost (warns || (s.me.statBit bPFX && !named)) pc t) := by
  have h2 : ((s.after cost (warns || (s.me.statBit bPFX && !named)) pc t).ctx s.cur.core s.cur.ctx).statBit bSTEP = false := by
    rw [← State.me_eq ((State.after_as _ _ _ _ t hc).cur.trans hc),
      (State.after_me s cost (warns || (s.me.statBit bPFX && !named)) pc t hc).2.2.2.2.2 bSTEP (by decide) (by decide)
        (by decide), hs, h.noStep]
  unfold State.after at h2 ⊢
  rw [issueWith_runs h, hb]
  simp only [Bool.not_false, Bool.and_true]
  rw [State.stepTrap_off _ _ _ _ h2]

/-- A precise fault enters the handler with nothing of the instruction done, where no load of the context is under way (R317,
R414). -/
theorem issueWith_fault {f : Form} {cost : Nat} {s t : State} {code val : Nat} (h : Runs f cost s) (hl : s.me.loads = [])
    (warns named isFmtp : Bool) (rep : State → Nat × Nat × Nat) {body : State → Res} (hb : body s = .fault t code val) :
    issueWith f cost warns named isFmtp rep body s =
      .next (t.enterTrap s.cur.core s.cur.ctx (causeWord code false 0 0 0 0) (BitVec.ofNat 64 val) s.me.pc) := by
  rw [issueWith_runs h, hb]
  simp [hl]

/-- A choice between next states is a next state. -/
theorem ite_next {c : Prop} [Decidable c] {a b : Host.Outcome State Fault Refusal} (ha : ∃ t, a = .next t)
    (hb : ∃ t, b = .next t) : ∃ t, (if c then a else b) = .next t := by
  split
  · exact ha
  · exact hb

/-- Whatever a body does, the issue of an existing context answers a next state. -/
theorem issueWith_next (f : Form) (cost : Nat) (warns named isFmtp : Bool) (rep : State → Nat × Nat × Nat)
    (body : State → Res) (s : State) (h : s.agentOk = true) :
    ∃ t, issueWith f cost warns named isFmtp rep body s = .next t := by
  unfold issueWith
  simp only [h, Bool.not_true, Bool.false_eq_true, if_false]
  refine ite_next ⟨_, rfl⟩ (ite_next ⟨_, rfl⟩ (ite_next ⟨_, rfl⟩ (ite_next ⟨_, rfl⟩ ?_)))
  cases body s <;> first | exact ⟨_, rfl⟩ | exact ite_next ⟨_, rfl⟩ ⟨_, rfl⟩

/-! The frame of an instruction that completes. -/

theorem StateAs.rest {n c : Nat} {s t : State} (h : StateAs n c t s) (hn : n = s.cur.core) (hc : c = s.cur.ctx) :
    RestKept s t := by
  subst hn hc
  exact ⟨h.cur, h.clk, h.others, h.tracks, h.caches, h.shared, h.windows, h.work⟩

theorem State.physByte_congr {s t : State} (hm : t.mem = s.mem) (hc : t.c2 = s.c2) (a : Nat) :
    t.physByte a = s.physByte a := by
  unfold State.physByte State.lineOf
  rw [hm, hc]

theorem StateAs.memKept {n c : Nat} {s t : State} (h : StateAs n c t s) : MemKept s t :=
  ⟨State.physByte_congr h.mem.1 h.mem.2.1, h.mem.2.2.1, h.mem.2.2.2⟩

theorem RestKept.trans {s t u : State} (h : RestKept s t) (g : RestKept t u) : RestKept s u where
  cur := g.cur.trans h.cur
  clk := g.clk.trans h.clk
  others n c hn := (g.others n c (by rw [h.cur]; exact hn)).trans (h.others n c hn)
  tracks n := ⟨(g.tracks n).1.trans (h.tracks n).1, (g.tracks n).2.trans (h.tracks n).2⟩
  caches n := ⟨(g.caches n).1.trans (h.caches n).1, (g.caches n).2.trans (h.caches n).2⟩
  shared n := ⟨(g.shared n).1.trans (h.shared n).1, (g.shared n).2.trans (h.shared n).2⟩
  windows := ⟨g.windows.1.trans h.windows.1, g.windows.2.trans h.windows.2⟩
  work := ⟨g.work.1.trans h.work.1, g.work.2.1.trans h.work.2.1, g.work.2.2.1.trans h.work.2.2.1,
    g.work.2.2.2.trans h.work.2.2.2⟩

theorem MemKept.trans {s t u : State} (h : MemKept s t) (g : MemKept t u) : MemKept s u :=
  ⟨fun a => (g.bytes a).trans (h.bytes a), g.poison.trans h.poison, g.flash.trans h.flash⟩

/-- What an instruction's effect keeps, its completion keeps too. -/
theorem State.after_kept (s : State) (cost : Nat) (warns : Bool) (npc : Word) (t : State) (w : May) (h : Kept w s t) :
    Kept w s (s.after cost warns npc t) := by
  have hc := h.rest.cur
  have ha := State.after_as s cost warns npc t hc
  have hme : CtxAs (s.after cost warns npc t).me t.me := by
    rw [State.me_eq (ha.cur.trans hc), State.me_eq hc]; exact ha.me
  refine ⟨⟨fun r hr => (hme.sreg r).trans (h.regs.scalars r hr), fun r hr => (hme.vreg r).trans (h.regs.vectors r hr),
    fun r hr => (hme.mreg r).trans (h.regs.masks r hr),
    fun hw => ⟨hme.acc.trans (h.regs.accs hw).1, hme.accSum.trans (h.regs.accs hw).2⟩,
    fun f hf => (hme.fent f).trans (h.regs.fmts f hf), fun g hg => (hme.guard g).trans (h.regs.slots g hg),
    fun n hn hn' => (hme.sr n hn').trans (h.regs.srs n hn hn'), ?_, ?_⟩, h.rest.trans (ha.rest (by rw [hc]) (by rw [hc])),
    h.mem.trans ha.memKept⟩
  · intro hw i hi h1
    exact ((State.after_me s cost warns npc t hc).2.2.2.2.2 i hi (by rintro rfl; simp at h1) (by rintro rfl; simp at h1)).trans
      (h.regs.stat hw i hi h1)
  · exact ⟨hme.signal.1.trans h.regs.signal.1, hme.signal.2.1.trans h.regs.signal.2.1,
      hme.signal.2.2.1.trans h.regs.signal.2.2.1, hme.signal.2.2.2.trans h.regs.signal.2.2.2⟩

/-- Completion itself, for an effect that leaves STAT.WARN and the loop registers alone. -/
theorem State.after_completed (s : State) (cost : Nat) (warns : Bool) (npc : Word) (t : State) (hc : t.cur = s.cur)
    (hw : t.me.statBit bWARN = s.me.statBit bWARN) (hl : ∀ n, 0x20 ≤ n → n ≤ 0x2E → t.me.srGet n = s.me.srGet n) :
    Completed warns npc s (s.after cost warns npc t) := by
  obtain ⟨h1, h2, h3, h4, h5, _⟩ := State.after_me s cost warns npc t hc
  have hcg := Ctx.loopEnd_congr _ _ npc 5 hl
  refine ⟨h2.trans hcg.1, fun r hr hs => ?_, h1, by rw [h3, hw], h4⟩
  have hb : 0x20 ≤ r ∧ r ≤ 0x2E := by
    have : ∀ r ∈ endRegs, r ≠ rSTAT → 0x20 ≤ r ∧ r ≤ 0x2E := by decide
    exact this r hr hs
  exact (h5 r hb.1 hb.2).trans (hcg.2 r hb.1 hb.2)

/-- Writing scalar `r` keeps all else. -/
theorem State.putS_kept (s : State) (r : Nat) (w : Word) : Kept { regs := [r] } s (s.putS r w) := by
  have hme : (s.putS r w).me = s.me.setS r w := by simp [State.putS]
  have hcore : ∀ n, (s.putS r w).core n = if n = s.cur.core then (s.core n).setCtx s.cur.ctx (s.me.setS r w) else s.core n := by
    intro n
    show (s.setCtx _ _ _).core n = _
    rw [State.core_setCtx]
    split <;> simp_all
  refine ⟨⟨?_, ?_, ?_, ?_, ?_, ?_, ?_, ?_, ?_⟩, ⟨rfl, rfl, ?_, ?_, ?_, ?_, ⟨rfl, rfl⟩, ⟨rfl, rfl, rfl, rfl⟩⟩,
    ⟨State.physByte_congr rfl rfl, rfl, rfl⟩⟩
  · intro n hn; rw [hme, Ctx.sreg_setS, if_neg (fun h => hn (by simp [h.1]))]
  · intro n _; rw [hme]; simp [Ctx.vreg]
  · intro n _; rw [hme]; simp [Ctx.mreg]
  · intro _; rw [hme]; simp
  · intro n _; rw [hme]; simp [Ctx.fent]
  · intro n _; rw [hme]; simp [Ctx.guard]
  · intro n _ _; rw [hme]; simp
  · intro _ i _ _; rw [hme]; simp [Ctx.statBit]
  · rw [hme]; simp
  · intro n c hn; show (s.setCtx _ _ _).ctx n c = _; rw [State.ctx_setCtx, if_neg hn]
  · intro n; rw [hcore]; split <;> exact ⟨rfl, rfl⟩
  · intro n; rw [hcore]; split <;> exact ⟨rfl, rfl⟩
  · intro n; rw [hcore]; split <;> exact ⟨rfl, rfl⟩

/-- A change of the acting context leaves everything outside it alone. -/
theorem State.setMe_rest (s : State) (x : Ctx) : RestKept s (s.setMe x) := by
  have hcore : ∀ n, (s.setMe x).core n = if n = s.cur.core then (s.core n).setCtx s.cur.ctx x else s.core n := by
    intro n
    show (s.setCtx _ _ _).core n = _
    rw [State.core_setCtx]
    split <;> simp_all
  refine ⟨rfl, rfl, ?_, ?_, ?_, ?_, ⟨rfl, rfl⟩, ⟨rfl, rfl, rfl, rfl⟩⟩
  · intro n c hn; show (s.setCtx _ _ _).ctx n c = _; rw [State.ctx_setCtx, if_neg hn]
  · intro n; rw [hcore]; split <;> exact ⟨rfl, rfl⟩
  · intro n; rw [hcore]; split <;> exact ⟨rfl, rfl⟩
  · intro n; rw [hcore]; split <;> exact ⟨rfl, rfl⟩

theorem State.setMe_memKept (s : State) (x : Ctx) : MemKept s (s.setMe x) :=
  ⟨State.physByte_congr rfl rfl, rfl, rfl⟩

theorem RestKept.refl (s : State) : RestKept s s :=
  ⟨rfl, rfl, fun _ _ _ => rfl, fun _ => ⟨rfl, rfl⟩, fun _ => ⟨rfl, rfl⟩, fun _ => ⟨rfl, rfl⟩, ⟨rfl, rfl⟩, ⟨rfl, rfl, rfl, rfl⟩⟩

theorem MemKept.refl (s : State) : MemKept s s := ⟨fun _ => rfl, rfl, rfl⟩

theorem RegsKept.refl (w : May) (s : State) : RegsKept w s s :=
  ⟨fun _ _ => rfl, fun _ _ => rfl, fun _ _ => rfl, fun _ => ⟨rfl, rfl⟩, fun _ _ => rfl, fun _ _ => rfl, fun _ _ _ => rfl,
   fun _ _ _ _ => rfl, ⟨rfl, rfl, rfl, rfl⟩⟩

theorem Kept.refl (w : May) (s : State) : Kept w s s := ⟨RegsKept.refl w s, RestKept.refl s, MemKept.refl s⟩

/-- Writing one system register keeps every other register. -/
theorem State.srSet_kept (s : State) (n : Nat) (v : Word) (w : May) (hn : n ∈ w.srs) (hs : n ≠ rSTAT) :
    Kept w s (s.setMe (s.me.srSet n v)) := by
  have hme : (s.setMe (s.me.srSet n v)).me = s.me.srSet n v := by simp
  have h0 : (s.me.srSet n v).srGet rSTAT = s.me.srGet rSTAT := by rw [Ctx.srGet_srSet, if_neg (Ne.symm hs)]
  refine ⟨⟨?_, ?_, ?_, ?_, ?_, ?_, ?_, ?_, ?_⟩, State.setMe_rest _ _, State.setMe_memKept _ _⟩
  · intro r _; rw [hme]; rfl
  · intro r _; rw [hme]; rfl
  · intro r _; rw [hme]; rfl
  · intro _; rw [hme]; exact ⟨rfl, rfl⟩
  · intro r _; rw [hme]; rfl
  · intro r _; rw [hme]; rfl
  · intro k hk _; rw [hme, Ctx.srGet_srSet, if_neg (by rintro rfl; exact hk hn)]
  · intro _ i _ _; rw [hme]; exact Ctx.statBit_of_sr h0 i
  · rw [hme]; exact ⟨rfl, rfl, rfl, rfl⟩

/-- An instruction outside the vector majors whose body completes gives the state of its effect, completed. -/
theorem gives_done {i : Instr} {f : Form} {cost : Nat} {s t : State} {w : May} {body : State → Res} (h : Runs f cost s)
    (he : exec i s = issueCost f cost body s) (hb : body s = .done t) (hk : Kept w s t)
    (hs : t.me.statBit bSTEP = s.me.statBit bSTEP) (hw : t.me.statBit bWARN = s.me.statBit bWARN)
    (hl : ∀ n, 0x20 ≤ n → n ≤ 0x2E → t.me.srGet n = s.me.srGet n) :
    Gives i s fun u => CtxAs u.me t.me ∧ Kept w s u ∧ Completed (s.plainWarn f) (s.fall f) s u := by
  have hc := hk.rest.cur
  have ha := State.after_as s cost (s.plainWarn f) (s.fall f) t hc
  refine ⟨s.after cost (s.plainWarn f) (s.fall f) t, ?_, ?_, State.after_kept _ _ _ _ _ _ hk,
    State.after_completed _ _ _ _ _ hc hw hl⟩
  · rw [he]; unfold issueCost
    rw [issueWith_done h (scalarWarn f false) false noReport hb hc hs]
    simp [State.plainWarn]
  · rw [State.me_eq (ha.cur.trans hc), State.me_eq hc]; exact ha.me

/-- The same of a branch. -/
theorem gives_jump {i : Instr} {f : Form} {cost : Nat} {s t : State} {w : May} {pc : Word} {body : State → Res}
    (h : Runs f cost s) (he : exec i s = issueCost f cost body s) (hb : body s = .jump t pc) (hk : Kept w s t)
    (hs : t.me.statBit bSTEP = s.me.statBit bSTEP) (hw : t.me.statBit bWARN = s.me.statBit bWARN)
    (hl : ∀ n, 0x20 ≤ n → n ≤ 0x2E → t.me.srGet n = s.me.srGet n) :
    Gives i s fun u => CtxAs u.me t.me ∧ Kept w s u ∧ Completed (s.plainWarn f) pc s u := by
  have hc := hk.rest.cur
  have ha := State.after_as s cost (s.plainWarn f) pc t hc
  refine ⟨s.after cost (s.plainWarn f) pc t, ?_, ?_, State.after_kept _ _ _ _ _ _ hk,
    State.after_completed _ _ _ _ _ hc hw hl⟩
  · rw [he]; unfold issueCost
    rw [issueWith_jump h (scalarWarn f false) false noReport hb hc hs]
    simp [State.plainWarn]
  · rw [State.me_eq (ha.cur.trans hc), State.me_eq hc]; exact ha.me

/-- A precise fault of an instruction outside the vector majors. -/
theorem traps_fault {i : Instr} {f : Form} {cost : Nat} {s : State} {code val : Nat} {body : State → Res} (h : Runs f cost s)
    (he : exec i s = issueCost f cost body s) (hb : body s = .fault s code val) : Traps i s code val := by
  intro hl; rw [he]; unfold issueCost; rw [issueWith_fault h hl _ _ _ _ hb]

end Sys2Proof.Machine
end

