-- ==== Sys2Proof/Tests/Slice0.lean ====
section
/-! SUPPORT. The model's own tests: words written out from the encoding tables, ill-formed terms that WellFormed refuses,
small steps with results from the spec, and states that meet the hypotheses of the statements. -/
open Sys2Proof Sys2Proof.Machine

namespace Sys2Proof.Tests

set_option Elab.async false

/-! Builders. -/

/-- An instruction's form without a prefix, under p0. -/
def form (d a b : Operand := .none) : Form := ⟨0, Vx.default, false, 0, .plain false false 0, d, a, b⟩

/-- A form whose guard p0 with sense 1 never passes (R242). -/
def skipped (d a b : Operand := .none) : Form := { form d a b with gs := true }

/-- The machine after reset with a context about to run, changed by `x`. -/
def at_ (core c : Nat) (x : Ctx → Ctx := id) : State :=
  ({ State.reset with cur := ⟨core, c, .context⟩ } : State).modCtx core c fun y => x { y with st := .ready, idle := false }

/-- Scalars written one after another. -/
def regs (l : List (Nat × Word)) (x : Ctx) : Ctx := l.foldl (fun x r => x.setS r.1 r.2) x

/-- The core of the acting agent changed. -/
def onCore (g : Core → Core) (s : State) : State := s.modCore s.cur.core g

/-- The acting context with a load under way into a scalar, the loop-back one of the mesh window where `loop`. -/
def withLoad (r : Nat) (s : State) : State := s.modMe fun x => { x with loads := [(5, .scalar r 8 true, 0)] }

/-- A posted store of the acting context in flight. -/
def withStore (s : State) : State :=
  onCore (fun k => { k with journal := [(0, ⟨1, 0x1000, 0, 3, s.cur.ctx, 0, false, false, false, false, none, none⟩)] }) s

/-- A sequencer of a core about to run a command. -/
def seqAt (core c : Nat) (u : AgentUnit) (q : Seq → Seq := id) : State :=
  ({ at_ core c with cur := ⟨core, c, u⟩ } : State).modSeq fun r => q { r with live := true }

/-- A step's next state, where there is one. -/
def next (o : Host.Outcome State Fault Refusal) : Option State :=
  match o with
  | .next t => some t
  | _ => none

/-- A property of the next state of an instruction. -/
def gives (i : Instr) (s : State) (p : State → Bool) : Bool :=
  match exec i s with
  | .next t => p t
  | _ => false

/-- `Runs` as a Bool. -/
def runsB (f : Form) (cost : Nat) (s : State) : Bool :=
  s.agentOk && s.cur.unit == .context && (s.me.block.map (·.phase)).getD 0 == 0 && s.me.pred f.gp != f.gs &&
  s.myCore.canPay cost && !s.me.statBit bSTEP && (s.me.awaited f).isEmpty

theorem runs_of (f : Form) (cost : Nat) (s : State) (h : runsB f cost s = true) : Runs f cost s := by
  simp only [runsB, Bool.and_eq_true, beq_iff_eq, bne_iff_ne, Bool.not_eq_true', List.isEmpty_iff] at h
  exact ⟨h.1.1.1.1.1.1, h.1.1.1.1.1.2, h.1.1.1.1.2, h.1.1.1.2, h.1.1.2, h.1.2, h.2⟩

theorem runs_all {α : Type} (l : List α) (f : α → Form) (cost : Nat) (s : α → State)
    (h : l.all (fun a => runsB (f a) cost (s a)) = true) : ∀ a ∈ l, Runs (f a) cost (s a) :=
  fun a ha => runs_of _ _ _ (List.all_eq_true.mp h a ha)

theorem all_of {α : Type} {P : α → Prop} [DecidablePred P] {l : List α} (h : l.all (fun a => decide (P a)) = true) :
    ∀ a ∈ l, P a := fun a ha => of_decide_eq_true (List.all_eq_true.mp h a ha)

/-- `Skips` as a Bool. -/
def skipsB (f : Form) (s : State) : Bool :=
  s.agentOk && s.cur.unit == .context && (s.me.block.map (·.phase)).getD 0 == 0 && s.me.pred f.gp == f.gs &&
  s.myCore.canPay 4 && !s.me.statBit bSTEP

theorem skips_of (f : Form) (s : State) (h : skipsB f s = true) : Skips f s := by
  simp only [skipsB, Bool.and_eq_true, beq_iff_eq, Bool.not_eq_true'] at h
  exact ⟨h.1.1.1.1.1, h.1.1.1.1.2, h.1.1.1.2, h.1.1.2, h.1.2, h.2⟩

/-- `Commands` as a Bool. -/
def commandsB (f : Form) (u : AgentUnit) (cost : Nat) (s : State) : Bool :=
  s.agentOk && s.cur.unit == u && u != .context && slotOk f && (gapOf f == 0 || s.mySeq.gapped) && !s.mySeq.skip &&
  s.myCore.canPay cost

theorem commands_of (f : Form) (u : AgentUnit) (cost : Nat) (s : State) (h : commandsB f u cost s = true) :
    Commands f u cost s := by
  simp only [commandsB, Bool.and_eq_true, Bool.or_eq_true, beq_iff_eq, bne_iff_ne, Bool.not_eq_true'] at h
  exact ⟨h.1.1.1.1.1.1, ⟨h.1.1.1.1.1.2, h.1.1.1.1.2⟩, h.1.1.1.2, h.1.1.2, h.1.2, h.2⟩

/-! Decoding: one word of every major, its parcels written out from R241 and R244. -/

theorem test_decode_add : decodeParcels .empty [0x00000000, 0x10003100, 0x01100002] =
    .ok (.add (form (.scalar 3) (.scalar 1) (.scalar 2)), []) := rfl
theorem test_decode_br : decodeParcels .empty [0x100C0000, 0x00000000, 0x00FFFFFD] =
    .ok (.br (form .none .none (.imm 24 0xFFFFFD)), []) := rfl
theorem test_decode_start : decodeParcels .empty [0x200C0000, 0x10004100, 0x09100002] =
    .ok (.start (form (.scalar 4) (.scalar 9) (.scalar 2)), []) := rfl
theorem test_decode_send : decodeParcels .empty [0x30000000, 0x90005100, 0x01B00202] =
    .ok (.send (form (.chan 5) (.scalar 1) (.la 2 8)), []) := rfl
theorem test_decode_load : decodeParcels .empty [0x40100000, 0x10003CFF, 0x04000000] =
    .ok (.ld .w (form (.scalar 3) (.bo 4 (-4)) .none), []) := rfl
theorem test_decode_atom : decodeParcels .empty [0x42C40000, 0x10003C00, 0x04100005] =
    .ok (.atomAdd true .ar (form (.scalar 3) (.bo 4 0) (.scalar 5)), []) := rfl
theorem test_decode_cas : decodeParcels .empty [0x43000000, 0x10003C00, 0x04100005] =
    .ok (.cas false .rlx (form (.scalar 3) (.bo 4 0) (.scalar 5)), []) := rfl
theorem test_decode_tseek : decodeParcels .empty [0x50040000, 0x60007E00, 0x64000000] =
    .ok (.tseek (form (.track 7 0 false) (.imm 16 100) .none), []) := rfl
theorem test_decode_acopy : decodeParcels .empty [0x60000000, 0xC0001B00, 0x02100003] =
    .ok (.acopy (form (.bo 1 0) (.la 2 0) (.scalar 3)), []) := rfl
theorem test_decode_vadd : decodeParcels .empty [0x70000000, 0x20023200, 0x21200022] =
    .ok (.vadd (form (.vec 3 1) (.vec 1 1) (.vec 2 1)), []) := rfl
theorem test_decode_vld : decodeParcels .empty [0x80000000, 0x20001C00, 0x02000000] =
    .ok (.vld (form (.vec 1 0) (.bo 2 0) .none), []) := rfl
theorem test_decode_vexp2 : decodeParcels .empty [0x90080000, 0x20002200, 0x01000000] =
    .ok (.vexp2 (form (.vec 2 0) (.vec 1 0) .none), []) := rfl
theorem test_decode_mma : decodeParcels .empty [0xA0040000, 0x50001B00, 0x02B00003] =
    .ok (.mma (form (.acc 1 0) (.la 2 0) (.la 3 0)), []) := rfl
theorem test_decode_kvapp : decodeParcels .empty [0xB0000000, 0x00000B00, 0x02000000] =
    .ok (.kvapp (form .none (.la 2 0) .none), []) := rfl
theorem test_decode_fmtset : decodeParcels .empty [0xC0000000, 0x80009100, 0x01000000] =
    .ok (.fmtset (form (.fmt 9) (.scalar 1) .none), []) := rfl
theorem test_decode_ejmp : decodeParcels .empty [0xD00C0000, 0x00000000, 0x00FFFFFE] =
    .ok (.ejmp (form .none .none (.imm 24 0xFFFFFE)), []) := rfl

/-- The bytes of a word in memory order, and the table's numbering of its bits. -/
theorem test_decode_table : decodeTableWord 96 0x01100002_10003100_00000000 =
    some (.add (form (.scalar 3) (.scalar 1) (.scalar 2))) := by decide +kernel

/-! WellFormed refuses a term for each of its checks. -/

theorem test_wf_accepts : (Instr.add (form (.scalar 63) (.scalar 0) (.imm 20 0xFFFFF))).wf = true := by decide

/-- A register, entry, condition code, number, displacement or immediate out of its field. -/
theorem test_wf_fields : ([
    .add (form (.scalar 64) (.scalar 0) (.scalar 0)), .vadd (form (.vec 32 0) (.vec 0 0) (.vec 0 0)),
    .vadd (form (.vec 0 32) (.vec 0 0) (.vec 0 0)), .cmp (form (.pred 16 0) (.scalar 0) (.scalar 0)),
    .cmp (form (.pred 1 10) (.scalar 0) (.scalar 0)), .vcmp (form (.mask 8 0) (.vec 0 0) (.vec 0 0)),
    .vcmp (form (.mask 1 10) (.vec 0 0) (.vec 0 0)), .macz (form (.acc 2 0)), .macz (form (.acc 0 32)),
    .trew (form (.track 256 0 false)), .trew (form (.track 0 4 false)), .gset (form (.slot 16) (.scalar 0)),
    .fmtset (form (.fmt 32) (.scalar 0)), .rprobe (form (.scalar 0) (.chan 16)),
    .mfsr (form (.scalar 0) (.sysreg 4096)), .ld .d (form (.scalar 0) (.la 64 0)), .ld .d (form (.scalar 0) (.la 0 512)),
    .ld .d (form (.scalar 0) (.bo 0 (-513))), .recv (form (.scalar 0) (.chan 0) (.la 0 8192)),
    .vadd { form (.vec 0 0) (.shape 64 0) (.vec 0 0) with npfx := 1 }, .add (form (.scalar 0) (.scalar 0) (.imm 16 0)),
    .add (form (.scalar 0) (.scalar 0) (.imm 20 (2 ^ 20))), .trap (form .none (.imm 16 (2 ^ 16)))] : List Instr).all
    (fun i => !i.wf) = true := by decide +kernel

/-- A kind that the form does not list, an undefined system register, a condition code where none stands, p0 and m0 as
destinations, prefix fields without a prefix or out of range, a guard or hint out of range, and an event. -/
theorem test_wf_forms : ([
    .add (form (.vec 0 0) (.scalar 0) (.scalar 0)), .addi (form (.scalar 0) (.scalar 0) (.imm 20 0)), .mfsr (form (.scalar 0) (.sysreg 0x00C)),
    .sel (form (.scalar 0) (.pred 1 1) (.scalar 0)), .cmp (form (.pred 0 0) (.scalar 0) (.scalar 0)),
    .vcmp (form (.mask 0 0) (.vec 0 0) (.vec 0 0)), .nop { form with vx := { Vx.default with mz := true } },
    .nop { form with npfx := 1, vx := { Vx.default with mask := 8 } }, .nop { form with npfx := 1, vx := { Vx.default with rnd := 8 } },
    .nop { form with npfx := 1, vx := { Vx.default with op4 := some 32 } }, .nop { form with gp := 16 },
    .nop { form with hint := .stamp 4096 }, .nop { form with hint := .plain false false 16 }, .tokenGrant] : List Instr).all
    (fun i => !i.wf) = true := by decide +kernel

/-! Witnesses: states and operands that meet the hypotheses of each statement, at the boundaries of its clauses. -/

theorem ok_of {α : Type} {e : Except Flt α} {x : α} (h : e.toOption = some x) : e = .ok x := by
  cases e with
  | error _ => cases h
  | ok y => exact congrArg _ (Option.some.inj h)

/-- The fault of a result. -/
def errOf {α : Type} : Except Flt α → Option Flt
  | .error e => some e
  | .ok _ => none

theorem err_of {α : Type} {e : Except Flt α} {x : Flt} (h : errOf e = some x) : e = .error x := by
  cases e with
  | error _ => exact congrArg _ (Option.some.inj h)
  | ok _ => cases h

/-- Three scalars. -/
def sss : Form := form (.scalar 3) (.scalar 1) (.scalar 2)

/-! Steps with results that the spec states. -/

/-- The lanes of a vector of 32-bit elements. -/
def lanes32 (l : List Nat) : VWord := BitVec.ofNat 512 (l.foldr (fun v n => v + 2 ^ 32 * n) 0)

/-- R278: scalar results wrap modulo 2^64. -/
theorem test_add_wraps : gives (.add sss) (at_ 0 0 (regs [(1, 0xFFFFFFFFFFFFFFFF), (2, 2)])) (fun t => t.me.sreg 3 == 1) = true := by
  decide +kernel

/-- R280: the high halves of (-1) times 2, signed and natural. -/
theorem test_mulh_signs :
    (gives (.mulh sss) (at_ 0 0 (regs [(1, -1), (2, 2)])) (fun t => t.me.sreg 3 == -1) &&
      gives (.mulhn sss) (at_ 0 0 (regs [(1, -1), (2, 2)])) fun t => t.me.sreg 3 == 1) = true := by decide +kernel

/-- R281: the quotient is rounded toward zero and the remainder has the dividend's sign; the most negative number over -1. -/
theorem test_div_rounds_toward_zero :
    (gives (.div sss) (at_ 0 0 (regs [(1, -7), (2, 2)])) (fun t => t.me.sreg 3 == -3) &&
      gives (.rem sss) (at_ 0 0 (regs [(1, -7), (2, 2)])) (fun t => t.me.sreg 3 == -1) &&
      gives (.div sss) (at_ 0 0 (regs [(1, 0x8000000000000000), (2, -1)])) fun t => t.me.sreg 3 == 0x8000000000000000) = true := by
  decide +kernel

/-- R280: bits above [5:0] of a shift's count are ignored. -/
theorem test_shift_count : gives (.sar sss) (at_ 0 0 (regs [(1, -16), (2, 66)])) (fun t => t.me.sreg 3 == -4) = true := by decide +kernel

/-- R280: the leading zeros of 0 are 64; the destination is the source too. -/
theorem test_clz_zero : gives (.clz (form (.scalar 1) (.scalar 1))) (at_ 0 0) (fun t => t.me.sreg 1 == 64) = true := by decide +kernel

/-- R282: 0x1C4 extracts bits [11:4]. -/
theorem test_bfx_field :
    gives (.bfx (form (.scalar 3) (.scalar 1) (.imm 20 0x1C4))) (at_ 0 0 (regs [(1, 0xABCD)])) (fun t => t.me.sreg 3 == 0xBC) = true := by
  decide +kernel

/-- R283: step 1 keeps bits [23:0] and sign-extends its immediate above them. -/
theorem test_movi_step :
    gives (.movi (form (.scalar 3) (.imm 16 1) (.imm 24 0xFFFFFE))) (at_ 0 0 (regs [(3, 0x123456)]))
      (fun t => t.me.sreg 3 == 0xFFFFFFFFFE123456) = true := by decide +kernel

/-- R286: truth table 8 with q = 2 is the conjunction of p1 and p2. -/
theorem test_pset_table :
    ([(false, false), (false, true), (true, false), (true, true)].all fun p =>
      gives (.pset (form (.pred 3 0) (.pred 1 0) (.imm 20 0x82))) (at_ 0 0 fun x => (x.setPred 1 p.1).setPred 2 p.2)
        fun t => t.me.pred 3 == (p.1 && p.2)) = true := by decide +kernel

/-- R246: s0 reads 0 and discards what is written to it. -/
theorem test_s0_discards : gives (.addi (form (.scalar 0) (.scalar 0) (.imm 24 5))) (at_ 0 0) (fun t => t.me.sreg 0 == 0) = true := by
  decide +kernel

/-- R279, R287: the link is the address after the word; the target counts parcels from the word. -/
theorem test_call_links :
    gives (.call (form .none .none (.imm 24 0xFFFFFD))) (at_ 0 0 fun x => { x with pc := 0x1000 })
      (fun t => t.me.pc == 0xFF4 && t.me.sreg 63 == 0x100C) = true := by decide +kernel

/-- R289: a loop of 3 passes holds the 2 that follow the first. -/
theorem test_loop_count :
    gives (.loop (form (.imm 16 6) (.scalar 1))) (at_ 0 0 fun x => regs [(1, 3)] { x with pc := 0x1000 })
      (fun t => t.me.pc == 0x100C && t.me.srGet (rLS 0) == 0x100C && t.me.srGet (rLE 0) == 0x1018 && t.me.srGet (rLC 0) == 2 &&
        t.me.srGet rLOOPST == 1) = true := by decide +kernel

/-- The worked example of spec/15_vector_instructions.md ("Keeping the positive scores"): its 16 FP32 values. -/
def scores : VWord := lanes32 [0x3FC00000, 0xC0000000, 0x3E800000, 0, 0x40400000, 0xBF000000, 0x40800000, 0x3F800000, 0xBF800000,
  0x3F000000, 0x40200000, 0xC0400000, 0x3F400000, 0xC0800000, 0x40C00000, 0]

/-- Step 2 of the example. -/
theorem test_vcmp_mask :
    gives (.vcmp (form (.mask 1 4) (.vec 1 0) (.imm 20 0))) (at_ 0 0 fun x => x.setV 1 scores) (fun t => t.me.mreg 1 == 0x56D5) = true := by
  decide +kernel

/-- Its positive values, in lanes 0 to 8. -/
def kept : VWord := lanes32 [0x3FC00000, 0x3E800000, 0x40400000, 0x40800000, 0x3F800000, 0x3F000000, 0x40200000, 0x3F400000, 0x40C00000]

/-- Step 3: the tail is zeroed and VCNT counts. -/
theorem test_vcmpr_compresses :
    gives (.vcmpr { form (.vec 2 0) (.vec 1 0) with npfx := 1, vx := { Vx.default with mask := 1 } })
      (at_ 0 0 fun x => (x.setV 1 scores).setM 1 0x56D5) (fun t => t.me.vreg 2 == kept && t.me.srGet rVCNT == 9) = true := by
  decide +kernel

/-- Step 4: the sum is 19.5, exactly, with the other lanes zero. -/
theorem test_vred_sums :
    gives (.vred (form (.vec 3 0) (.vec 2 0) (.imm 20 0))) (at_ 0 0 fun x => x.setV 2 kept)
      (fun t => t.me.vreg 3 == 0x419C0000 && t.me.srGet rFCSR == 1) = true := by decide +kernel

/-- R226 and its example: 300.0 to f3 gives 288; 500.0 overflows to 448 with OF and NX; 460.0 gives 448 with NX. -/
theorem test_vcvt_rounds :
    ([(0x43960000, 0x79, 0x101), (0x43FA0000, 0x7E, 0x141), (0x43E60000, 0x7E, 0x101)].all fun (v : Nat × Nat × Word) =>
      gives (.vcvt (form (.vec 3 3) (.vec 1 0))) (at_ 0 0 fun x => x.setV 1 (lanes32 [v.1]))
        fun t => bits (t.me.vreg 3).toNat 0 8 == v.2.1 && t.me.srGet rFCSR == v.2.2) = true := by decide +kernel

/-- R346: integer results wrap modulo 2^w. -/
theorem test_vadd_int8_wraps :
    gives (.vadd (form (.vec 3 5) (.vec 1 5) (.vec 2 5))) (at_ 0 0 fun x => (x.setV 1 0x7F01).setV 2 0x0101) (fun t => t.me.vreg 3 == 0x8002) = true := by
  decide +kernel

/-- R46: a target above 255 raises TRKRANGE and leaves the head. -/
theorem test_tseek_range :
    gives (.tseek (form (.track 240 0 false) (.imm 20 256))) (at_ 0 0)
      (fun t => (t.track 0 240).head == 0 && bits (t.me.srGet (rTCAUSE 1)).toNat 0 8 == 0x12 && t.me.tlvl == 1) = true := by
  decide +kernel

/-- R416: entry at level 1 saves the pc and goes to TVEC. -/
theorem test_trap_goes_to_tvec :
    gives (.div sss) (at_ 0 0 fun x => (({ x with pc := 0x1000 } : Ctx).srSet rTVEC 0x2000).setStat bDZE true)
      (fun t => t.me.pc == 0x2000 && t.me.srGet (rTRET 1) == 0x1000 && bits (t.me.srGet (rTCAUSE 1)).toNat 0 8 == 0x20 && t.me.tlvl == 1) = true := by
  decide +kernel

theorem wit_ScalarResults : Runs sss 4 (at_ 0 0) := runs_of _ _ _ (by decide +kernel)

theorem wit_DivideResults :
    (Runs sss 4 (at_ 0 0 (regs [(2, 7)])) ∧ (at_ 0 0 (regs [(2, 7)])).me.opS sss.b ≠ 0) ∧
    (Runs sss 4 (at_ 0 0) ∧ (at_ 0 0).me.opS sss.b = 0 ∧ (at_ 0 0).me.statBit bDZE = false) ∧
    (Runs sss 4 (at_ 0 0 (·.setStat bDZE true)) ∧ (at_ 0 0 (·.setStat bDZE true)).me.opS sss.b = 0 ∧
      (at_ 0 0 (·.setStat bDZE true)).me.statBit bDZE = true) :=
  ⟨⟨runs_of _ _ _ (by decide +kernel), by decide +kernel⟩, ⟨runs_of _ _ _ (by decide +kernel), by decide +kernel, by decide +kernel⟩,
    runs_of _ _ _ (by decide +kernel), by decide +kernel, by decide +kernel⟩

/-- MOVI of step `k` with an immediate. -/
def moviF (k v : Nat) : Form := form (.scalar 3) (.imm 16 k) (.imm 24 v)

/-- The steps and immediates at MOVI's boundaries. -/
def moviCases : List (Nat × Nat) := [(0, 2 ^ 24 - 1), (1, 2 ^ 24 - 1), (2, 2 ^ 16 - 1), (2, 2 ^ 16), (3, 0), (2 ^ 16 - 1, 0)]

theorem wit_BitFieldAndMoveResults : Runs sss 4 (at_ 0 0) ∧
    (∀ p ∈ moviCases, Runs (moviF p.1 p.2) 4 (at_ 0 0)) ∧
    ∀ p ∈ moviCases, (moviF p.1 p.2).b = .imm 24 p.2 ∧ p.2 < 2 ^ 24 ∧ (moviF p.1 p.2).a.immU = p.1 :=
  ⟨runs_of _ _ _ (by decide +kernel), runs_all _ _ _ _ (by decide +kernel), by decide +kernel⟩

/-- PSET of two predicates. -/
def psetF (v : Nat) : Form := form (.pred 3 0) (.pred 1 0) (.imm 20 v)

theorem wit_CompareResults :
    (∀ cc ∈ List.range 10, Runs (form (.pred 3 cc) (.scalar 1) (.scalar 2)) 4 (at_ 0 0)) ∧
    (∀ v ∈ [0, 255, 256, 2 ^ 20 - 1], Runs (psetF v) 4 (at_ 0 0)) ∧
    (∀ v ∈ [0, 255, 256, 2 ^ 20 - 1], (psetF v).a = .pred 1 0 ∧ (psetF v).b = .imm 20 v) ∧
    Runs (form (.pred 3 0) (.scalar 1) .none) 4 (at_ 0 0) :=
  ⟨runs_all _ _ _ _ (by decide +kernel), runs_all _ _ _ _ (by decide +kernel), by decide +kernel,
    runs_of _ _ _ (by decide +kernel)⟩

/-- JMP or RET through s1. -/
def via : Form := form .none (.scalar 1) (.imm 24 0)

theorem wit_BranchTargets :
    (Runs via 4 (at_ 0 0 (regs [(1, 0x1000)])) ∧ canonical 0x1000 = true ∧ (0x1000 : Word).toNat % 4 = 0) ∧
    (Runs via 4 (at_ 0 0 (regs [(1, 1 <<< 55)])) ∧ canonical (1 <<< 55) = false) ∧
    (Runs via 4 (at_ 0 0 (regs [(1, 2)])) ∧ canonical 2 = true ∧ (2 : Word).toNat % 4 ≠ 0) ∧
    (Runs via 4 (withLoad 63 (at_ 0 0)) ∧ (withLoad 63 (at_ 0 0)).me.awaiting [63] = [5] ∧ (at_ 0 0).me.awaiting [63] = []) ∧
    Skips (skipped .none (.scalar 1) (.imm 24 0)) (at_ 0 0) :=
  ⟨⟨runs_of _ _ _ (by decide +kernel), by decide +kernel, by decide +kernel⟩, ⟨runs_of _ _ _ (by decide +kernel), by decide +kernel⟩,
    ⟨runs_of _ _ _ (by decide +kernel), by decide +kernel, by decide +kernel⟩,
    ⟨runs_of _ _ _ (by decide +kernel), by decide +kernel⟩, skips_of _ _ (by decide +kernel)⟩

/-- Translation entries of every die that map pages 0 to 0xFFFF of ASID 0 to the same physical addresses with every right. -/
def mapped (s : State) : State :=
  { s with tlb := (List.range 4).map fun d => ⟨d, 0, ⟨0, 2 ^ 16, true, true, true, 0, 0, 0, 0, 0, false⟩⟩ }

/-- The machine after its bring-up (R454). -/
def up (s : State) : State := { s with pkg := { s.pkg with fwStat := 1 } }

/-- A context about to run an instruction at address 0, its bytes written out by the encoder. -/
def fetching (i : Instr) : State :=
  (mapped (up (at_ 0 0))).physWrite 0 12 ((((encode i).getD []).foldr (fun v n => v + 2 ^ 32 * n) 0) % 2 ^ 96)

/-- A REALIGN of no cycles, under a guard that fails (R242). -/
def noRealign : Instr := .realign (skipped .none (.imm 16 0))

/-- A core with nothing left to draw on. -/
def broke : State := onCore (fun k => { k with purse := 0 }) (at_ 0 0)

theorem wit_GuardAndTokenChecks :
    (Skips (skipped (.scalar 3) (.scalar 1) (.scalar 2)) (at_ 0 0) ∧
      (Instr.add (skipped (.scalar 3) (.scalar 1) (.scalar 2))).form = some (skipped (.scalar 3) (.scalar 1) (.scalar 2))) ∧
    (broke.agentOk = true ∧ broke.cur.unit = .context ∧ (broke.me.block.map (·.phase)).getD 0 = 0 ∧
      broke.me.pred sss.gp ≠ sss.gs ∧ broke.me.awaited sss = [] ∧ broke.myCore.canPay 4 = false) ∧
    (((fetching noRealign).fetch 0 0).1.toOption = some noRealign ∧ badParcel noRealign = some 1 ∧
      (((fetching noRealign).fetch 0 0).2.ctx 0 0).loads = []) :=
  ⟨⟨skips_of _ _ (by decide +kernel), rfl⟩, by decide +kernel, by decide +kernel⟩

/-- A launch record of a slot-less launch with some records left. -/
def launchOf (raw left : Nat) : Launch := ⟨raw, 0, 0, [0], left, [], none, none, false, []⟩

theorem wit_NopAndExitEffects : (Runs form 4 (at_ 0 0) ∧ (at_ 0 0).me.launch = none) ∧
    (let s := { at_ 0 3 (fun x => { x with launch := some 7 }) with launches := [(7, launchOf 0 2)] }
     Runs form 4 s ∧ Runs form 4 (withStore s) ∧ s.me.launch = some 7 ∧ s.launches.find? (·.1 == 7) = some (7, launchOf 0 2) ∧
       (launchOf 0 2).done = false ∧ 1 < (launchOf 0 2).left ∧ s.me.loads = [] ∧ s.myCore.journal = [] ∧
       ((withStore s).myCore.journal.any fun e => e.2.ctx == 3 && e.2.state == 1 && !e.2.orphan && e.2.owed.isNone) = true) :=
  ⟨⟨runs_of _ _ _ (by decide +kernel), by decide +kernel⟩, runs_of _ _ _ (by decide +kernel), runs_of _ _ _ (by decide +kernel),
    by decide +kernel⟩

/-- LOOP with a displacement and a count in s1. -/
def loopF (disp : Nat) : Form := form (.imm 16 disp) (.scalar 1) .none
/-- Loop depth `n` and a count in s1. -/
def loopS (n : Nat) (count : Word) : State := at_ 0 0 fun x => (regs [(1, count)] x).srSet rLOOPST (BitVec.ofNat 64 n)

theorem wit_LoopPushesLevel :
    ∀ p ∈ [(5, 0, (1 : Word)), (6, 0, 0x100000000), (6, 0, 0), (6, 4, 1), (6, 3, 0xFFFFFFFF), (65535, 0, 1)],
      Runs (loopF p.1) 4 (loopS p.2.1 p.2.2) ∧ (loopF p.1).d.immU = p.1 ∧
      fieldOf ((loopS p.2.1 p.2.2).me.srGet rLOOPST) 0 3 = p.2.1 ∧ (loopS p.2.1 p.2.2).me.opS (loopF p.1).a = p.2.2 := by
  intro p hp
  refine ⟨runs_of _ _ _ ?_, rfl, ?_, ?_⟩ <;> revert p <;> decide +kernel

/-- A context in one level that ends at 0x40, with a count. -/
def inLoop (lc : Word) (x : Ctx) : Ctx := ((x.srSet rLOOPST 1).srSet (rLE 0) 0x40).srSet (rLC 0) lc

theorem wit_LoopEndAndBreak :
    fieldOf ((Ctx.reset 0).srGet rLOOPST) 0 3 = 0 ∧
    (fieldOf ((inLoop 1 (Ctx.reset 0)).srGet rLOOPST) 0 3 = 1 ∧ (0x44 : Word) ≠ (inLoop 1 (Ctx.reset 0)).srGet (rLE (1 - 1)) ∧
      (0x40 : Word) = (inLoop 1 (Ctx.reset 0)).srGet (rLE (1 - 1)) ∧ (inLoop 1 (Ctx.reset 0)).srGet (rLC (1 - 1)) ≠ 0) ∧
    (fieldOf ((inLoop 0 (Ctx.reset 0)).srGet rLOOPST) 0 3 = 1 ∧ (0x40 : Word) = (inLoop 0 (Ctx.reset 0)).srGet (rLE 0) ∧
      (inLoop 0 (Ctx.reset 0)).srGet (rLC 0) = 0) ∧
    Runs form 4 (at_ 0 0) ∧
    (∀ le ∈ [(0x40 : Word), 1 <<< 55, 2], Runs form 4 (at_ 0 0 fun x => (inLoop 1 x).srSet (rLE 0) le)) ∧
    (∀ le ∈ [(0x40 : Word), 1 <<< 55, 2], (at_ 0 0 fun x => (inLoop 1 x).srSet (rLE 0) le).me.srGet (rLE 0) = le) ∧
    (canonical (1 <<< 55) = false ∧ canonical 2 = true ∧ canonical 0x40 = true) :=
  ⟨by decide +kernel, by decide +kernel, by decide +kernel, runs_of _ _ _ (by decide +kernel),
    runs_all _ _ _ _ (by decide +kernel), all_of (by decide +kernel), by decide +kernel⟩

theorem wit_TrapEntrySavesState : (at_ 0 0).me.tlvl + 1 ≤ 2 ∧ (at_ 0 0 (·.setTlvl 1)).me.tlvl + 1 = 2 ∧
    (let x := (at_ 0 3 (·.setTlvl 2)).ctx 0 3
     2 ≤ x.tlvl ∧ (3 : Nat) ≠ 0 ∧ x.launch = none ∧ ((at_ 0 3 (·.setTlvl 2)).ctx 0 0).st ≠ .saved ∧
       ((at_ 0 3 (·.setTlvl 2)).ctx 0 0).idle = true) := by decide +kernel

/-- Debug stop enabled. -/
def debugged : State := onCore (fun k => { k with dbgEn := true }) (at_ 0 0)

theorem wit_TrapAndBreakEffects :
    (Runs (form .none (.imm 16 9)) 4 (at_ 0 0) ∧ (at_ 0 0).me.tlvl < 2 ∧ (at_ 0 0).me.loads = [] ∧ (at_ 0 0).myCore.dbgEn = false) ∧
    (Runs (form .none (.imm 16 9)) 4 (at_ 0 0 (·.setTlvl 1)) ∧ (at_ 0 0 (·.setTlvl 1)).me.tlvl = 1) ∧
    (Runs (form .none (.imm 16 9)) 4 debugged ∧ debugged.myCore.dbgEn = true ∧ debugged.myCore.stopped = none ∧ debugged.me.st = .ready) ∧
    Skips (skipped .none (.imm 16 9)) (at_ 0 0) :=
  ⟨⟨runs_of _ _ _ (by decide +kernel), by decide +kernel⟩, ⟨runs_of _ _ _ (by decide +kernel), by decide +kernel⟩,
    ⟨runs_of _ _ _ (by decide +kernel), by decide +kernel⟩, skips_of _ _ (by decide +kernel)⟩

/-- At level 1 by an asynchronous trap that names entry 5, which stands refused. -/
def refusedAt : State :=
  onCore (fun k => { k with journal := [(5, ⟨2, 0x1000, 0, 3, 0, 0x10, false, false, false, false, none, none⟩)] })
    (at_ 0 0 fun x => (x.setTlvl 1).srSet (rTCAUSE 1) (BitVec.ofNat 64 (0x110 + 5 * 2 ^ 9 + 2 ^ 16)))

theorem wit_TrapReturnAndStep :
    (Runs form 4 (at_ 0 0) ∧ (at_ 0 0).me.tlvl = 0 ∧ (at_ 0 0).me.loads = []) ∧
    (Runs form 4 (at_ 0 0 (·.setTlvl 2)) ∧ (at_ 0 0 (·.setTlvl 2)).me.tlvl = 2 ∧ (at_ 0 0 (·.setTlvl 2)).me.loads = [] ∧
      ((at_ 0 0 (·.setTlvl 2)).me.srGet (rTCAUSE 2)).toNat.testBit 8 = false) ∧
    (Runs form 4 refusedAt ∧ refusedAt.me.tlvl = 1 ∧ refusedAt.me.loads = [] ∧ (refusedAt.me.srGet (rTCAUSE 1)).toNat.testBit 8 = true ∧
      (refusedAt.myCore.journal.map (·.1)).Nodup) ∧
    (let s := at_ 0 0 (·.setStat bSTEP true)
     s.agentOk = true ∧ s.cur.unit = .context ∧ (s.me.block.map (·.phase)).getD 0 = 0 ∧ s.me.pred sss.gp ≠ sss.gs ∧
       s.me.awaited sss = [] ∧ s.myCore.canPay 4 = true ∧ s.me.statBit bSTEP = true ∧ s.me.tlvl = 0 ∧ s.me.refusal = false) :=
  ⟨⟨runs_of _ _ _ (by decide +kernel), by decide +kernel⟩, ⟨runs_of _ _ _ (by decide +kernel), by decide +kernel⟩,
    ⟨runs_of _ _ _ (by decide +kernel), by decide +kernel⟩, by decide +kernel⟩

/-- FMTSET of entry `k` from s1. -/
def fmtF (k : Nat) : Form := form (.fmt k) (.scalar 1)

theorem wit_FormatTableAccess :
    (Runs (fmtF 7) 4 (at_ 0 0) ∧ (fmtF 7).d.num < 8) ∧
    (Runs (fmtF 8) 4 (at_ 0 0) ∧ 8 ≤ (fmtF 8).d.num ∧ (((at_ 0 0).me.sreg 1).setWidth 32).getLsbD 31 = false) ∧
    (Runs (fmtF 8) 4 (at_ 0 0 (regs [(1, 0x81C1FEF1)])) ∧ entryLegal 0x81C1FEF1 = true) ∧
    (Runs (fmtF 31) 4 (at_ 0 0 (regs [(1, 0x80000000)])) ∧ entryLegal 0x80000000 = false ∧ (0x80000000 : FmtWord).getLsbD 31 = true) ∧
    Runs (form (.scalar 3) (.fmt 0)) 4 (at_ 0 0) ∧
    (Runs (form (.fmt 12) .none (.fmt 0)) 4 (at_ 0 0) ∧ (Instr.fmtp (form (.fmt 12) .none (.fmt 0))).wf = true) :=
  ⟨⟨runs_of _ _ _ (by decide +kernel), by decide +kernel⟩, ⟨runs_of _ _ _ (by decide +kernel), by decide +kernel⟩,
    ⟨runs_of _ _ _ (by decide +kernel), by decide +kernel⟩, ⟨runs_of _ _ _ (by decide +kernel), by decide +kernel⟩,
    runs_of _ _ _ (by decide +kernel), runs_of _ _ _ (by decide +kernel), by decide +kernel⟩

theorem wit_SystemRegisterAccess :
    (∀ n ∈ [0x000, 0x001, 0x002, 0x004, 0x043, 0x00A, 0x00C, 0x067, 0x068, 0xFFF], Runs (form (.scalar 3) (.sysreg n)) 4 (at_ 0 0)) ∧
    (∀ n ∈ [0x005, 0x017, 0x028, 0x02B, 0x030, 0x004, 0x043, 0x002, 0x042], Runs (form (.sysreg n) (.scalar 1)) 4 (at_ 0 0)) ∧
    (∀ n ∈ [0x001, 0x05F, 0x042], Runs (form (.sysreg n) (.scalar 1)) 4 (at_ 0 3)) ∧ (at_ 0 3).cur.ctx ≠ 0 ∧ (at_ 0 0).me.loads = [] :=
  ⟨runs_all _ _ _ _ (by decide +kernel), runs_all _ _ _ _ (by decide +kernel), runs_all _ _ _ _ (by decide +kernel),
    by decide +kernel⟩

theorem wit_TokenTimeAndCounterResults :
    (∀ k ∈ [(0, 0), (1, 1), (2, 2), (3, 0), (4, 0), (7, 0), (7, 2), (8, 0)],
      Runs (form (.scalar 3) (.imm 16 k.1) (.imm 20 k.2)) 4 (at_ 0 0)) ∧
    (Runs (form (.scalar 3) (.scalar 1)) 4 (at_ 0 3) ∧ (at_ 0 3).cur.ctx ≠ 0 ∧ (at_ 0 0).cur.ctx = 0 ∧ (at_ 0 0).bells = []) ∧
    (∀ a ∈ [(4096 : Word), 4097], Runs (form (.scalar 3) (.scalar 1)) 4 (at_ 0 0 (regs [(1, a)]))) :=
  ⟨runs_all _ _ _ _ (by decide +kernel), ⟨runs_of _ _ _ (by decide +kernel), by decide +kernel⟩,
    runs_all _ _ _ _ (by decide +kernel)⟩

/-- One scalar base, a scalar and an immediate. -/
def rec1 : Form := form (.scalar 3) (.bo 1 0) (.imm 20 0xFFFF)

theorem wit_ReleasesWaitForStores :
    (let s := withLoad 40 (at_ 0 0)
     s.myCore.storesOut s.cur.ctx = false ∧ (5, .scalar 40 8 true, 0) ∈ s.me.loads ∧ s.reqs = [] ∧ s.relWait = some (.loads [5]) ∧ Runs sss 4 s ∧
       (at_ 0 0).me.loads = [] ∧ (at_ 0 0).relWait = none) ∧
    (let s := withStore (at_ 0 0 (regs [(1, 0x1000)]))
     Runs rec1 4 s ∧ s.relWait = some .acks ∧ rec1.b.immU < 2 ^ 16 ∧ rec1.b ≠ .none ∧ (s.me.opAddr rec1.a).toNat % 64 = 0 ∧
       s.checkVa s.me.vf (s.me.opAddr rec1.a) 32 = .ok (.virt 0x1000) ∧ s.checkVa s.me.vf (s.me.opAddr rec1.a) 64 = .ok (.virt 0x1000)) ∧
    (let s := withStore (at_ 0 0 (regs [(1, 0x1000)]))
     Runs sss 4 s ∧ s.relWait = some .acks ∧ canonical (s.me.opS sss.a) = true ∧ (s.me.opS sss.a).toNat % 4 = 0) ∧
    (let s := withStore (at_ 0 3)
     Runs sss 4 s ∧ s.relWait = some .acks ∧ s.cur.ctx ≠ 0) :=
  ⟨⟨by decide +kernel, by decide +kernel, rfl, by decide +kernel, runs_of _ _ _ (by decide +kernel), by decide +kernel⟩,
    ⟨runs_of _ _ _ (by decide +kernel), by decide +kernel, by decide +kernel, by decide +kernel, by decide +kernel, ok_of (by decide +kernel), ok_of (by decide +kernel)⟩,
    ⟨runs_of _ _ _ (by decide +kernel), by decide +kernel⟩, runs_of _ _ _ (by decide +kernel), by decide +kernel⟩

/-- The control context about to START helper `h` at an address. -/
def starting (h a : Word) : State := at_ 0 0 (regs [(3, h), (1, a)])

theorem wit_HelperStartsAndSignals :
    ((∀ a ∈ [(0x1000 : Word), 1 <<< 55, 2], Runs sss 4 (starting 1 a)) ∧ canonical (1 <<< 55) = false ∧ canonical 2 = true) ∧
    (∀ h ∈ [0, 1, 10, 11, 15], Runs sss 4 (starting (BitVec.ofNat 64 h) 0x1000)) ∧
    (∀ h ∈ [0, 1, 10, 11, 15], (starting (BitVec.ofNat 64 h) 0x1000).relWait = none ∧
      fieldOf ((starting (BitVec.ofNat 64 h) 0x1000).me.sreg sss.d.sreg) 0 4 = h) ∧
    (∀ h ∈ [1, 10], ((starting (BitVec.ofNat 64 h) 0x1000).ctx 0 h).st = .free ∧
      (starting (BitVec.ofNat 64 h) 0x1000).mayTake 0 h (starting (BitVec.ofNat 64 h) 0x1000).me.launch = true) ∧
    (let s := (starting 10 0x1000).modCtx 0 10 fun x => { x with st := .ready }
     Runs sss 4 s ∧ (s.ctx 0 10).st ≠ .free) ∧
    (∀ m ∈ [(0 : Word), 1, 0x800, 2, 0x400], Runs sss 4 (at_ 0 0 (regs [(1, m)]))) ∧
    (let s := (at_ 0 0 (regs [(1, 0x402)])).modCtx 0 10 fun x => { x with sigCount := 255, sigKind := 2 }
     Runs sss 4 s ∧ (s.me.opU sss.a).getLsbD 10 = true ∧ (s.ctx 0 10).sigCount ≠ 0 ∧ (s.ctx 0 1).sigCount = 0) ∧
    (let s := at_ 0 10
     Runs form 4 s ∧ s.cur.ctx ≠ 0 ∧ s.relWait = none ∧ s.me.loads = [] ∧ s.me.launch = none ∧ s.me.pending = [] ∧
       s.me.fork = none ∧ s.engineWork s.cur.core s.cur.ctx = false ∧ s.ops = [] ∧ s.myCore.queue = none) :=
  ⟨⟨runs_all _ _ _ _ (by decide +kernel), by decide +kernel⟩,
    runs_all _ _ _ _ (by decide +kernel), all_of (by decide +kernel), all_of (by decide +kernel), ⟨runs_of _ _ _ (by decide +kernel), by decide +kernel⟩, runs_all _ _ _ _ (by decide +kernel),
    ⟨runs_of _ _ _ (by decide +kernel), by decide +kernel⟩, runs_of _ _ _ (by decide +kernel), by decide +kernel⟩

/-- FORK with a matrix program at 0x100 and a copy program at 0xFFF0. -/
def forkF : Form := form .none (.la 1 0) (.la 2 0)
def forking : State := at_ 0 0 (regs [(1, 0x100), (2, 0xFFF0)])

/-- A fork whose programs have ended with their first faults, or run on. -/
def forked (live : Bool) : State := at_ 0 0 fun x => { x with fork := some ⟨⟨live, 0xFF, 0xFFF, 0⟩, ⟨false, 1, 0, 0⟩⟩ }

theorem wit_ForkStartsAndRdvJoins :
    (Runs forkF 4 forking ∧ ownSlot forking (forking.me.opAddr forkF.a) = .ok 0x100 ∧
      ownSlot forking (forking.me.opAddr forkF.b) = .ok 0xFFF0 ∧ forkF.a ≠ .none ∧ forkF.b ≠ .none ∧
      forking.relWait = none ∧ forking.me.awaiting (List.range 16) = [] ∧ forking.me.fork = none ∧ forking.myCore.seqOwner = none) ∧
    (Runs forkF 4 (at_ 0 0 (regs [(1, 0x101)])) ∧ forkSide (at_ 0 0 (regs [(1, 0x101)])) forkF.a = .error (cMISALIGN, 0x101)) ∧
    (Runs forkF 4 (at_ 0 0 (regs [(1, 0x10000)])) ∧ forkSide (at_ 0 0 (regs [(1, 0x10000)])) forkF.a = .error (cLAFLT, 0x10000)) ∧
    (Runs (form (.scalar 3)) 4 (at_ 0 0) ∧ (at_ 0 0).me.fork = none) ∧
    (Runs (form (.scalar 3)) 4 (forked false) ∧ (forked false).me.fork = some ⟨⟨false, 0xFF, 0xFFF, 0⟩, ⟨false, 1, 0, 0⟩⟩ ∧
      (forked false).forkOver 0 0 = true) ∧
    (Runs (form (.scalar 3)) 4 (forked true) ∧ (forked true).me.fork = some ⟨⟨true, 0xFF, 0xFFF, 0⟩, ⟨false, 1, 0, 0⟩⟩ ∧
      (forked true).forkOver 0 0 = false) :=
  ⟨⟨runs_of _ _ _ (by decide +kernel), ok_of (by decide +kernel), ok_of (by decide +kernel), by decide +kernel⟩,
    ⟨runs_of _ _ _ (by decide +kernel), err_of (by decide +kernel)⟩, ⟨runs_of _ _ _ (by decide +kernel), err_of (by decide +kernel)⟩,
    ⟨runs_of _ _ _ (by decide +kernel), by decide +kernel⟩, ⟨runs_of _ _ _ (by decide +kernel), by decide +kernel⟩,
    runs_of _ _ _ (by decide +kernel), by decide +kernel⟩

/-- An instruction with one 16-bit immediate. -/
def immF (v : Nat) : Form := form .none (.imm 16 v)

/-- Two cores of a tile with a context each of launch 7, the first about to REALIGN. -/
def apart : State := (at_ 0 0 fun x => { x with launch := some 7 }).modCtx 7 3 fun x => { x with st := .ready, launch := some 7 }

/-- The second waits at its REALIGN of the same pc; and the first when its window has closed. -/
def meeting : State := apart.modCtx 7 3 fun x => { x with st := .wait, block := some ⟨.realign 0 900, 0, 0⟩ }
def closed : State := apart.modMe fun x => { x with block := some ⟨.realign 0 0, 50, 0⟩ }

theorem wit_GuardYieldAndRealign :
    (∀ v ∈ [(0 : Word), 1, 2, 3], Runs (form (.slot 15) (.scalar 1)) 4 (at_ 0 0 (regs [(1, v)]))) ∧
    (∀ v ∈ [0, 255, 256, 65535, 1, 4095, 4096], Runs (immF v) 4 (at_ 0 0)) ∧ Runs form 4 (at_ 0 0) ∧
    (at_ 0 0).relWait = none ∧ (at_ 0 0).me.statBit bPREQ = false ∧ (at_ 0 0).me.launch = none ∧
    (let s := at_ 0 3 fun x => { x with preq := some ⟨0, 0x8000, true⟩ }.setStat bPREQ true
     Runs form 4 s ∧ Runs form 4 (withStore s) ∧ s.me.statBit bPREQ = true ∧ s.saveReady 0 3 = true ∧ s.me.loads = [] ∧
       s.me.preq = some ⟨0, 0x8000, true⟩ ∧ (withStore s).saveReady 0 3 = false) ∧
    ([1, 4095].all fun v => [apart, meeting, closed].all (runsB (immF v) 4 ·)) = true ∧
    (apart.me.block = none ∧ apart.tileAligned apart.cur.core apart.me.launch apart.me.pc = false ∧
      meeting.tileAligned meeting.cur.core meeting.me.launch meeting.me.pc = true ∧
      closed.me.block = some ⟨.realign 0 0, 50, 0⟩ ∧ 0 ≤ closed.clk) :=
  ⟨runs_all _ _ _ _ (by decide +kernel), runs_all _ _ _ _ (by decide +kernel), runs_of _ _ _ (by decide +kernel),
    by decide +kernel, by decide +kernel, by decide +kernel,
    ⟨runs_of _ _ _ (by decide +kernel), runs_of _ _ _ (by decide +kernel), by decide +kernel⟩, by decide +kernel, by decide +kernel⟩


/-- Function 0 holds super-group 0. -/
def held0 (s : State) : State := { s with pkg := { s.pkg with sgMask := [(0, 1)] } }

/-- A core queue of function 0 with `n` bytes of its ring used, and its spill area full where `full`. -/
def queueOf (full : Bool) : CoreQ :=
  if full then ⟨0, 0, 0x8000, 8, 1, 0, 0, 1, 0, 1, 0, 0, QRun.zero, QRun.zero, 1, 1, [none, none]⟩
  else ⟨0, 0, 0x8000, 8, 0, 0, 0, 0, 0, 0, 0, 0, QRun.zero, QRun.zero, 0, 0, []⟩

/-- A record of the own core with JOIN `j`, and with its lowest reserved bit where `bad`. -/
def recOf (j : Nat) (bad : Bool) : Nat := 0x1000 + j * 2 ^ 128 + (if bad then 2 ^ 174 else 0)

/-- A context that names that record at 0x100 of its stall through the mesh window (R14), or at 0x1000 of memory. -/
def spawning (j n : Nat) (bad full : Bool) : State :=
  onCore (fun k => { k with queue := some (queueOf full) })
    ((held0 (at_ 0 0 (regs [(1, BitVec.ofNat 64 (2 ^ 64 - 2 ^ 56 + meshBase + 0x100)), (2, BitVec.ofNat 64 n)]))).stallWrite 0 0x100 32 (recOf j bad))
def spawningAt (j n : Nat) (bad full : Bool) : State :=
  onCore (fun k => { k with queue := some (queueOf full) })
    ((held0 (mapped (at_ 0 0 (regs [(1, 0x1000), (2, BitVec.ofNat 64 n)])))).physWrite 0x1000 32 (recOf j bad))

/-- SPAWN and JOIN of a record at s1. -/
def recF : Form := form (.scalar 3) (.bo 1 0) (.scalar 2)

/-- What the statement asks of a record of the mesh window. -/
def meshRec (s : State) (j n : Nat) (bad : Bool) : Bool :=
  runsB recF 4 s && s.relWait.isNone && (s.checkVa s.me.vf (s.me.opAddr recF.a) 32).toOption == some (.mesh 0 0x100) &&
    (s.stallPoison 0 0x100 32).isNone && s.stallRead 0 0x100 32 == recOf j bad && bits (recOf j bad) 128 32 == j &&
    fieldOf (s.me.opU recF.b) 0 32 == n && s.recordOk s.me (recOf j bad) != bad

/-- The push of the record's continuation from there. -/
def pushedMesh (s : State) (rcd : Nat) : Option State :=
  (s.stallWrite 0 0x110 4 0).pushRecord (bits rcd 160 14) ⟨bits rcd 0 64, bits rcd 64 64, 0, 0, bits rcd 160 14, s.me.asid, 0⟩ s.me.launch

/-- What it asks of the state in which a record of memory has been read. -/
def readsRec (s : State) (rec : Nat) : Bool :=
  let r := readRecord s (s.me.opAddr recF.a)
  runsB recF 4 s && s.relWait.isNone && (s.checkVa s.me.vf (s.me.opAddr recF.a) 32).toOption == some (.virt 0x1000) &&
  (s.ownOut 0x1000).isEmpty && !s.homeWaits ⟨s.cur.core, s.cur.ctx, s.me.vf⟩ s.me.asid 0x1000 .rw &&
  r.1.toOption == some rec && r.2.cur == s.cur && !r.2.me.statBit bSTEP && !r.2.me.outstanding

/-- The state in which JOIN has been written. -/
def joined (s : State) (n : Nat) : State := (writeJoin (readRecord s (s.me.opAddr recF.a)).2 (s.me.opAddr recF.a) n).2

/-- What it asks of that state. -/
def writesJoin (s : State) (n : Nat) : Bool :=
  (writeJoin (readRecord s (s.me.opAddr recF.a)).2 (s.me.opAddr recF.a) n).1.toOption.isSome && (joined s n).cur == s.cur &&
  !(joined s n).me.statBit bSTEP && !(joined s n).me.outstanding

/-- The push of the record's continuation from there. -/
def pushed (s : State) (rec : Nat) : Option State :=
  (joined s 0).pushRecord (bits rec 160 14) ⟨bits rec 0 64, bits rec 64 64, 0, 0, bits rec 160 14, (joined s 0).me.asid, 0⟩ (joined s 0).me.launch

/-- LAUNCH without B and with it. -/
def lauF (b : Operand) : Form := form (.scalar 3) (.bo 1 0) b

/-- A record of one unit on core 0 (R210). -/
def rawOne : Nat := 2 ^ 167 + 2 ^ 192 + 2 ^ 416 + 8 * 2 ^ 592

/-- A context whose record at 0x1000 is `raw`, with an empty list of queue 0 in HBM where `list`. -/
def launching (raw : Nat) (list : Bool) : State :=
  ((mapped (held0 (at_ 0 0 (regs [(1, 0x1000)])))).physWrite 0x1000 128 raw).physWrite 0 16 (if list then 2 + 12 * 2 ^ 33 else 0)

/-- That context, naming its record at another address, or while slot 5 quiesces function 0 (R208). -/
def launchingAt (w : Word) (list : Bool) : State := (launching rawOne list).modMe (·.setS 1 w)
def launchingQuiet : State :=
  let s := launching rawOne false
  { s with pkg := { s.pkg with ttSlot := [(5, 10 + 50 * 2 ^ 32 + 3 * 2 ^ 64 + 2 ^ 67)] }, tt := [(5, ⟨none, 1000, false, 0⟩)] }

theorem wit_SpawnJoinAndLaunch :
    ([(1, false), (1, true), (0, false), (2, false)].all fun p => [0, 1].all fun n => meshRec (spawning p.1 n p.2 false) p.1 n p.2) = true ∧
    (meshRec (spawning 1 0 false true) 1 0 false = true ∧ (pushedMesh (spawning 1 0 false true) (recOf 1 false)).isNone = true ∧
      (pushedMesh (spawning 1 0 false false) (recOf 1 false)).isSome = true) ∧
    ((errOf ((at_ 0 0).checkVa 0 (1 <<< 55) 32)).isSome = true ∧ runsB recF 4 (at_ 0 0 (regs [(1, 1 <<< 55)])) = true) ∧
    ([(1, false), (1, true), (0, false), (2, false)].all fun p => readsRec (spawningAt p.1 1 p.2 false) (recOf p.1 p.2)) = true ∧
    (let s := spawningAt 1 1 true false; s.recordOk s.me (recOf 1 true) = false) ∧
    (let s := spawningAt 1 1 false false; s.recordOk s.me (recOf 1 false) = true ∧ writesJoin s 1 = true) ∧
    (let s := spawningAt 1 0 false false; readsRec s (recOf 1 false) = true ∧ writesJoin s 0 = true ∧ (pushed s (recOf 1 false)).isSome = true) ∧
    (let s := spawningAt 1 0 false true; readsRec s (recOf 1 false) = true ∧ writesJoin s 0 = true ∧
      (pushed s (recOf 1 false)).isNone = true) ∧
    (let s := spawningAt 2 0 false false; writesJoin s 1 = true) ∧
    ([launching rawOne false, launching 0 false, launchingAt 0x1020 false, launchingAt (BitVec.ofNat 64 (2 ^ 64 - 2 ^ 56 + meshBase + 0x100)) false,
      launchingQuiet].all fun s => runsB (lauF .none) 4 s && s.relWait.isNone && (s.quietVf 0 == (s.tt != []))) = true ∧
    ([launching rawOne false, launching 0 false].all fun s =>
      let r := s.acceptVa 0 0 0 0x1000 none
      (s.checkVa 0 0x1000 64).toOption.isSome && r.1.isSome == (s.mem == (launching rawOne false).mem) && r.2.cur == s.cur && !r.2.me.statBit bSTEP) = true ∧
    ((errOf ((launching rawOne false).checkVa 0 0x1020 64)).isSome = true ∧
      ((launchingAt (BitVec.ofNat 64 (2 ^ 64 - 2 ^ 56 + meshBase + 0x100)) false).checkVa 0 (BitVec.ofNat 64 (2 ^ 64 - 2 ^ 56 + meshBase + 0x100)) 64).toOption.isSome = true) ∧
    ([launching 0 false, launching 0 true, launchingAt 0x1020 true].all fun s => runsB (lauF (.imm 20 0x200)) 4 s && runsB (lauF (.imm 20 0)) 4 s) = true ∧
    (((launching 0 false).lqPush 0 2 ⟨0, 0, 0x1000, 0, 0, 0, 5⟩ none).isNone = true ∧
      ((launching 0 true).lqPush 0 0 ⟨0, 0, 0x1000, 0, 0, 0, 1⟩ none).isSome = true) := by
  refine ⟨?_, ?_, ?_, ?_, ?_, ?_, ?_, ?_, ?_, ?_, ?_, ?_, ?_, ?_⟩ <;> decide +kernel

/-- A channel's register: ring at 0x1000 of 2 entries, a head and a tail, and a pipe from core `src` (R202). -/
def chanReg (head tail : Nat) (pipe : Option Nat) : Word :=
  BitVec.ofNat 64 (0x1000 + 2 ^ 16 + head * 2 ^ 20 + tail * 2 ^ 29 + 2 ^ 39 + (match pipe with | some c => 2 ^ 38 + c * 2 ^ 40 | none => 0))

/-- SEND to channel 5. -/
def sendF : Form := form (.chan 5) (.scalar 1) (.la 2 0)

/-- Core 0 about to SEND `len` bytes at an LA to core `dst`, whose channel 5 holds `reg`. -/
def sending (dst len la : Nat) (reg : Word) : State :=
  (held0 (at_ 0 0 (regs [(1, BitVec.ofNat 64 (dst + len * 2 ^ 16)), (2, BitVec.ofNat 64 la)]))).modCore dst (·.srSet (rCHCFG 5) reg)

/-- A message to channel 5 of core 1 on its way. -/
def arriving (reg : Word) : State :=
  { (at_ 0 0).modCore 1 (·.srSet (rCHCFG 5) reg) with msgs := [(9, ⟨0, 1, 5, 8, 0x1122334455667788⟩)] }

/-- RECV from channel 5, and a core whose channel 5 holds `reg`. -/
def recvF : Form := form (.scalar 3) (.chan 5) (.la 2 0)
def receiving (la : Nat) (reg : Word) : State := onCore (·.srSet (rCHCFG 5) reg) (at_ 0 0 (regs [(2, BitVec.ofNat 64 la)]))

theorem wit_Messages :
    ([sending 1 8 0x10000 0, sending 1 0 0xFFFF 0, sending 1 57 0x100 0, sending 1 2 0xFFFF 0, sending 200 8 0x100 0,
      sending 1 1 0xFFFF 0, sending 1 56 0x100 (chanReg 0 0 (some 0)), sending 1 56 0x100 (chanReg 0 2 (some 0))].all
        (runsB sendF 16)) = true ∧
    (laPlace 0 0x10000 = none ∧ laPlace 0 0xFFFF = some (0, 0xFFFF) ∧ laPlace 0 (0x100 + 56 - 1) = some (0, 0x137) ∧
      (sending 200 8 0x100 0).hasCore 0 200 = false ∧ (sending 1 1 0xFFFF 0).hasCore 0 1 = true ∧
      (sending 1 1 0xFFFF 0).relWait = none ∧ (sending 1 1 0xFFFF 0).pipeFrom 0 1 5 = false ∧
      (sending 1 1 0xFFFF 0).stallPoison 0 0xFFFF 1 = none) ∧
    (let s := sending 1 56 0x100 (chanReg 0 0 (some 0)); s.pipeFrom 0 1 5 = true ∧ s.credits 0 1 5 = 2) ∧
    (let s := sending 1 56 0x100 (chanReg 0 2 (some 0)); s.pipeFrom 0 1 5 = true ∧ s.credits 0 1 5 = 0) ∧
    (let r := ((arriving (chanReg 3 0 (some 0))).core 1).chan 5
     (arriving (chanReg 3 0 (some 0))).msgs.find? (·.1 == 9) = some (9, ⟨0, 1, 5, 8, 0x1122334455667788⟩) ∧
       chEn r = true ∧ chPipe r = true ∧ chSrc r = 0 ∧ chCount r < 2 ^ chLogn r) ∧
    (chEn (((arriving 0).core 1).chan 5) = false ∧ ((arriving 0).core 1).ovfCount = 0 ∧ regPage ((arriving 0).vf ((arriving 0).vfOfCore 1)).ovfBase = 0) ∧
    ([0, 63].all fun n =>
      let s := ((arriving (chanReg 0 2 (some 0))).modVf ((arriving 0).vfOfCore 1) fun v => { v with ovfBase := 0x200000 }).modCore 1 fun k => { k with ovfCount := n }
      let r := (s.core 1).chan 5
      chCount r == 2 ^ chLogn r && (s.core 1).ovfCount == n && regPage (s.vf (s.vfOfCore 1)).ovfBase == 0x200000 &&
        inHbm (0x200000 + 4096 * 1 + 64 * n) 64) = true ∧
    ([receiving 0x20 0, receiving 0x40 0, receiving 0xFFC0 (chanReg 1 1 none), receiving 0xFFC0 (chanReg 3 1 none)].all
      (fun s => runsB recvF 16 s && runsB recvF 4 s)) = true ∧
    ((errOf (checkLa 0 0x20 64 64)).isSome = true ∧ (checkLa 0 0xFFC0 64 64).toOption = some (0, 0xFFC0) ∧
      chEn ((receiving 0x40 0).myCore.chan 5) = false) ∧
    (let r := (receiving 0xFFC0 (chanReg 1 1 none)).myCore.chan 5; chEn r = true ∧ chCount r = 0) ∧
    (let s := receiving 0xFFC0 (chanReg 3 1 none)
     chEn (s.myCore.chan 5) = true ∧ chCount (s.myCore.chan 5) = 2 ∧ s.recvBehind 5 = false ∧
       (let u := { s.modCtx 0 3 (fun x => { x with block := some ⟨.recv 5, 0, 0⟩ }) with clk := 9 }
        runsB recvF 16 u = true ∧ u.recvBehind 5 = true) ∧
       s.stallPoison 0 (chBase (s.myCore.chan 5) + 64 * (chHead (s.myCore.chan 5) % 2)) 64 = none) := by
  refine ⟨?_, ?_, ?_, ?_, ?_, ?_, ?_, ?_, ?_, ?_, ?_⟩ <;> decide +kernel

/-- Launch 1 of core 0 with domain 0 of that core alone, a bound and an exchange phase of 64 cycles. -/
def inDomain (bound : Nat) (b : Bell) (s : State) : State :=
  onCore (fun k => { k with launch := some 1 })
    { s with launches := [(1, { launchOf (2 ^ 504 + 64 * 2 ^ 416 + bound * 2 ^ 384) 1 with masks := [(0, 1)] })],
             bells := [(8, b)], clk := 100 }

/-- BELL of domain `k`. -/
def bellF (k : Nat) : Form := form (.scalar 3) (.imm 16 k)

/-- A context that waits at bell 8 of its core. -/
def atBell (x : Ctx) : Ctx := { x with st := .wait, block := some ⟨.bell 8 3 12, 50, 1⟩ }

theorem wit_BellsAndPhases :
    (Runs (bellF 8) 4 (at_ 0 0) ∧ Runs (bellF 7) 4 (at_ 0 0) ∧ (at_ 0 0).bellOf 0 7 = none) ∧
    (let s := inDomain 10 Bell.empty (at_ 0 3)
     Runs (bellF 0) 4 s ∧ s.bellOf s.cur.core 0 = some 8 ∧ (s.bell 8).arrived = [] ∧ s.relWait = none) ∧
    (let s := inDomain 10 ⟨[(0, 1)], some 90, none, none⟩ (at_ 0 3)
     Runs (bellF 0) 4 s ∧ s.bellOf s.cur.core 0 = some 8 ∧ 1 ≠ s.cur.ctx ∧ (s.cur.core, 1) ∈ (s.bell 8).arrived) ∧
    (let s := inDomain 10 ⟨[(0, 3)], some 80, some 100, none⟩ ((at_ 0 3 atBell).modCtx 0 10 fun x => { x with st := .ready, idle := false })
     (s.bell 8).arrived = [(0, 3)] ∧ (s.ctx 0 3).block = some ⟨.bell 8 3 12, 50, 1⟩ ∧ (s.ctx 0 3).statBit bSTEP = false ∧
       (s.bell 8).rel = some s.clk ∧ (s.ctx 0 10).idle = false ∧ (s.ctx 0 10).st = .ready) ∧
    (let s := inDomain 20 ⟨[(0, 3)], some 80, none, none⟩ (at_ 0 3 atBell)
     (s.bell 8).since = some 80 ∧ (∃ l, s.launchOf (8 / 8) = some l ∧ 80 + bits l.raw 384 32 ≤ s.clk) ∧
       (s.ctx 0 3).block = some ⟨.bell 8 3 12, 50, 1⟩) ∧
    (let s := onCore (fun k => { k with phase := some (8, 3, 90), hold := 7 })
       (inDomain 20 ⟨[], none, none, some 90⟩ (((at_ 0 3).modCtx 0 10 fun x => { x with st := .xhold }).modCtx 0 9 fun x => { x with st := .stopped, back := .xhold }))
     s.bellCores 8 = [0] ∧ (s.core 0).phase = some (8, 3, 90) ∧ (s.ctx 0 10).st = .xhold ∧ (s.ctx 0 9).st = .stopped ∧ (s.ctx 0 9).back = .xhold) :=
  ⟨⟨runs_of _ _ _ (by decide +kernel), runs_of _ _ _ (by decide +kernel), by decide +kernel⟩,
    ⟨runs_of _ _ _ (by decide +kernel), by decide +kernel⟩, ⟨runs_of _ _ _ (by decide +kernel), by decide +kernel⟩,
    by decide +kernel, ⟨by decide +kernel, ⟨_, rfl, by decide +kernel⟩, by decide +kernel⟩, by decide +kernel⟩

/-- XMIT from a scalar to the latch or a stall offset, and XSEL, with a stamp. -/
def xmitF (d : Operand) (h : Hint) : Form := { form d (.scalar 1) with hint := h }
def xselF (d : Operand) (h : Hint) : Form := { form d with hint := h }

/-- In the phase of bell 8 at phase cycle `c`, with an outbound map entry and a latch. -/
def phased (c entry : Nat) (latch : Option (Nat × VWord)) (s : State) : State :=
  onCore (fun k => { k with phase := some (8, 3, 100 - c), latch := latch })
    ((inDomain 0 Bell.empty s).stallWrite 0 (2 * c) 2 entry)

theorem wit_ExchangeTransfers :
    ([(xmitF .none (.plain false false 0), at_ 0 3), (xmitF .none (.stamp 0), at_ 0 3),
      (xmitF .none (.stamp 0), phased 0 0x8000 none (at_ 0 3)), (xmitF (.la 2 8) (.stamp 57), phased 57 0x8000 none (at_ 0 3)),
      (xmitF .none (.stamp 57), phased 57 0 none (at_ 0 3)), (xmitF .none (.stamp 57), phased 57 0x8001 none (at_ 0 3)),
      (xselF (.scalar 3) (.stamp 63), phased 63 0 (some (100, 5)) (at_ 0 3)), (xselF (.vec 3 0) (.stamp 63), phased 63 0 (some (100, 5)) (at_ 0 3)),
      (xselF (.scalar 3) (.stamp 63), phased 63 0 none (at_ 0 3)), (xselF (.scalar 3) (.stamp 63), at_ 0 3)].all fun p =>
      runsB p.1 4 p.2 && !p.2.me.statBit bPFX) = true ∧
    ([phased 0 0x8000 none (at_ 0 3), phased 57 0x8000 none (at_ 0 3)].all fun s =>
      (xmitValue (xmitF .none (.stamp 0)) s.me).toOption == some (0, 8) && (xmitTarget (xmitF (.la 2 8) (.stamp 0)) 8 s.me).toOption == some (some 8) &&
      (match s.myCore.phase with
        | some (key, _, c0) => (s.launchOf (key / 8)).any (fun l => decide (s.clk - c0 < lrXlen l.raw) && lrXlen l.raw == 64) &&
            (s.bellCores key).contains 0 && !(s.bellCores key).contains 1
        | none => false)) = true ∧
    ((plainEntry (phased 63 0 none (at_ 0 3)).me 0).toOption.isSome = true ∧
      (phased 63 0 (some (100, 5)) (at_ 0 3)).myCore.latch = some ((phased 63 0 (some (100, 5)) (at_ 0 3)).clk, 5) ∧
      (phased 63 0 none (at_ 0 3)).myCore.latch = none ∧ (at_ 0 3).myCore.phase = none) ∧
    (∀ o ∈ [none, some 0xFFF8], ({ at_ 0 3 with xvals := [(4, ⟨1, 0, 100, o, 8, 7⟩)] } : State).xvals = [(4, ⟨1, 0, 100, o, 8, 7⟩)]) := by
  refine ⟨by decide +kernel, by decide +kernel, by decide +kernel, fun _ _ => rfl⟩

/-- BINIT, ARRIVE and BWAIT of an object at an LA. -/
def binitF : Form := form (.la 1 0) (.scalar 2)
def barF : Form := form (.scalar 3) (.la 1 0) (.scalar 2)

/-- An object at 0x40 (R310): pending, expected, phase and the overrun bit, with an operand in s2. -/
def withObject (pending expect phase overrun timeouts : Nat) (b : Nat) (x : Ctx → Ctx := id) : State :=
  (at_ 0 0 fun y => regs [(1, 0x40), (2, BitVec.ofNat 64 b)] (x y)).stallWrite 0 0x40 16
    (pending + expect * 2 ^ 12 + phase * 2 ^ 24 + overrun * 2 ^ 28 + timeouts * 2 ^ 64)

/-- The arrivals of R312's cases: below, at and past EXPECT, and of another phase, with and without BTRAP. -/
def arrivals : List State :=
  [withObject 0 2 15 0 0 0xF000, withObject 1 2 15 0 0 0xF001, withObject 1 2 15 1 0 0xF002, withObject 4094 4095 0 0 0 0x1FFF,
   withObject 1 2 15 0 0 0xF002 (·.setStat bBTRAP true), withObject 0 2 15 0 0 0 (·.setStat bBTRAP true)]

/-- A context that waits at an object until a cycle. -/
def atObject (x : Ctx) : Ctx := { x with st := .wait, block := some ⟨.barrier 90 0 0x40 15 3 12, 50, 0⟩ }

theorem wit_BarrierObjects :
    ([at_ 0 0, at_ 0 0 (regs [(1, 0x48)]), at_ 0 0 (regs [(2, 0xFFFF)])].all (fun s => runsB binitF 16 s && s.relWait.isNone)) = true ∧
    ((objectAt (at_ 0 0) ((at_ 0 0).me.opAddr binitF.d)).toOption = some (0, 0) ∧ (errOf (objectAt (at_ 0 0) 0x48)).isSome = true) ∧
    (arrivals.all fun s => runsB barF 16 s && s.relWait.isNone && (objectAt s (s.me.opAddr barF.a)).toOption == some (0, 0x40) &&
      s.stallPoison 0 0x40 16 == none && decide (s.me.tlvl < 2) && s.me.loads == []) = true ∧
    ([withObject 0 1 15 0 0 0, withObject 0 1 15 0 0xFFFF 15, withObject 0 1 15 0 0 (15 + 2 ^ 16)].all fun s =>
      runsB barF 16 s && s.me.block == none) = true ∧
    ([15, 14].all fun p =>
      let s := { withObject 0 1 p 0 0xFFFF 0 atObject with clk := 90 }
      (s.ctx 0 0).block == some ⟨.barrier 90 0 0x40 15 3 12, 50, 0⟩ && decide (90 ≤ s.clk)) = true ∧
    (let s : State := { at_ 0 0 (fun x => { x with st := .wait, block := some ⟨.realign 0x1000 90, 50, 0⟩ }) with clk := 90 }
     (s.ctx 0 0).block = some ⟨.realign 0x1000 90, 50, 0⟩ ∧ 90 ≤ s.clk ∧ (s.ctx 0 0).st = .wait) ∧
    (let s := withObject 0 1 15 0 0 0 atObject; (s.ctx 0 0).st = .wait ∧ (s.ctx 0 0).statBit bSTEP = false) := by
  refine ⟨?_, ?_, ?_, ?_, ?_, ?_, ?_⟩ <;> decide +kernel

/-- A load and a store through an LA, and through a base. -/
def ldF (a : Operand) : Form := form (.scalar 3) a
def stF (d : Operand) : Form := form d (.scalar 2)

/-- Local aliases at the ends of R16's windows. -/
def aliases : List Nat := [0xFFFF, 0x10000, 0x7FFFFF, 0x800000, 0xFFFFFF, 0x1000000, 0xFFF8]

theorem wit_LocalLoadsAndStores :
    (aliases.all fun a => runsB (ldF (.la 1 0)) 16 (at_ 0 0 (regs [(1, BitVec.ofNat 64 a)])) &&
      runsB (stF (.la 1 0)) 16 (at_ 0 0 (regs [(1, BitVec.ofNat 64 a)]))) = true ∧
    (aliases.map fun a => (checkLa 129 (BitVec.ofNat 64 a) 1 1).toOption) =
      [some (129, 0xFFFF), none, none, some (128, 0), some (255, 0xFFFF), none, some (129, 0xFFF8)] ∧
    ((checkLa 0 0xFFF8 8 8).toOption = some (0, 0xFFF8) ∧ (errOf (checkLa 0 0xFFF9 8 8)) = some (cMISALIGN, 0xFFF9) ∧
      (at_ 0 0).stallPoison 0 0xFFF8 8 = none ∧ (at_ 0 0).relWait = none ∧ (at_ 0 0).relsOut = []) ∧
    (let s := withStore (at_ 0 0 (regs [(1, 0xFFF8)]))
     runsB (stF (.la 1 0)) 16 s = true ∧ s.myCore.storesOut 0 = true ∧ (checkLa 0 (s.me.opAddr (.la 1 0)) 8 8).toOption.isSome = true) := by
  refine ⟨?_, ?_, ?_, ?_⟩ <;> decide +kernel

/-- A load or store under way: its address, operation, destination and journal entry. -/
def reqOf (va : Nat) (op : ReqOp) (dst : Dst) (jidx : Option Nat) : Req :=
  ⟨0, 0, 0, op, [⟨0, va, 8, 0x55, 2 ^ 64 - 1⟩], [⟨0, va, 8, 0x55, 2 ^ 64 - 1⟩], [], dst, jidx, false, false, false, false, none, 12⟩

/-- C1 holding line 0x40 with some words valid. -/
def withC1 (valid : Nat) (s : State) : State := onCore (fun k => { k with c1 := [⟨0, 0x40, true, true, false, valid, 0, 0, 0x1122⟩] }) s

/-- A journal with all its entries taken. -/
def fullJournal (s : State) : State :=
  onCore (fun k => { k with journal := (List.range 64).map fun i => (i, ⟨1, 0x1000, 0, 3, 0, 0, false, false, false, false, none, none⟩) }) s

theorem wit_GlobalAccesses :
    ([0x1000, 0x1002, 2 ^ 55].all fun a => runsB (ldF (.bo 1 0)) 40 (at_ 0 0 (regs [(1, BitVec.ofNat 64 a)])) &&
      runsB (stF (.bo 1 0)) 40 (at_ 0 0 (regs [(1, BitVec.ofNat 64 a)]))) = true ∧
    ((errOf ((at_ 0 0).checkVa 0 0x1002 8)).isSome = true ∧ (errOf ((at_ 0 0).checkVa 0 (1 <<< 55) 8)).isSome = true ∧
      ((at_ 0 0).checkVa 0 0x1000 8).toOption = some (.virt 0x1000)) ∧
    (let s := withC1 0xFFFF (at_ 0 0 (regs [(1, 0x1000)]))
     runsB (ldF (.bo 1 0)) 40 s = true ∧ ((s.myCore.c1Line s.me.asid 0x40).any fun c => c.serves 0x1000 8 && c.read 0x1000 8 == (0x1122, false)) = true ∧
       s.loadUnder s.me [scalarElem 0x1000 8 0] = false ∧
       (let u := { withLoad 40 s with reqs := [(5, { reqOf 0x1008 .load (.scalar 40 8 true) none with els := [] })] }
        runsB (ldF (.bo 1 0)) 40 u = true ∧ u.loadUnder u.me [scalarElem 0x1000 8 0] = true)) ∧
    (let s := withC1 0xFFFE (at_ 0 0 (regs [(1, 0x1000)]))
     runsB (ldF (.bo 1 0)) 40 s = true ∧ ((s.myCore.c1Line s.me.asid 0x40).any fun c => !c.serves 0x1000 8) = true) ∧
    ((at_ 0 0).myCore.c1Line 0 0x40 = none ∧ (at_ 0 0).myCore.freeEntry = some 0 ∧ (mapped (at_ 0 0)).foreseen 0 0 .rd (scalarElem 0x1000 8 0) = true ∧
      (at_ 0 0).foreseen 0 0 .rd (scalarElem 0x1000 8 0) = false) ∧
    (let s := fullJournal (at_ 0 0 (regs [(1, 0x1000)])); runsB (stF (.bo 1 0)) 40 s = true ∧ s.myCore.freeEntry = none) := by
  refine ⟨?_, ?_, ?_, ?_, ?_, ?_⟩ <;> decide +kernel

theorem wit_LocalAtomicResults :
    let f := form (.scalar 3) (.la 1 0) (.scalar 2)
    let s := at_ 0 0 (regs [(1, 0xFFF8), (2, 0xFFFFFFFFFFFFFFFF)])
    Runs f 16 s ∧ f.a.isLa = true ∧ s.relWait = none ∧ s.relsOut = [] ∧
      checkLa s.cur.core (s.me.opAddr f.a) 8 8 = .ok (0, 0xFFF8) ∧ checkLa s.cur.core (s.me.opAddr f.a) 4 4 = .ok (0, 0xFFF8) ∧
      s.stallPoison 0 0xFFF8 8 = none ∧ s.stallPoison 0 0xFFF8 4 = none :=
  ⟨runs_of _ _ _ (by decide +kernel), rfl, by decide +kernel, by decide +kernel, ok_of (by decide +kernel), ok_of (by decide +kernel), by decide +kernel,
    by decide +kernel⟩

/-- JRD of word `w` of the entry in s1. -/
def jrdF (w : Nat) : Form := form (.scalar 3) (.scalar 1) (.imm 20 w)

theorem wit_FencesAndJournalReads :
    ([at_ 0 0, at_ 0 3, withC1 0xFFFF (at_ 0 0), withC1 0xFFFF (at_ 0 0 (regs [(1, 0x1000)]))].all fun s =>
      runsB form 4 s && runsB (form .none (.bo 1 0)) 4 s && s.relWait.isNone && !s.loopBackOut 0 0) = true ∧
    (let s : State := { at_ 0 0 with reqs := [(5, reqOf (meshBase + 65535 / 8 * 8) .load .none none)] }
     runsB form 4 s = true ∧ s.loopBackOut 0 0 = true) ∧
    ([0, 1, 2, 3].all fun w => runsB (jrdF w) 4 (withStore (at_ 0 0)) && runsB (jrdF w) 4 (at_ 0 0 (regs [(1, 63)]))) = true ∧
    ((withStore (at_ 0 0)).myCore.journal.find? (·.1 == 0)).isSome = true ∧ (at_ 0 0).myCore.journal.find? (·.1 == 63) = none ∧
    (let s := (withStore (at_ 0 0)).myCore.journal
     let t := at_ 0 3
     runsB (jrdF 0) 4 (onCore (fun k => { k with journal := s }) t) = true ∧ t.cur.ctx ≠ 0 ∧ (s.all fun e => e.2.ctx != t.cur.ctx) = true) ∧
    ([0, 1].all fun c => runsB (form .none (.bo 1 0) (.imm 20 c)) 40 (at_ 0 0) && runsB (form .none (.la 1 0) (.imm 20 c)) 16 (at_ 0 0)) = true := by
  refine ⟨?_, ?_, ?_, ?_, ?_, ?_, ?_⟩ <;> decide +kernel

/-- Line 0x40 of ASID 0 in C2, at the home that core 0 finds first. -/
def lineOf40 (dirty : Bool) (pl : Nat) : C2Line :=
  ⟨State.reset.firstHome 0 0 0x1000, 0, 0x40, pl, true, true, false, 0, 0, dirty, 0, 0, 0, 0, 0, [], 0x1122334455667788⟩

/-- A fill of that line on its way. -/
def fillOf40 : Fill := ⟨0, 0, 0x40, ⟨0, 2 ^ 16, true, true, true, 0, 0, 0, 0, 0, false⟩, 0, 0, 3, []⟩

theorem wit_HomeRequestsAndFills :
    (let s : State := { at_ 0 0 with reqs := [(5, reqOf 0x1000 .load .none none)], c2 := [lineOf40 false 0x40] }
     s.reqs.find? (·.1 == 5) = some (5, reqOf 0x1000 .load .none none) ∧ (reqOf 0x1000 .load .none none).fault = none ∧
       s.held = [] ∧ s.fills = [] ∧ s.behind 5 (reqOf 0x1000 .load .none none) = false ∧
       s.c2Line (s.firstHome 0 0 0x1000) 0 (0x1000 / 64) = some (lineOf40 false 0x40) ∧ (lineOf40 false 0x40).rd = true ∧
       (lineOf40 false 0x40).psn = 0) ∧
    (let s : State := { at_ 0 0 with reqs := [(5, reqOf (meshBase + 65536 + 0xFFF8) .store .none none)] }
     s.reqs.find? (·.1 == 5) = some (5, reqOf (meshBase + 65536 + 0xFFF8) .store .none none) ∧ s.stallPoison 1 0xFFF8 8 = none ∧
       (let u : State := { s with reqs := [(5, reqOf (meshBase + 65536 + 0xFFF8) .load .none none)] }
        u.reqs.find? (·.1 == 5) = some (5, reqOf (meshBase + 65536 + 0xFFF8) .load .none none)) ∧
       (meshBase + 65536 + 0xFFF8 - meshBase) / 65536 = 1 ∧ (meshBase + 65536 + 0xFFF8) % 65536 + 8 ≤ 65536) ∧
    (let s : State := { at_ 0 0 with fills := [(5, fillOf40)] }
     s.fills.find? (·.1 == 5) = some (5, fillOf40) ∧ s.fillWaits 0 0 (0x40 * 64) 0 fillOf40.tr = false ∧ s.c2Line 0 0 0x40 = none ∧
       fillOf40.tr.fab = false ∧ fillOf40.waiters = [] ∧
       s.remapOf (fillOf40.tr.pa (0x40 * 64) / 64) 0 0x40 = [] ∧ s.victim 0 0 0x40 0 0 = some none) ∧
    (∀ d ∈ [false, true], let s : State := { at_ 0 0 with c2 := [lineOf40 d (cxlBase / 64)] }
      inCxl cxlBase 1 = true ∧ s.lineOf cxlBase = some (lineOf40 d (cxlBase / 64)) ∧ (lineOf40 d (cxlBase / 64)).pins = 0 ∧
        s.canWriteBack (lineOf40 d (cxlBase / 64)) = true ∧ (s.c2.all fun m => m.same (lineOf40 d (cxlBase / 64))) = true) ∧
    (at_ 0 0).lineOf cxlBase = none := by
  refine ⟨?_, ?_, ?_, all_of ?_, ?_⟩ <;> decide +kernel

/-- That request answered, with its context held for it. -/
def answered (r : Req) (fault : Option (Nat × Nat)) : State :=
  { withStore (at_ 0 0 fun x => { x with block := some ⟨.reply 5, 50, 1⟩ }) with
    reqs := [(5, { r with got := [(0, 0x80)], els := [], done := true, fault := fault })] }

theorem wit_ResponsesCompleteAccesses :
    (∀ fault ∈ [none, some (cXLPERM, 0x1000)],
      let s := answered (reqOf 0x1000 .load (.scalar 3 1 true) none) fault
      (s.ctx 0 0).block = some ⟨.reply 5, 50, 1⟩ ∧ (s.ctx 0 0).loads = [] ∧ (s.ctx 0 0).statBit bSTEP = false ∧ (s.reqs.map (·.2.fault)) = [fault] ∧
        (s.reqs.map (·.2.done)) = [true] ∧
        (let u := s.modCtx 0 0 fun x => { x with block := none, loads := [(5, .scalar 3 1 true, 0x100)] }
         (u.ctx 0 0).loads.find? (·.1 == 5) = some (5, .scalar 3 1 true, 0x100) ∧ u.reqs = s.reqs)) ∧
    ([(8, 63), (64, 7)].all fun p =>
      let s := answered (reqOf 0x1000 .load (.vec 3 p.1 []) none) none
      let u := ({ s with reqs := s.reqs.map fun q => (q.1, { q.2 with got := [(p.2, 0x80)] }) } : State).modCtx 0 0 fun x =>
        { x with block := none, loads := [(5, .vec 3 p.1 [], 0x100)] }
      (u.ctx 0 0).loads.any (·.1 == 5) && p.1 * p.2 + p.1 == 512 &&
        u.reqs.any fun q => q.1 == 5 && q.2.done && q.2.fault.isNone && q.2.got == [(p.2, 0x80)]) = true ∧
    (∀ fault ∈ [none, some (cXLPERM, 0x1000)],
      let s := ({ answered (reqOf 0x1000 .store .none (some 0)) fault with ev := .storeAcknowledge 5 } : State).modCtx 0 0 fun x => { x with block := none }
      (s.reqs.map (·.2.jidx)) = [some 0] ∧ ((s.core 0).journal.find? (·.1 == 0)).any (fun e => !e.2.orphan && e.2.owed.isNone) = true ∧ (s.ctx 0 0).block = none) := by
  refine ⟨all_of ?_, ?_, all_of ?_⟩ <;> decide +kernel

/-- Track 240 of a core as `tr`. -/
def withTrack (tr : Track) (s : State) : State := onCore (fun k => { k with tracks := [(240, tr)] }) s

/-- Track 240 and its lead's form as A and as D. -/
def trkA (d : Operand := .scalar 3) : Form := form d (.track 240 3 true)
def trkD (a : Operand := .scalar 1) : Form := form (.track 240 3 false) a

/-- A queued access of track 240. -/
def accessOf (act : TrkAct) (head : Nat) (d : Dst) : TrkOp := ⟨5, act, 0, head, 0, none, d, 12⟩

/-- A TOWN of helper `h`, with recovery, of the tracks from `first` to `last`. -/
def towning (h rec_ first last : Nat) (tr : Track := Track.reset) (x : Ctx → Ctx := id) : State :=
  (withTrack tr (at_ 0 0 (regs [(1, BitVec.ofNat 64 (h + 256 * rec_)), (2, BitVec.ofNat 64 (first + 256 * (last - first)))]))).modCtx 0 h x

/-- A track owned by helper 10, and one suspect. -/
def ownedBy10 : Track := { Track.reset with owner := 10 }
def suspect : Track := { Track.reset with susp := true }

theorem wit_TrackInstructions :
    ([Track.reset, ownedBy10, { Track.reset with head := 255 }].all fun tr =>
      [trkA, trkA (.vec 3 0), trkD, trkD (.vec 1 0)].all fun f =>
        runsB f 8 (withTrack tr (at_ 0 0)) && runsB f 4 (withTrack tr (at_ 0 0)) && runsB f 128 (withTrack tr (at_ 0 0))) = true ∧
    (((withTrack Track.reset (at_ 0 0)).settleAll 0).ownsTrack 0 0 240 false = true ∧
      ((withTrack ownedBy10 (at_ 0 0)).settleAll 0).ownsTrack 0 0 240 false = false ∧
      ([0, 15].all fun k => ((at_ 0 0).settleAll 0).ownsTrack 0 0 (240 + k) false) = true) ∧
    ([(0 : Word), 255, 256].all fun a => runsB trkD 4 (withTrack { Track.reset with queue := [accessOf .seek 3 .none] } (at_ 0 0 (regs [(1, a)]))) &&
      runsB trkD 4 (at_ 0 0 (regs [(1, a)]))) = true ∧
    (let u := (withTrack Track.reset (at_ 0 0)).settleAll 0; (u.track 0 240).idle = true ∧ (u.track 0 240).unseat = false) ∧
    (let s := withTrack { Track.reset with head := 255, phys := 255 } (at_ 0 0)
     let tr := (s.settleAll 0).track 0 240
     tr = { Track.reset with head := 255, phys := 255 } ∧ tr.slip % 8 = 0 ∧ (s.settleAll 0).ownsTrack 0 0 240 false = true ∧ s.myCore.portAt ≤ s.clk ∧
       256 * 3 + tr.head + tr.slip = ((1023 : Nat) : Int) ∧ ((s.settleAll 0).core 0).badWords = []) ∧
    ([form (.vec 3 0) (.track 240 3 true), form (.track 240 3 true) (.vec 3 0)].all fun f => runsB f 128 (at_ 0 0)) = true ∧
    ([0, 15].all fun k => ((at_ 0 0).settleAll 0).track 0 (240 + k) == Track.reset) = true ∧
    (let s := (withTrack ownedBy10 (at_ 0 0)).modMe fun x => { x with block := some ⟨.trackStill 240, 3, 0⟩ }
     s.syncing 240 = true ∧ runsB trkD 4 s = true ∧ ((s.settleAll 0).track 0 240).idle = true) ∧
    (let s := towning 10 1 240 240 { ownedBy10 with queue := [accessOf .seek 3 .none] }
     runsB sss 4 s = true ∧ s.ownsTrack 0 10 240 false = true ∧ ((s.settleAll 0).track 0 240).idle = false) ∧
    (let u := (withTrack { Track.reset with queue := [accessOf .seek 3 .none] } (at_ 0 0)).settleAll 0; (u.track 0 240).idle = false) ∧
    (let u := (withTrack { Track.reset with motion := some ⟨4, 5, 0, 0, 0, true, false⟩ } (at_ 0 0)).settleAll 0
     u.ownsTrack 0 0 240 false = true ∧ (u.track 0 240).queue = [] ∧ (u.track 0 240).motion = some ⟨4, 5, 0, 0, 0, true, false⟩) ∧
    (plainEntry (at_ 0 0).me 0).toOption.isSome = true ∧
    (runsB sss 4 (at_ 0 3) = true ∧ (at_ 0 3).me.block = none) ∧
    ([towning 1 0 0 255, towning 1 0 0 256, towning 0 0 255 255, towning 11 0 255 255, towning 10 0 240 240 suspect,
      towning 10 0 240 240 ownedBy10, towning 10 0 240 240 Track.reset (fun x => { x with st := .drain }), towning 10 1 240 240 ownedBy10,
      towning 10 1 240 240].all fun s => runsB sss 4 s && s.me.block == none) = true ∧
    ((towning 10 0 240 240 ownedBy10).ownsTrack 0 0 240 false = false ∧ (towning 10 0 240 240).ownsTrack 0 0 240 false = true ∧
      (towning 10 0 240 240).track 0 240 = Track.reset ∧ ((towning 10 0 240 240 suspect).track 0 240).susp = true ∧
      (towning 10 1 240 240 ownedBy10).ownsTrack 0 10 240 false = true ∧ (((towning 10 1 240 240 ownedBy10).settleAll 0).track 0 240).idle = true ∧
      (towning 10 1 240 240).ownsTrack 0 10 240 false = false) := by
  refine ⟨?_, ?_, ?_, ?_, ?_, ?_, ?_, ?_, ?_, ?_, ?_, ?_, ?_, ?_, ?_⟩ <;> decide +kernel

/-- A track with a slip at the start of an access, with an access under way, and with a probing. -/
def slipped (k : Int) (act : TrkAct) : Track := { Track.reset with slip := k, queue := [accessOf act 0 (.scalar 3 4 false)] }
def underWay (act : TrkAct) (d : Dst) : State :=
  withTrack { Track.reset with queue := [accessOf act 255 d], started := true } (at_ 0 0 fun x => { x with block := some ⟨.track 240 5, 0, 1⟩ })

theorem wit_TrackEvents :
    (let s : State := { withTrack { Track.reset with motion := some ⟨255, 0, 0, 3, 0, true, false⟩ } (at_ 0 0) with clk := 510 }
     (s.track 0 240).motion = some ⟨255, 0, 0, 3, 0, true, false⟩ ∧ 3 ≤ ((0 : Int) - 255).natAbs ∧ 0 + 2 * ((0 : Int) - 255).natAbs ≤ s.clk) ∧
    ([0, 1, -1, 2, -2, 3, -3, 4, 8].all fun k =>
      let t := (withTrack (slipped k (.read false false)) (at_ 0 0)).track 0 240
      t.started == false && t.motion == none && t.probe == none && t.unseat == false && t.phys == 0 &&
        t.queue == [accessOf (.read false false) 0 (.scalar 3 4 false)]) = true ∧
    ((slipped 0 .seek).queue = [accessOf .seek 0 (.scalar 3 4 false)] ∧ (at_ 0 0).myCore.portAt ≤ (at_ 0 0).clk) ∧
    (let t := ((withTrack { slipped 3 (.read false false) with probe := some ⟨21, -3, false, 192, 21⟩ } (at_ 0 0)).track 0 240)
     t.probe = some ⟨21, -3, false, 192, 21⟩ ∧ t.queue ≠ []) ∧
    ([underWay (.read true false) (.scalar 3 4 false), underWay (.read true true) (.scalar 3 4 false), underWay (.write true true 7) .none,
      onCore (fun k => { k with badWords := [1024 * 240 + 255] }) (underWay (.read false false) (.scalar 3 4 false))].all fun s =>
        (s.track 0 240).started && (s.ctx 0 0).block == some ⟨.track 240 5, 0, 1⟩ && !(s.ctx 0 0).statBit bSTEP && decide ((s.ctx 0 0).tlvl < 2) &&
        (s.track 0 240).queue.all fun op => op.eng == none && decide (256 * op.port + op.head + (s.track 0 240).slip = ((255 : Nat) : Int))) = true := by
  refine ⟨?_, ?_, ?_, ?_, ?_⟩ <;> decide +kernel

/-- ACOPY from an LA to a base, and the two forms of ACOPYT. -/
def copyF : Form := form (.bo 1 0) (.la 2 0) (.scalar 3)
def copyTF : Form := form (.track 240 3 true) (.la 2 0) (.scalar 3)
def copyFT : Form := form (.la 2 0) (.track 240 3 false) (.scalar 3)

/-- A context about to copy under b, from the LA in s2 to 0x1000. -/
def copying (la b : Nat) : State := at_ 0 0 (regs [(1, 0x1000), (2, BitVec.ofNat 64 la), (3, BitVec.ofNat 64 b)])

/-- The core's queue of copies is full. -/
def copiesFull (s : State) : State :=
  { s with ops := (List.range 256).map fun i => (i + 1000, ⟨0, 0, 0, .copy 0 0 8, none, .context, 0, 1, 0, [], 8, 0, 0, false, false, [], [], [], [], [], [], [], [], [], []⟩) }

theorem wit_CopyInstructions :
    ([copying 0 8, copying 0 0, copying 0 12, copying 0xFFF8 8, copying 0x10000 8, copying 0 (2 ^ 48 + 8), copying 0 16777208, copying 0 16777216,
      withStore (copying 0 8), copiesFull (copying 0 8)].all fun s => runsB copyF 0 s) = true ∧
    (let s := copying 0xFFF8 (8 + 0x40 * 2 ^ 24)
     s.engRange copyF.d 8 8 = .ok 0x1000 ∧ s.engRange copyF.a 8 8 = .ok (meshBase + 0xFFF8) ∧
       syncPlace 0 (BitVec.ofNat 64 (bits (s.engVal copyF.b).toNat 24 24)) = .ok (0, 0x40) ∧ s.relWait = none) ∧
    ((errOf ((copying 0x10000 8).engRange copyF.a 8 8)).isSome = true ∧ (copying 0 8).copiesFull 0 = false ∧
      (copiesFull (copying 0 8)).copiesFull 0 = true ∧ (withStore (copying 0 8)).myCore.storesOut 0 = true) ∧
    ([0, 1, 256, 257, 2 ^ 9 + 1, 2 ^ 10 + 1].all fun b => runsB copyTF 0 (copying 0 b) && runsB copyFT 0 (copying 0 b)) = true ∧
    ([1, 256].all fun n => ((copying 0 n).engRange (.la 2 0) (4 * n * 4) 4).toOption.isSome &&
      ((copying 0 n).settleAll 0).ownsTrack 0 0 240 false) = true ∧
    ([0, 255].all fun h => (((withTrack { Track.reset with head := h } (copying 0 1)).settleAll 0).track 0 240).head == h) = true ∧
    runsB (form (.track 240 0 false) (.track 241 0 false) (.scalar 3)) 0 (copying 0 1) = true := by
  refine ⟨?_, ⟨ok_of ?_, ok_of ?_, ok_of ?_, ?_⟩, ?_, ?_, ?_, ?_, ?_⟩ <;> decide +kernel

/-- SWINIT, SWWAIT and SWREAD of the word at an LA, and CBSET and CBWAIT of a bit. -/
def swD : Form := form (.la 1 0) (.scalar 2)
def swA (b : Operand) : Form := form (.scalar 3) (.la 1 0) b
def cbF (a : Operand) : Form := form (.scalar 3) a (.scalar 2)

/-- A word at 0x40 of the stall with a value, and operands. -/
def withWord (w b : Nat) : State := (at_ 0 0 (regs [(1, 0x40), (2, BitVec.ofNat 64 b)])).stallWrite 0 0x40 16 w

theorem wit_SyncWordsAndBits :
    ([withWord 0 0, at_ 0 0 (regs [(1, 0x48)]), withWord 0 (2 ^ 40)].all fun s => runsB swD 16 s && runsB (swA (.scalar 2)) 16 s) = true ∧
    ((errOf (syncPlace 0 0x48)).isSome = true ∧ (syncPlace 0 ((withWord 0 0).me.opAddr swD.d)).toOption = some (0, 0x40) ∧
      (withWord 0 0).stallPoison 0 0x40 16 = none ∧ (withWord 0 0).stallPoison 0 0x4A 6 = none ∧ (withWord 0 0).stallPoison 0 0x48 8 = none) ∧
    ([0, 1, 2 ^ 23 - 1, 2 ^ 23, 2 ^ 24 - 1].all fun g => runsB (swA (.scalar 2)) 16 (withWord (g * 2 ^ 80) 0) &&
      bits ((withWord (g * 2 ^ 80) 0).stallRead 0 0x40 16) 80 24 == g) = true ∧
    ([0, 1, 2].all fun v => runsB (swA (.imm 20 v)) 16 (withWord 0 0)) = true ∧
    ([withWord (2 ^ 63) 63, withWord 0 63, withStore (withWord 0 63)].all fun s => runsB (cbF (.la 1 0)) 16 s) = true ∧
    ((withWord (2 ^ 63) 63).stallRead 0 0x40 8).testBit 63 = true ∧ ((withWord 0 63).stallRead 0 0x40 8).testBit 63 = false ∧
    (checkLa 0 ((withWord 0 63).me.opAddr (.la 1 0)) 8 8).toOption = some (0, 0x40) ∧
    (let s := (mapped (at_ 0 0 (regs [(1, 0x1000), (2, 63)]))).physWrite 0x1000 8 (2 ^ 63)
     let r := s.homeRead ⟨0, 0, s.me.vf⟩ s.me.asid 0x1000 8 .rw
     runsB (cbF (.bo 1 0)) 40 s = true ∧ (s.checkVa s.me.vf 0x1000 8).toOption = some (.virt 0x1000) ∧ s.myCore.freeEntry = some 0 ∧
       s.relWait = none ∧ s.me.outstanding = false ∧ s.ownOut 0x1000 = [] ∧ s.homeWaits ⟨0, 0, s.me.vf⟩ s.me.asid 0x1000 .rw = false ∧
       r.1.toOption = some (2 ^ 63, false) ∧ r.2.cur = s.cur ∧
       r.2.me.statBit bSTEP = false) := by
  refine ⟨?_, ?_, ?_, ?_, ?_, ?_, ?_, ?_, ?_⟩ <;> decide +kernel

/-- A copy of `len` bytes from core 2's stall to core 1's whose next row is `low`, counted on core 0's word at 0x40. -/
def copyOp (len low ecode : Nat) : EngOp :=
  ⟨3, 0, 0, .copy (meshBase + 65536 + 0xFF00) (meshBase + 131072) len, some (0, 0x40), .context, 0, (len + 63) / 64, low, [], len - 64 * low,
    ecode, 0, true, false, [], [], [], [], [], [], [], [], [], []⟩

theorem wit_CopyAndCompletionEvents :
    ([(128, 0), (128, 1), (72, 1), (256, 3)].all fun p =>
      let s : State := { at_ 0 0 with ops := [(5, copyOp p.1 p.2 0)] }
      s.ops.find? (·.1 == 5) == some (5, copyOp p.1 p.2 0) && decide (0xFF00 + p.1 ≤ 65536) && decide ((copyOp p.1 p.2 0).low < (copyOp p.1 p.2 0).rows) &&
        (s.core 3).canPay 48 && s.stallPoison 2 0 p.1 == none && p.1 % 8 == 0) = true ∧
    ([0, 5].all fun e => !(copyOp 8 0 e).finished && !(copyOp 8 1 e).finished) = true ∧
    (2 ^ 112 + 3 < 2 ^ 128 ∧ 2 ^ 24 - 1 < 2 ^ 24) := by
  refine ⟨?_, ?_, ?_⟩ <;> decide +kernel

/-- Three vectors under one entry, and with B a scalar. -/
def vvv (e : Nat) : Form := form (.vec 3 e) (.vec 1 e) (.vec 2 e)
def vvs (e : Nat) : Form := form (.vec 3 e) (.vec 1 e) (.scalar 1)

/-- A form with A a shape record at s2, under a mask. -/
def shpF (e : Nat) : Form := { form (.vec 3 e) (.shape 2 0) (.vec 2 e) with npfx := 1, vx := { Vx.default with shp := true, mask := 1 } }

/-- A context in step `ix` of a shape of 40 FP32 elements at 0xFF00 of the stall, with the odd lanes active. -/
def atShape (ix : Nat) : State :=
  (at_ 0 0 fun x => ((regs [(2, 0x40)] x).setM 1 0xAAAA).srSet rSHIX (BitVec.ofNat 64 ix)).stallWrite 0 0x40 64
    (0xFF00 + 2 ^ 72 + 2 ^ 80 + 40 * 2 ^ 128 + 2 ^ 160)

theorem wit_VectorArithmetic :
    ([0, 1, 2, 3, 4, 5, 6, 7, 9, 10].all fun e => [vvv e, vvs e, form (.vec 3 e) (.vec 1 e)].all fun f =>
      let x := ((at_ 0 0).issued f).me
      match vecEnt x f .d, vecEnt x f .a with
      | .ok d, .ok a => d == a && runsB f (if d.int then 12 else 24) (at_ 0 0)
      | _, _ => false) = true ∧
    ([0, 1].all fun ix =>
      let s := atShape ix
      let x := (s.issued (shpF 0)).me
      match readShape s (shpF 0).a, vecEnt x (shpF 0) .d with
      | .ok h, .ok d =>
        let ls := (List.range d.lanes).filter fun l => s.me.active (shpF 0) l && decide (ix * d.lanes + l < h.count)
        let es := ls.map fun l => h.elem d.w (ix * d.lanes + l) l 0
        h.la && h.count == 40 && decide (ix * d.lanes + d.lanes < h.count) && (plainEntry x ((x.pfxEntry .a).getD h.fmt)).toOption == some d && ls.length == 8 &&
          es.all (fun q => (checkLa 0 (BitVec.ofNat 64 q.va) q.size q.size).toOption.any fun p => s.stallPoison p.1 p.2 q.size == none) &&
          runsB (shpF 0) (24 + elemCost true es) s
      | _, _ => false) = true ∧
    ([5, 6, 7, 10].all fun e => (vecEnt (at_ 0 0).me (vvv e) .d).toOption.any fun d => d.int && d.sgn && decide (2 ^ d.w - 1 < 2 ^ d.w)) = true := by
  refine ⟨?_, ?_, ?_⟩ <;> decide +kernel

/-- VCMP into m1. -/
def vcmpF (e cc : Nat) (b : Operand) : Form := form (.mask 1 cc) (.vec 1 e) b

theorem wit_VectorComparesAndMoves :
    ([0, 5, 7, 10].all fun e => (List.range 10).all fun cc => [.vec 2 e, .scalar 1, .imm 20 5].all fun b =>
      let f := vcmpF e cc b
      runsB f 12 (at_ 0 0) && !shaped f && (match vecEnt (at_ 0 0).me f .a with
        | .ok ea => (vecB (at_ 0 0).me f ea).toOption.any fun p => p.1 == ea
        | _ => false)) = true ∧
    ([0, 5, 7, 10].all fun e => (threeEnts (at_ 0 0).me (vvv e)).toOption.isSome && runsB (vvv e) 12 (at_ 0 0) && runsB (vvv e) 24 (at_ 0 0)) = true ∧
    ([form (.vec 3 7) (.scalar 1), form (.vec 3 7) (.imm 16 9), form (.vec 3 7) (.vec 1 7) (.imm 20 16), form (.scalar 3) (.vec 1 7) (.imm 20 15),
      { vvv 7 with npfx := 1, vx := { Vx.default with op4 := some 4 } }, vvv 7].all fun f => runsB f 12 (at_ 0 0) && !shaped f) = true ∧
    ([(7, 5), (6, 5), (0, 1), (1, 3)].all fun p =>
      let f := form (.vec 3 p.1) (.vec 1 p.2) (.vec 2 p.2)
      match vecEnt (at_ 0 0).me f .d, vecEnt (at_ 0 0).me f .a with
      | .ok d, .ok a => decide (a.w ≤ d.w) && a.int == d.int && runsB f 24 (at_ 0 0)
      | _, _ => false) = true := by
  refine ⟨?_, ?_, ?_, ?_⟩ <;> decide +kernel

/-- Two vectors under two entries and an immediate. -/
def vvi (ed ea v : Nat) : Form := form (.vec 3 ed) (.vec 1 ea) (.imm 20 v)

theorem wit_ConversionsAndReductions :
    ([(0, 1, 1), (0, 1, 2), (1, 0, 1), (5, 7, 3), (7, 5, 4), (0, 0, 0)].all fun p =>
      let f := vvi p.1 p.2.1 p.2.2
      runsB f 24 (at_ 0 0) && !shaped f && (vecEnt (at_ 0 0).me f .d).toOption.isSome && (vecEnt (at_ 0 0).me f .a).toOption.isSome) = true ∧
    ([0, 1, 2, 3, 4, 5, 8, 13].all fun v => [0, 7].all fun e =>
      let f := vvi e e v
      match vecEnt (at_ 0 0).me f .d, vecEnt (at_ 0 0).me f .a with
      | .ok d, .ok a => d == a && runsB f (if d.int then 12 else 24) (at_ 0 0) && runsB f 48 (at_ 0 0) &&
          (8 ≤ v || ((⟨v, d, a, false, 1, 0⟩ : Red).tree 0 ((List.range a.lanes).map fun i => some ((⟨v, d, a, false, 1, 0⟩ : Red).leaf a i)) 0 10).1.isSome)
      | _, _ => false) = true := by
  refine ⟨?_, ?_⟩ <;> decide +kernel

theorem wit_VectorSearches :
    ([form (.vec 3 7) (.vec 1 5), form (.vec 3 6) (.vec 1 5) (.vec 2 5)].all fun f =>
      runsB f 48 (at_ 0 0) && !shaped f && (vecEnt (at_ 0 0).me f .d).toOption.any (·.int) && (vecEnt (at_ 0 0).me f .a).toOption.any (·.int)) = true ∧
    ([vvv 7, vvv 0, form (.vec 3 7) (.vec 1 0) (.vec 2 0), vvi 7 7 1, vvi 0 0 0, form (.vec 3 7) (.vec 1 0),
      { vvi 7 7 1 with npfx := 1, vx := { Vx.default with op4 := some 4 } }].all fun f =>
      runsB f 48 (at_ 0 0) && !shaped f && runsB f 12 (at_ 0 0) && (vecEnt (at_ 0 0).me f .d).toOption.any (·.w == 32) &&
        (vecEnt (at_ 0 0).me f .a).toOption.any (·.w == 32)) = true := by
  refine ⟨?_, ?_⟩ <;> decide +kernel

/-- Vectors through an LA or a base, unit-strided, at a stride and at offsets, with m1 as mask. -/
def vldF (e : Nat) (m b : Operand) : Form := { form (.vec 3 e) m b with npfx := 1, vx := { Vx.default with mask := 1 } }
def vstF (e : Nat) (m b : Operand) : Form := { form m (.vec 3 e) b with npfx := 1, vx := { Vx.default with mask := 1 } }

/-- Some lanes active, and a base in s1. -/
def masked (m : MaskWord) (base : Word) : State := at_ 0 0 fun x => (regs [(1, base), (2, 12)] x).setM 1 m

theorem wit_VectorMemory :
    ([0, 5, 10].all fun e => [(.none : Operand), .vec 2 7].all fun b => [vldF e (.la 1 0) b, vstF e (.la 1 0) b].all fun f =>
      [masked 5 0xFF00, masked 3 0xFFFC, masked 0 0].all fun s => runsB f (12 + 64 * 16) s) = true ∧
    ((checkLa 0 0xFFFC 4 4).toOption.isSome = true ∧ (errOf (checkLa 0 0x10000 4 4)).isSome = true ∧
      (masked 5 0xFF00).stallPoison 0 0xFF00 4 = none ∧ (masked 5 0xFF00).me.actives (vldF 0 (.la 1 0) .none) 16 = [0, 2]) ∧
    ([.none, .scalar 2].all fun b => [vldF 0 (.bo 1 0) b, vstF 0 (.bo 1 0) b].all fun f => let s := masked 5 0x1000
      runsB f (planCost (if f.d.entry.isSome then ldstPlan f .a .d s else ldstPlan f .d .a s)) s && s.myCore.c1.isEmpty &&
        s.myCore.freeEntry == some 0 && (s.checkVa s.me.vf 0x1000 4).toOption.isSome && (s.checkVa s.me.vf 0x1008 4).toOption.isSome) = true ∧
    ([true, false].all fun m => let s := if m then mapped (masked 5 0x1000) else masked 5 0x1000
      [0x1000, 0x1008].all fun a => s.foreseen 0 s.me.asid .rd (scalarElem a 4 0) == m) = true ∧
    ([vldF 7 (.bo 1 0) (.vec 2 7), vstF 7 (.bo 1 0) (.vec 2 7)].all fun f => let s := masked 5 0x1000
      runsB f (planCost (if f.d.num == 3 then gathPlan f .a .d s else gathPlan f .d .a s)) s) = true := by
  refine ⟨?_, ?_, ?_, ?_, ?_⟩ <;> decide +kernel

/-- A quantised vector's descriptor in s1: blocks by `t`, type `ty`, part and side area (R359). -/
def quantS (t ty part side : Nat) : State := at_ 0 0 (regs [(1, BitVec.ofNat 64 (t + ty * 16 + part * 256 + side * 2 ^ 24))])

theorem wit_QuantisedVectors :
    ([(0, 0, 0, 0), (15, 4, 7, 0xFF70), (3, 2, 3, 0x100)].all fun p =>
      let s := quantS p.1 p.2.1 p.2.2.1 p.2.2.2
      [(form (.vec 3 8) (.vec 1 0) (.scalar 1), true), (form (.vec 3 0) (.vec 1 8) (.scalar 1), false)].all fun fq =>
        runsB fq.1 48 s && !shaped fq.1 && (match (if fq.2 then qPlan fq.1 .a .d s else qPlan fq.1 .d .a s) with
          | .ok q => q.n.isNone && q.q.side == p.2.2.2 && (checkLa 0 (BitVec.ofNat 64 q.q.side) 1 16).toOption == some (0, p.2.2.2) &&
              s.stallPoison 0 p.2.2.2 144 == none && decide (p.2.2.2 + 144 ≤ 65536) && decide (q.m ≤ 128) &&
              (match q.flt, q.code with
                | .reg a, .reg b => (a, b) == (if fq.2 then (1, 3) else (3, 1))
                | _, _ => false)
          | .error _ => false)) = true := by decide +kernel

/-- A matrix program of context 2 of core 0 at slot 0x100, with default entries and registers. -/
def mseqOf (q : Seq → Seq := id) : State :=
  seqAt 0 2 .matrixSeq fun r => q { r with pos := 0x100, snap := [(0, 0x81C1FEF1), (1, 0x8141FCF1), (5, 0x80980001), (7, 0x81980001)], regs := [(1, 0x400), (2, 0x4000), (3, 0x40)] }

/-- Matrix commands with their operands in the own stall. -/
def mgeoF (e : Nat) (a : Nat := 1) : Form := form (.fmt 1) (.fmt a) (.imm 20 e)
def mmaF : Form := form (.acc 1 0) (.la 1 0) (.la 2 0)
def accD (e : Nat := 0) : Form := form (.acc 1 e) (.la 1 0)
def accA (e : Nat) (b : Operand) : Form := form (.la 1 0) (.acc 1 e) b

/-- The core's queue of matrix commands is full. -/
def cmdsFull (s : State) : State := onCore (fun k => { k with cmdq := [1, 2, 3, 4] }) s

theorem wit_MatrixCommands :
    ([mgeoF 0, mgeoF (31 + 47 * 32 + 31 * 2 ^ 11), mgeoF (48 * 32), mgeoF (2 ^ 16), mgeoF 0 5, mmaF, accD, accD 1, accA 0 .none, accA 0 (.la 3 0), accA 1 .none].all fun f =>
      [mseqOf, cmdsFull mseqOf].all fun s => commandsB f .matrixSeq 0 s) = true ∧
    (mseqOf.myCore.cmdq.length < 4 ∧ 4 ≤ (cmdsFull mseqOf).myCore.cmdq.length) ∧
    (let a := mseqOf.engEntry 1
     let b := mseqOf.engEntry 5
     a.getLsbD 31 = true ∧ b.getLsbD 31 = true ∧ (entOf a).w = 16 ∧ (entOf b).w = 8) ∧
    (let s := mseqOf fun q => { q with fa := 1, fb := 1 }
     commandsB mmaF .matrixSeq 0 s = true ∧ (s.matrixRange mmaF.a (operandBytes (entOf (s.engEntry 1)) 1024)).isSome = true ∧
       (s.matrixRange mmaF.b (operandBytes (entOf (s.engEntry 1)) 1536)).isSome = true ∧ (s.matrixRange accD.a 6144).isSome = true ∧
       (s.matrixRange (accA 1 .none).d (1536 * (entOf (s.engEntry 1)).w / 8)).isSome = true ∧ (s.matrixSync (.la 3 0)).isSome = true ∧
       s.matrixSync .none = some none) ∧
    (let s := mseqOf fun q => { q with regs := [(1, 0xF000)] }; s.matrixRange accD.a 6144 = none ∧ commandsB accD .matrixSeq 0 s = true) ∧
    ((entOf (mseqOf.engEntry 9)).valid = false ∧ (entOf (mseqOf.engEntry 1)).valid = true ∧ (entOf (mseqOf.engEntry 1)).pol ≠ 5) ∧
    runsB mmaF 4 (at_ 0 0) = true := by
  refine ⟨?_, ?_, ?_, ?_, ?_, ?_, ?_⟩ <;> decide +kernel

/-- Engine control commands. -/
def ewaitF (b : Nat) : Form := form .none (.la 3 0) (.imm 20 b)
def eguardF : Form := form (.slot 15)
def eloopF (n count : Nat) : Form := form (.imm 16 (n + 0xFF00)) (.scalar 1) (.imm 20 count)
def ejmpF (v : Nat) : Form := form .none .none (.imm 24 v)

/-- A level of one slot at 0x100 with `rem` iterations left. -/
def levelOf (rem : Nat) : ELoop := ⟨rem, 1, 0x100, -64, 1⟩

theorem wit_ProgramCommands :
    ([mseqOf, seqAt 0 2 .copySeq].all fun s => [form, ewaitF 0, eguardF, eloopF 0 1, eloopF 1 0, eloopF 255 0xFFFFF, ejmpF 0, ejmpF (2 ^ 24 - 16), ejmpF (2 ^ 24 - 17),
      ejmpF (4096 - 16), ejmpF 4095].all fun f => commandsB f s.cur.unit 4 s) = true ∧
    (mseqOf.mySeq.ops = [] ∧ (mseqOf fun q => { q with ops := [7] }).mySeq.ops ≠ [] ∧ (mseqOf fun q => { q with loops := [levelOf 1, levelOf 2] }).mySeq.loops.length = 2) ∧
    ([0, 1, 2 ^ 23 - 1, 2 ^ 23, 2 ^ 24 - 1].all fun g => let s := mseqOf.stallWrite 0 0x40 16 (g * 2 ^ 80)
      (syncPlace 0 (s.engAddr (ewaitF 0).a)).toOption == some (0, 0x40) && bits (s.stallRead 0 0x40 16) 80 24 == g && commandsB (ewaitF 0) .matrixSeq 4 s) = true ∧
    ([Guard.hold, .run, .skip].all fun g => let s := mseqOf.modMe fun x => x.setGuard 15 g
      s.me.guard 15 == g && commandsB eguardF .matrixSeq 4 s) = true ∧
    ([1, 2].all fun r => ({ Seq.reset with loops := [levelOf r] } : Seq).loops == [] ++ [levelOf r]) = true ∧
    (let s := seqAt 0 2 .copySeq fun q => { q with regs := [(1, 0x40), (2, 63)] }
     commandsB swD .copySeq 16 s = true ∧ commandsB (cbF (.la 1 0)) .copySeq 16 s = true ∧ (syncPlace 0 (s.engAddr swD.d)).toOption = some (0, 0x40) ∧
       (checkLa 0 (s.engAddr (.la 1 0) + BitVec.ofNat 64 (8 * bits (s.engVal (.scalar 2)).toNat 6 26)) 8 8).toOption.isSome = true) := by
  refine ⟨?_, ?_, ?_, ?_, ?_, ?_⟩ <;> decide +kernel

/-- A matrix command of context 2 of core 0 with its operand at `va`. -/
def matOpOf (i : Instr) (va : Nat) : EngOp :=
  ⟨0, 2, 0, .matrix i va 0x2000 1 32 48 32 0x8141FCF1 0x8141FCF1 0 32, none, .matrixSeq, 0, 0, 0, [], 0, 0, 0, false, false, [], [], [], [], [], [], [(0, 0, 0x40)], [], [], []⟩

/-- That command at the head of its core's queue, and in the tile's unit. -/
def queued (i : Instr) (va : Nat) (x : Ctx → Ctx := id) : State :=
  { (at_ 0 2 x).modCore 0 (fun k => { k with cmdq := [9] }) with ops := [(9, matOpOf i va)] }
def running (i : Instr) (va : Nat) : State := { queued i va with arbs := [(0, ⟨0, 0, some 9⟩)], c2 := [lineOf40 false 0x40], mmaErr := [] }

theorem wit_MatrixEvents :
    ([queued (.macz form) 0, queued (.mchk form) 0, queued (.macld form) (meshBase + 0xE800), queued (.macst form) (meshBase + 65536 * 3)].all fun s =>
      s.arbs.get 0 ⟨7, 0, none⟩ == ⟨7, 0, none⟩ && s.visit 0 ⟨7, 0, none⟩ == some (0, 1, 9) && s.ops.length == 1 &&
        (s.ops.all fun e => e.1 == 9 && !e.2.finished && e.2.mat.isSome) && (s.ctx 0 2).sumsMatch 1) = true ∧
    (let s := queued (.mchk form) 0 fun x => { x with accSum := [(32, 1)] }; (s.ctx 0 2).sumsMatch 1 = false ∧ s.visit 0 ⟨7, 0, none⟩ = some (0, 1, 9)) ∧
    (0xE800 + 6144 ≤ 65536 ∧ (queued (.macld form) (meshBase + 0xE800)).stallPoison 0 0xE800 6144 = none) ∧
    (let s := running (.mma mmaF) 0x1000
     s.arbs.find? (·.1 == tileOf 0) = some (tileOf 0, ⟨0, 0, some 9⟩) ∧ s.mmaErr.get 0 0 = 0 ∧ 0x1000 < meshBase ∧ 0x2000 < meshBase) ∧
    (let s := { running (.mma mmaF) 0x1000 with c2 := [{ lineOf40 false 0x40 with slice := 0, pins := 1 }] }
     s.held = [] ∧ (matOpOf (.mma mmaF) 0x1000).pinned = [(0, 0, 0x40)] ∧ (s.c2Line 0 0 0x40).isSome = true) := by
  refine ⟨?_, ?_, ?_, ?_, ?_⟩ <;> decide +kernel

/-- Stack 0's quarter in force: 1,024 blocks (R96). -/
def kvOn (s : State) : State :=
  { s with pkg := { s.pkg with kvPool := [(0, 0x4000 + 10 * 2 ^ 33 + 0x2000 * 2 ^ 38 + 0x3000 * 2 ^ 71 + 2 ^ 104 + 0x4000 * 2 ^ 120 + 6 * 2 ^ 153 + 2 ^ 158)] } }

/-- A request of sequence 9, head 0 and block 2 at 0x40 of the stall, with operands and a sync word above it (R384). -/
def kvReqAt (r : Nat) (x : Ctx → Ctx := id) : State :=
  kvOn ((at_ 0 0 fun y => regs [(1, 0x40)] (x y)).stallWrite 0 0x40 64
    (9 + 2 * 2 ^ 40 + 1 * 2 ^ 72 + 1 * 2 ^ 77 + 1 * 2 ^ 82 + 0x1000 * 2 ^ 160 + 0x2000 * 2 ^ 184 + 0x80 * 2 ^ 208 + r))

/-- One record of the stall, and a second with a scalar. -/
def kvF : Form := form (.scalar 3) (.la 1 0) (.la 2 0)
def pxF (b : Nat) : Form := form (.scalar 3) (.la 1 0) (.imm 20 b)

/-- A sequence that is parked. -/
def parkOf (seq state : Nat) : Park := ⟨0x8000, seq * 2 ^ 232, 0, none, 0, 0x9000, 0, state, 0, [], [], false, 0⟩

/-- An image of one block of head 0 at 0x40 of the stall (R108). -/
def imageAt (n len : Nat) : State := kvOn ((at_ 0 0 (regs [(1, 0x40)])).stallWrite 0 0x40 64 (0x77 + n * 2 ^ 80 + len * 2 ^ 96))

theorem wit_KvStoreInstructions :
    ([kvReqAt 0, kvReqAt (3 * 2 ^ 68), kvReqAt (2 ^ 70), kvReqAt (2 ^ 255), withStore (kvReqAt 0), imageAt 0 1, imageAt 1 192, imageAt 12 193, imageAt 13 1].all fun s =>
      [kvF, pxF 0, pxF 1, pxF 2].all fun f => runsB f 16 s && runsB f 32 s && (s.relWait.isNone == s.myCore.journal.isEmpty) && (readStallRec s 0x40 64).toOption.isSome) = true ∧
    ([(kvReqAt (3 * 2 ^ 68), true), (kvReqAt (2 ^ 70), true), (kvReqAt 0, false)].all fun p =>
      (readStallRec p.1 0x40 64).toOption.any fun r => kvReqBad .kvapp r.2 == p.2) = true ∧
    ((errOf (readStallRec (at_ 0 0) 0x41 64)).isSome = true ∧ (errOf (kvappReq (kvReqAt (2 ^ 70)) 0x40)).isSome = true ∧
      (kvappReq (kvReqAt 0) 0x40).toOption.isSome = true ∧ (readKvReq (kvReqAt 0) .kvrel 0x40).toOption.isSome = true ∧
      (readKvReq (kvReqAt 0) .kvmap 0x40).toOption.isSome = true) ∧
    (let s : State := { kvReqAt 0 with parks := [(1, parkOf 9 3)] }; s.seqParked 0 9 = true ∧ (kvReqAt 0).seqParked 0 9 = false) ∧
    (((imageAt 1 192).kvQ 0).isSome = true ∧ (kvOn (at_ 0 0)).kvQ 1 = none) ∧
    (((imageAt 1 192).kvQ 0).all fun q =>
      ((imageAt 1 192).pxFind q 0 0 0x77).isNone && ((imageAt 1 192).pxInsert q 0 (0x77 + 2 ^ 80 + 192 * 2 ^ 96)).2.1.isNone &&
      (let s := (imageAt 1 192).physWrite ((q.bucket 0x77).headD 0) 64 (0x77 + 2 ^ 80 + 192 * 2 ^ 96); (s.pxFind q 0 0 0x77).isSome)) = true ∧
    (let s : State := { kvReqAt 0 with cur := ⟨0, 0, .copySeq⟩ }.modSeq fun q => { q with live := true, regs := [(1, 0x40)], snap := [(1, 0x8141FCF1)] }
     commandsB (form .none (.la 1 0)) .copySeq 16 s = true ∧ (kvappReq s (s.engAddr (.la 1 0))).toOption.isSome = true ∧
       (let u := s.modSeq fun q => { q with snap := [] }
        (errOf (kvappReq u (u.engAddr (.la 1 0)))).map (·.1) = some cKVFMT ∧ (readKvReq u .kvapp (u.engAddr (.la 1 0))).toOption.isSome = true ∧
          commandsB (form .none (.la 1 0)) .copySeq 16 u = true ∧ (syncPlace 0 (BitVec.ofNat 64 0x80)).toOption = some (0, 0x80)) ∧
       (let u := s.modSeq fun q => { q with regs := [(1, 0x41)] }
        ((errOf (kvappReq u (u.engAddr (.la 1 0)))).any fun e => e.1 != cKVFMT) = true)) := by
  refine ⟨?_, ?_, ?_, ?_, ?_, ?_, ?_⟩ <;> decide +kernel

/-- AMRG with a descriptor in s2: B's LA, DSEL and G − 1 (R390). -/
def amrgF : Form := form (.la 3 0) (.la 1 0) (.scalar 2)
def amrging (b : Nat) : State := at_ 0 0 (regs [(1, 0x1000), (2, BitVec.ofNat 64 b), (3, 0xC000)])

/-- An operation of the pitch map under way. -/
def kvOp (act : EngAct) (q : EngOp → EngOp := id) : State :=
  kvOn { at_ 0 0 with ops := [(5, q ⟨0, 0, 0, act, some (0, 0x80), .context, 0, 1, 0, [], 64, 0, 0, true, false, [], [], [], [], [], [], [], [], [], []⟩)] }

/-- A KVAPP of block 2 of sequence 9 in a slot, and an ATTN of no blocks whose result ends its stall. -/
def kvappAct (slot : Nat) : EngAct := .kvapp (meshBase + 0x40) 9 0 2 slot 0 0x8141FCF1 0x8141FCF1 (meshBase + 0x1000) (meshBase + 0x2000)
def attnAct (nlb dsel gm1 bla : Nat) : EngAct := .attn 9 0 2 nlb dsel gm1 0x8141FCF1 0x8141FCF1 0x8141FCF1 0 (meshBase + 0x1000) (meshBase + bla)

/-- That block in HBM with `n` tokens (R98). -/
def withBlock (n : Nat) (s : State) : State :=
  match s.kvQ 0 with
  | some q => s.setMapEntry q (q.probe ⟨0, 9, 0, 2⟩) (mkEntry ⟨0, 9, 0, 2⟩ esLive false 0 n 0 false)
  | none => s

theorem wit_AttentionAndPitchMap :
    ([kvReqAt 0, kvReqAt (3 * 2 ^ 68), withStore (kvReqAt 0)].all fun s => runsB kvF 16 s && (readStallRec s 0x40 64).toOption.isSome) = true ∧
    ((attnReq (kvReqAt 0) 0x40).toOption.isSome = true ∧ (errOf (attnReq (kvReqAt (3 * 2 ^ 68)) 0x40)).isSome = true) ∧
    ([(0x4000, 0, 0), (0x4000 + 2 * 2 ^ 24 + 7 * 2 ^ 26, 2, 7), (0x4000 + 3 * 2 ^ 24, 3, 0), (0x4000 + 2 ^ 29, 0, 0)].all fun p =>
      let n := (p.2.2 + 1) * (64 + 4 * (64 * 2 ^ p.2.1))
      runsB amrgF (3 * 16 * (n / 64)) (amrging p.1) && (checkLa 0 0x1000 n 64).toOption == some (0, 0x1000) && (checkLa 0 0x4000 n 64).toOption == some (0, 0x4000) &&
        (checkLa 0 0xC000 n 64).toOption == some (0, 0xC000) && decide (0x4000 + n ≤ 65536)) = true ∧
    (let s := kvOp (kvappAct 3)
     ((s.engOp 5).any fun o => o.low == 0 && !o.finished) = true ∧ s.kvWait = [] ∧ s.kvPinned ⟨0, 9, 0, 2⟩ = false ∧
       (let u : State := { s with kvWait := [4, 5], ops := s.ops ++ s.ops.map fun e => (4, e.2) }
        ((u.engOp 5).isSome ∧ u.kvWait.takeWhile (· != 5) = [4] ∧ u.kvKeyOf 4 = some ⟨0, 9, 0, 2⟩)) ∧ (s.kvQ 1).isNone = true ∧ (s.kvQ 0).isSome = true ∧ s.kvMoving ⟨0, 9, 0, 2⟩ = false ∧ s.seqParked 0 9 = false ∧
       ((s.kvQ 0).all fun q => (s.kvLookup q ⟨0, 9, 0, 2⟩).isNone) = true ∧ ({ s with parks := [(1, parkOf 9 7)] } : State).seqParked 0 9 = true) ∧
    (let s := withBlock 3 (kvOp (kvappAct 3))
     ((s.kvQ 0).all fun q => (s.kvLookup q ⟨0, 9, 0, 2⟩).any fun h => h.tier != 2 && !h.shared && eState (s.kvHolder q h) == esLive && eNtok (s.kvHolder q h) == 3) = true) ∧
    ([(0, 0, 0xFEC0), (2, 7, 0x5000)].all fun p => let s := kvOp (attnAct 0 p.1 p.2.1 p.2.2)
      (s.engOp 5).isSome && decide (p.2.2 + (p.2.1 + 1) * (64 + 256 * 2 ^ p.1) ≤ 65536) &&
        (List.range 8).all fun h => (stallAt s (meshBase + 0x1000 + h * (64 * 2 ^ p.1 * 16 / 8)) (64 * 2 ^ p.1 * 16 / 8)).2.isNone) = true ∧
    (let s := kvOp (attnAct 1 0 0 0x2000) fun o => { o with data := [(64, 1)], trips := [(63, [⟨0, 1, [], 1, 0, 0, 0⟩])] }
     (s.engOp 5).any (fun o => o.slicePins.get 63 [] == [] && decide (1 ≤ o.data.get (1 + 63) 0) && !o.finished && o.expects.get (64 + 63 / 16) 1 == 1) = true) ∧
    ([kvOp (attnAct 1 0 0 0x2000), withBlock 3 (kvOp (attnAct 1 0 0 0x2000)), { withBlock 3 (kvOp (attnAct 1 0 0 0x2000)) with diePurse := [(0, -5)] }].all fun s =>
      (s.kvQ 0).any fun q => q == kvqOf 0 (s.pkg.kvPool.get 0 0) && (s.engOp 5).any fun o =>
        o.slicePins.get (q.home ⟨0, 9, 0, 2⟩) [] == [] && ((List.range (1 - o.data.get (1 + q.home ⟨0, 9, 0, 2⟩) 0)).find? fun i =>
          q.home ⟨0, 9, 0, 2 + o.data.get (1 + q.home ⟨0, 9, 0, 2⟩) 0 + i⟩ == q.home ⟨0, 9, 0, 2⟩) == some 0 &&
        match s.kvLookup q ⟨0, 9, 0, 2⟩ with
        | none => s.mem == (kvOp (attnAct 1 0 0 0x2000)).mem
        | some h => h.tier != 2 && s.c2.isEmpty && (s.physPoison (h.pa q) 16384).isNone && eNtok (s.kvHolder q h) == 3 &&
            decide ((32 * 64 * 1 * 16 / 16 : Nat) ≤ s.diePurse.get 0 (1048576 * 1024)) == s.diePurse.isEmpty) = true ∧
    (let s := kvOp (attnAct 1 0 0 0x2000) fun o => { o with merges := [(128, [⟨0, 1, List.replicate 64 0, 1, 0, 0, 0⟩])] }
     (s.engOp 5).any (fun o => o.poisonHeads.isEmpty && decide (0x2000 + (o.merges.get 128 []).length * (64 + 256) ≤ 65536)) = true) := by
  refine ⟨?_, ?_, ?_, ?_, ?_, ?_, ?_, ?_, ?_⟩ <;> decide +kernel

/-- A helper of launch 7 about to PARK at 0x8000 the request at 0x40 of its stall, which waits on 0x9000 (R391). -/
def parking (cls : Nat) (req : Nat) (c : Nat := 3) (x : Ctx → Ctx := id) : State :=
  { (at_ 0 c fun y => x { regs [(1, 0x8000), (2, 0x40)] y with launch := some 7 }).stallWrite 0 0x40 32 (0x1000 + 0x9000 * 2 ^ 64 + 9 * 2 ^ 128 + req) with
    launches := [(7, launchOf 0 2)], tlb := [⟨0, 0, ⟨0, 2 ^ 16, true, true, true, cls, 0, 0, 0, 0, false⟩⟩] }

/-- What the statement asks of a PARK. -/
def parksB (s : State) (good : Bool) : Bool :=
  let a := s.parkPage 0x8000 64
  let b := a.2.parkPage 0x9000 8
  runsB kvF 56 s && s.cur.ctx != 0 && s.me.loads.isEmpty && s.relWait.isNone && (readStallRec s 0x40 32).toOption.isSome && s.relWait.isNone &&
    (match a.1, b.1 with
      | some (rva, rt), some (wva, wt) => rva == 0x8000 && wva == 0x9000 && (rt.cls == 3) == good && b.2.cur == s.cur && b.2.me == s.me &&
          decide (b.2.watches (wt.slice 0 0 wva) < 256) && b.2.parks.all fun e => e.1 < b.2.nextId
      | _, _ => false)

theorem wit_ParkWakeHeatMigr :
    (parksB (parking 3 0) true && parksB (parking 0 0) false && parksB ((parking 3 0).physWrite 0x9000 8 1) true && runsB kvF 56 (parking 3 0 0) &&
      runsB kvF 56 (withStore (parking 3 0))) = true ∧
    ((errOf (readStallRec (at_ 0 3) 0x41 32)).isSome = true ∧ (parking 3 0).engineWork 0 3 = false ∧ (parking 3 0).myCore.queue = none ∧
      (parking 3 0).seqParked 0 9 = false ∧ ({ parking 3 0 with parks := [(0, parkOf 9 2)] } : State).seqParked 0 9 = true ∧
      ((parking 3 0).parkPage 0x20000 64).1 = none ∧ (parking 3 0).launches.find? (·.1 == 7) = some (7, launchOf 0 2)) ∧
    ([0, 1, 2, 3].all fun b => let f := form (.scalar 3) (.bo 1 0) (.imm 20 b)
      runsB f 40 (mapped (at_ 0 0 (regs [(1, 0x8000)]))) && runsB f 40 (withStore (at_ 0 0))) = true ∧
    (let s := mapped (at_ 0 0 (regs [(1, 0x8000)]))
     (s.checkVa 0 0x8000 1).toOption = some (.virt 0x8000) ∧ (s.translate 0 0 0x8000).1.toOption.any (fun t => transFault t .rw 0x8000 == none && !t.fab) = true ∧
       ((s.namedPage 0x8000).1.toOption.any fun t => !t.fab && t.tier == 0 && decide (t.size ≤ 0x200000)) = true ∧ (s.namedPage 0x8000).2.cur = s.cur ∧
       (errOf (s.namedPage 0x20000).1).isSome = true ∧ (errOf (s.checkVa 0 (1 <<< 55) 1)).isSome = true ∧ s.parks = [] ∧
       ({ s with parks := [(1, parkOf 9 2)] } : State).parks.any (fun p => p.2.pa == 0x8000) = true) ∧
    (let s := mapped (at_ 0 0 (regs [(1, 0x8000)]))
     ((s.namedPage 0x8000).1.toOption.any fun t => let v := (s.namedPage 0x8000).2.register 0 t
       !v.pageMoving t.tier t.base && !v.holdsPark t && (v.regOf t).isSome && t.tier == 0 &&
         ((v.regOf t).any fun r => (v.movePage r.2 0 t.base 1 none).isNone &&
           ((((v.physWrite 0x50000 8 cxlBase).modVf 0 fun x => { x with pools := [(1, 0x50000)], frames := [(1, 1)] }).movePage r.2 0 t.base 1 none).isSome))) = true) := by
  refine ⟨?_, ?_, ?_, ?_, ?_⟩ <;> decide +kernel

/-- A service ring of two entries at 0x4000, SVC 0xFFFF, PWREQ and C2OP. -/
def svcF (v : Nat) : Form := form (.scalar 3) (.scalar 1) (.imm 20 v)
def withRing (s : State) : State := s.modVf 0 fun v => { v with svcRing := 0x4000 + 1 }
def c2opF : Form := form (.scalar 3) (.bo 1 0) (.scalar 2)

/-- C2OP of operation `op` on 64 bytes at 0x1000 of address space 0. -/
def c2opS (op : Nat) (len : Nat := 64) (c : Nat := 0) : State :=
  { at_ 0 c (regs [(1, 0x1000), (2, BitVec.ofNat 64 (op + len * 2 ^ 8))]) with c2 := [lineOf40 true 0x40] }

theorem wit_ServicePowerAndCacheControl :
    ([0, 2 ^ 16 - 1, 2 ^ 16].all fun v => runsB (svcF v) 4 (withRing (at_ 0 0))) = true ∧
    (let s := withRing (at_ 0 0)
     s.svcRing 0 = some (0x4000, 1) ∧ s.svcs = [] ∧ (s.vf 0).svcTail < 2 ^ 1 ∧ s.relWait = none ∧
       (({ s with svcs := [⟨0, 0, 0, 0, some 5⟩] } : State).svcs.find? fun r => r.core == 0 && r.ctx == 0) = some ⟨0, 0, 0, 0, some 5⟩ ∧
       2 ^ 1 ≤ (({ s with svcs := [⟨0, 0, 1, 0, none⟩, ⟨0, 1, 1, 1, none⟩] } : State).svcs.filter fun r => r.vf == 0 && r.reply.isNone).length) ∧
    ([(0 : Word), 31, 32].all fun a => runsB sss 4 (at_ 0 0 (regs [(1, a)])) && runsB sss 4 (at_ 0 3 (regs [(1, a)]))) = true ∧
    ((at_ 0 0).pwdone = [] ∧ (at_ 0 0).pwreqs = [] ∧ ({ at_ 0 0 with pwdone := [(0, 0, 3)] } : State).pwdone.find? (fun r => r.1 == 0 && r.2.1 == 0) = some (0, 0, 3)) ∧
    ([c2opS 0, c2opS 1, c2opS 2, c2opS 3, c2opS 4, c2opS 5, c2opS 0x10, c2opS 0 0, c2opS 1 (2 ^ 40 - 1), withStore (c2opS 2), c2opS 2 64 3].all fun s =>
      runsB c2opF 4 s && canonical (s.me.opAddr c2opF.a)) = true ∧
    (let s := c2opS 1
     s.me.asid / 1024 = s.me.vf ∧ s.fills = [] ∧ (s.cleanRange ⟨0, 0x1000, 0x1040⟩).dirtyIn ⟨0, 0x1000, 0x1040⟩ = false ∧
       (let u : State := { s with diePurse := [(0, -5), (1, -5), (2, -5), (3, -5)] }
        (u.cleanRange ⟨0, 0x1000, 0x1040⟩).dirtyIn ⟨0, 0x1000, 0x1040⟩ = true ∧ runsB c2opF 4 u = true) ∧ (s.c2.all fun l => (⟨0, 0x1000, 0x1040⟩ : C2Range).hasLine l.asid l.vline && l.pins == 0) = true ∧ s.relWait = none) ∧
    (let s := at_ 0 0 (regs [(1, 1 <<< 55), (2, 1024 <<< 48)]); canonical (s.me.opAddr c2opF.a) = false ∧ runsB c2opF 4 s = true ∧ 1024 / 1024 ≠ s.me.vf) := by
  refine ⟨?_, ?_, ?_, ?_, ?_, ?_, ?_⟩ <;> decide +kernel

/-- The move of a page of 64 KiB from one place to another. -/
def moveOf (src st dst dt : Nat) : Move := ⟨0, 0, .page 0 0x10000 0x10000, src, st, dst, dt, none, none, none, true, false⟩

/-- Page tables of ASID 0 that map the page at 0x10000 to its physical address, by a span member (R21 to R23). -/
def paged (s : State) : State :=
  let at_ (s : State) (p : Nat × Nat) : State := s.physWrite p.1 8 p.2
  (([(0x40000, 0x42001), (0x42000, 0x43001), (0x43000, 0x44001), (0x44000, 0x45001), (0x45000, 0x46001), (0x46080, 0x10807)] : List (Nat × Nat)).foldl at_ s).modVf 0
    fun v => { v with asidTab := 0x40000 }

/-- A park in a state with T1 and T2, over no blocks. -/
def parkIn (state t1 t2 age : Nat) (pushed_ : Bool) : State :=
  { at_ 0 0 with clk := 100 * msCycles,
                 parks := [(1, ⟨0x8000, t1 * 2 ^ 312 + t2 * 2 ^ 328 + age * 2 ^ 352, 0, none, 0, 0x9000, 0, state, 0, [], [], pushed_, 0⟩)] }

theorem wit_MigrationAndParkEvents :
    (let s := (at_ 0 0).physWrite 0x10000 8 7
     s.memOk = true ∧ s.c2 = [] ∧ (moveOf 0x10000 0 0x20000 0).srcTier < 2 ∧ 0x10000 + 0x10000 ≤ 0x20000 ∧ 0x30000 % 8 = 0) ∧
    (let s : State := { at_ 0 0 with moves := [(1, moveOf 0x10000 0 0x20000 0)] }
     s.moves.find? (·.1 == 1) = some (1, moveOf 0x10000 0 0x20000 0) ∧ s.held = [] ∧ s.switchPinned 0 0x10000 0x10000 = false ∧
       ({ s with c2 := [{ lineOf40 false 0x400 with pins := 1 }] } : State).switchPinned 0 0x10000 0x10000 = true ∧ destOk 0 (2 ^ 45) 0x10000 = false ∧
       destOk 0 0x20000 0x10000 = true ∧ s.switchFills 0 0x10000 0x10000 = false ∧
       ({ s with fills := [(5, { fillOf40 with vline := 0x400 })] } : State).switchFills 0 0x10000 0x10000 = true) ∧
    ((paged { at_ 0 0 with moves := [(1, moveOf 0x10000 0 0x20000 0)] }).mappedAt 0 0x10000 0 0x10000 = some 0x46080) ∧
    (let s : State := { at_ 0 0 with heat := [(3, 65535)], pkg := { Pkg.reset with heatBase := 0x1000 } }
     s.regs = [] ∧ (s.heat.map (·.1)).Nodup ∧ s.pkg.heatBase ≠ 0 ∧ inHbm (heatSlot 0x1000 3) 4 = true) ∧
    ([parkIn 2 50 60 40 false, parkIn 2 50 60 50 false, parkIn 2 101 200 0 false, parkIn 2 0xFFFF 0xFFFFFF 0 false, parkIn 4 50 60 60 false, parkIn 4 50 0xFFFFFF 60 false,
      parkIn 3 50 60 55 false, parkIn 3 50 60 60 false, parkIn 7 50 60 60 false, parkIn 7 50 60 60 true].all fun s =>
        s.moves.isEmpty && s.parks.all fun e => e.2.nlb == 0 && e.2.todo.isEmpty &&
          (s.lqPush (bits e.2.raw 302 8) (bits e.2.raw 300 2) e.2.entry e.2.launch).isNone) = true ∧
    ((let s := (parkIn 7 50 60 60 false).physWrite 0 16 (2 + 12 * 2 ^ 33)
      s.parks.all fun e => (s.lqPush (bits e.2.raw 302 8) (bits e.2.raw 300 2) e.2.entry e.2.launch).isSome) = true) ∧
    (1024 * rowOfPa 0x400 < hbmTop ∧ (at_ 0 0).listFull 1 = false ∧ (at_ 0 0).kvQ 0 = none ∧ (at_ 0 0).retired.contains 1 = false) := by
  refine ⟨?_, ?_, ?_, ?_, ?_, ?_, ?_⟩ <;> decide +kernel

/-- A retirement list with no room (R136). -/
def retiredAll : State := { at_ 0 0 with retired := (List.range 4096).map (· + 8) }

theorem wit_RetirementListFull : retiredAll.listFull 1 = true ∧ retiredAll.retired.contains 1 = false := by decide +kernel

/-- The machine with an island changing its point. -/
def changing (c : Change) : State := { at_ 0 0 with islands := [(3, { Island.reset 3 with change := c })] }

theorem wit_PowerAndClockEvents :
    (let s : State := { at_ 0 0 with capNext := some (700, 9), pwreqs := [(0, 0, 3, 4)] }
     s.capNext = some (700, 9) ∧ (at_ 0 0).capNext = none ∧ s.pwreqs = [(0, 0, 3, 4)]) ∧
    (let s := (onCore (fun k => { k with purse := -5 }) (at_ 0 3)).modMe fun x => { x with st := .sleep }
     (s.core 0).purse = -5 ∧ (s.ctx 0 3).st = .sleep) ∧
    ([Change.raise 4, .slewDown 4, .switch 4 false, .switch 4 true].all fun c => ((changing c).island 3).change == c) = true ∧
    ((960 : Nat) ≤ [960, 1].foldl max 0 % 2 ^ 16 ∧ 880 ≤ [880].foldl max 0 % 2 ^ 16 ∧ [800].foldl max 0 % 2 ^ 16 ≤ 800) ∧
    (∀ n ∈ [0, 1, 2 ^ 31 - 1, 2 ^ 31], (n % 2 ^ 32 + 2 ^ 32 - (at_ 0 0).capLast) % 2 ^ 32 = n) ∧
    (∀ c ∈ [1000, -1000, 999, 2, -2, -999], (1000 ≤ c.natAbs) ∨ (1 < c ∧ c < 1000) ∨ ((-1000 : Int) < c ∧ c < -1)) := by
  refine ⟨?_, ?_, ?_, ?_, all_of ?_, all_of ?_⟩ <;> decide +kernel

/-- Slot 5 of a kind, deferring or not, with its run (R207). -/
def slotS (kind deferred : Nat) (r : TtRun) : State :=
  { at_ 0 0 with pkg := { Pkg.reset with ttSlot := [(5, 10 + 50 * 2 ^ 32 + kind * 2 ^ 64 + deferred * 2 ^ 66 + 2 ^ 67)] }, tt := [(5, r)], clk := 21 }

/-- A FREE helper of the pool with a record in its core's queue. -/
def popping : State :=
  let s := (at_ 0 0).modCore 0 fun k => { (k.srSet rHPOOL 0x7FE) with queue := some (queueOf false) }
  (s.corePush 0 ⟨0x1000, 0x2000, 0, 0, 0, 0, 0⟩ none).getD s

/-- A launch one of whose units waits. -/
def unitWaits (room : Bool) : State :=
  { (at_ 0 0).modCore 0 fun k => { k with queue := some (queueOf (!room)) } with
    launches := [(7, { launchOf rawOne 1 with waiting := [0] })] }

/-- Slot 5 launching the record at 0x1000, and one draining queue 0 whose list holds an entry. -/
def slotLaunch (raw : Nat) : State :=
  let s := launching raw false
  { s with pkg := { s.pkg with ttSlot := [(5, 10 + 50 * 2 ^ 32 + 2 ^ 64 + 2 ^ 67 + 0x40 * 2 ^ 128)] }, tt := [(5, ⟨none, 0, false, 0⟩)], clk := 21 }
def listed (e : QRun) (full : Bool) : State :=
  let s := onCore (fun k => { k with queue := some (queueOf full) }) (launching rawOne true)
  let s := (s.lqPush 0 0 e none).getD s
  { s with pkg := { s.pkg with ttSlot := [(5, 10 + 50 * 2 ^ 32 + 2 * 2 ^ 64 + 2 ^ 67)] }, tt := [(5, ⟨none, 1000, false, 0⟩)], clk := 21 }

/-- What is asked of a pop of that list: the entry, whether the core is the function's, and whether its queue takes it. -/
def popsB (e : QRun) (full mine : Bool) : Bool :=
  let s := listed e full
  s.draining 0 && s.lqCarry.isEmpty &&
  match s.popList 0 with
  | some (p, g, owner) => g == e && owner.isNone &&
    (s.hasCore 0 g.qcore && ((s.core g.qcore).queue.map (·.vf)) == some 0) == mine &&
    (!mine || ((({ s with ev := .launchQueuePop 0 } : State).lqDrop 0 p).pushRecord g.qcore { g with kind := 0, lrec := 0 } owner).isSome != full)
  | none => false

/-- A launch one of whose units waits for a bit at 0x200 of core 0's stall, through the mesh window (R215). -/
def unitBit (w : Nat) : State :=
  { ((held0 (at_ 0 0)).modCore 0 fun k => { k with queue := some (queueOf false) }).stallWrite 0 0x200 8 w with
    launches := [(7, { launchOf (rawOne + 2 ^ 760 + (meshBase + 0x200) * 2 ^ 704) 1 with waiting := [0] })] }

theorem wit_LaunchControllerEvents :
    ([1, 2, 3].all fun k => [0, 1].all fun d => [(⟨none, 0, false, 0⟩ : TtRun), ⟨none, 1000, false, 0⟩, ⟨none, 1000, true, 0⟩].all fun r => let s := slotS k d r
      s.slotActive (s.slotRaw 5) && slotKind (s.slotRaw 5) == k && slotDefer (s.slotRaw 5) == (d == 1) && s.overruns 5 == (r.until_ == 1000)) = true ∧
    ((at_ 0 0).slotActive ((at_ 0 0).slotRaw 5) = false ∧ ((slotS 2 1 ⟨none, 5, true, 0⟩).ttRun 5).until_ ≤ (slotS 2 1 ⟨none, 5, true, 0⟩).ns) ∧
    ((at_ 0 0).lqCarry = [] ∧ (at_ 0 0).draining 0 = false ∧ (slotS 2 0 ⟨none, 1000, false, 0⟩).draining 0 = true ∧
      (slotS 2 0 ⟨none, 1000, false, 0⟩).popList 0 = none) ∧
    ((popping.ctx 0 10).st = .free ∧ bit ((popping.core 0).srGet rHPOOL).toNat 10 = true ∧ popping.gangs = [] ∧
      (({ popping with ev := .helperPop 0 10 } : State).corePop 0).any (fun p => p.1.code == 0x1000 && p.2.2.gangs.isEmpty) = true) ∧
    ([true, false].all fun room => let s := unitWaits room
      let p := ({ s with ev := .conUnitStart 7 0 } : State).pushRecord 0 (unitEntry rawOne 0 0) (some 7)
      p.isSome == room && p.all (fun u => u.launches == s.launches) && unitCore (launchOf rawOne 1) 0 == 0) = true ∧
    (let s : State := { at_ 0 0 with gangs := [(3, ⟨0, .pending, [7], []⟩)], launches := [(7, launchOf rawOne 1)] }
     s.gangs.find? (·.1 == 3) = some (3, ⟨0, .pending, [7], []⟩) ∧ s.placeable 3 ⟨0, .pending, [7], []⟩ = false ∧
       (let u := s.modCore 0 (·.srSet rHPOOL 0x7FE)
        u.placeable 3 ⟨0, .pending, [7], []⟩ = true ∧ u.quietVf 0 = false ∧ u.gangs = s.gangs) ∧
       (({ s with gangs := [(3, ⟨0, .placed, [7], []⟩)] } : State).gangs.find? (·.1 == 3)) = some (3, ⟨0, .placed, [7], []⟩)) ∧
    ([rawOne, 0].all fun raw => let s := slotLaunch raw
      s.slotActive (s.slotRaw 5) && slotKind (s.slotRaw 5) == 1 && !s.overruns 5 && bits (s.slotRaw 5) 128 39 * 64 == 0x1000 && inHbm 0x1000 128 &&
        (((({ s with ev := .ttPeriodicLaunch 5 } : State).putRun 5 { s.ttRun 5 with cycle := (s.ttRun 5).cycle + 1 }).acceptRaw 0 0 (s.physRead 0x1000 128) (some 5)).1.isSome
          == (raw == rawOne))) = true ∧
    (popsB ⟨0x1000, 0x2000, 0, 0, 0, 0, 0⟩ false true && popsB ⟨0x1000, 0x2000, 0, 0, 0, 0, 0⟩ true true &&
      popsB ⟨0x1000, 0x2000, 0, 0, 3, 0, 0⟩ false false && popsB ⟨0, 0, 0x1000, 0, 0, 0, 1⟩ false true &&
      popsB ⟨0, 0, 0x1020, 0, 0, 0, 1⟩ false true) = true ∧
    (((listed ⟨0, 0, 0x1000, 0, 0, 0, 1⟩ false).checkVa 0 0x1000 64).toOption = some (.virt 0x1000) ∧
      ((listed ⟨0, 0, 0x1020, 0, 0, 0, 1⟩ false).checkVa 0 0x1020 64).toOption = none) ∧
    ([0, 1].all fun w => let s := unitBit w
      (s.launches.find? (·.1 == 7)).any fun e => e.2.waiting == [0] && bit e.2.raw 760 &&
        (s.checkVa e.2.vf (extend56 (bits e.2.raw 704 56)) 8).toOption == some (.mesh 0 0x200) && bit (s.stallRead 0 0x200 8) 0 == (w == 1)) = true := by
  refine ⟨?_, ?_, ?_, ?_, ?_, ?_, ?_, ?_, ?_, ?_⟩ <;> decide +kernel

/-- A context with two refused entries. -/
def refusedTwo : State :=
  onCore (fun k => { k with journal := [(5, ⟨2, 0x1000, 0, 3, 3, 0x10, false, false, false, false, none, none⟩), (63, ⟨2, 0x2000, 0, 3, 3, 0x10, false, false, false, false, none, none⟩)] })
    (at_ 0 3 fun x => { x with refusal := true })

/-- A save area's header for context 3 of core 0 (R428), with the tracks of `owned`. -/
def areaOf (ctx vf reserved mask owned : Nat) : Nat :=
  mask * 2 ^ 64 + ctx * 2 ^ 74 + reserved * 2 ^ 92 + vf * 2 ^ 202 + owned * 2 ^ 5120

/-- A context with an elapsed pre-emption request into mapped pages of class 3. -/
def preempted (busy : Bool) : State :=
  let s : State := { at_ 0 3 (fun x => { x with preq := some ⟨0, 0x8000, true⟩ }.setStat bPREQ true) with
    tlb := (List.range 4).map fun d => ⟨d, 0, ⟨0, 2 ^ 16, true, true, true, 3, 0, 0, 0, 0, false⟩⟩ }
  if busy then { s with ops := [(5, { copyOp 8 0 0 with core := 0, ctx := 3 })] } else s

theorem wit_SupervisionEvents :
    ((refusedTwo.ctx 0 3).asyncDue = true ∧ (refusedTwo.ctx 0 3).tlvl < 2 ∧
      ((refusedTwo.core 0).journal.filter fun e => e.2.ctx == 3 && e.2.state == 2).map (·.1) = [5, 63] ∧ ((at_ 0 3).ctx 0 3).asyncDue = false) ∧
    ([(1, 0), (0x8000, 3), (0, 255)].all fun p => ((onCore (fun k => { k with rqovf := p.1, ckill := p.2 }) (at_ 0 0)).core 0).eventDue) = true ∧
    (((at_ 0 0).core 0).eventDue = false) ∧
    (let s := at_ 0 3
     (s.ctx 0 10).st = .free ∧ (s.ctx 0 3).statBit bPREQ = false ∧ (s.ctx 0 3).st = .ready ∧ (s.ctx 0 3).vf = 0 ∧
       ((mapped s).areaOk 0 0 0x8000).1 = false ∧
       (({ s with tlb := (preempted false).tlb, ev := .preemptRequest 0 0 3 5 0x8000 } : State).areaOk 0 (s.ctx 0 3).asid 0x8000).1 = true) ∧
    (let s := preempted false
     s.forceDue 0 3 = true ∧ (s.ctx 0 3).block = none ∧ s.saveReady 0 3 = true ∧
       (({ s with ev := .forcedSave 0 3 } : State).writePieces ⟨0, 3, 0⟩ 0 0x8000 true (savePieces (s.core 0) 0 3 255 true)).1.toOption.isSome = true) ∧
    ((preempted true).forceDue 0 3 = true ∧ (preempted true).saveReady 0 3 = false) ∧
    (let s := (at_ 0 3).modCtx 0 3 fun x => { x with st := .saved }
     (s.restoreFrom 0 (areaOf 3 0 0 255 0)).1 = some 0 ∧ (s.restoreFrom 0 (areaOf 3 0 1 255 0)).1 = some 2 ∧ (s.restoreFrom 0 (areaOf 15 0 0 255 0)).1 = some 2 ∧
       (s.restoreFrom 1 (areaOf 3 0 0 255 0)).1 = some 2 ∧ (s.restoreFrom 0 (areaOf 4 0 0 255 0)).1 = some 1 ∧
       (s.core 0).trackBusy 3 255 = false ∧ bit (areaOf 3 0 0 255 (2 ^ 255)) 73 = false) ∧
    (held0 (at_ 0 0)).hasCore 0 127 = true ∧ (held0 debugged).myCore.stopped = none := by
  refine ⟨?_, ?_, ?_, ?_, ?_, ?_, ?_, ?_, ?_⟩ <;> decide +kernel

theorem wit_ResetAndCheckpointEvents :
    ((State.reset.vf 5).resetting = false ∧ State.reset.held = [] ∧ ((State.reset.modVf 5 fun v => { v with resetting := true }).vf 5).resetting = true ∧
      (held0 State.reset).hasCore 0 127 = true ∧ (held0 State.reset).hasCore 0 128 = false) ∧
    (bits State.reset.pkg.fwStat 0 2 = 0 ∧ bits ({ Pkg.reset with fwStat := 1 } : Pkg).fwStat 0 2 ≠ 0) ∧
    (State.reset.quiesced = false ∧ State.reset.pkg.ckptState ≠ 1 ∧ State.reset.ckpt = none ∧ ckptBytes ≤ State.reset.flashFree) ∧
    (({ State.reset with ckpt := some ⟨[], [], [], [], [], [], []⟩ } : State).ckpt.isSome = true ∧ ({ State.reset with quiesced := true } : State).quiesced = true) := by
  refine ⟨?_, ?_, ?_, ?_⟩ <;> decide +kernel

/-- A fabric window with every right on a page (R451). -/
def fabOpen : State := { at_ 0 0 with pkg := { Pkg.reset with fabWin := [(7, 1 + 2 ^ 33 + 7 * 2 ^ 66)] } }

theorem wit_HostWindowRegisters :
    (let s : State := { at_ 0 0 with heat := [(3, 65535)] }
     (s.heat.map (·.1)).Nodup ∧ (s.heat.all fun e => decide (e.1 < cxlTop / 65536)) = true ∧ s.c2 = [] ∧ (65535 : Nat) < 2 ^ 16 ∧
       inHbm (heatSlot 0x1000 3) 4 = true) ∧
    ((populated 0x1000 || inStall 0x1000) = true ∧ (populated (stallPa 3 0x40) || inStall (stallPa 3 0x40)) = true) := by
  refine ⟨?_, ?_⟩ <;> decide +kernel

theorem wit_HostAndFabricEvents :
    (inHbm 0x1000 64 = true ∧ populated (0x1000 + 64 - 1) = true ∧ inHbm (2 ^ 50) 64 = false ∧ populated 0x1000 = true) ∧
    ([66, 67, 68].all fun r => fabOpen.fabAdmits 0x1FC0 64 r && !fabOpen.fabAdmits 0x1FC8 64 r && !(at_ 0 0).fabAdmits 0x1000 64 r) = true ∧
    (let s := held0 (at_ 0 0)
     s.windowOk 0 (128 * 65536 - 8) 8 = true ∧ s.windowOk 0 (128 * 65536 - 8) 16 = false ∧ s.windowOk 0 (2 ^ 30) 8 = false) ∧
    ((at_ 0 0).pkg.fabEn = 0 ∧ ({ Pkg.reset with fabEn := 1 } : Pkg).fabEn ≠ 0 ∧ (at_ 0 0).vfLive 0 = true ∧ (at_ 0 0).vfLive 63 = false) ∧
    (let s := launching 0 true
     ((s.lqRing 0 0).any fun p => decide (38 ≤ ringFree (2 ^ p.2.1) p.2.2.1 p.2.2.2)) = true ∧ ((at_ 0 0).lqPush 0 3 (lqEntry (3 * 2 ^ 8)) none).isNone = true) ∧
    ((withRing (at_ 0 0)).svcRing 0 = some (0x4000, 1)) := by
  refine ⟨?_, ?_, ?_, ?_, ?_, ?_⟩ <;> decide +kernel

theorem wit_EncodeDecodeRoundTrip : (Instr.add (form (.scalar 63) (.scalar 0) (.imm 20 0xFFFFF))).wf = true ∧
    (Instr.vadd (shpF 0)).wf = true ∧ (Instr.xmit (xmitF (.la 2 8) (.stamp 4095))).wf = true ∧
    (Instr.pxinsRemove (pxF 1)).wf = true ∧ (Instr.c2opAsidall c2opF).wf = true := by decide +kernel

/-- ADD s3, s1, s2 in memory at the reset pc, named by the agenda. -/
def aboutToAdd : State :=
  { (up (mapped (at_ 0 0))).physWrite 0 12 0x01100002_10003100_00000000 with agenda := [.issue ⟨0, 0, .context⟩] }

/-- That ADD as a yield point with a pre-emption request pending, and a word that is ILLEGAL in itself. -/
def addYield : Instr := .add { sss with hint := .plain true false 0 }
def aboutToYield : State :=
  { (fetching addYield).modMe (fun x => ({ x with preq := some ⟨0, 0x8000, false⟩ }.setStat bPREQ true).srSet rPREQDL 1000) with agenda := [.issue ⟨0, 0, .context⟩] }
def aboutToFail : State := { fetching noRealign with agenda := [.issue ⟨0, 0, .context⟩] }

/-- A matrix program whose slot holds MACZ. -/
def aboutToClear : State :=
  { (onCore (fun k => { k with seqOwner := some 2 }) (up (seqAt 0 2 .matrixSeq))).stallWrite 0 0 16 0x00000000_50001000_A0080000 with agenda := [.issue ⟨0, 2, .matrixSeq⟩] }

theorem wit_StepRunsDecodedInstruction :
    (let s := aboutToAdd
     let s1 := ({ s with agenda := [], cur := ⟨0, 0, .context⟩ } : State).modCore 0 fun k => { k with nextIssue := s.clk + 1 }
     s.power = true ∧ s.mayTurn ⟨0, 0, .context⟩ = true ∧ s.boundaryDue 0 0 = false ∧ s.forceDue 0 0 = false ∧
       (s1.fetch 0 0).1.toOption = some (.add (form (.scalar 3) (.scalar 1) (.scalar 2))) ∧ yieldPoint (.add (form (.scalar 3) (.scalar 1) (.scalar 2))) = false ∧
       badParcel (.add (form (.scalar 3) (.scalar 1) (.scalar 2))) = none ∧ issueGap (.add (form (.scalar 3) (.scalar 1) (.scalar 2))) = 0) ∧
    (let s1 := ({ aboutToYield with agenda := [], cur := ⟨0, 0, .context⟩ } : State).modCore 0 fun k => { k with nextIssue := aboutToYield.clk + 1 }
     let u := (s1.fetch 0 0).2
     aboutToYield.mayTurn ⟨0, 0, .context⟩ = true ∧ aboutToYield.boundaryDue 0 0 = false ∧ aboutToYield.forceDue 0 0 = false ∧
       (s1.fetch 0 0).1.toOption = some addYield ∧ yieldPoint addYield = true ∧ badParcel addYield = none ∧ (u.ctx 0 0).statBit bPREQ = true ∧
       (u.ctx 0 0).preq.isSome = true ∧ (u.ctx 0 0).fresh = true ∧ u.saveReady 0 0 = true) ∧
    (let s1 := ({ aboutToFail with agenda := [], cur := ⟨0, 0, .context⟩ } : State).modCore 0 fun k => { k with nextIssue := aboutToFail.clk + 1 }
     aboutToFail.mayTurn ⟨0, 0, .context⟩ = true ∧ aboutToFail.boundaryDue 0 0 = false ∧ aboutToFail.forceDue 0 0 = false ∧
       (s1.fetch 0 0).1.toOption = some noRealign ∧ badParcel noRealign = some 1 ∧ ((s1.fetch 0 0).2.ctx 0 0).loads = []) ∧
    (let s : State := { up (at_ 0 0) with agenda := [.issue ⟨0, 0, .context⟩] }
     let s1 := ({ s with agenda := [], cur := ⟨0, 0, .context⟩ } : State).modCore 0 fun k => { k with nextIssue := s.clk + 1 }
     s.mayTurn ⟨0, 0, .context⟩ = true ∧ ((errOf (s1.fetch 0 0).1).any fun e => e.1 != fetchHeld) = true ∧ (s.ctx 0 0).stayed s.clk = false) ∧
    (let s := aboutToClear
     s.power = true ∧ s.mayTurn ⟨0, 2, .matrixSeq⟩ = true ∧ (s.slotInstr 0 (s.core 0).mseq).toOption = some (.macz (form (.acc 1 0)))) ∧
    (let s : State := { State.reset with clk := 1 }
     s.agenda = [] ∧ s.power = true ∧ (s.dueNow.map (·.1)) = some .bringUpComplete) := by
  refine ⟨?_, ?_, ?_, ?_, ?_, ?_⟩ <;> decide +kernel

theorem wit_StepNeverStops : (at_ 0 0).agentOk = true ∧ (seqAt 16383 10 .copySeq).agentOk = true := by decide +kernel

theorem wit_StepKeepsWindowRanges : State.reset.windowRanges = true ∧ (next (step State.reset)).isSome = true := by decide +kernel

/-- R446: FNSTAT reads WERR, which is sticky until read; VFQUOTA reads its reset value (R81); a register that is written only gives no
answer (log entry 23). -/
theorem test_host_reads_registers :
    (let t := ({ State.reset with vfs := [(0, { Vf.reset with werr := true })] } : State).hostRegisterRead 0x1000E8
     t.hostOut = some [1, 0, 0, 0, 0, 0, 0, 0] ∧ (t.vf 0).werr = false) ∧
    (State.reset.hostRegisterRead 0x105008).hostOut = some [0x10, 0x42, 0x08, 0, 0, 0, 0, 0] ∧
    (State.reset.hostRegisterRead 0x228).hostOut = none := by decide +kernel

/-- R442: a PWREQ that arrives while its island is changing returns BUSY, though the change is over at the sample. -/
theorem test_pwreq_during_change :
    (let s : State := { at_ 0 0 (regs [(1, 3)]) with islands := [(0, { Island.reset 0 with change := .slewDown 9 })] }
     (next (exec (.pwreq sss) s)).map (·.pwreqs) = some [(0, 0, 0, 19)]) ∧
    ((at_ 0 0).island 0).change = .none ∧ ((at_ 0 0).answerPoint 0 19).1 = 2 := by decide +kernel

end Sys2Proof.Tests
end

section
/-! SUPPORT. Stores to stalls and to physical memory: what they change beside memory, and which bytes they change. -/
namespace Sys2Proof.Machine

/-! What noting the use of an operand window changes (R178). -/

/-- A context as another but for STAT.ORACE. -/
structure CtxOrace (y x : Ctx) : Prop where
  as : CtxAs y x
  sr : ∀ n, n ≠ rSTAT → y.srGet n = x.srGet n
  stat : ∀ i, i < 64 → i ≠ bORACE → y.statBit i = x.statBit i
  course : y.pc = x.pc ∧ y.st = x.st ∧ y.block = x.block ∧ y.loads = x.loads

theorem CtxOrace.refl (x : Ctx) : CtxOrace x x :=
  ⟨CtxAs.refl x, fun _ _ => rfl, fun _ _ _ => rfl, rfl, rfl, rfl, rfl⟩

theorem CtxOrace.trans {x y z : Ctx} (h : CtxOrace z y) (g : CtxOrace y x) : CtxOrace z x where
  as := h.as.trans g.as
  sr n hn := (h.sr n hn).trans (g.sr n hn)
  stat i hi ho := (h.stat i hi ho).trans (g.stat i hi ho)
  course := ⟨h.course.1.trans g.course.1, h.course.2.1.trans g.course.2.1, h.course.2.2.1.trans g.course.2.2.1,
    h.course.2.2.2.trans g.course.2.2.2⟩

theorem CtxOrace.setStat (x : Ctx) (b : Bool) : CtxOrace (x.setStat bORACE b) x where
  as := Ctx.setStat_as x bORACE b
  sr n hn := Ctx.srGet_setStat x bORACE n b hn
  stat i hi ho := by rw [Ctx.statBit_setStat _ _ _ _ hi, if_neg ho]
  course := by simp

/-- A state as another but for memory, poison marks, C2's lines, the parks to wake, and the marks that a store leaves on
operand windows (R131, R178). -/
structure Stored (t s : State) : Prop where
  eq : ∃ m p l w cs os, t = { s with mem := m, poison := p, c2 := l, wakes := w, cores := cs, ops := os }
  ctx : ∀ n c, CtxOrace (t.ctx n c) (s.ctx n c)

theorem Stored.refl (s : State) : Stored s s := ⟨⟨_, _, _, _, _, _, rfl⟩, fun _ _ => CtxOrace.refl _⟩

theorem Stored.trans {s t u : State} (h : Stored u t) (g : Stored t s) : Stored u s := by
  obtain ⟨⟨m, p, l, w, cs, os, rfl⟩, hctx⟩ := h
  obtain ⟨⟨m', p', l', w', cs', os', rfl⟩, gctx⟩ := g
  exact ⟨⟨m, p, l, w, cs, os, rfl⟩, fun n c => (hctx n c).trans (gctx n c)⟩

/-- A change of memory, poison marks, lines and parks to wake alone. -/
theorem Stored.ofMem (s : State) (m : List Host.Cell) (p : NatSet) (l : List C2Line) (w : List Nat) :
    Stored { s with mem := m, poison := p, c2 := l, wakes := w } s :=
  ⟨⟨m, p, l, w, _, _, rfl⟩, fun _ _ => CtxOrace.refl _⟩

namespace Stored
variable {s t : State} (h : Stored t s)
include h

theorem cur : t.cur = s.cur := by obtain ⟨⟨_, _, _, _, _, _, rfl⟩, _⟩ := h; rfl
theorem pkg : t.pkg = s.pkg := by obtain ⟨⟨_, _, _, _, _, _, rfl⟩, _⟩ := h; rfl
theorem heat : t.heat = s.heat := by obtain ⟨⟨_, _, _, _, _, _, rfl⟩, _⟩ := h; rfl
theorem flash : t.flash = s.flash := by obtain ⟨⟨_, _, _, _, _, _, rfl⟩, _⟩ := h; rfl
theorem sreg (n c r : Nat) : (t.ctx n c).sreg r = (s.ctx n c).sreg r := (h.ctx n c).as.sreg r
theorem me : CtxOrace t.me s.me := by rw [State.me_eq h.cur]; exact h.ctx _ _

end Stored

theorem State.noteWrite_stored (s : State) (pa n : Nat) : Stored (s.noteWrite pa n) s := Stored.ofMem s _ _ _ _

theorem State.noteOrace_stored (s : State) (pa n : Nat) : Stored (s.noteOrace pa n) s := by
  unfold State.noteOrace
  split
  · exact Stored.refl s
  · refine List.foldlRecOn (motive := fun t => Stored t s) _ _ (Stored.refl s) fun t ht e _ => ?_
    dsimp only
    split
    · exact ht
    · refine Stored.trans (t := t) ⟨⟨t.mem, t.poison, t.c2, t.wakes, _, _, rfl⟩, fun m d => ?_⟩ ht
      show CtxOrace ((t.modCtx e.2.core e.2.ctx (·.setStat bORACE true)).ctx m d) (t.ctx m d)
      rw [State.ctx_modCtx]
      split
      · exact CtxOrace.setStat _ _
      · exact CtxOrace.refl _

@[simp] theorem State.noteWrite_c2 (s : State) (pa n : Nat) : (s.noteWrite pa n).c2 = s.c2 := rfl

@[simp] theorem State.noteOrace_c2 (s : State) (pa n : Nat) : (s.noteOrace pa n).c2 = s.c2 := by
  unfold State.noteOrace
  split
  · rfl
  · refine List.foldlRecOn (motive := fun t : State => t.c2 = s.c2) _ _ rfl fun t ht e _ => ?_
    dsimp only
    split <;> exact ht

/-! Stall stores. -/

theorem State.stallWrite_stored (s : State) (core off n v : Nat) : Stored (s.stallWrite core off n v) s :=
  (Stored.ofMem (s.noteOrace _ _) _ _ _ _).trans (s.noteOrace_stored _ _)

@[simp] theorem State.stallWrite_c2 (s : State) (core off n v : Nat) : (s.stallWrite core off n v).c2 = s.c2 :=
  s.noteOrace_c2 _ _

/-- A store into a stall changes no byte but those stored (R33). -/
theorem State.stallWrite_stallStore (s : State) (core off n v : Nat) : StallStore core off n s (s.stallWrite core off n v) := by
  refine ⟨fun a ha => ?_, (s.stallWrite_stored core off n v).flash⟩
  unfold State.physByte State.lineOf
  rw [State.stallWrite_c2, State.stallWrite_byte _ _ _ _ _ _ ha]

/-! Bytes of numbers and of memory. -/

theorem bits_lt (x lo n : Nat) : bits x lo n < 2 ^ n := Nat.mod_lt _ (Nat.two_pow_pos n)

/-- Byte `i` of a number whose lowest byte is `b`. -/
theorem bits_byte_cons (b r i : Nat) (hb : b < 256) :
    bits (b + 256 * r) (8 * i) 8 = if i = 0 then b else bits r (8 * (i - 1)) 8 := by
  unfold bits
  cases i with
  | zero => simp; omega
  | succ i =>
    rw [show 8 * (i + 1) = 8 + 8 * i by omega, Nat.pow_add, ← Nat.div_div_eq_div_mul,
      show (b + 256 * r) / 2 ^ 8 = r by omega]
    simp

theorem State.physByte_lt (s : State) (pa : Nat) : s.physByte pa < 256 := by
  unfold State.physByte
  split
  · exact bits_lt _ _ 8
  · exact BitVec.isLt _

/-- Byte `i` of what a coherent read gives. -/
theorem State.bits_physRead (s : State) (pa n i : Nat) (h : i < n) :
    bits (s.physRead pa n) (8 * i) 8 = s.physByte (pa + i) := by
  induction n generalizing pa i with
  | zero => omega
  | succ n ih =>
    rw [State.physRead, bits_byte_cons _ _ _ (s.physByte_lt pa)]
    cases i with
    | zero => rfl
    | succ i => simpa [Nat.add_comm 1, Nat.add_assoc] using ih (pa + 1) i (by omega)

/-- Byte `i` of what a read of memory gives. -/
theorem bits_memRead (m : List Host.Cell) (a n i : Nat) (h : i < n) :
    bits (memRead m a n) (8 * i) 8 = (memByte m (a + i)).toNat := by
  induction n generalizing a i with
  | zero => omega
  | succ n ih =>
    rw [memRead, bits_byte_cons _ _ _ (BitVec.isLt _)]
    cases i with
    | zero => rfl
    | succ i => simpa [Nat.add_comm 1, Nat.add_assoc] using ih (a + 1) i (by omega)

/-- A coherent read of bytes that are those of a number gives its low part. -/
theorem State.physRead_eq_mod (s : State) (pa n v : Nat) (h : ∀ i, i < n → s.physByte (pa + i) = bits v (8 * i) 8) :
    s.physRead pa n = v % 2 ^ (8 * n) := by
  induction n generalizing pa v with
  | zero => simp [State.physRead, Nat.mod_one]
  | succ n ih =>
    have h0 : s.physByte pa = v % 256 := by simpa [bits] using h 0 (by omega)
    have hr : s.physRead (pa + 1) n = v / 256 % 2 ^ (8 * n) := ih (pa + 1) (v / 256) fun i hi => by
      rw [Nat.add_assoc, Nat.add_comm 1 i, h (i + 1) (by omega)]
      unfold bits
      rw [show 8 * (i + 1) = 8 + 8 * i by omega, Nat.pow_add, ← Nat.div_div_eq_div_mul]
    rw [State.physRead, h0, hr, show 8 * (n + 1) = 8 + 8 * n by omega, Nat.pow_add, Nat.mod_mul]

theorem State.physRead_congr {s t : State} (pa n : Nat) (h : ∀ a, t.physByte a = s.physByte a) :
    t.physRead pa n = s.physRead pa n := by
  induction n generalizing pa with
  | zero => rfl
  | succ n ih => rw [State.physRead, State.physRead, h, ih]

/-! Coherent writes (R80). -/

@[simp] theorem C2Line.write_holds (l : C2Line) (off n v pa : Nat) : (l.write off n v).holds pa = l.holds pa := rfl

/-- A line with bytes written reads them at their places and its own elsewhere. -/
theorem C2Line.write_byte (l : C2Line) (off n v i : Nat) (hi : i < 64) :
    bits (l.write off n v).data.toNat (8 * i) 8 =
      if off ≤ i ∧ i < off + n then bits v (8 * (i - off)) 8 else bits l.data.toNat (8 * i) 8 := by
  apply Nat.eq_of_testBit_eq
  intro k
  show (bits (BitVec.ofNat 512 _).toNat _ _).testBit k = _
  rw [apply_ite (Nat.testBit · k)]
  simp only [bits_testBit, BitVec.toNat_ofNat, Nat.testBit_mod_two_pow, setBits_testBit]
  by_cases hk : k < 8
  · rw [show decide (8 * i + k < 512) = true by simp; omega, Bool.true_and]
    by_cases h : off ≤ i ∧ i < off + n
    · rw [if_pos (by omega), if_pos h, show 8 * i + k - 8 * off = 8 * (i - off) + k by omega]
    · rw [if_neg (by omega), if_neg h]
  · simp [hk]

theorem C2Line.holds_congr (l : C2Line) {a b : Nat} (h : a / 64 = b / 64) : l.holds a = l.holds b := by
  unfold C2Line.holds; rw [h]

theorem State.holds_of_lineOf {s : State} {a : Nat} {l : C2Line} (h : s.lineOf a = some l) : l.holds a = true := by
  unfold State.lineOf at h
  simpa using List.find?_some h

/-- The line that holds an address after a store within a line. -/
theorem State.lineOf_physStore (s : State) (pa n v a : Nat) (h : s.c2.any (·.holds pa) = true) :
    (s.physStore pa n v).lineOf a = (s.lineOf a).map fun l => if l.holds pa then l.write (pa % 64) n v else l := by
  unfold State.physStore State.lineOf
  simp only [State.noteOrace_c2, State.noteWrite_c2, h, if_true, List.find?_map]
  congr 1
  congr 1
  funext l
  simp only [Function.comp]
  split <;> simp

theorem State.physStore_of_cached (s : State) (pa n v : Nat) (h : s.c2.any (·.holds pa) = true) :
    (s.physStore pa n v).mem = s.mem := by
  unfold State.physStore; simp [h]

theorem State.physStore_of_uncached (s : State) (pa n v : Nat) (h : s.c2.any (·.holds pa) = false) :
    (s.physStore pa n v).mem = memWrite s.mem pa v n ∧ (s.physStore pa n v).c2 = s.c2 := by
  unfold State.physStore; simp [h]

theorem State.physStore_stored (s : State) (pa n v : Nat) : Stored (s.physStore pa n v) s := by
  have hn := ((s.noteWrite pa n).noteOrace_stored pa n).trans (s.noteWrite_stored pa n)
  unfold State.physStore
  dsimp only
  split
  · exact (Stored.ofMem ((s.noteWrite pa n).noteOrace pa n) _ _ _ _).trans hn
  · exact (Stored.ofMem ((s.noteWrite pa n).noteOrace pa n) _ _ _ _).trans hn

/-- After a store within a line every byte reads as stored in its range and as before elsewhere (R80). -/
theorem State.physByte_physStore (s : State) (pa n v a : Nat) (hn : pa % 64 + n ≤ 64) :
    (s.physStore pa n v).physByte a = if pa ≤ a ∧ a < pa + n then bits v (8 * (a - pa)) 8 else s.physByte a := by
  by_cases hc : s.c2.any (·.holds pa) = true
  · unfold State.physByte
    rw [State.lineOf_physStore _ _ _ _ _ hc, State.physStore_of_cached _ _ _ _ hc]
    by_cases hl : a / 64 = pa / 64
    · have hsome : (s.lineOf a).isSome = true := by
        rw [List.any_eq_true] at hc
        obtain ⟨l, hmem, hh⟩ := hc
        exact List.find?_isSome.mpr ⟨l, hmem, by rw [C2Line.holds_congr l hl]; exact hh⟩
      obtain ⟨l, hla⟩ := Option.isSome_iff_exists.mp hsome
      have hh : l.holds pa = true := by
        rw [← C2Line.holds_congr l hl]; exact State.holds_of_lineOf hla
      simp only [hla, Option.map_some, hh, if_true]
      rw [C2Line.write_byte _ _ _ _ _ (Nat.mod_lt _ (by decide))]
      by_cases hr : pa ≤ a ∧ a < pa + n
      · rw [if_pos (by omega), if_pos hr, show a % 64 - pa % 64 = a - pa by omega]
      · rw [if_neg (by omega), if_neg hr]
    · rw [if_neg (by omega)]
      cases hla : s.lineOf a with
      | none => rfl
      | some l =>
        have hh : l.holds pa = false := by
          have ha := State.holds_of_lineOf hla
          simp only [C2Line.holds, Bool.and_eq_true, beq_iff_eq] at ha
          simp only [C2Line.holds, Bool.and_eq_false_iff, beq_eq_false_iff_ne]
          exact .inl (by rw [ha.1]; exact hl)
        simp [hh]
  · rw [Bool.not_eq_true] at hc
    obtain ⟨hm, hc2⟩ := State.physStore_of_uncached s pa n v hc
    unfold State.physByte State.lineOf
    rw [hm, hc2]
    by_cases hr : pa ≤ a ∧ a < pa + n
    · have hnone : s.c2.find? (·.holds a) = none := by
        rw [List.find?_eq_none]
        intro l hmem
        rw [C2Line.holds_congr l (show a / 64 = pa / 64 by omega)]
        exact List.any_eq_false.mp hc l hmem
      simp only [hnone]
      rw [if_pos hr, memByte_memWrite_of_in _ _ _ _ _ hr.1 hr.2]
      rfl
    · rw [if_neg hr, memByte_memWrite_of_out _ _ _ _ _ (by omega)]

theorem State.physWrite_go_stored (fuel : Nat) (s : State) (pa n v : Nat) : Stored (State.physWrite.go s pa n v fuel) s := by
  induction fuel generalizing s pa n v with
  | zero => exact Stored.refl s
  | succ fuel ih =>
    unfold State.physWrite.go
    split
    · exact Stored.refl s
    · exact (ih _ _ _ _).trans (s.physStore_stored _ _ _)

theorem State.physWrite_stored (s : State) (pa n v : Nat) : Stored (s.physWrite pa n v) s :=
  State.physWrite_go_stored _ _ _ _ _

theorem State.physByte_physWrite_go (fuel : Nat) (s : State) (pa n v a : Nat) (hf : n = 0 ∨ pa % 64 + n ≤ 64 * fuel) :
    (State.physWrite.go s pa n v fuel).physByte a =
      if pa ≤ a ∧ a < pa + n then bits v (8 * (a - pa)) 8 else s.physByte a := by
  induction fuel generalizing s pa n v with
  | zero => rw [if_neg (by omega)]; rfl
  | succ fuel ih =>
    unfold State.physWrite.go
    by_cases h0 : n = 0
    · rw [if_pos (by simp [h0]), if_neg (by omega)]
    · rw [if_neg (by simpa using h0)]
      dsimp only
      obtain ⟨k, hk⟩ : ∃ k, min n (64 - pa % 64) = k := ⟨_, rfl⟩
      rw [hk, ih _ _ _ _ (by omega), State.physByte_physStore _ _ _ _ _ (by omega)]
      by_cases hr : pa ≤ a ∧ a < pa + n
      · rw [if_pos hr]
        by_cases ha : a < pa + k
        · rw [if_neg (by omega), if_pos (by omega)]
        · rw [if_pos (by omega)]
          unfold bits
          rw [Nat.div_div_eq_div_mul, ← Nat.pow_add, show 8 * k + 8 * (a - (pa + k)) = 8 * (a - pa) by omega]
      · rw [if_neg hr, if_neg (by omega), if_neg (by omega)]

/-- After a coherent write of any length every byte reads as written in its range and as before elsewhere (R80). -/
theorem State.physByte_physWrite (s : State) (pa n v a : Nat) :
    (s.physWrite pa n v).physByte a = if pa ≤ a ∧ a < pa + n then bits v (8 * (a - pa)) 8 else s.physByte a :=
  State.physByte_physWrite_go _ _ _ _ _ _ (by omega)

/-- A coherent read of what a coherent write has written. -/
theorem State.physRead_physWrite (s : State) (pa n v : Nat) : (s.physWrite pa n v).physRead pa n = v % 2 ^ (8 * n) :=
  State.physRead_eq_mod _ _ _ _ fun i hi => by
    rw [State.physByte_physWrite, if_pos (by omega), Nat.add_sub_cancel_left]

end Sys2Proof.Machine
end

section
/-! SUPPORT. Accesses through an LA: its windows, what holds and completes such an access, and its effect at issue (R16, R18, R147, R161). -/
namespace Sys2Proof.Machine

/-! The windows of an LA (R16). -/

theorem laPlace_own (core v : Nat) (h : v < 0x10000) : laPlace core v = some (core, v) := by simp [laPlace, h]

theorem laPlace_superGroup (core v : Nat) (h : 0x800000 ≤ v) (h' : v < 0x1000000) :
    laPlace core v = some (core / 128 * 128 + v / 65536 % 128, v % 65536) := by
  have : ¬ v < 0x10000 := by omega
  simp [laPlace, this, h, h', superGroupOf, bits]

theorem laPlace_outside (core v : Nat) (h : 0x10000 ≤ v) (h' : v < 0x800000 ∨ 0x1000000 ≤ v) : laPlace core v = none := by
  have h1 : ¬ v < 0x10000 := by omega
  have h2 : ¬ (0x800000 ≤ v ∧ v < 0x1000000) := by omega
  simp [laPlace, h1, h2]

theorem checkLa_outside (core : Nat) (w : Word) (n al : Nat) (h : laPlace core w.toNat = none) :
    checkLa core w n al = .error (cLAFLT, w.toNat) := by simp [checkLa, h]

theorem checkLa_misaligned (core : Nat) (w : Word) (n al : Nat) (p : Nat × Nat) (h : laPlace core w.toNat = some p)
    (ha : w.toNat % al ≠ 0) : checkLa core w n al = .error (cMISALIGN, w.toNat) := by simp [checkLa, h, ha]

theorem checkLa_inside (core : Nat) (w : Word) (n al : Nat) (p q : Nat × Nat) (h : laPlace core w.toNat = some p)
    (ha : w.toNat % al = 0) (he : laPlace core (w.toNat + n - 1) = some q) : checkLa core w n al = .ok p := by
  simp [checkLa, h, ha, he]

/-- An aligned access that begins in a window of whole 64-byte granules ends in it. -/
theorem aligned_end (n v top : Nat) (hn : n ∈ [1, 2, 4, 8, 16, 64]) (ha : v % n = 0) (ht : top % 64 = 0) (hv : v < top) :
    v + n - 1 < top := by
  simp only [List.mem_cons, List.not_mem_nil, or_false] at hn
  rcases hn with rfl | rfl | rfl | rfl | rfl | rfl <;> omega

/-- R16: where an LA leads, by window and alignment. -/
theorem checkLa_windows (core : Nat) (w : Word) (n : Nat) (hn : n ∈ [1, 2, 4, 8, 16, 64]) :
    let v := w.toNat
    (v < 0x10000 → v % n = 0 → checkLa core w n n = .ok (core, v)) ∧
    (0x800000 ≤ v → v < 0x1000000 → v % n = 0 →
      checkLa core w n n = .ok (core / 128 * 128 + v / 65536 % 128, v % 65536)) ∧
    (0x10000 ≤ v → v < 0x800000 → checkLa core w n n = .error (cLAFLT, v)) ∧
    (0x1000000 ≤ v → checkLa core w n n = .error (cLAFLT, v)) ∧
    (v < 0x10000 ∨ 0x800000 ≤ v ∧ v < 0x1000000 → v % n ≠ 0 → checkLa core w n n = .error (cMISALIGN, v)) := by
  intro v
  have hpos : 1 ≤ n := by fin_cases hn <;> decide
  refine ⟨fun h ha => ?_, fun h h' ha => ?_, fun h h' => ?_, fun h => ?_, fun h ha => ?_⟩
  · have he := aligned_end n v 0x10000 hn ha (by decide) h
    exact checkLa_inside _ _ _ _ _ _ (laPlace_own _ _ h) ha (laPlace_own _ _ he)
  · have he := aligned_end n v 0x1000000 hn ha (by decide) h'
    exact checkLa_inside _ _ _ _ _ _ (laPlace_superGroup _ _ h h') ha (laPlace_superGroup _ _ (by omega) he)
  · exact checkLa_outside _ _ _ _ (laPlace_outside _ _ h (.inl h'))
  · exact checkLa_outside _ _ _ _ (laPlace_outside _ _ (by omega) (.inr h))
  · rcases h with h | ⟨h, h'⟩
    · exact checkLa_misaligned _ _ _ _ _ (laPlace_own _ _ h) ha
    · exact checkLa_misaligned _ _ _ _ _ (laPlace_superGroup _ _ h h') ha

/-! An instruction whose effect reaches beyond its context's registers. -/

/-- What an effect keeps of its context's registers, its completion keeps too. -/
theorem State.after_regsKept (s : State) (cost : Nat) (warns : Bool) (npc : Word) (t : State) (w : May) (hc : t.cur = s.cur)
    (h : RegsKept w s t) : RegsKept w s (s.after cost warns npc t) := by
  have ha := State.after_as s cost warns npc t hc
  have hme : CtxAs (s.after cost warns npc t).me t.me := by
    rw [State.me_eq (ha.cur.trans hc), State.me_eq hc]; exact ha.me
  exact {
    scalars := fun r hr => (hme.sreg r).trans (h.scalars r hr)
    vectors := fun r hr => (hme.vreg r).trans (h.vectors r hr)
    masks := fun r hr => (hme.mreg r).trans (h.masks r hr)
    accs := fun hw => ⟨hme.acc.trans (h.accs hw).1, hme.accSum.trans (h.accs hw).2⟩
    fmts := fun f hf => (hme.fent f).trans (h.fmts f hf)
    slots := fun g hg => (hme.guard g).trans (h.slots g hg)
    srs := fun n hn hn' => (hme.sr n hn').trans (h.srs n hn hn')
    stat := fun hw i hi h1 => ((State.after_me s cost warns npc t hc).2.2.2.2.2 i hi (by rintro rfl; simp at h1)
      (by rintro rfl; simp at h1)).trans (h.stat hw i hi h1)
    signal := ⟨hme.signal.1.trans h.signal.1, hme.signal.2.1.trans h.signal.2.1, hme.signal.2.2.1.trans h.signal.2.2.1,
      hme.signal.2.2.2.trans h.signal.2.2.2⟩ }

/-- An instruction outside the vector majors whose body completes in `t` completes in a state that is `t` but for the course of its
context, its core's purse and the registers that completion writes. -/
theorem gives_done_of_regs {i : Instr} {f : Form} {cost : Nat} {s t : State} {w : May} {body : State → Res} (h : Runs f cost s)
    (he : exec i s = issueCost f cost body s) (hb : body s = .done t) (hc : t.cur = s.cur) (hk : RegsKept w s t)
    (hs : t.me.statBit bSTEP = s.me.statBit bSTEP) (hw : t.me.statBit bWARN = s.me.statBit bWARN)
    (hl : ∀ n, 0x20 ≤ n → n ≤ 0x2E → t.me.srGet n = s.me.srGet n) :
    Gives i s fun u => StateAs s.cur.core s.cur.ctx u t ∧ CtxAs u.me t.me ∧ RegsKept w s u ∧
      Completed (s.plainWarn f) (s.fall f) s u := by
  have ha := State.after_as s cost (s.plainWarn f) (s.fall f) t hc
  refine ⟨s.after cost (s.plainWarn f) (s.fall f) t, ?_, ha, ?_, State.after_regsKept _ _ _ _ _ _ hc hk,
    State.after_completed _ _ _ _ _ hc hw hl⟩
  · rw [he]; unfold issueCost
    rw [issueWith_done h (scalarWarn f false) false noReport hb hc hs]
    simp [State.plainWarn]
  · rw [State.me_eq (ha.cur.trans hc), State.me_eq hc]; exact ha.me

/-- A hold by an interlock changes the course of its context alone. -/
theorem State.holdMe_interlock (s : State) (wt : Wait) (warn : Bool) (hw : wt.isWait = false) :
    s.holdMe wt 0 warn = s.setMe { s.me with
      block := some ⟨wt, (s.me.block.map (·.since)).getD s.clk, 0⟩, tryAt := s.clk + 1, warnHeld := warn, st := .ready } := by
  simp [State.holdMe, State.modMe, hw]

/-- A context whose course alone has changed has its registers. -/
theorem State.setMe_regsKept (s : State) (x : Ctx) (w : May) (h : CtxAs x s.me) (hs : x.srGet rSTAT = s.me.srGet rSTAT) :
    RegsKept w s (s.setMe x) where
  scalars r _ := by rw [State.me_setMe]; exact h.sreg r
  vectors r _ := by rw [State.me_setMe]; exact h.vreg r
  masks r _ := by rw [State.me_setMe]; exact h.mreg r
  accs _ := by rw [State.me_setMe]; exact ⟨h.acc, h.accSum⟩
  fmts f _ := by rw [State.me_setMe]; exact h.fent f
  slots g _ := by rw [State.me_setMe]; exact h.guard g
  srs n _ hn := by rw [State.me_setMe]; exact h.sr n hn
  stat _ i _ _ := by rw [State.me_setMe]; exact Ctx.statBit_of_sr hs i
  signal := by rw [State.me_setMe]; exact h.signal

/-- An instruction outside the vector majors that an interlock holds has done nothing. -/
theorem gives_held {i : Instr} {f : Form} {cost : Nat} {s : State} {wt : Wait} {body : State → Res} (h : Runs f cost s)
    (he : exec i s = issueCost f cost body s) (hb : body s = .hold s wt 0) (hw : wt.isWait = false) :
    Gives i s fun t => Held .ready s t := by
  refine ⟨s.holdMe wt 0 ((scalarWarn f false || s.me.statBit bPFX) && wt.timesOut), ?_, ?_⟩
  · rw [he]; unfold issueCost
    rw [issueWith_runs h, hb]
    simp
  · rw [State.holdMe_interlock _ _ _ hw]
    refine ⟨by simp, by simp, by simp, State.setMe_regsKept _ _ _ ?_ rfl, State.setMe_memKept _ _⟩
    exact ⟨rfl, rfl, rfl, rfl, rfl, rfl, rfl, ⟨rfl, rfl, rfl, rfl⟩, fun _ _ => rfl⟩

/-- A store changes no register of the acting context but STAT.ORACE. -/
theorem Stored.regsKept {s t : State} (h : Stored t s) : RegsKept { stats := [bORACE] } s t where
  scalars r _ := h.me.as.sreg r
  vectors r _ := h.me.as.vreg r
  masks r _ := h.me.as.mreg r
  accs _ := ⟨h.me.as.acc, h.me.as.accSum⟩
  fmts f _ := h.me.as.fent f
  slots g _ := h.me.as.guard g
  srs n _ hn := h.me.as.sr n hn
  stat _ i hi ho := h.me.stat i hi fun e => ho (by simp [e])
  signal := h.me.as.signal

theorem StallStore.of_as {core off n : Nat} {s t u : State} {m c : Nat} (h : StateAs m c u t) (g : StallStore core off n s t) :
    StallStore core off n s u :=
  ⟨fun a ha => (State.physByte_congr h.mem.1 h.mem.2.1 a).trans (g.1 a ha), h.mem.2.2.2.trans g.2⟩

theorem StateAs.stallRead {m c : Nat} {t u : State} (h : StateAs m c u t) (core off n : Nat) :
    u.stallRead core off n = t.stallRead core off n := by unfold State.stallRead; rw [h.mem.1]

/-! What an acquire changes (R147, R161). -/

/-- Dropping lines of other devices leaves the line of every address of this device. -/
theorem State.dropRemote_lineOf (s : State) (core asid a : Nat) : (s.dropRemote core asid).lineOf a = s.lineOf a := by
  unfold State.dropRemote
  dsimp only
  split
  · rfl
  · unfold State.lineOf
    rw [List.find?_filter]
    congr 1
    funext l
    by_cases hr : l.remote = true <;> simp [C2Line.holds, hr, Bool.beq_eq_decide_eq]

theorem State.dropRemote_frame (s : State) (core asid : Nat) : (s.dropRemote core asid).mem = s.mem ∧
    (s.dropRemote core asid).poison = s.poison ∧ (s.dropRemote core asid).flash = s.flash ∧ (s.dropRemote core asid).cur = s.cur := by
  unfold State.dropRemote
  dsimp only
  split <;> exact ⟨rfl, rfl, rfl, rfl⟩

/-- Replacing cores, each by one with the same contexts, keeps every context. -/
theorem Assoc.get_map_ctxs (m : Assoc Core) (g : Nat × Core → Nat × Core) (hk : ∀ e, (g e).1 = e.1)
    (hc : ∀ e, (g e).2.ctxs = e.2.ctxs) (n : Nat) :
    (Assoc.get (m.map g) n Core.reset).ctxs = (Assoc.get m n Core.reset).ctxs := by
  induction m with
  | nil => rfl
  | cons e m ih =>
    obtain ⟨j, k⟩ := e
    rw [List.map_cons, show g (j, k) = ((g (j, k)).1, (g (j, k)).2) from rfl, Assoc.get_cons, Assoc.get_cons, hk]
    split
    · exact hc (j, k)
    · exact ih

theorem State.dropRemote_ctx (s : State) (core asid n c : Nat) : (s.dropRemote core asid).ctx n c = s.ctx n c := by
  unfold State.dropRemote
  dsimp only
  split
  · rfl
  · unfold State.ctx Core.ctx State.core
    rw [Assoc.get_map_ctxs]
    · intro e; split <;> rfl
    · intro e; split <;> rfl

theorem State.acquireFor_ctx (s : State) (core c n d : Nat) : (s.acquireFor core c).ctx n d = s.ctx n d := by
  unfold State.acquireFor
  rw [State.dropRemote_ctx, State.ctx_modCore]
  split
  · subst_vars; rfl
  · rfl

theorem State.acquire_cur (s : State) : s.acquire.cur = s.cur := (State.dropRemote_frame _ _ _).2.2.2

/-- An acquire changes no register of its context. -/
theorem State.acquire_me (s : State) : s.acquire.me = s.me := by
  rw [State.me_eq s.acquire_cur]
  exact State.acquireFor_ctx s _ _ _ _

/-- An acquire leaves every byte of memory alone. -/
theorem State.acquire_memKept (s : State) : MemKept s s.acquire := by
  obtain ⟨hm, hp, hf, -⟩ := State.dropRemote_frame (s.modCore s.cur.core Core.c1Acquire) s.cur.core s.me.asid
  refine ⟨fun a => ?_, hp, hf⟩
  show ((s.modCore s.cur.core Core.c1Acquire).dropRemote s.cur.core s.me.asid).physByte a = _
  unfold State.physByte
  rw [State.dropRemote_lineOf, hm]
  rfl

/-! The access itself (R18, R158). -/

theorem laAccess_error {op : ReqOp} {n data : Nat} {w : Word} {fin : Nat → State → Res} {s : State} {e : Flt}
    (h : checkLa s.cur.core w n n = .error e) : laAccess op n w data fin s = .fault s e.1 e.2 := by
  simp [laAccess, h]

theorem laAccess_load {n data : Nat} {w : Word} {fin : Nat → State → Res} {s : State} {c o : Nat}
    (h : checkLa s.cur.core w n n = .ok (c, o)) (hp : s.stallPoison c o n = none) :
    laAccess .load n w data fin s = fin (s.stallRead c o n) s := by
  simp [laAccess, h, ReqOp.reads, hp, ReqOp.result]

/-- The value that a whole store leaves. -/
theorem store_result (n data old : Nat) :
    ReqOp.result .store ⟨0, 0, n, data, 2 ^ (8 * n) - 1⟩ old = some (data % 2 ^ (8 * n)) := by
  show some (((old &&& ((2 ^ (8 * n) - 1) ^^^ (2 ^ (8 * n) - 1))) ||| (data &&& (2 ^ (8 * n) - 1)))) = _
  rw [Nat.xor_self, Nat.and_zero, Nat.zero_or, Nat.and_two_pow_sub_one_eq_mod]

theorem laAccess_store {n data : Nat} {w : Word} {fin : Nat → State → Res} {s : State} {c o : Nat}
    (h : checkLa s.cur.core w n n = .ok (c, o)) :
    laAccess .store n w data fin s = fin (s.stallRead c o n) (s.stallWrite c o n (data % 2 ^ (8 * n))) := by
  simp only [laAccess, h, store_result]
  rfl

end Sys2Proof.Machine
end

section
/-! SUPPORT. Loads, acquires and stores through an LA (R316 to R319), and what they leave: O25. -/
namespace Sys2Proof.Machine

theorem Gives.imp {i : Instr} {s : State} {P Q : State → Prop} (h : Gives i s P) (hpq : ∀ t, P t → Q t) : Gives i s Q := by
  obtain ⟨t, ht, hp⟩ := h
  exact ⟨t, ht, hpq t hp⟩

/-! Values. -/

/-- Sign extension as a number and as a bit vector. -/
theorem sxWord_eq_signExtend (w v : Nat) (hw : 0 < w) : sxWord w v = (BitVec.ofNat w v).signExtend 64 := by
  have hp : 2 * 2 ^ (w - 1) = 2 ^ w := by rw [← Nat.pow_succ']; congr 1; omega
  unfold sxWord sxInt BitVec.signExtend
  rw [BitVec.toInt_eq_toNat_cond, BitVec.toNat_ofNat]
  dsimp only
  by_cases h : v % 2 ^ w < 2 ^ (w - 1)
  · rw [if_pos h, if_pos (by omega)]
  · rw [if_neg h, if_neg (by omega)]

/-- What a load of a size makes of the value that it reads (R316). -/
def loadWord (n : Nat) (signed : Bool) (v : Nat) : Word := if signed then sxWord (8 * n) v else BitVec.ofNat 64 v

theorem loadWord_double (v : Nat) : loadWord 8 true v = BitVec.ofNat 64 v := by
  rw [loadWord, if_pos rfl, sxWord_eq_signExtend _ _ (by decide), BitVec.signExtend_eq]

theorem loadWord_word (v : Nat) : loadWord 4 true v = (BitVec.ofNat 32 v).signExtend 64 :=
  sxWord_eq_signExtend 32 v (by decide)

/-! Loads. -/

theorem exec_ld (sz : LdSize) (f : Form) (s : State) (h : f.a.isLa = true) :
    exec (.ld sz f) s = issueCost f 16 (loadForm f (ldBytes sz) (ldSigned sz) false) s := by
  show issueCost f (memCost f.a) _ s = _
  rw [memCost, if_pos h]

theorem exec_ldl (sz : LdSize) (f : Form) (s : State) (h : f.a.isLa = true) :
    exec (.ldl sz f) s = issueCost f 16 (loadForm f (ldBytes sz) (ldSigned sz) false) s := by
  show issueCost f (memCost f.a) _ s = _
  rw [memCost, if_pos h]

theorem loadForm_la_error {f : Form} {n : Nat} {sg acq : Bool} {s : State} {e : Flt} (hla : f.a.isLa = true)
    (h : checkLa s.cur.core (s.me.opAddr f.a) n n = .error e) : loadForm f n sg acq s = .fault s e.1 e.2 := by
  simp only [loadForm, hla, if_true]
  exact laAccess_error h

theorem loadForm_la {f : Form} {n : Nat} {sg acq : Bool} {s : State} {c o : Nat} (hla : f.a.isLa = true)
    (h : checkLa s.cur.core (s.me.opAddr f.a) n n = .ok (c, o)) (hp : s.stallPoison c o n = none) :
    loadForm f n sg acq s =
      .done (if acq then (s.putS f.d.sreg (loadWord n sg (s.stallRead c o n))).acquire
        else s.putS f.d.sreg (loadWord n sg (s.stallRead c o n))) := by
  simp only [loadForm, hla, if_true]
  exact laAccess_load h hp

/-- An instruction outside the vector majors whose body writes its scalar destination alone. -/
theorem writes_of_putS {i : Instr} {f : Form} {cost : Nat} {s : State} {w : Word} {body : State → Res} (h : Runs f cost s)
    (he : exec i s = issueCost f cost body s) (hb : body s = .done (s.putS f.d.sreg w)) : Writes i f s w := by
  have hme : (s.putS f.d.sreg w).me = s.me.setS f.d.sreg w := by simp [State.putS]
  refine (gives_done h he hb (State.putS_kept s _ w) (by simp [hme, Ctx.statBit]) (by simp [hme, Ctx.statBit])
    (fun n _ _ => by simp [hme])).imp fun t ⟨hctx, hk, hc⟩ => ⟨fun r => ?_, hk, hc⟩
  rw [hctx.sreg, State.putS_sreg]
  by_cases hr : r = f.d.sreg
  · subst hr; rfl
  · simp [hr]

/-- The body of LDA: the at-issue checks, then the load, behind the context's releases under way (R159, R160, R319). -/
def ldaBody (dbl : Bool) (f : Form) (s : State) : Res :=
  match checkAt s f.a (dblBytes dbl) with
  | .error e => .fault s e.1 e.2
  | .ok _ => afterRels (loadForm f (dblBytes dbl) true true) s

theorem exec_lda (dbl : Bool) (f : Form) (s : State) (h : f.a.isLa = true) :
    exec (.lda dbl f) s = issueCost f 16 (ldaBody dbl f) s := by
  show issueCost f (memCost f.a) (ldaBody dbl f) s = _
  rw [memCost, if_pos h]

theorem ldaBody_la {dbl : Bool} {f : Form} {s : State} {c o : Nat} (hla : f.a.isLa = true)
    (h : checkLa s.cur.core (s.me.opAddr f.a) (dblBytes dbl) (dblBytes dbl) = .ok (c, o))
    (hp : s.stallPoison c o (dblBytes dbl) = none) (hr : s.relsOut = []) :
    ldaBody dbl f s = .done (s.putS f.d.sreg (loadWord (dblBytes dbl) true (s.stallRead c o (dblBytes dbl)))).acquire := by
  simp only [ldaBody, checkAt, hla, if_true, h, Except.map, afterRels, hr, List.isEmpty_nil]
  exact loadForm_la hla h hp

/-- LDA: the value is written as the context acquires (R147, R319). -/
theorem gives_lda {f : Form} {s : State} (dbl : Bool) (c o : Nat) (h : Runs f 16 s) (hla : f.a.isLa = true)
    (hk : checkLa s.cur.core (s.me.opAddr f.a) (dblBytes dbl) (dblBytes dbl) = .ok (c, o))
    (hp : s.stallPoison c o (dblBytes dbl) = none) (hr : s.relsOut = []) :
    Gives (.lda dbl f) s fun t => Result f (loadWord (dblBytes dbl) true (s.stallRead c o (dblBytes dbl))) s t ∧
      RegsKept { regs := [f.d.sreg] } s t ∧ MemKept s t ∧ Completed (s.plainWarn f) (s.fall f) s t := by
  let w := loadWord (dblBytes dbl) true (s.stallRead c o (dblBytes dbl))
  have hme : (s.putS f.d.sreg w).acquire.me = (s.putS f.d.sreg w).me := State.acquire_me _
  have hset : (s.putS f.d.sreg w).me = s.me.setS f.d.sreg w := by simp [State.putS]
  have hregs := (State.putS_kept s f.d.sreg w).regs
  have hkept : RegsKept { regs := [f.d.sreg] } s (s.putS f.d.sreg w).acquire := by
    constructor <;> rw [hme]
    exacts [hregs.scalars, hregs.vectors, hregs.masks, hregs.accs, hregs.fmts, hregs.slots, hregs.srs, hregs.stat, hregs.signal]
  refine (gives_done_of_regs h (exec_lda dbl f s hla) (ldaBody_la hla hk hp hr) (State.acquire_cur _) hkept ?_ ?_ ?_).imp
    fun t ⟨has, hctx, hk, hc⟩ => ⟨fun r => ?_, hk, ?_, hc⟩
  · rw [hme, hset]; simp [Ctx.statBit]
  · rw [hme, hset]; simp [Ctx.statBit]
  · intro n _ _; rw [hme, hset]; simp
  · rw [hctx.sreg, hme, State.putS_sreg]
    by_cases hr : r = f.d.sreg
    · subst hr; rfl
    · simp [hr]
  · exact ((State.putS_kept s f.d.sreg w).mem.trans (State.acquire_memKept _)).trans has.memKept

/-! Stores. -/

theorem exec_st (sz : StSize) (f : Form) (s : State) (h : f.d.isLa = true) :
    exec (.st sz f) s = issueCost f 16 (storeForm f (stBytes sz) false) s := by
  show issueCost f (memCost f.d) _ s = _
  rw [memCost, if_pos h]

theorem exec_stl (sz : StSize) (f : Form) (s : State) (h : f.d.isLa = true) :
    exec (.stl sz f) s = issueCost f 16 (storeForm f (stBytes sz) false) s := by
  show issueCost f (memCost f.d) _ s = _
  rw [memCost, if_pos h]

/-- The body of STRL: the at-issue checks, the release's wait, and the store (R319). -/
def strlBody (dbl : Bool) (f : Form) (s : State) : Res :=
  match checkAt s f.d (dblBytes dbl) with
  | .error e => .fault s e.1 e.2
  | .ok _ => asRelease (storeForm f (dblBytes dbl) true) s

theorem exec_strl (dbl : Bool) (f : Form) (s : State) (h : f.d.isLa = true) :
    exec (.strl dbl f) s = issueCost f 16 (strlBody dbl f) s := by
  show issueCost f (memCost f.d) (strlBody dbl f) s = _
  rw [memCost, if_pos h]

theorem strlBody_of_ok {dbl : Bool} {f : Form} {s : State} {p : Nat × Nat} (hla : f.d.isLa = true)
    (h : checkLa s.cur.core (s.me.opAddr f.d) (dblBytes dbl) (dblBytes dbl) = .ok p) :
    strlBody dbl f s = asRelease (storeForm f (dblBytes dbl) true) s := by
  simp [strlBody, checkAt, hla, h, Except.map]

theorem storeForm_la_error {f : Form} {n : Nat} {rel : Bool} {s : State} {e : Flt} (hla : f.d.isLa = true)
    (h : checkLa s.cur.core (s.me.opAddr f.d) n n = .error e) : storeForm f n rel s = .fault s e.1 e.2 := by
  simp only [storeForm, hla, if_true]
  exact laAccess_error h

theorem storeForm_la {f : Form} {n : Nat} {rel : Bool} {s : State} {c o : Nat} (hla : f.d.isLa = true)
    (h : checkLa s.cur.core (s.me.opAddr f.d) n n = .ok (c, o)) :
    storeForm f n rel s = .done (s.stallWrite c o n ((s.me.opS f.a).toNat % 2 ^ (8 * n))) := by
  simp only [storeForm, hla, if_true]
  exact laAccess_store h

/-- An instruction outside the vector majors whose body stores into a stall. -/
theorem gives_stallWrite {i : Instr} {f : Form} {cost : Nat} {s : State} {c o n v : Nat} {body : State → Res} (h : Runs f cost s)
    (he : exec i s = issueCost f cost body s) (hb : body s = .done (s.stallWrite c o n v)) :
    Gives i s fun t => t.stallRead c o n = v % 2 ^ (8 * n) ∧ StallStore c o n s t ∧ RegsKept { stats := [bORACE] } s t ∧
      Completed (s.plainWarn f) (s.fall f) s t := by
  have hs := s.stallWrite_stored c o n v
  refine (gives_done_of_regs h he hb hs.cur hs.regsKept (hs.me.stat _ (by decide) (by decide))
    (hs.me.stat _ (by decide) (by decide)) fun k h1 h2 => hs.me.sr k (by unfold rSTAT; omega)).imp
    fun t ⟨has, _, hk, hc⟩ => ⟨?_, (s.stallWrite_stallStore c o n v).of_as has, hk, hc⟩
  rw [has.stallRead, State.stallRead_stallWrite, Nat.pow_mul]

/-- Settles O25: each access runs through the check of its LA into one read of the stall and one register write, or one store into the
stall. -/
theorem localLoadsAndStores : Obligations.LocalLoadsAndStores := by
  unfold Obligations.LocalLoadsAndStores
  refine ⟨⟨fun f s hr hla => ⟨fun sz n ext hsz hext => ?_, fun dbl c o hk hp hrel => ?_⟩,
    fun core w n hn _ => checkLa_windows core w n hn⟩, fun f s hr hla => ⟨fun p hp => ?_, fun hw => ?_, fun hout p hk => ?_⟩⟩
  · have hn : n = ldBytes sz := by
      simp only [List.mem_cons, List.not_mem_nil, or_false, Prod.mk.injEq] at hsz
      rcases hsz with ⟨rfl, rfl⟩ | ⟨rfl, rfl⟩ | ⟨rfl, rfl⟩ | ⟨rfl, rfl⟩ | ⟨rfl, rfl⟩ | ⟨rfl, rfl⟩ <;> rfl
    subst hn
    refine ⟨fun e he => ?_, fun c o hk hp => ?_⟩
    · have hb := loadForm_la_error (sg := ldSigned sz) (acq := false) hla he
      exact ⟨traps_fault hr (exec_ld sz f s hla) hb, traps_fault hr (exec_ldl sz f s hla) hb⟩
    · have hb := loadForm_la (sg := ldSigned sz) (acq := false) hla hk hp
      have hval : ext (s.stallRead c o (ldBytes sz)) = loadWord (ldBytes sz) (ldSigned sz) (s.stallRead c o (ldBytes sz)) := by
        rw [hext]
        cases sz
        case bs => exact (sxWord_eq_signExtend 8 _ (by decide)).symm
        case bz => rfl
        case hs => exact (sxWord_eq_signExtend 16 _ (by decide)).symm
        case hz => rfl
        case w => exact (loadWord_word _).symm
        case d => exact (loadWord_double _).symm
      rw [hval]
      exact ⟨writes_of_putS hr (exec_ld sz f s hla) hb, writes_of_putS hr (exec_ldl sz f s hla) hb⟩
  · cases dbl with
    | false => simpa [dblBytes, loadWord_word] using gives_lda false c o hr hla hk hp hrel
    | true => simpa [dblBytes, loadWord_double] using gives_lda true c o hr hla hk hp hrel
  · have hn : p.2 = stBytes p.1 := by
      simp only [List.mem_cons, List.not_mem_nil, or_false] at hp
      rcases hp with rfl | rfl | rfl | rfl <;> rfl
    rw [hn]
    refine ⟨fun c o hk => ?_, fun c o hk => ?_, fun e he => ?_⟩
    · simpa using gives_stallWrite hr (exec_st p.1 f s hla) (storeForm_la hla hk)
    · simpa using gives_stallWrite hr (exec_stl p.1 f s hla) (storeForm_la hla hk)
    · have hb := storeForm_la_error (rel := false) hla he
      exact ⟨traps_fault hr (exec_st p.1 f s hla) hb, traps_fault hr (exec_stl p.1 f s hla) hb⟩
  · have hb {dbl c o} (hk : checkLa s.cur.core (s.me.opAddr f.d) (dblBytes dbl) (dblBytes dbl) = .ok (c, o)) :
        strlBody dbl f s = .done (s.stallWrite c o (dblBytes dbl) ((s.me.opS f.a).toNat % 2 ^ (8 * dblBytes dbl))) := by
      rw [strlBody_of_ok hla hk, asRelease, hw]
      exact storeForm_la hla hk
    refine ⟨fun c o hk => ?_, fun c o hk => ?_⟩
    · simpa [dblBytes] using gives_stallWrite hr (exec_strl false f s hla) (hb hk)
    · simpa [dblBytes] using gives_stallWrite hr (exec_strl true f s hla) (hb hk)
  · refine gives_held (wt := .acks) hr (exec_strl true f s hla) ?_ rfl
    rw [strlBody_of_ok hla hk, asRelease, State.relWait, if_pos hout]

end Sys2Proof.Machine
end

section
/-! SUPPORT. What the host and remote devices read and write in memory and in stalls (R26, R444, R447, R451). -/
namespace Sys2Proof.Machine

/-! The event at hand and the host's answer. -/

/-- The state with an event at hand. -/
def State.onEvent (s : State) (e : Event) : State := { s with ev := e }

/-- The state with an answer for the host or a remote device. -/
def State.withAnswer (s : State) (b : Option (List Byte)) : State := { s with hostOut := b }

theorem happens_iff (e : Event) (s : State) (P : State → Prop) : Happens e s P ↔ Gives e.instr (s.onEvent e) P := Iff.rfl

theorem happens_next {e : Event} {s t : State} {P : State → Prop} (h : exec e.instr (s.onEvent e) = .next t) (hp : P t) :
    Happens e s P := (happens_iff e s P).mpr ⟨t, h, hp⟩

@[simp] theorem State.physByte_onEvent (s : State) (e : Event) (a : Nat) : (s.onEvent e).physByte a = s.physByte a :=
  State.physByte_congr rfl rfl a

@[simp] theorem State.physByte_withAnswer (s : State) (b : Option (List Byte)) (a : Nat) :
    (s.withAnswer b).physByte a = s.physByte a := State.physByte_congr rfl rfl a

@[simp] theorem State.physRead_onEvent (s : State) (e : Event) (pa n : Nat) : (s.onEvent e).physRead pa n = s.physRead pa n :=
  State.physRead_congr pa n (s.physByte_onEvent e)

@[simp] theorem State.hostOut_withAnswer (s : State) (b : Option (List Byte)) : (s.withAnswer b).hostOut = b := rfl

theorem MemKept.of_eq {s t : State} (hm : t.mem = s.mem) (hc : t.c2 = s.c2) (hp : t.poison = s.poison) (hf : t.flash = s.flash) :
    MemKept s t := ⟨State.physByte_congr hm hc, hp, hf⟩

/-- An event whose only effect is an answer. -/
theorem happens_answer {e : Event} {s : State} {b : Option (List Byte)}
    (h : exec e.instr (s.onEvent e) = .next ((s.onEvent e).withAnswer b)) :
    Happens e s fun t => t.hostOut = b ∧ MemKept s t ∧ ∀ n c, t.ctx n c = s.ctx n c :=
  happens_next h ⟨rfl, .of_eq rfl rfl rfl rfl, fun _ _ => rfl⟩

/-! Bytes of answers. -/

theorem ofNat_bits (x lo : Nat) : BitVec.ofNat 8 (bits x lo 8) = BitVec.ofNat 8 (x / 2 ^ lo) := by
  apply BitVec.eq_of_toNat_eq
  simp [bits]

/-- The bytes of a coherent read. -/
theorem bytesOf_physRead (s : State) (pa n : Nat) :
    bytesOf (s.physRead pa n) n = (List.range n).map fun i => BitVec.ofNat 8 (s.physByte (pa + i)) :=
  List.map_congr_left fun i hi => by rw [s.bits_physRead pa n i (List.mem_range.mp hi)]

/-- The bytes of a read of memory. -/
theorem bytesOf_memRead (m : List Host.Cell) (a n : Nat) :
    bytesOf (memRead m a n) n = (List.range n).map fun i => memByte m (a + i) :=
  List.map_congr_left fun i hi => by rw [bits_memRead m a n i (List.mem_range.mp hi)]; simp

/-! HBM (R444). -/

theorem exec_hostMemoryAccess (s : State) : exec .hostMemoryAccess s = execHostMemoryAccess s := rfl

theorem exec_hostMemoryAccess_refused (s : State) (pa n : Nat) (w : Option Nat) (h : inHbm pa n = false) :
    exec .hostMemoryAccess (s.onEvent (.hostMemoryAccess pa n w)) =
      .next ((s.onEvent (.hostMemoryAccess pa n w)).withAnswer none) := by
  rw [exec_hostMemoryAccess]
  simp only [execHostMemoryAccess, State.onEvent, h, Bool.not_false, Bool.true_or, if_true]
  rfl

section Admitted
variable (s : State) (pa n : Nat) (h : inHbm pa n = true) (hp : populated (pa + n - 1) = true)
include h hp

theorem exec_hostMemoryAccess_read :
    exec .hostMemoryAccess (s.onEvent (.hostMemoryAccess pa n none)) =
      .next ((s.onEvent (.hostMemoryAccess pa n none)).withAnswer (some (bytesOf (s.physRead pa n) n))) := by
  rw [exec_hostMemoryAccess, ← s.physRead_onEvent (.hostMemoryAccess pa n none)]
  simp only [execHostMemoryAccess, State.onEvent, h, hp, Bool.not_true, Bool.or_self, Bool.false_eq_true, if_false]
  rfl

theorem exec_hostMemoryAccess_write (v : Nat) :
    exec .hostMemoryAccess (s.onEvent (.hostMemoryAccess pa n (some v))) =
      .next (((s.onEvent (.hostMemoryAccess pa n (some v))).physWrite pa n v).withAnswer (some [])) := by
  rw [exec_hostMemoryAccess]
  simp only [execHostMemoryAccess, State.onEvent, h, hp, Bool.not_true, Bool.or_self, Bool.false_eq_true, if_false]
  rfl

end Admitted

/-! The fabric (R26, R451). -/

/-- The bit of a fabric window that admits an operation (R451). -/
def fabRight : FabOp → Nat
  | .read => 66
  | .write => 67
  | .atomic _ => 68

/-- Memory after a read-modify-write that leaves a new value, if any (R321). -/
def State.rmwWritten (s : State) (pa n : Nat) : Option Nat → State
  | some v => s.physWrite pa n v
  | none => s

theorem fabRequest_refused (s : State) (pa n data : Nat) (op : FabOp) (h : s.fabAdmits pa n (fabRight op) = false) :
    s.fabRequest pa n op data = s.withAnswer none := by
  cases op <;> simp only [fabRight] at h <;> simp [State.fabRequest, State.withAnswer, h]

section Admitted
variable (s : State) (pa n data : Nat) (hn : 1 ≤ n) (hlo : (populated pa || inStall pa) = true)
  (hhi : (populated (pa + n - 1) || inStall (pa + n - 1)) = true)
include hn hlo hhi

theorem fabRequest_read (h : s.fabAdmits pa n 66 = true) :
    s.fabRequest pa n .read data = s.withAnswer (some (bytesOf (s.physRead pa n) n)) := by
  have hn0 : (n == 0) = false := by simp; omega
  simp only [State.fabRequest, h, hlo, hhi, hn0, Bool.not_true, Bool.or_self, Bool.false_eq_true, if_false]
  rfl

theorem fabRequest_write (h : s.fabAdmits pa n 67 = true) :
    s.fabRequest pa n .write data = (s.physWrite pa n data).withAnswer (some []) := by
  have hn0 : (n == 0) = false := by simp; omega
  simp only [State.fabRequest, h, hlo, hhi, hn0, Bool.not_true, Bool.or_self, Bool.false_eq_true, if_false]
  rfl

theorem fabRequest_atomic (k : Nat) (h : s.fabAdmits pa n 68 = true) :
    s.fabRequest pa n (.atomic k) data =
      (s.rmwWritten pa n (rmwNew k (8 * n) (s.physRead pa n) (bits data 0 (8 * n)) (bits data (8 * n) (8 * n)))).withAnswer
        (some (bytesOf (s.physRead pa n) n)) := by
  have hn0 : (n == 0) = false := by simp; omega
  simp only [State.fabRequest, h, hlo, hhi, hn0, Bool.not_true, Bool.or_self, Bool.false_eq_true, if_false]
  rfl

end Admitted

/-- A read-modify-write leaves at each byte of its range the new value's, where it writes none the old one's. -/
theorem State.physByte_rmwWritten (s : State) (new : Option Nat) (pa n a : Nat) :
    (s.rmwWritten pa n new).physByte a =
      if pa ≤ a ∧ a < pa + n then bits (new.getD (s.physRead pa n)) (8 * (a - pa)) 8 else s.physByte a := by
  cases new with
  | some v => exact s.physByte_physWrite pa n v a
  | none =>
    by_cases h : pa ≤ a ∧ a < pa + n
    · rw [if_pos h, Option.getD_none, s.bits_physRead pa n _ (by omega), show pa + (a - pa) = a by omega]; rfl
    · rw [if_neg h]; rfl

/-! The stall window (R447). -/

/-- A stall's address from the offset in the window of all stalls. -/
theorem stallPa_window (off : Nat) : stallPa (off / 65536) (off % 65536) = stallBase + off := by
  unfold stallPa; omega

/-- Bytes packed into a number, lowest first. -/
def packBytes (bs : List Byte) : Nat := bs.foldr (fun b r => b.toNat + 256 * r) 0

theorem packBytes_byte (bs : List Byte) (i : Nat) (h : i < bs.length) :
    BitVec.ofNat 8 (packBytes bs / 2 ^ (8 * i)) = bs.getD i 0 := by
  rw [← ofNat_bits]
  induction bs generalizing i with
  | nil => simp at h
  | cons b bs ih =>
    rw [show packBytes (b :: bs) = b.toNat + 256 * packBytes bs from rfl, bits_byte_cons _ _ _ (BitVec.isLt b)]
    cases i with
    | zero => simp
    | succ i => simpa using ih i (by simpa using h)

theorem State.windowWrite_stored (fuel : Nat) (s : State) (off : Nat) (bs : List Byte) : Stored (s.windowWrite off bs fuel) s := by
  induction fuel generalizing s off bs with
  | zero => exact Stored.refl s
  | succ fuel ih =>
    unfold State.windowWrite
    split
    · exact Stored.refl s
    · exact (ih _ _ _).trans (s.stallWrite_stored _ _ _ _)

/-- Bytes written through the window stand at their places, and no other byte of memory changes. -/
theorem State.windowWrite_byte (fuel : Nat) (s : State) (off : Nat) (bs : List Byte) (a : Nat) (hf : bs.length ≤ fuel) :
    memByte (s.windowWrite off bs fuel).mem a =
      if stallBase + off ≤ a ∧ a < stallBase + off + bs.length then bs.getD (a - (stallBase + off)) 0 else memByte s.mem a := by
  induction fuel generalizing s off bs with
  | zero => rw [if_neg (by omega)]; rfl
  | succ fuel ih =>
    unfold State.windowWrite
    by_cases h0 : bs = []
    · rw [if_pos (by simp [h0]), if_neg (by simp [h0])]
    · have hpos : 0 < bs.length := List.length_pos_iff.mpr h0
      rw [if_neg (by simpa using h0)]
      dsimp only
      obtain ⟨k, hk⟩ : ∃ k, min bs.length (8 - off % 8) = k := ⟨_, rfl⟩
      have hlen : (bs.drop k).length = bs.length - k := List.length_drop
      rw [hk, ih _ _ _ (by omega), State.stallWrite_mem, stallPa_window, hlen]
      by_cases hr : stallBase + off ≤ a ∧ a < stallBase + off + bs.length
      · rw [if_pos hr]
        by_cases ha : a < stallBase + off + k
        · rw [if_neg (by omega), memByte_memWrite_of_in _ _ _ _ _ hr.1 ha]
          refine (packBytes_byte (bs.take k) _ (by simp; omega)).trans ?_
          rw [List.getD_eq_getElem?_getD, List.getD_eq_getElem?_getD, List.getElem?_take_of_lt (by omega)]
        · rw [if_pos (by omega), List.getD_eq_getElem?_getD, List.getD_eq_getElem?_getD, List.getElem?_drop]
          congr 2
          omega
      · rw [if_neg hr, if_neg (by omega), memByte_memWrite_of_out _ _ _ _ _ (by omega)]

end Sys2Proof.Machine
end

section
/-! SUPPORT. The registers that the host writes, and the heat table that it places (R91, R445, R446). -/
namespace Sys2Proof.Machine

/-! Maps whose keys are distinct. -/

theorem Assoc.get_of_mem {α : Type} (m : Assoc α) (d : α) (h : (m.map (·.1)).Nodup) (e : Nat × α) (he : e ∈ m) :
    m.get e.1 d = e.2 := by
  induction m with
  | nil => simp at he
  | cons a m ih =>
    obtain ⟨j, v⟩ := a
    rw [List.map_cons, List.nodup_cons] at h
    rw [Assoc.get_cons]
    rcases List.mem_cons.mp he with rfl | he
    · simp
    · rw [if_neg (fun hj => h.1 (List.mem_map.mpr ⟨e, he, hj.symm⟩))]
      exact ih h.2 he

/-- A key that a filter on keys keeps reads as before. -/
theorem Assoc.get_filter {α : Type} (m : Assoc α) (p : Nat × α → Bool) (k : Nat) (d : α) (h : ∀ v, p (k, v) = true) :
    Assoc.get (m.filter p) k d = Assoc.get m k d := by
  induction m with
  | nil => rfl
  | cons a m ih =>
    obtain ⟨j, v⟩ := a
    rw [List.filter_cons]
    by_cases hj : j = k
    · subst hj; simp [h, Assoc.get_cons]
    · split <;> simp [Assoc.get_cons, hj, ih]

/-! The heat table (R91; log entry 103). -/

/-- A page's entry lies within the table. -/
theorem heatSlot_within (base p : Nat) (h : p < cxlTop / 65536) :
    base ≤ heatSlot base p ∧ heatSlot base p + 4 ≤ base + heatSlot 0 (cxlTop / 65536) := by
  simp only [heatSlot, cxlTop, cxlBase, hbmTop] at *
  norm_num at *
  split <;> omega

/-- What setting a counter keeps and gives. -/
theorem State.setHeat_frame (s : State) (p h : Nat) :
    (s.setHeat p h).pkg = s.pkg ∧ (s.setHeat p h).heat = s.heat.set p h 0 := by
  unfold State.setHeat
  dsimp only
  split
  · exact ⟨(State.physWrite_stored _ _ _ _).pkg, (State.physWrite_stored _ _ _ _).heat⟩
  · exact ⟨rfl, rfl⟩

/-- A byte outside a page's entry reads as before its counter was set. -/
theorem State.physByte_setHeat (s : State) (p h a : Nat)
    (ha : a < heatSlot s.pkg.heatBase p ∨ heatSlot s.pkg.heatBase p + 4 ≤ a) : (s.setHeat p h).physByte a = s.physByte a := by
  unfold State.setHeat
  dsimp only
  split
  · rw [State.physByte_physWrite, if_neg (by omega)]
    exact State.physByte_congr rfl rfl a
  · exact State.physByte_congr rfl rfl a

/-- The entry of a page in HBM holds the counter that was set. -/
theorem State.physRead_setHeat (s : State) (p h : Nat) (hb : s.pkg.heatBase ≠ 0) (hi : inHbm (heatSlot s.pkg.heatBase p) 4 = true)
    (hh : h < 2 ^ 16) : (s.setHeat p h).physRead (heatSlot s.pkg.heatBase p) 4 = h := by
  have hc : (s.pkg.heatBase != 0 && inHbm (heatSlot s.pkg.heatBase p) 4) = true := by simp [hb, hi]
  unfold State.setHeat
  dsimp only
  rw [if_pos hc, State.physRead_physWrite]
  omega

/-- The counters set one after another. -/
def State.setHeats (s : State) (es : Assoc Nat) : State := es.foldl (fun s e => s.setHeat e.1 e.2) s

theorem State.setHeats_pkg (s : State) (es : Assoc Nat) : (s.setHeats es).pkg = s.pkg :=
  List.foldlRecOn (motive := fun t : State => t.pkg = s.pkg) es _ rfl fun t ht e _ => (t.setHeat_frame e.1 e.2).1.trans ht

/-- Setting counters to what they are changes none. -/
theorem State.setHeats_heat (s : State) (es : Assoc Nat) (h : ∀ e ∈ es, s.heat.get e.1 0 = e.2) (k : Nat) :
    (s.setHeats es).heat.get k 0 = s.heat.get k 0 := by
  revert k
  refine List.foldlRecOn (motive := fun t : State => ∀ k, t.heat.get k 0 = s.heat.get k 0) es _ (fun _ => rfl) fun t ht e he k => ?_
  rw [(t.setHeat_frame e.1 e.2).2, Assoc.get_set]
  split
  · subst_vars; exact (h e he).symm
  · exact ht k

theorem State.physByte_setHeats (s : State) (es : Assoc Nat) (a : Nat)
    (h : ∀ e ∈ es, a < heatSlot s.pkg.heatBase e.1 ∨ heatSlot s.pkg.heatBase e.1 + 4 ≤ a) :
    (s.setHeats es).physByte a = s.physByte a := by
  refine (List.foldlRecOn (motive := fun t : State => t.pkg = s.pkg ∧ t.physByte a = s.physByte a) es _ ⟨rfl, rfl⟩
    fun t ht e he => ⟨(t.setHeat_frame e.1 e.2).1.trans ht.1, ?_⟩).2
  rw [State.physByte_setHeat _ _ _ _ (by rw [ht.1]; exact h e he), ht.2]

/-! Ranges cleared and flushed. -/

theorem State.evict_frame (s : State) (l : C2Line) : (s.evict l).pkg = s.pkg ∧ (s.evict l).heat = s.heat := by
  unfold State.evict State.writeBack State.payDie State.chargeWb State.storeBack State.dropC1
  dsimp only
  split
  · split <;> exact ⟨rfl, rfl⟩
  · exact ⟨rfl, rfl⟩

theorem State.flushRange_frame (s : State) (pa n : Nat) : (s.flushRange pa n).pkg = s.pkg ∧ (s.flushRange pa n).heat = s.heat :=
  List.foldlRecOn (motive := fun t : State => t.pkg = s.pkg ∧ t.heat = s.heat) _ _ ⟨rfl, rfl⟩
    fun t ht l _ => ⟨(t.evict_frame l).1.trans ht.1, (t.evict_frame l).2.trans ht.2⟩

/-- No line of C2 holds a byte of a range. -/
def State.apart (s : State) (pa n : Nat) : Prop := ∀ l ∈ s.c2, 64 * l.pline + 64 ≤ pa ∨ pa + n ≤ 64 * l.pline

theorem State.flushRange_of_apart (s : State) (pa n : Nat) (h : s.apart pa n) : s.flushRange pa n = s := by
  have hnone : (s.c2.filter fun l => pa / 64 ≤ l.pline && l.pline < (pa + n + 63) / 64) = [] := by
    rw [List.filter_eq_nil_iff]
    intro l hl
    have := h l hl
    simp only [Bool.and_eq_true, decide_eq_true_eq]
    omega
  unfold State.flushRange
  rw [hnone]
  rfl

theorem State.physByte_clearRange (s : State) (pa n a : Nat) (h : s.apart pa n) (ha : a < pa ∨ pa + n ≤ a) :
    (s.clearRange pa n).physByte a = s.physByte a := by
  have hc : (s.clearRange pa n).c2 = s.c2 := by
    show s.c2.filter _ = s.c2
    rw [List.filter_eq_self]
    intro l hl
    have := h l hl
    simp only [Bool.not_eq_true', Bool.and_eq_false_iff, decide_eq_false_iff_not]
    omega
  have hm : memByte (s.clearRange pa n).mem a = memByte s.mem a := Assoc.get_filter _ _ _ _ fun v => by
    simp only [Bool.not_eq_true', Bool.and_eq_false_iff, decide_eq_false_iff_not]
    omega
  unfold State.physByte State.lineOf
  rw [hc, hm]

/-! HEATBASE (R445; log entry 103). -/

/-- The state with HEATBASE written and its table not yet filled. -/
def State.withHeatBase (s : State) (base : Nat) : State := { s with pkg := { s.pkg with heatBase := base } }

theorem State.placeHeat_of_ne (s : State) (base : Nat) (h : base ≠ 0) :
    s.placeHeat base = (((s.withHeatBase base).flushRange base (heatSlot 0 (cxlTop / 65536))).clearRange base
      (heatSlot 0 (cxlTop / 65536))).setHeats s.heat := by
  have heat : (((s.withHeatBase base).flushRange base (heatSlot 0 (cxlTop / 65536))).clearRange base
      (heatSlot 0 (cxlTop / 65536))).heat = s.heat := (State.flushRange_frame _ _ _).2
  unfold State.placeHeat
  dsimp only
  rw [if_neg (by simpa using h)]
  rfl

theorem State.placeHeat_pkg (s : State) (base : Nat) : (s.placeHeat base).pkg = { s.pkg with heatBase := base } := by
  by_cases h : base = 0
  · subst h; rfl
  · rw [State.placeHeat_of_ne _ _ h, State.setHeats_pkg]
    exact (State.flushRange_frame _ _ _).1

theorem State.placeHeat_heat (s : State) (base : Nat) (hs : (s.heat.map (·.1)).Nodup) (k : Nat) :
    (s.placeHeat base).heat.get k 0 = s.heat.get k 0 := by
  by_cases h : base = 0
  · subst h; rfl
  · rw [State.placeHeat_of_ne _ _ h]
    have heat : (((s.withHeatBase base).flushRange base (heatSlot 0 (cxlTop / 65536))).clearRange base
        (heatSlot 0 (cxlTop / 65536))).heat = s.heat := (State.flushRange_frame _ _ _).2
    rw [State.setHeats_heat _ _ (fun e he => by rw [heat]; exact Assoc.get_of_mem s.heat 0 hs e he), heat]

section Table
variable (s : State) (base : Nat) (h : base ≠ 0) (ha : s.apart base (heatSlot 0 (cxlTop / 65536)))
include h ha

/-- Where no line of C2 holds a byte of the new table, its counters are set over cleared memory. -/
theorem State.placeHeat_of_apart :
    s.placeHeat base = ((s.withHeatBase base).clearRange base (heatSlot 0 (cxlTop / 65536))).setHeats s.heat := by
  rw [State.placeHeat_of_ne _ _ h, State.flushRange_of_apart (s.withHeatBase base) _ _ ha]

/-- Placing the table changes no byte outside it. -/
theorem State.physByte_placeHeat (hk : ∀ e ∈ s.heat, e.1 < cxlTop / 65536) (a : Nat)
    (hout : a < base ∨ base + heatSlot 0 (cxlTop / 65536) ≤ a) : (s.placeHeat base).physByte a = s.physByte a := by
  rw [State.placeHeat_of_apart s base h ha, State.physByte_setHeats, State.physByte_clearRange (s.withHeatBase base) _ _ _ ha hout]
  · exact State.physByte_congr rfl rfl a
  · intro e he
    obtain ⟨h1, h2⟩ := heatSlot_within base e.1 (hk e he)
    show a < heatSlot base e.1 ∨ heatSlot base e.1 + 4 ≤ a
    omega

/-- The table holds the counter of the only page that has one. -/
theorem State.physRead_placeHeat (p c : Nat) (hs : s.heat = [(p, c)]) (hc : c < 2 ^ 16) (hi : inHbm (heatSlot base p) 4 = true) :
    (s.placeHeat base).physRead (heatSlot base p) 4 = c := by
  rw [State.placeHeat_of_apart s base h ha, hs]
  exact State.physRead_setHeat ((s.withHeatBase base).clearRange base (heatSlot 0 (cxlTop / 65536))) p c h hi hc

end Table

/-! Register writes (R445, R446). -/

theorem exec_hostRegisterWrite (s : State) (off v : Nat) :
    exec .hostRegisterWrite (s.onEvent (.hostRegisterWrite off v)) =
      .next ((s.onEvent (.hostRegisterWrite off v)).hostRegister off v) := rfl

/-- The state with a package register written that has no further effect. -/
def State.withPkg (s : State) (p : Pkg) : State := { s with pkg := p }

theorem State.hostRegister_devId (s : State) (w : Nat) : s.hostRegister 0 w = s.withPkg (s.pkg.write 0 w) := rfl

theorem State.hostRegister_keep (s : State) (w : Nat) : s.hostRegister 0x10 w = s.withPkg (s.pkg.write 0x10 w) := rfl

theorem State.hostRegister_heatBase (s : State) (w : Nat) : s.hostRegister 0x480 w = s.placeHeat (w % 2 ^ 45) := rfl

theorem Pkg.write_devId (p : Pkg) (w : Nat) : p.write 0 w = if p.fabEn = 0 then { p with devId := w % 2 ^ 18 } else p := by
  simp [Pkg.write]

theorem Pkg.write_keep (p : Pkg) (w : Nat) :
    p.write 0x10 w = { p with keep := min 4096 (bits w 0 13), fallback := max 70 (min 280 (bits w 16 12)) } := rfl

/-- A write at an offset of function `v`'s window reaches that window. -/
theorem State.hostRegister_window (s : State) (v off w : Nat) (hv : v < 64) (ho : off < 0x1000) (ha : off % 8 = 0) :
    s.hostRegister (0x100000 + 0x1000 * v + off) w = s.writeVf v off w := by
  have h1 : ((0x100000 + 0x1000 * v + off) % 8 != 0) = false := by simp; omega
  have h2 : ¬ 0x100000 + 0x1000 * v + off < 0x10000 := by omega
  have h3 : (decide (0x100000 ≤ 0x100000 + 0x1000 * v + off) && decide (0x100000 + 0x1000 * v + off < 0x140000)) = true := by
    simp; omega
  unfold State.hostRegister
  rw [h1, if_neg Bool.false_ne_true, if_neg h2, if_pos h3, show (0x100000 + 0x1000 * v + off - 0x100000) / 0x1000 = v by omega,
    show (0x100000 + 0x1000 * v + off) % 0x1000 = off by omega]

theorem State.vf_modVf (s : State) (v u : Nat) (f : Vf → Vf) : (s.modVf v f).vf u = if u = v then f (s.vf v) else s.vf u := by
  simp [State.modVf, State.vf, Assoc.get_put]

/-- A register write at an offset of function `v`'s window changes that window alone, of which `P` then holds. -/
def WindowWritten (s : State) (v off w : Nat) (P : Vf → Prop) : Prop :=
  v < 64 → Happens (.hostRegisterWrite (0x100000 + 0x1000 * v + off) w) s fun t =>
    P (t.vf v) ∧ (∀ u, u ≠ v → t.vf u = s.vf u) ∧ t.pkg = s.pkg ∧ MemKept s t ∧ ∀ n c, t.ctx n c = s.ctx n c

theorem WindowWritten.of_modVf {s : State} {v off w : Nat} {P : Vf → Prop} (f : Vf → Vf) (ho : off < 0x1000) (ha : off % 8 = 0)
    (hw : ∀ e, (s.onEvent e).writeVf v off w = (s.onEvent e).modVf v f) (hp : P (f (s.vf v))) : WindowWritten s v off w P := by
  intro hv
  refine happens_next (exec_hostRegisterWrite s _ w) ?_
  rw [State.hostRegister_window _ _ _ _ hv ho ha, hw]
  refine ⟨?_, fun u hu => ?_, rfl, .of_eq rfl rfl rfl rfl, fun _ _ => rfl⟩
  · rw [State.vf_modVf, if_pos rfl]; exact hp
  · rw [State.vf_modVf, if_neg hu]; rfl

/-- ASIDTAB is ignored, with WERR set, where a live context of the function forbids it (R446). -/
theorem windowWritten_asidTab_live (s : State) (v w : Nat) (h : s.vfLive v = true) :
    WindowWritten s v 0 w fun x => x = { s.vf v with werr := true } := by
  refine .of_modVf (fun x => { x with werr := true }) (by decide) rfl (fun e => ?_) rfl
  have h' : (s.onEvent e).vfLive v = true := h
  simp [State.writeVf, h']

theorem windowWritten_asidTab (s : State) (v w : Nat) (h : s.vfLive v = false) :
    WindowWritten s v 0 w fun x => x = { s.vf v with asidTab := bits w 12 33 * 4096 } := by
  refine .of_modVf (fun x => { x with asidTab := bits w 12 33 * 4096 }) (by decide) rfl (fun e => ?_) rfl
  have h' : (s.onEvent e).vfLive v = false := h
  simp [State.writeVf, h']

theorem windowWritten_kvLim (s : State) (v w : Nat) :
    WindowWritten s v 0x18 w fun x => x = { s.vf v with kvLim := w % 2 ^ 23 } :=
  .of_modVf (fun x => { x with kvLim := w % 2 ^ 23 }) (by decide) rfl (fun _ => rfl) rfl

/-- A field of four packed 5-bit fields. -/
theorem bits_pack5 (a0 a1 a2 a3 : Nat) (h0 : a0 < 32) (h1 : a1 < 32) (h2 : a2 < 32) (h3 : a3 < 32) :
    bits (a0 + a1 * 32 + a2 * 1024 + a3 * 32768) 0 5 = a0 ∧ bits (a0 + a1 * 32 + a2 * 1024 + a3 * 32768) 5 5 = a1 ∧
      bits (a0 + a1 * 32 + a2 * 1024 + a3 * 32768) 10 5 = a2 ∧ bits (a0 + a1 * 32 + a2 * 1024 + a3 * 32768) 15 5 = a3 := by
  simp only [bits]
  omega

/-- Each class's field of VFQUOTA holds at most 16 (R81). -/
theorem quotaWrite_field (w c : Nat) (h : c < 4) : bits (quotaWrite w) (5 * c) 5 = min 16 (bits w (5 * c) 5) := by
  have hlt (x : Nat) : min 16 x < 32 := by omega
  have he : quotaWrite w = min 16 (bits w 0 5) + min 16 (bits w 5 5) * 32 + min 16 (bits w 10 5) * 1024 +
      min 16 (bits w 15 5) * 32768 := by simp [quotaWrite, List.range_succ]
  obtain ⟨b0, b1, b2, b3⟩ := bits_pack5 _ _ _ _ (hlt (bits w 0 5)) (hlt (bits w 5 5)) (hlt (bits w 10 5)) (hlt (bits w 15 5))
  rw [he]
  interval_cases c
  exacts [b0, b1, b2, b3]

theorem windowWritten_quota (s : State) (v w : Nat) : WindowWritten s v 8 w fun x =>
    x = { s.vf v with quota := x.quota } ∧ ∀ c, c < 4 → bits x.quota (5 * c) 5 = min 16 (bits w (5 * c) 5) :=
  .of_modVf (fun x => { x with quota := quotaWrite w }) (by decide) rfl (fun _ => rfl) ⟨rfl, quotaWrite_field w⟩

end Sys2Proof.Machine
end

section
/-! SUPPORT. Launch-queue pushes, doorbells, cleared counts, and the statement of the host's and the fabric's events: O54. -/
namespace Sys2Proof.Machine

/-! Launch-queue pushes (R213, R214). -/

theorem State.lqWrite_stored (n : Nat) (s : State) (base logn off v : Nat) : Stored (s.lqWrite base logn off v n) s := by
  induction n generalizing s off v with
  | zero => exact Stored.refl s
  | succ n ih => exact (ih _ _ _).trans (s.physStore_stored _ _ _)

@[simp] theorem State.lqRing_onEvent (s : State) (e : Event) (q p : Nat) : (s.onEvent e).lqRing q p = s.lqRing q p := by
  have hd : (s.onEvent e).lqDesc q p = s.lqDesc q p := rfl
  unfold State.lqRing
  rw [hd, State.physRead_onEvent]

/-- A push fails only where its list is malformed or has no room, whatever entry it pushes (R214). -/
theorem State.lqPush_none_congr {s t : State} {q p : Nat} {e : QRun} {o : Option Nat} (hr : t.lqRing q p = s.lqRing q p)
    (h : s.lqPush q p e o = none) : t.lqPush q p e o = none := by
  unfold State.lqPush at *
  rw [hr]
  cases hs : s.lqRing q p with
  | none => rfl
  | some r =>
    rw [hs] at h
    dsimp only at h ⊢
    split at h
    · rw [if_pos ‹_›]
    · simp at h

/-- The state with one launch-queue list replaced. -/
def State.withLqList (s : State) (q p : Nat) (l : LqList) : State := { s with lq := s.lq.put (4 * q + p) l }

theorem State.lqList_withLqList (s : State) (q p : Nat) (l : LqList) : (s.withLqList q p l).lqList q p = l := by
  simp [State.withLqList, State.lqList]

/-- A push into a list with room stores its bytes and the list's new tail, and moves its push index on. -/
theorem State.lqPush_of_room (s : State) (q p : Nat) (e : QRun) (o : Option Nat) {base logn head tail : Nat}
    (hr : s.lqRing q p = some (base, logn, head, tail)) (hf : 38 ≤ ringFree (2 ^ logn) head tail) :
    ∃ u l, s.lqPush q p e o = some (u.withLqList q p l) ∧ Stored u s ∧ l.pushIdx = (s.lqList q p).pushIdx + 1 := by
  unfold State.lqPush
  rw [hr]
  dsimp only
  rw [if_neg (by omega)]
  exact ⟨_, _, rfl, (State.physWrite_stored _ _ _ _).trans (State.lqWrite_stored _ _ _ _ _ _), rfl⟩

/-- The state with the status of the latest push. -/
def State.withLqStatus (s : State) (st : Nat) : State := { s with pkg := { s.pkg with lqStatus := st } }

theorem exec_lqpush (s : State) (vf e : Nat) :
    exec .lqpush (s.onEvent (.lqpush vf e)) =
      match (s.onEvent (.lqpush vf e)).lqPush (bits e 0 8) (bits e 8 2) (lqEntry e) none with
      | some t => .next (t.withLqStatus stOK)
      | none => .next ((s.onEvent (.lqpush vf e)).withLqStatus stLQFULL) := rfl

/-- A push that fails leaves LQFULL and the lists as they are. -/
theorem happens_lqpush_full (s : State) (vf e : Nat) (h : s.lqPush (bits e 0 8) (bits e 8 2) (lqEntry e) none = none) :
    Happens (.lqpush vf e) s fun t => t.pkg.lqStatus = stLQFULL ∧ t.lq = s.lq ∧ MemKept s t := by
  have h' := State.lqPush_none_congr (s.lqRing_onEvent (.lqpush vf e) _ _) h
  refine happens_next (t := (s.onEvent (.lqpush vf e)).withLqStatus stLQFULL) ?_ ⟨rfl, rfl, .of_eq rfl rfl rfl rfl⟩
  show exec .lqpush _ = _
  rw [exec_lqpush, h']

/-- A push into a list with room (R214). -/
theorem happens_lqpush_room (s : State) (vf e : Nat) {base logn head tail : Nat}
    (hr : s.lqRing (bits e 0 8) (bits e 8 2) = some (base, logn, head, tail)) (hf : 38 ≤ ringFree (2 ^ logn) head tail) :
    Happens (.lqpush vf e) s fun t => t.pkg.lqStatus = stOK ∧
      (t.lqList (bits e 0 8) (bits e 8 2)).pushIdx = (s.lqList (bits e 0 8) (bits e 8 2)).pushIdx + 1 ∧
      ∀ n c r, (t.ctx n c).sreg r = (s.ctx n c).sreg r := by
  obtain ⟨u, l, hp, hu, hl⟩ := (s.onEvent (.lqpush vf e)).lqPush_of_room _ _ (lqEntry e) none
    ((s.lqRing_onEvent _ _ _).trans hr) hf
  refine happens_next (t := (u.withLqList (bits e 0 8) (bits e 8 2) l).withLqStatus stOK) ?_ ⟨rfl, ?_, fun n c r => hu.sreg n c r⟩
  · show exec .lqpush _ = _
    rw [exec_lqpush, hp]
  · exact (congrArg LqList.pushIdx (State.lqList_withLqList u _ _ l)).trans hl

/-! Doorbells and cleared counts (R59, R448, R449, R455). -/

/-- SVCDB gives the waiting request of its index the reply that stands in the ring (R449). -/
theorem happens_svcdb (s : State) (vf idx : Nat) {base logn : Nat} (hr : s.svcRing vf = some (base, logn)) (hi : idx < 2 ^ 12) :
    Happens (.svcdb vf idx) s fun u => u.svcs = s.svcs.map (fun q => if q.vf = vf ∧ q.idx = idx ∧ q.reply = none then
      { q with reply := some (BitVec.ofNat 64 (s.physRead (base + 32 * idx + 16) 8)) } else q) ∧ MemKept s u := by
  have hr' : (s.onEvent (.svcdb vf idx)).svcRing vf = some (base, logn) := hr
  have he : exec .svcdb (s.onEvent (.svcdb vf idx)) = .next ((s.onEvent (.svcdb vf idx)).svcReply vf (idx % 2 ^ 12)) := rfl
  refine happens_next he ?_
  rw [Nat.mod_eq_of_lt hi]
  unfold State.svcReply
  rw [hr']
  refine ⟨?_, .of_eq rfl rfl rfl rfl⟩
  dsimp only
  rw [State.physRead_onEvent]
  refine List.map_congr_left fun q _ => ?_
  by_cases h : q.vf = vf ∧ q.idx = idx ∧ q.reply = none
  · rw [if_pos h, if_pos (by simp [h])]
  · rw [if_neg h, if_neg (by simpa [and_assoc] using h)]

theorem Core.track_setTrack (k : Core) (t n : Nat) (x : Track) : (k.setTrack t x).track n = if n = t then x else k.track n := by
  simp [Core.track, Core.setTrack, Assoc.get_put]

/-- TRKCLR clears the suspect bit of one track (R59). -/
theorem happens_trkclr (s : State) (core t : Nat) (hc : core < numCores) (ht : t < 256) :
    Happens (.trkclr core t) s fun u => (u.track core t).susp = false ∧ (u.track core t).head = (s.track core t).head ∧
      (∀ k, k ≠ t → u.track core k = s.track core k) ∧ MemKept s u := by
  let u := (s.onEvent (.trkclr core t)).modCore core fun k => k.setTrack t { k.track t with susp := false }
  have he : exec .trkclr (s.onEvent (.trkclr core t)) = .next u := by
    show execTrkclr (s.onEvent (.trkclr core t)) = _
    simp [execTrkclr, State.onEvent, hc, ht, u]
  have htrack (n : Nat) : u.track core n = if n = t then { s.track core t with susp := false } else s.track core n := by
    unfold State.track
    rw [State.core_modCore, if_pos rfl, Core.track_setTrack]
    rfl
  refine happens_next he ⟨?_, ?_, fun k hk => ?_, .of_eq rfl rfl rfl rfl⟩
  · rw [htrack, if_pos rfl]
  · rw [htrack, if_pos rfl]
  · rw [htrack, if_neg hk]

/-- A function's window with one of its counters cleared, by number (R448). -/
def Vf.cleared (v : Vf) : Nat → Vf
  | 0 => { v with migSkip := 0 }
  | 1 => { v with migErr := 0 }
  | 2 => { v with wakeDup := 0 }
  | 3 => { v with rqDrop := 0 }
  | 4 => { v with doneErr := 0 }
  | 5 => { v with lRefuse := 0 }
  | _ => v

theorem exec_counterClear (s : State) (vf n : Nat) :
    exec .counterClear (s.onEvent (.counterClear vf n)) = .next ((s.onEvent (.counterClear vf n)).modVf vf (·.cleared n)) := rfl

theorem happens_counterClear (s : State) (vf n : Nat) :
    Happens (.counterClear vf n) s fun u => MemKept s u ∧ (n = 0 → (u.vf vf).migSkip = 0) ∧ (n = 1 → (u.vf vf).migErr = 0) ∧
      (n = 2 → (u.vf vf).wakeDup = 0) ∧ (n = 3 → (u.vf vf).rqDrop = 0) ∧ (n = 4 → (u.vf vf).doneErr = 0) ∧
      (n = 5 → (u.vf vf).lRefuse = 0) ∧ ∀ k, k ≠ vf → u.vf k = s.vf k := by
  have hvf : ((s.onEvent (.counterClear vf n)).modVf vf (·.cleared n)).vf vf = (s.vf vf).cleared n := by
    rw [State.vf_modVf, if_pos rfl]; rfl
  refine happens_next (exec_counterClear s vf n) ⟨.of_eq rfl rfl rfl rfl, ?_, ?_, ?_, ?_, ?_, ?_, fun k hk => ?_⟩
  rotate_right
  · rw [State.vf_modVf, if_neg hk]; rfl
  all_goals
    rw [hvf]
    rintro rfl
    rfl

/-- One step of the clearing of soft-error counts touches its own field alone. -/
theorem bits_clearField (r v c k : Nat) :
    bits (if bits v (10 * k) 10 == 1023 then setBits r (10 * k) 10 0 else r) (10 * c) 10 =
      if c = k ∧ bits v (10 * c) 10 = 1023 then 0 else bits r (10 * c) 10 := by
  by_cases hk : c = k
  · subst hk
    by_cases hv : bits v (10 * c) 10 = 1023
    · simp [hv, bits_setBits_self]
    · simp [hv]
  · simp only [hk, false_and, if_false]
    split
    · exact bits_setBits_ne _ _ _ _ _ _ (by omega)
    · rfl

/-- The fields whose written bits are all ones are cleared, and no other (R455). -/
theorem bits_clearFields (r v c : Nat) (h : c < 6) :
    bits (clearFields r v) (10 * c) 10 = if bits v (10 * c) 10 = 1023 then 0 else bits r (10 * c) 10 := by
  have key : ∀ n, bits ((List.range n).foldl (fun r c => if bits v (10 * c) 10 == 1023 then setBits r (10 * c) 10 0 else r) r)
      (10 * c) 10 = if c < n ∧ bits v (10 * c) 10 = 1023 then 0 else bits r (10 * c) 10 := by
    intro n
    induction n with
    | zero => simp
    | succ n ih =>
      rw [List.range_succ, List.foldl_append, List.foldl_cons, List.foldl_nil, bits_clearField, ih]
      by_cases hv : bits v (10 * c) 10 = 1023
      · by_cases hc : c = n
        · simp [hc]
        · simp [hv, hc, show c < n + 1 ↔ c < n by omega]
      · simp [hv]
  rw [clearFields, key 6]
  simp [h]

theorem exec_errcntClear (s : State) (r v : Nat) (h : r < 4) :
    exec .errcntClear (s.onEvent (.errcntClear r v)) = .next ((s.onEvent (.errcntClear r v)).withPkg
      { s.pkg with errCnt := s.pkg.errCnt.set r (clearFields (s.pkg.errCnt.get r 0) v) 0 }) := by
  show execErrcntClear (s.onEvent (.errcntClear r v)) = _
  simp [execErrcntClear, State.onEvent, State.withPkg, h]

theorem happens_errcntClear (s : State) (r v : Nat) (h : r < 4) :
    Happens (.errcntClear r v) s fun u => MemKept s u ∧ u.pkg.errLast = s.pkg.errLast ∧ ∀ c, c < 6 →
      bits (u.pkg.errCnt.get r 0) (10 * c) 10 = if bits v (10 * c) 10 = 1023 then 0 else bits (s.pkg.errCnt.get r 0) (10 * c) 10 := by
  refine happens_next (exec_errcntClear s r v h) ⟨.of_eq rfl rfl rfl rfl, rfl, fun c hc => ?_⟩
  rw [← bits_clearFields _ _ _ hc]
  simp [State.withPkg]

/-- SPDM_REQUEST answers and leaves memory and contexts alone (R454). -/
theorem happens_spdmRequest (s : State) (code : Nat) :
    Happens (.spdmRequest code) s fun u => MemKept s u ∧ ∀ m c, u.ctx m c = s.ctx m c :=
  happens_next rfl ⟨.of_eq rfl rfl rfl rfl, fun _ _ => rfl⟩

/-! Memory's events (R26, R444, R451). -/

/-- HBM as the host reads and writes it (R444). -/
theorem happens_hostMemoryAccess (s : State) (pa n v : Nat) (h : inHbm pa n = true) (hp : populated (pa + n - 1) = true) :
    (Happens (.hostMemoryAccess pa n none) s fun t =>
      t.hostOut = some ((List.range n).map fun i => BitVec.ofNat 8 (s.physByte (pa + i))) ∧ MemKept s t ∧
        ∀ n c, t.ctx n c = s.ctx n c) ∧
    Happens (.hostMemoryAccess pa n (some v)) s fun t =>
      t.hostOut = some [] ∧ ∀ a, t.physByte a = if pa ≤ a ∧ a < pa + n then bits v (8 * (a - pa)) 8 else s.physByte a := by
  rw [← bytesOf_physRead]
  refine ⟨happens_answer (exec_hostMemoryAccess_read s pa n h hp),
    happens_next (exec_hostMemoryAccess_write s pa n h hp v) ⟨rfl, fun a => ?_⟩⟩
  rw [State.physByte_withAnswer, State.physByte_physWrite, State.physByte_onEvent]

theorem exec_remoteFabricRequest (s : State) (dev pa n data : Nat) (op : FabOp) :
    exec .remoteFabricRequest (s.onEvent (.remoteFabricRequest dev pa n op data)) =
      .next ((s.onEvent (.remoteFabricRequest dev pa n op data)).fabRequest pa n op data) := rfl

/-- A remote device's access that no window admits (R451). -/
theorem happens_fabric_refused (s : State) (dev pa n data : Nat) (op : FabOp) (h : s.fabAdmits pa n (fabRight op) = false) :
    Happens (.remoteFabricRequest dev pa n op data) s fun t => t.hostOut = none ∧ MemKept s t ∧ ∀ n c, t.ctx n c = s.ctx n c :=
  happens_answer ((exec_remoteFabricRequest s dev pa n data op).trans
    (congrArg _ (fabRequest_refused (s.onEvent (.remoteFabricRequest dev pa n op data)) pa n data op h)))

section Admitted
variable (s : State) (dev pa n data : Nat) (hn : 1 ≤ n) (hlo : (populated pa || inStall pa) = true)
  (hhi : (populated (pa + n - 1) || inStall (pa + n - 1)) = true)
include hn hlo hhi

theorem happens_fabric_read (h : s.fabAdmits pa n 66 = true) :
    Happens (.remoteFabricRequest dev pa n .read data) s fun t =>
      t.hostOut = some ((List.range n).map fun i => BitVec.ofNat 8 (s.physByte (pa + i))) ∧ MemKept s t ∧
        ∀ n c, t.ctx n c = s.ctx n c := by
  rw [← bytesOf_physRead]
  refine happens_answer ((exec_remoteFabricRequest ..).trans (congrArg _ ?_))
  rw [← s.physRead_onEvent (.remoteFabricRequest dev pa n .read data)]
  exact fabRequest_read _ pa n data hn hlo hhi h

theorem happens_fabric_write (h : s.fabAdmits pa n 67 = true) :
    Happens (.remoteFabricRequest dev pa n .write data) s fun t => t.hostOut = some [] ∧
      ∀ a, t.physByte a = if pa ≤ a ∧ a < pa + n then bits data (8 * (a - pa)) 8 else s.physByte a := by
  refine happens_next (exec_remoteFabricRequest ..) ?_
  rw [fabRequest_write (s.onEvent (.remoteFabricRequest dev pa n .write data)) pa n data hn hlo hhi h]
  refine ⟨rfl, fun a => ?_⟩
  rw [State.physByte_withAnswer, State.physByte_physWrite, State.physByte_onEvent]

/-- A remote atomic gives the old value and leaves the new one (R26). -/
theorem happens_fabric_atomic (k : Nat) (h : s.fabAdmits pa n 68 = true) :
    Happens (.remoteFabricRequest dev pa n (.atomic k) data) s fun t =>
      t.hostOut = some ((List.range n).map fun i => BitVec.ofNat 8 (s.physByte (pa + i))) ∧
      ∀ a, t.physByte a = if pa ≤ a ∧ a < pa + n then
        bits ((rmwNew k (8 * n) (s.physRead pa n) (bits data 0 (8 * n)) (bits data (8 * n) (8 * n))).getD (s.physRead pa n))
          (8 * (a - pa)) 8 else s.physByte a := by
  rw [← bytesOf_physRead]
  refine happens_next (exec_remoteFabricRequest ..) ?_
  rw [fabRequest_atomic (s.onEvent (.remoteFabricRequest dev pa n (.atomic k) data)) pa n data hn hlo hhi k h]
  refine ⟨?_, fun a => ?_⟩
  · rw [State.hostOut_withAnswer, State.physRead_onEvent]
  · rw [State.physByte_withAnswer, State.physByte_rmwWritten, State.physRead_onEvent, State.physByte_onEvent]

end Admitted

/-! The stall window's events (R447). -/

theorem exec_hostStallRead (s : State) (vf off n : Nat) :
    exec .hostStallRead (s.onEvent (.hostStallRead vf off n)) = .next ((s.onEvent (.hostStallRead vf off n)).withAnswer
      (if s.windowOk vf off n then some (bytesOf (memRead s.mem (stallBase + off) n) n) else none)) := by
  have hw : (s.onEvent (.hostStallRead vf off n)).windowOk vf off n = s.windowOk vf off n := rfl
  show (if (s.onEvent (.hostStallRead vf off n)).windowOk vf off n then _ else _) = _
  rw [hw]
  split <;> rfl

theorem exec_hostStallWrite (s : State) (vf off : Nat) (b : List Byte) :
    exec .hostStallWrite (s.onEvent (.hostStallWrite vf off b)) = .next (
      if s.windowOk vf off b.length then
        ((s.onEvent (.hostStallWrite vf off b)).windowWrite off b (b.length + 1)).withAnswer (some [])
      else (s.onEvent (.hostStallWrite vf off b)).withAnswer none) := by
  have hw : (s.onEvent (.hostStallWrite vf off b)).windowOk vf off b.length = s.windowOk vf off b.length := rfl
  show (if (s.onEvent (.hostStallWrite vf off b)).windowOk vf off b.length then _ else _) = _
  rw [hw]
  split <;> rfl

/-- Reads of the window of stalls (R447). -/
theorem happens_hostStallRead (s : State) (vf off n : Nat) :
    (s.windowOk vf off n = true → Happens (.hostStallRead vf off n) s fun t =>
      t.hostOut = some ((List.range n).map fun i => memByte s.mem (stallBase + off + i)) ∧ MemKept s t) ∧
    (s.windowOk vf off n = false → Happens (.hostStallRead vf off n) s fun t => t.hostOut = none ∧ MemKept s t) := by
  refine ⟨fun h => happens_next (exec_hostStallRead s vf off n) ⟨?_, .of_eq rfl rfl rfl rfl⟩,
    fun h => happens_next (exec_hostStallRead s vf off n) ⟨?_, .of_eq rfl rfl rfl rfl⟩⟩
  · rw [State.hostOut_withAnswer, if_pos h, bytesOf_memRead]
  · rw [State.hostOut_withAnswer, if_neg (by simp [h])]

/-- Writes through the window of stalls (R447). -/
theorem happens_hostStallWrite (s : State) (vf off : Nat) (b : List Byte) :
    (s.windowOk vf off b.length = true → Happens (.hostStallWrite vf off b) s fun t => t.hostOut = some [] ∧
      (∀ a, memByte t.mem a = if stallBase + off ≤ a ∧ a < stallBase + off + b.length then b.getD (a - (stallBase + off)) 0
        else memByte s.mem a) ∧ ∀ m c r, (t.ctx m c).sreg r = (s.ctx m c).sreg r) ∧
    (s.windowOk vf off b.length = false → Happens (.hostStallWrite vf off b) s fun t => t.hostOut = none ∧ MemKept s t) := by
  refine ⟨fun h => happens_next (exec_hostStallWrite s vf off b) ?_, fun h => happens_next (exec_hostStallWrite s vf off b) ?_⟩
  · rw [if_pos h]
    exact ⟨rfl, fun a => State.windowWrite_byte _ _ _ _ _ (by omega),
      fun m c r => (State.windowWrite_stored (b.length + 1) (s.onEvent (.hostStallWrite vf off b)) off b).sreg m c r⟩
  · rw [if_neg (by simp [h])]
    exact ⟨rfl, .of_eq rfl rfl rfl rfl⟩

/-- STLSYNC reads 0 (R447). -/
theorem happens_stlsync (s : State) (vf : Nat) :
    Happens (.stlsync vf) s fun t => t.hostOut = some (List.replicate 8 0) ∧ MemKept s t :=
  happens_next (t := (s.onEvent (.stlsync vf)).withAnswer (some (bytesOf 0 8))) rfl ⟨rfl, .of_eq rfl rfl rfl rfl⟩

/-! The package window's events (R445). -/

/-- DEVID is written only while the fabric is off. -/
theorem happens_devId (s : State) (w : Nat) :
    (s.pkg.fabEn = 0 → Happens (.hostRegisterWrite 0 w) s fun t => t.pkg = { s.pkg with devId := w % 2 ^ 18 } ∧ MemKept s t) ∧
    (s.pkg.fabEn ≠ 0 → Happens (.hostRegisterWrite 0 w) s fun t => t.pkg = s.pkg ∧ MemKept s t) := by
  have hpkg (e : Event) : (s.onEvent e).pkg = s.pkg := rfl
  refine ⟨fun h => happens_next (exec_hostRegisterWrite s 0 w) ?_, fun h => happens_next (exec_hostRegisterWrite s 0 w) ?_⟩
  · rw [State.hostRegister_devId, Pkg.write_devId, if_pos (by rw [hpkg]; exact h)]
    exact ⟨rfl, .of_eq rfl rfl rfl rfl⟩
  · rw [State.hostRegister_devId, Pkg.write_devId, if_neg (by rw [hpkg]; exact h)]
    exact ⟨rfl, .of_eq rfl rfl rfl rfl⟩

/-- KEEP and FALLBACK are written within their bounds. -/
theorem happens_keep (s : State) (w : Nat) : Happens (.hostRegisterWrite 0x10 w) s fun t => MemKept s t ∧
    t.pkg = { s.pkg with keep := min 4096 (bits w 0 13), fallback := max 70 (min 280 (bits w 16 12)) } := by
  refine happens_next (exec_hostRegisterWrite s 0x10 w) ?_
  rw [State.hostRegister_keep, Pkg.write_keep]
  exact ⟨.of_eq rfl rfl rfl rfl, rfl⟩

/-- HEATBASE: the counters stand, and a table placed apart from C2's lines holds them (R91, R445; log entry 103). -/
theorem happens_heatBase (s : State) (w : Nat) :
    Happens (.hostRegisterWrite 0x480 w) s fun t => t.pkg = { s.pkg with heatBase := w % 2 ^ 45 } ∧
      ((s.heat.map (·.1)).Nodup → ∀ k, t.heat.get k 0 = s.heat.get k 0) ∧
      (w % 2 ^ 45 = 0 → MemKept s t) ∧
      (w % 2 ^ 45 ≠ 0 → (∀ e ∈ s.heat, e.1 < cxlTop / 65536) →
        (∀ l ∈ s.c2, 64 * l.pline + 64 ≤ w % 2 ^ 45 ∨ w % 2 ^ 45 + heatSlot 0 (cxlTop / 65536) ≤ 64 * l.pline) →
        (∀ a, a < w % 2 ^ 45 ∨ w % 2 ^ 45 + heatSlot 0 (cxlTop / 65536) ≤ a → t.physByte a = s.physByte a) ∧
        ∀ p h, s.heat = [(p, h)] → h < 2 ^ 16 → inHbm (heatSlot (w % 2 ^ 45) p) 4 = true →
          t.physRead (heatSlot (w % 2 ^ 45) p) 4 = h) := by
  refine happens_next (exec_hostRegisterWrite s 0x480 w) ?_
  rw [State.hostRegister_heatBase]
  generalize Event.hostRegisterWrite 0x480 w = e
  generalize w % 2 ^ 45 = base
  refine ⟨State.placeHeat_pkg _ _, State.placeHeat_heat (s.onEvent e) base, fun h0 => ?_, fun h0 hk ha => ⟨fun a hout => ?_,
    State.physRead_placeHeat (s.onEvent e) base h0 ha⟩⟩
  · subst h0; exact .of_eq rfl rfl rfl rfl
  · rw [State.physByte_placeHeat (s.onEvent e) base h0 ha hk a hout, State.physByte_onEvent]

/-- Settles O54: each event's meaning as an equation of its next state, and memory's bytes by the laws of coherent and stall
writes. -/
theorem hostAndFabricEvents : Obligations.HostAndFabricEvents := by
  unfold Obligations.HostAndFabricEvents
  refine ⟨fun s pa n v => ⟨fun h hp => happens_hostMemoryAccess s pa n v h hp, fun h => ⟨?_, ?_⟩,
      fun dev data hn hlo hhi => ⟨?_, ?_, ?_, ?_, ?_, ?_⟩⟩,
    fun s vf off n b => ?_,
    fun s v w => ⟨(happens_devId s w).1, (happens_devId s w).2, happens_keep s w, happens_heatBase s w,
      windowWritten_asidTab_live s v w, windowWritten_asidTab s v w, windowWritten_quota s v w, windowWritten_kvLim s v w⟩,
    fun s vf e => ⟨happens_lqpush_full s vf e, fun base logn head tail hr hf => happens_lqpush_room s vf e hr hf⟩,
    fun s vf idx core t r v n => ⟨fun base logn hr hi => happens_svcdb s vf idx hr hi, happens_trkclr s core t,
      happens_counterClear s vf n, fun hr => ?_, ?_⟩⟩
  · exact happens_answer (exec_hostMemoryAccess_refused s pa n none h)
  · exact happens_answer (exec_hostMemoryAccess_refused s pa n (some v) h)
  · exact happens_fabric_read s dev pa n data hn hlo hhi
  · exact happens_fabric_write s dev pa n data hn hlo hhi
  · exact happens_fabric_refused s dev pa n data .read
  · exact happens_fabric_refused s dev pa n data .write
  · exact happens_fabric_atomic s dev pa n data hn hlo hhi
  · exact fun k => happens_fabric_refused s dev pa n data (.atomic k)
  · obtain ⟨hread, hreadRefused⟩ := happens_hostStallRead s vf off n
    obtain ⟨hwrite, hwriteRefused⟩ := happens_hostStallWrite s vf off b
    exact ⟨hread, hreadRefused, hwrite, hwriteRefused, happens_stlsync s vf⟩
  · exact happens_errcntClear s r v hr
  · exact happens_spdmRequest s n

end Sys2Proof.Machine
end

section
/-! SUPPORT. A line that holds the heat counter of its own page (R90, R91), against O29. -/
namespace Sys2Proof.Machine

/-- The one element of the load: 8 bytes at 0x1000. -/
def counterElem : Elem := ⟨0, 0x1000, 8, 0, 2 ^ 64 - 1⟩

/-- A load of core 0 on its way to its home. -/
def counterLoad : Req :=
  { core := 0, ctx := 0, asid := 0, op := .load, els := [counterElem], all := [counterElem], got := [], dst := .none, jidx := none,
    acq := false, rel := false, done := false, mesh := false, fault := none, len := 12 }

/-- The line that it reads, of physical line 0x40 in page 0, at the slice that core 0 asks first; its bytes are 0. -/
def counterLine : C2Line :=
  { slice := State.reset.firstHome 0 0 0x1000, asid := 0, vline := 0x40, pline := 0x40, rd := true, wr := true, ex := false, cls := 0,
    home := 0, dirty := false, psn := 0, pins := 0, vf := 0, core := 0, ctx := 0, owns := [], data := 0 }

/-- The machine after reset with that load, that line, and the heat table placed at 0x1000: the entry of page 0 is the first word of
the line. -/
def counterState : State :=
  { State.reset with reqs := [(5, counterLoad)], c2 := [counterLine], pkg := { Pkg.reset with heatBase := 0x1000 } }

theorem exec_c2Request (s : State) (id : Nat) :
    exec .c2Request (s.onEvent (.c2Request id)) = .next ((s.onEvent (.c2Request id)).c2Request id) := rfl

/-- The load meets what O29 asks of a request that finds its line at the home. -/
theorem counterLoad_finds_line :
    counterState.reqs.find? (·.1 == 5) = some (5, counterLoad) ∧ counterState.behind 5 counterLoad = false ∧
      counterState.c2Line (counterState.firstHome 0 0 0x1000) 0 (0x1000 / 64) = some counterLine := by
  refine ⟨?_, ?_, ?_⟩ <;> decide +kernel

/-- It is answered with the counter that its own access has raised to 1 (R90), where the line held 0. -/
theorem counterLoad_got_counter :
    ((counterState.onEvent (.c2Request 5)).c2Request 5).reqs.map (·.2.got) = [[(0, 1)]] := by decide +kernel

theorem counterLine_bytes (lo n : Nat) : bits counterLine.data.toNat lo n = 0 := by
  rw [show counterLine.data.toNat = 0 from BitVec.toNat_zero]
  simp [bits]

/-- Refutes O29: where the line that a load reads holds the heat counter of the line's own page, the access raises the counter
before the line is read, and the answer is not the bytes that the line held. -/
theorem not_homeRequestsAndFills : ¬ Obligations.HomeRequestsAndFills := by
  unfold Obligations.HomeRequestsAndFills
  intro ⟨hreq, _⟩
  obtain ⟨hfind, hbehind, hline⟩ := counterLoad_finds_line
  obtain ⟨hload, _⟩ := hreq counterState 5 counterLoad counterElem hfind rfl rfl rfl rfl rfl rfl rfl (by decide)
  obtain ⟨t, ht, ⟨q, hq, _, _, hgot⟩, _⟩ := hload counterLine rfl (by decide) (by decide) rfl rfl hbehind hline rfl rfl
  have hnext := Host.Outcome.next.inj ((exec_c2Request counterState 5).symm.trans ht)
  have hmem : q.got ∈ t.reqs.map (·.2.got) := List.mem_map.mpr ⟨(5, q), List.mem_of_find?_eq_some hq, rfl⟩
  rw [← hnext, counterLoad_got_counter, hgot, counterLine_bytes] at hmem
  simp at hmem

end Sys2Proof.Machine
end

section
/-! SUPPORT. The registers of a context after reset (R223, R401, R418): O58. -/
namespace Sys2Proof.Machine

theorem State.reset_ctx (n c : Nat) : State.reset.ctx n c = Ctx.reset c := rfl

theorem State.reset_core (n : Nat) : State.reset.core n = Core.reset := rfl

/-- A system register of a context reads its reset value. -/
theorem Ctx.reset_srGet (c n : Nat) : (Ctx.reset c).srGet n = srReset n := rfl

/-- STAT resets to zero (R401). -/
theorem Ctx.reset_statBit (c i : Nat) : (Ctx.reset c).statBit i = false := by
  show bit 0 i = false
  simp [bit]

theorem Ctx.reset_tlvl (c : Nat) : (Ctx.reset c).tlvl = 0 := by
  show bits 0 18 2 = 0
  simp [bits]

/-- A format entry of a context reads its preset value. -/
theorem Ctx.reset_fent (c f : Nat) : (Ctx.reset c).fent f = presetEntry f := rfl

/-- Of p0 to p15, p0 alone is true (R401). -/
theorem Ctx.reset_pred (c p : Nat) (hp : p < 16) : (Ctx.reset c).pred p = decide (p = 0) := by
  have h : ∀ q < 16, (q == 0 || bit (srReset rPREDS).toNat q) = decide (q = 0) := by decide
  exact h p hp

/-- f11 to f31 reset invalid (R223). -/
theorem presetEntry_of_ge {f : Nat} (h : 11 ≤ f) : presetEntry f = 0 := by
  obtain ⟨k, rfl⟩ := Nat.exists_eq_add_of_le' h
  rfl

/-- Settles O58: memory, cores and windows list nothing after reset, so that each reads its reset value. -/
theorem resetValues : Obligations.ResetValues := by
  unfold Obligations.ResetValues
  refine ⟨rfl, rfl, rfl, fun core c _ => ?_, fun _ _ => ⟨rfl, rfl, rfl⟩, fun _ _ => rfl, fun _ => rfl, fun _ => rfl, rfl, rfl, rfl,
    rfl, rfl, rfl, rfl, rfl, rfl, rfl, rfl, rfl, fun _ => ⟨rfl, rfl, rfl, rfl, rfl, rfl, rfl⟩⟩
  rw [State.reset_ctx]
  refine ⟨?_, rfl, Ctx.reset_tlvl c, Ctx.reset_statBit c _, fun r => ?_, Ctx.reset_pred c, fun _ => rfl, rfl, rfl, rfl, fun n hn => ?_, ?_,
    fun f => presetEntry_of_ge⟩
  · simp [Ctx.reset]
  · simp [Ctx.sreg, Ctx.reset]
  · rcases hn with rfl | rfl <;> exact ⟨rfl, rfl, rfl⟩
  · simp only [Ctx.reset_fent]
    decide

end Sys2Proof.Machine
end

section
/-! SUPPORT. Fences, the invalidation of C1's words, prefetches and the reading of the journal (R322 to R325): O28. -/
namespace Sys2Proof.Machine

/-! The words of a C1 line that an acquire or C1INV leaves valid (R147, R324). -/

/-- Bits written one after another, each from a predicate. -/
theorem bit_foldl_setBits (p : Nat → Bool) (n v w : Nat) :
    bit ((List.range n).foldl (fun v w => setBits v w 1 (p w).toNat) v) w = if w < n then p w else bit v w := by
  induction n with
  | zero => rfl
  | succ n ih =>
    rw [List.range_succ, List.foldl_append, List.foldl_cons, List.foldl_nil]
    by_cases hw : w = n
    · subst hw; rw [bit_setBits_self, if_pos (by omega)]
    · rw [bit_setBits_ne _ _ _ _ _ (by omega), ih]
      by_cases h : w < n
      · rw [if_pos h, if_pos (by omega)]
      · rw [if_neg h, if_neg (by omega)]

/-- A line that C1INV names keeps as valid only words that it owns (R324). -/
theorem Core.c1InvLine_owned (k : Core) (asid vline : Nat) (l : C1Line) (hl : l ∈ (k.c1InvLine asid vline).c1) (ha : l.asid = asid)
    (hv : l.vline = vline) (w : Nat) (hw : w < 16) (h : bit l.valid w = true) : bit l.owned w = true := by
  obtain ⟨c, _, rfl⟩ := List.mem_map.mp hl
  by_cases hc : (c.asid == asid && c.vline == vline) = true
  · simp only [hc, if_true] at h ⊢
    rw [bit_foldl_setBits, if_pos hw] at h
    exact (Bool.and_eq_true_iff.mp h).2
  · rw [if_neg hc] at ha hv
    simp [ha, hv] at hc

/-- Replacing cores but for one keeps that one. -/
theorem Assoc.get_map_of_fixed (m : Assoc Core) (g : Nat × Core → Nat × Core) (n : Nat) (hk : ∀ e, (g e).1 = e.1)
    (hn : ∀ k, g (n, k) = (n, k)) : Assoc.get (m.map g) n Core.reset = Assoc.get m n Core.reset := by
  induction m with
  | nil => rfl
  | cons e m ih =>
    obtain ⟨j, k⟩ := e
    by_cases hj : j = n
    · subst hj; simp [hn, Assoc.get_cons]
    · rw [List.map_cons, show g (j, k) = ((g (j, k)).1, (g (j, k)).2) from rfl, Assoc.get_cons, Assoc.get_cons, hk, if_neg hj,
        if_neg hj, ih]

/-- The acquiring core itself keeps its lines as lines of remote devices are dropped (R161). -/
theorem State.dropRemote_core (s : State) (core asid : Nat) : (s.dropRemote core asid).core core = s.core core := by
  unfold State.dropRemote
  dsimp only
  split
  · rfl
  · exact Assoc.get_map_of_fixed _ _ _ (fun e => by split <;> rfl) (fun k => by simp)

theorem State.acquire_c1 (s : State) : (s.acquire.core s.cur.core).c1 = s.myCore.c1Acquire.c1 := by
  unfold State.acquire State.acquireFor
  rw [State.dropRemote_core, State.core_modCore, if_pos rfl]
  rfl

theorem RegsKept.of_me {s t : State} (w : May) (h : t.me = s.me) : RegsKept w s t := by
  have hs := RegsKept.refl w s
  constructor <;> rw [h]
  exacts [hs.scalars, hs.vectors, hs.masks, hs.accs, hs.fmts, hs.slots, hs.srs, hs.stat, hs.signal]

/-- An instruction outside the vector majors whose body leaves the acting context as it is. -/
theorem gives_done_of_me {i : Instr} {f : Form} {cost : Nat} {s t : State} {body : State → Res} (h : Runs f cost s)
    (he : exec i s = issueCost f cost body s) (hb : body s = .done t) (hc : t.cur = s.cur) (hme : t.me = s.me) :
    Gives i s fun u => StateAs s.cur.core s.cur.ctx u t ∧ RegsKept {} s u ∧ Completed (s.plainWarn f) (s.fall f) s u :=
  (gives_done_of_regs h he hb hc (.of_me {} hme) (by rw [hme]) (by rw [hme]) fun _ _ _ => by rw [hme]).imp
    fun _ ⟨has, _, hk, hd⟩ => ⟨has, hk, hd⟩

/-- An instruction that acquires alone: FENCE once its context's accesses are acknowledged, and C1INV without A (R147). -/
theorem gives_acquire {i : Instr} {f : Form} {s : State} {body : State → Res} (h : Runs f 4 s)
    (he : exec i s = issueCost f 4 body s) (hb : body s = .done s.acquire) :
    Gives i s fun t => (t.core s.cur.core).c1 = s.myCore.c1Acquire.c1 ∧ RegsKept {} s t ∧ MemKept s t ∧
      Completed (s.plainWarn f) (s.fall f) s t :=
  (gives_done_of_me h he hb s.acquire_cur s.acquire_me).imp fun _ ⟨has, hk, hd⟩ =>
    ⟨(has.caches _).1.trans s.acquire_c1, hk, s.acquire_memKept.trans has.memKept, hd⟩

/-! LBSYNC (R41). -/

def lbsyncBody (s : State) : Res := if s.loopBackOut s.cur.core s.cur.ctx then .hold s .loopBack 0 else .done s

theorem exec_lbsync (f : Form) (s : State) : exec (.lbsync f) s = issueCost f 4 lbsyncBody s := rfl

theorem branches_lbsync {f : Form} {s : State} (h : Runs f 4 s) (hl : s.loopBackOut s.cur.core s.cur.ctx = false) :
    Branches (.lbsync f) f s {} (s.fall f) :=
  (gives_done h (exec_lbsync f s) (by rw [lbsyncBody, hl]; rfl) (Kept.refl {} s) rfl rfl fun _ _ _ => rfl).imp
    fun _ ⟨_, hk, hd⟩ => ⟨trivial, hk, hd⟩

theorem held_lbsync {f : Form} {s : State} (h : Runs f 4 s) (hl : s.loopBackOut s.cur.core s.cur.ctx = true) :
    Gives (.lbsync f) s fun t => Held .ready s t :=
  gives_held (wt := .loopBack) h (exec_lbsync f s) (by rw [lbsyncBody, hl]; rfl) rfl

/-! C1INV (R324). -/

def c1invBody (f : Form) (s : State) : Res :=
  if f.a.isNone then .done s.acquire
  else .done (s.modCore s.cur.core (·.c1InvLine s.me.asid ((s.me.opAddr f.a).toNat % 2 ^ 56 / 64)))

theorem exec_c1inv (f : Form) (s : State) : exec (.c1inv f) s = issueCost f 4 (c1invBody f) s := rfl

theorem Operand.isNone_iff (o : Operand) : o.isNone = true ↔ o = .none := by cases o <;> simp [Operand.isNone]

theorem gives_c1inv_line {f : Form} {s : State} (h : Runs f 4 s) (ha : f.a ≠ .none) :
    Gives (.c1inv f) s fun t => (∀ l ∈ (t.core s.cur.core).c1, l.asid = s.me.asid →
        l.vline = (s.me.opAddr f.a).toNat % 2 ^ 56 / 64 → ∀ w, w < 16 → bit l.valid w = true → bit l.owned w = true) ∧
      RegsKept {} s t ∧ MemKept s t ∧ Completed (s.plainWarn f) (s.fall f) s t := by
  have hb : c1invBody f s = .done (s.modCore s.cur.core (·.c1InvLine s.me.asid ((s.me.opAddr f.a).toNat % 2 ^ 56 / 64))) := by
    rw [c1invBody, if_neg (by rwa [Operand.isNone_iff])]
  have hme : (s.modCore s.cur.core (·.c1InvLine s.me.asid ((s.me.opAddr f.a).toNat % 2 ^ 56 / 64))).me = s.me := by
    rw [State.me_eq (State.modCore_cur ..), State.ctx_modCore, if_pos rfl]; rfl
  have hmem : MemKept s (s.modCore s.cur.core (·.c1InvLine s.me.asid ((s.me.opAddr f.a).toNat % 2 ^ 56 / 64))) :=
    .of_eq rfl rfl rfl rfl
  refine (gives_done_of_me h (exec_c1inv f s) hb rfl hme).imp fun t ⟨has, hk, hd⟩ => ⟨?_, hk, hmem.trans has.memKept, hd⟩
  rw [(has.caches _).1, State.core_modCore, if_pos rfl]
  exact Core.c1InvLine_owned _ _ _

/-! JRD (R325). -/

/-- The journal entry of a number that the acting context may see: a helper sees its own alone. -/
def State.seenEntry (s : State) (i : Nat) : Option (Nat × JEntry) :=
  (s.myCore.journal.find? (·.1 == i)).filter fun e => s.cur.ctx == 0 || e.2.ctx == s.cur.ctx

/-- A word of an entry, 0 of a free one. -/
def jrdWord (e : Option (Nat × JEntry)) (w : Nat) : Word :=
  match e, w with
  | none, _ => 0
  | some (_, e), 0 => e.va
  | some (_, e), 1 => e.data
  | some (_, e), _ => BitVec.ofNat 64 (jStatus e)

def jrdBody (f : Form) (s : State) : Res :=
  if 2 < f.b.immU then illegal s f 2
  else .done (s.putS f.d.sreg (jrdWord (s.seenEntry (fieldOf (s.me.opS f.a) 0 6)) f.b.immU))

theorem exec_jrd (f : Form) (s : State) : exec (.jrd f) s = issueCost f 4 (jrdBody f) s := rfl

theorem writes_jrd {f : Form} {s : State} (h : Runs f 4 s) (hw : f.b.immU ≤ 2) {e : Option (Nat × JEntry)}
    (he : s.seenEntry (fieldOf (s.me.opS f.a) 0 6) = e) : Writes (.jrd f) f s (jrdWord e f.b.immU) :=
  writes_of_putS h (exec_jrd f s) (by rw [jrdBody, if_neg (by omega), he])

theorem State.seenEntry_of_seen {s : State} {i : Nat} {e : JEntry} (h : s.myCore.journal.find? (·.1 == i) = some (i, e))
    (hs : s.cur.ctx = 0 ∨ e.ctx = s.cur.ctx) : s.seenEntry i = some (i, e) := by
  simp [State.seenEntry, h, hs]

theorem State.seenEntry_of_free {s : State} {i : Nat} (h : s.myCore.journal.find? (·.1 == i) = none) : s.seenEntry i = none := by
  simp [State.seenEntry, h]

theorem State.seenEntry_of_unseen {s : State} {i : Nat} {e : JEntry} (h : s.myCore.journal.find? (·.1 == i) = some (i, e))
    (hs : ¬(s.cur.ctx = 0 ∨ e.ctx = s.cur.ctx)) : s.seenEntry i = none := by
  simpa [State.seenEntry, h] using hs

theorem traps_jrd {f : Form} {s : State} (h : Runs f 4 s) (hw : 3 ≤ f.b.immU) :
    Traps (.jrd f) s cILLEGAL (s.me.pc + BitVec.ofNat 64 (4 * (f.npfx + 2))).toNat :=
  traps_fault h (exec_jrd f s) (by rw [jrdBody, if_pos (by omega)]; rfl)

/-! PREF (R323). -/

/-- A state in which only requests, events due and the next object's number have changed. -/
def Requested (t s : State) : Prop := ∃ r d n, t = { s with reqs := r, due := d, nextId := n }

theorem State.submit_requested (s : State) (r : Req) : Requested (s.submit r).2 s := by
  unfold State.submit
  dsimp only [State.fresh]
  split
  · unfold State.answer
    dsimp only
    split <;> exact ⟨_, _, _, rfl⟩
  · split <;> exact ⟨_, _, _, rfl⟩

/-- An instruction outside the vector majors whose body makes a request alone. -/
theorem gives_of_requested {i : Instr} {f : Form} {cost : Nat} {s t : State} {body : State → Res} (h : Runs f cost s)
    (he : exec i s = issueCost f cost body s) (hb : body s = .done t) (ht : Requested t s) :
    Gives i s fun u => RegsKept {} s u ∧ MemKept s u ∧ Completed (s.plainWarn f) (s.fall f) s u := by
  obtain ⟨r, d, n, rfl⟩ := ht
  have hmem : MemKept s { s with reqs := r, due := d, nextId := n } := .of_eq rfl rfl rfl rfl
  exact (gives_done_of_me h he hb rfl rfl).imp fun u ⟨has, hk, hd⟩ => ⟨hk, hmem.trans has.memKept, hd⟩

/-- The request of a PREF for the line of a virtual address. -/
def prefReq (f : Form) (s : State) (va : Nat) : Req :=
  { core := s.cur.core, ctx := s.cur.ctx, asid := s.me.asid, op := .pref (f.b.immU == 0), els := [⟨0, va / 64 * 64, 64, 0, 0⟩],
    all := [⟨0, va / 64 * 64, 64, 0, 0⟩], got := [], dst := .none, jidx := none, acq := false, rel := false, done := false,
    mesh := false, fault := none, len := 0 }

def prefBody (f : Form) (s : State) : Res :=
  if 1 < f.b.immU then illegal s f 2
  else match s.checkVa s.me.vf (s.me.opAddr f.a) 1 with
    | .ok (.virt va) => .done (s.submit (prefReq f s va)).2
    | _ => .done s

theorem exec_pref (f : Form) (s : State) : exec (.pref f) s = issueCost f (memCost f.a) (prefBody f) s := rfl

/-- PREF makes a request, or nothing where its address would fault. -/
theorem prefBody_requested {f : Form} {s : State} (hw : f.b.immU ≤ 1) : ∃ t, prefBody f s = .done t ∧ Requested t s := by
  rw [prefBody, if_neg (by omega)]
  split
  · exact ⟨_, rfl, s.submit_requested _⟩
  · exact ⟨s, rfl, _, _, _, rfl⟩

/-- Settles O28: each instruction's body is one operation whose effect on C1, the journal and the requests has its own lemma. -/
theorem fencesAndJournalReads : Obligations.FencesAndJournalReads := by
  unfold Obligations.FencesAndJournalReads
  refine fun f s => ⟨fun hr => ⟨fun hrel => ?_, branches_lbsync hr, held_lbsync hr, ?_, ?_⟩, fun hr hw => ?_⟩
  · exact gives_acquire (body := asRelease fun s => .done s.acquire) hr rfl (by rw [asRelease, hrel])
  · by_cases ha : f.a = .none
    · exact (gives_acquire hr (exec_c1inv f s) (by rw [c1invBody, if_pos (by rw [ha]; rfl)])).imp fun t ⟨hc, hk⟩ =>
        ⟨fun _ => hc, fun hn => absurd ha hn, hk⟩
    · exact (gives_c1inv_line hr ha).imp fun t ⟨hc, hk⟩ => ⟨fun h => absurd h ha, fun _ => hc, hk⟩
  · refine ⟨fun e he hs => ?_, fun hw hn => ?_, traps_jrd hr⟩
    · have hseen := State.seenEntry_of_seen he hs
      refine ⟨fun hb => ?_, fun hb => ?_, fun hb => ?_⟩ <;>
        simpa only [hb, jrdWord] using writes_jrd hr (by omega) hseen
    · have hnone : s.seenEntry (fieldOf (s.me.opS f.a) 0 6) = none := by
        rcases hn with hn | ⟨e, he, hs⟩
        · exact State.seenEntry_of_free hn
        · exact State.seenEntry_of_unseen he hs
      exact writes_jrd hr hw hnone
  · obtain ⟨t, hb, ht⟩ := prefBody_requested (s := s) hw
    exact gives_of_requested hr (exec_pref f s) hb ht

end Sys2Proof.Machine
end

section
/-! SUPPORT. Tracks: what reads what after one update, and what charging, settling, moving and queueing change (R47 to R51). -/
namespace Sys2Proof.Machine

/-! One track updated. -/

theorem State.track_modTrack (s : State) (n t u : Nat) (g : Track → Track) :
    (s.modTrack n t g).track n u = if u = t then g (s.track n t) else s.track n u := by
  unfold State.track State.modTrack
  rw [State.core_modCore, if_pos rfl]
  exact Assoc.get_put ..

@[simp] theorem State.track_modTrack_self (s : State) (n t : Nat) (g : Track → Track) :
    (s.modTrack n t g).track n t = g (s.track n t) := by rw [State.track_modTrack, if_pos rfl]

@[simp] theorem State.track_modTrack_ne (s : State) (n : Nat) {t u : Nat} (g : Track → Track) (h : u ≠ t) :
    (s.modTrack n t g).track n u = s.track n u := by rw [State.track_modTrack, if_neg h]

@[simp] theorem State.ctx_modTrack (s : State) (n t m d : Nat) (g : Track → Track) : (s.modTrack n t g).ctx m d = s.ctx m d := by
  unfold State.modTrack
  rw [State.ctx_modCore]
  split
  · subst_vars; rfl
  · rfl

theorem State.core_modTrack (s : State) (n t m : Nat) (g : Track → Track) :
    ∃ ts, (s.modTrack n t g).core m = { s.core m with tracks := ts } := by
  unfold State.modTrack
  rw [State.core_modCore]
  split
  · subst_vars; exact ⟨_, rfl⟩
  · exact ⟨_, rfl⟩

/-- A context replaced changes the contexts of its core alone. -/
theorem State.core_setCtx_eq (s : State) (n c m : Nat) (x : Ctx) : ∃ cs, (s.setCtx n c x).core m = { s.core m with ctxs := cs } := by
  rw [State.core_setCtx]
  split
  · subst_vars; exact ⟨_, rfl⟩
  · exact ⟨_, rfl⟩

@[simp] theorem State.track_setCtx (s : State) (n c m u : Nat) (x : Ctx) : (s.setCtx n c x).track m u = s.track m u := by
  obtain ⟨_, h⟩ := s.core_setCtx_eq n c m x
  unfold State.track
  rw [h]
  rfl

@[simp] theorem State.track_modCtx (s : State) (n c m u : Nat) (g : Ctx → Ctx) : (s.modCtx n c g).track m u = s.track m u :=
  s.track_setCtx n c m u _

theorem StateAs.track {n c : Nat} {s t : State} (h : StateAs n c t s) (m u : Nat) : t.track m u = s.track m u := by
  unfold State.track Core.track
  rw [(h.tracks m).1]

/-! Contexts that differ in what has been charged to them. -/

/-- A context as another but for SHCHG, the tokens drawn and the counters (R51, R435). -/
structure CtxCharged (y x : Ctx) : Prop where
  eq : ∃ r d p, y = { x with sr := r, drawn := d, pmc := p }
  sr : ∀ n, n ≠ rSHCHG → y.srGet n = x.srGet n

theorem CtxCharged.refl (x : Ctx) : CtxCharged x x := ⟨⟨_, _, _, rfl⟩, fun _ _ => rfl⟩

theorem CtxCharged.trans {x y z : Ctx} (h : CtxCharged z y) (g : CtxCharged y x) : CtxCharged z x := by
  obtain ⟨⟨_, _, _, rfl⟩, hs⟩ := h
  obtain ⟨⟨_, _, _, rfl⟩, gs⟩ := g
  exact ⟨⟨_, _, _, rfl⟩, fun n hn => (hs n hn).trans (gs n hn)⟩

namespace CtxCharged
variable {x y : Ctx} (h : CtxCharged y x)
include h

theorem pc : y.pc = x.pc := by obtain ⟨⟨_, _, _, rfl⟩, _⟩ := h; rfl
theorem block : y.block = x.block := by obtain ⟨⟨_, _, _, rfl⟩, _⟩ := h; rfl
theorem warnHeld : y.warnHeld = x.warnHeld := by obtain ⟨⟨_, _, _, rfl⟩, _⟩ := h; rfl
theorem sreg (r : Nat) : y.sreg r = x.sreg r := by obtain ⟨⟨_, _, _, rfl⟩, _⟩ := h; rfl
theorem vreg (r : Nat) : y.vreg r = x.vreg r := by obtain ⟨⟨_, _, _, rfl⟩, _⟩ := h; rfl
theorem statBit (i : Nat) : y.statBit i = x.statBit i := Ctx.statBit_of_sr (h.sr _ (by decide)) i
theorem tlvl : y.tlvl = x.tlvl := by unfold Ctx.tlvl; rw [h.sr _ (by decide)]
theorem loopEnd (npc : Word) : (y.loopEnd npc 5).pc = (x.loopEnd npc 5).pc :=
  (Ctx.loopEnd_congr y x npc 5 fun n _ h2 => h.sr n (by unfold rSHCHG; omega)).1
theorem opS (o : Operand) : y.opS o = x.opS o := by obtain ⟨⟨_, _, _, rfl⟩, _⟩ := h; cases o <;> rfl
theorem opU (o : Operand) : y.opU o = x.opU o := by obtain ⟨⟨_, _, _, rfl⟩, _⟩ := h; cases o <;> rfl

end CtxCharged

/-! The frame of the work on tracks. -/

/-- A state as another but for its tracks, the events due, the purses, the counts of errors, and its contexts, of which `R` holds. -/
structure TrackFrame (R : Ctx → Ctx → Prop) (t s : State) : Prop where
  eq : ∃ cs du od pk, t = { s with cores := cs, due := du, overdraw := od, pkg := pk }
  ctx : ∀ m d, R (t.ctx m d) (s.ctx m d)
  words : ∀ m, (t.core m).words = (s.core m).words ∧ (t.core m).badWords = (s.core m).badWords
  ports : ∀ m, (t.core m).portAt = (s.core m).portAt

namespace TrackFrame
variable {R : Ctx → Ctx → Prop} {s t u : State}

theorem trans (hR : ∀ {x y z}, R z y → R y x → R z x) (h : TrackFrame R u t) (g : TrackFrame R t s) : TrackFrame R u s := by
  obtain ⟨⟨_, _, _, _, hu⟩, hctx, hw, hp⟩ := h
  obtain ⟨⟨_, _, _, _, ht⟩, gctx, gw, gp⟩ := g
  refine ⟨⟨_, _, _, _, by rw [hu, ht]⟩, fun m d => hR (hctx m d) (gctx m d), fun m => ?_, fun m => (hp m).trans (gp m)⟩
  exact ⟨(hw m).1.trans (gw m).1, (hw m).2.trans (gw m).2⟩

theorem transEq (h : TrackFrame (· = ·) u t) (g : TrackFrame (· = ·) t s) : TrackFrame (· = ·) u s :=
  h.trans (fun a b => a.trans b) g

theorem transCharged (h : TrackFrame CtxCharged u t) (g : TrackFrame CtxCharged t s) : TrackFrame CtxCharged u s :=
  h.trans CtxCharged.trans g

theorem refl (hR : ∀ x, R x x) (s : State) : TrackFrame R s s :=
  ⟨⟨_, _, _, _, rfl⟩, fun _ _ => hR _, fun _ => ⟨rfl, rfl⟩, fun _ => rfl⟩

/-- Contexts that are the same have had nothing charged. -/
theorem charged (h : TrackFrame (· = ·) t s) : TrackFrame CtxCharged t s :=
  ⟨h.eq, fun m d => (h.ctx m d).symm ▸ CtxCharged.refl _, h.words, h.ports⟩

variable (h : TrackFrame R t s)
include h

theorem cur : t.cur = s.cur := by obtain ⟨⟨_, _, _, _, rfl⟩, _⟩ := h; rfl
theorem clk : t.clk = s.clk := by obtain ⟨⟨_, _, _, _, rfl⟩, _⟩ := h; rfl
theorem nextId : t.nextId = s.nextId := by obtain ⟨⟨_, _, _, _, rfl⟩, _⟩ := h; rfl
theorem memKept : MemKept s t := by obtain ⟨⟨_, _, _, _, rfl⟩, _⟩ := h; exact .of_eq rfl rfl rfl rfl
theorem me : R t.me s.me := by rw [State.me_eq h.cur]; exact h.ctx _ _

end TrackFrame

/-- One track updated leaves the frame. -/
theorem State.modTrack_frame (s : State) (n t : Nat) (g : Track → Track) : TrackFrame (· = ·) (s.modTrack n t g) s := by
  refine ⟨⟨_, _, _, _, rfl⟩, fun m d => by simp, fun m => ?_, fun m => ?_⟩ <;> obtain ⟨_, h⟩ := s.core_modTrack n t m g <;> rw [h]
  exact ⟨rfl, rfl⟩

theorem State.later_frame (s : State) (d : Nat) (e : Event) : TrackFrame (· = ·) (s.later d e) s :=
  ⟨⟨_, _, _, _, rfl⟩, fun _ _ => rfl, fun _ => ⟨rfl, rfl⟩, fun _ => rfl⟩

theorem State.cancel_frame (s : State) (e : Event) : TrackFrame (· = ·) (s.cancel e) s :=
  ⟨⟨_, _, _, _, rfl⟩, fun _ _ => rfl, fun _ => ⟨rfl, rfl⟩, fun _ => rfl⟩

theorem mem_dueInsert (t : Nat) (e : Event) (l : List (Nat × Event)) : (t, e) ∈ dueInsert t e l := by
  induction l with
  | nil => simp [dueInsert]
  | cons a l ih =>
    obtain ⟨j, i⟩ := a
    unfold dueInsert
    split
    · simp
    · simp [ih]

theorem State.mem_due_later (s : State) (d : Nat) (e : Event) : (s.clk + d, e) ∈ (s.later d e).due := mem_dueInsert ..

@[simp] theorem State.track_later (s : State) (d m u : Nat) (e : Event) : (s.later d e).track m u = s.track m u := rfl
@[simp] theorem State.track_cancel (s : State) (m u : Nat) (e : Event) : (s.cancel e).track m u = s.track m u := rfl

theorem State.kickTrack_frame (s : State) (n t : Nat) : TrackFrame (· = ·) (s.kickTrack n t) s := by
  unfold State.kickTrack
  dsimp only
  split
  · exact s.later_frame _ _
  · exact .refl (fun _ => rfl) s

@[simp] theorem State.track_kickTrack (s : State) (n t m u : Nat) : (s.kickTrack n t).track m u = s.track m u := by
  unfold State.kickTrack
  dsimp only
  split <;> rfl

/-! Charges (R51, R435). -/

theorem State.payCore_eq (s : State) (n c cost : Nat) : ∃ cs od, s.payCore n c cost = { s with cores := cs, overdraw := od } := by
  unfold State.payCore
  dsimp only
  split
  · exact ⟨_, _, rfl⟩
  · split <;> exact ⟨_, _, rfl⟩

/-- Drawing tokens changes the contexts, the purse and the hold of the core. -/
theorem State.payCore_core (s : State) (n c cost m : Nat) :
    ∃ cs p h, (s.payCore n c cost).core m = { s.core m with ctxs := cs, purse := p, hold := h } := by
  have hcs : ∃ cs, (s.modCtx n c fun x => ({ x with drawn := x.drawn + cost } : Ctx).count 9
      ((x.drawn + cost) / 1024 - x.drawn / 1024)).core m = { s.core m with ctxs := cs } := s.core_setCtx_eq n c m _
  unfold State.payCore
  dsimp only
  revert hcs
  generalize (s.modCtx n c fun x => ({ x with drawn := x.drawn + cost } : Ctx).count 9
      ((x.drawn + cost) / 1024 - x.drawn / 1024)) = u
  rintro ⟨cs, hcs⟩
  have hset (k : Core) (hk : ∃ p h, k = { u.core n with purse := p, hold := h }) :
      ∃ cs p h, (u.setCore n k).core m = { s.core m with ctxs := cs, purse := p, hold := h } := by
    rw [State.core_setCore]
    split
    · obtain ⟨p, h, rfl⟩ := hk
      rename_i hm
      subst hm
      rw [hcs]
      exact ⟨_, _, _, rfl⟩
    · exact ⟨cs, _, _, hcs⟩
  split
  · exact hset _ ⟨_, _, rfl⟩
  · split <;> exact hset _ ⟨_, _, rfl⟩

theorem State.payCore_frame (s : State) (n c cost : Nat) : TrackFrame CtxCharged (s.payCore n c cost) s := by
  obtain ⟨cs, od, heq⟩ := s.payCore_eq n c cost
  refine ⟨⟨cs, _, od, _, heq⟩, fun m d => ?_, fun m => ?_, fun m => ?_⟩
  · by_cases h : m = n ∧ d = c
    · obtain ⟨rfl, rfl⟩ := h
      obtain ⟨_, _, hx⟩ := s.payCore_ctx m d cost
      rw [hx]
      exact ⟨⟨_, _, _, rfl⟩, fun _ _ => rfl⟩
    · rw [(s.payCore_as n c cost).others m d h]; exact CtxCharged.refl _
  all_goals
    obtain ⟨_, _, _, h⟩ := s.payCore_core n c cost m
    rw [h]
  exact ⟨rfl, rfl⟩

theorem State.setCtx_frame {s : State} {n c : Nat} {x : Ctx} (h : CtxCharged x (s.ctx n c)) :
    TrackFrame CtxCharged (s.setCtx n c x) s := by
  refine ⟨⟨_, _, _, _, rfl⟩, fun m d => ?_, fun m => ?_, fun m => ?_⟩
  · rw [State.ctx_setCtx]
    split
    · rename_i e; obtain ⟨rfl, rfl⟩ := e; exact h
    · exact CtxCharged.refl _
  all_goals
    obtain ⟨_, h⟩ := s.core_setCtx_eq n c m x
    rw [h]
  exact ⟨rfl, rfl⟩

/-- SHCHG written. -/
theorem CtxCharged.srSet (x : Ctx) (w : Word) : CtxCharged (x.srSet rSHCHG w) x :=
  ⟨⟨_, _, _, rfl⟩, fun n hn => by rw [Ctx.srGet_srSet, if_neg hn]⟩

theorem State.chargeShift_frame (s : State) (n c k : Nat) : TrackFrame CtxCharged (s.chargeShift n c k) s := by
  unfold State.chargeShift
  dsimp only
  have h := State.setCtx_frame (CtxCharged.srSet (s.ctx n c) (BitVec.ofNat 64 (((s.ctx n c).srGet rSHCHG).toNat + k)))
  split
  · exact h
  · exact (State.payCore_frame _ _ _ _).transCharged h

@[simp] theorem State.track_payCore (s : State) (n c cost m u : Nat) : (s.payCore n c cost).track m u = s.track m u :=
  (s.payCore_as n c cost).track m u

@[simp] theorem State.track_chargeShift (s : State) (n c k m u : Nat) : (s.chargeShift n c k).track m u = s.track m u := by
  unfold State.chargeShift
  dsimp only
  split <;> simp

/-- Positions charged are added to SHCHG (R51). -/
theorem State.chargeShift_shchg (s : State) (n c k : Nat) :
    ((s.chargeShift n c k).ctx n c).srGet rSHCHG = (s.ctx n c).srGet rSHCHG + BitVec.ofNat 64 k := by
  have hsum : BitVec.ofNat 64 (((s.ctx n c).srGet rSHCHG).toNat + k) = (s.ctx n c).srGet rSHCHG + BitVec.ofNat 64 k := by
    rw [BitVec.ofNat_add, BitVec.ofNat_toNat, BitVec.setWidth_eq]
  unfold State.chargeShift
  dsimp only
  split
  · rw [State.ctx_setCtx_self, Ctx.srGet_srSet_self, hsum]
  · obtain ⟨_, _, hx⟩ := (s.setCtx n c ((s.ctx n c).srSet rSHCHG (BitVec.ofNat 64 (((s.ctx n c).srGet rSHCHG).toNat + k)))).payCore_ctx
      n c (32 * ((((s.ctx n c).srGet rSHCHG).toNat + k) / 8 - ((s.ctx n c).srGet rSHCHG).toNat / 8))
    rw [hx, State.ctx_setCtx_self]
    exact (Ctx.srGet_srSet_self ..).trans hsum

/-! Settling (R47, R51). -/

/-- A track as another but for its place, its motion and its probing. -/
def TrackSettled (y x : Track) : Prop :=
  ∃ mo ph un pr, y = { x with motion := mo, phys := ph, unseat := un, probe := pr }

theorem TrackSettled.refl (x : Track) : TrackSettled x x := ⟨_, _, _, _, rfl⟩

theorem TrackSettled.trans {x y z : Track} (h : TrackSettled z y) (g : TrackSettled y x) : TrackSettled z x := by
  obtain ⟨_, _, _, _, rfl⟩ := h
  obtain ⟨_, _, _, _, rfl⟩ := g
  exact ⟨_, _, _, _, rfl⟩

/-- A track whose motion, if any, is charged up to a cycle and has not ended. -/
def Track.chargedTo (tr : Track) (clk : Nat) : Prop :=
  ∀ m, tr.motion = some m → m.done = m.moved clk ∧ tr.phys = m.at_ clk ∧ m.at_ clk ≠ m.target

theorem State.settleProbe_frame (s : State) (n t : Nat) : TrackFrame CtxCharged (s.settleProbe n t) s := by
  unfold State.settleProbe
  split
  · dsimp only
    split
    · exact (State.modTrack_frame _ _ _ _).charged.transCharged (s.chargeShift_frame _ _ _)
    · exact .refl CtxCharged.refl s
  · exact .refl CtxCharged.refl s

theorem State.track_settleProbe_ne (s : State) (n : Nat) {t u : Nat} (h : u ≠ t) : (s.settleProbe n t).track n u = s.track n u := by
  unfold State.settleProbe
  split
  · dsimp only
    split
    · rw [State.track_modTrack_ne _ _ _ h, State.track_chargeShift]
    · rfl
  · rfl

theorem State.track_settleProbe (s : State) (n t : Nat) : ∃ pr, (s.settleProbe n t).track n t = { s.track n t with probe := pr } := by
  unfold State.settleProbe
  split
  · dsimp only
    split
    · rw [State.track_modTrack_self, State.track_chargeShift]; exact ⟨_, rfl⟩
    · exact ⟨_, rfl⟩
  · exact ⟨_, rfl⟩

theorem State.settle_of_motionless {s : State} {n t : Nat} (h : (s.track n t).motion = none) : s.settle n t = s.settleProbe n t := by
  unfold State.settle
  simp only [h]

/-- Of a track without a motion or a probing that charges there is nothing to settle. -/
theorem State.settle_of_still {s : State} {n t : Nat} (hm : (s.track n t).motion = none)
    (hp : (s.track n t).probe = none ∨ (s.track n t).queue = []) : s.settle n t = s := by
  rw [State.settle_of_motionless hm]
  unfold State.settleProbe
  rcases hp with h | h
  · simp only [h]
  · rw [h]
    split
    · rename_i h'; cases h'
    · rfl

/-- What settling does with a motion. -/
theorem State.settle_of_motion {s : State} {n t : Nat} {m : Motion} (h : (s.track n t).motion = some m) :
    s.settle n t =
      (if m.done < m.moved s.clk then s.chargeShift n m.ctx (m.moved s.clk - m.done) else s).modTrack n t fun tr =>
        if m.at_ s.clk = m.target then { tr with motion := none, phys := m.target, unseat := tr.unseat && m.old }
        else { tr with motion := some { m with done := m.moved s.clk }, phys := m.at_ s.clk } := by
  have hclk : (if m.done < m.moved s.clk then s.chargeShift n m.ctx (m.moved s.clk - m.done) else s).clk = s.clk := by
    split
    · exact (s.chargeShift_frame _ _ _).clk
    · rfl
  unfold State.settle
  simp only [h, hclk]
  by_cases ha : m.at_ s.clk = m.target
  · have hb : (({ m with done := m.moved s.clk } : Motion).at_ s.clk == m.target) = true := beq_iff_eq.mpr ha
    rw [if_pos hb]
    simp only [ha, if_true]
  · have hb : ¬(({ m with done := m.moved s.clk } : Motion).at_ s.clk == m.target) = true := fun e => ha (beq_iff_eq.mp e)
    rw [if_neg hb]
    simp only [ha, if_false]
    rfl

theorem State.settle_frame (s : State) (n t : Nat) : TrackFrame CtxCharged (s.settle n t) s := by
  cases h : (s.track n t).motion with
  | none => rw [State.settle_of_motionless h]; exact s.settleProbe_frame n t
  | some m =>
    rw [State.settle_of_motion h]
    refine (State.modTrack_frame _ _ _ _).charged.transCharged ?_
    split
    · exact s.chargeShift_frame _ _ _
    · exact .refl CtxCharged.refl s

theorem State.track_settle_ne (s : State) (n : Nat) {t u : Nat} (h : u ≠ t) : (s.settle n t).track n u = s.track n u := by
  cases hm : (s.track n t).motion with
  | none => rw [State.settle_of_motionless hm, s.track_settleProbe_ne n h]
  | some m =>
    rw [State.settle_of_motion hm, State.track_modTrack_ne _ _ _ h]
    split <;> simp

/-- The track itself after a motion has been settled. -/
theorem State.track_settle_of_motion {s : State} {n t : Nat} {m : Motion} (h : (s.track n t).motion = some m) :
    (s.settle n t).track n t =
      if m.at_ s.clk = m.target then { s.track n t with motion := none, phys := m.target, unseat := (s.track n t).unseat && m.old }
      else { s.track n t with motion := some { m with done := m.moved s.clk }, phys := m.at_ s.clk } := by
  rw [State.settle_of_motion h, State.track_modTrack_self]
  have ht : (if m.done < m.moved s.clk then s.chargeShift n m.ctx (m.moved s.clk - m.done) else s).track n t = s.track n t := by
    split <;> simp
  rw [ht]

theorem State.track_settle (s : State) (n t : Nat) : TrackSettled ((s.settle n t).track n t) (s.track n t) := by
  cases h : (s.track n t).motion with
  | none =>
    obtain ⟨_, hp⟩ := s.track_settleProbe n t
    rw [State.settle_of_motionless h, hp]
    exact ⟨_, _, _, _, rfl⟩
  | some m =>
    rw [State.track_settle_of_motion h]
    split <;> exact ⟨_, _, _, _, rfl⟩

/-- A track that has been settled is charged up to the present cycle. -/
theorem State.chargedTo_settle (s : State) (n t : Nat) : ((s.settle n t).track n t).chargedTo s.clk := by
  intro m hm
  cases h : (s.track n t).motion with
  | none =>
    obtain ⟨_, hp⟩ := s.track_settleProbe n t
    rw [State.settle_of_motionless h, hp, h] at hm
    cases hm
  | some m' =>
    rw [State.track_settle_of_motion h] at hm ⊢
    split at hm
    · cases hm
    · rename_i ha
      obtain rfl := Option.some.inj hm
      rw [if_neg ha]
      exact ⟨rfl, rfl, ha⟩

/-- Settling a track that is charged up to the present cycle, and is not probed, changes nothing that is read. -/
theorem State.settle_of_charged {s : State} {n t : Nat} (hc : (s.track n t).chargedTo s.clk)
    (hp : (s.track n t).motion = none → (s.track n t).probe = none ∨ (s.track n t).queue = []) :
    TrackFrame (· = ·) (s.settle n t) s ∧ ∀ u, (s.settle n t).track n u = s.track n u := by
  cases h : (s.track n t).motion with
  | none => rw [State.settle_of_still h (hp h)]; exact ⟨.refl (fun _ => rfl) s, fun _ => rfl⟩
  | some m =>
    obtain ⟨hd, hph, ha⟩ := hc m h
    have hlt : ¬ m.done < m.moved s.clk := by omega
    refine ⟨?_, fun u => ?_⟩
    · rw [State.settle_of_motion h, if_neg hlt]
      exact State.modTrack_frame _ _ _ _
    · by_cases hu : u = t
      · subst hu
        rw [State.track_settle_of_motion h, if_neg ha, ← hd, ← hph, ← h]
      · exact s.track_settle_ne n hu

/-! All tracks of a core. -/

theorem State.settleAll_frame (s : State) (n : Nat) : TrackFrame CtxCharged (s.settleAll n) s :=
  List.foldlRecOn (motive := fun t : State => TrackFrame CtxCharged t s) _ _ (.refl CtxCharged.refl s)
    fun t ht e _ => (t.settle_frame n e.1).transCharged ht

theorem State.track_settleAll (s : State) (n k : Nat) : TrackSettled ((s.settleAll n).track n k) (s.track n k) := by
  refine List.foldlRecOn (motive := fun t : State => TrackSettled (t.track n k) (s.track n k)) _ _ (.refl _) fun t ht e _ => ?_
  by_cases hk : k = e.1
  · subst hk; exact (t.track_settle n e.1).trans ht
  · rw [t.track_settle_ne n hk]; exact ht

/-- A key that is not listed reads the default. -/
theorem Assoc.get_of_not_mem {α : Type} (m : Assoc α) (k : Nat) (d : α) (h : (k, m.get k d) ∉ m) : m.get k d = d := by
  induction m with
  | nil => rfl
  | cons e m ih =>
    obtain ⟨j, v⟩ := e
    rw [Assoc.get_cons] at h ⊢
    by_cases hj : j = k
    · subst hj; simp at h
    · rw [if_neg hj] at h ⊢
      exact ih fun hm => h (List.mem_cons_of_mem _ hm)

/-- Settling the tracks of a list charges each of them, and keeps those charged that were. -/
theorem State.chargedTo_foldl_settle (l : Assoc Track) (s : State) (n k : Nat)
    (h : k ∈ l.map (·.1) ∨ (s.track n k).chargedTo s.clk) :
    ((l.foldl (fun s e => s.settle n e.1) s).track n k).chargedTo s.clk := by
  induction l generalizing s with
  | nil => simpa using h
  | cons e l ih =>
    have hclk := (s.settle_frame n e.1).clk
    rw [List.foldl_cons, ← hclk]
    apply ih
    by_cases hk : k = e.1
    · subst hk
      rw [hclk]
      exact .inr (s.chargedTo_settle n e.1)
    · rw [hclk, s.track_settle_ne n hk]
      rcases h with h | h
      · rcases List.mem_cons.mp h with h | h
        · exact absurd h hk
        · exact .inl h
      · exact .inr h

/-- After all motions of a core are settled every track is charged up to the present cycle (R51). -/
theorem State.chargedTo_settleAll (s : State) (n k : Nat) : ((s.settleAll n).track n k).chargedTo s.clk := by
  refine State.chargedTo_foldl_settle _ s n k ?_
  by_cases hm : (s.track n k).motion = none
  · exact .inr fun m h => by rw [hm] at h; cases h
  · refine .inl (List.mem_map.mpr ⟨(k, s.track n k), List.mem_filter.mpr ⟨?_, ?_⟩, rfl⟩)
    · by_contra hn
      have hr : s.track n k = Track.reset := Assoc.get_of_not_mem _ _ _ hn
      exact hm (by rw [hr]; rfl)
    · simp [Option.isSome_iff_ne_none, hm]

/-- Whether a context may act on a track is not changed by settling (R53). -/
theorem State.ownsTrack_settleAll (s : State) (n c k : Nat) (e : Bool) :
    (s.settleAll n).ownsTrack n c k e = s.ownsTrack n c k e := by
  obtain ⟨_, _, _, _, h⟩ := s.track_settleAll n k
  unfold State.ownsTrack
  rw [h]

/-! Motions begun (R47, R50). -/

theorem State.move_frame (s : State) (n t a c : Nat) (step : Bool) : TrackFrame CtxCharged (s.move n t a c step) s :=
  ((State.later_frame _ _ _).transEq (State.modTrack_frame _ _ _ _)).charged.transCharged (s.settle_frame n t)

theorem State.track_move_ne (s : State) (n a c : Nat) (step : Bool) {t u : Nat} (h : u ≠ t) :
    (s.move n t a c step).track n u = s.track n u := by
  unfold State.move
  dsimp only
  rw [State.track_later, State.track_modTrack_ne _ _ _ h, s.track_settle_ne n h]

theorem State.track_move (s : State) (n t a c : Nat) (step : Bool) :
    (s.move n t a c step).track n t =
      { (s.settle n t).track n t with motion := some ⟨((s.settle n t).track n t).phys, a, s.clk, 0, c, step, false⟩ } := by
  unfold State.move
  dsimp only
  rw [State.track_later, State.track_modTrack_self, (s.settle_frame n t).clk]

/-- Its end is due when it will have covered its distance, 2 cycles a position (R47). -/
theorem State.mem_due_move (s : State) (n t a c : Nat) (step : Bool) :
    (s.clk + 2 * ((a : Int) - ((s.settle n t).track n t).phys).natAbs, Event.trackMotionEnd n t) ∈ (s.move n t a c step).due := by
  rw [← (s.settle_frame n t).clk]
  exact State.mem_due_later ..

/-- A motion begun from a track that is charged and not probed: nothing is charged. -/
theorem State.move_of_charged {s : State} {n t : Nat} (a c : Nat) (step : Bool) (hc : (s.track n t).chargedTo s.clk)
    (hp : (s.track n t).motion = none → (s.track n t).probe = none ∨ (s.track n t).queue = []) :
    TrackFrame (· = ·) (s.move n t a c step) s ∧
      (s.move n t a c step).track n t = { s.track n t with motion := some ⟨(s.track n t).phys, a, s.clk, 0, c, step, false⟩ } ∧
      (s.clk + 2 * ((a : Int) - (s.track n t).phys).natAbs, Event.trackMotionEnd n t) ∈ (s.move n t a c step).due := by
  obtain ⟨hf, ht⟩ := State.settle_of_charged hc hp
  refine ⟨((State.later_frame _ _ _).transEq (State.modTrack_frame _ _ _ _)).transEq hf, ?_, ?_⟩
  · rw [State.track_move, ht]
  · have h := s.mem_due_move n t a c step
    rwa [ht] at h

/-! Accesses queued (R49). -/

theorem State.queueAccess_frame (s : State) (n t : Nat) (op : TrkOp) : TrackFrame (· = ·) (s.queueAccess n t op) s :=
  (State.kickTrack_frame _ _ _).transEq (State.modTrack_frame _ _ _ _)

theorem State.track_queueAccess (s : State) (n t u : Nat) (op : TrkOp) :
    (s.queueAccess n t op).track n u =
      if u = t then { s.track n t with queue := (s.track n t).queue ++ [op] } else s.track n u := by
  unfold State.queueAccess
  rw [State.track_kickTrack, State.track_modTrack]

end Sys2Proof.Machine
end

section
/-! SUPPORT. The ends of motions, the starts of accesses, and probings (R47, R48, R51, R57 to R61). -/
namespace Sys2Proof.Machine

/-! Events of one track. -/

/-- Between two states the tracks of a core but for one stand, and memory does. -/
structure AtTrack (core n : Nat) (s t : State) : Prop where
  others : ∀ k, k ≠ n → t.track core k = s.track core k
  mem : MemKept s t

theorem AtTrack.of_frame {R : Ctx → Ctx → Prop} {core n : Nat} {s t : State} (h : TrackFrame R t s)
    (ho : ∀ k, k ≠ n → t.track core k = s.track core k) : AtTrack core n s t := ⟨ho, h.memKept⟩

theorem AtTrack.trans {core n : Nat} {s t u : State} (h : AtTrack core n s t) (g : AtTrack core n t u) : AtTrack core n s u :=
  ⟨fun k hk => (g.others k hk).trans (h.others k hk), h.mem.trans g.mem⟩

/-- An event whose meaning changes one track. -/
theorem happens_atTrack {core n : Nat} {e : Event} {s t : State} {P : State → Prop} (h : exec e.instr (s.onEvent e) = .next t)
    (hp : P t) (ha : AtTrack core n (s.onEvent e) t) :
    Happens e s fun t => P t ∧ (∀ k, k ≠ n → t.track core k = s.track core k) ∧ MemKept s t := by
  have hm : MemKept s (s.onEvent e) := .of_eq rfl rfl rfl rfl
  exact happens_next h ⟨hp, ha.others, hm.trans ha.mem⟩

theorem exec_trackMotionEnd (s : State) (core n : Nat) : exec (Event.trackMotionEnd core n).instr (s.onEvent (.trackMotionEnd core n)) =
    .next ((s.onEvent (.trackMotionEnd core n)).motionEnd core n) := rfl

theorem exec_trackAccessStart (s : State) (core n : Nat) :
    exec (Event.trackAccessStart core n).instr (s.onEvent (.trackAccessStart core n)) =
      .next ((s.onEvent (.trackAccessStart core n)).accessStart core n) := rfl

theorem exec_trackRealignmentDone (s : State) (core n : Nat) :
    exec (Event.trackRealignmentDone core n).instr (s.onEvent (.trackRealignmentDone core n)) =
      .next ((s.onEvent (.trackRealignmentDone core n)).realignmentDone core n) := rfl

theorem exec_trackAccessComplete (s : State) (core n : Nat) :
    exec (Event.trackAccessComplete core n).instr (s.onEvent (.trackAccessComplete core n)) =
      .next ((s.onEvent (.trackAccessComplete core n)).accessComplete core n) := rfl

/-! The end of a motion (R47, R51, R65). -/

/-- A motion whose time has passed has covered its distance. -/
theorem Motion.moved_of_arrived {m : Motion} {clk : Nat} (h : m.since + 2 * ((m.target : Int) - m.from_).natAbs ≤ clk) :
    m.moved clk = ((m.target : Int) - m.from_).natAbs := by
  unfold Motion.moved
  omega

theorem Motion.at_of_arrived {m : Motion} {clk : Nat} (h : m.since + 2 * ((m.target : Int) - m.from_).natAbs ≤ clk) :
    m.at_ clk = m.target := by
  unfold Motion.at_
  rw [Motion.moved_of_arrived h]
  split <;> omega

section Arrived
variable {s : State} {core n : Nat} {m : Motion} (hm : (s.track core n).motion = some m)
  (ha : m.since + 2 * ((m.target : Int) - m.from_).natAbs ≤ s.clk)
include hm ha

/-- The track of a motion that has covered its distance stands at the target, and is seated unless the motion is old. -/
theorem State.track_settle_of_arrived : (s.settle core n).track core n =
    { s.track core n with motion := none, phys := m.target, unseat := (s.track core n).unseat && m.old } := by
  rw [State.track_settle_of_motion hm, if_pos (Motion.at_of_arrived ha)]

/-- Every position of it is charged to the context that began it. -/
theorem State.settle_of_arrived_shchg (hd : m.done ≤ ((m.target : Int) - m.from_).natAbs) :
    ((s.settle core n).ctx core m.ctx).srGet rSHCHG =
      (s.ctx core m.ctx).srGet rSHCHG + BitVec.ofNat 64 (((m.target : Int) - m.from_).natAbs - m.done) := by
  rw [State.settle_of_motion hm, Motion.moved_of_arrived ha, State.ctx_modTrack]
  split
  · exact State.chargeShift_shchg ..
  · rw [show ((m.target : Int) - m.from_).natAbs - m.done = 0 by omega]
    simp

theorem State.motionEnd_of_arrived : s.motionEnd core n = (s.settle core n).kickTrack core n := by
  unfold State.motionEnd
  dsimp only
  rw [State.track_settle_of_arrived hm ha]
  rfl

end Arrived

theorem State.motionEnd_at {s : State} {core n : Nat} {m : Motion} (hm : (s.track core n).motion = some m)
    (ha : m.since + 2 * ((m.target : Int) - m.from_).natAbs ≤ s.clk) : AtTrack core n s (s.motionEnd core n) := by
  rw [State.motionEnd_of_arrived hm ha]
  refine .of_frame ((State.kickTrack_frame _ _ _).charged.transCharged (s.settle_frame core n)) fun k hk => ?_
  rw [State.track_kickTrack, s.track_settle_ne core hk]

/-! The start of an access (R48, R57, R65). -/

/-- A motion begun changes its own track. -/
theorem State.move_at (s : State) (core n a c : Nat) (step : Bool) : AtTrack core n s (s.move core n a c step) :=
  .of_frame (s.move_frame core n a c step) fun _ hk => s.track_move_ne core a c step hk

theorem State.modTrack_at (s : State) (core n : Nat) (g : Track → Track) : AtTrack core n s (s.modTrack core n g) :=
  .of_frame (s.modTrack_frame core n g) fun _ hk => s.track_modTrack_ne core g hk

theorem State.later_at (s : State) (core n d : Nat) (e : Event) : AtTrack core n s (s.later d e) :=
  .of_frame (s.later_frame d e) fun _ _ => rfl

theorem State.kickTrack_at (s : State) (core n : Nat) : AtTrack core n s (s.kickTrack core n) :=
  .of_frame (s.kickTrack_frame core n) fun _ _ => s.track_kickTrack core n core _

/-- A motion begun from a track that neither moves nor is probed. -/
theorem State.move_of_still {s : State} {core n : Nat} (a c : Nat) (step : Bool) (hm : (s.track core n).motion = none)
    (hp : (s.track core n).probe = none ∨ (s.track core n).queue = []) :
    (s.move core n a c step).track core n = { s.track core n with motion := some ⟨(s.track core n).phys, a, s.clk, 0, c, step, false⟩ } := by
  rw [State.track_move, State.settle_of_still hm hp]

/-- A probing begun, with the event that ends it after some cycles. -/
def State.beginProbe (s : State) (core n : Nat) (p : Probe) (cycles : Nat) : State :=
  (s.modTrack core n fun tr => { tr with probe := some p }).later cycles (.trackRealignmentDone core n)

theorem State.beginProbe_at (s : State) (core n : Nat) (p : Probe) (cycles : Nat) : AtTrack core n s (s.beginProbe core n p cycles) :=
  (s.modTrack_at core n _).trans (State.later_at ..)

theorem State.track_beginProbe (s : State) (core n : Nat) (p : Probe) (cycles : Nat) :
    (s.beginProbe core n p cycles).track core n = { s.track core n with probe := some p } := by
  unfold State.beginProbe
  rw [State.track_later, State.track_modTrack_self]

theorem State.mem_due_beginProbe (s : State) (core n : Nat) (p : Probe) (cycles : Nat) :
    (s.clk + cycles, Event.trackRealignmentDone core n) ∈ (s.beginProbe core n p cycles).due :=
  State.mem_due_later ..

/-- The port taken for an access that starts (R48). -/
def State.takePort (s : State) (core : Nat) : State := s.modCore core fun k => { k with portAt := s.clk + 1 }

@[simp] theorem State.track_takePort (s : State) (core m u : Nat) : (s.takePort core).track m u = s.track m u := by
  unfold State.track State.takePort
  rw [State.core_modCore]
  split
  · subst_vars; rfl
  · rfl

@[simp] theorem State.ctx_takePort (s : State) (core m d : Nat) : (s.takePort core).ctx m d = s.ctx m d := by
  unfold State.takePort
  rw [State.ctx_modCore]
  split
  · subst_vars; rfl
  · rfl

theorem State.core_takePort (s : State) (core m : Nat) : ∃ p, (s.takePort core).core m = { s.core m with portAt := p } := by
  unfold State.takePort
  rw [State.core_modCore]
  split
  · subst_vars; exact ⟨_, rfl⟩
  · exact ⟨_, rfl⟩

theorem State.portAt_takePort (s : State) (core : Nat) : ((s.takePort core).core core).portAt = s.clk + 1 := by
  unfold State.takePort
  rw [State.core_modCore, if_pos rfl]

theorem State.takePort_at (s : State) (core n : Nat) : AtTrack core n s (s.takePort core) :=
  ⟨fun _ _ => s.track_takePort core core _, .of_eq rfl rfl rfl rfl⟩

section Start
variable {s : State} {core n : Nat} {op : TrkOp} {rest : List TrkOp} (hq : (s.track core n).queue = op :: rest)
  (hs : (s.track core n).started = false) (hm : (s.track core n).motion = none) (hp : (s.track core n).probe = none)
include hq hs hm hp

/-- A TSEEK at the head of the queue begins its motion (R49). -/
theorem State.accessStart_seek (ha : op.act = .seek) : s.accessStart core n =
    (s.modTrack core n fun tr => { tr with queue := tr.queue.drop 1 }).move core n op.head op.ctx false := by
  unfold State.accessStart
  rw [State.settle_of_still hm (.inl hp)]
  simp only [hq, hs, hm, hp, ha]
  rfl

section Access
variable (ha : op.act ≠ .seek)
include ha

/-- A re-seek comes before the test of the position code (R48, R65). -/
theorem State.accessStart_reseek (hu : (s.track core n).unseat = true ∨ (s.track core n).phys ≠ op.head) :
    s.accessStart core n = s.move core n op.head op.ctx false := by
  have hc : ((s.track core n).unseat || (s.track core n).phys != op.head) = true := by simpa using hu
  unfold State.accessStart
  rw [State.settle_of_still hm (.inl hp)]
  simp only [hq, hs, hm, hp, Option.isSome_none, Bool.or_false, Bool.false_eq_true, if_false]
  rw [if_pos hc]

variable (hu : (s.track core n).unseat = false) (hh : (s.track core n).phys = op.head)
include hu hh

/-- A probing begins where the position code does not match (R57, R58). -/
theorem State.accessStart_slipped (hn : (s.track core n).slip % 8 ≠ 0) : s.accessStart core n =
    match probeOf (s.track core n).slip with
    | some (d, moves, cycles) => s.beginProbe core n ⟨moves, d, false, s.clk, 0⟩ cycles
    | none => s.beginProbe core n ⟨24, 0, true, s.clk, 0⟩ 54 := by
  have hc : ((s.track core n).unseat || (s.track core n).phys != op.head) = false := by simp [hu, hh]
  have hd : ((s.track core n).slip % 8 != 0) = true := by simpa using hn
  unfold State.accessStart
  rw [State.settle_of_still hm (.inl hp)]
  simp only [hq, hs, hm, hp, Option.isSome_none, Bool.or_false, Bool.false_eq_true, if_false]
  rw [hc, if_neg Bool.false_ne_true, if_pos hd]
  cases probeOf (s.track core n).slip <;> rfl

variable (hz : (s.track core n).slip % 8 = 0)
include hz

/-- An access that has passed its test: one of several tracks waits until all have passed, and the port takes one in a cycle (R48). -/
theorem State.accessStart_aligned : s.accessStart core n =
    if (op.act.tracks n).all (fun u => u == n ||
        ((s.track core u).started && ((s.track core u).queue.head?.map (·.id)) == some op.id)) then
      if s.clk < (s.core core).portAt then s.later ((s.core core).portAt - s.clk) (.trackAccessStart core n)
      else ((s.modTrack core n fun tr => { tr with started := true }).takePort core).later 3 (.trackAccessComplete core (op.act.lead n))
    else s.modTrack core n fun tr => { tr with started := true } := by
  have hc : ((s.track core n).unseat || (s.track core n).phys != op.head) = false := by simp [hu, hh]
  have hd : ((s.track core n).slip % 8 != 0) = false := by simp [hz]
  unfold State.accessStart
  rw [State.settle_of_still hm (.inl hp)]
  simp only [hq, hs, hm, hp, Option.isSome_none, Bool.or_false, Bool.false_eq_true, if_false]
  rw [hc, hd, if_neg Bool.false_ne_true, if_neg Bool.false_ne_true]
  cases (op.act.tracks n).all fun u => u == n ||
      ((s.track core u).started && ((s.track core u).queue.head?.map (·.id)) == some op.id)
  · simp
  · rfl

/-- An access of one track starts where the port is free (R48). -/
theorem State.accessStart_one (ht : op.act.tracks n = [n]) (hport : (s.core core).portAt ≤ s.clk) : s.accessStart core n =
    ((s.modTrack core n fun tr => { tr with started := true }).takePort core).later 3 (.trackAccessComplete core n) := by
  have hl : op.act.lead n = n := by
    cases h : op.act with
    | member lead =>
      rw [h] at ht
      exact absurd (congrArg List.length ht) (by simp [TrkAct.tracks])
    | _ => rfl
  rw [State.accessStart_aligned hq hs hm hp ha hu hh hz, ht, hl, if_pos (by simp), if_neg (by omega)]

end Access
end Start

/-- A slip that a probe matches, with the probe's displacement, moves and cycles (R58). -/
theorem probeOf_of_match (k : Int) (p : Int × Int × Nat × Nat)
    (hp : p ∈ [((1 : Int), (-1 : Int), 3, 8), (-1, 1, 1, 3), (2, -2, 10, 24), (-2, 2, 6, 15), (3, -3, 21, 48), (-3, 3, 15, 35)])
    (h : (k - p.1) % 8 = 0) : k % 8 ≠ 0 ∧ probeOf k = some (p.2.1, p.2.2.1, p.2.2.2) := by
  have hk (r : Int) (hr : k % 8 = r) (h0 : r ≠ 0) {x} (hx : probeOf r = some x) (hrr : r % 8 = r) : k % 8 ≠ 0 ∧ probeOf k = some x := by
    refine ⟨by rw [hr]; exact h0, ?_⟩
    rw [← hx]
    unfold probeOf
    rw [hr, hrr]
  simp only [List.mem_cons, List.not_mem_nil, or_false] at hp
  rcases hp with rfl | rfl | rfl | rfl | rfl | rfl
  · exact hk 1 (by omega) (by decide) rfl rfl
  · exact hk 7 (by omega) (by decide) rfl rfl
  · exact hk 2 (by omega) (by decide) rfl rfl
  · exact hk 6 (by omega) (by decide) rfl rfl
  · exact hk 3 (by omega) (by decide) rfl rfl
  · exact hk 5 (by omega) (by decide) rfl rfl

theorem probeOf_four (k : Int) (h : k % 8 = 4) : probeOf k = none := by
  unfold probeOf
  rw [h]
  rfl

/-! Realignments (R58, R59). -/

/-- The counts of a realignment in the context and its stack (R59, R410, R455). -/
def State.countRealignment (s : State) (core c : Nat) : State :=
  let s := s.modCtx core c (·.count 11 1)
  { s with pkg := { s.pkg with errCnt := s.pkg.errCnt.put (stkOf core) (bumpField (s.pkg.errCnt.get (stkOf core) 0) 5) } }

theorem State.countRealignment_frame (s : State) (core c : Nat) : TrackFrame CtxCharged (s.countRealignment core c) s := by
  have hcount : CtxCharged ((s.ctx core c).count 11 1) (s.ctx core c) := by
    obtain ⟨_, h⟩ := (s.ctx core c).count_eq 11 1
    rw [h]
    exact ⟨⟨_, _, _, rfl⟩, fun _ _ => rfl⟩
  have h := State.setCtx_frame hcount
  obtain ⟨⟨_, _, _, _, heq⟩, hctx, hw, hp⟩ := h
  have heq' : s.modCtx core c (·.count 11 1) = _ := heq
  exact ⟨⟨_, _, _, _, by unfold State.countRealignment; rw [heq']⟩, hctx, hw, hp⟩

theorem State.countRealignment_shchg (s : State) (core c : Nat) :
    ((s.countRealignment core c).ctx core c).srGet rSHCHG = (s.ctx core c).srGet rSHCHG := by
  show ((s.modCtx core c (·.count 11 1)).ctx core c).srGet rSHCHG = _
  rw [State.ctx_modCtx_self, Ctx.srGet_count]

@[simp] theorem State.track_countRealignment (s : State) (core c m u : Nat) : (s.countRealignment core c).track m u = s.track m u :=
  s.track_modCtx core c m u (·.count 11 1)

/-- A track made suspect where a condition holds. -/
def State.suspectIf (s : State) (core n : Nat) (b : Bool) : State := if b then s.suspectTrack core n true else s

theorem State.suspectIf_frame (s : State) (core n : Nat) (b : Bool) : TrackFrame (· = ·) (s.suspectIf core n b) s := by
  unfold State.suspectIf
  split
  · obtain ⟨⟨_, _, _, _, heq⟩, hctx, hw, hp⟩ := s.modTrack_frame core n fun tr => { tr with susp := true }
    exact ⟨⟨_, _, _, _, by unfold State.suspectTrack; rw [heq]; rfl⟩, hctx, hw, hp⟩
  · exact .refl (fun _ => rfl) s

theorem State.track_suspectIf (s : State) (core n k : Nat) (b : Bool) :
    (s.suspectIf core n b).track core k = if k = n ∧ b = true then { s.track core n with susp := true } else s.track core k := by
  unfold State.suspectIf
  cases b
  · simp
  · show (s.modTrack core n fun tr => { tr with susp := true }).track core k = _
    rw [State.track_modTrack]
    simp

section Realigned
variable {s : State} {core n : Nat} {op : TrkOp} {rest : List TrkOp} {p : Probe} (hq : (s.track core n).queue = op :: rest)
  (hp : (s.track core n).probe = some p) (hf : p.fails = false)
include hq hp hf

/-- A probing that matches charges its positions, is counted, and moves the track by its displacement (R51, R58, R59). -/
theorem State.realignmentDone_match : ∃ b, s.realignmentDone core n =
    ((((((s.chargeShift core op.ctx (p.moves - p.done)).countRealignment core op.ctx).modTrack core n fun tr =>
      { tr with probe := none, slip := tr.slip + p.shift, count := min 255 ((s.track core n).count + 1) }).suspectIf core n b).kickTrack
        core n)) := by
  obtain ⟨moves, d, fail, since, done⟩ := p
  obtain rfl : fail = false := hf
  unfold State.realignmentDone
  simp only [hq, hp, Bool.false_eq_true, if_false]
  exact ⟨_, rfl⟩

theorem State.realignmentDone_track : (∃ su, (s.realignmentDone core n).track core n = { s.track core n with
      probe := none, slip := (s.track core n).slip + p.shift, count := min 255 ((s.track core n).count + 1), susp := su }) ∧
    (∀ k, k ≠ n → (s.realignmentDone core n).track core k = s.track core k) := by
  obtain ⟨b, hd⟩ := State.realignmentDone_match hq hp hf
  refine ⟨?_, fun k hk => ?_⟩
  · rw [hd, State.track_kickTrack, State.track_suspectIf]
    split <;> exact ⟨_, by simp; rfl⟩
  · rw [hd, State.track_kickTrack, State.track_suspectIf, if_neg (fun h => hk h.1)]
    simp [hk]

theorem State.realignmentDone_frame : TrackFrame CtxCharged (s.realignmentDone core n) s := by
  obtain ⟨b, hd⟩ := State.realignmentDone_match hq hp hf
  rw [hd]
  exact ((State.kickTrack_frame _ _ _).transEq ((State.suspectIf_frame _ _ _ _).transEq (State.modTrack_frame _ _ _ _))).charged.transCharged
    ((State.countRealignment_frame _ _ _).transCharged (s.chargeShift_frame _ _ _))

theorem State.realignmentDone_shchg : ((s.realignmentDone core n).ctx core op.ctx).srGet rSHCHG =
    (s.ctx core op.ctx).srGet rSHCHG + BitVec.ofNat 64 (p.moves - p.done) := by
  obtain ⟨b, hd⟩ := State.realignmentDone_match hq hp hf
  have h := (State.kickTrack_frame (((((s.chargeShift core op.ctx (p.moves - p.done)).countRealignment core op.ctx).modTrack core n fun tr =>
    { tr with probe := none, slip := tr.slip + p.shift, count := min 255 ((s.track core n).count + 1) }).suspectIf core n b)) core n).transEq
    ((State.suspectIf_frame _ _ _ _).transEq (State.modTrack_frame _ _ _ _))
  rw [hd, h.ctx, State.countRealignment_shchg, State.chargeShift_shchg]

end Realigned

end Sys2Proof.Machine
end

section
/-! SUPPORT. The completion and the failure of an access (R62, R332, R334): O32. -/
namespace Sys2Proof.Machine

/-! The completion of the instruction of an access. -/

/-- What delivering values leaves of a context. -/
theorem Ctx.deliver_eq (x : Ctx) (d : Dst) (got : List (Nat × Nat)) : ∃ s v, x.deliver d got = { x with s := s, v := v } := by
  unfold Ctx.deliver
  split
  · exact ⟨_, _, rfl⟩
  · exact ⟨_, _, rfl⟩
  · unfold Ctx.setS
    dsimp only
    split <;> exact ⟨_, _, rfl⟩
  · exact ⟨_, _, rfl⟩

/-- A context after the completion of the instruction at which it was held (R252, R258, R290). -/
structure Retired (x y : Ctx) (npc : Word) : Prop where
  block : y.block = none
  pc : y.pc = (x.loopEnd npc 5).pc
  stat : ∀ i, i < 64 → y.statBit i =
    if i = bPFX then false else if i = bWARN then (x.statBit bWARN || x.warnHeld) else x.statBit i
  loops : ∀ k, 0x20 ≤ k → k ≤ 0x2E → y.srGet k = (x.loopEnd npc 5).srGet k

/-- The context that an instruction that completes leaves. -/
theorem State.retire_ctx (s : State) (n c : Nat) (npc : Word) :
    let x := s.ctx n c
    let y := (s.retire n c false npc).ctx n c
    y.block = none ∧ y.pc = (x.loopEnd npc 5).pc ∧ (∀ i, i < 64 → y.statBit i = if i = bPFX then false else x.statBit i) ∧
      ∀ k, 0x20 ≤ k → k ≤ 0x2E → y.srGet k = (x.loopEnd npc 5).srGet k := by
  intro x y
  obtain ⟨p, hp⟩ := (x.setStat bPFX false).count_eq 1 1
  obtain ⟨st, li, sh, hy⟩ : ∃ st li sh, y = Ctx.loopEnd { x.setStat bPFX false with
      pmc := p, block := none, st := st, lastIssue := li, warnHeld := false, shapes := sh } npc 5 := by
    show ∃ st li sh, (s.retire n c false npc).ctx n c = _
    unfold State.retire
    dsimp only
    rw [State.ctx_modCore, if_pos rfl]
    show ∃ st li sh, (State.modCtx _ _ _ _).ctx n c = _
    rw [State.ctx_modCtx_self]
    simp only [Bool.false_eq_true, if_false]
    rw [show s.ctx n c = x from rfl, hp]
    exact ⟨_, _, _, rfl⟩
  obtain ⟨_, hblock, hstat, _⟩ := Ctx.loopEnd_as { x.setStat bPFX false with
      pmc := p, block := none, st := st, lastIssue := li, warnHeld := false, shapes := sh } npc 5
  have hl := Ctx.loopEnd_congr { x.setStat bPFX false with
      pmc := p, block := none, st := st, lastIssue := li, warnHeld := false, shapes := sh } x npc 5 fun k h1 _ =>
        x.srGet_setStat bPFX k false (by unfold rSTAT; omega)
  rw [hy]
  refine ⟨hblock, hl.1, fun i hi => ?_, hl.2⟩
  rw [Ctx.statBit_of_sr hstat]
  exact x.statBit_setStat bPFX i false hi

theorem State.ctx_warnHeld (s : State) (n c : Nat) :
    (s.warnHeld n c).ctx n c = if (s.ctx n c).warnHeld then (s.ctx n c).setStat bWARN true else s.ctx n c := State.ctx_modCtx_self ..

theorem State.warnHeld_as (s : State) (n c : Nat) : StateAs n c (s.warnHeld n c) s := by
  refine StateAs.ofCtx _ _ _ _ ?_
  dsimp only
  split
  · exact Ctx.setStat_as _ _ _
  · exact CtxAs.refl _

section Done
variable {s : State} {core : Nat} {op : TrkOp} (got : List (Nat × Nat)) {t since ph : Nat}
  (hb : (s.ctx core op.ctx).block = some ⟨.track t op.id, since, ph⟩) (hs : (s.ctx core op.ctx).statBit bSTEP = false)

/-- The state in which a context that is held at an access has its values, before its instruction completes. -/
def State.delivered (s : State) (core : Nat) (op : TrkOp) (got : List (Nat × Nat)) : State :=
  s.setCtx core op.ctx ((s.ctx core op.ctx).deliver op.dst got)

include hb hs

theorem State.trackDone_of_held : s.trackDone core op got = (((s.delivered core op got).warnHeld core op.ctx).retire core op.ctx false
      ((s.ctx core op.ctx).pc + BitVec.ofNat 64 op.len)) ∧
    Retired (s.ctx core op.ctx) ((s.trackDone core op got).ctx core op.ctx) ((s.ctx core op.ctx).pc + BitVec.ofNat 64 op.len) := by
  let x := s.ctx core op.ctx
  let npc := x.pc + BitVec.ofNat 64 op.len
  let r := ((s.delivered core op got).warnHeld core op.ctx).retire core op.ctx false npc
  obtain ⟨ss, vv, hdel⟩ := x.deliver_eq op.dst got
  have hctx : ((s.delivered core op got).warnHeld core op.ctx).ctx core op.ctx =
      if x.warnHeld then ({ x with s := ss, v := vv } : Ctx).setStat bWARN true else { x with s := ss, v := vv } := by
    rw [State.ctx_warnHeld, State.delivered, State.ctx_setCtx_self, show s.ctx core op.ctx = x from rfl, hdel]
  have hsr : ∀ k, k ≠ rSTAT → (((s.delivered core op got).warnHeld core op.ctx).ctx core op.ctx).srGet k = x.srGet k := by
    intro k hk
    rw [hctx]
    split
    · exact Ctx.srGet_setStat _ _ _ _ hk
    · rfl
  have hst : ∀ i, i < 64 → (((s.delivered core op got).warnHeld core op.ctx).ctx core op.ctx).statBit i =
      if i = bWARN then (x.statBit bWARN || x.warnHeld) else x.statBit i := by
    intro i hi
    rw [hctx]
    cases x.warnHeld
    · rw [if_neg Bool.false_ne_true, Bool.or_false]
      split
      · rename_i h; rw [h]; rfl
      · rfl
    · rw [if_pos rfl, Ctx.statBit_setStat _ _ _ _ hi, Bool.or_true]
      rfl
  obtain ⟨hblock, hpc, hstat, hloops⟩ := State.retire_ctx ((s.delivered core op got).warnHeld core op.ctx) core op.ctx npc
  have hcg := Ctx.loopEnd_congr (((s.delivered core op got).warnHeld core op.ctx).ctx core op.ctx) x npc 5 fun k h1 _ =>
    hsr k (by unfold rSTAT; omega)
  have hr : Retired x (r.ctx core op.ctx) npc := by
    refine ⟨hblock, hpc.trans hcg.1, fun i hi => ?_, fun k h1 h2 => (hloops k h1 h2).trans (hcg.2 k h1 h2)⟩
    rw [hstat i hi, hst i hi]
  have heq : s.trackDone core op got = r := by
    have hstep : (r.ctx core op.ctx).statBit bSTEP = false := by
      rw [hr.stat _ (by decide), if_neg (by decide), if_neg (by decide)]; exact hs
    unfold State.trackDone
    simp only [hb, beq_self_eq_true, if_true]
    exact State.stepTrap_off r core op.ctx (0, 0, 0) hstep
  exact ⟨heq, by rw [heq]; exact hr⟩

/-- A completed instruction leaves all but its context's course as its values have left it. -/
theorem State.trackDone_as : StateAs core op.ctx (s.trackDone core op got) (s.delivered core op got) := by
  rw [(State.trackDone_of_held got hb hs).1]
  exact (State.retire_as _ _ _ _ _).trans (State.warnHeld_as _ _ _)

end Done

/-! A completed access leaves its queue (R46, R332). -/

theorem State.finishAccess_frame (s : State) (core n : Nat) (op : TrkOp) (step dn : Bool) :
    TrackFrame CtxCharged (s.finishAccess core n op step dn) s := by
  unfold State.finishAccess
  dsimp only
  split
  · exact (State.move_frame _ _ _ _ _ _).transCharged (s.modTrack_frame core n _).charged
  · exact ((State.kickTrack_frame _ _ _).transEq (s.modTrack_frame core n _)).charged

theorem State.finishAccess_at (s : State) (core n : Nat) (op : TrkOp) (step dn : Bool) :
    AtTrack core n s (s.finishAccess core n op step dn) := by
  unfold State.finishAccess
  dsimp only
  split
  · exact (s.modTrack_at core n _).trans (State.move_at ..)
  · exact (s.modTrack_at core n _).trans (State.kickTrack_at ..)

theorem State.track_finishAccess (s : State) (core n : Nat) (op : TrkOp) (step dn : Bool) :
    TrackSettled ((s.finishAccess core n op step dn).track core n)
      { s.track core n with queue := (s.track core n).queue.drop 1, started := false } := by
  unfold State.finishAccess
  dsimp only
  split
  · rw [State.track_move]
    have h := State.track_settle (s.modTrack core n fun tr => { tr with queue := tr.queue.drop 1, started := false }) core n
    rw [State.track_modTrack_self] at h
    obtain ⟨_, _, _, _, h⟩ := h
    rw [h]
    exact ⟨_, _, _, _, rfl⟩
  · rw [State.track_kickTrack, State.track_modTrack_self]
    exact .refl _

/-- A stepping access begins the motion to the next position, from where the track stands (R46, R50). -/
theorem State.finishAccess_motion {s : State} {core n : Nat} (op : TrkOp) (step dn : Bool) (hm : (s.track core n).motion = none) :
    ((s.finishAccess core n op step dn).track core n).motion =
      if step = true ∧ stepHead op.head dn ≠ op.head then some ⟨(s.track core n).phys, stepHead op.head dn, s.clk, 0, op.ctx, true, false⟩
      else none := by
  unfold State.finishAccess
  dsimp only
  by_cases hc : step = true ∧ stepHead op.head dn ≠ op.head
  · rw [if_pos (by simpa using hc), if_pos hc, State.track_move]
    have hm' : ((s.modTrack core n fun tr => { tr with queue := tr.queue.drop 1, started := false }).track core n).motion = none := by
      rw [State.track_modTrack_self]; exact hm
    obtain ⟨_, hp⟩ := State.track_settleProbe (s.modTrack core n fun tr => { tr with queue := tr.queue.drop 1, started := false }) core n
    rw [State.settle_of_motionless hm', hp, State.track_modTrack_self]
    rfl
  · rw [if_neg (by simpa using hc), if_neg hc, State.track_kickTrack, State.track_modTrack_self]
    exact hm

/-! Words (R43, R45). -/

/-- The place under a port on a track with a slip. -/
theorem trackPos_of_eq {port head p : Nat} {slip : Int} (h : 256 * port + head + slip = (p : Int)) (hp : p < 1024) :
    trackPos port head slip = some p := by
  unfold trackPos
  dsimp only
  rw [h, if_pos (by simp; omega)]
  rfl

/-- A word written: contexts, tracks and memory stand, and the other words of the core. -/
theorem State.setTrackWord_some (s : State) (core n p w : Nat) (bad : Bool) :
    (∀ m d, (s.setTrackWord core n (some p) w bad).ctx m d = s.ctx m d) ∧
    (∀ k, (s.setTrackWord core n (some p) w bad).track core k = s.track core k) ∧
    (∀ k, ((s.setTrackWord core n (some p) w bad).core core).words.get k 0 =
      if k = 1024 * n + p then BitVec.ofNat 32 w else (s.core core).words.get k 0) ∧
    MemKept s (s.setTrackWord core n (some p) w bad) ∧ (s.setTrackWord core n (some p) w bad).clk = s.clk ∧
    (s.setTrackWord core n (some p) w bad).cur = s.cur := by
  refine ⟨fun m d => ?_, fun k => ?_, fun k => ?_, .of_eq rfl rfl rfl rfl, rfl, rfl⟩
  · show (s.modCore core _).ctx m d = _
    rw [State.ctx_modCore]
    split
    · subst_vars; rfl
    · rfl
  · show Core.track ((s.modCore core _).core core) k = _
    rw [State.core_modCore, if_pos rfl]
    rfl
  · show Assoc.get ((s.modCore core _).core core).words k 0 = _
    rw [State.core_modCore, if_pos rfl]
    exact Assoc.get_set ..

/-! Accesses of one track (R332). -/

section Complete
variable {s : State} {core n p : Nat} {op : TrkOp} {rest : List TrkOp} {step dn : Bool} (hq : (s.track core n).queue = op :: rest)
  (hs : (s.track core n).started = true) (hpos : trackPos op.port op.head (s.track core n).slip = some p)
include hq hs hpos

theorem State.accessComplete_read (ha : op.act = .read step dn) (hb : (s.core core).badWords.contains (1024 * n + p) = false) :
    s.accessComplete core n =
      (s.finishAccess core n op step dn).trackDone core op [(0, ((s.core core).words.get (1024 * n + p) 0).toNat)] := by
  unfold State.accessComplete
  simp only [hq, hs, ha, hpos, State.trackWord, hb]
  rfl

theorem State.accessComplete_read_bad (ha : op.act = .read step dn) (hb : (s.core core).badWords.contains (1024 * n + p) = true) :
    s.accessComplete core n = s.trackFail core n n cTRKECC op := by
  unfold State.accessComplete
  simp only [hq, hs, ha, hpos, State.trackWord, hb]
  rfl

theorem State.accessComplete_write {v : Nat} (ha : op.act = .write step dn v) : s.accessComplete core n =
    ((s.setTrackWord core n (some p) v false).finishAccess core n op step dn).trackDone core op [] := by
  unfold State.accessComplete
  simp only [hq, hs, ha, hpos]
  rfl

end Complete

/-! What the completion of an access of one track leaves: its values delivered, its queue popped, its step begun. -/

section Completion
variable {s : State} {core n since ph : Nat} {op : TrkOp} (step dn : Bool) (got : List (Nat × Nat))
  (hb : (s.ctx core op.ctx).block = some ⟨.track n op.id, since, ph⟩) (hs : (s.ctx core op.ctx).statBit bSTEP = false)
include hb hs

/-- The facts of `trackDone` in the state that `finishAccess` leaves. -/
theorem State.finished_held : ((s.finishAccess core n op step dn).ctx core op.ctx).block = some ⟨.track n op.id, since, ph⟩ ∧
    ((s.finishAccess core n op step dn).ctx core op.ctx).statBit bSTEP = false := by
  have h := (s.finishAccess_frame core n op step dn).ctx core op.ctx
  exact ⟨h.block.trans hb, (h.statBit _).trans hs⟩

theorem State.track_completion (k : Nat) : ((s.finishAccess core n op step dn).trackDone core op got).track core k =
    (s.finishAccess core n op step dn).track core k := by
  obtain ⟨hb', hs'⟩ := State.finished_held step dn hb hs
  rw [(State.trackDone_as got hb' hs').track core k, State.delivered, State.track_setCtx]

theorem State.completion_at : AtTrack core n s ((s.finishAccess core n op step dn).trackDone core op got) := by
  obtain ⟨hb', hs'⟩ := State.finished_held step dn hb hs
  have hf := s.finishAccess_at core n op step dn
  have hd : MemKept (s.finishAccess core n op step dn) ((s.finishAccess core n op step dn).delivered core op got) :=
    .of_eq rfl rfl rfl rfl
  exact ⟨fun k hk => (State.track_completion step dn got hb hs k).trans (hf.others k hk),
    hf.mem.trans (hd.trans (State.trackDone_as got hb' hs').memKept)⟩

/-- The context completes its instruction. -/
theorem State.completion_ctx : (((s.finishAccess core n op step dn).trackDone core op got).ctx core op.ctx).block = none ∧
    (((s.finishAccess core n op step dn).trackDone core op got).ctx core op.ctx).pc =
      ((s.ctx core op.ctx).loopEnd ((s.ctx core op.ctx).pc + BitVec.ofNat 64 op.len) 5).pc := by
  obtain ⟨hb', hs'⟩ := State.finished_held step dn hb hs
  have hc := (s.finishAccess_frame core n op step dn).ctx core op.ctx
  have hr := (State.trackDone_of_held got hb' hs').2
  exact ⟨hr.block, hr.pc.trans (by rw [hc.loopEnd, hc.pc])⟩

theorem State.completion_words : (((s.finishAccess core n op step dn).trackDone core op got).core core).words = (s.core core).words := by
  obtain ⟨hb', hs'⟩ := State.finished_held step dn hb hs
  obtain ⟨_, hd⟩ := (s.finishAccess core n op step dn).core_setCtx_eq core op.ctx core
    (((s.finishAccess core n op step dn).ctx core op.ctx).deliver op.dst got)
  rw [((State.trackDone_as got hb' hs').tracks core).2, State.delivered, hd]
  exact ((s.finishAccess_frame core n op step dn).words core).1

/-- Its scalars are those of the context with the values delivered. -/
theorem State.completion_sreg (r : Nat) : (((s.finishAccess core n op step dn).trackDone core op got).ctx core op.ctx).sreg r =
    (((s.finishAccess core n op step dn).ctx core op.ctx).deliver op.dst got).sreg r := by
  obtain ⟨hb', hs'⟩ := State.finished_held step dn hb hs
  rw [(State.trackDone_as got hb' hs').me.sreg, State.delivered, State.ctx_setCtx_self]

end Completion

/-- A scalar delivered as an unsigned word. -/
theorem Ctx.sreg_deliver_scalar (x : Ctx) (d v r n : Nat) :
    (x.deliver (.scalar d n false) [(0, v)]).sreg r = if r = d ∧ r ≠ 0 then BitVec.ofNat 64 v else x.sreg r := by
  show (x.setS d (BitVec.ofNat 64 v)).sreg r = _
  rw [Ctx.sreg_setS]
  by_cases h : r = d
  · subst h; rfl
  · simp [h]

/-! Failed accesses (R60, R62). -/

/-- One track's part in taking an access off the queues. -/
def State.popFrom (s : State) (core : Nat) (op : TrkOp) (u : Nat) : State :=
  let s := s.settle core u
  let tr := s.track core u
  if (tr.queue.head?.map (·.id)) == some op.id then
    let s := s.cancel (.trackRealignmentDone core u)
    (s.modTrack core u fun tr => { tr with queue := tr.queue.drop 1, started := false, probe := none }).kickTrack core u
  else s.modTrack core u fun tr => { tr with queue := tr.queue.filter (·.id != op.id) }

theorem State.popAccess_eq (s : State) (core t : Nat) (op : TrkOp) :
    s.popAccess core t op = (op.act.tracks t).foldl (fun s u => s.popFrom core op u) s := rfl

/-- It settles the track, and changes no context beyond what that charges. -/
theorem State.popFrom_of_settled (s : State) (core : Nat) (op : TrkOp) (u : Nat) :
    TrackFrame (· = ·) (s.popFrom core op u) (s.settle core u) := by
  unfold State.popFrom
  dsimp only
  split
  · exact (State.kickTrack_frame _ _ _).transEq ((State.modTrack_frame _ _ _ _).transEq (State.cancel_frame _ _))
  · exact State.modTrack_frame _ _ _ _

theorem State.popFrom_frame (s : State) (core : Nat) (op : TrkOp) (u : Nat) : TrackFrame CtxCharged (s.popFrom core op u) s :=
  (s.popFrom_of_settled core op u).charged.transCharged (s.settle_frame core u)

theorem State.track_popFrom_ne (s : State) (core : Nat) (op : TrkOp) {u k : Nat} (h : k ≠ u) :
    (s.popFrom core op u).track core k = s.track core k := by
  unfold State.popFrom
  dsimp only
  split
  · rw [State.track_kickTrack, State.track_modTrack_ne _ _ _ h, State.track_cancel, s.track_settle_ne core h]
  · rw [State.track_modTrack_ne _ _ _ h, s.track_settle_ne core h]

/-- The trap of a context at level 0 or 1 saves its cause and its pc (R416). -/
theorem State.enterTrap_regs (s : State) (core c cause : Nat) (tval ret : Word) (h : (s.ctx core c).tlvl < 2) :
    ∃ y, s.enterTrap core c cause tval ret = s.setCtx core c y ∧
      y.srGet (rTCAUSE ((s.ctx core c).tlvl + 1)) = BitVec.ofNat 64 cause ∧ y.srGet (rTRET ((s.ctx core c).tlvl + 1)) = ret := by
  unfold State.enterTrap
  dsimp only
  rw [if_neg (by omega)]
  refine ⟨_, rfl, ?_, ?_⟩
  · show Ctx.srGet (Ctx.setTlvl _ _) _ = _
    unfold Ctx.setTlvl
    rcases (by omega : (s.ctx core c).tlvl = 0 ∨ (s.ctx core c).tlvl = 1) with h | h <;> rw [h] <;>
      simp [Ctx.srGet_srSet, Ctx.setStat, rTCAUSE, rTRET, rTVAL, rPFXHn, rSTAT]
  · show Ctx.srGet (Ctx.setTlvl _ _) _ = _
    unfold Ctx.setTlvl
    rcases (by omega : (s.ctx core c).tlvl = 0 ∨ (s.ctx core c).tlvl = 1) with h | h <;> rw [h] <;>
      simp [Ctx.srGet_srSet, Ctx.setStat, rTCAUSE, rTRET, rTVAL, rPFXHn, rSTAT]

section Fail
variable {s : State} {core n code since ph : Nat} {op : TrkOp} (ht : op.act.tracks n = [n]) (he : op.eng = none)
  (hb : (s.ctx core op.ctx).block = some ⟨.track n op.id, since, ph⟩) (hl : (s.ctx core op.ctx).tlvl < 2)
include ht he hb hl

/-- An access of one track that fails traps its context at its instruction, with the architected head as before its issue. -/
theorem State.trackFail_traps : let t := s.trackFail core n n code op
    (t.ctx core op.ctx).srGet (rTCAUSE ((s.ctx core op.ctx).tlvl + 1)) = BitVec.ofNat 64 (causeWord code false 0 0 0 0) ∧
    (t.ctx core op.ctx).srGet (rTRET ((s.ctx core op.ctx).tlvl + 1)) = (s.ctx core op.ctx).pc ∧ (t.track core n).head = op.head ∧
    AtTrack core n s t := by
  let u := (s.popFrom core op n).modTrack core n fun tr => { tr with head := op.head }
  have hf : TrackFrame CtxCharged u s := (State.modTrack_frame _ _ _ _).charged.transCharged (s.popFrom_frame core op n)
  have hx := hf.ctx core op.ctx
  obtain ⟨y, hy, hcause, hret⟩ := u.enterTrap_regs core op.ctx (causeWord code false 0 0 0 0)
    (BitVec.ofNat 64 (trkVal u core n)) (u.ctx core op.ctx).pc (by rw [hx.tlvl]; exact hl)
  have heq : s.trackFail core n n code op = u.setCtx core op.ctx y := by
    rw [← hy]
    have hub : (((s.popFrom core op n).modTrack core n fun tr => { tr with head := op.head }).ctx core op.ctx).block =
        some ⟨.track n op.id, since, ph⟩ := hx.block.trans hb
    unfold State.trackFail
    rw [State.popAccess_eq, ht]
    simp only [he, List.foldl_cons, List.foldl_nil, hub, beq_self_eq_true, if_true]
    rfl
  rw [hx.tlvl] at hcause hret
  dsimp only
  rw [heq, State.ctx_setCtx_self]
  refine ⟨hcause, hret.trans hx.pc, ?_, ?_⟩
  · rw [State.track_setCtx, State.track_modTrack_self]
  · have hm : MemKept u (u.setCtx core op.ctx y) := .of_eq rfl rfl rfl rfl
    refine ⟨fun k hk => ?_, hf.memKept.trans hm⟩
    rw [State.track_setCtx, State.track_modTrack_ne _ _ _ hk, s.track_popFrom_ne core op hk]

end Fail

/-! The window of R59. -/

/-- The tracks' counts begin anew (R59). -/
def Core.clearCounts (k : Core) : Core := { k with tracks := k.tracks.map fun (t : Nat × Track) => (t.1, { t.2 with count := 0 }) }

/-- Values replaced one for one, the default by itself. -/
theorem Assoc.get_map_values {α β : Type} (m : Assoc α) (g : α → β) (k : Nat) (d : α) :
    Assoc.get (m.map fun e => (e.1, g e.2)) k (g d) = g (Assoc.get m k d) := by
  induction m with
  | nil => rfl
  | cons e m ih =>
    obtain ⟨j, v⟩ := e
    rw [List.map_cons, Assoc.get_cons, Assoc.get_cons, ih]
    split <;> rfl

/-- The counts of tracks, tiles, stacks and rows begun anew. -/
def State.countsCleared (s : State) : State :=
  { s with cores := s.cores.map fun (e : Nat × Core) => (e.1, e.2.clearCounts), tileErr := [], winErr := [], rowErr := [] }

/-- The state after SHIFT_WINDOW_CLEAR. -/
def State.windowCleared (s : State) : State := s.countsCleared.atBoundary 10000000 0 .shiftWindowClear

theorem exec_shiftWindowClear (s : State) :
    exec Event.shiftWindowClear.instr (s.onEvent .shiftWindowClear) = .next (s.onEvent .shiftWindowClear).windowCleared := rfl

theorem State.core_windowCleared (s : State) (m : Nat) : s.windowCleared.core m = (s.core m).clearCounts :=
  Assoc.get_map_values s.cores Core.clearCounts m Core.reset

theorem State.count_windowCleared (s : State) (m k : Nat) : (s.windowCleared.track m k).count = 0 := by
  unfold State.track
  rw [State.core_windowCleared]
  exact congrArg Track.count (Assoc.get_map_values (s.core m).tracks (fun t => { t with count := 0 }) k Track.reset)

theorem State.ctx_windowCleared (s : State) (m c : Nat) : s.windowCleared.ctx m c = s.ctx m c := by
  unfold State.ctx
  rw [State.core_windowCleared]
  rfl

theorem State.clk_le_nextBoundary (s : State) (p : Nat) (hp : 0 < p) : s.clk ≤ s.nextBoundary p := by
  unfold State.nextBoundary
  dsimp only
  split <;> omega

/-- The next window's end is due at the next boundary. -/
theorem State.mem_due_windowCleared (s : State) : (s.nextBoundary 10000000, Event.shiftWindowClear) ∈ s.windowCleared.due := by
  have h := s.clk_le_nextBoundary 10000000 (by decide)
  have hm := s.countsCleared.mem_due_later (s.nextBoundary 10000000 + 0 - s.clk) .shiftWindowClear
  rwa [show s.countsCleared.clk + (s.nextBoundary 10000000 + 0 - s.clk) = s.nextBoundary 10000000 from
    (by omega : s.clk + (s.nextBoundary 10000000 + 0 - s.clk) = s.nextBoundary 10000000)] at hm

theorem happens_shiftWindowClear (s : State) : Happens .shiftWindowClear s fun t => (∀ m k, (t.track m k).count = 0) ∧ t.rowErr = [] ∧
    (s.nextBoundary 10000000, Event.shiftWindowClear) ∈ t.due ∧ (∀ m c, t.ctx m c = s.ctx m c) ∧ MemKept s t :=
  happens_next (exec_shiftWindowClear s) ⟨State.count_windowCleared _, rfl, State.mem_due_windowCleared _,
    State.ctx_windowCleared _, .of_eq rfl rfl rfl rfl⟩

/-! The statement's parts. -/

/-- The start of an access, in each of its cases (R48, R57). -/
theorem happens_trackAccessStart (s : State) (core n : Nat) (op : TrkOp) (rest : List TrkOp)
    (hq : (s.track core n).queue = op :: rest) (hs : (s.track core n).started = false) (hm : (s.track core n).motion = none)
    (hp : (s.track core n).probe = none) :
    let tr := s.track core n
    let after (P : State → Prop) : Prop := Happens (.trackAccessStart core n) s fun t =>
      P t ∧ (∀ k, k ≠ n → t.track core k = s.track core k) ∧ MemKept s t
    (op.act = .seek → after fun t =>
      (t.track core n).queue = rest ∧ (t.track core n).motion = some ⟨tr.phys, op.head, s.clk, 0, op.ctx, false, false⟩) ∧
    (op.act ≠ .seek → tr.unseat = true ∨ tr.phys ≠ op.head → after fun t =>
      (t.track core n).queue = tr.queue ∧ (t.track core n).motion = some ⟨tr.phys, op.head, s.clk, 0, op.ctx, false, false⟩) ∧
    (op.act ≠ .seek → tr.unseat = false → tr.phys = op.head →
      (∀ p ∈ [((1 : Int), (-1 : Int), 3, 8), (-1, 1, 1, 3), (2, -2, 10, 24), (-2, 2, 6, 15), (3, -3, 21, 48), (-3, 3, 15, 35)],
        (tr.slip - p.1) % 8 = 0 → after fun t =>
          (t.track core n).probe = some ⟨p.2.2.1, p.2.1, false, s.clk, 0⟩ ∧ (t.track core n).queue = tr.queue ∧
          (s.clk + p.2.2.2, Event.trackRealignmentDone core n) ∈ t.due) ∧
      (tr.slip % 8 = 4 → after fun t =>
        (t.track core n).probe = some ⟨24, 0, true, s.clk, 0⟩ ∧ (s.clk + 54, Event.trackRealignmentDone core n) ∈ t.due) ∧
      (tr.slip % 8 = 0 → op.act.tracks n = [n] → (s.core core).portAt ≤ s.clk → after fun t =>
        (t.track core n).started = true ∧ (t.core core).portAt = s.clk + 1 ∧
        (s.clk + 3, Event.trackAccessComplete core n) ∈ t.due)) := by
  intro tr after
  let u := s.onEvent (.trackAccessStart core n)
  have happ {t : State} {P : State → Prop} (h : u.accessStart core n = t) (hP : P t) (ha : AtTrack core n u t) : after P :=
    happens_atTrack ((exec_trackAccessStart s core n).trans (congrArg _ h)) hP ha
  refine ⟨fun ha => ?_, fun ha hu => ?_, fun ha hu hh => ⟨fun p hmem hz => ?_, fun hz => ?_, fun hz ht hport => ?_⟩⟩
  · refine happ (State.accessStart_seek (s := u) hq hs hm hp ha) ?_ ((u.modTrack_at core n _).trans (State.move_at ..))
    rw [State.move_of_still _ _ _ (by rw [State.track_modTrack_self]; exact hm) (.inl (by rw [State.track_modTrack_self]; exact hp)),
      State.track_modTrack_self]
    exact ⟨congrArg (List.drop 1) hq, rfl⟩
  · refine happ (State.accessStart_reseek (s := u) hq hs hm hp ha hu) ?_ (State.move_at ..)
    rw [State.move_of_still (s := u) _ _ _ hm (.inl hp)]
    exact ⟨rfl, rfl⟩
  · obtain ⟨hn, hprobe⟩ := probeOf_of_match tr.slip p hmem hz
    have h := State.accessStart_slipped (s := u) hq hs hm hp ha hu hh hn
    rw [show (u.track core n).slip = tr.slip from rfl, hprobe] at h
    refine happ h ⟨?_, ?_, State.mem_due_beginProbe ..⟩ (State.beginProbe_at ..) <;> rw [State.track_beginProbe] <;> rfl
  · have h := State.accessStart_slipped (s := u) hq hs hm hp ha hu hh (by rw [show (u.track core n).slip = tr.slip from rfl]; omega)
    rw [show (u.track core n).slip = tr.slip from rfl, probeOf_four _ hz] at h
    refine happ h ⟨?_, State.mem_due_beginProbe ..⟩ (State.beginProbe_at ..)
    rw [State.track_beginProbe]
    rfl
  · refine happ (State.accessStart_one (s := u) hq hs hm hp ha hu hh hz ht hport) ⟨?_, ?_, State.mem_due_later ..⟩
      (((u.modTrack_at core n _).trans (State.takePort_at ..)).trans (State.later_at ..))
    · rw [State.track_later, State.track_takePort, State.track_modTrack_self]
    · exact State.portAt_takePort (u.modTrack core n _) core

/-- The completion of a context's access of one track (R62, R332). -/
theorem happens_trackAccessComplete (s : State) (core n : Nat) (op : TrkOp) (rest : List TrkOp) (since ph p : Nat)
    (hq : (s.track core n).queue = op :: rest) (hs : (s.track core n).started = true) (he : op.eng = none)
    (hb : (s.ctx core op.ctx).block = some ⟨.track n op.id, since, ph⟩) (hstep : (s.ctx core op.ctx).statBit bSTEP = false)
    (hpos : 256 * op.port + op.head + (s.track core n).slip = (p : Int)) (hp : p < 1024) :
    let tr := s.track core n
    let after (P : State → Prop) : Prop := Happens (.trackAccessComplete core n) s fun t =>
      P t ∧ (∀ k, k ≠ n → t.track core k = s.track core k) ∧ MemKept s t
    let x := s.ctx core op.ctx
    let w := (s.core core).words.get (1024 * n + p) 0
    let completes (t : State) : Prop :=
      (t.track core n).queue = rest ∧ (t.track core n).head = tr.head ∧ (t.track core n).started = false ∧
      (t.ctx core op.ctx).block = none ∧ (t.ctx core op.ctx).pc = (x.loopEnd (x.pc + BitVec.ofNat 64 op.len) 5).pc
    let moves (step dn : Bool) (t : State) : Prop :=
      let h := if dn then op.head - 1 else min 255 (op.head + 1)
      tr.motion = none → (t.track core n).motion =
        if step = true ∧ h ≠ op.head then some ⟨tr.phys, h, s.clk, 0, op.ctx, true, false⟩ else none
    (∀ step dn d, op.act = .read step dn → op.dst = .scalar d 4 false →
      (s.core core).badWords.contains (1024 * n + p) = false → after fun t =>
        completes t ∧ moves step dn t ∧ (t.core core).words = (s.core core).words ∧
        ∀ r, (t.ctx core op.ctx).sreg r = if r = d ∧ r ≠ 0 then w.setWidth 64 else x.sreg r) ∧
    (∀ step dn, op.act = .read step dn → (s.core core).badWords.contains (1024 * n + p) = true → x.tlvl < 2 →
      after fun t =>
        (t.ctx core op.ctx).srGet (rTCAUSE (x.tlvl + 1)) = BitVec.ofNat 64 (causeWord cTRKECC false 0 0 0 0) ∧
        (t.ctx core op.ctx).srGet (rTRET (x.tlvl + 1)) = x.pc ∧ (t.track core n).head = op.head) ∧
    (∀ step dn v, op.act = .write step dn v → op.dst = .none → after fun t =>
      completes t ∧ moves step dn t ∧ (∀ r, (t.ctx core op.ctx).sreg r = x.sreg r) ∧
      ∀ k, (t.core core).words.get k 0 = if k = 1024 * n + p then BitVec.ofNat 32 v else (s.core core).words.get k 0) := by
  intro tr after x w completes moves
  let u := s.onEvent (.trackAccessComplete core n)
  have hplace : trackPos op.port op.head (u.track core n).slip = some p := trackPos_of_eq hpos hp
  have happ {t : State} {P : State → Prop} (h : u.accessComplete core n = t) (hP : P t) (ha : AtTrack core n u t) : after P :=
    happens_atTrack ((exec_trackAccessComplete s core n).trans (congrArg _ h)) hP ha
  -- What both accesses leave, from a state `v` that has the contexts and the tracks of `s`.
  have hdone (v : State) (hvx : v.ctx core op.ctx = x) (hvt : v.track core n = tr) (hvc : v.clk = s.clk) (step dn : Bool)
      (got : List (Nat × Nat)) : completes ((v.finishAccess core n op step dn).trackDone core op got) ∧
        moves step dn ((v.finishAccess core n op step dn).trackDone core op got) := by
    have hvb : (v.ctx core op.ctx).block = some ⟨.track n op.id, since, ph⟩ := by rw [hvx]; exact hb
    have hvs : (v.ctx core op.ctx).statBit bSTEP = false := by rw [hvx]; exact hstep
    have htrack := State.track_completion step dn got hvb hvs n
    obtain ⟨hblock, hpc⟩ := State.completion_ctx step dn got hvb hvs
    obtain ⟨_, _, _, _, hset⟩ := v.track_finishAccess core n op step dn
    refine ⟨⟨?_, ?_, ?_, hblock, by rw [hpc, hvx]⟩, fun hm => ?_⟩
    · rw [htrack, hset, hvt]; exact congrArg (List.drop 1) hq
    · rw [htrack, hset, hvt]
    · rw [htrack, hset]
    · rw [htrack, State.finishAccess_motion op step dn (by rw [hvt]; exact hm), hvt, hvc]
      rfl
  refine ⟨fun step dn d ha hdst hbad => ?_, fun step dn ha hbad hl => ?_, fun step dn v ha hdst => ?_⟩
  · obtain ⟨hc, hm⟩ := hdone u rfl rfl rfl step dn [(0, w.toNat)]
    refine happ (State.accessComplete_read (s := u) hq hs hplace ha hbad) ⟨hc, hm, ?_, fun r => ?_⟩
      (State.completion_at (s := u) step dn _ hb hstep)
    · exact State.completion_words (s := u) step dn _ hb hstep
    · rw [State.completion_sreg (s := u) step dn _ hb hstep, hdst, Ctx.sreg_deliver_scalar,
        ((u.finishAccess_frame core n op step dn).ctx core op.ctx).sreg, BitVec.ofNat_toNat]
      rfl
  · have ht : op.act.tracks n = [n] := by rw [ha]; rfl
    obtain ⟨hcause, hret, hhead, hat⟩ := State.trackFail_traps (s := u) (code := cTRKECC) ht he hb hl
    exact happ (State.accessComplete_read_bad (s := u) hq hs hplace ha hbad) ⟨hcause, hret, hhead⟩ hat
  · obtain ⟨hctx, htr, hwords, hmem, hclk, _⟩ := u.setTrackWord_some core n p v false
    obtain ⟨hc, hm⟩ := hdone (u.setTrackWord core n (some p) v false) (hctx _ _) (htr _) hclk step dn []
    have hvb : ((u.setTrackWord core n (some p) v false).ctx core op.ctx).block = some ⟨.track n op.id, since, ph⟩ := by
      rw [hctx]; exact hb
    have hvs : ((u.setTrackWord core n (some p) v false).ctx core op.ctx).statBit bSTEP = false := by rw [hctx]; exact hstep
    have hat : AtTrack core n u (u.setTrackWord core n (some p) v false) := ⟨fun k _ => htr k, hmem⟩
    refine happ (State.accessComplete_write (s := u) hq hs hplace ha) ⟨hc, hm, fun r => ?_, fun k => ?_⟩
      (hat.trans (State.completion_at step dn _ hvb hvs))
    · rw [State.completion_sreg step dn _ hvb hvs, hdst]
      show Ctx.sreg (State.ctx _ _ _) r = _
      rw [((State.finishAccess_frame _ core n op step dn).ctx core op.ctx).sreg, hctx]
      rfl
    · rw [State.completion_words step dn _ hvb hvs, hwords]
      rfl

/-- Settles O32: each event's meaning as one operation on its track, and the frame of charges, moves and completions around it. -/
theorem trackEvents : Obligations.TrackEvents := by
  unfold Obligations.TrackEvents
  refine fun s core n => ⟨fun m hm hd ha => ?_, fun op rest hq hs hm hp => happens_trackAccessStart s core n op rest hq hs hm hp,
    fun op rest p hq hp hf => ?_, fun op rest since ph p hq hs he hb hstep hpos hp =>
      happens_trackAccessComplete s core n op rest since ph p hq hs he hb hstep hpos hp, happens_shiftWindowClear s⟩
  · let u := s.onEvent (.trackMotionEnd core n)
    refine happens_atTrack (exec_trackMotionEnd s core n) ?_ (State.motionEnd_at (s := u) hm ha)
    have hend : u.motionEnd core n = (u.settle core n).kickTrack core n := State.motionEnd_of_arrived (s := u) hm ha
    have hkick := (u.settle core n).kickTrack_frame core n
    refine ⟨?_, ?_, ?_⟩
    · show (u.motionEnd core n).track core n = _
      rw [hend, State.track_kickTrack, State.track_settle_of_arrived (s := u) hm ha]
      rfl
    · show ((u.motionEnd core n).ctx core m.ctx).srGet rSHCHG = _
      rw [hend, hkick.ctx, State.settle_of_arrived_shchg (s := u) hm ha hd]
      rfl
    · show ((u.motionEnd core n).core core).words = _
      rw [hend, (hkick.words core).1, ((u.settle_frame core n).words core).1]
      rfl
  · let u := s.onEvent (.trackRealignmentDone core n)
    obtain ⟨⟨su, ht⟩, ho⟩ := State.realignmentDone_track (s := u) hq hp hf
    refine happens_atTrack (exec_trackRealignmentDone s core n) ?_ (.of_frame (State.realignmentDone_frame (s := u) hq hp hf) ho)
    exact ⟨congrArg Track.slip ht, congrArg Track.count ht, congrArg Track.probe ht, (congrArg Track.queue ht).trans rfl,
      (congrArg Track.head ht).trans rfl, State.realignmentDone_shchg (s := u) hq hp hf⟩

end Sys2Proof.Machine
end

section
/-! SUPPORT. Instructions on tracks at their issue: those that complete at once, those that are held at their access, and the frame of
both about the settled state (R48, R51, R53). -/
namespace Sys2Proof.Machine

/-! The state that an instruction on a track sees: the motions of its core charged up to this cycle (R51). -/

/-- The acting core's motions and probings brought up to the present cycle. -/
def State.settleMine (s : State) : State := s.settleAll s.cur.core

theorem State.settleMine_frame (s : State) : TrackFrame CtxCharged s.settleMine s := s.settleAll_frame _

theorem State.settleMine_chargedTo (s : State) (n : Nat) : (s.settleMine.track s.cur.core n).chargedTo s.settleMine.clk := by
  rw [s.settleMine_frame.clk]
  exact s.chargedTo_settleAll _ n

/-- The acting context may act on a track of its settled core (R53). -/
def State.owns (s : State) (n : Nat) : Prop := s.settleMine.ownsTrack s.cur.core s.cur.ctx n false = true

theorem ownedTrack_owned {o : Operand} {body : State → Res} {s : State} (h : s.owns o.num) : ownedTrack o body s = body s.settleMine := by
  unfold ownedTrack
  dsimp only
  rw [s.settleAll_frame s.cur.core |>.cur]
  exact if_pos h

theorem ownedTrack_notOwned {o : Operand} {body : State → Res} {s : State}
    (h : s.settleMine.ownsTrack s.cur.core s.cur.ctx o.num false = false) :
    ownedTrack o body s = .fault s.settleMine cTRKOWN (trkVal s.settleMine s.cur.core o.num) := by
  unfold ownedTrack
  dsimp only
  rw [s.settleAll_frame s.cur.core |>.cur]
  exact if_neg (by rw [Bool.not_eq_true]; exact h)

/-- An instruction of a context that does not own the track raises TRKOWN (R53). -/
theorem exec_notOwned {i : Instr} {f : Form} {cost : Nat} {o : Operand} {body access : State → Res} {s : State} (h : Runs f cost s)
    (he : exec i s = issueCost f cost body s) (hb : body s = ownedTrack o access s)
    (ho : s.settleMine.ownsTrack s.cur.core s.cur.ctx o.num false = false) (hl : s.me.loads = []) :
    exec i s = .next (s.settleMine.enterTrap s.cur.core s.cur.ctx (causeWord cTRKOWN false 0 0 0 0)
      (BitVec.ofNat 64 (o.num + 256 * (s.settleMine.track s.cur.core o.num).head)) s.me.pc) := by
  rw [he]
  unfold issueCost
  rw [issueWith_fault h hl _ _ _ _ (hb.trans (ownedTrack_notOwned ho))]
  rfl

/-! States that differ in the work on tracks alone. -/

/-- Two states with the same contexts, track words and memory. -/
structure SameContexts (t s : State) : Prop where
  cur : t.cur = s.cur
  clk : t.clk = s.clk
  ctx : ∀ m d, t.ctx m d = s.ctx m d
  words : ∀ m, (t.core m).words = (s.core m).words ∧ (t.core m).badWords = (s.core m).badWords
  mem : MemKept s t

theorem SameContexts.refl (s : State) : SameContexts s s := ⟨rfl, rfl, fun _ _ => rfl, fun _ => ⟨rfl, rfl⟩, .refl s⟩

theorem SameContexts.trans {s t u : State} (h : SameContexts u t) (g : SameContexts t s) : SameContexts u s where
  cur := h.cur.trans g.cur
  clk := h.clk.trans g.clk
  ctx m d := (h.ctx m d).trans (g.ctx m d)
  words m := ⟨(h.words m).1.trans (g.words m).1, (h.words m).2.trans (g.words m).2⟩
  mem := g.mem.trans h.mem

theorem SameContexts.me {s t : State} (h : SameContexts t s) : t.me = s.me := by rw [State.me_eq h.cur]; exact h.ctx _ _

theorem TrackFrame.sameContexts {s t : State} (h : TrackFrame (· = ·) t s) : SameContexts t s :=
  ⟨h.cur, h.clk, h.ctx, h.words, h.memKept⟩

theorem State.onEvent_sameContexts (s : State) (e : Event) : SameContexts (s.onEvent e) s :=
  ⟨rfl, rfl, fun _ _ => rfl, fun _ => ⟨rfl, rfl⟩, .of_eq rfl rfl rfl rfl⟩

theorem State.fresh_sameContexts (s : State) : SameContexts s.fresh.2 s :=
  ⟨rfl, rfl, fun _ _ => rfl, fun _ => ⟨rfl, rfl⟩, .of_eq rfl rfl rfl rfl⟩

theorem State.takePort_sameContexts (s : State) (core : Nat) : SameContexts (s.takePort core) s := by
  refine ⟨rfl, rfl, s.ctx_takePort core, fun m => ?_, .of_eq rfl rfl rfl rfl⟩
  obtain ⟨_, h⟩ := s.core_takePort core m
  rw [h]
  exact ⟨rfl, rfl⟩

/-! Instructions that complete at once. -/

/-- The completion of an instruction is made in the acting context, whatever state the frame's equations speak of. -/
theorem State.after_of_cur {s u : State} (h : u.cur = s.cur) (cost : Nat) (warns : Bool) (npc : Word) (t : State) :
    s.after cost warns npc t = u.after cost warns npc t := by unfold State.after; rw [h]

/-- An instruction outside the vector majors whose body completes in `t`, the registers of `w` apart as the settled state `u` has
them. -/
theorem gives_done_settled {i : Instr} {f : Form} {cost : Nat} {s u t : State} {w : May} {body : State → Res} (h : Runs f cost s)
    (he : exec i s = issueCost f cost body s) (hb : body s = .done t) (hu : TrackFrame CtxCharged u s) (hc : t.cur = u.cur)
    (hk : RegsKept w u t) (hsr : ∀ n, t.me.srGet n = u.me.srGet n) :
    Gives i s fun v => StateAs s.cur.core s.cur.ctx v t ∧ CtxAs v.me t.me ∧ RegsKept w u v ∧
      Completed (s.plainWarn f) (s.fall f) s v := by
  have hcs : t.cur = s.cur := hc.trans hu.cur
  have ha := State.after_as s cost (s.plainWarn f) (s.fall f) t hcs
  have hstat : ∀ i, t.me.statBit i = s.me.statBit i := fun i => (Ctx.statBit_of_sr (hsr _) i).trans (hu.me.statBit i)
  refine ⟨s.after cost (s.plainWarn f) (s.fall f) t, ?_, ha, ?_, ?_, ?_⟩
  · rw [he]
    unfold issueCost
    rw [issueWith_done h (scalarWarn f false) false noReport hb hcs (hstat _)]
    simp [State.plainWarn]
  · rw [State.me_eq (ha.cur.trans hcs), State.me_eq hcs]; exact ha.me
  · rw [State.after_of_cur hu.cur]
    exact State.after_regsKept u cost _ _ t w hc hk
  · exact State.after_completed _ _ _ _ _ hcs (hstat _) fun n _ h2 => (hsr n).trans (hu.me.sr n (by unfold rSHCHG; omega))

/-- The same of an instruction whose work is on tracks alone. -/
theorem gives_done_tracks {i : Instr} {f : Form} {cost : Nat} {s u t : State} {body : State → Res} (h : Runs f cost s)
    (he : exec i s = issueCost f cost body s) (hb : body s = .done t) (hu : TrackFrame CtxCharged u s) (ht : SameContexts t u) :
    Gives i s fun v => (∀ m k, v.track m k = t.track m k) ∧ v.due = t.due ∧
      (∀ m d, ¬(m = s.cur.core ∧ d = s.cur.ctx) → v.ctx m d = u.ctx m d) ∧ MemKept u v ∧ RegsKept {} u v ∧
      Completed (s.plainWarn f) (s.fall f) s v :=
  (gives_done_settled h he hb hu ht.cur (.of_me {} ht.me) fun n => by rw [ht.me]).imp fun v ⟨has, _, hk, hd⟩ =>
    ⟨has.track, has.work.2.2.2, fun m d hn => (has.others m d hn).trans (ht.ctx m d), ht.mem.trans has.memKept, hk, hd⟩

/-- The same of an instruction that writes its scalar destination. -/
theorem gives_done_putS {i : Instr} {f : Form} {cost : Nat} {s u t : State} {w : Word} {body : State → Res} (h : Runs f cost s)
    (he : exec i s = issueCost f cost body s) (hb : body s = .done (t.putS f.d.sreg w)) (hu : TrackFrame CtxCharged u s)
    (ht : SameContexts t u) :
    Gives i s fun v => (∀ m k, v.track m k = t.track m k) ∧ Result f w u v ∧ RegsKept { regs := [f.d.sreg] } u v ∧ MemKept u v ∧
      Completed (s.plainWarn f) (s.fall f) s v ∧ StateAs s.cur.core s.cur.ctx v (t.putS f.d.sreg w) := by
  have hme : (t.putS f.d.sreg w).me = (u.putS f.d.sreg w).me := by
    unfold State.putS
    rw [State.me_modMe, State.me_modMe, ht.me]
  have hkept : RegsKept { regs := [f.d.sreg] } u (t.putS f.d.sreg w) := by
    have hp := (u.putS_kept f.d.sreg w).regs
    constructor <;> rw [hme]
    exacts [hp.scalars, hp.vectors, hp.masks, hp.accs, hp.fmts, hp.slots, hp.srs, hp.stat, hp.signal]
  refine (gives_done_settled h he hb hu ht.cur hkept fun n => ?_).imp fun v ⟨has, hctx, hk, hd⟩ =>
    ⟨fun m k => ?_, fun r => ?_, hk, (ht.mem.trans (t.putS_kept f.d.sreg w).mem).trans has.memKept, hd, has⟩
  · rw [hme]; simp [State.putS]
  · rw [has.track]; exact t.track_setCtx _ _ _ _ _
  · rw [hctx.sreg, hme, State.putS_sreg]
    by_cases hr : r = f.d.sreg
    · subst hr; rfl
    · simp [hr]

/-! Instructions that are held (R48). -/

/-- The acting core's note of who has issued last. -/
def State.noteIssue (s : State) (issues : Bool) : State :=
  if issues then s.modCore s.cur.core fun k => { k with lastCtx := s.cur.ctx } else s

/-- What a hold makes of the context held. -/
def Ctx.heldAt (y : Ctx) (clk : Nat) (w : Wait) (phase : Nat) (warn issues : Bool) : Ctx :=
  { y with block := some ⟨w, (y.block.map (·.since)).getD clk, phase⟩, tryAt := clk + 1, warnHeld := warn,
           lastIssue := if issues then clk else y.lastIssue, st := if w.isWait then .wait else .ready }

theorem State.noteIssue_core (s : State) (issues : Bool) (m : Nat) : ∃ lc, (s.noteIssue issues).core m = { s.core m with lastCtx := lc } := by
  cases issues
  · exact ⟨_, rfl⟩
  · simp only [State.noteIssue, if_true, State.core_modCore]
    split
    · subst_vars; exact ⟨_, rfl⟩
    · exact ⟨_, rfl⟩

@[simp] theorem State.noteIssue_ctx (s : State) (issues : Bool) (m d : Nat) : (s.noteIssue issues).ctx m d = s.ctx m d := by
  obtain ⟨_, h⟩ := s.noteIssue_core issues m
  unfold State.ctx
  rw [h]
  rfl

theorem State.noteIssue_eq (s : State) (issues : Bool) : ∃ cs, s.noteIssue issues = { s with cores := cs } := by
  cases issues <;> exact ⟨_, rfl⟩

/-- A hold sets the course of its context, and its core takes note where the context has issued. -/
theorem State.holdMe_eq (s : State) (w : Wait) (phase : Nat) (warn : Bool) :
    ∃ issues, s.holdMe w phase warn = (s.noteIssue issues).setMe (s.me.heldAt s.clk w phase warn issues) := by
  refine ⟨phase != 0 && (s.me.block.map (·.phase)).getD 0 == 0, ?_⟩
  generalize hb : (phase != 0 && (s.me.block.map (·.phase)).getD 0 == 0) = b
  obtain ⟨_, hn⟩ := s.noteIssue_eq b
  have hme : (s.noteIssue b).me = s.me := by
    rw [State.me_eq (show (s.noteIssue b).cur = s.cur by rw [hn])]
    exact s.noteIssue_ctx b _ _
  have hclk : (s.noteIssue b).clk = s.clk := by rw [hn]
  calc s.holdMe w phase warn = (s.noteIssue b).setMe ((s.noteIssue b).me.heldAt (s.noteIssue b).clk w phase warn b) := by
        rw [← hb]; rfl
    _ = _ := by rw [hme, hclk]

/-! What an instruction that is held has drawn and set in its context. -/

/-- A context that is another held in a wait, its cost drawn. -/
structure HeldCtx (w : Wait) (phase : Nat) (warn : Bool) (y x : Ctx) : Prop where
  as : CtxAs y x
  sr : ∀ n, y.srGet n = x.srGet n
  pc : y.pc = x.pc
  block : ∃ since, y.block = some ⟨w, since, phase⟩
  warnHeld : y.warnHeld = warn

theorem Ctx.heldAt_held (y : Ctx) (clk : Nat) (w : Wait) (phase : Nat) (warn issues : Bool) :
    HeldCtx w phase warn (y.heldAt clk w phase warn issues) y :=
  ⟨⟨rfl, rfl, rfl, rfl, rfl, rfl, rfl, ⟨rfl, rfl, rfl, rfl⟩, fun _ _ => rfl⟩, fun _ => rfl, rfl, ⟨_, rfl⟩, rfl⟩

/-- A state in which the acting context is held in a wait. -/
structure HeldAt (w : Wait) (phase : Nat) (warn : Bool) (v t : State) : Prop where
  eq : ∃ cs od, v = { t with cores := cs, overdraw := od }
  me : HeldCtx w phase warn v.me t.me
  others : ∀ m d, ¬(m = t.cur.core ∧ d = t.cur.ctx) → v.ctx m d = t.ctx m d
  cores : ∀ m, ∃ cs p h lc, v.core m = { t.core m with ctxs := cs, purse := p, hold := h, lastCtx := lc }

namespace HeldAt
variable {w : Wait} {phase : Nat} {warn : Bool} {v t : State} (h : HeldAt w phase warn v t)
include h

theorem cur : v.cur = t.cur := by obtain ⟨⟨_, _, rfl⟩, _⟩ := h; rfl
theorem clk : v.clk = t.clk := by obtain ⟨⟨_, _, rfl⟩, _⟩ := h; rfl
theorem memKept : MemKept t v := by obtain ⟨⟨_, _, rfl⟩, _⟩ := h; exact .of_eq rfl rfl rfl rfl
theorem words (m : Nat) : (v.core m).words = (t.core m).words ∧ (v.core m).badWords = (t.core m).badWords := by
  obtain ⟨_, _, _, _, e⟩ := h.cores m
  rw [e]
  exact ⟨rfl, rfl⟩
theorem ports (m : Nat) : (v.core m).portAt = (t.core m).portAt := by
  obtain ⟨_, _, _, _, e⟩ := h.cores m
  rw [e]
theorem track (m k : Nat) : v.track m k = t.track m k := by
  obtain ⟨_, _, _, _, e⟩ := h.cores m
  unfold State.track
  rw [e]
  rfl

/-- The registers of the context held are those of its state, however far the motions have been charged. -/
theorem regsKept {u : State} (hu : t.me = u.me) (wm : May := {}) : RegsKept wm u v where
  scalars r _ := by rw [h.me.as.sreg, hu]
  vectors r _ := by rw [h.me.as.vreg, hu]
  masks r _ := by rw [h.me.as.mreg, hu]
  accs _ := by rw [h.me.as.acc, h.me.as.accSum, hu]; exact ⟨rfl, rfl⟩
  fmts f _ := by rw [h.me.as.fent, hu]
  slots g _ := by rw [h.me.as.guard, hu]
  srs n _ _ := by rw [h.me.sr, hu]
  stat _ i _ _ := by rw [Ctx.statBit_of_sr (h.me.sr _), hu]
  signal := by rw [h.me.as.signal.1, h.me.as.signal.2.1, h.me.as.signal.2.2.1, h.me.as.signal.2.2.2, hu]; exact ⟨rfl, rfl, rfl, rfl⟩

theorem restKept {u : State} (ht : t = u) : RestKept u v := by
  subst ht
  obtain ⟨⟨_, _, e⟩, _, ho, hc⟩ := h
  refine ⟨by rw [e], by rw [e], ho, fun m => ?_, fun m => ?_, fun m => ?_, by rw [e]; exact ⟨rfl, rfl⟩,
    by rw [e]; exact ⟨rfl, rfl, rfl, rfl⟩⟩ <;>
  obtain ⟨_, _, _, _, e⟩ := hc m <;> rw [e] <;> exact ⟨rfl, rfl⟩

end HeldAt

theorem State.holdMe_held (t : State) (w : Wait) (phase : Nat) (warn : Bool) : HeldAt w phase warn (t.holdMe w phase warn) t := by
  obtain ⟨b, h⟩ := t.holdMe_eq w phase warn
  obtain ⟨_, hn⟩ := t.noteIssue_eq b
  have hcur : (t.noteIssue b).cur = t.cur := by rw [hn]
  have he (u : State) (x : Ctx) : ∃ cs, u.setMe x = { u with cores := cs } := ⟨_, rfl⟩
  obtain ⟨_, he⟩ := he (t.noteIssue b) (t.me.heldAt t.clk w phase warn b)
  rw [h]
  refine ⟨⟨_, t.overdraw, by rw [he, hn]⟩, ?_, fun m d hd => ?_, fun m => ?_⟩
  · rw [State.me_setMe]; exact Ctx.heldAt_held ..
  · unfold State.setMe
    rw [State.ctx_setCtx, if_neg (by rw [hcur]; exact hd), State.noteIssue_ctx]
  · unfold State.setMe
    obtain ⟨_, hs⟩ := (t.noteIssue b).core_setCtx_eq (t.noteIssue b).cur.core (t.noteIssue b).cur.ctx m (t.me.heldAt t.clk w phase warn b)
    obtain ⟨_, hm⟩ := t.noteIssue_core b m
    rw [hs, hm]
    exact ⟨_, _, _, _, rfl⟩

/-- An instruction that is held with its cost drawn. -/
theorem State.paid_held (t : State) (cost : Nat) (w : Wait) (phase : Nat) (warn : Bool) :
    HeldAt w phase warn ((t.payCore t.cur.core t.cur.ctx cost).holdMe w phase warn) t := by
  obtain ⟨cs, od, hp⟩ := t.payCore_eq t.cur.core t.cur.ctx cost
  have hcur : (t.payCore t.cur.core t.cur.ctx cost).cur = t.cur := by rw [hp]
  obtain ⟨⟨_, _, he⟩, ⟨has, hsr, hpc, hb, hw⟩, ho, hcs⟩ := (t.payCore t.cur.core t.cur.ctx cost).holdMe_held w phase warn
  have hme : (t.payCore t.cur.core t.cur.ctx cost).me = (t.payCore t.cur.core t.cur.ctx cost).ctx t.cur.core t.cur.ctx := State.me_eq hcur
  obtain ⟨_, _, hx⟩ := t.payCore_ctx t.cur.core t.cur.ctx cost
  rw [hx] at hme
  refine ⟨⟨_, _, by rw [he, hp]⟩, ⟨?_, fun n => ?_, ?_, hb, hw⟩, fun m d hd => ?_, fun m => ?_⟩
  · refine has.trans ?_
    rw [hme]
    exact ⟨rfl, rfl, rfl, rfl, rfl, rfl, rfl, ⟨rfl, rfl, rfl, rfl⟩, fun _ _ => rfl⟩
  · rw [hsr, hme]; rfl
  · rw [hpc, hme]; rfl
  · rw [ho m d (by rw [hcur]; exact hd)]
    exact (t.payCore_as _ _ cost).others m d hd
  · obtain ⟨_, _, _, _, e⟩ := hcs m
    obtain ⟨_, _, _, e'⟩ := t.payCore_core t.cur.core t.cur.ctx cost m
    rw [e, e']
    exact ⟨_, _, _, _, rfl⟩

/-- An instruction whose body holds it at an access: its cost is drawn, and it is held. -/
theorem gives_hold {i : Instr} {f : Form} {cost : Nat} {s t : State} {w : Wait} {body : State → Res} {warns named : Bool}
    (h : Runs f cost s) (he : exec i s = issueWith f cost warns named false noReport body s) (hb : body s = .hold t w 1)
    (hc : t.cur = s.cur) : Gives i s fun v => HeldAt w 1 (warns || (s.me.statBit bPFX && !named)) v t := by
  refine ⟨(t.payCore t.cur.core t.cur.ctx cost).holdMe w 1 (warns || (s.me.statBit bPFX && !named)), ?_, t.paid_held cost w 1 _⟩
  rw [he, issueWith_runs h, hb]
  simp [hc]

/-- An instruction whose body holds it before it is accepted draws nothing. -/
theorem gives_wait {i : Instr} {f : Form} {cost : Nat} {s t : State} {w : Wait} {body : State → Res}
    (h : Runs f cost s) (he : exec i s = issueCost f cost body s) (hb : body s = .hold t w 0) :
    Gives i s fun v => HeldAt w 0 (s.plainWarn f && w.timesOut) v t := by
  refine ⟨t.holdMe w 0 (s.plainWarn f && w.timesOut), ?_, t.holdMe_held w 0 _⟩
  rw [he]
  unfold issueCost
  rw [issueWith_runs h, hb]
  simp [State.plainWarn]

end Sys2Proof.Machine
end

section
/-! SUPPORT. TSEEK, TREW, THEAD and TSYNC (R331, R333). -/
namespace Sys2Proof.Machine

/-! TSEEK and TREW (R331). -/

/-- A seek waits behind earlier accesses and their steps (R50). -/
def Track.seekWaits (tr : Track) : Prop := tr.queue ≠ [] ∨ ∃ m, tr.motion = some m ∧ m.step = true

/-- What a seek to `a` makes of its track in `u`. -/
structure Sought (n a : Nat) (t u : State) : Prop where
  head : (t.track u.cur.core n).head = a
  moves : ¬(u.track u.cur.core n).seekWaits →
    (t.track u.cur.core n).motion = some ⟨(u.track u.cur.core n).phys, a, u.clk, 0, u.cur.ctx, false, false⟩ ∧
    (t.track u.cur.core n).queue = [] ∧
    (u.clk + 2 * ((a : Int) - (u.track u.cur.core n).phys).natAbs, Event.trackMotionEnd u.cur.core n) ∈ t.due
  waits : (u.track u.cur.core n).seekWaits → (t.track u.cur.core n).motion = (u.track u.cur.core n).motion ∧
    (t.track u.cur.core n).queue = (u.track u.cur.core n).queue ++ [⟨u.nextId, .seek, 0, a, u.cur.ctx, none, .none, 0⟩]
  others : ∀ k, k ≠ n → t.track u.cur.core k = u.track u.cur.core k

theorem Track.seekWaits_iff (tr : Track) : (tr.queue.isEmpty && !tr.motion.any (·.step)) = true ↔ ¬tr.seekWaits := by
  unfold Track.seekWaits
  cases tr.motion <;> simp

/-- The architected head of a track set (R50). -/
def State.setHead (s : State) (core n h : Nat) : State := s.modTrack core n fun tr => { tr with head := h }

theorem State.setHead_frame (s : State) (core n h : Nat) : TrackFrame (· = ·) (s.setHead core n h) s := s.modTrack_frame _ _ _
theorem State.track_setHead (s : State) (core n h : Nat) : (s.setHead core n h).track core n = { s.track core n with head := h } :=
  s.track_modTrack_self ..
theorem State.track_setHead_ne (s : State) (core h : Nat) {n k : Nat} (hk : k ≠ n) : (s.setHead core n h).track core k = s.track core k :=
  s.track_modTrack_ne _ _ hk

/-- The architected head set and, where nothing is before it, the motion begun. -/
theorem seekTo_moves {u : State} {n a : Nat} (hc : (u.track u.cur.core n).chargedTo u.clk)
    (hw : ¬(u.track u.cur.core n).seekWaits) : ∃ t, seekTo n a u = .done t ∧ SameContexts t u ∧ Sought n a t u := by
  have ht := u.track_setHead u.cur.core n a
  have hq : (u.track u.cur.core n).queue = [] := by by_contra hn; exact hw (.inl hn)
  obtain ⟨hf, hmv, hdue⟩ := State.move_of_charged (s := u.setHead u.cur.core n a) a u.cur.ctx false
    (by rw [ht]; exact hc) (fun _ => .inr (by rw [ht]; exact hq))
  rw [ht] at hmv hdue
  refine ⟨(u.setHead u.cur.core n a).move u.cur.core n a u.cur.ctx false, ?_, (hf.transEq (u.setHead_frame _ _ _)).sameContexts,
    by rw [hmv], fun _ => ⟨by rw [hmv]; rfl, by rw [hmv]; exact hq, hdue⟩, fun h => absurd h hw,
    fun k hk => by rw [State.track_move_ne _ _ _ _ _ hk, State.track_setHead_ne _ _ _ hk]⟩
  unfold seekTo
  dsimp only
  rw [State.track_modTrack_self, if_pos ((Track.seekWaits_iff _).mpr hw)]
  rfl

/-- The architected head set and the seek put behind what is before it. -/
theorem seekTo_waits {u : State} {n a : Nat} (hw : (u.track u.cur.core n).seekWaits) :
    ∃ t, seekTo n a u = .done t ∧ SameContexts t u ∧ Sought n a t u := by
  have ht : (u.setHead u.cur.core n a).fresh.2.track u.cur.core n = { u.track u.cur.core n with head := a } := u.track_setHead _ _ _
  have htr : ((u.setHead u.cur.core n a).fresh.2.queueAccess u.cur.core n ⟨u.nextId, .seek, 0, a, u.cur.ctx, none, .none, 0⟩).track u.cur.core n =
      { u.track u.cur.core n with head := a, queue := (u.track u.cur.core n).queue ++ [⟨u.nextId, .seek, 0, a, u.cur.ctx, none, .none, 0⟩] } := by
    rw [State.track_queueAccess, if_pos rfl, ht]
  refine ⟨(u.setHead u.cur.core n a).fresh.2.queueAccess u.cur.core n ⟨u.nextId, .seek, 0, a, u.cur.ctx, none, .none, 0⟩, ?_,
    ((State.queueAccess_frame _ _ _ _).sameContexts.trans (State.fresh_sameContexts _)).trans (u.setHead_frame _ _ _).sameContexts,
    by rw [htr], fun h => absurd hw h, fun _ => ⟨by rw [htr], by rw [htr]⟩, fun k hk => ?_⟩
  · unfold seekTo
    dsimp only
    rw [State.track_modTrack_self, if_neg fun h => (Track.seekWaits_iff _).mp h hw]
    rfl
  · rw [State.track_queueAccess, if_neg hk]
    exact u.track_setHead_ne _ _ hk

theorem seekTo_done {u : State} (n a : Nat) (hc : (u.track u.cur.core n).chargedTo u.clk) :
    ∃ t, seekTo n a u = .done t ∧ SameContexts t u ∧ Sought n a t u := by
  by_cases hw : (u.track u.cur.core n).seekWaits
  · exact seekTo_waits hw
  · exact seekTo_moves hc hw

/-- A seek of an owned track at its issue. -/
theorem gives_seek {i : Instr} {f : Form} {s : State} {n a : Nat} {body : State → Res} (h : Runs f 4 s)
    (he : exec i s = issueCost f 4 body s) (hb : body s = seekTo n a s.settleMine) : Gives i s fun v =>
      Sought n a v s.settleMine ∧ (∀ m d, ¬(m = s.cur.core ∧ d = s.cur.ctx) → v.ctx m d = s.settleMine.ctx m d) ∧
      MemKept s.settleMine v ∧ RegsKept {} s.settleMine v ∧ Completed (s.plainWarn f) (s.fall f) s v := by
  have hu := s.settleMine_frame
  obtain ⟨t, ht, hsame, hs⟩ := seekTo_done (u := s.settleMine) n a (by rw [hu.cur]; exact s.settleMine_chargedTo n)
  refine (gives_done_tracks h he (hb.trans ht) hu hsame).imp fun v ⟨htr, hdue, ho, hm, hk, hd⟩ => ⟨?_, ho, hm, hk, hd⟩
  constructor
  all_goals simp only [htr, hdue]
  exacts [hs.head, hs.moves, hs.waits, hs.others]

def tseekBody (f : Form) (s : State) : Res :=
  if 255 < (s.me.opU f.a).toNat then .fault s cTRKRANGE (trkVal s s.cur.core f.d.num) else seekTo f.d.num (s.me.opU f.a).toNat s

theorem exec_tseek (f : Form) (s : State) : exec (.tseek f) s = issueCost f 4 (ownedTrack f.d (tseekBody f)) s := rfl
theorem exec_trew (f : Form) (s : State) : exec (.trew f) s = issueCost f 4 (ownedTrack f.d (seekTo f.d.num 0)) s := rfl

theorem State.settleMine_opU (s : State) (o : Operand) : s.settleMine.me.opU o = s.me.opU o := s.settleMine_frame.me.opU o
theorem State.settleMine_opS (s : State) (o : Operand) : s.settleMine.me.opS o = s.me.opS o := s.settleMine_frame.me.opS o

theorem tseekBody_inRange {f : Form} {s : State} (h : (s.me.opU f.a).toNat ≤ 255) :
    tseekBody f s.settleMine = seekTo f.d.num (s.me.opU f.a).toNat s.settleMine := by
  unfold tseekBody
  rw [s.settleMine_opU, if_neg (by omega)]

/-- R46: a target above 255 raises TRKRANGE. -/
theorem exec_tseek_range {f : Form} {s : State} (h : Runs f 4 s) (ho : s.owns f.d.num) (ha : 255 < (s.me.opU f.a).toNat)
    (hl : s.me.loads = []) : exec (.tseek f) s = .next (s.settleMine.enterTrap s.cur.core s.cur.ctx (causeWord cTRKRANGE false 0 0 0 0)
      (BitVec.ofNat 64 (f.d.num + 256 * (s.settleMine.track s.cur.core f.d.num).head)) s.me.pc) := by
  have hb : ownedTrack f.d (tseekBody f) s = .fault s.settleMine cTRKRANGE (trkVal s.settleMine s.cur.core f.d.num) := by
    rw [ownedTrack_owned ho]
    unfold tseekBody
    rw [s.settleMine_opU, if_pos ha, s.settleMine_frame.cur]
  rw [exec_tseek]
  unfold issueCost
  rw [issueWith_fault h hl _ _ _ _ hb]
  rfl

/-! THEAD (R333). -/

def theadBody (f : Form) (s : State) : Res := .done (s.putS f.d.sreg (BitVec.ofNat 64 (s.track s.cur.core f.a.num).head))

theorem exec_thead (f : Form) (s : State) : exec (.thead f) s = issueCost f 4 (ownedTrack f.a (theadBody f)) s := rfl

/-- An instruction that has written its scalar destination over the settled state keeps the rest of it. -/
theorem Kept.of_putS {u v : State} {core c r : Nat} {w : Word} (h : StateAs core c v (u.putS r w)) (hc : u.cur.core = core)
    (hx : u.cur.ctx = c) (hk : RegsKept { regs := [r] } u v) : Kept { regs := [r] } u v :=
  ⟨hk, (u.putS_kept r w).rest.trans (h.rest hc.symm hx.symm), (u.putS_kept r w).mem.trans h.memKept⟩

/-- A result over the settled state is one over the state before, where no scalar is charged. -/
theorem Result.of_charged {f : Form} {w : Word} {s u v : State} (h : Result f w u v) (hu : CtxCharged u.me s.me) : Result f w s v :=
  fun r => by rw [h r, hu.sreg]

theorem gives_thead {f : Form} {s : State} (h : Runs f 4 s) (ho : s.owns f.a.num) : Gives (.thead f) s fun t =>
    Result f (BitVec.ofNat 64 (s.settleMine.track s.cur.core f.a.num).head) s t ∧ Kept { regs := [f.d.sreg] } s.settleMine t ∧
    Completed (s.plainWarn f) (s.fall f) s t := by
  have hu := s.settleMine_frame
  have hb : ownedTrack f.a (theadBody f) s =
      .done (s.settleMine.putS f.d.sreg (BitVec.ofNat 64 (s.settleMine.track s.cur.core f.a.num).head)) := by
    rw [ownedTrack_owned ho, theadBody, hu.cur]
  refine (gives_done_putS h (exec_thead f s) hb hu (.refl _)).imp fun v ⟨_, hr, hk, _, hd, has⟩ => ⟨hr.of_charged hu.me, ?_, hd⟩
  exact .of_putS has (by rw [hu.cur]) (by rw [hu.cur]) hk

/-! TSYNC (R333). -/

def tsyncBody (f : Form) (s : State) : Res :=
  if s.syncing f.d.num then trackSync f.d.num (s.settleAll s.cur.core) else ownedTrack f.d (trackSync f.d.num) s

theorem exec_tsync (f : Form) (s : State) : exec (.tsync f) s = issueCost f 4 (tsyncBody f) s := rfl

/-- R53: a TSYNC that waits goes on under the ownership that it was accepted under. -/
theorem tsyncBody_accepted {f : Form} {s : State} (h : s.owns f.d.num ∨ s.syncing f.d.num = true) :
    tsyncBody f s = trackSync f.d.num s.settleMine := by
  unfold tsyncBody
  by_cases hs : s.syncing f.d.num = true
  · rw [if_pos hs]; rfl
  · rw [if_neg hs, ownedTrack_owned (h.resolve_right hs)]

theorem tsyncBody_asked {f : Form} {s : State} (h : s.syncing f.d.num = false) :
    tsyncBody f s = ownedTrack f.d (trackSync f.d.num) s := by
  unfold tsyncBody
  rw [h]
  rfl

theorem trackSync_still {n : Nat} {u : State} (hi : (u.track u.cur.core n).idle = true) (hs : (u.track u.cur.core n).unseat = false) :
    trackSync n u = .done u := by simp [trackSync, hi, hs]

theorem trackSync_busy {n : Nat} {u : State} (hi : (u.track u.cur.core n).idle = false) :
    trackSync n u = .hold u (.trackStill n) 0 := by simp [trackSync, hi]

theorem gives_tsync_still {f : Form} {s : State} (h : Runs f 4 s) (ho : s.owns f.d.num ∨ s.syncing f.d.num = true)
    (hi : (s.settleMine.track s.cur.core f.d.num).idle = true) (hs : (s.settleMine.track s.cur.core f.d.num).unseat = false) :
    Gives (.tsync f) s fun t => Kept {} s.settleMine t ∧ Completed (s.plainWarn f) (s.fall f) s t := by
  have hu := s.settleMine_frame
  rw [← hu.cur] at hi hs
  refine (gives_done_settled h (exec_tsync f s) ((tsyncBody_accepted ho).trans (trackSync_still hi hs)) hu rfl
    (RegsKept.refl {} _) fun _ => rfl).imp fun v ⟨has, _, hk, hd⟩ => ⟨⟨hk, ?_, has.memKept⟩, hd⟩
  exact has.rest (by rw [hu.cur]) (by rw [hu.cur])

theorem gives_tsync_busy {f : Form} {s : State} (h : Runs f 4 s) (ho : s.owns f.d.num ∨ s.syncing f.d.num = true)
    (hi : (s.settleMine.track s.cur.core f.d.num).idle = false) :
    Gives (.tsync f) s fun t => (∃ since, t.me.block = some ⟨.trackStill f.d.num, since, 0⟩) ∧ t.me.pc = s.me.pc ∧
      Kept {} s.settleMine t := by
  have hu := s.settleMine_frame
  rw [← hu.cur] at hi
  refine (gives_wait h (exec_tsync f s) ((tsyncBody_accepted ho).trans (trackSync_busy hi))).imp fun v hv =>
    ⟨hv.me.block, hv.me.pc.trans hu.me.pc, hv.regsKept rfl, hv.restKept rfl, hv.memKept⟩

end Sys2Proof.Machine
end

section
/-! SUPPORT. Accesses of tracks by a context: what its queueing leaves (R48, R50, R332), and how the instruction held at it
completes. -/
namespace Sys2Proof.Machine

/-! An access queued (R50). -/

/-- A stepping access moves the architected head at its issue. -/
def State.stepTrack (s : State) (n : Nat) (step dn : Bool) : State :=
  if step then s.setHead s.cur.core n (stepHead (s.track s.cur.core n).head dn) else s

theorem State.stepTrack_frame (s : State) (n : Nat) (step dn : Bool) : TrackFrame (· = ·) (s.stepTrack n step dn) s := by
  cases step
  · exact .refl (fun _ => rfl) s
  · exact s.setHead_frame _ _ _

theorem State.track_stepTrack (s : State) (n : Nat) (step dn : Bool) : (s.stepTrack n step dn).track s.cur.core n =
    { s.track s.cur.core n with
      head := if step then stepHead (s.track s.cur.core n).head dn else (s.track s.cur.core n).head } := by
  cases step
  · rfl
  · exact s.track_setHead _ _ _

theorem State.track_stepTrack_ne (s : State) (step dn : Bool) {n k : Nat} (hk : k ≠ n) :
    (s.stepTrack n step dn).track s.cur.core k = s.track s.cur.core k := by
  cases step
  · rfl
  · exact s.track_setHead_ne _ _ hk

/-- The entry of an access of the acting context by itself. -/
def State.accessOp (s : State) (f : Form) (o : Operand) (act : TrkAct) (d : Dst) : TrkOp :=
  ⟨s.nextId, act, o.port, (s.track s.cur.core o.num).head, s.cur.ctx, none, d, formLen f⟩

/-- The state in which an access is queued. -/
def State.accessQueued (s : State) (o : Operand) (step : Bool) (op : TrkOp) : State :=
  (s.stepTrack o.num step o.down).fresh.2.queueAccess s.cur.core o.num op

theorem trackAccess_hold (f : Form) (o : Operand) (act : TrkAct) (step : Bool) (d : Dst) (u : State) :
    trackAccess f o act step d u = .hold (u.accessQueued o step (u.accessOp f o act d)) (.track o.num u.nextId) 1 := by
  cases step <;> rfl

theorem State.accessQueued_same (u : State) (o : Operand) (step : Bool) (op : TrkOp) : SameContexts (u.accessQueued o step op) u :=
  ((State.queueAccess_frame _ _ _ _).sameContexts.trans (State.fresh_sameContexts _)).trans (u.stepTrack_frame _ _ _).sameContexts

theorem State.accessQueued_ports (u : State) (o : Operand) (step : Bool) (op : TrkOp) (m : Nat) :
    ((u.accessQueued o step op).core m).portAt = (u.core m).portAt :=
  ((State.queueAccess_frame _ _ _ _).ports m).trans ((u.stepTrack_frame o.num step o.down).ports m)

theorem State.track_accessQueued (u : State) (o : Operand) (step : Bool) (op : TrkOp) :
    (u.accessQueued o step op).track u.cur.core o.num = { u.track u.cur.core o.num with
      head := if step then stepHead (u.track u.cur.core o.num).head o.down else (u.track u.cur.core o.num).head
      queue := (u.track u.cur.core o.num).queue ++ [op] } := by
  have h : (u.stepTrack o.num step o.down).fresh.2.track u.cur.core o.num = _ := u.track_stepTrack o.num step o.down
  unfold State.accessQueued
  rw [State.track_queueAccess, if_pos rfl, h]

theorem State.track_accessQueued_ne (u : State) (o : Operand) (step : Bool) (op : TrkOp) {k : Nat} (hk : k ≠ o.num) :
    (u.accessQueued o step op).track u.cur.core k = u.track u.cur.core k := by
  unfold State.accessQueued
  rw [State.track_queueAccess, if_neg hk]
  exact u.track_stepTrack_ne _ _ hk

/-! An access of one track at its issue (R48, R50). -/

/-- An instruction that accesses one track at its issue: queued, and held until its access is over. -/
theorem gives_access {i : Instr} {f : Form} {s : State} {o : Operand} {act : TrkAct} {step : Bool} {d : Dst} {body : State → Res}
    (h : Runs f 8 s) (he : exec i s = issueCost f 8 body s) (hb : body s = trackAccess f o act step d s.settleMine) :
    Gives i s fun v => HeldAt (.track o.num s.nextId) 1 (s.plainWarn f) v
      (s.settleMine.accessQueued o step (s.settleMine.accessOp f o act d)) := by
  have hu := s.settleMine_frame
  have hcur := (s.settleMine.accessQueued_same o step (s.settleMine.accessOp f o act d)).cur.trans hu.cur
  rw [trackAccess_hold, hu.nextId] at hb
  refine (gives_hold (warns := scalarWarn f false) (named := false) h he hb hcur).imp fun v hv => ?_
  simpa [State.plainWarn] using hv

theorem gives_queued {i : Instr} {f : Form} {s : State} {o : Operand} {act : TrkAct} {step : Bool} {d : Dst} {body : State → Res}
    (h : Runs f 8 s) (he : exec i s = issueCost f 8 body s) (hb : body s = trackAccess f o act step d s.settleMine) :
    Gives i s fun t =>
      let tr := s.settleMine.track s.cur.core o.num
      (t.track s.cur.core o.num).queue = tr.queue ++ [⟨s.nextId, act, o.port, tr.head, s.cur.ctx, none, d, formLen f⟩] ∧
      (t.track s.cur.core o.num).head = (if step then (if o.down then tr.head - 1 else min 255 (tr.head + 1)) else tr.head) ∧
      (t.core s.cur.core).words = (s.settleMine.core s.cur.core).words ∧
      (∃ since, t.me.block = some ⟨.track o.num s.nextId, since, 1⟩) ∧ t.me.pc = s.me.pc ∧
      ((∀ k, k ≠ o.num → t.track s.cur.core k = s.settleMine.track s.cur.core k) ∧
        (∀ m d, ¬(m = s.cur.core ∧ d = s.cur.ctx) → t.ctx m d = s.settleMine.ctx m d) ∧ MemKept s.settleMine t) ∧
      RegsKept {} s.settleMine t := by
  have hu := s.settleMine_frame
  have hs := s.settleMine.accessQueued_same o step (s.settleMine.accessOp f o act d)
  have htr := s.settleMine.track_accessQueued o step (s.settleMine.accessOp f o act d)
  have hne (k : Nat) (hk : k ≠ o.num) := s.settleMine.track_accessQueued_ne o step (s.settleMine.accessOp f o act d) hk
  have hcur := hs.cur.trans hu.cur
  rw [hu.cur] at htr hne
  refine (gives_access h he hb).imp fun v hv => ?_
  intro tr
  refine ⟨?_, ?_, (hv.words _).1.trans (hs.words _).1, hv.me.block, ?_, ⟨fun k hk => (hv.track _ k).trans (hne k hk), fun m e hn => ?_,
    hs.mem.trans hv.memKept⟩, hv.regsKept hs.me⟩
  · rw [hv.track, htr]
    unfold State.accessOp
    rw [hu.nextId, hu.cur]
  · rw [hv.track, htr]; rfl
  · rw [hv.me.pc, hs.me, hu.me.pc]
  · rw [hv.others m e (by rw [hcur]; exact hn), hs.ctx]

/-! The completion of the instruction held at an access. -/

/-- What an access leaves of the instruction held at it, its values `got` delivered to `dst` over the settled state `u`, where `y` is
the state with the access taken off its track. -/
structure Finished (warn : Bool) (op : TrkOp) (got : List (Nat × Nat)) (t y u : State) : Prop where
  cur : t.cur = u.cur
  sreg : ∀ r, t.me.sreg r = (y.me.deliver op.dst got).sreg r
  vreg : ∀ r, t.me.vreg r = (y.me.deliver op.dst got).vreg r
  words : ∀ m, (t.core m).words = (y.core m).words
  mem : MemKept y t
  kept : ∀ w : May, (∀ r, r ∉ w.regs → t.me.sreg r = u.me.sreg r) → (∀ r, r ∉ w.vecs → t.me.vreg r = u.me.vreg r) → RegsKept w u t
  done : Completed warn (u.me.pc + BitVec.ofNat 64 op.len) u t

theorem State.trackDone_finished {y u : State} {op : TrkOp} {n ph : Nat} {warn : Bool} (got : List (Nat × Nat)) (hcur : y.cur = u.cur)
    (hx : HeldCtx (.track n op.id) ph warn y.me u.me) (hop : op.ctx = u.cur.ctx) (hs : u.me.statBit bSTEP = false) :
    Finished warn op got (y.trackDone u.cur.core op got) y u := by
  have hme : y.ctx u.cur.core op.ctx = y.me := by rw [State.me_eq hcur, hop]
  obtain ⟨since, hblock⟩ := hx.block
  have hb : (y.ctx u.cur.core op.ctx).block = some ⟨.track n op.id, since, ph⟩ := by rw [hme]; exact hblock
  have hst : (y.ctx u.cur.core op.ctx).statBit bSTEP = false := by rw [hme, Ctx.statBit_of_sr (hx.sr _)]; exact hs
  have has := State.trackDone_as got hb hst
  have hret := (State.trackDone_of_held got hb hst).2
  have htcur : (y.trackDone u.cur.core op got).cur = u.cur := has.cur.trans hcur
  have htme : (y.trackDone u.cur.core op got).me = (y.trackDone u.cur.core op got).ctx u.cur.core op.ctx := by rw [State.me_eq htcur, hop]
  have hmd := has.me
  rw [show (y.delivered u.cur.core op got).ctx u.cur.core op.ctx = y.me.deliver op.dst got by
    rw [State.delivered, State.ctx_setCtx_self, hme], ← htme] at hmd
  rw [hme, ← htme] at hret
  obtain ⟨ss, vv, hdel⟩ := y.me.deliver_eq op.dst got
  have hstat (i : Nat) (hi : i < 64) : (y.trackDone u.cur.core op got).me.statBit i =
      if i = bPFX then false else if i = bWARN then (u.me.statBit bWARN || warn) else u.me.statBit i := by
    rw [hret.stat i hi, hx.warnHeld, Ctx.statBit_of_sr (hx.sr _), Ctx.statBit_of_sr (hx.sr _)]
  have hloop := Ctx.loopEnd_congr y.me u.me (y.me.pc + BitVec.ofNat 64 op.len) 5 fun k _ _ => hx.sr k
  rw [hx.pc] at hloop hret
  refine ⟨htcur, fun r => hmd.sreg r, fun r => hmd.vreg r, fun m => ?_, ?_, fun w hr hv => ?_, ?_⟩
  · obtain ⟨_, hd⟩ := y.core_setCtx_eq u.cur.core op.ctx m ((y.ctx u.cur.core op.ctx).deliver op.dst got)
    rw [(has.tracks m).2, State.delivered, hd]
  · have hd : MemKept y (y.delivered u.cur.core op got) := .of_eq rfl rfl rfl rfl
    exact hd.trans has.memKept
  · rw [hdel] at hmd
    exact {
      scalars := hr, vectors := hv
      masks := fun r _ => (hmd.mreg r).trans (hx.as.mreg r)
      accs := fun _ => ⟨hmd.acc.trans hx.as.acc, hmd.accSum.trans hx.as.accSum⟩
      fmts := fun e _ => (hmd.fent e).trans (hx.as.fent e)
      slots := fun g _ => (hmd.guard g).trans (hx.as.guard g)
      srs := fun k _ hk => (hmd.sr k hk).trans (hx.as.sr k hk)
      stat := fun _ i hi hn => by
        rw [hstat i hi, if_neg (by rintro rfl; simp at hn), if_neg (by rintro rfl; simp at hn)]
      signal := ⟨hmd.signal.1.trans hx.as.signal.1, hmd.signal.2.1.trans hx.as.signal.2.1,
        hmd.signal.2.2.1.trans hx.as.signal.2.2.1, hmd.signal.2.2.2.trans hx.as.signal.2.2.2⟩ }
  · refine ⟨hret.pc.trans hloop.1, fun r hr hs => ?_, hret.block, ?_, ?_⟩
    · have hb : 0x20 ≤ r ∧ r ≤ 0x2E := (by decide : ∀ r ∈ endRegs, r ≠ rSTAT → 0x20 ≤ r ∧ r ≤ 0x2E) r hr hs
      exact (hret.loops r hb.1 hb.2).trans (hloop.2 r hb.1 hb.2)
    · rw [hstat _ (by decide), if_neg (by decide), if_pos rfl]
    · rw [hstat _ (by decide), if_pos rfl]

end Sys2Proof.Machine
end

section
/-! SUPPORT. TRD, TRDS, TWR and TWRS from their issue to their completion (R48, R332). -/
namespace Sys2Proof.Machine

/-- A still, seated and aligned track of the acting context, with nothing queued and the port free, once motions are charged. -/
structure ClearTrack (s : State) (n : Nat) : Prop where
  queue : (s.settleMine.track s.cur.core n).queue = []
  motion : (s.settleMine.track s.cur.core n).motion = none
  probe : (s.settleMine.track s.cur.core n).probe = none
  started : (s.settleMine.track s.cur.core n).started = false
  unseat : (s.settleMine.track s.cur.core n).unseat = false
  phys : (s.settleMine.track s.cur.core n).phys = (s.settleMine.track s.cur.core n).head
  slip : (s.settleMine.track s.cur.core n).slip % 8 = 0
  owned : s.owns n
  port : (s.core s.cur.core).portAt ≤ s.clk

/-- A state in which an access that the acting context is held at has the port of its track. -/
structure AtPort (warn : Bool) (n : Nat) (op : TrkOp) (b u : State) : Prop where
  cur : b.cur = u.cur
  me : HeldCtx (.track n op.id) 1 warn b.me u.me
  words : ∀ m, (b.core m).words = (u.core m).words ∧ (b.core m).badWords = (u.core m).badWords
  mem : MemKept u b
  track : ∃ h, b.track u.cur.core n = { u.track u.cur.core n with head := h, queue := [op], started := true }

theorem AtPort.queue {warn : Bool} {n : Nat} {op : TrkOp} {b u : State} (h : AtPort warn n op b u) :
    (b.track u.cur.core n).queue = [op] := by obtain ⟨_, e⟩ := h.track; rw [e]
theorem AtPort.started {warn : Bool} {n : Nat} {op : TrkOp} {b u : State} (h : AtPort warn n op b u) :
    (b.track u.cur.core n).started = true := by obtain ⟨_, e⟩ := h.track; rw [e]

/-- The first event of an access. -/
theorem happens_start {s : State} {core n : Nat} {P : State → Prop} (h : P ((s.onEvent (.trackAccessStart core n)).accessStart core n)) :
    Happens (.trackAccessStart core n) s P := happens_next (exec_trackAccessStart s core n) h

theorem happens_complete {s : State} {core n : Nat} {P : State → Prop}
    (h : P ((s.onEvent (.trackAccessComplete core n)).accessComplete core n)) : Happens (.trackAccessComplete core n) s P :=
  happens_next (exec_trackAccessComplete s core n) h

/-- An access of one track that passes its test takes the port (R48). -/
theorem atPort_of_held {s v : State} {f : Form} {o : Operand} {act : TrkAct} {step warn : Bool} {d : Dst} (hc : ClearTrack s o.num)
    (ha : act ≠ .seek) (ht : act.tracks o.num = [o.num])
    (hv : HeldAt (.track o.num s.nextId) 1 warn v (s.settleMine.accessQueued o step (s.settleMine.accessOp f o act d))) :
    AtPort warn o.num (s.settleMine.accessOp f o act d)
      ((v.onEvent (.trackAccessStart s.cur.core o.num)).accessStart s.cur.core o.num) s.settleMine := by
  have hu := s.settleMine_frame
  have hsame := s.settleMine.accessQueued_same o step (s.settleMine.accessOp f o act d)
  have htr := s.settleMine.track_accessQueued o step (s.settleMine.accessOp f o act d)
  have hport := s.settleMine.accessQueued_ports o step (s.settleMine.accessOp f o act d) s.cur.core
  rw [hu.cur, hc.queue, List.nil_append, ← hv.track] at htr
  rw [← hv.ports] at hport
  have hstart := State.accessStart_one (s := v.onEvent (.trackAccessStart s.cur.core o.num)) (core := s.cur.core) (n := o.num)
    (op := s.settleMine.accessOp f o act d) (rest := [])
    ((congrArg Track.queue htr).trans rfl) ((congrArg Track.started htr).trans hc.started) ((congrArg Track.motion htr).trans hc.motion)
    ((congrArg Track.probe htr).trans hc.probe) ha ((congrArg Track.unseat htr).trans hc.unseat)
    ((congrArg Track.phys htr).trans (by unfold State.accessOp; rw [hu.cur]; exact hc.phys))
    ((congrArg (fun tr : Track => tr.slip % 8) htr).trans hc.slip) ht
    (by
      show (v.core s.cur.core).portAt ≤ v.clk
      rw [hport, hu.ports, hv.clk, hsame.clk, hu.clk]
      exact hc.port)
  have hb : SameContexts ((v.onEvent (.trackAccessStart s.cur.core o.num)).accessStart s.cur.core o.num) v := by
    rw [hstart]
    exact (State.later_frame _ _ _).sameContexts.trans ((State.takePort_sameContexts _ _).trans
      ((State.modTrack_frame _ _ _ _).sameContexts.trans (v.onEvent_sameContexts _)))
  refine ⟨hb.cur.trans (hv.cur.trans hsame.cur), ?_, fun m => ?_, hsame.mem.trans (hv.memKept.trans hb.mem), ?_⟩
  · rw [hb.me, ← hsame.me]
    have : (s.settleMine.accessOp f o act d).id = s.nextId := hu.nextId
    rw [this]
    exact hv.me
  · have h1 := hb.words m
    have h2 := hv.words m
    have h3 := hsame.words m
    exact ⟨h1.1.trans (h2.1.trans h3.1), h1.2.trans (h2.2.trans h3.2)⟩
  · rw [hstart, hu.cur, State.track_later, State.track_takePort, State.track_modTrack_self]
    exact ⟨_, by rw [show (v.onEvent (.trackAccessStart s.cur.core o.num)).track s.cur.core o.num = v.track s.cur.core o.num from rfl, htr]⟩

/-- An instruction that accesses one track completes by its access's start and completion. -/
theorem completesBy_access {i : Instr} {f : Form} {s : State} {o : Operand} {act : TrkAct} {step : Bool} {d : Dst} {body : State → Res}
    {P : State → Prop} (h : Runs f 8 s) (he : exec i s = issueCost f 8 body s)
    (hb : body s = trackAccess f o act step d s.settleMine) (hc : ClearTrack s o.num) (ha : act ≠ .seek) (ht : act.tracks o.num = [o.num])
    (hP : ∀ b, AtPort (s.plainWarn f) o.num (s.settleMine.accessOp f o act d) b s.settleMine →
      P ((b.onEvent (.trackAccessComplete s.cur.core o.num)).accessComplete s.cur.core o.num)) :
    CompletesBy i [.trackAccessStart s.cur.core o.num, .trackAccessComplete s.cur.core o.num] s P :=
  (gives_access h he hb).imp fun _ hv => happens_start (happens_complete (hP _ (atPort_of_held hc ha ht hv)))

/-! The completion of an access that has its port. -/

/-- An access by itself off a still track changes no context. -/
theorem State.finishAccess_still {s : State} {core n : Nat} (op : TrkOp) (step dn : Bool) (hm : (s.track core n).motion = none)
    (hp : (s.track core n).probe = none) : TrackFrame (· = ·) (s.finishAccess core n op step dn) s := by
  unfold State.finishAccess
  dsimp only
  split
  · refine TrackFrame.transEq ?_ (s.modTrack_frame core n fun tr => { tr with queue := tr.queue.drop 1, started := false })
    refine (State.move_of_charged _ _ _ (fun m h => ?_) fun _ => .inl ?_).1
    · rw [State.track_modTrack_self] at h
      exact absurd (hm.symm.trans h) (by simp)
    · rw [State.track_modTrack_self]; exact hp
  · exact (State.kickTrack_frame _ _ _).transEq (s.modTrack_frame core n _)

theorem State.setTrackWord_same (s : State) (core n p w : Nat) : (s.setTrackWord core n (some p) w false).cur = s.cur ∧
    (s.setTrackWord core n (some p) w false).me = s.me := by
  obtain ⟨hctx, _, _, _, _, hcur⟩ := s.setTrackWord_some core n p w false
  exact ⟨hcur, by rw [State.me_eq hcur]; exact hctx _ _⟩

theorem Ctx.vreg_deliver_scalar (x : Ctx) (d n r : Nat) (sg : Bool) (got : List (Nat × Nat)) :
    (x.deliver (.scalar d n sg) got).vreg r = x.vreg r := by
  show (x.setS d _).vreg r = _
  unfold Ctx.vreg
  rw [Ctx.setS_v]

section AtPort
variable {warn : Bool} {n p : Nat} {op : TrkOp} {b u : State} {step dn : Bool} (h : AtPort warn n op b u)
  (hm : (u.track u.cur.core n).motion = none) (hp : (u.track u.cur.core n).probe = none) (hop : op.ctx = u.cur.ctx)
  (hs : u.me.statBit bSTEP = false) (hpos : trackPos op.port op.head (u.track u.cur.core n).slip = some p)
include h hm hp hop hs hpos

theorem AtPort.read {d : Nat} (ha : op.act = .read step dn) (hd : op.dst = .scalar d 4 false)
    (hw : (u.core u.cur.core).badWords.contains (1024 * n + p) = false) :
    let t := (b.onEvent (.trackAccessComplete u.cur.core n)).accessComplete u.cur.core n
    (∀ r, t.me.sreg r = if r = d ∧ r ≠ 0 then ((u.core u.cur.core).words.get (1024 * n + p) 0).setWidth 64 else u.me.sreg r) ∧
      (t.core u.cur.core).words = (u.core u.cur.core).words ∧ RegsKept { regs := [d] } u t ∧ MemKept u t ∧
      Completed warn (u.me.pc + BitVec.ofNat 64 op.len) u t := by
  obtain ⟨hd', htr⟩ := h.track
  let c := b.onEvent (.trackAccessComplete u.cur.core n)
  have hbc : MemKept b c := .of_eq rfl rfl rfl rfl
  have hread := State.accessComplete_read (s := c) (core := u.cur.core) (n := n) (rest := []) h.queue h.started
    (show trackPos op.port op.head (b.track u.cur.core n).slip = some p by rw [htr]; exact hpos) ha
    (show (b.core u.cur.core).badWords.contains _ = false by rw [(h.words _).2]; exact hw)
  have hfr := State.finishAccess_still (s := c) (core := u.cur.core) (n := n) op step dn
    (show (b.track u.cur.core n).motion = none by rw [htr]; exact hm) (show (b.track u.cur.core n).probe = none by rw [htr]; exact hp)
  have hyme : (c.finishAccess u.cur.core n op step dn).me = b.me := hfr.me
  have hfin := State.trackDone_finished (u := u) (n := n) (warn := warn) (ph := 1)
    [(0, ((b.core u.cur.core).words.get (1024 * n + p) 0).toNat)] (hfr.cur.trans h.cur) (by rw [hyme]; exact h.me) hop hs
  intro t
  have ht : t = (c.finishAccess u.cur.core n op step dn).trackDone u.cur.core op
    [(0, ((b.core u.cur.core).words.get (1024 * n + p) 0).toNat)] := hread
  rw [← ht] at hfin
  have hsreg (r : Nat) : t.me.sreg r = if r = d ∧ r ≠ 0 then ((u.core u.cur.core).words.get (1024 * n + p) 0).setWidth 64 else u.me.sreg r := by
    rw [hfin.sreg, hd, Ctx.sreg_deliver_scalar, hyme, h.me.as.sreg, (h.words _).1, BitVec.ofNat_toNat]
  refine ⟨hsreg, (hfin.words _).trans ((hfr.words _).1.trans (h.words _).1), hfin.kept _ (fun r hr => ?_) fun r _ => ?_,
    h.mem.trans (hbc.trans (hfr.memKept.trans hfin.mem)), hfin.done⟩
  · rw [hsreg, if_neg (by rintro ⟨rfl, _⟩; simp at hr)]
  · rw [hfin.vreg, hd, hyme, Ctx.vreg_deliver_scalar]
    exact h.me.as.vreg r

theorem AtPort.write {v : Nat} (ha : op.act = .write step dn v) (hd : op.dst = .none) :
    let t := (b.onEvent (.trackAccessComplete u.cur.core n)).accessComplete u.cur.core n
    (∀ k, (t.core u.cur.core).words.get k 0 = if k = 1024 * n + p then BitVec.ofNat 32 v else (u.core u.cur.core).words.get k 0) ∧
      RegsKept {} u t ∧ MemKept u t ∧ Completed warn (u.me.pc + BitVec.ofNat 64 op.len) u t := by
  obtain ⟨hd', htr⟩ := h.track
  let c := b.onEvent (.trackAccessComplete u.cur.core n)
  have hbc : MemKept b c := .of_eq rfl rfl rfl rfl
  have hwrite := State.accessComplete_write (s := c) (core := u.cur.core) (n := n) (rest := []) h.queue h.started
    (show trackPos op.port op.head (b.track u.cur.core n).slip = some p by rw [htr]; exact hpos) ha
  obtain ⟨_, hct, hcw, hcm, _, _⟩ := c.setTrackWord_some u.cur.core n p v false
  obtain ⟨hccur, hcme⟩ := c.setTrackWord_same u.cur.core n p v
  have hfr := State.finishAccess_still (s := c.setTrackWord u.cur.core n (some p) v false) (core := u.cur.core) (n := n) op step dn
    (by rw [hct]; show (b.track u.cur.core n).motion = none; rw [htr]; exact hm)
    (by rw [hct]; show (b.track u.cur.core n).probe = none; rw [htr]; exact hp)
  have hyme : ((c.setTrackWord u.cur.core n (some p) v false).finishAccess u.cur.core n op step dn).me = b.me := hfr.me.trans hcme
  have hfin := State.trackDone_finished (u := u) (n := n) (warn := warn) (ph := 1) [] (hfr.cur.trans (hccur.trans h.cur))
    (by rw [hyme]; exact h.me) hop hs
  intro t
  have ht : t = ((c.setTrackWord u.cur.core n (some p) v false).finishAccess u.cur.core n op step dn).trackDone u.cur.core op [] := hwrite
  rw [← ht] at hfin
  refine ⟨fun k => ?_, hfin.kept _ (fun r _ => ?_) fun r _ => ?_,
    h.mem.trans (hbc.trans (hcm.trans (hfr.memKept.trans hfin.mem))), hfin.done⟩
  · rw [hfin.words, (hfr.words _).1, hcw]
    show (if _ then _ else (b.core u.cur.core).words.get k 0) = _
    rw [(h.words _).1]
  · rw [hfin.sreg, hd, hyme]; exact h.me.as.sreg r
  · rw [hfin.vreg, hd, hyme]; exact h.me.as.vreg r

end AtPort

end Sys2Proof.Machine
end

section
/-! SUPPORT. TRD, TRDS, TWR and TWRS (R332). -/
namespace Sys2Proof.Machine

/-- The place under a port of a track of the acting core, once motions are charged. -/
def State.under (s : State) (n port p : Nat) : Prop :=
  256 * port + (s.settleMine.track s.cur.core n).head + (s.settleMine.track s.cur.core n).slip = (p : Int) ∧ p < 1024

theorem State.under_pos {s : State} {n port p : Nat} (h : s.under n port p) :
    trackPos port (s.settleMine.track s.cur.core n).head (s.settleMine.track s.cur.core n).slip = some p := trackPos_of_eq h.1 h.2

def readBody (step : Bool) (f : Form) : State → Res := trackAccess f f.a (.read step f.a.down) step (.scalar f.d.sreg 4 false)

def writeBody (step : Bool) (f : Form) (s : State) : Res :=
  trackAccess f f.d (.write step f.d.down (fieldOf (s.me.opS f.a) 0 32)) step .none s

theorem exec_trd (f : Form) (s : State) : exec (.trd f) s = issueCost f 8 (ownedTrack f.a (readBody false f)) s := rfl
theorem exec_trds (f : Form) (s : State) : exec (.trds f) s = issueCost f 8 (ownedTrack f.a (readBody true f)) s := rfl
theorem exec_twr (f : Form) (s : State) : exec (.twr f) s = issueCost f 8 (ownedTrack f.d (writeBody false f)) s := rfl
theorem exec_twrs (f : Form) (s : State) : exec (.twrs f) s = issueCost f 8 (ownedTrack f.d (writeBody true f)) s := rfl

theorem fieldOf_low (w : Word) : fieldOf w 0 32 = w.toNat % 2 ^ 32 := by simp [fieldOf, bits]

theorem writeBody_settled (step : Bool) (f : Form) (s : State) : writeBody step f s.settleMine =
    trackAccess f f.d (.write step f.d.down ((s.me.opS f.a).toNat % 2 ^ 32)) step .none s.settleMine := by
  unfold writeBody
  rw [s.settleMine_opS, fieldOf_low]

section
variable {i : Instr} {f : Form} {s : State} {step : Bool} {p : Nat} (h : Runs f 8 s)
include h

/-- The entry of an access over the settled state, and the step bit there. -/
theorem settled_access (o : Operand) (act : TrkAct) (d : Dst) : s.settleMine.me.statBit bSTEP = false ∧
    (s.settleMine.accessOp f o act d).ctx = s.settleMine.cur.ctx ∧
    (s.settleMine.accessOp f o act d).head = (s.settleMine.track s.cur.core o.num).head ∧
    s.settleMine.me.pc + BitVec.ofNat 64 (s.settleMine.accessOp f o act d).len = s.fall f := by
  have hu := s.settleMine_frame
  refine ⟨(hu.me.statBit _).trans h.noStep, rfl, ?_, ?_⟩
  · unfold State.accessOp; rw [hu.cur]
  · rw [hu.me.pc]; rfl

theorem completesBy_read (he : exec i s = issueCost f 8 (ownedTrack f.a (readBody step f)) s) (hc : ClearTrack s f.a.num)
    (hp : s.under f.a.num f.a.port p) (hw : (s.settleMine.core s.cur.core).badWords.contains (1024 * f.a.num + p) = false) :
    CompletesBy i [.trackAccessStart s.cur.core f.a.num, .trackAccessComplete s.cur.core f.a.num] s fun t =>
      Result f (((s.settleMine.core s.cur.core).words.get (1024 * f.a.num + p) 0).setWidth 64) s.settleMine t ∧
      (t.core s.cur.core).words = (s.settleMine.core s.cur.core).words ∧ RegsKept { regs := [f.d.sreg] } s.settleMine t ∧
      MemKept s.settleMine t ∧ Completed (s.plainWarn f) (s.fall f) s.settleMine t := by
  obtain ⟨hstep, hctx, hhead, hfall⟩ := settled_access h f.a (.read step f.a.down) (.scalar f.d.sreg 4 false)
  refine completesBy_access h he (ownedTrack_owned hc.owned) hc (by simp) rfl fun b hb => ?_
  have hcur := s.settleMine_frame.cur
  have hread := hb.read (p := p) (step := step) (dn := f.a.down) (by rw [hcur]; exact hc.motion) (by rw [hcur]; exact hc.probe) hctx hstep
    (by rw [hhead, hcur]; exact State.under_pos hp) rfl rfl (by rw [hcur]; exact hw)
  rw [hfall, hcur] at hread
  exact hread

theorem completesBy_write (he : exec i s = issueCost f 8 (ownedTrack f.d (writeBody step f)) s) (hc : ClearTrack s f.d.num)
    (hp : s.under f.d.num f.d.port p) :
    CompletesBy i [.trackAccessStart s.cur.core f.d.num, .trackAccessComplete s.cur.core f.d.num] s fun t =>
      (∀ k, (t.core s.cur.core).words.get k 0 =
        if k = 1024 * f.d.num + p then (s.me.opS f.a).setWidth 32 else (s.settleMine.core s.cur.core).words.get k 0) ∧
      RegsKept {} s.settleMine t ∧ MemKept s.settleMine t ∧ Completed (s.plainWarn f) (s.fall f) s.settleMine t := by
  obtain ⟨hstep, hctx, hhead, hfall⟩ := settled_access h f.d (.write step f.d.down ((s.me.opS f.a).toNat % 2 ^ 32)) .none
  refine completesBy_access h he ((ownedTrack_owned hc.owned).trans (writeBody_settled step f s)) hc (by simp) rfl fun b hb => ?_
  have hcur := s.settleMine_frame.cur
  have hwrite := hb.write (p := p) (step := step) (dn := f.d.down) (by rw [hcur]; exact hc.motion) (by rw [hcur]; exact hc.probe) hctx hstep
    (by rw [hhead, hcur]; exact State.under_pos hp) rfl rfl
  rw [hfall, hcur] at hwrite
  have hword : BitVec.ofNat 32 ((s.me.opS f.a).toNat % 2 ^ 32) = (s.me.opS f.a).setWidth 32 := by
    apply BitVec.eq_of_toNat_eq
    simp
  rw [hword] at hwrite
  exact hwrite

end

end Sys2Proof.Machine
end

section
/-! SUPPORT. TOWN (R53, R55, R330). -/
namespace Sys2Proof.Machine

/-! The tracks of a range. -/

theorem mem_trackRange {first n k : Nat} : k ∈ (List.range n).map (first + ·) ↔ first ≤ k ∧ k < first + n := by
  rw [List.mem_map]
  constructor
  · rintro ⟨j, hj, rfl⟩
    rw [List.mem_range] at hj
    omega
  · rintro ⟨h1, h2⟩
    exact ⟨k - first, List.mem_range.mpr (by omega), by omega⟩

/-- Every track of a range updated. -/
def State.modRange (s : State) (core first n : Nat) (g : Track → Track) : State :=
  (List.range n).foldl (fun s i => s.modTrack core (first + i) g) s

theorem State.modRange_succ (s : State) (core first n : Nat) (g : Track → Track) :
    s.modRange core first (n + 1) g = (s.modRange core first n g).modTrack core (first + n) g := by
  unfold State.modRange
  rw [List.range_succ, List.foldl_append]
  rfl

theorem State.modRange_frame (s : State) (core first n : Nat) (g : Track → Track) : TrackFrame (· = ·) (s.modRange core first n g) s := by
  induction n with
  | zero => exact .refl (fun _ => rfl) s
  | succ n ih => rw [State.modRange_succ]; exact (State.modTrack_frame _ _ _ _).transEq ih

theorem State.track_modRange (s : State) (core first n k : Nat) (g : Track → Track) : (s.modRange core first n g).track core k =
    if first ≤ k ∧ k < first + n then g (s.track core k) else s.track core k := by
  induction n with
  | zero => rw [if_neg (by omega)]; rfl
  | succ n ih =>
    rw [State.modRange_succ, State.track_modTrack]
    by_cases hk : k = first + n
    · subst hk
      rw [if_neg (by omega)] at ih
      rw [if_pos rfl, if_pos (by omega), ih]
    · rw [if_neg hk, ih]
      simp only [show (first ≤ k ∧ k < first + (n + 1)) ↔ (first ≤ k ∧ k < first + n) by omega]

/-! TOWN's operands and what it does with them (R330). -/

/-- The helper, the first track and the number of tracks that a TOWN names. -/
def State.townHelper (s : State) (f : Form) : Nat := bits (s.me.opS f.a).toNat 0 4
def State.townFirst (s : State) (f : Form) : Nat := bits (s.me.opS f.b).toNat 0 8
def State.townCount (s : State) (f : Form) : Nat := bits (s.me.opS f.b).toNat 8 8 + 1
def State.townRecovers (s : State) (f : Form) : Bool := bit (s.me.opS f.a).toNat 8

/-- A helper that a TOWN may give tracks to or recover them from. -/
def State.townBadHelper (s : State) (f : Form) : Bool :=
  s.townHelper f < 1 || 10 < s.townHelper f ||
    (!s.townRecovers f && ((s.ctx s.cur.core (s.townHelper f)).st == .drain || (s.ctx s.cur.core (s.townHelper f)).st == .saved))

/-- The range that a TOWN names. -/
def State.townRange (s : State) (f : Form) : List Nat := (List.range (s.townCount f)).map (s.townFirst f + ·)

theorem State.mem_townRange {s : State} {f : Form} {k : Nat} :
    k ∈ s.townRange f ↔ s.townFirst f ≤ k ∧ k < s.townFirst f + s.townCount f := mem_trackRange

/-- The recovery of a range: made once the operations accepted on it are over (R55). -/
def townTake (f : Form) (s : State) : Res :=
  if (s.townRange f).all fun t => (s.settleMine.track s.cur.core t).idle then
    .done ((s.settleMine.recoverTracks s.cur.core (s.townFirst f) (s.townCount f) (s.townHelper f)).putS f.d.sreg 0)
  else .hold s.settleMine (.recover (s.townFirst f) (s.townCount f)) 1

/-- TOWN of a context that does not wait in one. -/
theorem town_asked {f : Form} {s : State} (hb : s.me.block = none) : town f s =
    if 256 < s.townFirst f + s.townCount f then .done (s.putS f.d.sreg 4)
    else if s.townBadHelper f then .done (s.putS f.d.sreg 1)
    else if !s.townRecovers f then
      if (s.townRange f).any fun t => !s.ownsTrack s.cur.core 0 t false then .done (s.putS f.d.sreg 2)
      else if (s.townRange f).any fun t => (s.track s.cur.core t).susp then .done (s.putS f.d.sreg 3)
      else .done ((s.giveTracks s.cur.core (s.townFirst f) (s.townCount f) (s.townHelper f)).putS f.d.sreg 0)
    else if (s.townRange f).any fun t => !s.ownsTrack s.cur.core (s.townHelper f) t false then .done (s.putS f.d.sreg 2)
    else townTake f s := by
  unfold town
  simp only [hb]
  rfl

def townBody (f : Form) (s : State) : Res := if s.cur.ctx == 0 then town f s else .fault s cCTXPERM 0

theorem exec_town (f : Form) (s : State) : exec (.town f) s = issueCost f 4 (townBody f) s := rfl

/-- R330: a helper raises CTXPERM. -/
theorem traps_town {f : Form} {s : State} (h : Runs f 4 s) (hc : s.cur.ctx ≠ 0) : Traps (.town f) s cCTXPERM 0 := by
  refine traps_fault h (exec_town f s) ?_
  unfold townBody
  rw [if_neg (by simpa using hc)]

theorem townBody_control {f : Form} {s : State} (hc : s.cur.ctx = 0) : townBody f s = town f s := by
  unfold townBody
  rw [if_pos (by simpa using hc)]

/-- A TOWN that changes nothing but its status. -/
theorem writes_town {f : Form} {s : State} {w : Word} (h : Runs f 4 s) (hc : s.cur.ctx = 0) (ht : town f s = .done (s.putS f.d.sreg w)) :
    Writes (.town f) f s w := writes_of_putS h (exec_town f s) ((townBody_control hc).trans ht)

/-- A completion over the state before is one over the settled state: no loop register and no bit of STAT is charged. -/
theorem Completed.of_charged {warns : Bool} {npc : Word} {s u t : State} (h : Completed warns npc s t) (hu : CtxCharged u.me s.me) :
    Completed warns npc u t := by
  have hl := Ctx.loopEnd_congr u.me s.me npc 5 fun n _ h2 => hu.sr n (by unfold rSHCHG; omega)
  refine ⟨h.pc.trans hl.1.symm, fun r hr hs => (h.loops r hr hs).trans ?_, h.free, by rw [h.warn, hu.statBit], h.pfx⟩
  have hb : 0x20 ≤ r ∧ r ≤ 0x2E := (by decide : ∀ r ∈ endRegs, r ≠ rSTAT → 0x20 ≤ r ∧ r ≤ 0x2E) r hr hs
  exact (hl.2 r hb.1 hb.2).symm

section Control
variable {f : Form} {s : State} (h : Runs f 4 s) (hb : s.me.block = none) (hc : s.cur.ctx = 0)
include h hb hc

theorem town_badRange (hr : 256 < s.townFirst f + s.townCount f) : Writes (.town f) f s 4 :=
  writes_town h hc (by rw [town_asked hb, if_pos hr])

variable (hr : s.townFirst f + s.townCount f ≤ 256)
include hr

theorem town_badHelper (hh : s.townBadHelper f = true) : Writes (.town f) f s 1 :=
  writes_town h hc (by rw [town_asked hb, if_neg (by omega), if_pos hh])

variable (hh : s.townBadHelper f = false)
include hh

theorem town_give_notOwned (hg : s.townRecovers f = false)
    (ho : ∃ k, (s.townFirst f ≤ k ∧ k < s.townFirst f + s.townCount f) ∧ s.ownsTrack s.cur.core 0 k false = false) :
    Writes (.town f) f s 2 := by
  obtain ⟨k, hk, hko⟩ := ho
  have hany : ((s.townRange f).any fun t => !s.ownsTrack s.cur.core 0 t false) = true :=
    List.any_eq_true.mpr ⟨k, State.mem_townRange.mpr hk, by simp [hko]⟩
  exact writes_town h hc (by rw [town_asked hb, if_neg (by omega), hh, hg, hany]; rfl)

theorem town_recover_notOwned (hg : s.townRecovers f = true)
    (ho : ∃ k, (s.townFirst f ≤ k ∧ k < s.townFirst f + s.townCount f) ∧ s.ownsTrack s.cur.core (s.townHelper f) k false = false) :
    Writes (.town f) f s 2 := by
  obtain ⟨k, hk, hko⟩ := ho
  have hany : ((s.townRange f).any fun t => !s.ownsTrack s.cur.core (s.townHelper f) t false) = true :=
    List.any_eq_true.mpr ⟨k, State.mem_townRange.mpr hk, by simp [hko]⟩
  exact writes_town h hc (by rw [town_asked hb, if_neg (by omega), hh, hg, hany]; rfl)

omit h hb hc hr hh in
/-- No track of a range owned throughout fails the test. -/
theorem State.townRange_owned {c : Nat} (ho : ∀ k, s.townFirst f ≤ k ∧ k < s.townFirst f + s.townCount f →
    s.ownsTrack s.cur.core c k false = true) : ((s.townRange f).any fun t => !s.ownsTrack s.cur.core c t false) = false :=
  List.any_eq_false.mpr fun k hk => by simp [ho k (State.mem_townRange.mp hk)]

theorem town_suspect (hg : s.townRecovers f = false)
    (ho : ∀ k, s.townFirst f ≤ k ∧ k < s.townFirst f + s.townCount f → s.ownsTrack s.cur.core 0 k false = true)
    (hs : ∃ k, (s.townFirst f ≤ k ∧ k < s.townFirst f + s.townCount f) ∧ (s.track s.cur.core k).susp = true) :
    Writes (.town f) f s 3 := by
  obtain ⟨k, hk, hks⟩ := hs
  have hany : ((s.townRange f).any fun t => (s.track s.cur.core t).susp) = true :=
    List.any_eq_true.mpr ⟨k, State.mem_townRange.mpr hk, hks⟩
  exact writes_town h hc (by rw [town_asked hb, if_neg (by omega), hh, hg, State.townRange_owned ho, hany]; rfl)

/-- R330: a range without a suspect track is given to the helper. -/
theorem town_gives (hg : s.townRecovers f = false)
    (ho : ∀ k, s.townFirst f ≤ k ∧ k < s.townFirst f + s.townCount f → s.ownsTrack s.cur.core 0 k false = true)
    (hs : ∀ k, s.townFirst f ≤ k ∧ k < s.townFirst f + s.townCount f → (s.track s.cur.core k).susp = false) :
    Gives (.town f) s fun t =>
      (∀ k, t.track s.cur.core k = if s.townFirst f ≤ k ∧ k < s.townFirst f + s.townCount f
        then { s.track s.cur.core k with owner := s.townHelper f } else s.track s.cur.core k) ∧
      Result f 0 s t ∧ RegsKept { regs := [f.d.sreg] } s t ∧ MemKept s t ∧ Completed (s.plainWarn f) (s.fall f) s t := by
  have hany : ((s.townRange f).any fun t => (s.track s.cur.core t).susp) = false :=
    List.any_eq_false.mpr fun k hk => by simp [hs k (State.mem_townRange.mp hk)]
  let give (tr : Track) : Track := { tr with owner := s.townHelper f }
  let t := s.modRange s.cur.core (s.townFirst f) (s.townCount f) give
  have ht : town f s = .done (t.putS f.d.sreg 0) := by
    rw [town_asked hb, if_neg (by omega), hh, hg, State.townRange_owned ho, hany]; rfl
  refine (gives_done_putS h (exec_town f s) ((townBody_control hc).trans ht) (.refl CtxCharged.refl s)
    (s.modRange_frame _ _ _ _).sameContexts).imp fun v ⟨htr, hres, hk, hm, hd, _⟩ => ⟨fun k => ?_, hres, hk, hm, hd⟩
  rw [htr, State.track_modRange]

/-- R55: a recover makes its range the control context's once it is idle. -/
theorem town_takes (hg : s.townRecovers f = true)
    (ho : ∀ k, s.townFirst f ≤ k ∧ k < s.townFirst f + s.townCount f → s.ownsTrack s.cur.core (s.townHelper f) k false = true)
    (hi : ∀ k, s.townFirst f ≤ k ∧ k < s.townFirst f + s.townCount f → (s.settleMine.track s.cur.core k).idle = true) :
    Gives (.town f) s fun t =>
      (∀ k, t.track s.cur.core k = if s.townFirst f ≤ k ∧ k < s.townFirst f + s.townCount f
        then { s.settleMine.track s.cur.core k with owner := 0 } else s.settleMine.track s.cur.core k) ∧
      Result f 0 s.settleMine t ∧ RegsKept { regs := [f.d.sreg] } s.settleMine t ∧ MemKept s.settleMine t ∧
      Completed (s.plainWarn f) (s.fall f) s.settleMine t := by
  have hall : ((s.townRange f).all fun t => (s.settleMine.track s.cur.core t).idle) = true :=
    List.all_eq_true.mpr fun k hk => hi k (State.mem_townRange.mp hk)
  let take (tr : Track) : Track := if tr.owner == s.townHelper f && !tr.held then { tr with owner := 0 } else tr
  let t := s.settleMine.modRange s.cur.core (s.townFirst f) (s.townCount f) take
  have ht : town f s = .done (t.putS f.d.sreg 0) := by
    rw [town_asked hb, if_neg (by omega), hh, hg, State.townRange_owned ho, townTake, hall]; rfl
  refine (gives_done_putS h (exec_town f s) ((townBody_control hc).trans ht) s.settleMine_frame
    (s.settleMine.modRange_frame _ _ _ _).sameContexts).imp fun v ⟨htr, hres, hk, hm, hd, _⟩ =>
      ⟨fun k => ?_, hres, hk, hm, hd.of_charged s.settleMine_frame.me⟩
  rw [htr, State.track_modRange]
  split
  · rename_i hkr
    have hown : s.settleMine.ownsTrack s.cur.core (s.townHelper f) k false = true :=
      (s.ownsTrack_settleAll s.cur.core (s.townHelper f) k false).trans (ho k hkr)
    exact if_pos (by simpa [State.ownsTrack] using hown)
  · rfl

/-- R55: a recover of a range with operations under way is held. -/
theorem town_waits (hg : s.townRecovers f = true)
    (ho : ∀ k, s.townFirst f ≤ k ∧ k < s.townFirst f + s.townCount f → s.ownsTrack s.cur.core (s.townHelper f) k false = true)
    (hi : ∃ k, (s.townFirst f ≤ k ∧ k < s.townFirst f + s.townCount f) ∧ (s.settleMine.track s.cur.core k).idle = false) :
    Gives (.town f) s fun t =>
      (∃ since, t.me.block = some ⟨.recover (s.townFirst f) (s.townCount f), since, 1⟩) ∧ t.me.pc = s.me.pc ∧
      (∀ k, t.track s.cur.core k = s.settleMine.track s.cur.core k) ∧ RegsKept {} s.settleMine t ∧ MemKept s.settleMine t := by
  obtain ⟨k, hk, hki⟩ := hi
  have hall : ((s.townRange f).all fun t => (s.settleMine.track s.cur.core t).idle) = false :=
    List.all_eq_false.mpr ⟨k, State.mem_townRange.mpr hk, by simp [hki]⟩
  have ht : town f s = .hold s.settleMine (.recover (s.townFirst f) (s.townCount f)) 1 := by
    rw [town_asked hb, if_neg (by omega), hh, hg, State.townRange_owned ho, townTake, hall]; rfl
  have hu := s.settleMine_frame
  refine (gives_hold (warns := scalarWarn f false) (named := false) h (exec_town f s) ((townBody_control hc).trans ht) hu.cur).imp
    fun v hv => ⟨hv.me.block, hv.me.pc.trans hu.me.pc, fun k => hv.track _ k, hv.regsKept rfl, hv.memKept⟩

end Control

end Sys2Proof.Machine
end

section
/-! SUPPORT. TRDV and TWRV at their issue (R334): an access of 16 tracks queued. -/
namespace Sys2Proof.Machine

/-! Work on the tracks of a range, one after another. -/

/-- Steps that change each its own track of a range. -/
theorem State.track_foldl_range {core t : Nat} {step : State → Nat → State} {g : Nat → Track → Track}
    (h : ∀ s i k, (step s i).track core k = if k = t + i then g i (s.track core (t + i)) else s.track core k) (m : Nat) (s : State) (k : Nat) :
    ((List.range m).foldl step s).track core k = if t ≤ k ∧ k < t + m then g (k - t) (s.track core k) else s.track core k := by
  induction m with
  | zero => rw [if_neg (by omega)]; rfl
  | succ m ih =>
    rw [List.range_succ, List.foldl_append, List.foldl_cons, List.foldl_nil, h]
    by_cases hk : k = t + m
    · subst hk
      rw [if_neg (by omega)] at ih
      rw [if_pos rfl, if_pos (by omega), ih, Nat.add_sub_cancel_left]
    · rw [if_neg hk, ih]
      simp only [show (t ≤ k ∧ k < t + (m + 1)) ↔ (t ≤ k ∧ k < t + m) by omega]

/-! The queues of an access of 16 tracks. -/

/-- The entry of an access of 16 tracks on its `i`-th track, whose head is `h`. -/
def vecOp (id t port c : Nat) (act : TrkAct) (d : Dst) (len i h : Nat) : TrkOp :=
  ⟨id, if i = 0 then act else .member t, port, h, c, none, d, len⟩

theorem State.queueVec_same (s : State) (id core t port c : Nat) (act : TrkAct) (d : Dst) (len : Nat) :
    TrackFrame (· = ·) (s.queueVec id core t port c act none d len) s :=
  List.foldlRecOn (motive := fun u : State => TrackFrame (· = ·) u s) _ _ (.refl (fun _ => rfl) s)
    fun _ hu _ _ => (State.queueAccess_frame _ _ _ _).transEq hu

theorem State.track_queueVec (s : State) (id core t port c : Nat) (act : TrkAct) (d : Dst) (len : Nat) {i : Nat} (hi : i < 16) :
    (s.queueVec id core t port c act none d len).track core (t + i) = { s.track core (t + i) with
      queue := (s.track core (t + i)).queue ++ [vecOp id t port c act d len i (s.track core (t + i)).head] } := by
  unfold State.queueVec
  rw [State.track_foldl_range (t := t) (g := fun i tr => { tr with queue := tr.queue ++ [vecOp id t port c act d len i tr.head] })
    fun s i k => ?_, if_pos (by omega), Nat.add_sub_cancel_left]
  rw [State.track_queueAccess]
  simp only [vecOp, beq_iff_eq]

/-- All 16 tracks owned. -/
theorem State.notOwned_of_owned {s : State} {core c t : Nat} (h : ∀ k, k < 16 → s.ownsTrack core c (t + k) false = true) :
    s.notOwned core c t false = none := by
  unfold State.notOwned
  rw [List.find?_eq_none]
  intro u hu
  obtain ⟨h1, h2⟩ := mem_trackRange.mp hu
  have := h (u - t) (by omega)
  rw [Nat.add_sub_cancel' h1] at this
  simp [this]

/-! TRDV and TWRV held at their access. -/

/-- The state in which an access of 16 tracks by the acting context is queued. -/
def State.vecQueued (s : State) (f : Form) (o : Operand) (act : TrkAct) (d : Dst) : State :=
  s.fresh.2.queueVec s.nextId s.cur.core o.num o.port s.cur.ctx act none d (formLen f)

theorem State.vecQueued_same (s : State) (f : Form) (o : Operand) (act : TrkAct) (d : Dst) : SameContexts (s.vecQueued f o act d) s :=
  (State.queueVec_same _ _ _ _ _ _ _ _ _).sameContexts.trans s.fresh_sameContexts

theorem State.vecQueued_ports (s : State) (f : Form) (o : Operand) (act : TrkAct) (d : Dst) (m : Nat) :
    ((s.vecQueued f o act d).core m).portAt = (s.core m).portAt := (State.queueVec_same s.fresh.2 _ _ _ _ _ _ _ _).ports m

/-- The entry on the `i`-th track. -/
def State.vecEntry (s : State) (f : Form) (o : Operand) (act : TrkAct) (d : Dst) (i : Nat) : TrkOp :=
  vecOp s.nextId o.num o.port s.cur.ctx act d (formLen f) i (s.track s.cur.core (o.num + i)).head

theorem State.track_vecQueued (s : State) (f : Form) (o : Operand) (act : TrkAct) (d : Dst) {i : Nat} (hi : i < 16) :
    (s.vecQueued f o act d).track s.cur.core (o.num + i) = { s.track s.cur.core (o.num + i) with
      queue := (s.track s.cur.core (o.num + i)).queue ++ [s.vecEntry f o act d i] } :=
  s.fresh.2.track_queueVec _ _ _ _ _ _ _ _ hi

/-- Operands of a TRDV or TWRV that are in order: tracks from a multiple of 16, and a vector with a format entry in order. -/
structure VecOperands (s : State) (f : Form) (o v : Operand) (q : Pos) : Prop where
  lead : o.num % 16 = 0
  single : f.b = .none
  entry : ∃ e g, v.entry = some e ∧ plainEntry s.me ((s.me.pfxEntry q).getD e) = .ok g

theorem trackVec_hold {f : Form} {p q : Pos} {act : VWord → TrkAct} {d : Dst} {s : State} (h : VecOperands s f (p.of f) (q.of f) q)
    (ho : ∀ k, k < 16 → s.owns ((p.of f).num + k)) : trackVec f p q act d s =
      .hold (s.settleMine.vecQueued f (p.of f) (act (s.me.vreg (q.of f).num)) d) (.track (p.of f).num s.nextId) 1 := by
  obtain ⟨hlead, hsingle, e, g, he, hg⟩ := h
  have hu := s.settleMine_frame
  have hno : (s.settleAll s.cur.core).notOwned s.cur.core s.cur.ctx (p.of f).num false = none := State.notOwned_of_owned ho
  have hv : s.settleMine.fresh.2.me.vreg (q.of f).num = s.me.vreg (q.of f).num := hu.me.vreg _
  have hent : s.me.entryNo f q = (s.me.pfxEntry q).getD e := by rw [Ctx.entryNo, he]; rfl
  unfold trackVec
  dsimp only
  rw [hlead, he, hsingle, hent, hg]
  simp only [Operand.isNone]
  rw [show (s.settleAll s.cur.core).cur = s.cur from hu.cur, hno]
  show Res.hold (s.settleMine.fresh.2.queueVec s.settleMine.nextId s.cur.core (p.of f).num (p.of f).port s.settleMine.cur.ctx
    (act (s.settleMine.fresh.2.me.vreg (q.of f).num)) none d (formLen f)) (.track (p.of f).num s.settleMine.nextId) 1 = _
  rw [hv]
  unfold State.vecQueued
  rw [hu.cur, hu.nextId]

/-- An instruction that accesses 16 tracks at its issue: queued on each, and held until its access is over. -/
theorem gives_vecAccess {i : Instr} {f : Form} {p q : Pos} {act : VWord → TrkAct} {d : Dst} {s : State} {warns named : Bool}
    (h : Runs f 128 s) (he : exec i s = issueWith f 128 warns named false noReport (trackVec f p q act d) s)
    (hv : VecOperands s f (p.of f) (q.of f) q) (ho : ∀ k, k < 16 → s.owns ((p.of f).num + k)) : Gives i s fun v =>
      HeldAt (.track (p.of f).num s.nextId) 1 (warns || (s.me.statBit bPFX && !named)) v
        (s.settleMine.vecQueued f (p.of f) (act (s.me.vreg (q.of f).num)) d) :=
  gives_hold h he (trackVec_hold hv ho) ((s.settleMine.vecQueued_same _ _ _ _).cur.trans s.settleMine_frame.cur)

theorem gives_vecQueued {i : Instr} {f : Form} {p q : Pos} {act : VWord → TrkAct} {d : Dst} {s : State} {warns named : Bool}
    (h : Runs f 128 s) (he : exec i s = issueWith f 128 warns named false noReport (trackVec f p q act d) s)
    (hv : VecOperands s f (p.of f) (q.of f) q) (ho : ∀ k, k < 16 → s.owns ((p.of f).num + k)) : Gives i s fun t =>
      let u := s.settleMine
      (∀ k, k < 16 → (t.track s.cur.core ((p.of f).num + k)).queue = (u.track s.cur.core ((p.of f).num + k)).queue ++
        [⟨s.nextId, if k = 0 then act (s.me.vreg (q.of f).num) else .member (p.of f).num, (p.of f).port,
          (u.track s.cur.core ((p.of f).num + k)).head, s.cur.ctx, none, d, formLen f⟩]) ∧
      (∃ since, t.me.block = some ⟨.track (p.of f).num s.nextId, since, 1⟩) ∧ t.me.pc = s.me.pc ∧
      (t.core s.cur.core).words = (u.core s.cur.core).words ∧ RegsKept {} u t ∧ MemKept u t := by
  have hu := s.settleMine_frame
  have hsame := s.settleMine.vecQueued_same f (p.of f) (act (s.me.vreg (q.of f).num)) d
  refine (gives_vecAccess h he hv ho).imp fun t ht => ?_
  intro u
  refine ⟨fun k hk => ?_, ht.me.block, ?_, (ht.words _).1.trans (hsame.words _).1, ht.regsKept hsame.me, hsame.mem.trans ht.memKept⟩
  · have htr := s.settleMine.track_vecQueued f (p.of f) (act (s.me.vreg (q.of f).num)) d hk
    rw [hu.cur] at htr
    rw [ht.track, htr, State.vecEntry, vecOp, hu.cur, hu.nextId]
  · rw [ht.me.pc, hsame.me, hu.me.pc]

theorem exec_trdv {f : Form} {s : State} (h : s.cur.unit = .context) : exec (.trdv f) s =
    issueWith f 128 (scalarWarn f false || s.me.strayEntry f) (namesEntry f) false noReport
      (trackVec f .a .d (fun _ => .readV) (.vec f.d.num 32 [])) s := if_pos (by rw [h]; rfl)

theorem exec_twrv {f : Form} {s : State} (h : s.cur.unit = .context) : exec (.twrv f) s =
    issueWith f 128 (scalarWarn f false || s.me.strayEntry f) (namesEntry f) false noReport (trackVec f .d .a .writeV .none) s :=
  if_pos (by rw [h]; rfl)

end Sys2Proof.Machine
end

section
/-! SUPPORT. The starts of an access of 16 tracks (R48, R57, R334). -/
namespace Sys2Proof.Machine

/-! Events one after another. -/

theorem Follows.imp {P Q : State → Prop} (hpq : ∀ t, P t → Q t) : ∀ {es : List Event} {s : State}, Follows es s P → Follows es s Q
  | [], _, h => hpq _ h
  | _ :: _, _, h => Gives.imp h fun _ ht => Follows.imp hpq ht

theorem Follows.append {P : State → Prop} : ∀ {es fs : List Event} {s : State}, Follows es s (fun t => Follows fs t P) → Follows (es ++ fs) s P
  | [], _, _, h => h
  | _ :: _, _, _, h => Gives.imp h fun _ ht => Follows.append ht

/-! The 16 starts. -/

/-- A state with an access of the 16 tracks from `n` alone on their queues, each of which is still, seated and aligned at its entry's
head, and with the port free. -/
structure VecReady (core n : Nat) (op : Nat → TrkOp) (v : State) : Prop where
  queue : ∀ k, k < 16 → (v.track core (n + k)).queue = [op k]
  started : ∀ k, k < 16 → (v.track core (n + k)).started = false
  motion : ∀ k, k < 16 → (v.track core (n + k)).motion = none
  probe : ∀ k, k < 16 → (v.track core (n + k)).probe = none
  unseat : ∀ k, k < 16 → (v.track core (n + k)).unseat = false
  phys : ∀ k, k < 16 → (v.track core (n + k)).phys = (op k).head
  slip : ∀ k, k < 16 → (v.track core (n + k)).slip % 8 = 0
  port : (v.core core).portAt ≤ v.clk
  id : ∀ k, (op k).id = (op 0).id
  moves : ∀ k, (op k).act ≠ .seek
  tracks : ∀ k, (op k).act.tracks (n + k) = (List.range 16).map (n + ·)
  lead : ∀ k, (op k).act.lead (n + k) = n

/-- The first `m` tracks of the access have started. -/
structure VecStarted (core n m : Nat) (b v : State) : Prop where
  same : SameContexts b v
  track : ∀ k, b.track core k = if n ≤ k ∧ k < n + m then { v.track core k with started := true } else v.track core k
  port : m < 16 → (b.core core).portAt = (v.core core).portAt

theorem VecStarted.refl (core n : Nat) (v : State) : VecStarted core n 0 v v :=
  ⟨.refl v, fun k => by rw [if_neg (by omega)], fun _ => rfl⟩

theorem VecStarted.of_lt {core n m k : Nat} {b v : State} (h : VecStarted core n m b v) (hk : k < m) :
    b.track core (n + k) = { v.track core (n + k) with started := true } := by rw [h.track, if_pos (by omega)]

theorem VecStarted.of_le {core n m k : Nat} {b v : State} (h : VecStarted core n m b v) (hk : m ≤ k) :
    b.track core (n + k) = v.track core (n + k) := by rw [h.track, if_neg (by omega)]

/-- One more track marked as started. -/
theorem VecStarted.mark {core n m : Nat} {b v t : State} (h : VecStarted core n m b v) (hs : SameContexts t b)
    (ht : ∀ k, t.track core k = if k = n + m then { b.track core (n + m) with started := true } else b.track core k)
    (hp : m + 1 < 16 → (t.core core).portAt = (b.core core).portAt) : VecStarted core n (m + 1) t v := by
  refine ⟨hs.trans h.same, fun k => ?_, fun hm => (hp hm).trans (h.port (by omega))⟩
  rw [ht]
  by_cases hk : k = n + m
  · subst hk
    rw [if_pos rfl, if_pos (by omega), h.of_le le_rfl]
  · rw [if_neg hk, h.track]
    simp only [show (n ≤ k ∧ k < n + (m + 1)) ↔ (n ≤ k ∧ k < n + m) by omega]

section
variable {core n m : Nat} {op : Nat → TrkOp} {b v : State} (hr : VecReady core n op v) (hb : VecStarted core n m b v) (hm : m < 16)
include hr hb hm

/-- The test that all tracks of the access have passed theirs holds at the start of the last. -/
theorem VecStarted.all_started : (((List.range 16).map (n + ·)).all fun u => u == n + m ||
    ((b.track core u).started && ((b.track core u).queue.head?.map (·.id)) == some (op m).id)) = decide (m = 15) := by
  by_cases h15 : m = 15
  · rw [decide_eq_true h15, List.all_eq_true]
    intro u hu
    obtain ⟨h1, h2⟩ := mem_trackRange.mp hu
    obtain ⟨k, rfl⟩ := Nat.exists_eq_add_of_le h1
    by_cases hk : k = m
    · simp [hk]
    · rw [hb.of_lt (by omega : k < m)]
      simp [hr.queue k (by omega), hr.id k, hr.id m]
  · rw [decide_eq_false h15, List.all_eq_false]
    refine ⟨n + 15, mem_trackRange.mpr (by omega), ?_⟩
    rw [hb.of_le (by omega : m ≤ 15)]
    simp [hr.started 15 (by omega)]
    omega

theorem VecStarted.succ :
    VecStarted core n (m + 1) ((b.onEvent (.trackAccessStart core (n + m))).accessStart core (n + m)) v := by
  let c := b.onEvent (.trackAccessStart core (n + m))
  have hc : VecStarted core n m c v := ⟨(b.onEvent_sameContexts _).trans hb.same, hb.track, hb.port⟩
  have hct : c.track core (n + m) = v.track core (n + m) := hc.of_le le_rfl
  have hall : ((op m).act.tracks (n + m)).all (fun u => u == n + m ||
      ((c.track core u).started && ((c.track core u).queue.head?.map (·.id)) == some (op m).id)) = decide (m = 15) := by
    rw [hr.tracks]
    exact hc.all_started hr hm
  have hstart := State.accessStart_aligned (s := c) (core := core) (n := n + m) (op := op m) (rest := [])
    (by rw [hct]; exact hr.queue m hm) (by rw [hct]; exact hr.started m hm) (by rw [hct]; exact hr.motion m hm)
    (by rw [hct]; exact hr.probe m hm) (hr.moves m) (by rw [hct]; exact hr.unseat m hm) (by rw [hct]; exact hr.phys m hm)
    (by rw [hct]; exact hr.slip m hm)
  rw [hall] at hstart
  have hmark (k : Nat) : (c.modTrack core (n + m) fun tr => { tr with started := true }).track core k =
      if k = n + m then { c.track core (n + m) with started := true } else c.track core k := State.track_modTrack ..
  by_cases h15 : m = 15
  · have hport : ¬ c.clk < (c.core core).portAt := by
      rw [hc.same.clk, hc.port hm]
      exact not_lt.mpr hr.port
    rw [if_pos (decide_eq_true h15), if_neg hport] at hstart
    rw [hstart]
    refine hc.mark ((State.later_frame _ _ _).sameContexts.trans ((State.takePort_sameContexts _ _).trans
      (State.modTrack_frame _ _ _ _).sameContexts)) (fun k => ?_) (fun h => by omega)
    rw [State.track_later, State.track_takePort]
    exact hmark k
  · rw [if_neg (by simpa using h15)] at hstart
    rw [hstart]
    exact hc.mark (State.modTrack_frame _ _ _ _).sameContexts hmark fun _ => (State.modTrack_frame _ _ _ _).ports core

end

theorem follows_starts {core n : Nat} {op : Nat → TrkOp} {v : State} (hr : VecReady core n op v) (m : Nat) (hm : m ≤ 16) :
    Follows ((List.range m).map fun k => .trackAccessStart core (n + k)) v fun b => VecStarted core n m b v := by
  induction m with
  | zero => exact .refl core n v
  | succ m ih =>
    rw [List.range_succ, List.map_append]
    exact ((ih (by omega)).imp fun b hb => happens_start (P := fun b => VecStarted core n (m + 1) b v) (hb.succ hr hm)).append

/-! The access over the settled state. -/

theorem vecOp_moves {id t port c len i h : Nat} {act : TrkAct} {d : Dst} (ha : act ≠ .seek) :
    (vecOp id t port c act d len i h).act ≠ .seek := by
  unfold vecOp
  by_cases hi : i = 0 <;> simp [hi, ha]

theorem vecOp_tracks {id t port c len i h : Nat} {act : TrkAct} {d : Dst} (ha : act.tracks t = (List.range 16).map (t + ·)) :
    (vecOp id t port c act d len i h).act.tracks (t + i) = (List.range 16).map (t + ·) := by
  unfold vecOp
  by_cases hi : i = 0
  · subst hi; exact ha
  · simp only [if_neg hi]; rfl

theorem vecOp_lead {id t port c len i h : Nat} {act : TrkAct} {d : Dst} (ha : act.lead t = t) :
    (vecOp id t port c act d len i h).act.lead (t + i) = t := by
  unfold vecOp
  by_cases hi : i = 0
  · subst hi; exact ha
  · simp only [if_neg hi]; rfl

/-- An access of 16 clear tracks, queued and held at, is ready to start. -/
theorem vecReady_of_held {s v : State} {f : Form} {o : Operand} {act : TrkAct} {d : Dst} {w : Wait} {warn : Bool}
    (hc : ∀ k, k < 16 → ClearTrack s (o.num + k)) (ha : act ≠ .seek) (ht : act.tracks o.num = (List.range 16).map (o.num + ·))
    (hl : act.lead o.num = o.num) (hv : HeldAt w 1 warn v (s.settleMine.vecQueued f o act d)) :
    VecReady s.cur.core o.num (s.settleMine.vecEntry f o act d) v := by
  have hu := s.settleMine_frame
  have hsame := s.settleMine.vecQueued_same f o act d
  have htr (k : Nat) (hk : k < 16) : v.track s.cur.core (o.num + k) =
      { s.settleMine.track s.cur.core (o.num + k) with queue := [s.settleMine.vecEntry f o act d k] } := by
    have h := s.settleMine.track_vecQueued f o act d hk
    rw [hu.cur, (hc k hk).queue, List.nil_append] at h
    exact (hv.track _ _).trans h
  constructor
  case queue => exact fun k hk => by rw [htr k hk]
  case started => exact fun k hk => by rw [htr k hk]; exact (hc k hk).started
  case motion => exact fun k hk => by rw [htr k hk]; exact (hc k hk).motion
  case probe => exact fun k hk => by rw [htr k hk]; exact (hc k hk).probe
  case unseat => exact fun k hk => by rw [htr k hk]; exact (hc k hk).unseat
  case phys => exact fun k hk => by rw [htr k hk]; exact (hc k hk).phys.trans (by rw [State.vecEntry, vecOp, hu.cur])
  case slip => exact fun k hk => by rw [htr k hk]; exact (hc k hk).slip
  case port =>
    rw [hv.ports, State.vecQueued_ports, hu.ports, hv.clk, hsame.clk, hu.clk]
    exact (hc 0 (by omega)).port
  case id => exact fun _ => rfl
  case moves => exact fun _ => vecOp_moves ha
  case tracks => exact fun _ => vecOp_tracks ht
  case lead => exact fun _ => vecOp_lead hl

end Sys2Proof.Machine
end

section
/-! SUPPORT. The completion of an access of 16 tracks (R332, R334). -/
namespace Sys2Proof.Machine

/-! The words read (R334). -/

/-- One lane's read. -/
def readLane (core lead port : Nat) (acc : List (Nat × Nat) × List Nat × State) (i : Nat) : List (Nat × Nat) × List Nat × State :=
  let (got, bad, s) := acc
  let tr := s.track core (lead + i)
  let (w, b, s) := s.trackWord core (lead + i) (trackPos port tr.phys tr.slip)
  (got ++ [(i, w)], if b then bad ++ [i] else bad, s)

theorem State.readLanes_fold (s : State) (core lead port : Nat) :
    s.readLanes core lead port = (List.range 16).foldl (readLane core lead port) ([], [], s) := rfl

/-- The words of 16 tracks at their places, by lane. -/
def Core.laneWords (k : Core) (lead : Nat) (p : Nat → Nat) (m : Nat) : List (Nat × Nat) :=
  (List.range m).map fun i => (i, (k.words.get (1024 * (lead + i) + p i) 0).toNat)

section
variable {s : State} {core lead port : Nat} {p : Nat → Nat}
  (hp : ∀ k, k < 16 → trackPos port (s.track core (lead + k)).phys (s.track core (lead + k)).slip = some (p k))
include hp

theorem State.readLanes_clean (hb : ∀ k, k < 16 → (s.core core).badWords.contains (1024 * (lead + k) + p k) = false) :
    s.readLanes core lead port = ((s.core core).laneWords lead p 16, [], s) := by
  have hfold (m : Nat) (hm : m ≤ 16) : (List.range m).foldl (readLane core lead port) ([], [], s) = ((s.core core).laneWords lead p m, [], s) := by
    induction m with
    | zero => rfl
    | succ m ih =>
      rw [List.range_succ, List.foldl_append, ih (by omega)]
      simp only [List.foldl_cons, List.foldl_nil, readLane, hp m (by omega), State.trackWord, hb m (by omega), Core.laneWords,
        List.range_succ, List.map_append, List.map_cons, List.map_nil]
      rfl
  rw [State.readLanes_fold]
  exact hfold 16 le_rfl

/-! The words written (R334). -/

/-- What the writes of the first `m` lanes of `v` leave of `s`. -/
structure LanesWritten (s : State) (core lead : Nat) (p : Nat → Nat) (v m : Nat) (t : State) : Prop where
  cur : t.cur = s.cur
  ctx : ∀ n d, t.ctx n d = s.ctx n d
  track : ∀ k, t.track core k = s.track core k
  mem : MemKept s t
  written : ∀ k, k < m → (t.core core).words.get (1024 * (lead + k) + p k) 0 = BitVec.ofNat 32 (bits v (32 * k) 32)
  other : ∀ j, (∀ k, k < m → j ≠ 1024 * (lead + k) + p k) → (t.core core).words.get j 0 = (s.core core).words.get j 0

theorem State.writeLanes_written (v : Nat) (hlt : ∀ k, k < 16 → p k < 1024) :
    LanesWritten s core lead p v 16 (s.writeLanes core lead port v []) := by
  have hfold (m : Nat) (hm : m ≤ 16) : LanesWritten s core lead p v m ((List.range m).foldl (fun s i =>
      let tr := s.track core (lead + i)
      s.setTrackWord core (lead + i) (trackPos port tr.phys tr.slip) (bits v (32 * i) 32) false) s) := by
    induction m with
    | zero => exact ⟨rfl, fun _ _ => rfl, fun _ => rfl, .refl s, fun _ h => absurd h (Nat.not_lt_zero _), fun _ _ => rfl⟩
    | succ m ih =>
      rw [List.range_succ, List.foldl_append, List.foldl_cons, List.foldl_nil]
      obtain ⟨hcur, hctx, htr, hmem, hw, ho⟩ := ih (by omega)
      generalize List.foldl _ s (List.range m) = t at hcur hctx htr hmem hw ho ⊢
      dsimp only
      rw [htr, hp m (by omega)]
      obtain ⟨h1, h2, h3, h4, _, h6⟩ := t.setTrackWord_some core (lead + m) (p m) (bits v (32 * m) 32) false
      refine ⟨h6.trans hcur, fun n d => (h1 n d).trans (hctx n d), fun k => (h2 k).trans (htr k), hmem.trans h4, fun k hk => ?_, fun j hj => ?_⟩
      · rw [h3]
        by_cases hkm : k = m
        · subst hkm; rw [if_pos rfl]
        · have := hlt k (by omega)
          have := hlt m (by omega)
          rw [if_neg (by omega), hw k (by omega)]
      · rw [h3, if_neg (hj m (by omega)), ho j fun k hk => hj k (by omega)]
  exact hfold 16 le_rfl

end

/-! The access taken off its queues. -/

/-- Tracks that neither move nor are probed. -/
def State.stillTracks (s : State) (core n : Nat) : Prop :=
  ∀ k, k < 16 → (s.track core (n + k)).motion = none ∧ (s.track core (n + k)).probe = none

theorem State.popFrom_still {s : State} {core u : Nat} (op : TrkOp) (hm : (s.track core u).motion = none)
    (hp : (s.track core u).probe = none) : TrackFrame (· = ·) (s.popFrom core op u) s ∧
      ((s.popFrom core op u).track core u).motion = none ∧ ((s.popFrom core op u).track core u).probe = none := by
  have hs : s.settle core u = s := State.settle_of_still hm (.inl hp)
  have hf := s.popFrom_of_settled core op u
  rw [hs] at hf
  refine ⟨hf, ?_⟩
  unfold State.popFrom
  dsimp only
  rw [hs]
  split
  · rw [State.track_kickTrack, State.track_modTrack_self, State.track_cancel]
    exact ⟨hm, rfl⟩
  · rw [State.track_modTrack_self]
    exact ⟨hm, hp⟩

/-- Taking an access off tracks that are still changes no context. -/
theorem State.popAccess_still {s : State} {core n : Nat} {op : TrkOp} (ht : op.act.tracks n = (List.range 16).map (n + ·))
    (hs : s.stillTracks core n) : TrackFrame (· = ·) (s.popAccess core n op) s := by
  rw [State.popAccess_eq, ht]
  refine (List.foldlRecOn (motive := fun t : State => TrackFrame (· = ·) t s ∧ t.stillTracks core n) _ _ ⟨.refl (fun _ => rfl) s, hs⟩
    fun t ⟨hf, ht⟩ u hu => ?_).1
  obtain ⟨h1, h2⟩ := mem_trackRange.mp hu
  obtain ⟨k, rfl⟩ := Nat.exists_eq_add_of_le h1
  obtain ⟨hm, hp⟩ := ht k (by omega)
  obtain ⟨hpf, hpm, hpp⟩ := State.popFrom_still op hm hp
  refine ⟨hpf.transEq hf, fun j hj => ?_⟩
  by_cases hjk : j = k
  · subst hjk; exact ⟨hpm, hpp⟩
  · rw [t.track_popFrom_ne core op (by omega : n + j ≠ n + k)]; exact ht j hj

/-! Lanes delivered. -/

theorem bits_ofNat (x m lo n : Nat) (h : lo + n ≤ m) : bits (BitVec.ofNat m x).toNat lo n = bits x lo n := by
  rw [BitVec.toNat_ofNat, bits_mod _ _ _ _ h]

/-- Words set by lane read back. -/
theorem bits_foldl_setBits (w : Nat → Nat) (m x k : Nat) (hk : k < m) :
    bits (((List.range m).map fun i => (i, w i)).foldl (fun v g => setBits v (32 * g.1) 32 g.2) x) (32 * k) 32 = w k % 2 ^ 32 := by
  induction m with
  | zero => omega
  | succ m ih =>
    rw [List.range_succ, List.map_append, List.foldl_append]
    simp only [List.map_cons, List.map_nil, List.foldl_cons, List.foldl_nil]
    by_cases hkm : k = m
    · subst hkm; exact bits_setBits_self ..
    · rw [bits_setBits_ne _ _ _ _ _ _ (by omega), ih (by omega)]

/-- The words of 16 tracks delivered to a vector. -/
theorem Ctx.lane_deliver (x : Ctx) (c : Core) (lead d k : Nat) (p : Nat → Nat) (hk : k < 16) :
    lane ((x.deliver (.vec d 32 []) (c.laneWords lead p 16)).vreg d) 32 k = (c.words.get (1024 * (lead + k) + p k) 0).toNat := by
  show lane ((x.setV d _).vreg d) 32 k = _
  rw [Ctx.vreg_setV, if_pos rfl, lane, bits_ofNat _ 512 _ _ (by omega), Core.laneWords, bits_foldl_setBits _ _ _ _ hk]
  exact Nat.mod_eq_of_lt (BitVec.isLt _)

theorem Ctx.sreg_deliver_vec (x : Ctx) (got : List (Nat × Nat)) (d r : Nat) : (x.deliver (.vec d 32 []) got).sreg r = x.sreg r := rfl

theorem Ctx.vreg_deliver_vec (x : Ctx) (got : List (Nat × Nat)) {d r : Nat} (h : r ≠ d) :
    (x.deliver (.vec d 32 []) got).vreg r = x.vreg r := by
  show (x.setV d _).vreg r = _
  rw [Ctx.vreg_setV, if_neg h]

end Sys2Proof.Machine
end

section
/-! SUPPORT. TRDV and TWRV from their issue to their completion (R334). -/
namespace Sys2Proof.Machine

/-- A state in which an access of 16 tracks, which the acting context is held at, has the ports of its tracks. -/
structure VecAtPort (warn : Bool) (n : Nat) (op : Nat → TrkOp) (b u : State) : Prop where
  cur : b.cur = u.cur
  me : HeldCtx (.track n (op 0).id) 1 warn b.me u.me
  words : ∀ m, (b.core m).words = (u.core m).words ∧ (b.core m).badWords = (u.core m).badWords
  mem : MemKept u b
  track : ∀ k, k < 16 → b.track u.cur.core (n + k) = { u.track u.cur.core (n + k) with queue := [op k], started := true }

theorem vecAtPort_of_started {s v b : State} {f : Form} {o : Operand} {act : TrkAct} {d : Dst} {warn : Bool}
    (hc : ∀ k, k < 16 → ClearTrack s (o.num + k)) (hv : HeldAt (.track o.num s.nextId) 1 warn v (s.settleMine.vecQueued f o act d))
    (hb : VecStarted s.cur.core o.num 16 b v) : VecAtPort warn o.num (s.settleMine.vecEntry f o act d) b s.settleMine := by
  have hu := s.settleMine_frame
  have hsame := s.settleMine.vecQueued_same f o act d
  refine ⟨hb.same.cur.trans (hv.cur.trans hsame.cur), ?_, fun m => ?_, hsame.mem.trans (hv.memKept.trans hb.same.mem), fun k hk => ?_⟩
  · rw [hb.same.me, ← hsame.me]
    have : (s.settleMine.vecEntry f o act d 0).id = s.nextId := hu.nextId
    rw [this]
    exact hv.me
  · have h1 := hb.same.words m
    have h2 := hv.words m
    have h3 := hsame.words m
    exact ⟨h1.1.trans (h2.1.trans h3.1), h1.2.trans (h2.2.trans h3.2)⟩
  · have h := s.settleMine.track_vecQueued f o act d hk
    rw [hu.cur, (hc k hk).queue, List.nil_append] at h
    rw [hu.cur, hb.of_lt hk, hv.track, h]

/-- An instruction that accesses 16 clear tracks completes by their starts and the access's completion. -/
theorem completesBy_vecAccess {i : Instr} {f : Form} {p q : Pos} {act : VWord → TrkAct} {d : Dst} {s : State} {warns named : Bool}
    {P : State → Prop} (h : Runs f 128 s) (he : exec i s = issueWith f 128 warns named false noReport (trackVec f p q act d) s)
    (hv : VecOperands s f (p.of f) (q.of f) q) (hc : ∀ k, k < 16 → ClearTrack s ((p.of f).num + k))
    (ha : act (s.me.vreg (q.of f).num) ≠ .seek)
    (ht : (act (s.me.vreg (q.of f).num)).tracks (p.of f).num = (List.range 16).map ((p.of f).num + ·))
    (hl : (act (s.me.vreg (q.of f).num)).lead (p.of f).num = (p.of f).num)
    (hP : ∀ b, VecAtPort (warns || (s.me.statBit bPFX && !named)) (p.of f).num
        (s.settleMine.vecEntry f (p.of f) (act (s.me.vreg (q.of f).num)) d) b s.settleMine →
      P ((b.onEvent (.trackAccessComplete s.cur.core (p.of f).num)).accessComplete s.cur.core (p.of f).num)) :
    CompletesBy i ((List.range 16).map (fun k => .trackAccessStart s.cur.core ((p.of f).num + k)) ++
      [.trackAccessComplete s.cur.core (p.of f).num]) s P :=
  (gives_vecAccess h he hv fun k hk => (hc k hk).owned).imp fun _ hheld =>
    ((follows_starts (vecReady_of_held hc ha ht hl hheld) 16 le_rfl).imp fun b hb =>
      happens_complete (P := P) (hP b (vecAtPort_of_started hc hheld hb))).append

section Complete
variable {s : State} {core n : Nat} {op : TrkOp} {rest : List TrkOp} (hq : (s.track core n).queue = op :: rest)
  (hs : (s.track core n).started = true) (he : op.eng = none)
include hq hs he

theorem State.accessComplete_readV {got : List (Nat × Nat)} (ha : op.act = .readV) (hr : s.readLanes core n op.port = (got, [], s)) :
    s.accessComplete core n = (s.popAccess core n op).trackDone core op got := by
  unfold State.accessComplete
  simp only [hq, hs, ha, he, hr]
  rfl

theorem State.accessComplete_writeV {v : VWord} (ha : op.act = .writeV v) :
    s.accessComplete core n = ((s.writeLanes core n op.port v.toNat []).popAccess core n op).trackDone core op [] := by
  unfold State.accessComplete
  simp only [hq, hs, ha, he]
  rfl

end Complete

section VecAtPort
variable {warn : Bool} {n : Nat} {p : Nat → Nat} {op : Nat → TrkOp} {b u : State} (h : VecAtPort warn n op b u)
  (hst : u.stillTracks u.cur.core n) (hop : (op 0).ctx = u.cur.ctx) (heng : (op 0).eng = none) (hs : u.me.statBit bSTEP = false)
  (hpos : ∀ k, k < 16 → trackPos (op 0).port (u.track u.cur.core (n + k)).phys (u.track u.cur.core (n + k)).slip = some (p k))
include h hst hop heng hs hpos

theorem VecAtPort.read {d : Nat} (ha : (op 0).act = .readV) (hd : (op 0).dst = .vec d 32 [])
    (hw : ∀ k, k < 16 → (u.core u.cur.core).badWords.contains (1024 * (n + k) + p k) = false) :
    let t := (b.onEvent (.trackAccessComplete u.cur.core n)).accessComplete u.cur.core n
    (∀ k, k < 16 → lane (t.me.vreg d) 32 k = ((u.core u.cur.core).words.get (1024 * (n + k) + p k) 0).toNat) ∧
      (t.core u.cur.core).words = (u.core u.cur.core).words ∧ RegsKept { vecs := [d] } u t ∧ MemKept u t ∧
      Completed warn (u.me.pc + BitVec.ofNat 64 (op 0).len) u t := by
  let c := b.onEvent (.trackAccessComplete u.cur.core n)
  have hbc : MemKept b c := .of_eq rfl rfl rfl rfl
  have hct (k : Nat) (hk : k < 16) : c.track u.cur.core (n + k) =
      { u.track u.cur.core (n + k) with queue := [op k], started := true } := h.track k hk
  have hlanes := State.readLanes_clean (s := c) (core := u.cur.core) (lead := n) (port := (op 0).port) (p := p)
    (fun k hk => by rw [hct k hk]; exact hpos k hk) fun k hk => by
      show (b.core u.cur.core).badWords.contains _ = false
      rw [(h.words _).2]
      exact hw k hk
  have hread := State.accessComplete_readV (s := c) (core := u.cur.core) (n := n) (op := op 0) (rest := [])
    (congrArg Track.queue (hct 0 (by omega))) (congrArg Track.started (hct 0 (by omega))) heng ha hlanes
  have hfr := State.popAccess_still (s := c) (core := u.cur.core) (n := n) (op := op 0) (by rw [ha]; rfl)
    fun k hk => by rw [hct k hk]; exact hst k hk
  have hyme : (c.popAccess u.cur.core n (op 0)).me = b.me := hfr.me
  have hfin := State.trackDone_finished (u := u) (n := n) (warn := warn) (ph := 1) ((c.core u.cur.core).laneWords n p 16)
    (hfr.cur.trans h.cur) (by rw [hyme]; exact h.me) hop hs
  intro t
  have ht : t = (c.popAccess u.cur.core n (op 0)).trackDone u.cur.core (op 0) ((c.core u.cur.core).laneWords n p 16) := hread
  rw [← ht] at hfin
  refine ⟨fun k hk => ?_, (hfin.words _).trans ((hfr.words _).1.trans (h.words _).1), hfin.kept _ (fun r _ => ?_) fun r hr => ?_,
    h.mem.trans (hbc.trans (hfr.memKept.trans hfin.mem)), hfin.done⟩
  · rw [hfin.vreg, hd, Ctx.lane_deliver _ (c.core u.cur.core) n d k p hk]
    exact congrArg (fun ws : Assoc (BitVec 32) => (ws.get (1024 * (n + k) + p k) 0).toNat) (h.words _).1
  · rw [hfin.sreg, hd, hyme, Ctx.sreg_deliver_vec]; exact h.me.as.sreg r
  · rw [hfin.vreg, hd, hyme, Ctx.vreg_deliver_vec _ _ (by simpa using hr)]; exact h.me.as.vreg r

theorem VecAtPort.write {v : VWord} (ha : (op 0).act = .writeV v) (hd : (op 0).dst = .none) (hlt : ∀ k, k < 16 → p k < 1024) :
    let t := (b.onEvent (.trackAccessComplete u.cur.core n)).accessComplete u.cur.core n
    (∀ k, k < 16 → (t.core u.cur.core).words.get (1024 * (n + k) + p k) 0 = BitVec.ofNat 32 (lane v 32 k)) ∧
      (∀ j, (∀ k, k < 16 → j ≠ 1024 * (n + k) + p k) → (t.core u.cur.core).words.get j 0 = (u.core u.cur.core).words.get j 0) ∧
      RegsKept {} u t ∧ MemKept u t ∧ Completed warn (u.me.pc + BitVec.ofNat 64 (op 0).len) u t := by
  let c := b.onEvent (.trackAccessComplete u.cur.core n)
  have hbc : MemKept b c := .of_eq rfl rfl rfl rfl
  have hct (k : Nat) (hk : k < 16) : c.track u.cur.core (n + k) =
      { u.track u.cur.core (n + k) with queue := [op k], started := true } := h.track k hk
  have hwrite := State.accessComplete_writeV (s := c) (core := u.cur.core) (n := n) (op := op 0) (rest := [])
    (congrArg Track.queue (hct 0 (by omega))) (congrArg Track.started (hct 0 (by omega))) heng ha
  obtain ⟨hwcur, hwctx, hwt, hwm, hwritten, hother⟩ := State.writeLanes_written (s := c) (core := u.cur.core) (lead := n)
    (port := (op 0).port) (p := p) (fun k hk => by rw [hct k hk]; exact hpos k hk) v.toNat hlt
  let e := c.writeLanes u.cur.core n (op 0).port v.toNat []
  have hfr := State.popAccess_still (s := e) (core := u.cur.core) (n := n) (op := op 0) (by rw [ha]; rfl)
    fun k hk => by rw [hwt, hct k hk]; exact hst k hk
  have heme : e.me = b.me := by rw [State.me_eq hwcur]; exact hwctx _ _
  have hyme : (e.popAccess u.cur.core n (op 0)).me = b.me := hfr.me.trans heme
  have hfin := State.trackDone_finished (u := u) (n := n) (warn := warn) (ph := 1) [] (hfr.cur.trans (hwcur.trans h.cur))
    (by rw [hyme]; exact h.me) hop hs
  intro t
  have ht : t = (e.popAccess u.cur.core n (op 0)).trackDone u.cur.core (op 0) [] := hwrite
  rw [← ht] at hfin
  refine ⟨fun k hk => ?_, fun j hj => ?_, hfin.kept _ (fun r _ => ?_) fun r _ => ?_,
    h.mem.trans (hbc.trans (hwm.trans (hfr.memKept.trans hfin.mem))), hfin.done⟩
  · rw [hfin.words, (hfr.words _).1]; exact hwritten k hk
  · rw [hfin.words, (hfr.words _).1, hother j hj]
    show (b.core u.cur.core).words.get j 0 = _
    rw [(h.words _).1]
  · rw [hfin.sreg, hd, hyme]; exact h.me.as.sreg r
  · rw [hfin.vreg, hd, hyme]; exact h.me.as.vreg r

end VecAtPort

/-! TRDV and TWRV. -/

section
variable {f : Form} {s : State} {p : Nat → Nat} (h : Runs f 128 s)
include h

/-- What 16 clear tracks with their places give of the settled state. -/
theorem clear_places {o : Operand} (hc : ∀ k, k < 16 → ClearTrack s (o.num + k)) (hp : ∀ k, k < 16 → s.under (o.num + k) o.port (p k)) :
    s.settleMine.stillTracks s.settleMine.cur.core o.num ∧ s.settleMine.me.statBit bSTEP = false ∧
      ∀ k, k < 16 → trackPos o.port (s.settleMine.track s.settleMine.cur.core (o.num + k)).phys
        (s.settleMine.track s.settleMine.cur.core (o.num + k)).slip = some (p k) := by
  have hu := s.settleMine_frame
  rw [hu.cur]
  refine ⟨fun k hk => ⟨(hc k hk).motion, (hc k hk).probe⟩, (hu.me.statBit _).trans h.noStep, fun k hk => ?_⟩
  rw [(hc k hk).phys]
  exact State.under_pos (hp k hk)

theorem completesBy_trdv (hv : VecOperands s f f.a f.d .d) (hc : ∀ k, k < 16 → ClearTrack s (f.a.num + k))
    (hp : ∀ k, k < 16 → s.under (f.a.num + k) f.a.port (p k))
    (hw : ∀ k, k < 16 → (s.settleMine.core s.cur.core).badWords.contains (1024 * (f.a.num + k) + p k) = false) :
    CompletesBy (.trdv f) ((List.range 16).map (fun k => .trackAccessStart s.cur.core (f.a.num + k)) ++
      [.trackAccessComplete s.cur.core f.a.num]) s fun t =>
      (∀ k, k < 16 → lane (t.me.vreg f.d.num) 32 k = ((s.settleMine.core s.cur.core).words.get (1024 * (f.a.num + k) + p k) 0).toNat) ∧
      (t.core s.cur.core).words = (s.settleMine.core s.cur.core).words ∧ RegsKept { vecs := [f.d.num] } s.settleMine t ∧
      MemKept s.settleMine t ∧ t.me.pc = (s.me.loopEnd (s.fall f) 5).pc ∧ t.me.block = none := by
  obtain ⟨hst, hstep, hpos⟩ := clear_places h hc hp
  have hu := s.settleMine_frame
  refine completesBy_vecAccess (p := .a) (q := .d) h (exec_trdv h.unit) hv hc (by simp) rfl rfl fun b hb => ?_
  have hread := hb.read (p := p) hst rfl rfl hstep hpos rfl rfl (by rw [hu.cur]; exact hw)
  rw [hu.cur] at hread
  obtain ⟨hl, hwd, hk, hm, hd⟩ := hread
  exact ⟨hl, hwd, hk, hm, hd.pc.trans (by rw [hu.me.loopEnd, hu.me.pc]; rfl), hd.free⟩

theorem completesBy_twrv (hv : VecOperands s f f.d f.a .a) (hc : ∀ k, k < 16 → ClearTrack s (f.d.num + k))
    (hp : ∀ k, k < 16 → s.under (f.d.num + k) f.d.port (p k)) :
    CompletesBy (.twrv f) ((List.range 16).map (fun k => .trackAccessStart s.cur.core (f.d.num + k)) ++
      [.trackAccessComplete s.cur.core f.d.num]) s fun t =>
      (∀ j, (∀ k, k < 16 → j = 1024 * (f.d.num + k) + p k →
          ((t.core s.cur.core).words.get j 0).toNat = lane (s.me.vreg f.a.num) 32 k) ∧
        ((∀ k, k < 16 → j ≠ 1024 * (f.d.num + k) + p k) →
          (t.core s.cur.core).words.get j 0 = (s.settleMine.core s.cur.core).words.get j 0)) ∧
      RegsKept {} s.settleMine t ∧ MemKept s.settleMine t ∧ t.me.pc = (s.me.loopEnd (s.fall f) 5).pc ∧ t.me.block = none := by
  obtain ⟨hst, hstep, hpos⟩ := clear_places h hc hp
  have hu := s.settleMine_frame
  refine completesBy_vecAccess (p := .d) (q := .a) h (exec_twrv h.unit) hv hc (by simp) rfl rfl fun b hb => ?_
  have hwrite := hb.write (p := p) (v := s.me.vreg f.a.num) hst rfl rfl hstep hpos rfl rfl fun k hk => (hp k hk).2
  rw [hu.cur] at hwrite
  obtain ⟨hwd, ho, hk, hm, hd⟩ := hwrite
  refine ⟨fun j => ⟨fun k hk hj => ?_, ho j⟩, hk, hm, hd.pc.trans (by rw [hu.me.loopEnd, hu.me.pc]; rfl), hd.free⟩
  rw [hj]
  refine (congrArg BitVec.toNat (hwd k hk)).trans ?_
  rw [BitVec.toNat_ofNat]
  exact Nat.mod_eq_of_lt (Nat.mod_lt _ (Nat.two_pow_pos 32))

end

end Sys2Proof.Machine
end

section
/-! SUPPORT. Instructions on tracks, each with its cases together; and the statement about them (O31). -/
namespace Sys2Proof.Machine

theorem ClearTrack.of_and {s : State} {n : Nat} (h : let tr := s.settleMine.track s.cur.core n
      tr.queue = [] ∧ tr.motion = none ∧ tr.probe = none ∧ tr.started = false ∧ tr.unseat = false ∧ tr.phys = tr.head ∧
      tr.slip % 8 = 0 ∧ s.owns n ∧ (s.core s.cur.core).portAt ≤ s.clk) : ClearTrack s n := by
  obtain ⟨hq, hm, hp, hs, hu, hph, hsl, ho, hport⟩ := h
  exact ⟨hq, hm, hp, hs, hu, hph, hsl, ho, hport⟩

/-- A seek's case in the form of its statement, over the settled state. -/
theorem gives_sought {i : Instr} {f : Form} {s : State} {n a : Nat} {body : State → Res} (h : Runs f 4 s)
    (he : exec i s = issueCost f 4 body s) (hb : body s = seekTo n a s.settleMine) : Gives i s fun t =>
      let u := s.settleMine
      let tr := u.track s.cur.core n
      let waits := tr.queue ≠ [] ∨ ∃ m, tr.motion = some m ∧ m.step = true
      (t.track s.cur.core n).head = a ∧
      (¬waits → (t.track s.cur.core n).motion = some ⟨tr.phys, a, s.clk, 0, s.cur.ctx, false, false⟩ ∧
        (t.track s.cur.core n).queue = [] ∧
        (s.clk + 2 * ((a : Int) - tr.phys).natAbs, Event.trackMotionEnd s.cur.core n) ∈ t.due) ∧
      (waits → (t.track s.cur.core n).motion = tr.motion ∧
        (t.track s.cur.core n).queue = tr.queue ++ [⟨s.nextId, .seek, 0, a, s.cur.ctx, none, .none, 0⟩]) ∧
      ((∀ k, k ≠ n → t.track s.cur.core k = u.track s.cur.core k) ∧
        (∀ m d, ¬(m = s.cur.core ∧ d = s.cur.ctx) → t.ctx m d = u.ctx m d) ∧ MemKept u t) ∧
      RegsKept {} u t ∧ Completed (s.plainWarn f) (s.fall f) s t := by
  have hu := s.settleMine_frame
  refine (gives_seek h he hb).imp fun t ⟨hs, ho, hm, hk, hd⟩ => ?_
  obtain ⟨hhead, hmoves, hwaits, hothers⟩ := hs
  rw [hu.cur, hu.clk] at hmoves
  rw [hu.cur, hu.nextId] at hwaits
  rw [hu.cur] at hhead hothers
  exact ⟨hhead, hmoves, hwaits, ⟨hothers, ho, hm⟩, hk, hd⟩

/-- The test of the helper that a TOWN names. -/
theorem State.townBadHelper_of_bounds {s : State} {f : Form} (h : s.townHelper f = 0 ∨ 10 < s.townHelper f) : s.townBadHelper f = true := by
  rcases h with h | h <;> simp [State.townBadHelper, h]

theorem State.townBadHelper_recover {s : State} {f : Form} (h1 : 1 ≤ s.townHelper f) (h2 : s.townHelper f ≤ 10)
    (hg : s.townRecovers f = true) : s.townBadHelper f = false := by
  simp [State.townBadHelper, hg]
  omega

theorem State.townBadHelper_give {s : State} {f : Form} (h1 : 1 ≤ s.townHelper f) (h2 : s.townHelper f ≤ 10)
    (hg : s.townRecovers f = false) : s.townBadHelper f = true ↔
      (s.ctx s.cur.core (s.townHelper f)).st = .drain ∨ (s.ctx s.cur.core (s.townHelper f)).st = .saved := by
  have h1' : ¬ s.townHelper f < 1 := by omega
  have h2' : ¬ 10 < s.townHelper f := by omega
  simp [State.townBadHelper, hg, h1', h2']

/-- Settles O31: over the settled state a seek moves the track or is queued, an access is queued and holds its context, and its
starts and its completion finish the instruction; TOWN by its cases. -/
theorem trackInstructions : Obligations.TrackInstructions := by
  unfold Obligations.TrackInstructions
  refine fun f s => ⟨fun h => ?access, fun h => ?seek, fun h => ?vectors, fun h _ hc => traps_town h hc, fun h hb hc => ?town⟩
  case access =>
    refine ⟨fun p hcl hun hbad => ?_, fun p hcl hun => ?_, fun ho => exec_notOwned h (exec_trd f s) rfl ho,
      fun ho => exec_notOwned h (exec_twr f s) rfl ho, fun ho => gives_queued h (exec_trd f s) (ownedTrack_owned ho),
      fun ho => gives_queued h (exec_trds f s) (ownedTrack_owned ho),
      fun ho => gives_queued h (exec_twr f s) ((ownedTrack_owned ho).trans (writeBody_settled _ f s)),
      fun ho => gives_queued h (exec_twrs f s) ((ownedTrack_owned ho).trans (writeBody_settled _ f s))⟩
    · refine List.forall_mem_cons.mpr ⟨?_, List.forall_mem_singleton.mpr ?_⟩
      · exact completesBy_read h (exec_trd f s) (.of_and hcl) hun hbad
      · exact completesBy_read h (exec_trds f s) (.of_and hcl) hun hbad
    · refine List.forall_mem_cons.mpr ⟨?_, List.forall_mem_singleton.mpr ?_⟩
      · exact completesBy_write h (exec_twr f s) (.of_and hcl) hun
      · exact completesBy_write h (exec_twrs f s) (.of_and hcl) hun
  case seek =>
    refine ⟨fun ho => exec_notOwned h (exec_tseek f s) rfl ho, fun ho => exec_notOwned h (exec_trew f s) rfl ho,
      fun ho => exec_notOwned h (exec_thead f s) rfl ho,
      fun ha ho => gives_sought h (exec_tseek f s) ((ownedTrack_owned ho).trans (tseekBody_inRange ha)),
      fun ho ha hl => exec_tseek_range h ho ha hl, fun ho => gives_sought h (exec_trew f s) (ownedTrack_owned ho),
      fun ho => gives_thead h ho, ?_, fun ho => ⟨fun hi hs => gives_tsync_still h ho hi hs, fun hi => gives_tsync_busy h ho hi⟩⟩
    cases hs : s.syncing f.d.num with
    | true => exact .inr rfl
    | false => exact .inl fun ho => exec_notOwned h (exec_tsync f s) (tsyncBody_asked hs) ho
  case vectors =>
    refine ⟨fun p hv hc => ?_, fun p hv hc => ?_, fun e g hl he hs hg ho => ?_, fun e g hl he hs hg ho => ?_⟩
    · obtain ⟨hl, hs, hent⟩ := hv
      exact completesBy_trdv h ⟨hl, hs, hent⟩ (fun k hk => .of_and (hc k hk).1) (fun k hk => (hc k hk).2.1) fun k hk => (hc k hk).2.2
    · obtain ⟨hl, hs, hent⟩ := hv
      exact completesBy_twrv h ⟨hl, hs, hent⟩ (fun k hk => .of_and (hc k hk).1) fun k hk => (hc k hk).2
    · exact gives_vecQueued (p := .a) (q := .d) h (exec_trdv h.unit) ⟨hl, hs, e, g, he, hg⟩ ho
    · exact gives_vecQueued (p := .d) (q := .a) h (exec_twrv h.unit) ⟨hl, hs, e, g, he, hg⟩ ho
  case town =>
    refine ⟨fun hr => town_badRange h hb hc hr, fun hr hh => town_badHelper h hb hc hr (State.townBadHelper_of_bounds hh),
      fun hr h1 h2 hg => ⟨fun hst => town_badHelper h hb hc hr ((State.townBadHelper_give h1 h2 hg).mpr hst), fun hd hs => ?_⟩,
      fun hr h1 h2 hg => ?_⟩
    · have hh : s.townBadHelper f = false := by
        rw [← Bool.not_eq_true, State.townBadHelper_give h1 h2 hg]
        exact not_or.mpr ⟨hd, hs⟩
      exact ⟨fun ho => town_give_notOwned h hb hc hr hh hg ho, fun ho => ⟨fun hsu => town_suspect h hb hc hr hh hg ho hsu,
        fun hsu => town_gives h hb hc hr hh hg ho hsu⟩⟩
    · have hh := State.townBadHelper_recover h1 h2 hg
      exact ⟨fun ho => town_recover_notOwned h hb hc hr hh hg ho, fun ho => ⟨fun hi => town_takes h hb hc hr hh hg ho hi,
        fun hi => town_waits h hb hc hr hh hg ho hi⟩⟩

end Sys2Proof.Machine
end

section
/-! SUPPORT. Loads and stores at virtual addresses: what C1 serves, the request that leaves otherwise, and the journal entry of a
store (R93, R316 to R318, R325): O26. -/
namespace Sys2Proof.Machine

/-! Requests on their way (R72, R93). -/

theorem Assoc.find?_insertSorted_self {α : Type} (m : Assoc α) (k : Nat) (v : α) (h : Assoc.has m k = false) :
    (Assoc.insertSorted m k v).find? (·.1 == k) = some (k, v) := by
  induction m with
  | nil => simp [Assoc.insertSorted]
  | cons e m ih =>
    simp only [Assoc.has, List.any_cons, Bool.or_eq_false_iff] at h
    unfold Assoc.insertSorted
    split
    · simp
    · rw [List.find?_cons, h.1]
      exact ih h.2

@[simp] theorem Assoc.find?_put_self {α : Type} (m : Assoc α) (k : Nat) (v : α) :
    (Assoc.put m k v).find? (·.1 == k) = some (k, v) :=
  Assoc.find?_insertSorted_self _ _ _ (Assoc.has_erase m k)

/-- The state with a request under the next number, on its way to its home. -/
def State.sent (s : State) (r : Req) (d : Nat) : State :=
  ({ s with nextId := s.nextId + 1, reqs := s.reqs.put s.nextId r } : State).later d (.c2Request s.nextId)

theorem State.submit_of_virtual {s : State} {r : Req} {e : Elem} {es : List Elem} (h : r.els = e :: es) (hv : e.va < meshBase) :
    ∃ d, s.submit r = (s.nextId, s.sent r d) := by
  refine ⟨homeLat r.core (s.firstHome r.core r.asid e.va) / 2, ?_⟩
  unfold State.submit
  dsimp only [State.fresh]
  rw [h]
  simp only [hv, if_true]
  rfl

section Sent
variable (s : State) (r : Req) (d : Nat)

@[simp] theorem State.sent_cur : (s.sent r d).cur = s.cur := rfl
@[simp] theorem State.sent_me : (s.sent r d).me = s.me := rfl
@[simp] theorem State.sent_core (n : Nat) : (s.sent r d).core n = s.core n := rfl

theorem State.sent_request : (s.sent r d).reqs.find? (·.1 == s.nextId) = some (s.nextId, r) := Assoc.find?_put_self ..

theorem State.sent_due : ∃ k, (k, Event.c2Request s.nextId) ∈ (s.sent r d).due := ⟨_, mem_dueInsert ..⟩

theorem State.sent_memKept : MemKept s (s.sent r d) := .of_eq rfl rfl rfl rfl

end Sent

/-! The element of a scalar access (R316). -/

theorem scalarElem_pick (w : Word) (n data v : Nat) : (scalarElem w n data).pick v = v := by
  by_cases h : n = 1
  · subst h; rfl
  · simp [Elem.pick, scalarElem, h]

section Hit
variable {k : Core} {asid v : Nat} {e : Elem} {c : C1Line}

theorem c1Load_of_hit (hc : k.c1Line asid (e.va / 64) = some c) (hv : e.va < meshBase) (hs : c.serves e.va e.size = true)
    (hr : c.read e.va e.size = (v, false)) : c1Load k asid [e] = some ([(e.lane, e.pick v)], none) := by
  simp [c1Load, hc, hv, hs, hr, Option.filter]

theorem c1Load_of_miss (h : k.c1Line asid (e.va / 64) = none ∨
    ∃ c, k.c1Line asid (e.va / 64) = some c ∧ c.serves e.va e.size = false) : c1Load k asid [e] = none := by
  rcases h with h | ⟨c, h, hs⟩
  · simp [c1Load, h]
  · simp [c1Load, h, hs]

end Hit

/-! Loads (R93, R316, R317). -/

theorem exec_ld_virtual (sz : LdSize) (f : Form) (s : State) (h : f.a.isLa = false) :
    exec (.ld sz f) s = issueCost f 40 (loadForm f (ldBytes sz) (ldSigned sz) false) s := by
  show issueCost f (memCost f.a) _ s = _
  simp [memCost, h]

theorem exec_ldl_virtual (sz : LdSize) (f : Form) (s : State) (h : f.a.isLa = false) :
    exec (.ldl sz f) s = issueCost f 40 (loadForm f (ldBytes sz) (ldSigned sz) false) s :=
  exec_ld_virtual sz f s h

theorem loadForm_error {f : Form} {n : Nat} {sg acq : Bool} {s : State} {e : Flt} (hla : f.a.isLa = false)
    (h : s.checkVa s.me.vf (s.me.opAddr f.a) n = .error e) : loadForm f n sg acq s = .fault s e.1 e.2 := by
  simp [loadForm, hla, h]

theorem loadForm_virtual {f : Form} {n : Nat} {sg acq : Bool} {s : State} {q : Place} (hla : f.a.isLa = false)
    (h : s.checkVa s.me.vf (s.me.opAddr f.a) n = .ok q) :
    loadForm f n sg acq s =
      loadElems f .load [scalarElem (s.me.opAddr f.a) n 0] (.scalar f.d.sreg n sg) acq false s := by
  simp [loadForm, hla, h]

/-- What a load finds in C1, where no load of its context under way has its line (R93, R151). -/
def State.c1Hit (s : State) (es : List Elem) : Option (List (Nat × Nat) × Option Nat) :=
  if s.loadUnder s.me es then none else c1Load s.myCore s.me.asid es

theorem loadElems_of_hit {f : Form} {es : List Elem} {d : Dst} {s : State} {vs : List (Nat × Nat)}
    (h : s.c1Hit es = some (vs, none)) : loadElems f .load es d false false s = .done (s.setMe (s.me.deliver d vs)) := by
  have hu : s.loadUnder s.me es = false := by
    by_contra hu
    simp [State.c1Hit, hu] at h
  simp only [State.c1Hit, hu, Bool.false_eq_true, if_false] at h
  simp [loadElems, hu, h]

/-- The request of a load of the acting context. -/
def loadReq (f : Form) (s : State) (es : List Elem) (d : Dst) : Req :=
  { core := s.cur.core, ctx := s.cur.ctx, asid := s.me.asid, op := .load, els := es, all := es, got := [], dst := d, jidx := none,
    acq := false, rel := false, done := false, mesh := es.any fun e => meshBase ≤ e.va, fault := none, len := formLen f }

/-- The acting context's count of loads that C1 has not served (R410). -/
def State.missCounted (s : State) : State := s.setMe (s.me.count 6 1)

@[simp] theorem State.missCounted_me (s : State) : s.missCounted.me = s.me.count 6 1 := s.me_setMe _

theorem Ctx.count_asid (x : Ctx) (e n : Nat) : (x.count e n).asid = x.asid := by simp [Ctx.asid]

theorem State.c1Hit_of_miss {s : State} {e : Elem} (h : s.myCore.c1Line s.me.asid (e.va / 64) = none ∨
    (∃ c, s.myCore.c1Line s.me.asid (e.va / 64) = some c ∧ c.serves e.va e.size = false) ∨ s.loadUnder s.me [e] = true) :
    s.c1Hit [e] = none := by
  unfold State.c1Hit
  split
  · rfl
  · rename_i hu
    refine c1Load_of_miss ?_
    rcases h with h | h | h
    · exact .inl h
    · exact .inr h
    · exact absurd h hu

/-- A load that C1 does not serve: its request is sent, and the context goes on where the value is foreseen, else it is held. -/
theorem loadElems_of_miss {f : Form} {e : Elem} {d : Dst} {s : State} (h : s.c1Hit [e] = none) (hv : e.va < meshBase)
    (hs : s.me.statBit bSTEP = false) :
    ∃ k, loadElems f .load [e] d false false s =
      let t := s.missCounted.sent (loadReq f s [e] d) k
      if s.foreseen s.cur.core s.me.asid .rd e then .done (t.modMe fun y => { y with loads := y.loads ++ [(s.nextId, d, y.pc)] })
      else .hold t (.reply s.nextId) 1 := by
  obtain ⟨k, hk⟩ := State.submit_of_virtual (s := s.missCounted) (r := loadReq f s [e] d) rfl hv
  refine ⟨k, ?_⟩
  have hc : (if !s.loadUnder s.me [e] then c1Load s.myCore s.me.asid [e] else none) = none := by
    unfold State.c1Hit at h
    cases hu : s.loadUnder s.me [e] <;> simp_all
  have hst : (s.me.count 6 1).statBit bSTEP = false := by simpa [Ctx.statBit] using hs
  simp only [loadElems, beq_self_eq_true, Bool.not_false, Bool.and_true, Bool.true_and, hc, hst, Ctx.count_asid, ReqOp.need,
    List.all_cons, List.all_nil, if_true, ReqOp.writes, Bool.false_eq_true, if_false]
  rw [show s.setMe (s.me.count 6 1) = s.missCounted from rfl]
  simp only [loadReq] at hk ⊢
  rw [show s.missCounted.cur = s.cur from rfl, hk]
  rfl

/-! The loads under way behind a completed instruction (R317). -/

theorem Ctx.loopEnd_loads (x : Ctx) (npc : Word) (fuel : Nat) : (x.loopEnd npc fuel).loads = x.loads := by
  induction fuel generalizing x with
  | zero => rfl
  | succ fuel ih =>
    unfold Ctx.loopEnd
    dsimp only
    split
    · rfl
    · split
      · rfl
      · exact ih _

theorem State.retire_loads (s : State) (n c : Nat) (isFmtp : Bool) (npc : Word) :
    ((s.retire n c isFmtp npc).ctx n c).loads = (s.ctx n c).loads := by
  unfold State.retire
  dsimp only
  rw [State.ctx_modCore, if_pos rfl]
  show ((State.modCtx _ _ _ _).ctx n c).loads = _
  rw [State.ctx_modCtx_self, Ctx.loopEnd_loads]
  obtain ⟨p, hp⟩ := (if isFmtp = true then s.ctx n c else (s.ctx n c).setStat bPFX false).count_eq 1 1
  rw [hp]
  cases isFmtp <;> simp

theorem State.warnIf_loads (s : State) (b : Bool) (n c : Nat) : ((s.warnIf b).ctx n c).loads = (s.ctx n c).loads := by
  unfold State.warnIf
  split
  · rw [State.warn, State.ctx_modMe]
    split
    · rename_i h
      obtain ⟨rfl, rfl⟩ := h
      exact Ctx.setStat_loads ..
    · rfl
  · rfl

theorem State.after_loads (s : State) (cost : Nat) (warns : Bool) (npc : Word) (t : State) (hc : t.cur = s.cur) :
    (s.after cost warns npc t).me.loads = t.me.loads := by
  obtain ⟨_, _, hp⟩ := t.payCore_ctx s.cur.core s.cur.ctx cost
  rw [State.me_eq ((State.after_as s cost warns npc t hc).cur.trans hc), State.me_eq hc]
  unfold State.after
  rw [State.retire_loads, State.warnIf_loads, hp]

theorem CtxAs.ofLoads (x : Ctx) (l : List (Nat × Dst × Word)) : CtxAs { x with loads := l } x :=
  ⟨rfl, rfl, rfl, rfl, rfl, rfl, rfl, ⟨rfl, rfl, rfl, rfl⟩, fun _ _ => rfl⟩

theorem RegsKept.of_ctxAs {s t : State} (w : May) (h : CtxAs t.me s.me) (hs : t.me.srGet rSTAT = s.me.srGet rSTAT) :
    RegsKept w s t := by
  have hk := s.setMe_regsKept t.me w h hs
  have hme : (s.setMe t.me).me = t.me := s.me_setMe _
  constructor <;> rw [← hme]
  exacts [hk.scalars, hk.vectors, hk.masks, hk.accs, hk.fmts, hk.slots, hk.srs, hk.stat, hk.signal]

/-- An instruction whose effect leaves the registers of its context alone, with the loads that its context has under way then. -/
theorem gives_done_loads {i : Instr} {f : Form} {cost : Nat} {s t : State} {body : State → Res} (h : Runs f cost s)
    (he : exec i s = issueCost f cost body s) (hb : body s = .done t) (hc : t.cur = s.cur) (ha : CtxAs t.me s.me)
    (hsr : ∀ n, t.me.srGet n = s.me.srGet n) :
    Gives i s fun u => StateAs s.cur.core s.cur.ctx u t ∧ u.me.loads = t.me.loads ∧ RegsKept {} s u ∧
      Completed (s.plainWarn f) (s.fall f) s u := by
  have hstep := Ctx.statBit_of_sr (hsr rSTAT) bSTEP
  obtain ⟨u, hu, has, -, hk, hd⟩ := gives_done_of_regs h he hb hc (.of_ctxAs {} ha (hsr _)) hstep
    (Ctx.statBit_of_sr (hsr _) _) fun n _ _ => hsr n
  have hafter : exec i s = .next (s.after cost (s.plainWarn f) (s.fall f) t) := by
    rw [he, issueCost, issueWith_done h (scalarWarn f false) false noReport hb hc hstep]
    simp [State.plainWarn]
  obtain rfl : u = s.after cost (s.plainWarn f) (s.fall f) t := by injection hu.symm.trans hafter
  exact ⟨_, hu, has, State.after_loads _ _ _ _ _ hc, hk, hd⟩

/-- What a load leaves that C1 does not serve: its request on its way, and the context going on behind it or held for its answer. -/
structure LoadSent (f : Form) (e : Elem) (s t : State) : Prop where
  request : ∃ r, t.reqs.find? (·.1 == s.nextId) = some (s.nextId, r) ∧ r.core = s.cur.core ∧ r.ctx = s.cur.ctx ∧ r.op = .load ∧
    r.els.map (·.va) = [e.va] ∧ r.els.map (·.size) = [e.size] ∧ r.done = false
  onItsWay : ∃ k, (k, Event.c2Request s.nextId) ∈ t.due
  regs : RegsKept {} s t
  mem : MemKept s t
  goesOn : s.foreseen s.cur.core s.me.asid .rd e = true →
    (∃ d, t.me.loads = s.me.loads ++ [(s.nextId, d, s.me.pc)]) ∧ Completed (s.plainWarn f) (s.fall f) s t
  held : s.foreseen s.cur.core s.me.asid .rd e = false →
    (∃ since, t.me.block = some ⟨.reply s.nextId, since, 1⟩) ∧ t.me.pc = s.me.pc

theorem gives_loadSent {i : Instr} {f : Form} {s : State} {e : Elem} {d : Dst} {body : State → Res} (h : Runs f 40 s)
    (he : exec i s = issueCost f 40 body s) (hb : body s = loadElems f .load [e] d false false s) (hm : s.c1Hit [e] = none)
    (hv : e.va < meshBase) : Gives i s fun t => LoadSent f e s t := by
  obtain ⟨k, hk⟩ := loadElems_of_miss (f := f) (d := d) hm hv h.noStep
  rw [hk] at hb
  have hcount : CtxAs (s.me.count 6 1) s.me := Ctx.count_as ..
  have hmem : MemKept s (s.missCounted.sent (loadReq f s [e] d) k) := .of_eq rfl rfl rfl rfl
  have hreq : ∃ r, (s.missCounted.sent (loadReq f s [e] d) k).reqs.find? (·.1 == s.nextId) = some (s.nextId, r) ∧
      r.core = s.cur.core ∧ r.ctx = s.cur.ctx ∧ r.op = .load ∧ r.els.map (·.va) = [e.va] ∧ r.els.map (·.size) = [e.size] ∧
      r.done = false := ⟨_, s.missCounted.sent_request _ _, rfl, rfl, rfl, rfl, rfl, rfl⟩
  have hdue := s.missCounted.sent_due (loadReq f s [e] d) k
  generalize ht : s.missCounted.sent (loadReq f s [e] d) k = t at *
  have hcur : t.cur = s.cur := by rw [← ht]; rfl
  have hme : t.me = s.me.count 6 1 := by rw [← ht, State.sent_me, State.missCounted_me]
  cases hfor : s.foreseen s.cur.core s.me.asid .rd e with
  | true =>
    simp only [hfor, if_true] at hb
    refine (gives_done_loads h he hb hcur ?_ fun n => ?_).imp fun u ⟨has, hl, hk, hd⟩ => ?_
    · rw [State.me_modMe, hme]
      exact (CtxAs.ofLoads _ _).trans hcount
    · rw [State.me_modMe, hme]
      exact Ctx.srGet_count ..
    · obtain ⟨p, hp⟩ := s.me.count_eq 6 1
      obtain ⟨-, hr, -, hdu⟩ := has.work
      refine ⟨by rw [hr]; exact hreq, by rw [hdu]; exact hdue, hk, hmem.trans ((t.setMe_memKept _).trans has.memKept),
        fun _ => ⟨⟨d, ?_⟩, hd⟩, fun hf => by simp [hfor] at hf⟩
      rw [hl, State.me_modMe, hme, hp]
  | false =>
    simp only [hfor, Bool.false_eq_true, if_false] at hb
    refine (gives_hold h he hb hcur).imp fun u hu => ?_
    refine ⟨?_, ?_, .of_ctxAs {} (hu.me.as.trans (by rwa [hme])) (by rw [hu.me.sr, hme, Ctx.srGet_count]), hmem.trans hu.memKept,
      fun hf => by simp [hfor] at hf, fun _ => ⟨hu.me.block, by rw [hu.me.pc, hme, Ctx.pc_count]⟩⟩
    · obtain ⟨_, _, rfl⟩ := hu.eq
      exact hreq
    · obtain ⟨_, _, rfl⟩ := hu.eq
      exact hdue

theorem traps_load {i : Instr} {f : Form} {s : State} {n : Nat} {sg acq : Bool} {e : Flt} (h : Runs f 40 s)
    (he : exec i s = issueCost f 40 (loadForm f n sg acq) s) (hla : f.a.isLa = false)
    (hk : s.checkVa s.me.vf (s.me.opAddr f.a) n = .error e) : Traps i s e.1 e.2 :=
  traps_fault h he (loadForm_error hla hk)

/-- What C1 serves is written to the destination at once. -/
theorem writes_load_of_hit {i : Instr} {f : Form} {s : State} {n v : Nat} {sg : Bool} {q : Place} {c : C1Line} (h : Runs f 40 s)
    (he : exec i s = issueCost f 40 (loadForm f n sg false) s) (hla : f.a.isLa = false)
    (hk : s.checkVa s.me.vf (s.me.opAddr f.a) n = .ok q) (hv : (s.me.opAddr f.a).toNat % 2 ^ 56 < meshBase)
    (hc : s.myCore.c1Line s.me.asid ((s.me.opAddr f.a).toNat % 2 ^ 56 / 64) = some c)
    (hs : c.serves ((s.me.opAddr f.a).toNat % 2 ^ 56) n = true)
    (hr : c.read ((s.me.opAddr f.a).toNat % 2 ^ 56) n = (v, false))
    (hu : s.loadUnder s.me [scalarElem (s.me.opAddr f.a) n 0] = false) : Writes i f s (loadWord n sg v) := by
  have hhit : s.c1Hit [scalarElem (s.me.opAddr f.a) n 0] = some ([(0, v)], none) := by
    rw [State.c1Hit, if_neg (by simp [hu]), c1Load_of_hit (e := scalarElem (s.me.opAddr f.a) n 0) hc hv hs hr, scalarElem_pick]
    rfl
  exact writes_of_putS h he (by rw [loadForm_virtual hla hk, loadElems_of_hit hhit]; rfl)

/-! Stores (R318, R325). -/

theorem exec_st_virtual (sz : StSize) (f : Form) (s : State) (h : f.d.isLa = false) :
    exec (.st sz f) s = issueCost f 40 (storeForm f (stBytes sz) false) s := by
  show issueCost f (memCost f.d) _ s = _
  simp [memCost, h]

theorem exec_stl_virtual (sz : StSize) (f : Form) (s : State) (h : f.d.isLa = false) :
    exec (.stl sz f) s = issueCost f 40 (storeForm f (stBytes sz) false) s :=
  exec_st_virtual sz f s h

theorem storeForm_error {f : Form} {n : Nat} {rel : Bool} {s : State} {e : Flt} (hla : f.d.isLa = false)
    (h : s.checkVa s.me.vf (s.me.opAddr f.d) n = .error e) : storeForm f n rel s = .fault s e.1 e.2 := by
  simp [storeForm, hla, h]

/-- The element that a store writes. -/
def storeElem (f : Form) (n : Nat) (s : State) : Elem := scalarElem (s.me.opAddr f.d) n (s.me.opS f.a).toNat

theorem storeForm_virtual {f : Form} {n : Nat} {s : State} {q : Place} (hla : f.d.isLa = false)
    (h : s.checkVa s.me.vf (s.me.opAddr f.d) n = .ok q) :
    storeForm f n false s = postElems f .store [storeElem f n s] {} .done s := by
  simp [storeForm, hla, h, storeElem]

theorem postElems_full {f : Form} {e : Elem} {s : State} (h : s.myCore.freeEntry = none) :
    postElems f .store [e] {} .done s = .hold s .journal 0 := by
  simp [postElems, h]

/-- The journal entry of a plain store of one element. -/
def storeEntry (s : State) (e : Elem) : JEntry :=
  { state := 1, va := extend56 e.va, data := BitVec.ofNat 64 e.data, size := e.size.log2, ctx := s.cur.ctx, cause := 0,
    fab := (s.remoteOf s.cur.core s.me.asid e.va).isSome, mesh := meshBase ≤ e.va, rel := false, orphan := false, launch := none,
    owed := none }

/-- The acting core with a store's journal entry taken and the words that it writes gone from C1. -/
def State.posted (s : State) (e : Elem) (j : Nat) : State :=
  s.modCore s.cur.core fun k => { k with journal := k.journal.put j (storeEntry s e) }.c1Store s.me.asid e.va e.size

/-- The request of a plain store of one element. -/
def storeReq (f : Form) (s : State) (e : Elem) (j : Nat) : Req :=
  { core := s.cur.core, ctx := s.cur.ctx, asid := s.me.asid, op := .store, els := [e], all := [e], got := [], dst := .none,
    jidx := some j, acq := false, rel := false, done := false, mesh := [e].any fun e => meshBase ≤ e.va, fault := none,
    len := formLen f }

theorem postElems_posted {f : Form} {e : Elem} {s : State} {j : Nat} (h : s.myCore.freeEntry = some j) (hv : e.va < meshBase) :
    ∃ k, postElems f .store [e] {} .done s = .done ((s.posted e j).sent (storeReq f s e j) k) := by
  obtain ⟨k, hk⟩ := State.submit_of_virtual (s := s.posted e j) (r := storeReq f s e j) rfl hv
  refine ⟨k, ?_⟩
  have hp : postElems f .store [e] {} .done s = .done ((s.posted e j).submit (storeReq f s e j)).2 := by
    simp only [postElems, h, List.foldl_cons, List.foldl_nil, Nat.lt_irrefl, if_false, hv, if_true, Bool.false_eq_true]
    rfl
  rw [hp, hk]

theorem State.posted_me (s : State) (e : Elem) (j : Nat) : (s.posted e j).me = s.me := by
  show (s.modCore _ _).ctx s.cur.core s.cur.ctx = _
  rw [State.ctx_modCore, if_pos rfl]
  rfl

theorem State.posted_journal (s : State) (e : Elem) (j : Nat) :
    (((s.posted e j).core s.cur.core).journal).find? (·.1 == j) = some (j, storeEntry s e) := by
  rw [State.posted, State.core_modCore, if_pos rfl]
  exact Assoc.find?_put_self ..

/-- What a store leaves: its journal entry, its request on its way, and its instruction complete. -/
structure StorePosted (f : Form) (e : Elem) (j : Nat) (s t : State) : Prop where
  entry : (t.core s.cur.core).journal.find? (·.1 == j) = some (j, storeEntry s e)
  request : ∃ r, t.reqs.find? (·.1 == s.nextId) = some (s.nextId, r) ∧ r.op = .store ∧ r.jidx = some j ∧ r.els.map (·.va) = [e.va]
  regs : RegsKept {} s t
  mem : MemKept s t
  completed : Completed (s.plainWarn f) (s.fall f) s t

theorem gives_storePosted {i : Instr} {f : Form} {s : State} {e : Elem} {j : Nat} {body : State → Res} (h : Runs f 40 s)
    (he : exec i s = issueCost f 40 body s) (hb : body s = postElems f .store [e] {} .done s) (hj : s.myCore.freeEntry = some j)
    (hv : e.va < meshBase) : Gives i s fun t => StorePosted f e j s t := by
  obtain ⟨k, hk⟩ := postElems_posted (f := f) hj hv
  rw [hk] at hb
  refine (gives_done_of_me h he hb rfl (s.posted_me e j)).imp fun u ⟨has, hk, hd⟩ => ?_
  have hmem : MemKept s ((s.posted e j).sent (storeReq f s e j) k) := .of_eq rfl rfl rfl rfl
  refine ⟨?_, ⟨storeReq f s e j, ?_, rfl, rfl, rfl⟩, hk, hmem.trans has.memKept, hd⟩
  · rw [(has.caches _).2]
    exact s.posted_journal e j
  · rw [has.work.2.1]
    exact (s.posted e j).sent_request _ _

/-- Settles O26: a load is one lookup of C1, and then a register write or one request, and a store one journal entry and one request. -/
theorem globalAccesses : Obligations.GlobalAccesses := by
  unfold Obligations.GlobalAccesses
  refine ⟨fun f s sz n hr hla hsz => ?loads, fun f s hr hla => ?stores⟩
  case loads =>
    obtain ⟨rfl, hval⟩ : n = ldBytes sz ∧
        ∀ v, loadWord n (ldSigned sz) v = if sz = .bz ∨ sz = .hz then BitVec.ofNat 64 v else sxWord (8 * n) v := by
      simp only [List.mem_cons, Prod.mk.injEq, List.not_mem_nil, or_false] at hsz
      rcases hsz with ⟨rfl, rfl⟩ | ⟨rfl, rfl⟩ | ⟨rfl, rfl⟩ | ⟨rfl, rfl⟩ | ⟨rfl, rfl⟩ | ⟨rfl, rfl⟩ <;>
        exact ⟨rfl, fun v => by simp [loadWord, ldSigned]⟩
    have hld := exec_ld_virtual sz f s hla
    have hldl := exec_ldl_virtual sz f s hla
    refine ⟨fun e he => ⟨traps_load hr hld hla he, traps_load hr hldl hla he⟩, fun hk hv => ⟨fun c v hc hs hrd hu => ?_,
      fun hmiss i hi => ?_⟩⟩
    · rw [← hval]
      exact writes_load_of_hit hr hld hla hk hv hc hs hrd hu
    · have he : exec i s = issueCost f 40 (loadForm f (ldBytes sz) (ldSigned sz) false) s := by
        rcases List.mem_pair.mp hi with rfl | rfl
        exacts [hld, hldl]
      exact (gives_loadSent hr he (loadForm_virtual hla hk) (State.c1Hit_of_miss hmiss) hv).imp fun t ht =>
        ⟨ht.request, ht.onItsWay, ht.regs, ht.mem, ht.goesOn, ht.held⟩
  case stores =>
    intro w va p hp
    obtain ⟨hn, hlog⟩ : p.2.1 = stBytes p.1 ∧ (stBytes p.1).log2 = p.2.2 := by
      simp only [List.mem_cons, List.not_mem_nil, or_false] at hp
      rcases hp with rfl | rfl | rfl | rfl <;> exact ⟨rfl, by decide⟩
    obtain ⟨sz, n, l⟩ := p
    obtain rfl : n = stBytes sz := hn
    have hst := exec_st_virtual sz f s hla
    have hstl := exec_stl_virtual sz f s hla
    refine ⟨fun e he => ⟨traps_fault hr hst (storeForm_error hla he), traps_fault hr hstl (storeForm_error hla he)⟩,
      fun q hk hj => gives_held hr hst (by rw [storeForm_virtual hla hk, postElems_full hj]) rfl, fun hk hv j hj i hi => ?_⟩
    have he : exec i s = issueCost f 40 (storeForm f (stBytes sz) false) s := by
      rcases List.mem_pair.mp hi with rfl | rfl
      exacts [hst, hstl]
    exact (gives_storePosted hr he (storeForm_virtual hla hk) hj hv).imp fun t ht =>
      ⟨⟨_, ht.entry, rfl, rfl, rfl, hlog, rfl⟩, ht.request, ht.regs, ht.mem, ht.completed⟩

end Sys2Proof.Machine
end

section
/-! SUPPORT. Two lines of C2 under one tag, of which a pin release keeps the first alone (R71, R87), against O44. -/
namespace Sys2Proof.Machine

/-- A pinned line of slice 0 and line 0 of ASID 0, with its physical line and its data. -/
def taggedLine (pline : Nat) (data : VWord) : C2Line :=
  { slice := 0, asid := 0, vline := 0, pline := pline, rd := true, wr := true, ex := false, cls := 0, home := 0, dirty := false, psn := 0,
    pins := 1, vf := 0, core := 0, ctx := 0, owns := [], data := data }

/-- An operation that has pinned the line of that tag. -/
def pinningOp : EngOp :=
  { core := 0, ctx := 0, asid := 0, act := .copy 0 0 0, sync := none, unit := .matrixSeq, slot := 0, rows := 0, low := 0, rowsDone := [],
    left := 0, ecode := 0, gen := 0, started := true, finished := false, slices := [], trips := [], merges := [], expects := [],
    poisonHeads := [], window := [], pinned := [(0, 0, 0)], olds := [], data := [], slicePins := [] }

/-- C2 lists two lines of the tag: of the physical line 0, and of the physical line 1, which holds a byte that is not 0. No fill
brings a second line of a tag (R73, R80); the statement speaks of every state. -/
def twinState : State :=
  { State.reset with ops := [(5, pinningOp)], c2 := [taggedLine 0 0, taggedLine 1 1] }

theorem exec_pinRelease (s : State) (id : Nat) :
    exec .pinRelease (s.onEvent (.pinRelease id)) = .next ((s.onEvent (.pinRelease id)).pinRelease id) := rfl

/-- The operation and its line meet what O44 asks of a release. -/
theorem twinState_releases : twinState.ops.find? (·.1 == 5) = some (5, pinningOp) ∧ twinState.held = [] ∧
    pinningOp.pinned = [(0, 0, 0)] ∧ twinState.c2Line 0 0 0 = some (taggedLine 0 0) := by
  refine ⟨?_, ?_, ?_, ?_⟩ <;> decide +kernel

/-- The release rewrites every line of the tag, and the byte of the second line is gone. -/
theorem twinState_loses_byte : twinState.physByte 64 = 1 ∧
    ((twinState.onEvent (.pinRelease 5)).pinRelease 5).physByte 64 = 0 := by
  constructor <;> decide +kernel

/-- Refutes O44: a release puts the line that it finds first under its tag in the place of every line of the tag, so that where C2
lists two of them, of two physical lines, the bytes of the second no longer read as before. -/
theorem not_matrixEvents : ¬ Obligations.MatrixEvents := by
  unfold Obligations.MatrixEvents
  intro ⟨_, _, _, hrelease⟩
  obtain ⟨hop, hheld, hpinned, hline⟩ := twinState_releases
  obtain ⟨t, ht, _, _, hmem, _⟩ := hrelease twinState 5 0 0 0 pinningOp (taggedLine 0 0) hop hheld hpinned hline
  obtain ⟨hbefore, hafter⟩ := twinState_loses_byte
  have hnext := Host.Outcome.next.inj ((exec_pinRelease twinState 5).symm.trans ht)
  have hbyte := hmem.bytes 64
  rw [← hnext, hafter, hbefore] at hbyte
  exact absurd hbyte (by decide)

end Sys2Proof.Machine
end

section
/-! SUPPORT. What a coherent store keeps of the rest of the state, and what is due: O49. -/
namespace Sys2Proof.Machine

/-! What a store keeps. -/

namespace Stored
variable {s t : State} (h : Stored t s)
include h

theorem parks : t.parks = s.parks := by obtain ⟨⟨_, _, _, _, _, _, rfl⟩, _⟩ := h; rfl
theorem moves : t.moves = s.moves := by obtain ⟨⟨_, _, _, _, _, _, rfl⟩, _⟩ := h; rfl
theorem due : t.due = s.due := by obtain ⟨⟨_, _, _, _, _, _, rfl⟩, _⟩ := h; rfl
theorem clk : t.clk = s.clk := by obtain ⟨⟨_, _, _, _, _, _, rfl⟩, _⟩ := h; rfl

end Stored

/-! Events due. -/

theorem mem_dueInsert_iff (t : Nat) (e : Event) (l : List (Nat × Event)) (x : Nat × Event) :
    x ∈ dueInsert t e l ↔ x = (t, e) ∨ x ∈ l := by
  induction l with
  | nil => simp [dueInsert]
  | cons a l ih =>
    obtain ⟨u, j⟩ := a
    unfold dueInsert
    split
    · simp
    · simp only [List.mem_cons, ih]
      tauto

theorem State.mem_due_later_iff (s : State) (d : Nat) (e : Event) (x : Nat × Event) :
    x ∈ (s.later d e).due ↔ x = (s.clk + d, e) ∨ x ∈ s.due := mem_dueInsert_iff ..

/-- The state with events due at once. -/
def State.laterAll (s : State) (es : List Event) : State := es.foldl (fun s e => s.later 0 e) s

theorem State.parks_laterAll (s : State) (es : List Event) : (s.laterAll es).parks = s.parks :=
  List.foldlRecOn (motive := fun t : State => t.parks = s.parks) es _ rfl fun _ ht _ _ => ht

theorem State.mem_due_laterAll (s : State) (es : List Event) (x : Nat × Event) :
    x ∈ (s.laterAll es).due ↔ x ∈ s.due ∨ ∃ e ∈ es, x = (s.clk, e) := by
  induction es generalizing s with
  | nil => simp [State.laterAll]
  | cons e es ih =>
    have hs : s.laterAll (e :: es) = (s.later 0 e).laterAll es := rfl
    have hc : (s.later 0 e).clk = s.clk := rfl
    rw [hs, ih, State.mem_due_later_iff, hc, Nat.add_zero]
    simp only [List.mem_cons, exists_eq_or_imp]
    tauto

end Sys2Proof.Machine
end

section
/-! SUPPORT. Parks: what writing a record keeps, and the events of a park whose range holds no block (R129 to R135, R468): O49. -/
namespace Sys2Proof.Machine

/-! Park records (R129). -/

/-- Counting a park's blocks by tier rewrites its record alone. -/
theorem State.countTiers_eq (s : State) (p : Park) : ∃ r, s.countTiers p = { p with raw := r } := ⟨_, rfl⟩

@[simp] theorem State.countTiers_state (s : State) (p : Park) : (s.countTiers p).state = p.state := by
  obtain ⟨r, hr⟩ := s.countTiers_eq p
  rw [hr]

@[simp] theorem State.countTiers_pushed (s : State) (p : Park) : (s.countTiers p).pushed = p.pushed := by
  obtain ⟨r, hr⟩ := s.countTiers_eq p
  rw [hr]

@[simp] theorem State.countTiers_wakePa (s : State) (p : Park) : (s.countTiers p).wakePa = p.wakePa := by
  obtain ⟨r, hr⟩ := s.countTiers_eq p
  rw [hr]

/-- Counting a park's blocks by tier leaves the words below the counts. -/
theorem State.bits_countTiers (s : State) (p : Park) (lo n : Nat) (h : lo + n ≤ 384) :
    bits (s.countTiers p).raw lo n = bits p.raw lo n := by
  unfold State.countTiers
  dsimp only
  rw [bits_setBits_ne _ _ _ _ _ _ (by omega), bits_setBits_ne _ _ _ _ _ _ (by omega), bits_setBits_ne _ _ _ _ _ _ (by omega)]

@[simp] theorem State.countTiers_age (s : State) (p : Park) : (s.countTiers p).age = p.age :=
  s.bits_countTiers p 352 32 (by decide)

@[simp] theorem Park.setState_state (p : Park) (st : Nat) : (p.setState st).state = st := rfl
@[simp] theorem Park.setState_wakePa (p : Park) (st : Nat) : (p.setState st).wakePa = p.wakePa := rfl

/-- Setting STATE leaves the record's other fields. -/
theorem Park.bits_setState (p : Park) (st lo n : Nat) (h : lo + n ≤ 296 ∨ 300 ≤ lo) :
    bits (p.setState st).raw lo n = bits p.raw lo n := bits_setBits_ne _ _ _ _ _ _ h

@[simp] theorem Park.setState_nlb (p : Park) (st : Nat) : (p.setState st).nlb = p.nlb :=
  p.bits_setState st 272 24 (by decide)

@[simp] theorem Park.setState_age (p : Park) (st : Nat) : (p.setState st).age = p.age := p.bits_setState st 352 32 (by decide)

@[simp] theorem Park.setState_noFlash (p : Park) (st : Nat) : (p.setState st).noFlash = p.noFlash :=
  congrArg (· == 0xFFFFFF) (p.bits_setState st 328 24 (by decide))

@[simp] theorem Park.setState_t2 (p : Park) (st : Nat) : (p.setState st).t2 = p.t2 :=
  congrArg₂ max (p.bits_setState st 328 24 (by decide)) (p.bits_setState st 312 16 (by decide))

/-- Raising RETRY rewrites the record alone. -/
theorem Park.retry_eq (p : Park) : ∃ r, p.retry = { p with raw := r } := ⟨_, rfl⟩

@[simp] theorem Park.retry_wakePa (p : Park) : p.retry.wakePa = p.wakePa := by
  obtain ⟨r, hr⟩ := p.retry_eq
  rw [hr]

@[simp] theorem Park.retry_state (p : Park) : p.retry.state = p.state := by
  obtain ⟨r, hr⟩ := p.retry_eq
  rw [hr]

theorem Park.range_of_nlb (p : Park) (h : p.nlb = 0) : p.range = [] := by simp [Park.range, h]

theorem Park.rangeUp_of_nlb (p : Park) (h : p.nlb = 0) : p.rangeUp = [] := by simp [Park.rangeUp, h]

theorem State.parks_putPark (s : State) (id : Nat) (p : Park) : (s.putPark id p).parks = s.parks.put id (s.countTiers p) :=
  (State.physWrite_stored _ _ _ _).parks

/-- The only park rewritten. -/
theorem State.parks_putPark_only {s : State} {id : Nat} {p : Park} (h : s.parks = [(id, p)]) (q : Park) :
    (s.putPark id q).parks = [(id, s.countTiers q)] := by
  rw [State.parks_putPark, h]
  simp [Assoc.put, Assoc.erase, Assoc.insertSorted]

theorem State.park_of_only {s : State} {id : Nat} {p : Park} (h : s.parks = [(id, p)]) : s.park id = some p := by
  simp [State.park, h]

/-! Demotion (R132, R133). -/

theorem Park.withTodo_nil (p : Park) (h : p.todo = []) : { p with todo := [] } = p := by
  cases p
  cases h
  rfl

/-- A demotion with nothing left to move goes on to STATE 4, or past T2 to STATE 6. -/
theorem State.demote_of_empty (s : State) (id : Nat) (p : Park) (ht : p.todo = []) (hn : p.nlb = 0) (hm : s.moves = []) :
    ∃ q, s.demote id p = s.putPark id q ∧ q.wakePa = p.wakePa ∧
      q.state = if p.state ≠ 5 ∧ (p.noFlash = true ∨ p.age < p.t2) then 4 else 6 := by
  have hpm : s.parkMoves id = false := by simp [State.parkMoves, hm]
  unfold State.demote
  rw [ht]
  simp only [State.demoteBlocks, Park.withTodo_nil p ht, List.isEmpty_nil, Bool.not_true, hpm, Bool.or_self, Bool.false_eq_true,
    if_false, Park.range_of_nlb p hn, beq_iff_eq, Bool.or_eq_true, decide_eq_true_eq]
  by_cases h5 : p.state = 5
  · rw [if_pos h5, if_neg (fun h => h.1 h5)]
    exact ⟨_, rfl, p.setState_wakePa 6, p.setState_state 6⟩
  · rw [if_neg h5]
    by_cases hc : p.noFlash = true ∨ p.age < p.t2
    · rw [if_pos hc, if_pos ⟨h5, hc⟩]
      exact ⟨_, rfl, p.setState_wakePa 4, p.setState_state 4⟩
    · rw [if_neg hc, if_neg (fun h => hc h.2)]
      exact ⟨_, rfl, Park.setState_wakePa _ 6, Park.setState_state _ 6⟩

/-! The requeue (R132, R468). -/

theorem State.parks_lqPush {s t : State} {q p : Nat} {e : QRun} {o : Option Nat} (h : s.lqPush q p e o = some t) :
    t.parks = s.parks := by
  cases hr : s.lqRing q p with
  | none =>
    unfold State.lqPush at h
    rw [hr] at h
    cases h
  | some r =>
    obtain ⟨base, logn, head, tail⟩ := r
    by_cases hf : 38 ≤ ringFree (2 ^ logn) head tail
    · obtain ⟨u, l, he, hu, -⟩ := s.lqPush_of_room q p e o hr hf
      obtain rfl := Option.some.inj (he.symm.trans h)
      exact hu.parks
    · unfold State.lqPush at h
      rw [hr] at h
      dsimp only at h
      rw [if_pos (by omega)] at h
      cases h

/-- The push that requeues a park. -/
def State.pushPark (s : State) (p : Park) : Option State :=
  s.lqPush (bits p.raw 302 8) (bits p.raw 300 2) p.entry p.launch

theorem State.pushPark_onEvent_none {s : State} {p : Park} (e : Event) :
    (s.onEvent e).pushPark p = none ↔ s.pushPark p = none :=
  ⟨State.lqPush_none_congr (s.lqRing_onEvent e _ _).symm, State.lqPush_none_congr (s.lqRing_onEvent e _ _)⟩

theorem State.markParked_of_nlb (s : State) (p : Park) (on : Bool) (h : p.nlb = 0) : s.markParked p on = s := by
  unfold State.markParked
  rw [Park.range_of_nlb p h]
  rfl

/-- A full list leaves STATE 7, and the push is to be tried again. -/
theorem State.requeue_of_full (s : State) (id : Nat) (p : Park) (hn : p.nlb = 0) (h : s.pushPark p = none) :
    ∃ q, s.requeue id p = s.putPark id q ∧ q.state = 7 ∧ q.pushed = true ∧ q.wakePa = p.wakePa := by
  unfold State.pushPark at h
  unfold State.requeue
  rw [State.markParked_of_nlb s p false hn]
  dsimp only
  rw [h]
  exact ⟨_, rfl, (p.setState 7).retry_state.trans (p.setState_state 7), rfl,
    (p.setState 7).retry_wakePa.trans (p.setState_wakePa 7)⟩

/-- A continuation pushed is no park any more. -/
theorem State.parks_requeue_of_room (s : State) (id : Nat) (p : Park) (hn : p.nlb = 0) {u : State} (h : s.pushPark p = some u) :
    (s.requeue id p).parks = s.parks.erase id := by
  have hp := State.parks_lqPush h
  unfold State.pushPark at h
  unfold State.requeue
  rw [State.markParked_of_nlb s p false hn]
  dsimp only
  rw [h, (State.physWrite_stored _ _ _ _).parks, ← hp]

/-- A promotion with nothing left to move requeues the continuation (R135). -/
theorem State.promote_of_empty (s : State) (id : Nat) (p : Park) (hn : p.nlb = 0) (hm : s.moves = []) :
    s.promote id p = s.requeue id p := by
  have hpm : s.parkMoves id = false := by simp [State.parkMoves, hm]
  unfold State.promote
  rw [Park.rangeUp_of_nlb p hn]
  simp [State.promoteBlocks, Park.range_of_nlb p hn, hpm]

/-! A state with one park (R129). -/

/-- The state holds one park, `P` is true of it, and it waits for the word that another waits for. -/
def State.OnlyPark (t : State) (id : Nat) (p : Park) (P : Park → Prop) : Prop :=
  ∃ q, t.parks = [(id, q)] ∧ P q ∧ q.wakePa = p.wakePa

theorem State.parks_erase_only {s : State} {id : Nat} {p : Park} (h : s.parks = [(id, p)]) : s.parks.erase id = [] := by
  simp [h, Assoc.erase]

theorem State.onlyPark_putPark {s : State} {id : Nat} {p q : Park} (hs : s.parks = [(id, p)]) {P : Park → Prop}
    (hp : P (s.countTiers q)) (hw : q.wakePa = p.wakePa) : (s.putPark id q).OnlyPark id p P :=
  ⟨s.countTiers q, State.parks_putPark_only hs q, hp, (s.countTiers_wakePa q).trans hw⟩

/-- A demotion with nothing to move, and the state that it goes on to. -/
theorem State.onlyPark_demote {s : State} {id : Nat} {p q : Park} (hs : s.parks = [(id, p)]) (ht : q.todo = []) (hn : q.nlb = 0)
    (hm : s.moves = []) (hw : q.wakePa = p.wakePa) {k : Nat}
    (hk : (if q.state ≠ 5 ∧ (q.noFlash = true ∨ q.age < q.t2) then 4 else 6) = k) :
    (s.demote id q).OnlyPark id p fun r => r.state = k := by
  obtain ⟨r, he, hwr, hst⟩ := s.demote_of_empty id q ht hn hm
  rw [he]
  exact State.onlyPark_putPark hs ((s.countTiers_state r).trans (hst.trans hk)) (hwr.trans hw)

/-- An event that requeues the only park. -/
theorem happens_requeue {s : State} {id : Nat} {p q : Park} {e : Event} (hs : s.parks = [(id, p)]) (hn : q.nlb = 0)
    (hw : q.wakePa = p.wakePa) (hpush : ∀ u : State, u.pushPark q = u.pushPark p)
    (he : exec e.instr (s.onEvent e) = .next ((s.onEvent e).requeue id q)) :
    (s.pushPark p = none → Happens e s fun t => t.OnlyPark id p fun r => r.state = 7 ∧ r.pushed = true) ∧
    ((s.pushPark p).isSome = true → Happens e s fun t => t.parks = []) := by
  have hse : (s.onEvent e).parks = [(id, p)] := hs
  have hnone : (s.onEvent e).pushPark q = none ↔ s.pushPark p = none := by rw [hpush]; exact State.pushPark_onEvent_none e
  refine ⟨fun h => happens_next he ?_, fun h => happens_next he ?_⟩
  · obtain ⟨r, hr, hst, hpu, hwr⟩ := (s.onEvent e).requeue_of_full id q hn (hnone.mpr h)
    rw [hr]
    exact State.onlyPark_putPark hse ⟨(State.countTiers_state _ r).trans hst, (State.countTiers_pushed _ r).trans hpu⟩
      (hwr.trans hw)
  · cases hu : (s.onEvent e).pushPark q with
    | none => rw [hnone.mp hu] at h; cases h
    | some u => rw [State.parks_requeue_of_room _ id q hn hu, State.parks_erase_only hse]

/-! Aging (R130). -/

/-- The record with AGE brought up to date. -/
def Park.withAge (p : Park) (age : Nat) : Park := { p with raw := setBits p.raw 352 32 age }

theorem Park.age_withAge (p : Park) (age : Nat) (h : age < 2 ^ 32) : (p.withAge age).age = age :=
  (bits_setBits_self _ _ _ _).trans (Nat.mod_eq_of_lt h)

theorem Park.bits_withAge (p : Park) (age lo n : Nat) (h : lo + n ≤ 352) : bits (p.withAge age).raw lo n = bits p.raw lo n :=
  bits_setBits_ne _ _ _ _ _ _ (.inl h)

theorem Park.withAge_state (p : Park) (age : Nat) : (p.withAge age).state = p.state := rfl

theorem Park.t1_withAge (p : Park) (age : Nat) : (p.withAge age).t1 = p.t1 := p.bits_withAge age 312 16 (by decide)

theorem Park.t2_withAge (p : Park) (age : Nat) : (p.withAge age).t2 = p.t2 :=
  congrArg₂ max (p.bits_withAge age 328 24 (by decide)) (p.bits_withAge age 312 16 (by decide))

theorem Park.noFlash_withAge (p : Park) (age : Nat) : (p.withAge age).noFlash = p.noFlash :=
  congrArg (· == 0xFFFFFF) (p.bits_withAge age 328 24 (by decide))

/-- Milliseconds that a park has aged at a cycle. -/
def Park.ageAt (p : Park) (clk : Nat) : Nat := min (2 ^ 32 - 1) ((p.aged + (clk - p.since)) / msCycles)

theorem Park.ageAt_lt (p : Park) (clk : Nat) : p.ageAt clk < 2 ^ 32 := by
  unfold Park.ageAt
  exact lt_of_le_of_lt (min_le_left _ _) (by decide)

/-- A park whose AGE rises, written, with its next tick and what it makes due. -/
def State.agedPark (s : State) (id : Nat) (p : Park) : State :=
  ((s.putPark id p).later msCycles .parkAgeTick).laterAll (p.due id)

theorem State.ageParks_only {s : State} {id : Nat} {p : Park} (hs : s.parks = [(id, p)]) (h : p.age < p.ageAt s.clk) :
    s.ageParks = s.agedPark id (p.withAge (p.ageAt s.clk)) := by
  unfold State.ageParks
  rw [hs, List.foldl_cons, List.foldl_nil]
  exact if_neg (Nat.not_le.mpr h)

theorem State.parks_agedPark (s : State) (id : Nat) (p : Park) : (s.agedPark id p).parks = (s.putPark id p).parks :=
  State.parks_laterAll _ _

theorem State.mem_due_agedPark (s : State) (id : Nat) (p : Park) (x : Nat × Event)
    (h : x = (s.clk + msCycles, Event.parkAgeTick) ∨ ∃ e ∈ p.due id, x = (s.clk, e)) : x ∈ (s.agedPark id p).due := by
  have hc : (s.putPark id p).clk = s.clk := (State.physWrite_stored _ _ _ _).clk
  have hl : ((s.putPark id p).later msCycles .parkAgeTick).clk = (s.putPark id p).clk := rfl
  unfold State.agedPark
  rw [State.mem_due_laterAll, State.mem_due_later_iff, hl, hc]
  exact h.imp_left .inl

/-- A millisecond of the only park's age (R130, R132). -/
theorem State.ageParks_spec {s : State} {id : Nat} {p : Park} (hs : s.parks = [(id, p)]) (h : p.age < p.ageAt s.clk) :
    (s.ageParks.OnlyPark id p fun q => q.age = p.ageAt s.clk ∧ q.state = p.state) ∧
      (s.clk + msCycles, Event.parkAgeTick) ∈ s.ageParks.due ∧
      (p.state = 2 → p.t1 ≠ 0xFFFF → p.t1 ≤ p.ageAt s.clk → (s.clk, Event.parkT1Expiry id) ∈ s.ageParks.due) ∧
      (p.state = 4 → p.noFlash = false → p.t2 ≤ p.ageAt s.clk → (s.clk, Event.parkT2Expiry id) ∈ s.ageParks.due) := by
  rw [State.ageParks_only hs h]
  have hage := p.age_withAge _ (p.ageAt_lt s.clk)
  have hst := p.withAge_state (p.ageAt s.clk)
  refine ⟨⟨_, (State.parks_agedPark _ _ _).trans (State.parks_putPark_only hs _), ⟨?_, ?_⟩, State.countTiers_wakePa _ _⟩,
    s.mem_due_agedPark id _ _ (.inl rfl), fun h2 h1 h3 => s.mem_due_agedPark id _ _ (.inr ⟨_, ?_, rfl⟩),
    fun h4 hf h3 => s.mem_due_agedPark id _ _ (.inr ⟨_, ?_, rfl⟩)⟩
  · rw [State.countTiers_age, hage]
  · rw [State.countTiers_state, hst]
  · unfold Park.due
    rw [hst, h2, p.t1_withAge, hage]
    simp [h1, h3]
  · unfold Park.due
    rw [hst, h4, p.t2_withAge, p.noFlash_withAge, hage]
    simp [hf, h3]

/-! The events of the only park. -/

/-- What an event does with a park that the device holds. -/
theorem execParkT1Expiry_of {u : State} {id : Nat} {p : Park} (he : u.ev = .parkT1Expiry id) (hp : u.park id = some p) :
    execParkT1Expiry u = if p.state == 2 && p.t1 != 0xFFFF && p.t1 ≤ p.age then
      .next (u.demote id { p.setState 3 with todo := p.range }) else .next u := by
  unfold execParkT1Expiry
  rw [he]
  dsimp only
  rw [hp]

theorem execParkT2Expiry_of {u : State} {id : Nat} {p : Park} (he : u.ev = .parkT2Expiry id) (hp : u.park id = some p) :
    execParkT2Expiry u = if p.state == 4 && !p.noFlash && p.t2 ≤ p.age then
      .next (u.demote id { p.setState 5 with todo := p.range }) else .next u := by
  unfold execParkT2Expiry
  rw [he]
  dsimp only
  rw [hp]

theorem execParkDemotionDone_of {u : State} {id : Nat} {p : Park} (he : u.ev = .parkDemotionDone id) (hp : u.park id = some p)
    (hst : p.state = 3) : execParkDemotionDone u = .next (u.demote id p) := by
  unfold execParkDemotionDone
  rw [he]
  dsimp only
  rw [hp]
  exact if_pos (by simp [hst])

theorem execParkPoolRetry_of {u : State} {id : Nat} {p : Park} (he : u.ev = .parkPoolRetry id) (hp : u.park id = some p)
    (hst : p.state = 3) : execParkPoolRetry u = .next (u.demote id p) := by
  unfold execParkPoolRetry
  rw [he]
  dsimp only
  rw [hp]
  exact if_pos (by simp [hst])

theorem execParkPromotionDone_of {u : State} {id : Nat} {p : Park} (he : u.ev = .parkPromotionDone id) (hp : u.park id = some p)
    (hst : p.state = 7) (hpu : p.pushed = false) : execParkPromotionDone u = .next (u.promote id p) := by
  unfold execParkPromotionDone
  rw [he]
  dsimp only
  rw [hp]
  exact if_pos (by simp [hst, hpu])

theorem execPromotionRetry_of {u : State} {id : Nat} {p : Park} (he : u.ev = .promotionRetry id) (hp : u.park id = some p)
    (hst : p.state = 7) (hpu : p.pushed = false) : execPromotionRetry u = .next (u.promote id { p with waiting := [] }) := by
  unfold execPromotionRetry
  rw [he]
  dsimp only
  rw [hp]
  exact if_pos (by simp [hst, hpu])

theorem execParkPushRetry_of {u : State} {id : Nat} {p : Park} (he : u.ev = .parkPushRetry id) (hp : u.park id = some p)
    (hst : p.state = 7) (hpu : p.pushed = true) : execParkPushRetry u = .next (u.requeue id p) := by
  unfold execParkPushRetry
  rw [he]
  dsimp only
  rw [hp]
  exact if_pos (by simp [hst, hpu])

section Events
variable {s : State} {id : Nat} {p : Park} (hs : s.parks = [(id, p)])
include hs

theorem happens_parkAgeTick (h : p.age < p.ageAt s.clk) : Happens .parkAgeTick s fun t =>
    (t.OnlyPark id p fun q => q.age = p.ageAt s.clk ∧ q.state = p.state) ∧ (s.clk + msCycles, Event.parkAgeTick) ∈ t.due ∧
      (p.state = 2 → p.t1 ≠ 0xFFFF → p.t1 ≤ p.ageAt s.clk → (s.clk, Event.parkT1Expiry id) ∈ t.due) ∧
      (p.state = 4 → p.noFlash = false → p.t2 ≤ p.ageAt s.clk → (s.clk, Event.parkT2Expiry id) ∈ t.due) :=
  happens_next (t := (s.onEvent .parkAgeTick).ageParks) rfl (State.ageParks_spec (s := s.onEvent .parkAgeTick) hs h)

/-- T1 before its time changes nothing. -/
theorem happens_parkT1Expiry_early (h : p.age < p.t1) :
    Happens (.parkT1Expiry id) s fun t => t.parks = s.parks ∧ MemKept s t := by
  have hp : (s.onEvent (.parkT1Expiry id)).park id = some p := State.park_of_only hs
  refine happens_next ((execParkT1Expiry_of rfl hp).trans (if_neg ?_)) ⟨rfl, .of_eq rfl rfl rfl rfl⟩
  simp [h]

theorem happens_parkPushRetry (hn : p.nlb = 0) (hst : p.state = 7) (hpu : p.pushed = true) :
    (s.pushPark p = none → Happens (.parkPushRetry id) s fun t => t.OnlyPark id p fun r => r.state = 7 ∧ r.pushed = true) ∧
    ((s.pushPark p).isSome = true → Happens (.parkPushRetry id) s fun t => t.parks = []) :=
  happens_requeue hs hn rfl (fun _ => rfl)
    (execParkPushRetry_of (u := s.onEvent (.parkPushRetry id)) rfl (State.park_of_only hs) hst hpu)

variable (hm : s.moves = [])
include hm

/-- A promotion with nothing left to move, or whose pools are tried again. -/
theorem happens_promotion {e : Event} {q : Park} (hq : q.nlb = 0) (hw : q.wakePa = p.wakePa)
    (hpush : ∀ u : State, u.pushPark q = u.pushPark p)
    (he : exec e.instr (s.onEvent e) = .next ((s.onEvent e).promote id q)) :
    (s.pushPark p = none → Happens e s fun t => t.OnlyPark id p fun r => r.state = 7 ∧ r.pushed = true) ∧
    ((s.pushPark p).isSome = true → Happens e s fun t => t.parks = []) := by
  rw [(s.onEvent e).promote_of_empty id q hq hm] at he
  exact happens_requeue hs hq hw hpush he

variable (hn : p.nlb = 0)
include hn

/-- T1's time starts a demotion that has nothing to move. -/
theorem happens_parkT1Expiry (hst : p.state = 2) (h1 : p.t1 ≠ 0xFFFF) (h2 : p.t1 ≤ p.age) : Happens (.parkT1Expiry id) s fun t =>
    t.OnlyPark id p fun q => q.state = if p.noFlash = true ∨ p.age < p.t2 then 4 else 6 := by
  have hp : (s.onEvent (.parkT1Expiry id)).park id = some p := State.park_of_only hs
  refine happens_next ((execParkT1Expiry_of rfl hp).trans (if_pos (by simp [hst, h1, h2]))) ?_
  refine State.onlyPark_demote (s := s.onEvent (.parkT1Expiry id)) (q := { p.setState 3 with todo := p.range }) hs
    (p.range_of_nlb hn) ((p.setState_nlb 3).trans hn) hm (p.setState_wakePa 3) ?_
  show (if (p.setState 3).state ≠ 5 ∧ ((p.setState 3).noFlash = true ∨ (p.setState 3).age < (p.setState 3).t2) then 4 else 6) = _
  simp

theorem happens_parkT2Expiry (hst : p.state = 4) (hf : p.noFlash = false) (h2 : p.t2 ≤ p.age) :
    Happens (.parkT2Expiry id) s fun t => t.OnlyPark id p fun q => q.state = 6 := by
  have hp : (s.onEvent (.parkT2Expiry id)).park id = some p := State.park_of_only hs
  refine happens_next ((execParkT2Expiry_of rfl hp).trans (if_pos (by simp [hst, hf, h2]))) ?_
  refine State.onlyPark_demote (s := s.onEvent (.parkT2Expiry id)) (q := { p.setState 5 with todo := p.range }) hs
    (p.range_of_nlb hn) ((p.setState_nlb 5).trans hn) hm (p.setState_wakePa 5) ?_
  exact if_neg fun h => h.1 (p.setState_state 5)

/-- A demotion whose last move is over, or whose pools are tried again. -/
theorem happens_demotion {e : Event} (hst : p.state = 3) (ht : p.todo = [])
    (he : exec e.instr (s.onEvent e) = .next ((s.onEvent e).demote id p)) :
    Happens e s fun t => t.OnlyPark id p fun q => q.state = if p.noFlash = true ∨ p.age < p.t2 then 4 else 6 :=
  happens_next he (State.onlyPark_demote (s := s.onEvent e) hs ht hn hm rfl (by simp [hst]))

end Events

end Sys2Proof.Machine
end

section
/-! SUPPORT. What moving data keeps of the rest of the state (R124): O49. -/
namespace Sys2Proof.Machine

/-- A state as another but for memory, C2 and its charges, cached translations, heat, registrations, parks and the pools of
functions: what moving data and giving frames may change. -/
structure Moved (t s : State) : Prop where
  eq : ∃ mem poison flash c2 tlb wakes cores ops purse heat regs parks vfs, t = { s with
    mem := mem, poison := poison, flash := flash, c2 := c2, tlb := tlb, wakes := wakes, cores := cores, ops := ops,
    diePurse := purse, heat := heat, regs := regs, parks := parks, vfs := vfs }
  sreg : ∀ n c r, (t.ctx n c).sreg r = (s.ctx n c).sreg r
  migErr : ∀ v, (t.vf v).migErr = (s.vf v).migErr

theorem Moved.refl (s : State) : Moved s s := ⟨⟨_, _, _, _, _, _, _, _, _, _, _, _, _, rfl⟩, fun _ _ _ => rfl, fun _ => rfl⟩

theorem Moved.trans {s t u : State} (h : Moved u t) (g : Moved t s) : Moved u s := by
  obtain ⟨⟨a1, a2, a3, a4, a5, a6, a7, a8, a9, a10, a11, a12, a13, rfl⟩, hr, hm⟩ := h
  obtain ⟨⟨b1, b2, b3, b4, b5, b6, b7, b8, b9, b10, b11, b12, b13, rfl⟩, gr, gm⟩ := g
  exact ⟨⟨a1, a2, a3, a4, a5, a6, a7, a8, a9, a10, a11, a12, a13, rfl⟩, fun n c r => (hr n c r).trans (gr n c r),
    fun v => (hm v).trans (gm v)⟩

/-- A change that touches neither contexts nor functions. -/
theorem Moved.ofParts (s : State) (mem : List Host.Cell) (poison : NatSet) (flash : List Host.Cell) (c2 : List C2Line)
    (tlb : List TlbEntry) (purse : Assoc Int) (heat : Assoc Nat) (regs : Assoc RegPage) (parks : Assoc Park) :
    Moved { s with
      mem := mem, poison := poison, flash := flash, c2 := c2, tlb := tlb, diePurse := purse, heat := heat, regs := regs,
      parks := parks } s :=
  ⟨⟨mem, poison, flash, c2, tlb, _, _, _, purse, heat, regs, parks, _, rfl⟩, fun _ _ _ => rfl, fun _ => rfl⟩

theorem Stored.moved {s t : State} (h : Stored t s) : Moved t s := by
  refine ⟨?_, h.sreg, fun v => ?_⟩
  · obtain ⟨⟨m, p, l, w, cs, os, rfl⟩, -⟩ := h
    exact ⟨m, p, _, l, _, w, cs, os, _, _, _, _, _, rfl⟩
  · obtain ⟨⟨m, p, l, w, cs, os, rfl⟩, -⟩ := h
    rfl

namespace Moved
variable {s t : State} (h : Moved t s)
include h

theorem moves : t.moves = s.moves := by obtain ⟨⟨_, _, _, _, _, _, _, _, _, _, _, _, _, rfl⟩, -, -⟩ := h; rfl
theorem held : t.held = s.held := by obtain ⟨⟨_, _, _, _, _, _, _, _, _, _, _, _, _, rfl⟩, -, -⟩ := h; rfl
theorem pkg : t.pkg = s.pkg := by obtain ⟨⟨_, _, _, _, _, _, _, _, _, _, _, _, _, rfl⟩, -, -⟩ := h; rfl
theorem retired : t.retired = s.retired := by obtain ⟨⟨_, _, _, _, _, _, _, _, _, _, _, _, _, rfl⟩, -, -⟩ := h; rfl

end Moved

theorem Moved.foldl {α : Type} {f : State → α → State} (h : ∀ s a, Moved (f s a) s) (l : List α) (s : State) :
    Moved (l.foldl f s) s :=
  List.foldlRecOn (motive := fun t => Moved t s) l _ (Moved.refl s) fun t ht a _ => (h t a).trans ht

/-! Lines of C2 put out, and data copied. -/

theorem State.dropC1_moved (s : State) (l : C2Line) : Moved (s.dropC1 l) s := by
  refine ⟨⟨_, _, _, _, _, _, _, _, _, _, _, _, _, rfl⟩, fun n c r => ?_, fun _ => rfl⟩
  have hc : ((s.dropC1 l).ctx n c) = s.ctx n c := by
    unfold State.dropC1 State.ctx Core.ctx State.core
    rw [Assoc.get_map_ctxs]
    · intro e; split <;> rfl
    · intro e; split <;> rfl
  rw [hc]

theorem State.chargeWb_moved (s : State) (l : C2Line) : Moved (s.chargeWb l) s := by
  unfold State.chargeWb
  dsimp only
  split
  · refine ⟨⟨_, _, _, _, _, _, _, _, _, _, _, _, _, rfl⟩, fun n c r => ?_, fun _ => rfl⟩
    rw [State.ctx_setCtx]
    split
    · obtain ⟨rfl, rfl⟩ := ‹_ ∧ _›
      rfl
    · rfl
  · refine ⟨⟨_, _, _, _, _, _, _, _, _, _, _, _, _, rfl⟩, fun n c r => ?_, fun _ => rfl⟩
    rw [State.ctx_modCore]
    split
    · obtain rfl := ‹_ = _›
      rfl
    · rfl

theorem State.writeBack_moved (s : State) (l : C2Line) : Moved (s.writeBack l) s := by
  unfold State.writeBack
  split
  · exact (Moved.ofParts _ _ _ _ _ _ _ _ _ _).trans (((s.storeBack l).chargeWb_moved l).trans (Moved.ofParts s _ _ _ _ _ _ _ _ _))
  · exact Moved.refl s

theorem State.evict_moved (s : State) (l : C2Line) : Moved (s.evict l) s :=
  (Moved.ofParts ((s.dropC1 l).writeBack l) _ _ _ _ _ _ _ _ _).trans (((s.dropC1 l).writeBack_moved l).trans (s.dropC1_moved l))

theorem State.flushRange_moved (s : State) (pa n : Nat) : Moved (s.flushRange pa n) s := Moved.foldl State.evict_moved _ s

theorem State.copyData_moved (s : State) (srcTier src dstTier dst n : Nat) : Moved (s.copyData srcTier src dstTier dst n) s := by
  unfold State.copyData
  dsimp only
  split <;> exact Moved.ofParts s _ _ _ _ _ _ _ _ _

theorem State.physWrite_moved (s : State) (pa n v : Nat) : Moved (s.physWrite pa n v) s := (s.physWrite_stored pa n v).moved

theorem State.carryLine_moved (s : State) (l : C2Line) (t : Trans) (shift : Nat × Nat) : Moved (s.carryLine l t shift) s := by
  unfold State.carryLine
  dsimp only
  split
  · exact Moved.ofParts s _ _ _ _ _ _ _ _ _
  · exact (State.evict_moved _ _).trans (Moved.ofParts s _ _ _ _ _ _ _ _ _)

/-! Heat. -/

theorem State.setHeat_moved (s : State) (p h : Nat) : Moved (s.setHeat p h) s := by
  unfold State.setHeat
  dsimp only
  split
  · exact (State.physWrite_moved _ _ _ _).trans (Moved.ofParts s _ _ _ _ _ _ _ _ _)
  · exact Moved.ofParts s _ _ _ _ _ _ _ _ _

theorem State.moveHeat_moved (s : State) (srcTier src dstTier dst size : Nat) :
    Moved (s.moveHeat srcTier src dstTier dst size) s := by
  refine Moved.foldl (fun s i => ?_) _ s
  have ite (b : Bool) (t : State) (p h : Nat) : Moved (if b then t else t.setHeat p h) t := by
    split
    · exact Moved.refl t
    · exact t.setHeat_moved p h
  exact (ite _ _ _ _).trans (ite _ _ _ _)

/-! Frames. -/

theorem State.setPoolCount_moved (s : State) (vf n k : Nat) : Moved (s.setPoolCount vf n k) s := by
  refine ⟨⟨_, _, _, _, _, _, _, _, _, _, _, _, _, rfl⟩, fun _ _ _ => rfl, fun v => ?_⟩
  unfold State.setPoolCount
  rw [State.vf_modVf]
  split
  · obtain rfl := ‹_ = _›
    rfl
  · rfl

theorem State.giveFrame_moved (s : State) (vf tier size frame : Nat) : Moved (s.giveFrame vf tier size frame) s := by
  unfold State.giveFrame
  dsimp only
  split
  · exact Moved.refl s
  · exact (State.setPoolCount_moved _ _ _ _).trans (s.physWrite_moved _ _ _)

theorem State.dropFrame_moved (s : State) (vf n addr : Nat) : Moved (s.dropFrame vf n addr) s := by
  unfold State.dropFrame
  dsimp only
  split
  · exact Moved.refl s
  · exact (State.setPoolCount_moved _ _ _ _).trans (s.physWrite_moved _ _ _)

theorem State.dropFrames_moved (s : State) (pa : Nat) : Moved (s.dropFrames pa) s :=
  Moved.foldl (fun t v => ((t.dropFrame v 0 _).dropFrame_moved v 3 _).trans (t.dropFrame_moved v 0 _)) _ s

/-! The switch of a page (R124), step by step. -/

/-- The lines of C2 at a move's places put out, where it goes to flash or comes into memory. -/
def State.flushMove (s : State) (m : Move) (size : Nat) : State :=
  let s := if m.dstTier == 2 then s.flushRange m.src size else s
  if m.dstTier == 2 then s else s.flushRange m.dst size

/-- The entry of a page that has moved. -/
def Move.entryWord (m : Move) (e : Nat) : Nat := setBits (setBits e 12 33 (m.dst / 4096)) 8 2 m.dstTier

/-- The cached translations of a move's source dropped. -/
def State.dropTlb (s : State) (m : Move) : State :=
  { s with tlb := s.tlb.filter fun t => !(t.tr.tier == m.srcTier && t.tr.base == m.src && !t.tr.fab) }

/-- The lines of a page that moves carried to its new place. -/
def State.carryLines (s : State) (m : Move) (va size entry : Nat) : State :=
  match State.switchPage.walkEntryOf size s entry va with
  | some t =>
    (s.c2.filter fun (l : C2Line) => m.srcTier != 2 && m.src / 64 ≤ l.pline && l.pline < (m.src + size) / 64).foldl
      (fun s l => State.carryLine s l t (m.src, m.dst)) s
  | none => s

/-- The parks and the registration of a page that has moved. -/
def State.followMove (s : State) (m : Move) (asid va size e : Nat) : State :=
  { s with
    parks := s.parks.map fun (p : Nat × Park) =>
      if m.srcTier != 2 && m.src ≤ p.2.wakePa && p.2.wakePa < m.src + size then
        (p.1, { p.2 with wakePa := p.2.wakePa - m.src + m.dst }) else p,
    regs := (s.regs.erase (regKey m.srcTier m.src)).put (regKey m.dstTier m.dst) ⟨asid, va, size, bits e 4 2, 0⟩ }

/-- A move's data at their new place. -/
def State.dataMoved (s : State) (m : Move) (size : Nat) : State :=
  (s.flushMove m size).copyData m.srcTier m.src m.dstTier m.dst size

/-- A move's data at their new place, its entry naming it and the old translations dropped. -/
def State.entryMoved (s : State) (m : Move) (size entry : Nat) : State :=
  ((s.dataMoved m size).physWrite entry 8 (m.entryWord ((s.dataMoved m size).physRead entry 8))).dropTlb m

theorem State.switchPage_eq (s : State) (m : Move) (asid va size entry : Nat) :
    s.switchPage m asid va size entry =
      (((s.entryMoved m size entry).carryLines m va size entry).moveHeat m.srcTier m.src m.dstTier m.dst size).followMove
        m asid va size ((s.dataMoved m size).physRead entry 8) := rfl

theorem State.dataMoved_moved (s : State) (m : Move) (size : Nat) : Moved (s.dataMoved m size) s := by
  refine (State.copyData_moved _ _ _ _ _ _).trans ?_
  unfold State.flushMove
  dsimp only
  split
  · exact s.flushRange_moved _ _
  · exact s.flushRange_moved _ _

theorem State.entryMoved_moved (s : State) (m : Move) (size entry : Nat) : Moved (s.entryMoved m size entry) s :=
  (Moved.ofParts ((s.dataMoved m size).physWrite entry 8 _) _ _ _ _ _ _ _ _ _).trans
    ((State.physWrite_moved _ _ _ _).trans (s.dataMoved_moved m size))

theorem State.carryLines_moved (s : State) (m : Move) (va size entry : Nat) : Moved (s.carryLines m va size entry) s := by
  unfold State.carryLines
  split
  · exact Moved.foldl (fun t l => t.carryLine_moved l _ _) _ s
  · exact Moved.refl s

theorem State.switchPage_moved (s : State) (m : Move) (asid va size entry : Nat) :
    Moved (s.switchPage m asid va size entry) s := by
  rw [State.switchPage_eq]
  exact (Moved.ofParts _ _ _ _ _ _ _ _ _ _).trans ((State.moveHeat_moved _ _ _ _ _ _).trans
    ((State.carryLines_moved _ _ _ _ _).trans (s.entryMoved_moved m size entry)))

end Sys2Proof.Machine
end

section
/-! SUPPORT. The retirement of a row (R136, R456): O49. -/
namespace Sys2Proof.Machine

theorem NatSet.mem_insert (k j : Nat) (m : NatSet) : j ∈ NatSet.insert k m ↔ j = k ∨ j ∈ m := by
  induction m with
  | nil => simp [NatSet.insert]
  | cons a m ih =>
    unfold NatSet.insert
    split
    · simp
    · split
      · obtain rfl : k = a := by simpa using ‹(k == a) = true›
        simp
      · simp only [List.mem_cons, ih]
        tauto

theorem NatSet.contains_insert (k j : Nat) (m : NatSet) : (NatSet.insert k m).contains j = true ↔ j = k ∨ m.contains j = true := by
  rw [List.contains_iff_mem, List.contains_iff_mem, NatSet.mem_insert]

/-- The state with a row on its retirement list. -/
def State.withRetired (s : State) (row : Nat) : State := { s with retired := NatSet.insert row s.retired }

/-- A free KV block at an address retired. -/
def State.retireFree (s : State) (pa : Nat) : State :=
  match s.kvQ (stackOfPa pa) with
  | some q =>
    if q.base ≤ pa && (pa - q.base) / 16384 < 2 ^ q.logq && eState (s.mapEntry q ((pa - q.base) / 16384)) == esFree then
      s.setMapEntry q ((pa - q.base) / 16384) (esRetired * 2 ^ 70)
    else s
  | none => s

theorem State.retireFree_of_noKv {s : State} {pa : Nat} (h : s.kvQ (stackOfPa pa) = none) : s.retireFree pa = s := by
  unfold State.retireFree
  rw [h]

theorem State.listRow_eq (s : State) (row : Nat) :
    s.listRow row = ((s.withRetired row).dropFrames (1024 * row)).retireFree (1024 * row) := rfl

theorem State.kvQ_congr {s t : State} (h : t.pkg = s.pkg) (stack : Nat) : t.kvQ stack = s.kvQ stack := by
  unfold State.kvQ
  rw [h]

/-- A row listed where its stack takes no KV operations. -/
theorem State.listRow_of_noKv {s : State} {row : Nat} (h : s.kvQ (stackOfPa (1024 * row)) = none) :
    s.listRow row = (s.withRetired row).dropFrames (1024 * row) := by
  rw [State.listRow_eq, State.retireFree_of_noKv]
  exact (State.kvQ_congr (State.dropFrames_moved _ _).pkg _).trans h

/-- A full list records its stack, and vector 2 is raised. -/
def State.fullList (s : State) (row : Nat) : State :=
  { s with retFull := NatSet.insert (stackOfPa (1024 * row)) s.retFull }.raiseMsix 0 2

section Row
variable {s : State} {row : Nat} (hrow : 1024 * row < hbmTop) (hn : s.retired.contains row = false) (hm : s.moves = [])
include hrow hn hm

theorem State.row_toRetire : ¬ (s.retired.contains row || hbmTop ≤ 1024 * row || s.moves.any (·.2.row == some row)) = true := by
  rw [hn, hm]
  simpa using hrow

theorem State.retireRow_of_full (hf : s.listFull row = true) : s.retireRow row = s.fullList row := by
  unfold State.retireRow
  dsimp only
  rw [if_neg (State.row_toRetire hrow hn hm), if_pos hf]
  rfl

theorem State.retireRow_of_noData (hf : s.listFull row = false) (hk : s.kvQ (stackOfPa (1024 * row)) = none) (hr : s.regs = []) :
    s.retireRow row = s.listRow row := by
  unfold State.retireRow
  dsimp only
  rw [if_neg (State.row_toRetire hrow hn hm), if_neg (by simp [hf]), hk, hr]
  rfl

end Row

/-- A row retired whose stack's list is full, or that holds no data that the device can move. -/
theorem happens_rowRetirement (s : State) (pa : Nat) (hrow : 1024 * rowOfPa pa < hbmTop)
    (hn : s.retired.contains (rowOfPa pa) = false) (hm : s.moves = []) :
    (s.listFull (rowOfPa pa) = true → Happens (.rowRetirement pa) s fun t => (0, 2) ∈ t.msix ∧ t.retired = s.retired ∧
      MemKept s t ∧ t.retFull.contains (stackOfPa (1024 * rowOfPa pa)) = true) ∧
    (s.listFull (rowOfPa pa) = false → s.kvQ (stackOfPa (1024 * rowOfPa pa)) = none → s.regs = [] →
      Happens (.rowRetirement pa) s fun t => t.retired.contains (rowOfPa pa) = true ∧
        (∀ r, s.retired.contains r = true → t.retired.contains r = true) ∧ ∀ n c r, (t.ctx n c).sreg r = (s.ctx n c).sreg r) := by
  have he : exec (Event.rowRetirement pa).instr (s.onEvent (.rowRetirement pa)) =
    .next ((s.onEvent (.rowRetirement pa)).retireRow (rowOfPa pa)) := rfl
  refine ⟨fun hf => happens_next he ?_, fun hf hk hr => happens_next he ?_⟩
  · rw [State.retireRow_of_full (s := s.onEvent (.rowRetirement pa)) hrow hn hm hf]
    exact ⟨List.mem_cons_self, rfl, .of_eq rfl rfl rfl rfl, (NatSet.contains_insert _ _ _).mpr (.inl rfl)⟩
  · rw [State.retireRow_of_noData (s := s.onEvent (.rowRetirement pa)) hrow hn hm hf hk hr,
      State.listRow_of_noKv (s := s.onEvent (.rowRetirement pa)) hk]
    have hd := ((s.onEvent (.rowRetirement pa)).withRetired (rowOfPa pa)).dropFrames_moved (1024 * rowOfPa pa)
    rw [hd.retired]
    exact ⟨(NatSet.contains_insert _ _ _).mpr (.inl rfl), fun r h => (NatSet.contains_insert _ _ _).mpr (.inr h), hd.sreg⟩

end Sys2Proof.Machine
end

section
/-! SUPPORT. Heat counters set one by one, and halved each millisecond (R91): O49. -/
namespace Sys2Proof.Machine

/-! What setting counters keeps. -/

/-- A state as another but for heat counters and what their stores may change. -/
def HeatSet (t s : State) : Prop := ∃ h, Stored t { s with heat := h }

theorem HeatSet.refl (s : State) : HeatSet s s := ⟨s.heat, Stored.refl s⟩

theorem HeatSet.trans {s t u : State} (h : HeatSet u t) (g : HeatSet t s) : HeatSet u s := by
  obtain ⟨h1, ⟨m, p, l, w, cs, os, rfl⟩, hctx⟩ := h
  obtain ⟨h2, ⟨m', p', l', w', cs', os', rfl⟩, gctx⟩ := g
  exact ⟨h1, ⟨m, p, l, w, cs, os, rfl⟩, fun n c => (hctx n c).trans (gctx n c)⟩

namespace HeatSet
variable {s t : State} (h : HeatSet t s)
include h

theorem pkg : t.pkg = s.pkg := by obtain ⟨_, ⟨_, _, _, _, _, _, rfl⟩, -⟩ := h; rfl
theorem tlb : t.tlb = s.tlb := by obtain ⟨_, ⟨_, _, _, _, _, _, rfl⟩, -⟩ := h; rfl
theorem regs : t.regs = s.regs := by obtain ⟨_, ⟨_, _, _, _, _, _, rfl⟩, -⟩ := h; rfl
theorem clk : t.clk = s.clk := by obtain ⟨_, ⟨_, _, _, _, _, _, rfl⟩, -⟩ := h; rfl
theorem nextBoundary (p : Nat) : t.nextBoundary p = s.nextBoundary p := by
  obtain ⟨_, ⟨_, _, _, _, _, _, rfl⟩, -⟩ := h
  rfl

end HeatSet

theorem State.setHeat_heatSet (s : State) (p h : Nat) : HeatSet (s.setHeat p h) s := by
  unfold State.setHeat
  dsimp only
  split
  · exact ⟨_, State.physWrite_stored _ _ _ _⟩
  · exact ⟨_, Stored.refl _⟩

theorem State.setHeats_cons (s : State) (e : Nat × Nat) (es : Assoc Nat) : s.setHeats (e :: es) = (s.setHeat e.1 e.2).setHeats es := rfl

theorem State.setHeats_heatSet (s : State) (es : Assoc Nat) : HeatSet (s.setHeats es) s := by
  induction es generalizing s with
  | nil => exact HeatSet.refl s
  | cons e es ih => exact (ih (s.setHeat e.1 e.2)).trans (s.setHeat_heatSet e.1 e.2)

/-- A byte outside a page's entry, if the host has placed a table at all, reads as before its counter was set. -/
theorem State.physByte_setHeat_of_apart (s : State) (p h a : Nat)
    (ha : s.pkg.heatBase ≠ 0 → a < heatSlot s.pkg.heatBase p ∨ heatSlot s.pkg.heatBase p + 4 ≤ a) :
    (s.setHeat p h).physByte a = s.physByte a := by
  by_cases hb : s.pkg.heatBase = 0
  · unfold State.setHeat
    dsimp only
    rw [if_neg (by simp [hb])]
    exact State.physByte_congr rfl rfl a
  · exact s.physByte_setHeat p h a (ha hb)

theorem State.physByte_setHeats_of_apart (s : State) (es : Assoc Nat) (a : Nat)
    (h : s.pkg.heatBase ≠ 0 → ∀ e ∈ es, a < heatSlot s.pkg.heatBase e.1 ∨ heatSlot s.pkg.heatBase e.1 + 4 ≤ a) :
    (s.setHeats es).physByte a = s.physByte a := by
  refine (List.foldlRecOn (motive := fun t : State => t.pkg = s.pkg ∧ t.physByte a = s.physByte a) es _ ⟨rfl, rfl⟩
    fun t ht e he => ⟨(t.setHeat_frame e.1 e.2).1.trans ht.1, ?_⟩).2
  rw [State.physByte_setHeat_of_apart _ _ _ _ (by rw [ht.1]; exact fun hb => h hb e he), ht.2]

/-- Counters set at distinct pages read as set there, and as before elsewhere. -/
theorem State.get_heat_setHeats (s : State) (es : Assoc Nat) (h : (es.map (·.1)).Nodup) (k : Nat) :
    (s.setHeats es).heat.get k 0 = es.get k (s.heat.get k 0) := by
  induction es generalizing s with
  | nil => rfl
  | cons e es ih =>
    rw [List.map_cons, List.nodup_cons] at h
    rw [State.setHeats_cons, ih _ h.2, (s.setHeat_frame e.1 e.2).2, Assoc.get_set, show e = (e.1, e.2) from rfl, Assoc.get_cons]
    by_cases hk : k = e.1
    · rw [if_pos hk, if_pos hk.symm]
      exact Assoc.get_of_not_mem es k _ fun hmem => h.1 (List.mem_map.mpr ⟨_, hmem, hk⟩)
    · rw [if_neg hk, if_neg (Ne.symm hk)]

/-! HEAT_HALVING. -/

/-- Counters with each halved. -/
def halves (m : Assoc Nat) : Assoc Nat := m.map fun e => (e.1, e.2 / 2)

theorem keys_halves (m : Assoc Nat) : (halves m).map (·.1) = m.map (·.1) := by simp [halves, List.map_map, Function.comp_def]

theorem get_halves (m : Assoc Nat) (k : Nat) : (halves m).get k (m.get k 0) = m.get k 0 / 2 := by
  have general (d : Nat) (h : (∀ v, (k, v) ∉ m) → d = 0) : (halves m).get k d = m.get k 0 / 2 := by
    induction m with
    | nil =>
      show d = 0 / 2
      exact h (by simp)
    | cons e m ih =>
      obtain ⟨j, v⟩ := e
      show Assoc.get ((j, v / 2) :: halves m) k d = _
      rw [Assoc.get_cons, Assoc.get_cons]
      by_cases hj : j = k
      · rw [if_pos hj, if_pos hj]
      · rw [if_neg hj, if_neg hj]
        exact ih fun hm => h fun w hw => (List.mem_cons.mp hw).elim (fun e => hj (Prod.ext_iff.mp e).1.symm) (hm w)
  exact general _ fun hm => Assoc.get_of_not_mem m k 0 (hm _)

/-- The counters halved, and the millisecond of the error vectors begun anew. -/
def State.heatHalved (s : State) : State := { s with errRose := [] }.setHeats (halves s.heat)

theorem State.heatHalved_heatSet (s : State) : HeatSet s.heatHalved { s with errRose := [] } := State.setHeats_heatSet _ _

theorem State.halveHeat_of_noRegs (s : State) (h : s.regs = []) : s.halveHeat = s.heatHalved.atBoundary 1000000 0 .heatHalving := by
  have hf : s.heat.foldl (fun s (e : Nat × Nat) => s.setHeat e.1 (e.2 / 2)) { s with errRose := [] } = s.heatHalved := by
    unfold State.heatHalved State.setHeats halves
    rw [List.foldl_map]
  have hr : s.heatHalved.regs = [] := s.heatHalved_heatSet.regs.trans h
  unfold State.halveHeat
  simp only [hf, hr, List.map_nil, List.eraseDups_nil, List.foldl_nil, List.foldl_fixed]

theorem State.mem_due_atBoundary (s : State) (p : Nat) (e : Event) (hp : 0 < p) : (s.nextBoundary p, e) ∈ (s.atBoundary p 0 e).due := by
  have h := s.clk_le_nextBoundary p hp
  have hm := s.mem_due_later (s.nextBoundary p + 0 - s.clk) e
  rwa [show s.clk + (s.nextBoundary p + 0 - s.clk) = s.nextBoundary p by omega] at hm

section Halving
variable (s : State)

theorem State.get_heatHalved (hn : (s.heat.map (·.1)).Nodup) (k : Nat) : s.heatHalved.heat.get k 0 = s.heat.get k 0 / 2 :=
  (State.get_heat_setHeats _ _ (by rw [keys_halves]; exact hn) k).trans (get_halves s.heat k)

theorem State.physByte_heatHalved (a : Nat) (h : s.pkg.heatBase ≠ 0 → ∀ e ∈ s.heat,
    a < heatSlot s.pkg.heatBase e.1 ∨ heatSlot s.pkg.heatBase e.1 + 4 ≤ a) : s.heatHalved.physByte a = s.physByte a := by
  refine (State.physByte_setHeats_of_apart _ _ _ fun hb e he => ?_).trans (State.physByte_congr rfl rfl a)
  obtain ⟨x, hx, rfl⟩ := List.mem_map.mp he
  exact h hb x hx

/-- The host's table takes the halved counter. -/
theorem State.physRead_heatHalved (p h : Nat) (hb : s.pkg.heatBase ≠ 0) (hs : s.heat = [(p, h)])
    (hi : inHbm (heatSlot s.pkg.heatBase p) 4 = true) :
    s.heatHalved.physRead (heatSlot s.pkg.heatBase p) 4 = h / 2 % 2 ^ 32 := by
  have hset : s.heatHalved = { s with errRose := [] }.setHeat p (h / 2) := by
    unfold State.heatHalved
    rw [hs]
    rfl
  rw [hset]
  unfold State.setHeat
  dsimp only
  rw [if_pos (by simp [hb, hi]), State.physRead_physWrite]

end Halving

theorem happens_heatHalving (s : State) (hr : s.regs = []) (hn : (s.heat.map (·.1)).Nodup) : Happens .heatHalving s fun t =>
    (∀ k, t.heat.get k 0 = s.heat.get k 0 / 2) ∧ (s.nextBoundary 1000000, Event.heatHalving) ∈ t.due ∧
    (∀ a, (s.pkg.heatBase ≠ 0 → ∀ e ∈ s.heat, a < heatSlot s.pkg.heatBase e.1 ∨ heatSlot s.pkg.heatBase e.1 + 4 ≤ a) →
      t.physByte a = s.physByte a) ∧
    ∀ p h, s.pkg.heatBase ≠ 0 → s.heat = [(p, h)] → inHbm (heatSlot s.pkg.heatBase p) 4 = true →
      t.physRead (heatSlot s.pkg.heatBase p) 4 = h / 2 % 2 ^ 32 := by
  let u := s.onEvent .heatHalving
  have he : exec Event.heatHalving.instr u = .next u.halveHeat := rfl
  have bytes (a : Nat) : (u.heatHalved.atBoundary 1000000 0 .heatHalving).physByte a = u.heatHalved.physByte a :=
    State.physByte_congr rfl rfl a
  refine happens_next he ?_
  rw [State.halveHeat_of_noRegs u hr]
  refine ⟨u.get_heatHalved hn, ?_, fun a ha => ?_, fun p h hb hs hi => ?_⟩
  · have hd := u.heatHalved.mem_due_atBoundary 1000000 .heatHalving (by decide)
    rwa [u.heatHalved_heatSet.nextBoundary] at hd
  · exact (bytes a).trans ((u.physByte_heatHalved a ha).trans (s.physByte_onEvent _ a))
  · exact (State.physRead_congr _ _ bytes).trans (u.physRead_heatHalved p h hb hs hi)

end Sys2Proof.Machine
end

section
/-! SUPPORT. Moving data does not depend on the event at hand (R124): O49. -/
namespace Sys2Proof.Machine

/-- Steps that do not depend on the event at hand, one after another. -/
theorem State.foldl_onEvent {α : Type} {f : State → α → State} {e : Event} (h : ∀ s a, f (s.onEvent e) a = (f s a).onEvent e)
    (l : List α) (s : State) : l.foldl f (s.onEvent e) = (l.foldl f s).onEvent e :=
  List.foldl_hom (fun t : State => t.onEvent e) h

section Steps
variable (s : State) (e : Event)

theorem State.payDie_onEvent (die cost : Nat) : (s.onEvent e).payDie die cost = (s.payDie die cost).onEvent e := rfl

theorem State.setPoolCount_onEvent (vf n k : Nat) : (s.onEvent e).setPoolCount vf n k = (s.setPoolCount vf n k).onEvent e := rfl

theorem State.dropTlb_onEvent (m : Move) : (s.onEvent e).dropTlb m = (s.dropTlb m).onEvent e := rfl

theorem State.followMove_onEvent (m : Move) (asid va size w : Nat) :
    (s.onEvent e).followMove m asid va size w = (s.followMove m asid va size w).onEvent e := rfl

theorem State.noteOrace_onEvent (pa n : Nat) : (s.onEvent e).noteOrace pa n = (s.noteOrace pa n).onEvent e := by
  unfold State.noteOrace
  split
  · rfl
  · refine State.foldl_onEvent (fun t a => ?_) s.ops s
    dsimp only
    split <;> rfl

theorem State.physStore_onEvent (pa n v : Nat) : (s.onEvent e).physStore pa n v = (s.physStore pa n v).onEvent e := by
  have hn : ((s.onEvent e).noteWrite pa n).noteOrace pa n = ((s.noteWrite pa n).noteOrace pa n).onEvent e :=
    (s.noteWrite pa n).noteOrace_onEvent e pa n
  unfold State.physStore
  rw [hn]
  dsimp only
  rw [show (((s.noteWrite pa n).noteOrace pa n).onEvent e).c2 = ((s.noteWrite pa n).noteOrace pa n).c2 from rfl]
  split <;> rfl

theorem State.physWrite_onEvent (pa n v : Nat) : (s.onEvent e).physWrite pa n v = (s.physWrite pa n v).onEvent e := by
  have go (fuel : Nat) (s : State) (pa n v : Nat) :
      State.physWrite.go (s.onEvent e) pa n v fuel = (State.physWrite.go s pa n v fuel).onEvent e := by
    induction fuel generalizing s pa n v with
    | zero => rfl
    | succ fuel ih =>
      unfold State.physWrite.go
      split
      · rfl
      · dsimp only
        rw [State.physStore_onEvent, ih]
  exact go _ _ _ _ _

theorem State.chargeWb_onEvent (l : C2Line) : (s.onEvent e).chargeWb l = (s.chargeWb l).onEvent e := by
  unfold State.chargeWb
  rw [show (s.onEvent e).ctx l.core l.ctx = s.ctx l.core l.ctx from rfl]
  dsimp only
  split <;> rfl

theorem State.writeBack_onEvent (l : C2Line) : (s.onEvent e).writeBack l = (s.writeBack l).onEvent e := by
  unfold State.writeBack
  split
  · rw [show (s.onEvent e).storeBack l = (s.storeBack l).onEvent e from rfl, State.chargeWb_onEvent, State.payDie_onEvent]
  · rfl

theorem State.evict_onEvent (l : C2Line) : (s.onEvent e).evict l = (s.evict l).onEvent e := by
  unfold State.evict
  rw [show (s.onEvent e).dropC1 l = (s.dropC1 l).onEvent e from rfl, State.writeBack_onEvent]
  rfl

theorem State.flushRange_onEvent (pa n : Nat) : (s.onEvent e).flushRange pa n = (s.flushRange pa n).onEvent e :=
  State.foldl_onEvent (fun t l => t.evict_onEvent e l) _ s

theorem State.copyData_onEvent (srcTier src dstTier dst n : Nat) :
    (s.onEvent e).copyData srcTier src dstTier dst n = (s.copyData srcTier src dstTier dst n).onEvent e := by
  unfold State.copyData
  dsimp only
  split <;> rfl

theorem State.carryLine_onEvent (l : C2Line) (t : Trans) (shift : Nat × Nat) :
    (s.onEvent e).carryLine l t shift = (s.carryLine l t shift).onEvent e := by
  have set (m : C2Line) : (s.onEvent e).setLine m = (s.setLine m).onEvent e := rfl
  unfold State.carryLine
  dsimp only
  rw [set]
  split
  · rfl
  · exact State.evict_onEvent _ e _

theorem State.setHeat_onEvent (p h : Nat) : (s.onEvent e).setHeat p h = (s.setHeat p h).onEvent e := by
  unfold State.setHeat
  dsimp only
  rw [show (s.onEvent e).pkg = s.pkg from rfl]
  split
  · exact State.physWrite_onEvent { s with heat := s.heat.set p h 0 } e _ _ _
  · rfl

theorem State.moveHeat_onEvent (srcTier src dstTier dst size : Nat) :
    (s.onEvent e).moveHeat srcTier src dstTier dst size = (s.moveHeat srcTier src dstTier dst size).onEvent e := by
  have step (b : Bool) (t : State) (p h : Nat) :
      (if b then t.onEvent e else (t.onEvent e).setHeat p h) = (if b then t else t.setHeat p h).onEvent e := by
    split
    · rfl
    · exact t.setHeat_onEvent e p h
  refine State.foldl_onEvent (fun t i => ?_) _ s
  dsimp only
  rw [step, step]
  rfl

theorem State.flushMove_onEvent (m : Move) (size : Nat) : (s.onEvent e).flushMove m size = (s.flushMove m size).onEvent e := by
  unfold State.flushMove
  dsimp only
  split <;> exact s.flushRange_onEvent e _ _

theorem State.dataMoved_onEvent (m : Move) (size : Nat) : (s.onEvent e).dataMoved m size = (s.dataMoved m size).onEvent e := by
  unfold State.dataMoved
  rw [State.flushMove_onEvent, State.copyData_onEvent]

theorem State.entryMoved_onEvent (m : Move) (size entry : Nat) :
    (s.onEvent e).entryMoved m size entry = (s.entryMoved m size entry).onEvent e := by
  unfold State.entryMoved
  rw [State.dataMoved_onEvent, State.physRead_onEvent, State.physWrite_onEvent, State.dropTlb_onEvent]

theorem State.carryLines_onEvent (m : Move) (va size entry : Nat) :
    (s.onEvent e).carryLines m va size entry = (s.carryLines m va size entry).onEvent e := by
  have hw : State.switchPage.walkEntryOf size (s.onEvent e) entry va = State.switchPage.walkEntryOf size s entry va := by
    unfold State.switchPage.walkEntryOf
    rw [State.physRead_onEvent]
    rfl
  unfold State.carryLines
  rw [hw]
  split
  · exact State.foldl_onEvent (fun t l => t.carryLine_onEvent e l _ _) _ s
  · rfl

theorem State.switchPage_onEvent (m : Move) (asid va size entry : Nat) :
    (s.onEvent e).switchPage m asid va size entry = (s.switchPage m asid va size entry).onEvent e := by
  rw [State.switchPage_eq, State.switchPage_eq, State.entryMoved_onEvent, State.carryLines_onEvent, State.moveHeat_onEvent,
    State.dataMoved_onEvent, State.physRead_onEvent, State.followMove_onEvent]

theorem State.giveFrame_onEvent (vf tier size frame : Nat) :
    (s.onEvent e).giveFrame vf tier size frame = (s.giveFrame vf tier size frame).onEvent e := by
  unfold State.giveFrame
  rw [show (s.onEvent e).poolCount = s.poolCount from rfl, show (s.onEvent e).poolEntry = s.poolEntry from rfl,
    show (s.onEvent e).frameBad = s.frameBad from rfl]
  dsimp only
  split
  · rfl
  · rw [State.physWrite_onEvent, State.setPoolCount_onEvent]

end Steps

/-! Walks of a page table (R22, R23). -/

section Walk
variable {s t : State} (hb : ∀ a, t.physByte a = s.physByte a) (hp : t.pkg = s.pkg)
include hb hp

theorem walkEntry_congr (node level idx va : Nat) : walkEntry t node level idx va = walkEntry s node level idx va := by
  unfold walkEntry
  simp only [State.physRead_congr _ _ hb, hp]

theorem walkFrom_congr (node va : Nat) (ls : List (Nat × Nat × Nat)) : walkFrom t node va ls = walkFrom s node va ls := by
  induction ls generalizing node with
  | nil => rfl
  | cons l ls ih =>
    unfold walkFrom
    simp only [walkEntry_congr hb hp, ih]

theorem leafPa_congr (node va : Nat) (ls : List (Nat × Nat × Nat)) : leafPa t node va ls = leafPa s node va ls := by
  induction ls generalizing node with
  | nil => rfl
  | cons l ls ih =>
    unfold leafPa
    simp only [walkEntry_congr hb hp, ih]

variable (hv : t.vfs = s.vfs)
include hv

omit hp in
theorem State.rootOf_congr (asid : Nat) : t.rootOf asid = s.rootOf asid := by
  have hvf (v : Nat) : t.vf v = s.vf v := by
    unfold State.vf
    rw [hv]
  unfold State.rootOf
  simp only [State.physRead_congr _ _ hb, hvf]

/-- Where a registered mapping's entry lies depends on memory, the device's number and the functions alone. -/
theorem State.mappedAt_congr (asid va tier base : Nat) : t.mappedAt asid va tier base = s.mappedAt asid va tier base := by
  unfold State.mappedAt
  simp only [State.rootOf_congr hb hv, walkFrom_congr hb hp, leafPa_congr hb hp]

end Walk

end Sys2Proof.Machine
end

section
/-! SUPPORT. The end of a move: given up, delayed or done (R124, R126): O49. -/
namespace Sys2Proof.Machine

theorem Assoc.mem_put {α : Type} {m : Assoc α} {k : Nat} {v : α} {e : Nat × α} (h : e ∈ m.put k v) : e = (k, v) ∨ e ∈ m :=
  (Assoc.mem_insertSorted _ _ _ _ h).imp_right (Assoc.mem_erase _ _ _)

theorem Assoc.has_put_self {α : Type} (m : Assoc α) (k : Nat) (v : α) : (m.put k v).has k = true := by
  have h : ((m.put k v).find? (·.1 == k)).isSome = true := by rw [Assoc.find?_put_self]; rfl
  rw [List.find?_isSome] at h
  obtain ⟨e, he, hk⟩ := h
  exact List.any_eq_true.mpr ⟨e, he, hk⟩

/-! A move over (R122, R125). -/

/-- No move under way has a number. -/
def State.noMove (s : State) (id : Nat) : Prop := ∀ e ∈ s.moves, e.1 ≠ id

theorem State.find?_of_noMove {s : State} {id : Nat} (h : s.noMove id) : s.moves.find? (·.1 == id) = none := by
  rw [List.find?_eq_none]
  intro e he
  simpa using h e he

theorem State.has_of_noMove {s : State} {id : Nat} (h : s.noMove id) : s.moves.has id = false := by
  rw [Assoc.has, List.any_eq_false]
  intro e he
  simpa using h e he

/-- A state as another but for the moves under way and what is due, where no move has a number. -/
def Ended (id : Nat) (t s : State) : Prop := ∃ ms du, t = { s with moves := ms, due := du } ∧ t.noMove id

/-- Moves that start on free channels are of those under way. -/
theorem State.feedChannels_ended {s : State} {id : Nat} (h : s.noMove id) (die : Nat) : Ended id (s.feedChannels die) s := by
  unfold State.feedChannels
  dsimp only
  refine List.foldlRecOn (motive := fun t : State => Ended id t s) _ _ ⟨_, _, rfl, h⟩ fun t ht m hm => ?_
  obtain ⟨ms, du, rfl, hn⟩ := ht
  refine ⟨_, _, rfl, fun e he => ?_⟩
  rcases Assoc.mem_put he with rfl | he
  · have hmem := List.mem_of_mem_take hm
    unfold startOrder at hmem
    simp only [List.mem_append, List.mem_filter] at hmem
    exact h m (by tauto)
  · exact hn e he

/-- With no store held, the stores held try again in vain. -/
theorem State.retryHeld_of_none {s : State} (h : s.held = []) : s.retryHeld = s := by
  unfold State.retryHeld
  rw [h]
  show { s with held := [] } = s
  exact congrArg (fun l => ({ s with held := l } : State)) h.symm

theorem State.endMove_ended {s : State} (h : s.held = []) (id die : Nat) : Ended id (s.endMove id die) s := by
  have hr : ({ s with moves := s.moves.erase id }.cancel (.migrationCopyDone id)).retryHeld =
    { s with moves := s.moves.erase id }.cancel (.migrationCopyDone id) := State.retryHeld_of_none h
  unfold State.endMove
  dsimp only
  rw [hr]
  have hn : ({ s with moves := s.moves.erase id }.cancel (.migrationCopyDone id)).noMove id := fun e he hk => by
    have := List.any_eq_false.mp (Assoc.has_erase s.moves id) e he
    exact this (by simp [hk])
  obtain ⟨ms, du, he, hd⟩ := State.feedChannels_ended hn die
  exact ⟨ms, du, he, hd⟩

/-! A move given up (R126). -/

/-- A move is over, its refusal counted, and no scalar register changed. -/
def GivenUp (s : State) (id vf : Nat) (t : State) : Prop :=
  t.moves.find? (·.1 == id) = none ∧ (t.vf vf).migErr = satInc64 (s.vf vf).migErr ∧
    ∀ n c r, (t.ctx n c).sreg r = (s.ctx n c).sreg r

/-- The state with a refused move counted, and the error vector raised. -/
def State.countRefused (s : State) (vf : Nat) : State :=
  (s.modVf vf fun v => { v with migErr := satInc64 v.migErr }).raiseErr vf

theorem State.countRefused_frame (s : State) (vf : Nat) : (s.countRefused vf).held = s.held ∧
    ((s.countRefused vf).vf vf).migErr = satInc64 (s.vf vf).migErr ∧ ∀ n c, (s.countRefused vf).ctx n c = s.ctx n c := by
  have hv : ((s.modVf vf fun v => { v with migErr := satInc64 v.migErr }).vf vf).migErr = satInc64 (s.vf vf).migErr := by
    rw [State.vf_modVf, if_pos rfl]
  unfold State.countRefused State.raiseErr
  split
  · exact ⟨rfl, hv, fun _ _ => rfl⟩
  · exact ⟨rfl, hv, fun _ _ => rfl⟩

theorem State.dropMove_givenUp {s : State} (h : s.held = []) (id : Nat) {m : Move} (hb : m.block = none) :
    GivenUp s id m.vf (s.dropMove id m true) := by
  obtain ⟨size, hs⟩ : ∃ size, s.dropMove id m true =
      ((s.giveFrame m.vf m.dstTier size m.dst).countRefused m.vf).endMove id m.die := by
    unfold State.dropMove
    rw [hb]
    exact ⟨_, rfl⟩
  have hg := s.giveFrame_moved m.vf m.dstTier size m.dst
  obtain ⟨hheld, herr, hctx⟩ := (s.giveFrame m.vf m.dstTier size m.dst).countRefused_frame m.vf
  obtain ⟨ms, du, he, hn⟩ := State.endMove_ended (hheld.trans (hg.held.trans h)) id m.die
  rw [hs]
  refine ⟨State.find?_of_noMove hn, ?_, fun n c r => ?_⟩
  · rw [he]
    exact herr.trans (congrArg satInc64 (hg.migErr _))
  · rw [he]
    exact (congrArg (·.sreg r) (hctx n c)).trans (hg.sreg n c r)

/-! The events of a page's move. -/

section PageMove
variable {u : State} {id asid va size : Nat} {m : Move} (hf : u.moves.find? (·.1 == id) = some (id, m))
  (hk : m.kind = .page asid va size) (hr : m.row = none)
include hf hk hr

/-- A page's move of no retired row ends as its copy ends. -/
theorem execMigrationCopyDone_page (he : u.ev = .migrationCopyDone id) :
    execMigrationCopyDone u = .next (u.pageCopied id m asid va size) := by
  have after (t : State) : t.afterRow m = t := by
    unfold State.afterRow
    rw [hr]
  have again (t : State) : t.rowAgain m = t := by
    unfold State.rowAgain
    rw [hr]
  unfold execMigrationCopyDone
  rw [he]
  dsimp only
  rw [hf]
  dsimp only
  rw [hk]
  dsimp only
  rw [after, again]
  split
  · rfl
  · split <;> rfl

theorem execMigrationAbandon_page (he : u.ev = .migrationAbandon id) :
    execMigrationAbandon u = .next (u.dropMove id m true) := by
  have again (t : State) : t.rowAgain m = t := by
    unfold State.rowAgain
    rw [hr]
  unfold execMigrationAbandon
  rw [he]
  dsimp only
  rw [hf]
  dsimp only
  rw [hk]
  exact congrArg _ (again _)

end PageMove

/-- The state with a move closing. -/
def State.closing (s : State) (id : Nat) (m : Move) : State := { s with moves := s.moves.put id { m with closing := true } }

section Copied
variable {s : State} {id : Nat} {m : Move} {size : Nat} (asid va : Nat)

theorem State.pageCopied_of_pinned (hp : s.switchPinned m.srcTier m.src size = true) :
    s.pageCopied id m asid va size = s.later 64 (.migrationCopyDone id) := by
  unfold State.pageCopied
  rw [if_pos hp]

variable (hp : s.switchPinned m.srcTier m.src size = false)
include hp

theorem State.pageCopied_of_refused (hd : destOk m.dstTier m.dst size = false) :
    s.pageCopied id m asid va size = s.dropMove id m true := by
  unfold State.pageCopied
  rw [if_neg (by simp [hp]), if_pos (by simp [hd])]

variable (hd : destOk m.dstTier m.dst size = true) (hh : s.held = [])
include hd hh

theorem State.pageCopied_of_fill (hfill : s.switchFills m.srcTier m.src size = true) :
    s.pageCopied id m asid va size = (s.closing id m).later 64 (.migrationCopyDone id) := by
  have hc : (s.closing id m).retryHeld = s.closing id m := State.retryHeld_of_none hh
  unfold State.pageCopied
  rw [if_neg (by simp [hp]), if_neg (by simp [hd])]
  dsimp only
  rw [show { s with moves := s.moves.put id { m with closing := true } } = s.closing id m from rfl, hc]
  exact if_pos hfill

theorem State.pageCopied_of_mapped (hfill : s.switchFills m.srcTier m.src size = false) {entry : Nat}
    (hm : s.mappedAt asid va m.srcTier m.src = some entry) :
    s.pageCopied id m asid va size =
      (((s.closing id m).switchPage m asid va size entry).giveFrame m.vf m.srcTier size m.src).endMove id m.die := by
  have hc : (s.closing id m).retryHeld = s.closing id m := State.retryHeld_of_none hh
  have hf : (s.closing id m).switchFills m.srcTier m.src size = false := hfill
  have hm' : (s.closing id m).mappedAt asid va m.srcTier m.src = some entry :=
    (State.mappedAt_congr (s := s) (t := s.closing id m) (State.physByte_congr rfl rfl) rfl rfl _ _ _ _).trans hm
  unfold State.pageCopied
  rw [if_neg (by simp [hp]), if_neg (by simp [hd])]
  dsimp only
  rw [show { s with moves := s.moves.put id { m with closing := true } } = s.closing id m from rfl, hc, if_neg (by simp [hf]), hm']

end Copied

section Events
variable {s : State} {id asid va size : Nat} {m : Move} (hf : s.moves.find? (·.1 == id) = some (id, m))
  (hk : m.kind = .page asid va size) (hr : m.row = none)
include hf hk hr

/-- The end of a copy is what its switch makes of it. -/
theorem happens_copyDone {P : State → Prop} (hp : P ((s.onEvent (.migrationCopyDone id)).pageCopied id m asid va size)) :
    Happens (.migrationCopyDone id) s P :=
  happens_next (execMigrationCopyDone_page (u := s.onEvent (.migrationCopyDone id)) hf hk hr rfl) hp

theorem happens_copyDone_pinned (hp : s.switchPinned m.srcTier m.src size = true) : Happens (.migrationCopyDone id) s fun t =>
    (s.clk + 64, Event.migrationCopyDone id) ∈ t.due ∧ t.moves = s.moves ∧ MemKept s t := by
  refine happens_copyDone hf hk hr ?_
  rw [State.pageCopied_of_pinned (s := s.onEvent (.migrationCopyDone id)) asid va hp]
  exact ⟨State.mem_due_later _ _ _, rfl, .of_eq rfl rfl rfl rfl⟩

theorem happens_copyDone_fill (hp : s.switchPinned m.srcTier m.src size = false) (hd : destOk m.dstTier m.dst size = true)
    (hh : s.held = []) (hfill : s.switchFills m.srcTier m.src size = true) : Happens (.migrationCopyDone id) s fun t =>
    (s.clk + 64, Event.migrationCopyDone id) ∈ t.due ∧ t.moves = s.moves.put id { m with closing := true } ∧ MemKept s t := by
  refine happens_copyDone hf hk hr ?_
  rw [State.pageCopied_of_fill (s := s.onEvent (.migrationCopyDone id)) asid va hp hd hh hfill]
  exact ⟨State.mem_due_later _ _ _, rfl, .of_eq rfl rfl rfl rfl⟩

variable (hb : m.block = none) (hh : s.held = [])
include hb hh

theorem happens_migrationAbandon : Happens (.migrationAbandon id) s (GivenUp s id m.vf) :=
  happens_next (execMigrationAbandon_page (u := s.onEvent (.migrationAbandon id)) hf hk hr rfl)
    (State.dropMove_givenUp (s := s.onEvent (.migrationAbandon id)) hh id hb)

theorem happens_copyDone_refused (hp : s.switchPinned m.srcTier m.src size = false) (hd : destOk m.dstTier m.dst size = false) :
    Happens (.migrationCopyDone id) s (GivenUp s id m.vf) := by
  refine happens_copyDone hf hk hr ?_
  rw [State.pageCopied_of_refused (s := s.onEvent (.migrationCopyDone id)) asid va hp hd]
  exact State.dropMove_givenUp (s := s.onEvent (.migrationCopyDone id)) hh id hb

end Events

/-- A copy that is done: the page switches, its frame goes back, and the move is over (R124). -/
theorem happens_copyDone_switch {s : State} {id asid va size entry : Nat} {m : Move}
    (hf : s.moves.find? (·.1 == id) = some (id, m)) (hk : m.kind = .page asid va size) (hr : m.row = none) (hh : s.held = [])
    (hp : s.switchPinned m.srcTier m.src size = false) (hd : destOk m.dstTier m.dst size = true)
    (hfill : s.switchFills m.srcTier m.src size = false) (hm : s.mappedAt asid va m.srcTier m.src = some entry) :
    Happens (.migrationCopyDone id) s fun t =>
      Ended id t ((((s.closing id m).switchPage m asid va size entry).giveFrame m.vf m.srcTier size m.src).onEvent
        (.migrationCopyDone id)) := by
  refine happens_copyDone hf hk hr ?_
  have hm' : (s.onEvent (.migrationCopyDone id)).mappedAt asid va m.srcTier m.src = some entry :=
    (State.mappedAt_congr (s := s) (t := s.onEvent (.migrationCopyDone id)) (s.physByte_onEvent _) rfl rfl _ _ _ _).trans hm
  rw [State.pageCopied_of_mapped (s := s.onEvent (.migrationCopyDone id)) asid va hp hd hh hfill hm',
    show (s.onEvent (.migrationCopyDone id)).closing id m = (s.closing id m).onEvent (.migrationCopyDone id) from rfl,
    State.switchPage_onEvent, State.giveFrame_onEvent]
  refine State.endMove_ended ?_ id m.die
  exact ((State.giveFrame_moved _ _ _ _ _).trans ((s.closing id m).switchPage_moved m asid va size entry)).held.trans hh

end Sys2Proof.Machine
end

section
/-! SUPPORT. The switch of a page where C2 holds no line (R124): O49. -/
namespace Sys2Proof.Machine

/-! Cells moved. -/

theorem Assoc.get_append_of_not_left {α : Type} (a b : Assoc α) (k : Nat) (d : α) (h : ∀ e ∈ a, e.1 ≠ k) :
    Assoc.get (a ++ b) k d = Assoc.get b k d := by
  induction a with
  | nil => rfl
  | cons e a ih =>
    show Assoc.get ((e.1, e.2) :: (a ++ b)) k d = _
    rw [Assoc.get_cons, if_neg (h e List.mem_cons_self), ih fun x hx => h x (List.mem_cons_of_mem _ hx)]

theorem Assoc.get_append_of_not_right {α : Type} (a b : Assoc α) (k : Nat) (d : α) (h : ∀ e ∈ b, e.1 ≠ k) :
    Assoc.get (a ++ b) k d = Assoc.get a k d := by
  induction a with
  | nil => exact Assoc.get_of_not_mem b k d fun hm => h _ hm rfl
  | cons e a ih =>
    show Assoc.get ((e.1, e.2) :: (a ++ b)) k d = Assoc.get ((e.1, e.2) :: a) k d
    rw [Assoc.get_cons, Assoc.get_cons, ih]

/-- The cells of a range at their new place. -/
def movedCells (l : List Host.Cell) (src dst n : Nat) : List Host.Cell :=
  (l.filter fun c => src ≤ c.1 && c.1 < src + n).map fun c => (c.1 - src + dst, c.2)

theorem moveCells_eq (f l : List Host.Cell) (src dst n : Nat) : moveCells f l src dst n =
    l.filter (fun c => c.1 < dst) ++ movedCells f src dst n ++ l.filter (fun c => dst + n ≤ c.1) := rfl

theorem mem_movedCells {l : List Host.Cell} {src dst n : Nat} {e : Host.Cell} (h : e ∈ movedCells l src dst n) :
    dst ≤ e.1 ∧ e.1 < dst + n := by
  obtain ⟨c, hc, rfl⟩ := List.mem_map.mp h
  have hr := (List.mem_filter.mp hc).2
  simp only [Bool.and_eq_true, decide_eq_true_eq] at hr
  dsimp only
  omega

theorem get_movedCells (l : List Host.Cell) (src dst n i : Nat) (d : Byte) (hi : i < n) :
    Assoc.get (movedCells l src dst n) (dst + i) d = Assoc.get l (src + i) d := by
  induction l with
  | nil => rfl
  | cons e l ih =>
    obtain ⟨j, v⟩ := e
    have hcons : movedCells ((j, v) :: l) src dst n =
        if src ≤ j ∧ j < src + n then (j - src + dst, v) :: movedCells l src dst n else movedCells l src dst n := by
      unfold movedCells
      rw [List.filter_cons]
      simp only [Bool.and_eq_true, decide_eq_true_eq]
      split <;> rfl
    rw [hcons, Assoc.get_cons]
    by_cases hr : src ≤ j ∧ j < src + n
    · rw [if_pos hr, Assoc.get_cons, ih]
      exact if_congr (by omega) rfl rfl
    · rw [if_neg hr, if_neg (by omega), ih]

/-- A byte of the destination reads as the source's. -/
theorem memByte_moveCells_dst (f l : List Host.Cell) (src dst n i : Nat) (hi : i < n) :
    memByte (moveCells f l src dst n) (dst + i) = memByte f (src + i) := by
  unfold memByte
  rw [moveCells_eq, Assoc.get_append_of_not_right, Assoc.get_append_of_not_left, get_movedCells _ _ _ _ _ _ hi]
  · intro e he
    have := (List.mem_filter.mp he).2
    simp only [decide_eq_true_eq] at this
    omega
  · intro e he
    have := (List.mem_filter.mp he).2
    simp only [decide_eq_true_eq] at this
    omega

/-- A byte outside the destination reads as before. -/
theorem memByte_moveCells_of_apart (f l : List Host.Cell) (src dst n a : Nat) (ha : a < dst ∨ dst + n ≤ a) :
    memByte (moveCells f l src dst n) a = memByte l a := by
  have hmoved : ∀ e ∈ movedCells f src dst n, e.1 ≠ a := fun e he => by
    have := mem_movedCells he
    omega
  unfold memByte
  rw [moveCells_eq]
  rcases ha with ha | ha
  · rw [Assoc.get_append_of_not_right, Assoc.get_append_of_not_right _ _ _ _ hmoved]
    · exact Assoc.get_filter _ _ _ _ fun _ => by simpa using ha
    · intro e he
      have := (List.mem_filter.mp he).2
      simp only [decide_eq_true_eq] at this
      omega
  · rw [Assoc.get_append_of_not_left]
    · exact Assoc.get_filter _ _ _ _ fun _ => by simpa using ha
    · intro e he
      rcases List.mem_append.mp he with he | he
      · have := (List.mem_filter.mp he).2
        simp only [decide_eq_true_eq] at this
        omega
      · exact hmoved e he

/-! C2 without a line. -/

theorem State.physByte_of_noLines {s : State} (h : s.c2 = []) (a : Nat) : s.physByte a = (memByte s.mem a).toNat := by
  unfold State.physByte State.lineOf
  rw [h]
  rfl

theorem State.physWrite_noLines {s : State} (h : s.c2 = []) (pa n v : Nat) : (s.physWrite pa n v).c2 = [] := by
  have go (fuel : Nat) (s : State) (h : s.c2 = []) (pa n v : Nat) : (State.physWrite.go s pa n v fuel).c2 = [] := by
    induction fuel generalizing s pa n v with
    | zero => exact h
    | succ fuel ih =>
      unfold State.physWrite.go
      split
      · exact h
      · exact ih _ ((State.physStore_of_uncached _ _ _ _ (by rw [h]; rfl)).2.trans h) _ _ _
  exact go _ _ h _ _ _

theorem State.setHeat_noLines {s : State} (h : s.c2 = []) (p k : Nat) : (s.setHeat p k).c2 = [] := by
  unfold State.setHeat
  dsimp only
  split
  · exact State.physWrite_noLines (s := { s with heat := s.heat.set p k 0 }) h _ _ _
  · exact h

theorem State.carryLines_noLines {s : State} (h : s.c2 = []) (m : Move) (va size entry : Nat) : s.carryLines m va size entry = s := by
  unfold State.carryLines
  rw [h]
  split <;> rfl

/-- A move between HBM and the CXL tier copies its bytes alone. -/
theorem State.dataMoved_noLines {s : State} (h : s.c2 = []) {m : Move} (hs : m.srcTier < 2) (hd : m.dstTier < 2) (size : Nat) :
    (s.dataMoved m size).mem = moveCells s.mem s.mem m.src m.dst size ∧ (s.dataMoved m size).c2 = [] := by
  have hf : s.flushMove m size = s := by
    have flush (pa : Nat) : s.flushRange pa size = s := s.flushRange_of_apart pa size (by simp [State.apart, h])
    unfold State.flushMove
    rw [flush]
    simp only [ite_self, flush]
  have h1 : ¬ (m.srcTier == 2) = true := by simp; omega
  have h2 : ¬ (m.dstTier == 2) = true := by simp; omega
  unfold State.dataMoved
  rw [hf]
  unfold State.copyData
  dsimp only
  rw [if_neg h2, if_neg h1]
  exact ⟨rfl, h⟩

/-! The heat of a page that moves. -/

theorem State.moveHeat_heatSet (s : State) (srcTier src dstTier dst size : Nat) :
    HeatSet (s.moveHeat srcTier src dstTier dst size) s := by
  have step (b : Bool) (t : State) (p h : Nat) : HeatSet (if b then t else t.setHeat p h) t := by
    split
    · exact HeatSet.refl t
    · exact t.setHeat_heatSet p h
  refine List.foldlRecOn (motive := fun t => HeatSet t s) _ _ (HeatSet.refl s) fun t ht i _ => ?_
  exact (step _ _ _ _).trans ((step _ _ _ _).trans ht)

/-- With no line in C2, moving heat changes no byte outside the host's table. -/
theorem State.moveHeat_noLines {s : State} (h : s.c2 = []) (srcTier src dstTier dst size : Nat) :
    (s.moveHeat srcTier src dstTier dst size).c2 = [] ∧
    ∀ a, (s.pkg.heatBase ≠ 0 → ∀ p, a < heatSlot s.pkg.heatBase p ∨ heatSlot s.pkg.heatBase p + 4 ≤ a) →
      (s.moveHeat srcTier src dstTier dst size).physByte a = s.physByte a := by
  let Same (t : State) : Prop := t.pkg = s.pkg ∧ t.c2 = [] ∧
    ∀ a, (s.pkg.heatBase ≠ 0 → ∀ p, a < heatSlot s.pkg.heatBase p ∨ heatSlot s.pkg.heatBase p + 4 ≤ a) → t.physByte a = s.physByte a
  have step (b : Bool) (t : State) (p k : Nat) (ht : Same t) : Same (if b then t else t.setHeat p k) := by
    obtain ⟨hp, hc, hb⟩ := ht
    split
    · exact ⟨hp, hc, hb⟩
    · refine ⟨(t.setHeat_frame p k).1.trans hp, State.setHeat_noLines hc p k, fun a ha => ?_⟩
      rw [State.physByte_setHeat_of_apart _ _ _ _ (by rw [hp]; exact fun hne => ha hne p), hb a ha]
  have all : Same (s.moveHeat srcTier src dstTier dst size) :=
    List.foldlRecOn (motive := Same) _ _ ⟨rfl, h, fun _ _ => rfl⟩ fun t ht i _ => step _ _ _ _ (step _ _ _ _ ht)
  exact all.2

/-! The entry of a page that moves. -/

theorem Move.bits_entryWord (m : Move) (e : Nat) (hd : m.dstTier < 2) : bits (m.entryWord e % 2 ^ 64) 12 33 = m.dst / 4096 % 2 ^ 33 ∧
    bits (m.entryWord e % 2 ^ 64) 8 2 = m.dstTier ∧ bits (m.entryWord e % 2 ^ 64) 0 8 = bits e 0 8 := by
  unfold Move.entryWord
  refine ⟨?_, ?_, ?_⟩
  · rw [bits_mod _ _ _ _ (by decide), bits_setBits_ne _ _ _ _ _ _ (by decide), bits_setBits_self]
  · rw [bits_mod _ _ _ _ (by decide), bits_setBits_self]
    omega
  · rw [bits_mod _ _ _ _ (by decide), bits_setBits_ne _ _ _ _ _ _ (by decide), bits_setBits_ne _ _ _ _ _ _ (by decide)]

section Switch
variable {s : State} {m : Move} {size entry : Nat} (hc : s.c2 = []) (hs : m.srcTier < 2) (hd : m.dstTier < 2)
  (hsd : entry + 8 ≤ m.dst ∨ m.dst + size ≤ entry)
include hc hs hd

theorem State.entryMoved_noLines : (s.entryMoved m size entry).c2 = [] :=
  State.physWrite_noLines (s.dataMoved_noLines hc hs hd size).2 _ _ _

include hsd

/-- An entry apart from the destination reads as before while the data move. -/
theorem State.physRead_entry_dataMoved : (s.dataMoved m size).physRead entry 8 = s.physRead entry 8 := by
  obtain ⟨hmem, hc2⟩ := s.dataMoved_noLines hc hs hd size
  have self : s.physRead entry 8 = s.physRead entry 8 % 2 ^ (8 * 8) :=
    s.physRead_eq_mod entry 8 _ fun i hi => (s.bits_physRead entry 8 i hi).symm
  refine (State.physRead_eq_mod _ _ _ _ fun i hi => ?_).trans self.symm
  rw [s.bits_physRead entry 8 i hi, State.physByte_of_noLines hc, State.physByte_of_noLines hc2, hmem,
    memByte_moveCells_of_apart _ _ _ _ _ _ (by omega)]

/-- Every byte after the data and the entry have moved. -/
theorem State.physByte_entryMoved (a : Nat) : (s.entryMoved m size entry).physByte a =
    if entry ≤ a ∧ a < entry + 8 then bits (m.entryWord (s.physRead entry 8)) (8 * (a - entry)) 8
    else (memByte (moveCells s.mem s.mem m.src m.dst size) a).toNat := by
  obtain ⟨hmem, hc2⟩ := s.dataMoved_noLines hc hs hd size
  have hb : (s.entryMoved m size entry).physByte a =
      ((s.dataMoved m size).physWrite entry 8 (m.entryWord ((s.dataMoved m size).physRead entry 8))).physByte a :=
    State.physByte_congr rfl rfl a
  rw [hb, State.physByte_physWrite, State.physRead_entry_dataMoved hc hs hd hsd, State.physByte_of_noLines hc2, hmem]

end Switch

/-- A page's switch with no line in C2 and the host's heat table apart (R124). -/
theorem State.switchPage_spec {s : State} {m : Move} {size entry : Nat} (asid va : Nat) (hc : s.c2 = []) (hs : m.srcTier < 2)
    (hd : m.dstTier < 2) (hsd : entry + 8 ≤ m.dst ∨ m.dst + size ≤ entry)
    (hheat : s.pkg.heatBase ≠ 0 → ∀ p, (heatSlot s.pkg.heatBase p + 4 ≤ m.dst ∨ m.dst + size ≤ heatSlot s.pkg.heatBase p) ∧
      (heatSlot s.pkg.heatBase p + 4 ≤ entry ∨ entry + 8 ≤ heatSlot s.pkg.heatBase p)) :
    (∀ i, i < size → memByte (s.switchPage m asid va size entry).mem (m.dst + i) = memByte s.mem (m.src + i)) ∧
    (s.switchPage m asid va size entry).physRead entry 8 = m.entryWord (s.physRead entry 8) % 2 ^ 64 ∧
    ∀ e ∈ (s.switchPage m asid va size entry).tlb, e.tr.tier = m.srcTier → e.tr.base = m.src → e.tr.fab = true := by
  let u := s.entryMoved m size entry
  let w := u.moveHeat m.srcTier m.src m.dstTier m.dst size
  have huc : u.c2 = [] := State.entryMoved_noLines hc hs hd
  have hu : u.pkg = s.pkg := (s.entryMoved_moved m size entry).pkg
  have ht : s.switchPage m asid va size entry = w.followMove m asid va size ((s.dataMoved m size).physRead entry 8) := by
    rw [State.switchPage_eq, State.carryLines_noLines huc]
  obtain ⟨hwc, hwb⟩ := State.moveHeat_noLines huc m.srcTier m.src m.dstTier m.dst size
  have byte (a : Nat) (ha : s.pkg.heatBase ≠ 0 → ∀ p, a < heatSlot s.pkg.heatBase p ∨ heatSlot s.pkg.heatBase p + 4 ≤ a) :
      (s.switchPage m asid va size entry).physByte a = u.physByte a := by
    rw [ht, ← hwb a (by rw [hu]; exact ha)]
    exact State.physByte_congr rfl rfl a
  have htc : (s.switchPage m asid va size entry).c2 = [] := by rw [ht]; exact hwc
  refine ⟨fun i hi => ?_, ?_, ?_⟩
  · have hb := byte (m.dst + i) fun hne p => by have := (hheat hne p).1; omega
    rw [State.physByte_of_noLines htc, State.physByte_entryMoved hc hs hd hsd, if_neg (by omega),
      memByte_moveCells_dst _ _ _ _ _ _ hi] at hb
    exact BitVec.eq_of_toNat_eq hb
  · refine State.physRead_eq_mod _ _ _ _ fun i hi => ?_
    rw [byte (entry + i) fun hne p => by have := (hheat hne p).2; omega, State.physByte_entryMoved hc hs hd hsd,
      if_pos (by omega), Nat.add_sub_cancel_left]
  · intro e he htier hbase
    have hw : w.tlb = u.tlb := (State.moveHeat_heatSet u m.srcTier m.src m.dstTier m.dst size).tlb
    rw [ht, show (w.followMove m asid va size _).tlb = w.tlb from rfl, hw] at he
    have hkeep := (List.mem_filter.mp he).2
    simpa [htier, hbase] using hkeep

end Sys2Proof.Machine
end

section
/-! SUPPORT. The statement of migration and park events: O49. -/
namespace Sys2Proof.Machine

/-- Settles O49: a page's switch by its steps, the end of a move by the moves that it leaves, heat by its counters set one by one,
a park by the record written, and a row by the frames dropped. -/
theorem migrationAndParkEvents : Obligations.MigrationAndParkEvents := by
  unfold Obligations.MigrationAndParkEvents
  refine ⟨?pageSwitch, ?pageMove, ?halving, ?parks, ?rows⟩
  case pageSwitch =>
    intro s m asid va size entry _ hc hs hd _ _ hsd _ hheat
    obtain ⟨hdata, hentry, htlb⟩ := State.switchPage_spec asid va hc hs hd hsd hheat
    obtain ⟨hplace, htier, hlow⟩ := m.bits_entryWord (s.physRead entry 8) hd
    rw [← hentry] at hplace htier hlow
    exact ⟨hdata, hplace, htier, hlow, htlb⟩
  case pageMove =>
    intro s id asid va size m hf hk hr hb hh
    refine ⟨happens_migrationAbandon hf hk hr hb hh, happens_copyDone_pinned hf hk hr, happens_copyDone_refused hf hk hr hb hh,
      fun hp hd => ⟨happens_copyDone_fill hf hk hr hp hd hh, fun entry hfill hm => ?_⟩⟩
    have hv := ((s.closing id m).switchPage m asid va size entry).giveFrame_moved m.vf m.srcTier size m.src
    refine (happens_copyDone_switch hf hk hr hh hp hd hfill hm).imp fun t ht => ?_
    obtain ⟨ms, du, rfl, hn⟩ := ht
    exact ⟨State.find?_of_noMove hn, rfl, rfl, rfl, rfl, rfl, rfl, rfl, rfl,
      (hv.trans ((s.closing id m).switchPage_moved m asid va size entry)).sreg⟩
  case halving => exact fun s hr hn => happens_heatHalving s hr hn
  case parks =>
    intro s id p hs hm hn
    have hrange : Park.nlb { p with waiting := [] } = 0 := hn
    exact ⟨happens_parkAgeTick hs, happens_parkT1Expiry hs hm hn, fun _ h => happens_parkT1Expiry_early hs h,
      happens_parkT2Expiry hs hm hn,
      fun hst ht => ⟨happens_demotion hs hm hn hst ht
          (execParkDemotionDone_of (u := s.onEvent (.parkDemotionDone id)) rfl (State.park_of_only hs) hst),
        happens_demotion hs hm hn hst ht (execParkPoolRetry_of (u := s.onEvent (.parkPoolRetry id)) rfl (State.park_of_only hs) hst)⟩,
      fun hst hpu => ⟨happens_promotion hs hm hn rfl (fun _ => rfl)
          (execParkPromotionDone_of (u := s.onEvent (.parkPromotionDone id)) rfl (State.park_of_only hs) hst hpu),
        happens_promotion hs hm hrange rfl (fun _ => rfl)
          (execPromotionRetry_of (u := s.onEvent (.promotionRetry id)) rfl (State.park_of_only hs) hst hpu)⟩,
      happens_parkPushRetry hs hn⟩
  case rows => exact fun s pa hrow hn hm => happens_rowRetirement s pa hrow hn hm

end Sys2Proof.Machine
end

section
/-! SUPPORT. Operations under way, and what the events of the pitch map leave alone (R105, R111): O46. -/
namespace Sys2Proof.Machine

/-- A state as another but for its operations, the events due, the event at hand, the KVAPPs held, the base dies' purses and the
counts of errors. -/
def MapWork (t s : State) : Prop :=
  ∃ os du ev kw dp we pk, t = { s with
    ops := os, due := du, ev := ev, kvWait := kw, diePurse := dp, winErr := we, pkg := pk }

theorem MapWork.refl (s : State) : MapWork s s := ⟨_, _, _, _, _, _, _, rfl⟩

theorem MapWork.trans {s t u : State} (h : MapWork u t) (g : MapWork t s) : MapWork u s := by
  obtain ⟨_, _, _, _, _, _, _, rfl⟩ := g
  obtain ⟨_, _, _, _, _, _, _, rfl⟩ := h
  exact ⟨_, _, _, _, _, _, _, rfl⟩

namespace MapWork
variable {s t : State} (h : MapWork t s)
include h

theorem memKept : MemKept s t := by obtain ⟨_, _, _, _, _, _, _, rfl⟩ := h; exact .of_eq rfl rfl rfl rfl
theorem ctx (n c : Nat) : t.ctx n c = s.ctx n c := by obtain ⟨_, _, _, _, _, _, _, rfl⟩ := h; rfl
theorem clk : t.clk = s.clk := by obtain ⟨_, _, _, _, _, _, _, rfl⟩ := h; rfl
theorem c2 : t.c2 = s.c2 := by obtain ⟨_, _, _, _, _, _, _, rfl⟩ := h; rfl

end MapWork

theorem State.onEvent_mapWork (s : State) (e : Event) : MapWork (s.onEvent e) s := ⟨_, _, _, _, _, _, _, rfl⟩
theorem State.later_mapWork (s : State) (d : Nat) (e : Event) : MapWork (s.later d e) s := ⟨_, _, _, _, _, _, _, rfl⟩
theorem State.payDie_mapWork (s : State) (die cost : Nat) : MapWork (s.payDie die cost) s := ⟨_, _, _, _, _, _, _, rfl⟩
theorem State.countErr_mapWork (s : State) (stack cls : Nat) : MapWork (s.countErr stack cls) s := ⟨_, _, _, _, _, _, _, rfl⟩

theorem State.modOp_mapWork (s : State) (id : Nat) (g : EngOp → EngOp) : MapWork (s.modOp id g) s := by
  unfold State.modOp
  split
  · exact ⟨_, _, _, _, _, _, _, rfl⟩
  · exact .refl s

/-- An operation changed reads as changed. -/
@[simp] theorem State.engOp_modOp (s : State) (id : Nat) (g : EngOp → EngOp) : (s.modOp id g).engOp id = (s.engOp id).map g := by
  unfold State.modOp
  cases h : s.engOp id with
  | none => exact h
  | some o => simp [State.engOp]

@[simp] theorem State.engOp_onEvent (s : State) (e : Event) (id : Nat) : (s.onEvent e).engOp id = s.engOp id := rfl
@[simp] theorem State.engOp_later (s : State) (d : Nat) (e : Event) (id : Nat) : (s.later d e).engOp id = s.engOp id := rfl
@[simp] theorem State.engOp_payDie (s : State) (die cost id : Nat) : (s.payDie die cost).engOp id = s.engOp id := rfl
@[simp] theorem State.engOp_countErr (s : State) (stack cls id : Nat) : (s.countErr stack cls).engOp id = s.engOp id := rfl

end Sys2Proof.Machine
end

section
/-! SUPPORT. Lookups in the KV store do not depend on the event at hand (R102, R106): O46. -/
namespace Sys2Proof.Machine

section AtEvent
variable (s : State) (e : Event) (q : KvQ) (k : KvKey) (h : KvHit)

@[simp] theorem State.kvQ_onEvent (stack : Nat) : (s.onEvent e).kvQ stack = s.kvQ stack := rfl
@[simp] theorem State.seqParked_onEvent (vf seq : Nat) : (s.onEvent e).seqParked vf seq = s.seqParked vf seq := rfl

@[simp] theorem State.mapEntry_onEvent (j : Nat) : (s.onEvent e).mapEntry q j = s.mapEntry q j := s.physRead_onEvent e _ _

@[simp] theorem State.kvHead_onEvent (gn : Nat) : (s.onEvent e).kvHead q gn = s.kvHead q gn := s.physRead_onEvent e _ _

@[simp] theorem State.kvRec_onEvent (r : Nat) : (s.onEvent e).kvRec q r = s.kvRec q r := by
  unfold State.kvRec
  rw [State.physRead_onEvent]

@[simp] theorem State.kvFind_onEvent (prev : Option Nat) (r fuel : Nat) :
    (s.onEvent e).kvFind q k prev r fuel = s.kvFind q k prev r fuel := by
  induction fuel generalizing prev r with
  | zero => rfl
  | succ fuel ih =>
    unfold State.kvFind
    rw [State.kvRec_onEvent]
    simp only [ih]
    rfl

@[simp] theorem State.kvLookup_onEvent : (s.onEvent e).kvLookup q k = s.kvLookup q k := by
  unfold State.kvLookup
  simp only [State.mapEntry_onEvent, State.kvHead_onEvent, State.kvFind_onEvent]
  rfl

@[simp] theorem State.ownerRec_onEvent (tier loc r fuel : Nat) :
    (s.onEvent e).ownerRec q tier loc r fuel = s.ownerRec q tier loc r fuel := by
  induction fuel generalizing r with
  | zero => rfl
  | succ fuel ih =>
    unfold State.ownerRec
    rw [State.kvRec_onEvent]
    simp only [ih]

@[simp] theorem State.kvHolder_onEvent : (s.onEvent e).kvHolder q h = s.kvHolder q h := by
  unfold State.kvHolder State.kvOwner
  simp only [State.mapEntry_onEvent, State.ownerRec_onEvent, State.kvRec_onEvent]

@[simp] theorem State.kvMoving_onEvent : (s.onEvent e).kvMoving k = s.kvMoving k := by
  unfold State.kvMoving
  simp only [State.kvQ_onEvent, State.kvLookup_onEvent, State.seqParked_onEvent, State.kvHolder_onEvent]

@[simp] theorem State.kvPinned_onEvent : (s.onEvent e).kvPinned k = s.kvPinned k := by
  unfold State.kvPinned
  simp only [State.kvQ_onEvent, State.kvLookup_onEvent]
  rfl

end AtEvent

end Sys2Proof.Machine
end

section
/-! SUPPORT. Triples merged and tokens added to them (R112, R114): O46. -/
namespace Sys2Proof.Machine

/-- The counts of two triples merged add up, saturating. -/
theorem Triple.merge_counts (x y : Triple) :
    (x.merge y).nused = min 0xFFFFFFFF (x.nused + y.nused) ∧ (x.merge y).miss = min 0xFFFF (x.miss + y.miss) ∧
    (x.merge y).cold = min 0xFFFF (x.cold + y.cold) ∧ (x.merge y).pois = min 0xFFFF (x.pois + y.pois) := ⟨rfl, rfl, rfl, rfl⟩

theorem Triple.merge_of_nan {x y : Triple} (h : f32IsNan x.m = true ∨ f32IsNan y.m = true) :
    (x.merge y).m = f32Nan ∧ (x.merge y).l = f32Nan ∧ (x.merge y).o = x.allNan.o := by
  have hb : (f32IsNan x.m || f32IsNan y.m) = true := by simpa using h
  unfold Triple.merge
  rw [if_pos hb]
  exact ⟨rfl, rfl, rfl⟩

theorem Triple.merge_of_left_empty {x y : Triple} (hx : f32IsNan x.m = false) (hy : f32IsNan y.m = false) (hl : x.l = 0) :
    (x.merge y).m = y.m ∧ (x.merge y).l = y.l ∧ (x.merge y).o = y.o := by
  unfold Triple.merge
  rw [hx, hy, hl]
  exact ⟨rfl, rfl, rfl⟩

theorem Triple.merge_of_right_empty {x y : Triple} (hx : f32IsNan x.m = false) (hy : f32IsNan y.m = false) (hl : x.l ≠ 0)
    (hr : y.l = 0) : (x.merge y).m = x.m ∧ (x.merge y).l = x.l ∧ (x.merge y).o = x.o := by
  have hb : (x.l == 0) = false := by simpa using hl
  unfold Triple.merge
  rw [hx, hy, hb, hr]
  exact ⟨rfl, rfl, rfl⟩

/-- A token leaves the counts of its triple alone. -/
theorem Triple.token_counts (x : Triple) (scale : Nat) (q k v : List Nat) :
    let z := x.token scale q k v
    (z.nused, z.miss, z.cold, z.pois) = (x.nused, x.miss, x.cold, x.pois) := by
  unfold Triple.token
  dsimp only
  split
  · rfl
  · split
    · rfl
    · split <;> rfl

theorem Triple.token_of_nan {x : Triple} (scale : Nat) (q k v : List Nat) (h : f32IsNan x.m = true) : x.token scale q k v = x := by
  unfold Triple.token
  rw [if_pos h]

section Score
variable {x : Triple} {scale sc : Nat} {q k : List Nat} (v : List Nat) (hm : f32IsNan x.m = false)
  (hsc : f32Mul scale (dotRows q k) = sc)
include hm hsc

theorem Triple.token_of_bad_score (h : f32IsNan sc = true ∨ sc = f32Inf) : x.token scale q k v = x.allNan := by
  have hb : (f32IsNan sc || sc == f32Inf) = true := by simpa using h
  unfold Triple.token
  rw [hm, hsc]
  simp [hb]

variable (hn : f32IsNan sc = false) (hi : sc ≠ f32Inf)
include hn hi

/-- A score above the maximum so far becomes the maximum, and the sum is scaled down to it. -/
theorem Triple.token_of_greater (hg : f32Gt sc x.m = true) : (x.token scale q k v).m = sc ∧ (x.token scale q k v).l =
    f32Add (f32Mul x.l (f32Exp2Sub x.m sc)) (if sc = f32NegInf then 0 else f32Exp2Sub sc sc) := by
  have hb : (f32IsNan sc || sc == f32Inf) = false := by simp [hn, hi]
  unfold Triple.token
  rw [hm, hsc]
  simp [hb, hg]

theorem Triple.token_of_not_greater (hg : f32Gt sc x.m = false) : (x.token scale q k v).m = x.m ∧ (x.token scale q k v).l =
    f32Add x.l (if sc = f32NegInf then 0 else f32Exp2Sub sc x.m) := by
  have hb : (f32IsNan sc || sc == f32Inf) = false := by simp [hn, hi]
  unfold Triple.token
  rw [hm, hsc]
  simp [hb, hg]

end Score

theorem Triple.mem_allNan_o {x : Triple} {e : Nat} (h : e ∈ x.allNan.o) : e = f32Nan := by
  obtain ⟨_, _, rfl⟩ := List.mem_map.mp h
  rfl

end Sys2Proof.Machine
end

section
/-! SUPPORT. Records of triples in stalls, and the places that LAs name (R16, R116): O46. -/
namespace Sys2Proof.Machine

theorem bits_skip_byte (b r lo n : Nat) (hb : b < 256) : bits (b + 256 * r) (8 + lo) n = bits r lo n := by
  unfold bits
  rw [Nat.pow_add, ← Nat.div_div_eq_div_mul, show (b + 256 * r) / 2 ^ 8 = r by omega]

/-- A field of a read's bytes is the read of those bytes. -/
theorem bits_memRead_bytes (m : List Host.Cell) (a n i k : Nat) (h : i + k ≤ n) :
    bits (memRead m a n) (8 * i) (8 * k) = memRead m (a + i) k := by
  induction i generalizing a n with
  | zero =>
    induction k generalizing a n with
    | zero => simp [bits, memRead, Nat.mod_one]
    | succ k ih =>
      obtain ⟨n, rfl⟩ : ∃ j, n = j + 1 := ⟨n - 1, by omega⟩
      have hb : (memByte m a).toNat < 2 ^ 8 := BitVec.isLt _
      have hr := ih (a + 1) n (by omega)
      simp only [bits, Nat.mul_zero, Nat.pow_zero, Nat.div_one, Nat.add_zero] at hr ⊢
      rw [memRead, memRead, show 8 * (k + 1) = 8 + 8 * k by omega, Nat.pow_add, Nat.mod_mul, ← hr]
      rw [show ((memByte m a).toNat + 256 * memRead m (a + 1) n) % 2 ^ 8 = (memByte m a).toNat by omega,
        show ((memByte m a).toNat + 256 * memRead m (a + 1) n) / 2 ^ 8 = memRead m (a + 1) n by omega]
  | succ i ih =>
    obtain ⟨n, rfl⟩ : ∃ j, n = j + 1 := ⟨n - 1, by omega⟩
    rw [memRead, show 8 * (i + 1) = 8 + 8 * i by omega, bits_skip_byte _ _ _ _ (BitVec.isLt _), ih (a + 1) n (by omega),
      show a + 1 + i = a + (i + 1) by omega]

/-- Numbers that fit their width make a number that fits all of theirs, each at its place. -/
theorem foldl_places_lt {α : Type} (r : α → Nat) (w : Nat) (ts : List α) (h : ∀ t ∈ ts, r t < 2 ^ w) :
    ts.zipIdx.foldl (fun n x => n + r x.1 * 2 ^ (w * x.2)) 0 < 2 ^ (w * ts.length) := by
  induction ts using List.reverseRecOn with
  | nil => exact Nat.two_pow_pos _
  | append_singleton ts t ih =>
    have hts := ih fun u hu => h u (by simp [hu])
    have ht := h t (by simp)
    simp only [List.zipIdx_append, List.foldl_append, List.zipIdx_singleton, List.foldl_cons, List.foldl_nil, Nat.zero_add,
      List.length_append, List.length_singleton]
    calc ts.zipIdx.foldl (fun n x => n + r x.1 * 2 ^ (w * x.2)) 0 + r t * 2 ^ (w * ts.length)
        < r t * 2 ^ (w * ts.length) + 2 ^ (w * ts.length) := by omega
      _ = (r t + 1) * 2 ^ (w * ts.length) := (Nat.succ_mul _ _).symm
      _ ≤ 2 ^ w * 2 ^ (w * ts.length) := Nat.mul_le_mul_right _ ht
      _ = 2 ^ (w * (ts.length + 1)) := by rw [← Nat.pow_add, Nat.mul_succ, Nat.add_comm]

theorem packRecords_lt (d : Nat) (ts : List Triple) (h : ∀ t ∈ ts, t.record < 2 ^ (8 * recBytes d)) :
    packRecords d ts < 2 ^ (8 * (ts.length * recBytes d)) := by
  rw [Nat.mul_comm ts.length, ← Nat.mul_assoc]
  exact foldl_places_lt Triple.record (8 * recBytes d) ts h

/-- The record of a triple that has used no token fits its bytes. -/
theorem Triple.record_empty_lt (d : Nat) : (Triple.empty d).record < 2 ^ (8 * recBytes d) := by
  have ho : ((List.replicate d 0).zipIdx.foldl (fun n x => n + x.1 * 2 ^ (32 * x.2)) 0 : Nat) = 0 := by
    refine List.foldlRecOn (motive := fun n => n = 0) _ _ rfl fun n hn x hx => ?_
    rw [hn, List.eq_of_mem_replicate (List.fst_mem_of_mem_zipIdx hx), Nat.zero_mul]
  have hm : f32NegInf < 2 ^ 32 := by decide
  have hp : 2 ^ 32 ≤ 2 ^ (8 * recBytes d) := Nat.pow_le_pow_right (by decide) (by unfold recBytes; omega)
  simp only [Triple.record, Triple.empty, ho, Nat.zero_mul, Nat.add_zero]
  exact Nat.lt_of_lt_of_le hm hp

/-- The triples of records read from a stall are those of the records one by one. -/
theorem State.unpackRecords_stallRead (s : State) (core off d g : Nat) (h : off + g * recBytes d ≤ 65536) :
    unpackRecords d g (s.stallRead core off (g * recBytes d)) =
      (List.range g).map fun i => tripleOf d (s.stallRead core (off + i * recBytes d) (recBytes d)) := by
  refine List.map_congr_left fun i hi => ?_
  have hle : i * recBytes d + recBytes d ≤ g * recBytes d := by
    rw [← Nat.succ_mul]
    exact Nat.mul_le_mul_right _ (List.mem_range.mp hi)
  have hpa : stallPa core (off + i * recBytes d) = stallPa core off + i * recBytes d := by
    have : 0 < recBytes d := by unfold recBytes; omega
    unfold stallPa
    omega
  unfold State.stallRead
  rw [hpa, ← bits_memRead_bytes _ _ _ _ _ hle, show 8 * recBytes d * i = 8 * (i * recBytes d) by ring]

/-- The offset that a checked LA leads to lies in a stall. -/
theorem checkLa_off_lt {core n al c o : Nat} {w : Word} (h : checkLa core w n al = .ok (c, o)) : o < 65536 := by
  unfold checkLa at h
  cases hp : laPlace core w.toNat with
  | none => simp [hp] at h
  | some p =>
    have hlt : p.2 < 65536 := by
      unfold laPlace at hp
      split at hp
      · obtain rfl := Option.some.inj hp; assumption
      · split at hp
        · obtain rfl := Option.some.inj hp; exact Nat.mod_lt _ (by decide)
        · cases hp
    simp only [hp] at h
    split at h
    · cases h
    · split at h
      · cases h
      · obtain rfl := Except.ok.inj h; exact hlt

theorem laRange_toNat (core : Nat) (w : Word) (n al : Nat) :
    laRange core w.toNat n al = (checkLa core w n al).map fun p => meshBase + 65536 * p.1 + p.2 := by
  simp [laRange]

theorem laRange_ok {core n al c o : Nat} {w : Word} (h : checkLa core w n al = .ok (c, o)) :
    laRange core w.toNat n al = .ok (meshBase + 65536 * c + o) := by rw [laRange_toNat, h]; rfl

/-- The core and the offset that an engine's address of a stall names. -/
theorem meshAddress_place {c o : Nat} (h : o < 65536) :
    (meshBase + 65536 * c + o - meshBase) / 65536 = c ∧ (meshBase + 65536 * c + o) % 65536 = o := by
  unfold meshBase
  omega

theorem readSet_ok {s : State} {w : Word} {n c o : Nat} (h : checkLa s.cur.core w n 64 = .ok (c, o))
    (hp : s.stallPoison c o n = none) : readSet s w n = .ok (meshBase + 65536 * c + o, s.stallRead c o n) := by
  obtain ⟨hc, ho⟩ := meshAddress_place (c := c) (checkLa_off_lt h)
  unfold readSet stallAt
  simp only [laRange_ok h, hc, ho, hp]

end Sys2Proof.Machine
end

section
/-! SUPPORT. ATTN and AMRG at their issue (R389, R390): O46. -/
namespace Sys2Proof.Machine

/-! The issue of an instruction with a request (R384, R431). -/

/-- The step report of an instruction that is held at its issue does not matter. -/
theorem issueWith_report_of_hold {f : Form} {cost : Nat} {s t : State} {w : Wait} {ph : Nat} {body : State → Res} (h : Runs f cost s)
    (warns named : Bool) (rep : State → Nat × Nat × Nat) (hb : body s = .hold t w ph) :
    issueWith f cost warns named false rep body s = issueWith f cost warns named false noReport body s := by
  rw [issueWith_runs h, issueWith_runs h, hb]

/-- A release at its issue waits for stores of its context. -/
theorem asRelease_of_storesOut {body : State → Res} {s : State} (h : s.myCore.storesOut s.cur.ctx = true) :
    asRelease body s = .hold s .acks 0 := by rw [asRelease, State.relWait, if_pos h]

theorem asRelease_of_none {body : State → Res} {s : State} (h : s.relWait = none) : asRelease body s = body s := by
  rw [asRelease, h]

/-- An operation begun that reaches the pitch map after a delay (R105, R168). -/
def State.startAtMap (s : State) (act : EngAct) (sync : SyncRef) (bytes delay : Nat) : State :=
  let (id, s) := s.engStart { s.newOp act sync 1 bytes with started := true }
  s.later delay (.pitchMapRequest id)

/-- A context with one operation more outstanding (R168). -/
def Ctx.pends (x : Ctx) (id : Nat) : Ctx := { x with pending := x.pending ++ [id] }

theorem CtxAs.pends {x y : Ctx} (h : CtxAs y x) (id : Nat) : CtxAs (y.pends id) (x.pends id) where
  s := h.s
  v := h.v
  m := h.m
  acc := h.acc
  accSum := h.accSum
  guards := h.guards
  ftab := h.ftab
  signal := ⟨h.signal.1, h.signal.2.1, h.signal.2.2.1, congrArg (· ++ [id]) h.signal.2.2.2⟩
  sr := h.sr

/-- The state that knows a new operation under the next number. -/
def State.knowsOp (s : State) (o : EngOp) : State := { s with nextId := s.nextId + 1, ops := s.ops.put s.nextId o }

section Begin
variable {s : State} (act : EngAct) (sync : SyncRef) (bytes delay : Nat) (hu : s.cur.unit = .context)
include hu

/-- A context's operation begins: it is known under the next number, counted, and pending for its context. -/
theorem State.startAtMap_eq : s.startAtMap act sync bytes delay =
    (((s.knowsOp { s.newOp act sync 1 bytes with started := true }).modMe (·.count 13 1)).modMe
      (·.pends s.nextId)).later delay (.pitchMapRequest s.nextId) := by
  have hunit : (s.newOp act sync 1 bytes).unit = .context := hu
  unfold State.startAtMap State.engStart
  simp only [hunit]
  rfl

theorem State.startAtMap_me : (s.startAtMap act sync bytes delay).me = (s.me.count 13 1).pends s.nextId := by
  rw [State.startAtMap_eq act sync bytes delay hu]
  exact (State.me_modMe _ (·.pends s.nextId)).trans (congrArg (·.pends s.nextId) (State.me_modMe _ _))

/-- The operation begun is outstanding for its context, with its bytes still to count. -/
theorem State.startAtMap_op : ∃ o, (s.startAtMap act sync bytes delay).ops.find? (·.1 == s.nextId) = some (s.nextId, o) ∧ o.act = act ∧
    o.sync = sync ∧ o.left = bytes ∧ o.core = s.cur.core ∧ o.ctx = s.cur.ctx ∧ o.asid = s.me.asid ∧ o.finished = false ∧
    o.ecode = 0 := by
  rw [State.startAtMap_eq act sync bytes delay hu]
  refine ⟨_, Assoc.find?_put_self _ _ _, rfl, rfl, rfl, rfl, rfl, ?_, rfl, rfl⟩
  show s.engAsid = s.me.asid
  unfold State.engAsid
  rw [hu]

theorem State.startAtMap_due : (s.clk + delay, Event.pitchMapRequest s.nextId) ∈ (s.startAtMap act sync bytes delay).due := by
  rw [State.startAtMap_eq act sync bytes delay hu]
  exact mem_dueInsert ..

theorem State.startAtMap_cur : (s.startAtMap act sync bytes delay).cur = s.cur := by
  rw [State.startAtMap_eq act sync bytes delay hu]
  rfl

theorem State.startAtMap_memKept : MemKept s (s.startAtMap act sync bytes delay) := by
  rw [State.startAtMap_eq act sync bytes delay hu]
  exact .of_eq rfl rfl rfl rfl

end Begin

/-- A context's instruction whose body begins an operation of the pitch map. -/
theorem beginsAtMap_of_done {i : Instr} {f : Form} {cost bytes delay : Nat} {s : State} {act : EngAct} {sync : SyncRef}
    {rep : State → Nat × Nat × Nat} {body : State → Res} (h : Runs f cost s)
    (he : exec i s = issueWith f cost (scalarWarn f false) false false rep body s)
    (hb : body s = .done (s.startAtMap act sync bytes delay)) : BeginsAtMap i f act sync bytes delay s := by
  obtain ⟨t, ht⟩ : ∃ t, s.startAtMap act sync bytes delay = t := ⟨_, rfl⟩
  have hc := State.startAtMap_cur act sync bytes delay h.unit
  have hme := State.startAtMap_me act sync bytes delay h.unit
  have hop := State.startAtMap_op act sync bytes delay h.unit
  have hdue := State.startAtMap_due act sync bytes delay h.unit
  have hmem := State.startAtMap_memKept act sync bytes delay h.unit
  rw [ht] at hc hme hop hdue hmem hb
  have hsr (n : Nat) : t.me.srGet n = s.me.srGet n := by rw [hme]; exact s.me.srGet_count 13 1 n
  have has := State.after_as s cost (s.plainWarn f) (s.fall f) t hc
  obtain ⟨u, hu⟩ : ∃ u, s.modMe (·.pends s.nextId) = u := ⟨_, rfl⟩
  have hume : u.me = s.me.pends s.nextId := by rw [← hu]; exact s.me_modMe _
  have hucur : u.cur = s.cur := by rw [← hu]; rfl
  have hctx : CtxAs t.me u.me := by rw [hme, hume]; exact (s.me.count_as 13 1).pends _
  have hregs : RegsKept {} u t := .of_ctxAs {} hctx (by rw [hsr, hume]; rfl)
  refine ⟨s.after cost (s.plainWarn f) (s.fall f) t, ?_, ?_, ?_, ?_, ?_, hmem.trans has.memKept, ?_⟩
  · rw [he, issueWith_done h _ _ _ hb hc (Ctx.statBit_of_sr (hsr _) _)]
    simp [State.plainWarn]
  · rw [has.work.1]; exact hop
  · rw [State.me_eq (has.cur.trans hc), has.me.signal.2.2.2, ← State.me_eq hc, hctx.signal.2.2.2, hume]
    rfl
  · rw [has.work.2.2.2]; exact hdue
  · rw [State.after_of_cur hucur]
    subst hu
    exact State.after_regsKept _ cost _ _ t {} (hc.trans hucur.symm) hregs
  · exact State.after_completed s cost _ _ t hc (Ctx.statBit_of_sr (hsr _) _) fun n _ _ => hsr n

/-! ATTN (R389). -/

/-- The body of ATTN: the checks of its request, the wait of a release, and the beginning of its operation. -/
def attnBody (f : Form) (s : State) : Res :=
  match attnReq s (s.me.opAddr f.a) with
  | .error e => laFault s e
  | .ok (act, sync, n) => asRelease (fun s => .done (s.startAtMap act sync n 1)) s

theorem exec_attn (f : Form) (s : State) :
    exec (.attn f) s = issueWith f 16 (scalarWarn f false) false false (kvReport f) (attnBody f) s := rfl

section Attn
variable {f : Form} {s : State} (h : Runs f 16 s)
include h

theorem trapsLa_attn {e : Flt} (he : attnReq s (s.me.opAddr f.a) = .error e) : TrapsLa (.attn f) s e := by
  intro hl
  rw [exec_attn]
  exact issueWith_fault h hl _ _ _ _ (by rw [attnBody, he]; rfl)

/-- A request that breaks R384. -/
theorem traps_attn_bad {va r : Nat} (hr : readStallRec s (s.me.opAddr f.a) 64 = .ok (va, r)) (hbad : kvReqBad .attn r = true) :
    Traps (.attn f) s cKVREQ (s.me.opAddr f.a).toNat := by
  refine trapsLa_attn h (e := (cKVREQ, (s.me.opAddr f.a).toNat)) ?_
  unfold attnReq readKvReq
  simp only [hr, hbad, if_true]

variable {act : EngAct} {sync : SyncRef} {n : Nat} (hok : attnReq s (s.me.opAddr f.a) = .ok (act, sync, n))
include hok

theorem waitsForStores_attn : WaitsForStores (.attn f) s := by
  intro hout
  have hb : attnBody f s = .hold s .acks 0 := by
    rw [attnBody, hok]
    exact asRelease_of_storesOut hout
  exact gives_held (wt := .acks) h ((exec_attn f s).trans (issueWith_report_of_hold h _ _ _ hb)) hb rfl

theorem beginsAtMap_attn (hw : s.relWait = none) : BeginsAtMap (.attn f) f act sync n 1 s := by
  refine beginsAtMap_of_done h (exec_attn f s) ?_
  rw [attnBody, hok]
  exact asRelease_of_none hw

end Attn

/-! AMRG (R390). -/

/-- The body of AMRG: the checks of its descriptor and sets, and their merge stored. -/
def amrgBody (f : Form) (s : State) : Res :=
  let b := (s.me.opU f.b).toNat
  let n := amrgBytes b
  let d := dimOf (bits b 24 2)
  let g := bits b 26 3 + 1
  if bits b 29 35 != 0 || bits b 24 2 == 3 then .fault s cKVREQ (s.me.opAddr f.a).toNat
  else match readSet s (s.me.opAddr f.a) n, readSet s (BitVec.ofNat 64 (bits b 0 24)) n,
      laRange s.cur.core (s.me.opAddr f.d).toNat n 64 with
    | .error e, _, _ => laFault s e
    | _, .error e, _ => laFault s e
    | _, _, .error e => laFault s e
    | .ok (_, x), .ok (_, y), .ok va =>
      .done (s.stallWrite ((va - meshBase) / 65536) (va % 65536) n
        (packRecords d (mergeSets (unpackRecords d g x) (unpackRecords d g y))))

theorem exec_amrg (f : Form) (s : State) :
    exec (.amrg f) s = issueCost f (3 * 16 * (amrgBytes (s.me.opU f.b).toNat / 64)) (amrgBody f) s := rfl

theorem amrgBody_bad {f : Form} {s : State} (h : bits (s.me.opU f.b).toNat 29 35 ≠ 0 ∨ bits (s.me.opU f.b).toNat 24 2 = 3) :
    amrgBody f s = .fault s cKVREQ (s.me.opAddr f.a).toNat := by
  unfold amrgBody
  exact if_pos (by simpa using h)

/-- The triples of two sets of records in stalls merged head by head. -/
def State.mergedRecords (s : State) (d g ca oa cb ob : Nat) : List Triple :=
  (List.range g).map fun h =>
    (tripleOf d (s.stallRead ca (oa + h * recBytes d) (recBytes d))).merge
      (tripleOf d (s.stallRead cb (ob + h * recBytes d) (recBytes d)))

theorem State.mergeSets_stallRead (s : State) {d g ca oa cb ob : Nat} (ha : oa + g * recBytes d ≤ 65536)
    (hb : ob + g * recBytes d ≤ 65536) : mergeSets (unpackRecords d g (s.stallRead ca oa (g * recBytes d)))
      (unpackRecords d g (s.stallRead cb ob (g * recBytes d))) = s.mergedRecords d g ca oa cb ob := by
  rw [s.unpackRecords_stallRead _ _ _ _ ha, s.unpackRecords_stallRead _ _ _ _ hb]
  unfold mergeSets State.mergedRecords
  rw [List.zip_map', List.map_map]
  rfl

theorem amrgBody_merges {f : Form} {s : State} {b n ca oa cb ob cd od : Nat} (hb : (s.me.opU f.b).toNat = b) (hn : amrgBytes b = n)
    (hr : bits b 29 35 = 0) (hd : bits b 24 2 ≠ 3) (hca : checkLa s.cur.core (s.me.opAddr f.a) n 64 = .ok (ca, oa))
    (hcb : checkLa s.cur.core (BitVec.ofNat 64 (bits b 0 24)) n 64 = .ok (cb, ob))
    (hcd : checkLa s.cur.core (s.me.opAddr f.d) n 64 = .ok (cd, od)) (hpa : s.stallPoison ca oa n = none)
    (hpb : s.stallPoison cb ob n = none) (ha : oa + n ≤ 65536) (hbn : ob + n ≤ 65536) :
    amrgBody f s = .done (s.stallWrite cd od n
      (packRecords (dimOf (bits b 24 2)) (s.mergedRecords (dimOf (bits b 24 2)) (bits b 26 3 + 1) ca oa cb ob))) := by
  obtain ⟨hc, ho⟩ := meshAddress_place (c := cd) (checkLa_off_lt hcd)
  have hgood : (bits b 29 35 != 0 || bits b 24 2 == 3) = false := by simp [hr, hd]
  unfold amrgBody
  simp only [hb, hn, hgood, readSet_ok hca hpa, readSet_ok hcb hpb, laRange_ok hcd, hc, ho, Bool.false_eq_true, if_false]
  subst hn
  unfold amrgBytes at ha hbn ⊢
  rw [s.mergeSets_stallRead ha hbn]

end Sys2Proof.Machine
end

section
/-! SUPPORT. KVAPPs at the home of their key (R87, R105, R106, R385): O46. -/
namespace Sys2Proof.Machine

/-! What a KVAPP writes leaves the list of those held alone. -/

theorem Stored.kvWait {s t : State} (h : Stored t s) : t.kvWait = s.kvWait := by obtain ⟨⟨_, _, _, _, _, _, rfl⟩, _⟩ := h; rfl

theorem State.setPoison_kvWait (s : State) (pa : Nat) : (s.setPoison pa).kvWait = s.kvWait := by
  unfold State.setPoison
  split <;> rfl

@[simp] theorem State.writeRow_kvWait (s : State) (from_ pa n : Nat) : (s.writeRow from_ pa n).kvWait = s.kvWait :=
  List.foldlRecOn (motive := fun t : State => t.kvWait = s.kvWait) _ _ (s.physWrite_stored pa n _).kvWait
    fun t ht _ _ => (t.setPoison_kvWait _).trans ht

@[simp] theorem State.setKvHolder_kvWait (s : State) (q : KvQ) (h : KvHit) (e : Nat) : (s.setKvHolder q h e).kvWait = s.kvWait := by
  unfold State.setKvHolder
  split
  · exact (s.physWrite_stored _ _ _).kvWait
  · split
    · exact (s.physWrite_stored _ _ _).kvWait
    · rfl

/-! The work of a KVAPP at the home of its key (R385). -/

/-- A token put into a block that has been found. -/
def State.putToken (s : State) (q : KvQ) (h : KvHit) (slot dsel : Nat) (fk fv : FmtWord) (ala bla : Nat) : Nat × State :=
  let nk := dimOf dsel * (entOf fk).w / 8
  let nv := dimOf dsel * (entOf fv).w / 8
  let e := s.kvHolder q h
  if eState e == esPrefix || h.shared then (kvSHARED, s)
  else if slot != eNtok e then (kvORDER, s)
  else
    let pa := h.pa q
    let s := (s.writeRow ala (pa + slot * nk) nk).writeRow bla (pa + 0x2000 + slot * nv) nv
    (kvOK, s.setKvHolder q h (eSetNtok e (slot + 1)))

section Append
variable {s : State} {k : KvKey} {slot dsel : Nat} {fk fv : FmtWord} {ala bla : Nat}

theorem State.appendToken_off (hq : s.kvQ (k.head % 4) = none) : s.appendToken k slot dsel fk fv ala bla = (kvKVOFF, s) := by
  unfold State.appendToken
  rw [hq]

variable {q : KvQ} (hq : s.kvQ (k.head % 4) = some q)
include hq

theorem State.appendToken_parked (hp : s.seqParked k.vf k.seq = true) :
    s.appendToken k slot dsel fk fv ala bla = (kvPARKED, s) := by
  unfold State.appendToken
  simp only [hq, hp, if_true]

variable (hp : s.seqParked k.vf k.seq = false)
include hp

theorem State.appendToken_absent (hl : s.kvLookup q k = none) (hs : slot ≠ 0) :
    s.appendToken k slot dsel fk fv ala bla = (kvORDER, s) := by
  have hb : (slot != 0) = true := by simpa using hs
  unfold State.appendToken
  simp [hq, hp, hl, hb]

variable {h : KvHit} (hl : s.kvLookup q k = some h)
include hl

theorem State.appendToken_cold (ht : h.tier = 2) : s.appendToken k slot dsel fk fv ala bla = (kvCOLD, s) := by
  unfold State.appendToken
  simp [hq, hp, hl, ht]

theorem State.appendToken_found (ht : h.tier ≠ 2) :
    s.appendToken k slot dsel fk fv ala bla = s.putToken q h slot dsel fk fv ala bla := by
  have hb : (h.tier == 2) = false := by simpa using ht
  unfold State.appendToken
  simp only [hq, hp, hl, hb, Bool.false_eq_true, if_false]
  rfl

end Append

theorem State.putToken_shared {s : State} {q : KvQ} {h : KvHit} {slot dsel : Nat} {fk fv : FmtWord} {ala bla : Nat}
    (hs : eState (s.kvHolder q h) = esPrefix ∨ h.shared = true) : s.putToken q h slot dsel fk fv ala bla = (kvSHARED, s) :=
  if_pos (by simpa using hs)

section Put
variable {s : State} {q : KvQ} {h : KvHit} {slot dsel : Nat} {fk fv : FmtWord} {ala bla : Nat} (hs : h.shared = false)
  (he : eState (s.kvHolder q h) = esLive)
include hs he

theorem State.putToken_order (hn : slot ≠ eNtok (s.kvHolder q h)) : s.putToken q h slot dsel fk fv ala bla = (kvORDER, s) := by
  unfold State.putToken
  simp [hs, he, hn, esLive, esPrefix]

theorem State.putToken_next (hn : slot = eNtok (s.kvHolder q h)) :
    let nk := dimOf dsel * (entOf fk).w / 8
    let nv := dimOf dsel * (entOf fv).w / 8
    s.putToken q h slot dsel fk fv ala bla =
      (kvOK, ((s.writeRow ala (h.pa q + slot * nk) nk).writeRow bla (h.pa q + 0x2000 + slot * nv) nv).setKvHolder q h
        (eSetNtok (s.kvHolder q h) (slot + 1))) := by
  unfold State.putToken
  simp [hs, he, ← hn, esLive, esPrefix]

end Put

/-! A KVAPP at the home of its key: held, or done with its status (R87, R105, R106). -/

/-- A KVAPP added to those held, which it may be one of already. -/
def State.holdKv (s : State) (id : Nat) : State := if s.kvWait.contains id then s else { s with kvWait := s.kvWait ++ [id] }

/-- Whether a KVAPP is held: its block moves, a line of it is pinned, or an earlier one of its key is held. -/
def State.kvHeldBack (s : State) (id : Nat) (k : KvKey) : Bool :=
  s.kvMoving k || s.kvPinned k || (s.kvWait.takeWhile (· != id)).any fun i => s.kvKeyOf i == some k

theorem State.kvHeldBack_iff {s : State} {id : Nat} {k : KvKey} : s.kvHeldBack id k = true ↔
    s.kvMoving k = true ∨ s.kvPinned k = true ∨ ∃ i, i ∈ s.kvWait.takeWhile (· != id) ∧ s.kvKeyOf i = some k := by
  simp [State.kvHeldBack, or_assoc]

/-- The end of a KVAPP at its home: its status stored, its completion on its way. -/
def State.kvEnds (s : State) (id req st : Nat) : State :=
  ((s.stallWrite ((req - meshBase) / 65536) (req % 65536 + 31) 1 st).modOp id fun o => { o with low := 1 }).later kvHalf
    (.engineOpComplete id)

theorem State.modOp_kvWait (s : State) (id : Nat) (g : EngOp → EngOp) : (s.modOp id g).kvWait = s.kvWait := by
  unfold State.modOp
  split <;> rfl

theorem State.retryKv_of_none {s : State} (h : s.kvWait = []) : s.retryKv = s := by
  unfold State.retryKv
  rw [h, List.filter_nil, List.foldl_nil, ← h]

section AtHome
variable {s : State} {id : Nat} {o : EngOp} (hf : o.finished = false) (hl : o.low = 0) {req : Nat} {k : KvKey} {slot dsel : Nat}
  {fk fv : FmtWord} {ala bla : Nat}
include hf hl

theorem State.kvAppend_held (h : s.kvHeldBack id k = true) : s.kvAppend id o req k slot dsel fk fv ala bla =
    if s.kvPinned k then (s.holdKv id).later 16 (.pitchMapRequest id) else s.holdKv id := by
  have hgo : (o.finished || o.low != 0) = false := by simp [hf, hl]
  unfold State.kvAppend
  simp only [hgo, Bool.false_eq_true, if_false]
  exact if_pos h

theorem State.kvAppend_done {st : Nat} {u : State} (h : s.kvHeldBack id k = false) (hw : u.kvWait = [])
    (ha : s.appendToken k slot dsel fk fv ala bla = (st, u)) : s.kvAppend id o req k slot dsel fk fv ala bla = u.kvEnds id req st := by
  have hgo : (o.finished || o.low != 0) = false := by simp [hf, hl]
  obtain ⟨v, hv⟩ : ∃ v, u.stallWrite ((req - meshBase) / 65536) (req % 65536 + 31) 1 st = v := ⟨_, rfl⟩
  have hvw : v.kvWait = [] := by rw [← hv, (u.stallWrite_stored _ _ _ _).kvWait, hw]
  have hfil : ({ v with kvWait := v.kvWait.filter (· != id) } : State) = v := by rw [hvw, List.filter_nil, ← hvw]
  unfold State.kvAppend State.kvEnds
  simp only [hgo, Bool.false_eq_true, if_false]
  refine (if_neg (by rw [Bool.not_eq_true]; exact h)).trans ?_
  simp only [ha, hv, hfil]
  exact State.retryKv_of_none ((v.modOp_kvWait id _).trans hvw)

end AtHome

theorem State.kvHeldBack_of_none {s : State} {id : Nat} {k : KvKey} (hw : s.kvWait = []) (hm : s.kvMoving k = false)
    (hp : s.kvPinned k = false) : s.kvHeldBack id k = false := by
  unfold State.kvHeldBack
  rw [hw, hm, hp]
  rfl

theorem State.holdKv_mapWork (s : State) (id : Nat) : MapWork (s.holdKv id) s := by
  unfold State.holdKv
  split
  · exact .refl s
  · exact ⟨_, _, _, _, _, _, _, rfl⟩

theorem State.holdKv_ops (s : State) (id : Nat) : (s.holdKv id).ops = s.ops := by
  unfold State.holdKv
  split <;> rfl

theorem State.holdKv_kvWait (s : State) (id : Nat) : id ∈ (s.holdKv id).kvWait ∧
    (id ∈ s.kvWait → (s.holdKv id).kvWait = s.kvWait) ∧ (id ∉ s.kvWait → (s.holdKv id).kvWait = s.kvWait ++ [id]) := by
  unfold State.holdKv
  by_cases h : id ∈ s.kvWait
  · rw [if_pos (by simpa using h)]
    exact ⟨h, fun _ => rfl, fun hn => absurd h hn⟩
  · rw [if_neg (by simpa using h)]
    exact ⟨by simp, fun hn => absurd hn h, fun _ => rfl⟩

/-! The events of KVAPPs at the pitch map (R105, R385). -/

theorem exec_pitchMapRequest (s : State) : exec .pitchMapRequest s = execPitchMapRequest s := rfl

/-- The event of a KVAPP under way takes it to its home. -/
theorem exec_pitchMapRequest_kvapp {s : State} {id req seq head lblk slot dsel ala bla : Nat} {fk fv : FmtWord} {o : EngOp}
    (hop : s.engOp id = some o) (hf : o.finished = false) (ha : o.act = .kvapp req seq head lblk slot dsel fk fv ala bla) :
    exec (Event.pitchMapRequest id).instr (s.onEvent (.pitchMapRequest id)) =
      .next ((s.onEvent (.pitchMapRequest id)).kvAppend id o req ⟨o.asid / 1024, seq, head, lblk⟩ slot dsel fk fv ala bla) := by
  have hop' : (s.onEvent (.pitchMapRequest id)).engOp id = some o := hop
  refine (exec_pitchMapRequest _).trans ?_
  unfold execPitchMapRequest
  simp only [show (s.onEvent (.pitchMapRequest id)).ev = .pitchMapRequest id from rfl, hop', hf, ha]
  rfl

section Events
variable {s : State} {id req seq head lblk slot dsel ala bla : Nat} {fk fv : FmtWord} {o : EngOp} (hop : s.engOp id = some o)
  (hf : o.finished = false) (ha : o.act = .kvapp req seq head lblk slot dsel fk fv ala bla) (hlow : o.low = 0) {k : KvKey}
  (hk : ⟨o.asid / 1024, seq, head, lblk⟩ = k)
include hop hf ha hlow hk

theorem happens_kvapp_held (h : s.kvHeldBack id k = true) : Happens (.pitchMapRequest id) s fun t =>
    id ∈ t.kvWait ∧ (id ∈ s.kvWait → t.kvWait = s.kvWait) ∧ (id ∉ s.kvWait → t.kvWait = s.kvWait ++ [id]) ∧
    (s.kvPinned k = true → (s.clk + 16, Event.pitchMapRequest id) ∈ t.due) ∧ t.ops = s.ops ∧ MemKept s t ∧
    ∀ n c, t.ctx n c = s.ctx n c := by
  obtain ⟨u, hu⟩ : ∃ u, s.onEvent (.pitchMapRequest id) = u := ⟨_, rfl⟩
  have hback : u.kvHeldBack id k = true := by
    rw [← hu]
    unfold State.kvHeldBack
    rw [State.kvMoving_onEvent, State.kvPinned_onEvent]
    exact h
  have hpin : u.kvPinned k = s.kvPinned k := by rw [← hu]; exact s.kvPinned_onEvent _ k
  have hwork : MapWork (u.holdKv id) s := (u.holdKv_mapWork id).trans (by rw [← hu]; exact s.onEvent_mapWork _)
  have hops : (u.holdKv id).ops = s.ops := (u.holdKv_ops id).trans (by rw [← hu]; rfl)
  have hwait := u.holdKv_kvWait id
  rw [show u.kvWait = s.kvWait by rw [← hu]; rfl] at hwait
  obtain ⟨hin, hsame, hnew⟩ := hwait
  refine happens_next ((exec_pitchMapRequest_kvapp hop hf ha).trans (congrArg _ ?_)) (t := if s.kvPinned k then
    (u.holdKv id).later 16 (.pitchMapRequest id) else u.holdKv id) ?_
  · rw [hu, hk, State.kvAppend_held hf hlow hback, hpin]
  · cases s.kvPinned k with
    | false => exact ⟨hin, hsame, hnew, nofun, hops, hwork.memKept, hwork.ctx⟩
    | true =>
      have hlater := ((u.holdKv id).later_mapWork 16 (.pitchMapRequest id)).trans hwork
      refine ⟨hin, hsame, hnew, fun _ => ?_, hops, hlater.memKept, hlater.ctx⟩
      rw [← hwork.clk]
      exact (u.holdKv id).mem_due_later 16 _

/-- A KVAPP that nothing holds back ends with the status and the state of its work. -/
theorem happens_kvapp_ends {st : Nat} {u : State} (hw : s.kvWait = []) (hm : s.kvMoving k = false) (hp : s.kvPinned k = false)
    (hwork : (s.onEvent (.pitchMapRequest id)).appendToken k slot dsel fk fv ala bla = (st, u)) (hu : u.kvWait = []) :
    Happens (.pitchMapRequest id) s fun t => t = u.kvEnds id req st := by
  refine happens_next ((exec_pitchMapRequest_kvapp hop hf ha).trans (congrArg _ ?_)) rfl
  rw [hk]
  exact State.kvAppend_done hf hlow (State.kvHeldBack_of_none hw ((s.kvMoving_onEvent _ k).trans hm) ((s.kvPinned_onEvent _ k).trans hp))
    hu hwork

end Events

/-! KVAPPs at the home of their key, by what their lookup finds (R385). -/

theorem State.kvMoving_of_off {s : State} {k : KvKey} (h : s.kvQ (k.head % 4) = none) : s.kvMoving k = false := by
  unfold State.kvMoving
  rw [h]

theorem State.kvPinned_of_off {s : State} {k : KvKey} (h : s.kvQ (k.head % 4) = none) : s.kvPinned k = false := by
  unfold State.kvPinned
  rw [h]

section Lookups
variable {s : State} {id req seq head lblk slot dsel ala bla : Nat} {fk fv : FmtWord} {o : EngOp} (hop : s.engOp id = some o)
  (hf : o.finished = false) (ha : o.act = .kvapp req seq head lblk slot dsel fk fv ala bla) (hlow : o.low = 0) {k : KvKey}
  (hk : ⟨o.asid / 1024, seq, head, lblk⟩ = k) (hw : s.kvWait = [])
include hop hf ha hlow hk hw

theorem happens_kvapp_off (hq : s.kvQ (k.head % 4) = none) :
    Happens (.pitchMapRequest id) s fun t => t = (s.onEvent (.pitchMapRequest id)).kvEnds id req kvKVOFF :=
  happens_kvapp_ends hop hf ha hlow hk hw (State.kvMoving_of_off hq) (State.kvPinned_of_off hq) (State.appendToken_off hq) hw

variable (hm : s.kvMoving k = false) (hp : s.kvPinned k = false) {q : KvQ} (hq : s.kvQ (k.head % 4) = some q)
include hm hp hq

theorem happens_kvapp_parked (hpk : s.seqParked k.vf k.seq = true) :
    Happens (.pitchMapRequest id) s fun t => t = (s.onEvent (.pitchMapRequest id)).kvEnds id req kvPARKED :=
  happens_kvapp_ends hop hf ha hlow hk hw hm hp (State.appendToken_parked hq hpk) hw

variable (hpk : s.seqParked k.vf k.seq = false)
include hpk

theorem happens_kvapp_absent (hl : s.kvLookup q k = none) (hs : slot ≠ 0) :
    Happens (.pitchMapRequest id) s fun t => t = (s.onEvent (.pitchMapRequest id)).kvEnds id req kvORDER :=
  happens_kvapp_ends hop hf ha hlow hk hw hm hp (State.appendToken_absent hq hpk ((s.kvLookup_onEvent _ q k).trans hl) hs) hw

variable {h : KvHit} (hl : s.kvLookup q k = some h)
include hl

theorem happens_kvapp_cold (ht : h.tier = 2) :
    Happens (.pitchMapRequest id) s fun t => t = (s.onEvent (.pitchMapRequest id)).kvEnds id req kvCOLD :=
  happens_kvapp_ends hop hf ha hlow hk hw hm hp (State.appendToken_cold hq hpk ((s.kvLookup_onEvent _ q k).trans hl) ht) hw

variable (ht : h.tier ≠ 2)
include ht

/-- A block found outside flash: the KVAPP ends as the token's placing does. -/
theorem happens_kvapp_found {st : Nat} {u : State}
    (hput : (s.onEvent (.pitchMapRequest id)).putToken q h slot dsel fk fv ala bla = (st, u)) (hu : u.kvWait = []) :
    Happens (.pitchMapRequest id) s fun t => t = u.kvEnds id req st :=
  happens_kvapp_ends hop hf ha hlow hk hw hm hp
    ((State.appendToken_found (s := s.onEvent (.pitchMapRequest id)) hq hpk ((s.kvLookup_onEvent _ q k).trans hl) ht).trans hput) hu

theorem happens_kvapp_shared (hs : eState (s.kvHolder q h) = esPrefix ∨ h.shared = true) :
    Happens (.pitchMapRequest id) s fun t => t = (s.onEvent (.pitchMapRequest id)).kvEnds id req kvSHARED :=
  happens_kvapp_found hop hf ha hlow hk hw hm hp hq hpk hl ht
    (State.putToken_shared (by rw [State.kvHolder_onEvent]; exact hs)) hw

variable (hsh : h.shared = false) (he : eState (s.kvHolder q h) = esLive)
include hsh he

theorem happens_kvapp_order (hn : slot ≠ eNtok (s.kvHolder q h)) :
    Happens (.pitchMapRequest id) s fun t => t = (s.onEvent (.pitchMapRequest id)).kvEnds id req kvORDER :=
  happens_kvapp_found hop hf ha hlow hk hw hm hp hq hpk hl ht
    (State.putToken_order hsh (by rw [State.kvHolder_onEvent]; exact he) (by rw [State.kvHolder_onEvent]; exact hn)) hw

/-- The next slot of a live block takes its two rows, and NTOK rises. -/
theorem happens_kvapp_next (hn : slot = eNtok (s.kvHolder q h)) {nk nv : Nat} (hnk : dimOf dsel * (entOf fk).w / 8 = nk)
    (hnv : dimOf dsel * (entOf fv).w / 8 = nv) : Happens (.pitchMapRequest id) s fun t => t =
      ((((s.onEvent (.pitchMapRequest id)).writeRow ala (h.pa q + slot * nk) nk).writeRow bla (h.pa q + 0x2000 + slot * nv) nv).setKvHolder
        q h (eSetNtok (s.kvHolder q h) (slot + 1))).kvEnds id req kvOK := by
  have hput := State.putToken_next (s := s.onEvent (.pitchMapRequest id)) (slot := slot) (dsel := dsel) (fk := fk) (fv := fv) (ala := ala)
    (bla := bla) hsh (by rw [State.kvHolder_onEvent]; exact he) (by rw [State.kvHolder_onEvent]; exact hn)
  rw [State.kvHolder_onEvent] at hput
  subst hnk hnv
  exact happens_kvapp_found hop hf ha hlow hk hw hm hp hq hpk hl ht hput
    (by rw [State.setKvHolder_kvWait, State.writeRow_kvWait, State.writeRow_kvWait]; exact hw)

end Lookups

end Sys2Proof.Machine
end

section
/-! SUPPORT. ATTN at the pitch map, and the records that it writes at the end (R111, R116, R389): O46. -/
namespace Sys2Proof.Machine

/-! Records written at the requester (R116). -/

theorem StallStore.of_memKept {core off n : Nat} {s t u : State} (h : MemKept s t) (g : StallStore core off n t u) :
    StallStore core off n s u := ⟨fun a ha => (g.1 a ha).trans (h.bytes a), g.2.trans h.flash⟩

/-- Without poisoned queries the records are stored, and the operation completes. -/
theorem State.attnWrite_clean (s : State) (id : Nat) {o : EngOp} (d bla : Nat) (ts : List Triple) (ho : o.poisonHeads = []) :
    s.attnWrite id o d bla ts = (s.stallWrite ((bla - meshBase) / 65536) (bla % 65536) (ts.length * recBytes d)
      (packRecords d ts)).later 0 (.engineOpComplete id) := by
  unfold State.attnWrite
  simp only [ho, List.flatMap_nil, List.foldl_nil, List.isEmpty_nil, if_true]

/-- What the records written leave of a state that differs in operations alone. -/
theorem State.attnWrite_writes {s u : State} (hu : MapWork u s) (id : Nat) {o : EngOp} (d bla : Nat) (ts : List Triple)
    {n : Nat} (hn : ts.length * recBytes d = n) (ho : o.poisonHeads = []) :
    let t := u.attnWrite id o d bla ts
    t.stallRead ((bla - meshBase) / 65536) (bla % 65536) n = packRecords d ts % 2 ^ (8 * n) ∧
    StallStore ((bla - meshBase) / 65536) (bla % 65536) n s t ∧ (s.clk, Event.engineOpComplete id) ∈ t.due ∧
    ∀ n c r, (t.ctx n c).sreg r = (s.ctx n c).sreg r := by
  intro t
  obtain ⟨v, hv⟩ : ∃ v, u.stallWrite ((bla - meshBase) / 65536) (bla % 65536) n (packRecords d ts) = v := ⟨_, rfl⟩
  have ht : t = v.later 0 (.engineOpComplete id) := by
    rw [← hv, ← hn]
    exact u.attnWrite_clean id d bla ts ho
  have hst : Stored v u := by rw [← hv]; exact u.stallWrite_stored _ _ _ _
  have hread : v.stallRead ((bla - meshBase) / 65536) (bla % 65536) n = packRecords d ts % 2 ^ (8 * n) := by
    rw [← hv, State.stallRead_stallWrite, Nat.pow_mul 2 8 n]
  have hstore : StallStore ((bla - meshBase) / 65536) (bla % 65536) n u v := by rw [← hv]; exact u.stallWrite_stallStore _ _ _ _
  have hlater := v.later_mapWork 0 (.engineOpComplete id)
  rw [ht]
  refine ⟨hread, ?_, ?_, fun m c r => ?_⟩
  · exact .of_memKept hu.memKept ⟨fun a ha => (hlater.memKept.bytes a).trans (hstore.1 a ha), hlater.memKept.flash.trans hstore.2⟩
  · rw [← hu.clk, ← hst.clk]
    exact v.mem_due_later 0 _
  · rw [hlater.ctx, hst.sreg, hu.ctx]

/-! ATTN at the pitch map over no blocks (R111, R389). -/

theorem exec_pitchMapRequest_attn {s : State} {id seq head lblk nlb dsel gm1 scale ala bla : Nat} {fq fk fv : FmtWord} {o : EngOp}
    (hop : s.engOp id = some o) (hf : o.finished = false) (ha : o.act = .attn seq head lblk nlb dsel gm1 fq fk fv scale ala bla) :
    exec (Event.pitchMapRequest id).instr (s.onEvent (.pitchMapRequest id)) =
      .next ((s.onEvent (.pitchMapRequest id)).attnRequest id o seq head lblk nlb dsel gm1 fq ala bla) := by
  have hop' : (s.onEvent (.pitchMapRequest id)).engOp id = some o := hop
  refine (exec_pitchMapRequest _).trans ?_
  unfold execPitchMapRequest
  simp only [show (s.onEvent (.pitchMapRequest id)).ev = .pitchMapRequest id from rfl, hop', hf, ha]
  rfl

/-- Where no query is poisoned and there is no block, the empty triples are written at once. -/
theorem State.attnRequest_of_none (s : State) (id : Nat) (o : EngOp) (seq head lblk dsel gm1 : Nat) (fq : FmtWord) (ala bla : Nat)
    (hclean : ∀ h, h ≤ gm1 → (stallAt s (ala + h * (dimOf dsel * (entOf fq).w / 8)) (dimOf dsel * (entOf fq).w / 8)).2 = none) :
    ∃ p : EngOp, p.poisonHeads = [] ∧ s.attnRequest id o seq head lblk 0 dsel gm1 fq ala bla =
      (s.modOp id fun _ => p).attnWrite id p (dimOf dsel) bla (List.replicate (gm1 + 1) (Triple.empty (dimOf dsel))) := by
  have hheads : ((List.range (gm1 + 1)).filter fun h =>
      (stallAt s (ala + h * (dimOf dsel * (entOf fq).w / 8)) (dimOf dsel * (entOf fq).w / 8)).2.isSome) = [] := by
    rw [List.filter_eq_nil_iff]
    intro h hh
    rw [hclean h (by have := List.mem_range.mp hh; omega)]
    simp
  refine ⟨{ o with
    data := o.data.put dataQueries (stallAt s ala ((gm1 + 1) * (dimOf dsel * (entOf fq).w / 8))).1, poisonHeads := [] }, rfl, ?_⟩
  unfold State.attnRequest
  simp only [hheads, List.foldl_nil]
  split
  · rename_i hn
    exact absurd hn (by simp)
  · rfl

/-- ATTN over no blocks writes its empty triples and completes. -/
theorem happens_attn_of_none {s : State} {id seq head lblk dsel gm1 scale ala bla : Nat} {fq fk fv : FmtWord} {o : EngOp}
    (hop : s.engOp id = some o) (hf : o.finished = false) (ha : o.act = .attn seq head lblk 0 dsel gm1 fq fk fv scale ala bla)
    (hclean : ∀ h, h ≤ gm1 → (stallAt s (ala + h * (dimOf dsel * (entOf fq).w / 8)) (dimOf dsel * (entOf fq).w / 8)).2 = none)
    {n : Nat} (hn : (gm1 + 1) * recBytes (dimOf dsel) = n) : Happens (.pitchMapRequest id) s fun t =>
      t.stallRead ((bla - meshBase) / 65536) (bla % 65536) n =
        packRecords (dimOf dsel) (List.replicate (gm1 + 1) (Triple.empty (dimOf dsel))) ∧
      StallStore ((bla - meshBase) / 65536) (bla % 65536) n s t ∧ (s.clk, Event.engineOpComplete id) ∈ t.due ∧
      ∀ n c r, (t.ctx n c).sreg r = (s.ctx n c).sreg r := by
  obtain ⟨p, hp, he⟩ := State.attnRequest_of_none (s.onEvent (.pitchMapRequest id)) id o seq head lblk dsel gm1 fq ala bla hclean
  have hwork : MapWork ((s.onEvent (.pitchMapRequest id)).modOp id fun _ => p) s :=
    (State.modOp_mapWork _ id _).trans (s.onEvent_mapWork _)
  have hlt := packRecords_lt (dimOf dsel) (List.replicate (gm1 + 1) (Triple.empty (dimOf dsel))) fun t ht => by
    rw [List.eq_of_mem_replicate ht]
    exact Triple.record_empty_lt _
  rw [List.length_replicate, hn] at hlt
  have hw := State.attnWrite_writes hwork id (dimOf dsel) bla (List.replicate (gm1 + 1) (Triple.empty (dimOf dsel)))
    (by rw [List.length_replicate, hn]) hp
  rw [Nat.mod_eq_of_lt hlt] at hw
  exact happens_next ((exec_pitchMapRequest_attn hop hf ha).trans (congrArg _ he)) hw

end Sys2Proof.Machine
end

section
/-! SUPPORT. Contributors (R107, R111, R113): O46. -/
namespace Sys2Proof.Machine

/-! The work of a contributor on one block (R107, R111, R113). -/

/-- The triples of a slice replaced. -/
def State.putTriples (s : State) (id slice : Nat) (ts : List Triple) : State :=
  s.modOp id fun p => { p with trips := p.trips.put slice ts }

/-- The state in which a contributor reads a block no line of which is cached: its work is paid for, and it pins nothing. -/
def State.readsBlock (s : State) (id slice stack cost : Nat) : State :=
  (s.payDie stack cost).modOp id fun p => { p with slicePins := p.slicePins.put slice [] }

theorem State.readsBlock_mapWork (s : State) (id slice stack cost : Nat) : MapWork (s.readsBlock id slice stack cost) s :=
  (State.modOp_mapWork _ _ _).trans (s.payDie_mapWork _ _)

theorem State.physPoison_congr {s t : State} (hc : t.c2 = s.c2) (hp : t.poison = s.poison) (pa n : Nat) :
    t.physPoison pa n = s.physPoison pa n := by
  unfold State.physPoison State.lineOf
  rw [hc, hp]

theorem State.pinBlock_of_none (s : State) (pa n : Nat) (h : ∀ l ∈ s.c2, ¬(pa / 64 ≤ l.pline ∧ 64 * l.pline < pa + n)) :
    s.pinBlock pa n = some ([], s) := by
  have hf : (s.c2.filter fun l => pa / 64 ≤ l.pline && 64 * l.pline < pa + n) = [] := by
    rw [List.filter_eq_nil_iff]
    intro l hl
    simpa using h l hl
  unfold State.pinBlock
  rw [hf, List.foldl_nil]

section Block
variable {s : State} {id : Nat} {o : EngOp} {slice : Nat} {q : KvQ} {k : KvKey} {dsel gm1 : Nat} {fq fk fv : FmtWord} {scale : Nat}

theorem State.attnBlock_absent (h : (s.kvQ q.stack).isSome = false ∨ s.kvLookup q k = none) :
    s.attnBlock id o slice q k dsel gm1 fq fk fv scale =
      (true, 1, s.putTriples id slice ((o.trips.get slice []).map fun t => t.addCounts ⟨0, 0, [], 0, 1, 0, 0⟩)) := by
  have hl : (if (s.kvQ q.stack).isSome then s.kvLookup q k else none) = none := by
    rcases h with h | h <;> simp [h]
  unfold State.attnBlock
  simp only [hl]
  rfl

variable {h : KvHit} (hq : (s.kvQ q.stack).isSome = true) (hl : s.kvLookup q k = some h)
include hq hl

theorem State.attnBlock_cold (ht : h.tier = 2) : s.attnBlock id o slice q k dsel gm1 fq fk fv scale =
    (true, 1, s.putTriples id slice ((o.trips.get slice []).map fun t => t.addCounts ⟨0, 0, [], 0, 0, 1, 0⟩)) := by
  unfold State.attnBlock
  simp only [hq, hl, ht, if_true, beq_self_eq_true]
  rfl

variable (ht : h.tier ≠ 2) {cost : Nat} (hcost : 32 * dimOf dsel * (gm1 + 1) * max (entOf fk).w (entOf fv).w / 16 = cost)
include ht hcost

theorem State.attnBlock_poor (hp : s.diePurse.get q.stack (1048576 * 1024) < (cost : Int)) :
    s.attnBlock id o slice q k dsel gm1 fq fk fv scale = (false, 64, s) := by
  have htb : (h.tier == 2) = false := by simpa using ht
  unfold State.attnBlock
  simp only [hq, hl, htb, hcost, if_true, Bool.false_eq_true, if_false]
  exact if_pos hp

variable (hp : (cost : Int) ≤ s.diePurse.get q.stack (1048576 * 1024))
  (hc2 : ∀ l ∈ s.c2, ¬(h.pa q / 64 ≤ l.pline ∧ 64 * l.pline < h.pa q + 16384)) {n nk nv : Nat}
  (hn : min 16 (eNtok (s.kvHolder q h)) = n) (hnk : n * dimOf dsel * (entOf fk).w / 8 = nk) (hnv : n * dimOf dsel * (entOf fv).w / 8 = nv)
include hp hc2 hn hnk hnv

/-- A block read: what it adds to the triples, by whether its rows are poisoned. -/
theorem State.attnBlock_here : ∃ go, s.attnBlock id o slice q k dsel gm1 fq fk fv scale =
    if (s.physPoison (h.pa q) nk).isSome || (s.physPoison (h.pa q + 0x2000) nv).isSome then
      (true, go, ((s.readsBlock id slice q.stack cost).countErr q.stack 3).putTriples id slice
        ((o.trips.get slice []).map fun t => t.addCounts ⟨0, 0, [], 0, 0, 0, 1⟩))
    else (true, go, (s.readsBlock id slice q.stack cost).putTriples id slice
      ((blockTriples (o.trips.get slice []) o.poisonHeads (entOf fq) (entOf fk) (entOf fv) (dimOf dsel) scale (o.data.get 0 0)
        (s.physRead (h.pa q) nk) (s.physRead (h.pa q + 0x2000) nv) n).map fun t => t.addCounts ⟨0, 0, [], n, 0, 0, 0⟩)) := by
  have htb : (h.tier == 2) = false := by simpa using ht
  have hpays : ¬s.diePurse.get q.stack (1048576 * 1024) < (cost : Int) := by omega
  obtain ⟨u, hu⟩ : ∃ u, s.readsBlock id slice q.stack cost = u := ⟨_, rfl⟩
  have hwork : MapWork u s := by rw [← hu]; exact s.readsBlock_mapWork _ _ _ _
  have hread (pa m : Nat) : u.physRead pa m = s.physRead pa m := State.physRead_congr pa m hwork.memKept.bytes
  have hpoison (pa m : Nat) : u.physPoison pa m = s.physPoison pa m := State.physPoison_congr hwork.c2 hwork.memKept.poison pa m
  rw [hu]
  simp only [← hread, ← hpoison]
  rw [← hu]
  refine Exists.intro ?go ?eq
  case eq =>
    unfold State.attnBlock
    simp only [hq, hl, htb, hcost, hn, hnk, hnv, if_true, Bool.false_eq_true, if_false,
      s.pinBlock_of_none _ _ hc2]
    exact if_neg hpays

theorem State.attnBlock_poisoned (hbad : (s.physPoison (h.pa q) nk).isSome = true ∨ (s.physPoison (h.pa q + 0x2000) nv).isSome = true) :
    ∃ go, s.attnBlock id o slice q k dsel gm1 fq fk fv scale = (true, go, ((s.readsBlock id slice q.stack cost).countErr q.stack 3).putTriples
      id slice ((o.trips.get slice []).map fun t => t.addCounts ⟨0, 0, [], 0, 0, 0, 1⟩)) := by
  obtain ⟨go, he⟩ := State.attnBlock_here (id := id) (o := o) (slice := slice) (fq := fq) (scale := scale) hq hl ht hcost hp hc2 hn hnk hnv
  exact ⟨go, he.trans (if_pos (by simpa using hbad))⟩

theorem State.attnBlock_read (hgood : ¬((s.physPoison (h.pa q) nk).isSome = true ∨ (s.physPoison (h.pa q + 0x2000) nv).isSome = true)) :
    ∃ go, s.attnBlock id o slice q k dsel gm1 fq fk fv scale = (true, go, (s.readsBlock id slice q.stack cost).putTriples id slice
      ((blockTriples (o.trips.get slice []) o.poisonHeads (entOf fq) (entOf fk) (entOf fv) (dimOf dsel) scale (o.data.get 0 0)
        (s.physRead (h.pa q) nk) (s.physRead (h.pa q + 0x2000) nv) n).map fun t => t.addCounts ⟨0, 0, [], n, 0, 0, 0⟩)) := by
  obtain ⟨go, he⟩ := State.attnBlock_here (id := id) (o := o) (slice := slice) (fq := fq) (scale := scale) hq hl ht hcost hp hc2 hn hnk hnv
  exact ⟨go, he.trans (if_neg (by simpa using hgood))⟩

end Block

/-! A contributor's turn (R111, R113). -/

theorem exec_attnContributor (s : State) (id slice : Nat) :
    exec (Event.attnContributor id slice).instr (s.onEvent (.attnContributor id slice)) =
      .next ((s.onEvent (.attnContributor id slice)).attnContributor id slice) := rfl

section Contributor
variable {s : State} {id seq head lblk nlb dsel gm1 scale ala bla slice : Nat} {fq fk fv : FmtWord} {o : EngOp}
  (hop : s.engOp id = some o) (hf : o.finished = false) (ha : o.act = .attn seq head lblk nlb dsel gm1 fq fk fv scale ala bla)
  (hpins : o.slicePins.get slice [] = [])
include hop hf ha hpins

/-- A contributor that has passed every block of its operation hands its triples to the weighbridge. -/
theorem State.attnContributor_done (hall : nlb ≤ o.data.get (dataPassed slice) 0) :
    s.attnContributor id slice = s.later 1 (.weighbridgeMerge id slice) := by
  unfold State.attnContributor
  simp only [hop, ha, hf, Bool.false_eq_true, if_false]
  unfold State.unpinSlice
  simp only [hpins, Nat.sub_eq_zero_of_le hall, List.range_zero, List.find?_nil]

variable {q : KvQ} (hq : kvqOf (head % 4) (s.pkg.kvPool.get (head % 4) 0) = q) {at_ i : Nat} (hat : o.data.get (dataPassed slice) 0 = at_)
  (hi : (List.range (nlb - at_)).find? (fun i => q.home ⟨o.asid / 1024, seq, head, lblk + at_ + i⟩ == slice) = some i)
include hq hat hi

/-- A contributor with a block to look up works on it, and passes it or comes back to it. -/
theorem State.attnContributor_block {passed : Bool} {d : Nat} {u : State}
    (hb : s.attnBlock id o slice q ⟨o.asid / 1024, seq, head, lblk + at_ + i⟩ dsel gm1 fq fk fv scale = (passed, d, u)) :
    s.attnContributor id slice = (if passed then u.modOp id fun p => { p with data := p.data.put (dataPassed slice) (at_ + i + 1) }
      else u).later d (.attnContributor id slice) := by
  unfold State.attnContributor
  simp only [hop, ha, hf, Bool.false_eq_true, if_false]
  unfold State.unpinSlice
  simp only [hpins, hq, hat, hi, hb]

end Contributor

/-- What a contributor leaves that has passed a block with the triples `us`. -/
structure BlockPassed (id slice next : Nat) (us : List Triple) (d : Nat) (s t : State) : Prop where
  op : ∃ p, t.engOp id = some p ∧ p.trips.get slice [] = us ∧ p.data.get (dataPassed slice) 0 = next
  due : (s.clk + d, Event.attnContributor id slice) ∈ t.due
  mem : MemKept s t
  ctx : ∀ n c, t.ctx n c = s.ctx n c

/-- The same with the delay, which is known or not. -/
theorem BlockPassed.parts {id slice next d : Nat} {us : List Triple} {s t : State} (h : BlockPassed id slice next us d s t)
    {n : Option Nat} (hn : n = some d ∨ n = none) :
    (∃ p, t.engOp id = some p ∧ p.trips.get slice [] = us ∧ p.data.get (dataPassed slice) 0 = next) ∧
    (∃ d, (s.clk + d, Event.attnContributor id slice) ∈ t.due ∧ (n = some d ∨ n = none)) ∧ MemKept s t ∧
    ∀ n c, t.ctx n c = s.ctx n c := ⟨h.op, ⟨d, h.due, hn⟩, h.mem, h.ctx⟩

section Events
variable {s : State} {id seq head lblk nlb dsel gm1 scale ala bla slice : Nat} {fq fk fv : FmtWord} {o : EngOp}
  (hop : s.engOp id = some o) (hf : o.finished = false) (ha : o.act = .attn seq head lblk nlb dsel gm1 fq fk fv scale ala bla)
include hop hf ha

theorem happens_attnContributor_done (hpins : o.slicePins.get slice [] = []) (hall : nlb ≤ o.data.get (dataPassed slice) 0) :
    Happens (.attnContributor id slice) s fun t => (s.clk + 1, Event.weighbridgeMerge id slice) ∈ t.due ∧ t.ops = s.ops ∧
      MemKept s t ∧ ∀ n c, t.ctx n c = s.ctx n c := by
  obtain ⟨u, hu⟩ : ∃ u, s.onEvent (.attnContributor id slice) = u := ⟨_, rfl⟩
  have hopu : u.engOp id = some o := by rw [← hu]; exact hop
  have hwork : MapWork (u.later 1 (.weighbridgeMerge id slice)) s :=
    (u.later_mapWork _ _).trans (by rw [← hu]; exact s.onEvent_mapWork _)
  refine happens_next ((exec_attnContributor s id slice).trans (congrArg _ ?_)) ⟨?_, ?_, hwork.memKept, hwork.ctx⟩
  · rw [hu]
    exact State.attnContributor_done hopu hf ha hpins hall
  · rw [show s.clk = u.clk by rw [← hu]; rfl]
    exact u.mem_due_later 1 _
  · rw [← hu]
    rfl

variable (hpins : o.slicePins.get slice [] = []) {q : KvQ} (hq : kvqOf (head % 4) (s.pkg.kvPool.get (head % 4) 0) = q) {at_ i : Nat}
  (hat : o.data.get (dataPassed slice) 0 = at_)
  (hi : (List.range (nlb - at_)).find? (fun i => q.home ⟨o.asid / 1024, seq, head, lblk + at_ + i⟩ == slice) = some i)
include hpins hq hat hi

theorem happens_attnContributor_passes {d : Nat} {u : State} {us : List Triple}
    (hb : (s.onEvent (.attnContributor id slice)).attnBlock id o slice q ⟨o.asid / 1024, seq, head, lblk + at_ + i⟩ dsel gm1 fq fk fv
      scale = (true, d, u.putTriples id slice us)) (hw : MapWork u s) (hk : (u.engOp id).isSome = true) :
    Happens (.attnContributor id slice) s (BlockPassed id slice (at_ + i + 1) us d s) := by
  obtain ⟨p, hp⟩ := Option.isSome_iff_exists.mp hk
  obtain ⟨v, hv⟩ : ∃ v, (u.putTriples id slice us).modOp id (fun p => { p with data := p.data.put (dataPassed slice) (at_ + i + 1) }) = v :=
    ⟨_, rfl⟩
  have hvw : MapWork v s := by
    rw [← hv]
    exact (State.modOp_mapWork _ _ _).trans ((State.modOp_mapWork _ _ _).trans hw)
  have hlater := (v.later_mapWork d (.attnContributor id slice)).trans hvw
  refine happens_next ((exec_attnContributor s id slice).trans (congrArg _ ((State.attnContributor_block
    (s := s.onEvent (.attnContributor id slice)) hop hf ha hpins hq hat hi hb).trans (by rw [if_pos rfl, hv])))) ⟨?_, ?_, hlater.memKept, hlater.ctx⟩
  · rw [State.engOp_later, ← hv]
    unfold State.putTriples
    rw [State.engOp_modOp, State.engOp_modOp, hp]
    exact ⟨_, rfl, Assoc.get_put_self _ _ _ _, Assoc.get_put_self _ _ _ _⟩
  · rw [← hvw.clk]
    exact v.mem_due_later d _

/-- A contributor whose base die cannot pay comes back later, with nothing done. -/
theorem happens_attnContributor_waits
    (hb : (s.onEvent (.attnContributor id slice)).attnBlock id o slice q ⟨o.asid / 1024, seq, head, lblk + at_ + i⟩ dsel gm1 fq fk fv
      scale = (false, 64, s.onEvent (.attnContributor id slice))) :
    Happens (.attnContributor id slice) s fun t => t.ops = s.ops ∧ (s.clk + 64, Event.attnContributor id slice) ∈ t.due ∧
      MemKept s t := by
  have hlater := ((s.onEvent (.attnContributor id slice)).later_mapWork 64 (.attnContributor id slice)).trans (s.onEvent_mapWork _)
  refine happens_next ((exec_attnContributor s id slice).trans (congrArg _ (State.attnContributor_block
    (s := s.onEvent (.attnContributor id slice)) hop hf ha hpins hq hat hi hb))) ⟨rfl, ?_, hlater.memKept⟩
  exact (s.onEvent (.attnContributor id slice)).mem_due_later 64 _

end Events

/-! A contributor's turn, by what its lookup finds (R107, R111, R113). -/

section Turns
variable {s : State} {id seq head lblk nlb dsel gm1 scale ala bla slice : Nat} {fq fk fv : FmtWord} {o : EngOp}
  (hop : s.engOp id = some o) (hf : o.finished = false) (ha : o.act = .attn seq head lblk nlb dsel gm1 fq fk fv scale ala bla)
  (hpins : o.slicePins.get slice [] = []) {q : KvQ} (hq : kvqOf (head % 4) (s.pkg.kvPool.get (head % 4) 0) = q) {at_ i : Nat}
  (hat : o.data.get (dataPassed slice) 0 = at_)
  (hi : (List.range (nlb - at_)).find? (fun i => q.home ⟨o.asid / 1024, seq, head, lblk + at_ + i⟩ == slice) = some i)
include hop hf ha hpins hq hat hi

/-- A block that is missing adds to the counts alone. -/
theorem happens_attnContributor_absent (h : (s.kvQ q.stack).isSome = false ∨ s.kvLookup q ⟨o.asid / 1024, seq, head, lblk + at_ + i⟩ = none) :
    Happens (.attnContributor id slice) s (BlockPassed id slice (at_ + i + 1)
      ((o.trips.get slice []).map fun t => t.addCounts ⟨0, 0, [], 0, 1, 0, 0⟩) 1 s) :=
  happens_attnContributor_passes hop hf ha hpins hq hat hi (State.attnBlock_absent (by rw [State.kvLookup_onEvent]; exact h))
    (s.onEvent_mapWork _) (by rw [State.engOp_onEvent, hop]; rfl)

variable {h : KvHit} (hon : (s.kvQ q.stack).isSome = true) (hl : s.kvLookup q ⟨o.asid / 1024, seq, head, lblk + at_ + i⟩ = some h)
include hon hl

theorem happens_attnContributor_cold (ht : h.tier = 2) : Happens (.attnContributor id slice) s (BlockPassed id slice (at_ + i + 1)
    ((o.trips.get slice []).map fun t => t.addCounts ⟨0, 0, [], 0, 0, 1, 0⟩) 1 s) :=
  happens_attnContributor_passes hop hf ha hpins hq hat hi (State.attnBlock_cold hon ((s.kvLookup_onEvent _ _ _).trans hl) ht)
    (s.onEvent_mapWork _) (by rw [State.engOp_onEvent, hop]; rfl)

variable (ht : h.tier ≠ 2) {cost : Nat} (hcost : 32 * dimOf dsel * (gm1 + 1) * max (entOf fk).w (entOf fv).w / 16 = cost)
include ht hcost

theorem happens_attnContributor_poor (hp : s.diePurse.get q.stack (1048576 * 1024) < (cost : Int)) :
    Happens (.attnContributor id slice) s fun t => t.ops = s.ops ∧ (s.clk + 64, Event.attnContributor id slice) ∈ t.due ∧
      MemKept s t :=
  happens_attnContributor_waits hop hf ha hpins hq hat hi (State.attnBlock_poor hon ((s.kvLookup_onEvent _ _ _).trans hl) ht hcost hp)

variable (hp : (cost : Int) ≤ s.diePurse.get q.stack (1048576 * 1024))
  (hc2 : ∀ l ∈ s.c2, ¬(h.pa q / 64 ≤ l.pline ∧ 64 * l.pline < h.pa q + 16384)) {n nk nv : Nat}
  (hn : min 16 (eNtok (s.kvHolder q h)) = n) (hnk : n * dimOf dsel * (entOf fk).w / 8 = nk) (hnv : n * dimOf dsel * (entOf fv).w / 8 = nv)
include hp hc2 hn hnk hnv

theorem happens_attnContributor_poisoned (hbad : (s.physPoison (h.pa q) nk).isSome = true ∨ (s.physPoison (h.pa q + 0x2000) nv).isSome = true) :
    ∃ d, Happens (.attnContributor id slice) s (BlockPassed id slice (at_ + i + 1)
      ((o.trips.get slice []).map fun t => t.addCounts ⟨0, 0, [], 0, 0, 0, 1⟩) d s) := by
  obtain ⟨d, hb⟩ := State.attnBlock_poisoned (s := s.onEvent (.attnContributor id slice)) (id := id) (o := o) (slice := slice) (fq := fq)
    (scale := scale) hon ((s.kvLookup_onEvent _ _ _).trans hl) ht hcost hp hc2 (by rw [State.kvHolder_onEvent]; exact hn) hnk hnv
    hbad
  exact ⟨d, happens_attnContributor_passes hop hf ha hpins hq hat hi hb
    ((State.countErr_mapWork _ _ _).trans ((State.readsBlock_mapWork _ _ _ _ _).trans (s.onEvent_mapWork _)))
    (by simp [State.readsBlock, hop])⟩

theorem happens_attnContributor_read (hgood : ¬((s.physPoison (h.pa q) nk).isSome = true ∨ (s.physPoison (h.pa q + 0x2000) nv).isSome = true)) :
    ∃ d, Happens (.attnContributor id slice) s (BlockPassed id slice (at_ + i + 1)
      ((blockTriples (o.trips.get slice []) o.poisonHeads (entOf fq) (entOf fk) (entOf fv) (dimOf dsel) scale (o.data.get 0 0)
        (s.physRead (h.pa q) nk) (s.physRead (h.pa q + 0x2000) nv) n).map fun t => t.addCounts ⟨0, 0, [], n, 0, 0, 0⟩) d s) := by
  obtain ⟨d, hb⟩ := State.attnBlock_read (s := s.onEvent (.attnContributor id slice)) (id := id) (o := o) (slice := slice) (fq := fq)
    (scale := scale) hon ((s.kvLookup_onEvent _ _ _).trans hl) ht hcost hp hc2 (by rw [State.kvHolder_onEvent]; exact hn) hnk hnv
    hgood
  rw [State.physRead_onEvent, State.physRead_onEvent] at hb
  exact ⟨d, happens_attnContributor_passes hop hf ha hpins hq hat hi hb
    ((State.readsBlock_mapWork _ _ _ _ _).trans (s.onEvent_mapWork _)) (by simp [State.readsBlock, hop])⟩

end Turns

end Sys2Proof.Machine
end

section
/-! SUPPORT. The weighbridge, and the statement of attention and the pitch map: O46. -/
namespace Sys2Proof.Machine

/-! The weighbridge (R114 to R116). -/

theorem exec_weighbridgeMerge (s : State) (id k : Nat) :
    exec (Event.weighbridgeMerge id k).instr (s.onEvent (.weighbridgeMerge id k)) =
      .next ((s.onEvent (.weighbridgeMerge id k)).weighbridge id k) := rfl

section Weighbridge
variable {s : State} {id seq head lblk nlb dsel gm1 scale ala bla : Nat} {fq fk fv : FmtWord} {o : EngOp}
  (hop : s.engOp id = some o) (hf : o.finished = false) (ha : o.act = .attn seq head lblk nlb dsel gm1 fq fk fv scale ala bla)
include hop hf ha

/-- The set of the stack's merge point is written at the requester. -/
theorem State.weighbridge_stack : s.weighbridge id 128 = s.attnWrite id o (dimOf dsel) bla (o.merges.get 128 []) := by
  unfold State.weighbridge
  simp only [hop, ha, hf, Bool.false_eq_true, if_false, beq_self_eq_true, if_true]

/-- The set that stands at a slice's merge point once that of the slice has reached it. -/
def EngOp.mergedAt (o : EngOp) (slice : Nat) : List Triple :=
  if o.merges.has (64 + slice / 16) then mergeSets (o.merges.get (64 + slice / 16) []) (o.trips.get slice []) else o.trips.get slice []

/-- The state in which a slice's set stands at its merge point, which awaits one set less. -/
def State.setMerged (s : State) (id : Nat) (o : EngOp) (slice : Nat) : State :=
  s.modOp id fun q => { q with
    merges := q.merges.put (64 + slice / 16) (o.mergedAt slice),
    expects := q.expects.put (64 + slice / 16) (o.expects.get (64 + slice / 16) 1 - 1) }

/-- A slice's set reaches the merge point of its quadrant, which hands on once no other is awaited. -/
theorem State.weighbridge_slice {slice : Nat} (hs : slice < 64) : s.weighbridge id slice =
    if o.expects.get (64 + slice / 16) 1 - 1 != 0 then s.setMerged id o slice
    else (s.setMerged id o slice).later 8 (.weighbridgeMerge id (64 + slice / 16)) := by
  have h128 : (slice == 128) = false := by rw [beq_eq_false_iff_ne]; omega
  have hp : (64 + slice / 16 == 128) = false := by rw [beq_eq_false_iff_ne]; omega
  unfold State.weighbridge
  simp only [hop, ha, hf, h128, hs, hp, Bool.false_eq_true, if_false, if_true]
  rfl

theorem happens_weighbridge_stack {n : Nat} (ho : o.poisonHeads = []) (hn : (o.merges.get 128 []).length * recBytes (dimOf dsel) = n) :
    Happens (.weighbridgeMerge id 128) s fun t =>
      t.stallRead ((bla - meshBase) / 65536) (bla % 65536) n = packRecords (dimOf dsel) (o.merges.get 128 []) % 2 ^ (8 * n) ∧
      StallStore ((bla - meshBase) / 65536) (bla % 65536) n s t ∧ (s.clk, Event.engineOpComplete id) ∈ t.due ∧
      ∀ n c r, (t.ctx n c).sreg r = (s.ctx n c).sreg r :=
  happens_next ((exec_weighbridgeMerge s id 128).trans (congrArg _
    (State.weighbridge_stack (s := s.onEvent (.weighbridgeMerge id 128)) hop hf ha))) (State.attnWrite_writes (s.onEvent_mapWork _) id _ _ _ hn ho)

theorem happens_weighbridge_slice {slice : Nat} (hs : slice < 64) : Happens (.weighbridgeMerge id slice) s fun t =>
    (∃ q, t.engOp id = some q ∧ q.merges.get (64 + slice / 16) [] = o.mergedAt slice ∧
      q.expects.get (64 + slice / 16) 1 = o.expects.get (64 + slice / 16) 1 - 1) ∧
    (o.expects.get (64 + slice / 16) 1 ≤ 1 → (s.clk + 8, Event.weighbridgeMerge id (64 + slice / 16)) ∈ t.due) ∧ MemKept s t ∧
    ∀ n c, t.ctx n c = s.ctx n c := by
  obtain ⟨u, hu⟩ : ∃ u, (s.onEvent (.weighbridgeMerge id slice)).setMerged id o slice = u := ⟨_, rfl⟩
  have huw : MapWork u s := by rw [← hu]; exact (State.modOp_mapWork _ _ _).trans (s.onEvent_mapWork _)
  have hop' : ∃ q, u.engOp id = some q ∧ q.merges.get (64 + slice / 16) [] = o.mergedAt slice ∧
      q.expects.get (64 + slice / 16) 1 = o.expects.get (64 + slice / 16) 1 - 1 := by
    rw [← hu, State.setMerged, State.engOp_modOp, State.engOp_onEvent, hop]
    exact ⟨_, rfl, Assoc.get_put_self _ _ _ _, Assoc.get_put_self _ _ _ _⟩
  have hlater := (u.later_mapWork 8 (.weighbridgeMerge id (64 + slice / 16))).trans huw
  refine happens_next ((exec_weighbridgeMerge s id slice).trans (congrArg _
    (State.weighbridge_slice (s := s.onEvent (.weighbridgeMerge id slice)) hop hf ha hs))) ?_
  rw [hu]
  by_cases he : o.expects.get (64 + slice / 16) 1 - 1 = 0
  · rw [if_neg (by simp [he])]
    refine ⟨hop', fun _ => ?_, hlater.memKept, hlater.ctx⟩
    rw [← huw.clk]
    exact u.mem_due_later 8 _
  · rw [if_pos (by simpa using he)]
    exact ⟨hop', fun h => absurd (Nat.sub_eq_zero_of_le h) he, huw.memKept, huw.ctx⟩

end Weighbridge

/-! The statement. -/

/-- Settles O46: ATTN begins an operation and AMRG is one store; a KVAPP ends with the status that its lookup gives; an ATTN's triples
come from its contributors' blocks one by one, meet at the merge points and are stored as records. -/
theorem attentionAndPitchMap : Obligations.AttentionAndPitchMap := by
  unfold Obligations.AttentionAndPitchMap
  refine ⟨?issue, ?merge, ?token, ?kvapp, ?noBlocks, ?slices⟩
  case issue =>
    intro f s
    refine ⟨fun h => ⟨fun _ _ => traps_attn_bad h, fun _ => trapsLa_attn h,
      fun _ _ _ hok => ⟨waitsForStores_attn h hok, beginsAtMap_attn h hok⟩⟩, fun h => ⟨fun hbad => ?_, ?_⟩⟩
    · exact traps_fault h (exec_amrg f s) (amrgBody_bad hbad)
    · intro hr hd ca oa cb ob cd od hca hcb hcd hpa hpb ha hb
      exact gives_stallWrite h (exec_amrg f s) (amrgBody_merges rfl rfl hr hd hca hcb hcd hpa hpb ha hb)
  case merge =>
    intro x y
    obtain ⟨hn, hm, hc, hp⟩ := x.merge_counts y
    refine ⟨hn, hm, hc, hp, Triple.merge_of_left_empty, Triple.merge_of_right_empty, fun hnan => ?_⟩
    obtain ⟨hzm, hzl, hzo⟩ := Triple.merge_of_nan hnan
    exact ⟨hzm, hzl, fun v hv => Triple.mem_allNan_o (x := x) (hzo ▸ hv)⟩
  case token =>
    intro x scale q k v
    refine ⟨x.token_counts scale q k v, Triple.token_of_nan scale q k v, fun hm hbad => ?_, fun hm hn hi =>
      ⟨Triple.token_of_greater v hm rfl hn hi, Triple.token_of_not_greater v hm rfl hn hi⟩⟩
    rw [Triple.token_of_bad_score v hm rfl hbad]
    exact ⟨rfl, rfl, fun _ => Triple.mem_allNan_o⟩
  case kvapp =>
    intro s id req seq head lblk slot dsel ala bla fk fv o hop hf ha hl
    refine ⟨fun hback => ?_, fun hw hq => ?_, fun q hw hq hm hp => ⟨fun hpk => ?_, fun hpk hnone hs => ?_, fun h hpk hh ht => ?_,
      fun h hpk hh ht hsh => ?_, fun h hpk hh ht hsh he => ⟨fun hne => ?_, fun hnext => ?_⟩⟩⟩
    · exact happens_kvapp_held hop hf ha hl rfl (State.kvHeldBack_iff.mpr hback)
    · exact happens_kvapp_off hop hf ha hl rfl hw hq
    · exact happens_kvapp_parked hop hf ha hl rfl hw hm hp hq hpk
    · exact happens_kvapp_absent hop hf ha hl rfl hw hm hp hq hpk hnone hs
    · exact happens_kvapp_cold hop hf ha hl rfl hw hm hp hq hpk hh ht
    · exact happens_kvapp_shared hop hf ha hl rfl hw hm hp hq hpk hh ht hsh
    · exact happens_kvapp_order hop hf ha hl rfl hw hm hp hq hpk hh ht hsh he hne
    · exact happens_kvapp_next hop hf ha hl rfl hw hm hp hq hpk hh ht hsh he hnext rfl rfl
  case noBlocks =>
    intro s id seq head lblk dsel gm1 scale ala bla fq fk fv o hop hf ha _ _ hclean _
    exact happens_attn_of_none hop hf ha hclean (by unfold recBytes dimOf; ring)
  case slices =>
    intro s id seq head lblk nlb dsel gm1 scale ala bla slice fq fk fv o hop hf ha
    refine ⟨happens_attnContributor_done hop hf ha, fun i hpins hi => ?_, fun ho _ => happens_weighbridge_stack hop hf ha ho (by unfold recBytes dimOf; ring),
      fun hs => happens_weighbridge_slice hop hf ha hs⟩
    refine ⟨fun habs => ?_, fun h hon hl => ⟨fun ht => ?_, fun ht hp => ?_, fun ht hp hc2 => ⟨fun hbad => ?_, fun hgood => ?_⟩⟩⟩
    · exact (happens_attnContributor_absent hop hf ha hpins rfl rfl hi habs).imp fun _ ht => ht.parts (.inl rfl)
    · exact (happens_attnContributor_cold hop hf ha hpins rfl rfl hi hon hl ht).imp fun _ ht => ht.parts (.inl rfl)
    · exact happens_attnContributor_poor hop hf ha hpins rfl rfl hi hon hl ht rfl hp
    · obtain ⟨_, hd⟩ := happens_attnContributor_poisoned hop hf ha hpins rfl rfl hi hon hl ht rfl hp hc2 rfl rfl rfl hbad
      exact hd.imp fun _ ht => ht.parts (.inr rfl)
    · obtain ⟨_, hd⟩ := happens_attnContributor_read hop hf ha hpins rfl rfl hi hon hl ht rfl hp hc2 rfl rfl rfl hgood
      exact hd.imp fun _ ht => ht.parts (.inr rfl)

end Sys2Proof.Machine
end

section
/-! SUPPORT. What coherent stores and the records of pools and of the KV store leave alone in a device: O47, O53. -/
namespace Sys2Proof.Machine

/-! Contexts, engines at rest. -/

/-- A state whose contexts are as another's but for STAT.ORACE and the counters. -/
structure ContextsKept (t s : State) : Prop where
  cur : t.cur = s.cur
  ctx : ∀ n c, CtxOrace (t.ctx n c) (s.ctx n c)

namespace ContextsKept
variable {s t u : State}

theorem refl (s : State) : ContextsKept s s := ⟨rfl, fun _ _ => .refl _⟩

theorem trans (h : ContextsKept u t) (g : ContextsKept t s) : ContextsKept u s :=
  ⟨h.cur.trans g.cur, fun n c => (h.ctx n c).trans (g.ctx n c)⟩

/-- A change that touches neither the cores nor the acting agent. -/
theorem ofCores (hc : t.cores = s.cores) (hu : t.cur = s.cur) : ContextsKept t s :=
  ⟨hu, fun n c => by rw [show t.ctx n c = s.ctx n c by unfold State.ctx State.core; rw [hc]]; exact .refl _⟩

theorem foldl {α : Type} {f : State → α → State} (h : ∀ s a, ContextsKept (f s a) s) (l : List α) (s : State) :
    ContextsKept (l.foldl f s) s :=
  List.foldlRecOn (motive := fun t => ContextsKept t s) l _ (.refl s) fun t ht a _ => (h t a).trans ht

theorem me (h : ContextsKept t s) : CtxOrace t.me s.me := by rw [State.me_eq h.cur]; exact h.ctx _ _

end ContextsKept

theorem State.engineWork_eq_false_iff (s : State) (n c : Nat) : s.engineWork n c = false ↔
    (∀ e ∈ s.ops, e.2.core = n → e.2.ctx = c → e.2.finished = true) ∧
    ((s.core n).seqOwner = some c → (s.core n).mseq.live = false ∧ (s.core n).cseq.live = false) := by
  unfold State.engineWork
  simp only [Bool.or_eq_false_iff, List.any_eq_false, Bool.and_eq_true, beq_iff_eq, Bool.not_eq_true', Bool.and_eq_false_iff,
    beq_eq_false_iff_ne, ne_eq, not_and, Bool.not_eq_false, and_imp]
  exact and_congr_right fun _ => imp_iff_not_or.symm

/-- A state as another but for memory, the lines of C2 and their pins, the KV store's lists, moves, requests, what is due and the
pools and counts of functions; no engine of a context has begun to work. -/
structure AtRest (t s : State) : Prop extends ContextsKept t s where
  clk : t.clk = s.clk
  pkg : t.pkg = s.pkg
  held : t.held = s.held
  tlb : t.tlb = s.tlb
  parks : t.parks = s.parks
  launches : t.launches = s.launches
  lines : ∀ l ∈ t.c2, ∃ m ∈ s.c2, l.asid = m.asid
  resetting : ∀ v, (t.vf v).resetting = (s.vf v).resetting
  queue : ∀ n, (t.core n).queue = (s.core n).queue
  engines : ∀ n c, s.engineWork n c = false → t.engineWork n c = false

namespace AtRest
variable {s t u : State}

theorem refl (s : State) : AtRest s s where
  toContextsKept := .refl s
  clk := rfl
  pkg := rfl
  held := rfl
  tlb := rfl
  parks := rfl
  launches := rfl
  lines l hl := ⟨l, hl, rfl⟩
  resetting _ := rfl
  queue _ := rfl
  engines _ _ h := h

theorem trans (h : AtRest u t) (g : AtRest t s) : AtRest u s where
  toContextsKept := h.toContextsKept.trans g.toContextsKept
  clk := h.clk.trans g.clk
  pkg := h.pkg.trans g.pkg
  held := h.held.trans g.held
  tlb := h.tlb.trans g.tlb
  parks := h.parks.trans g.parks
  launches := h.launches.trans g.launches
  lines l hl := by
    obtain ⟨m, hm, hlm⟩ := h.lines l hl
    obtain ⟨k, hk, hmk⟩ := g.lines m hm
    exact ⟨k, hk, hlm.trans hmk⟩
  resetting v := (h.resetting v).trans (g.resetting v)
  queue n := (h.queue n).trans (g.queue n)
  engines n c hw := h.engines n c (g.engines n c hw)

theorem foldl {α : Type} {f : State → α → State} (h : ∀ s a, AtRest (f s a) s) (l : List α) (s : State) : AtRest (l.foldl f s) s :=
  List.foldlRecOn (motive := fun t => AtRest t s) l _ (.refl s) fun t ht a _ => (h t a).trans ht

end AtRest

/-- A change of the books alone: moves, what is due, KV counts and waits, numbers, launch-queue lists, the pools' free values and
requests. -/
theorem AtRest.ofBooks (s : State) (ms : Assoc Move) (du : List (Nat × Event)) (kh : Assoc Nat) (kw : List Nat) (ni : Nat)
    (lq : Assoc LqList) :
    AtRest { s with moves := ms, due := du, kvHeld := kh, kvWait := kw, nextId := ni, lq := lq } s where
  toContextsKept := .ofCores rfl rfl
  clk := rfl
  pkg := rfl
  held := rfl
  tlb := rfl
  parks := rfl
  launches := rfl
  lines l hl := ⟨l, hl, rfl⟩
  resetting _ := rfl
  queue _ := rfl
  engines _ _ h := h

/-- A change of memory, marks and wakes, and of lines whose address spaces stay. -/
theorem AtRest.ofMem (s : State) (m : List Host.Cell) (p : NatSet) (ls : List C2Line) (w : List Nat)
    (h : ∀ l ∈ ls, ∃ k ∈ s.c2, l.asid = k.asid) : AtRest { s with mem := m, poison := p, c2 := ls, wakes := w } s where
  toContextsKept := .ofCores rfl rfl
  clk := rfl
  pkg := rfl
  held := rfl
  tlb := rfl
  parks := rfl
  launches := rfl
  lines := h
  resetting _ := rfl
  queue _ := rfl
  engines _ _ h := h

theorem State.later_atRest (s : State) (d : Nat) (e : Event) : AtRest (s.later d e) s := .ofBooks s _ _ _ _ _ _

theorem State.cancel_atRest (s : State) (e : Event) : AtRest (s.cancel e) s := .ofBooks s _ _ _ _ _ _

/-! Coherent stores (R80, R178). -/

theorem State.noteOrace_atRest (s : State) (pa n : Nat) : AtRest (s.noteOrace pa n) s := by
  unfold State.noteOrace
  split
  · exact .refl s
  · refine List.foldlRecOn (motive := fun t => AtRest t s) _ _ (.refl s) fun t ht e he => ?_
    dsimp only
    split
    · exact ht
    · have hcore (m : Nat) : ∃ cs, (t.modCtx e.2.core e.2.ctx (·.setStat bORACE true)).core m = { t.core m with ctxs := cs } :=
        State.core_setCtx_eq ..
      refine { toContextsKept := ContextsKept.trans (t := t) ⟨rfl, fun m d => ?_⟩ ht.toContextsKept, clk := ht.clk, pkg := ht.pkg,
               held := ht.held, tlb := ht.tlb, parks := ht.parks, launches := ht.launches, lines := ht.lines,
               resetting := ht.resetting, queue := fun m => ?_, engines := fun m d hw => ?_ }
      · show CtxOrace ((t.modCtx e.2.core e.2.ctx (·.setStat bORACE true)).ctx m d) (t.ctx m d)
        rw [State.ctx_modCtx]
        split
        · exact CtxOrace.setStat _ _
        · exact CtxOrace.refl _
      · obtain ⟨cs, hcs⟩ := hcore m
        exact (congrArg Core.queue hcs).trans (ht.queue m)
      · obtain ⟨hops, hseq⟩ := (t.engineWork_eq_false_iff m d).mp (ht.engines m d hw)
        obtain ⟨cs, hcs⟩ := hcore m
        refine (State.engineWork_eq_false_iff _ m d).mpr ⟨fun x hx hn hc => ?_, fun ho => ?_⟩
        · rcases Assoc.mem_put hx with rfl | hx
          · exact ((s.engineWork_eq_false_iff m d).mp hw).1 e he hn hc
          · exact hops x hx hn hc
        · have hk : (t.modCtx e.2.core e.2.ctx (·.setStat bORACE true)).core m = { t.core m with ctxs := cs } := hcs
          have ho' := (congrArg Core.seqOwner hk).symm.trans ho
          exact ⟨(congrArg (·.mseq.live) hk).trans (hseq ho').1, (congrArg (·.cseq.live) hk).trans (hseq ho').2⟩

theorem State.physStore_atRest (s : State) (pa n v : Nat) : AtRest (s.physStore pa n v) s := by
  have hn : AtRest ((s.noteWrite pa n).noteOrace pa n) s :=
    (State.noteOrace_atRest _ _ _).trans (.ofMem s _ _ _ _ fun l hl => ⟨l, hl, rfl⟩)
  unfold State.physStore
  dsimp only
  split
  · refine (AtRest.ofMem _ _ _ _ _ fun l hl => ?_).trans hn
    obtain ⟨m, hm, rfl⟩ := List.mem_map.mp hl
    exact ⟨m, hm, by split <;> rfl⟩
  · exact (AtRest.ofMem _ _ _ _ _ fun l hl => ⟨l, hl, rfl⟩).trans hn

theorem State.physWrite_atRest (s : State) (pa n v : Nat) : AtRest (s.physWrite pa n v) s := by
  have go (fuel : Nat) (s : State) (pa n v : Nat) : AtRest (State.physWrite.go s pa n v fuel) s := by
    induction fuel generalizing s pa n v with
    | zero => exact .refl s
    | succ fuel ih =>
      unfold State.physWrite.go
      split
      · exact .refl s
      · exact (ih _ _ _ _).trans (s.physStore_atRest _ _ _)
  exact go _ _ _ _ _

/-! Function windows and pools (R122, R123). -/

/-- A function window changed but for its reset under way. -/
theorem State.modVf_atRest (s : State) (v : Nat) (g : Vf → Vf) (h : (g (s.vf v)).resetting = (s.vf v).resetting) :
    AtRest (s.modVf v g) s where
  toContextsKept := .ofCores rfl rfl
  clk := rfl
  pkg := rfl
  held := rfl
  tlb := rfl
  parks := rfl
  launches := rfl
  lines l hl := ⟨l, hl, rfl⟩
  resetting u := by
    rw [State.vf_modVf]
    split
    · subst_vars; exact h
    · rfl
  queue _ := rfl
  engines _ _ h := h

theorem State.setPoolCount_atRest (s : State) (vf n k : Nat) : AtRest (s.setPoolCount vf n k) s := s.modVf_atRest _ _ rfl

theorem State.countSkip_atRest (s : State) (vf : Nat) : AtRest (s.countSkip vf) s := s.modVf_atRest _ _ rfl

theorem State.giveFrame_atRest (s : State) (vf tier size frame : Nat) : AtRest (s.giveFrame vf tier size frame) s := by
  unfold State.giveFrame
  dsimp only
  split
  · exact .refl s
  · exact (State.setPoolCount_atRest _ _ _ _).trans (s.physWrite_atRest _ _ _)

/-! The KV store (R97 to R106). -/

theorem State.setMapEntry_atRest (s : State) (q : KvQ) (j e : Nat) : AtRest (s.setMapEntry q j e) s := s.physWrite_atRest _ _ _

theorem State.setKvRec_atRest (s : State) (q : KvQ) (r e loc next : Nat) : AtRest (s.setKvRec q r e loc next) s :=
  s.physWrite_atRest _ _ _

theorem State.setKvHead_atRest (s : State) (q : KvQ) (gn r : Nat) : AtRest (s.setKvHead q gn r) s := s.physWrite_atRest _ _ _

theorem State.setHeldBlocks_atRest (s : State) (vf stack n : Nat) : AtRest (s.setHeldBlocks vf stack n) s := .ofBooks s _ _ _ _ _ _

theorem State.setKvHolder_atRest (s : State) (q : KvQ) (h : KvHit) (e : Nat) : AtRest (s.setKvHolder q h e) s := by
  unfold State.setKvHolder
  split
  · exact s.setMapEntry_atRest _ _ _
  · split
    · exact s.setKvRec_atRest _ _ _ _ _
    · exact .refl s

theorem State.removeRec_atRest (s : State) (q : KvQ) (gn r : Nat) : AtRest (s.removeRec q gn r) s := by
  unfold State.removeRec
  refine (State.setKvRec_atRest _ _ _ _ _ _).trans ?_
  dsimp only
  split
  · exact s.setKvHead_atRest _ _ _
  · split
    · exact s.setKvRec_atRest _ _ _ _ _
    · exact .refl s

theorem State.dropRecOf_atRest (s : State) (q : KvQ) (k : KvKey) (j : Nat) : AtRest (s.dropRecOf q k j) s := by
  unfold State.dropRecOf
  split
  · exact s.removeRec_atRest _ _ _
  · exact .refl s

theorem State.freeMap_atRest (s : State) (q : KvQ) (j : Nat) : AtRest (s.freeMap q j) s := by
  unfold State.freeMap State.freeMapAs
  refine (State.setHeldBlocks_atRest _ _ _ _).trans ((State.setMapEntry_atRest _ _ _ _).trans ?_)
  split
  · exact s.dropRecOf_atRest _ _ _
  · exact .refl s

theorem State.dropRef_atRest (s : State) (q : KvQ) (h : KvHit) : AtRest (s.dropRef q h) s := by
  unfold State.dropRef
  dsimp only
  split
  · split
    · exact s.freeMap_atRest _ _
    · exact s.setMapEntry_atRest _ _ _
  · split
    · exact .refl s
    · split
      · exact (State.giveFrame_atRest _ _ _ _ _).trans (s.removeRec_atRest _ _ _)
      · exact s.setKvRec_atRest _ _ _ _ _

theorem State.dropRefs_atRest (s : State) (bs : List Nat) : AtRest (s.dropRefs bs) s := by
  refine AtRest.foldl (fun s b => ?_) bs s
  split
  · exact s.dropRef_atRest _ _
  · split
    · exact s.dropRef_atRest _ _
    · exact .refl s

theorem State.retryKv_atRest (s : State) : AtRest s.retryKv s :=
  (AtRest.foldl (fun t _ => (State.later_atRest _ _ _).trans (t.cancel_atRest _)) _ _).trans (.ofBooks s _ _ _ _ _ _)

/-! Moves and their channels (R122). -/

theorem State.feedChannels_atRest (s : State) (die : Nat) : AtRest (s.feedChannels die) s :=
  AtRest.foldl (fun t _ => (State.later_atRest _ _ _).trans (.ofBooks t _ _ _ _ _ _)) _ s

theorem State.addMove_atRest (s : State) (m : Move) : AtRest (s.addMove m) s :=
  (State.feedChannels_atRest _ _).trans (.ofBooks s _ _ _ _ _ _)

end Sys2Proof.Machine
end
section
/-! SUPPORT. What the requests that try again when a move is over leave of the contexts, and what a move given up leaves: O47, O53. -/
namespace Sys2Proof.Machine

/-! Contexts through changes of a core or a context. -/

theorem Stored.contextsKept {s t : State} (h : Stored t s) : ContextsKept t s := ⟨h.cur, h.ctx⟩

namespace ContextsKept

theorem of_pair {α : Type} {s t : State} {p : α × State} {a : α} (he : p = (a, t)) (h : ContextsKept p.2 s) : ContextsKept t s := by
  subst he; exact h

theorem of_triple {α β : Type} {s t : State} {p : α × State × β} {a : α} {b : β} (he : p = (a, t, b)) (h : ContextsKept p.2.1 s) :
    ContextsKept t s := by
  subst he; exact h

theorem sameCores {s t u : State} (h : ContextsKept t s) (hc : u.cores = t.cores) (hu : u.cur = t.cur) : ContextsKept u s :=
  (ofCores hc hu).trans h

theorem modCore (s : State) (n : Nat) (g : Core → Core) (h : ∀ c, (g (s.core n)).ctx c = (s.core n).ctx c) :
    ContextsKept (s.modCore n g) s :=
  ⟨rfl, fun m c => by
    rw [State.ctx_modCore]
    split
    · subst_vars
      rw [h]
      exact .refl _
    · exact .refl _⟩

theorem modCtx (s : State) (n c : Nat) (g : Ctx → Ctx) (h : CtxOrace (g (s.ctx n c)) (s.ctx n c)) :
    ContextsKept (s.modCtx n c g) s :=
  ⟨rfl, fun m d => by
    rw [State.ctx_modCtx]
    split
    next he =>
      obtain ⟨rfl, rfl⟩ := he
      exact h
    next => exact .refl _⟩

end ContextsKept

theorem Ctx.count_orace (x : Ctx) (event n : Nat) : CtxOrace (x.count event n) x where
  as := x.count_as event n
  sr k _ := by simp
  stat i _ _ := by simp [Ctx.statBit]
  course := by
    obtain ⟨p, h⟩ := x.count_eq event n
    rw [h]
    exact ⟨rfl, rfl, rfl, rfl⟩

/-! An access at its home (R72 to R87, R125). -/

/-- Translating keeps all but what the dies hold of tables and walks. -/
theorem State.translate_eq (s : State) (die asid va : Nat) :
    ∃ l w, (s.translate die asid va).2.1 = { s with tlb := l, walks := w } := by
  unfold State.translate
  split
  · exact ⟨_, _, rfl⟩
  · split
    · exact ⟨_, _, rfl⟩
    · dsimp only
      split <;> exact ⟨_, _, rfl⟩

theorem State.translate_contextsKept (s : State) (die asid va : Nat) : ContextsKept (s.translate die asid va).2.1 s := by
  obtain ⟨l, w, h⟩ := s.translate_eq die asid va
  rw [h]
  exact .ofCores rfl rfl

theorem State.findHome_contextsKept (s : State) (core asid va : Nat) (need : Need) :
    ContextsKept (s.findHome core asid va need).2.1 s := by
  unfold State.findHome
  dsimp only
  split
  · exact .ofCores rfl rfl
  · have ht (die : Nat) := s.translate_contextsKept die asid va
    split
    next heq => exact .of_triple heq (ht _)
    next u t lat heq =>
      have hh := (ContextsKept.modCore t core (·.addHint asid u) fun _ => rfl).trans (.of_triple heq (ht _))
      split
      · exact hh
      · split
        · exact hh.sameCores rfl rfl
        · exact hh

theorem State.setHeat_contextsKept (s : State) (page h : Nat) : ContextsKept (s.setHeat page h) s := by
  unfold State.setHeat
  dsimp only
  split
  · exact (State.physWrite_stored _ _ _ _).contextsKept.trans (.ofCores rfl rfl)
  · exact .ofCores rfl rfl

theorem State.fabricRead_contextsKept (s : State) (dev n : Nat) : ContextsKept (s.fabricRead dev n).2 s := by
  unfold State.fabricRead
  dsimp only
  split <;> exact .ofCores rfl rfl

theorem State.locRead_contextsKept (s : State) (asid : Nat) (l : Loc) (va n : Nat) : ContextsKept (s.locRead asid l va n).2 s := by
  unfold State.locRead
  split
  · split <;> exact .refl s
  · exact .refl s
  · split <;> (next heq => exact .of_pair heq (s.fabricRead_contextsKept _ n))

theorem State.locWrite_contextsKept (s t : State) (core asid : Nat) (l : Loc) (va n v : Nat)
    (h : s.locWrite core asid l va n v = .ok t) : ContextsKept t s := by
  unfold State.locWrite at h
  split at h
  · split at h
    · obtain rfl := Except.ok.inj h
      refine (State.noteOrace_stored _ _ _).contextsKept.trans (.sameCores (.foldl (fun t w => ?_) (wordsOf va n) s) rfl rfl)
      split
      · split
        · exact .refl t
        · exact .modCore _ _ _ fun _ => rfl
      · exact .refl t
    · obtain rfl := Except.ok.inj h
      exact .refl _
  · obtain rfl := Except.ok.inj h
    exact (s.physStore_stored _ _ _).contextsKept
  · split at h
    · next heq =>
      obtain rfl := Except.ok.inj h
      exact .of_pair heq (s.fabricRead_contextsKept _ n)
    · cases h

theorem State.locMark_contextsKept (s : State) (asid : Nat) (l : Loc) (va : Nat) : ContextsKept (s.locMark asid l va) s := by
  unfold State.locMark
  split
  · split
    · exact .ofCores rfl rfl
    · exact .refl s
  · unfold State.setPoison
    split <;> exact .ofCores rfl rfl
  · exact .refl s

theorem State.performAt_contextsKept (s : State) (r : Req) (e : Elem) (l : Loc) : ContextsKept (s.performAt r e l).2 s := by
  unfold State.performAt
  dsimp only
  split
  · split <;> (next heq => exact .of_pair heq (s.fabricRead_contextsKept _ e.size))
  · have h := s.locRead_contextsKept r.asid l e.va e.size
    split
    next heq => exact .of_pair heq h
    next t heq =>
      have ht : ContextsKept t s := .of_pair heq h
      split
      · exact ht
      · split
        · exact ht
        · split
          next hw =>
            have hw' := (State.locWrite_contextsKept _ _ _ _ _ _ _ _ hw).trans ht
            dsimp only
            split
            · exact (State.locMark_contextsKept _ _ _ _).trans hw'
            · exact hw'
          next => exact ht

theorem State.serve_contextsKept (s : State) (r : Req) (e : Elem) (direct : Option Fill) :
    ContextsKept (s.serve r e direct).2.1 s := by
  have hf (t : State) (c : Nat) : ContextsKept (t.findHome r.core r.asid e.va r.op.need).2.1 t := t.findHome_contextsKept _ _ _ _
  unfold State.serve
  dsimp only
  split
  · exact .refl s
  · have hc (b : Bool) : ContextsKept (if b then s else s.modCtx r.core r.ctx (·.count 7 1)) s := by
      split
      · exact .refl s
      · exact .modCtx _ _ _ _ (Ctx.count_orace _ _ _)
    have hfound (b : Bool) :=
      (State.findHome_contextsKept (if b then s else s.modCtx r.core r.ctx (·.count 7 1)) r.core r.asid e.va r.op.need).trans (hc b)
    split
    next heq => exact .of_triple heq (hfound _)
    next l t lat heq =>
      have ht : ContextsKept t s := .of_triple heq (hfound _)
      split
      · exact ht
      · have hheat (b : Bool) : ContextsKept (if b then t else t.addHeat (l.pline * 64)) s := by
          split
          · exact ht
          · exact (t.setHeat_contextsKept _ _).trans ht
        split <;> (next hp => exact (ContextsKept.of_pair hp (State.performAt_contextsKept _ _ _ _)).trans (hheat _))
    next t lat heq =>
      have ht : ContextsKept t s := .of_triple heq (hfound _)
      split
      · exact ht
      · split
        · split <;> (next hp => exact (ContextsKept.of_pair hp (State.performAt_contextsKept _ _ _ _)).trans ht)
        · split
          · split <;> (next hp => exact (ContextsKept.of_pair hp (State.performAt_contextsKept _ _ _ _)).trans ht)
          · split
            · exact ht
            · exact (State.setHeat_contextsKept _ _ _).trans ht

/-! Requests that go on (R73, R87, R125). -/

theorem State.answer_contextsKept (s : State) (id : Nat) (r : Req) (delay : Nat) : ContextsKept (s.answer id r delay) s := by
  unfold State.answer
  dsimp only
  split <;> exact .ofCores rfl rfl

theorem State.startFill_contextsKept (s : State) (id : Nat) (r : Req) (e : Elem) (slice : Nat) (t : Trans) (lat : Nat) :
    ContextsKept (s.startFill id r e slice t lat) s := by
  unfold State.startFill
  split <;> exact .ofCores rfl rfl

theorem State.advance_contextsKept (s : State) (id : Nat) (direct : Option Fill) (lat fuel : Nat) :
    ContextsKept (s.advance id direct lat fuel) s := by
  induction fuel generalizing s lat with
  | zero => exact .refl s
  | succ fuel ih =>
    unfold State.advance
    split
    · exact .refl s
    next r _ =>
      split
      · split
        · exact s.answer_contextsKept _ _ _
        · exact .ofCores rfl rfl
      next e _ =>
        have hs := s.serve_contextsKept r e direct
        split
        next v bad t l heq =>
          have ht : ContextsKept t s := .of_triple heq hs
          have he (b : Bool) (k c : Nat) : ContextsKept (if b then t.countErr k c else t) s := by
            split
            · exact ht.sameCores rfl rfl
            · exact ht
          exact (ih _ _).trans ((he _ _ _).sameCores rfl rfl)
        next c t l heq =>
          have ht : ContextsKept t s := .of_triple heq hs
          dsimp only
          split
          · exact (ih _ _).trans (ht.sameCores rfl rfl)
          · exact (State.answer_contextsKept _ _ _ _).trans (ht.sameCores rfl rfl)
        next t l heq => exact (State.startFill_contextsKept _ _ _ _ _ _ _).trans (.of_triple heq hs)
        next t _ heq => exact (ContextsKept.of_triple heq hs).sameCores rfl rfl

theorem State.retryHeld_contextsKept (s : State) : ContextsKept s.retryHeld s :=
  (ContextsKept.foldl (fun t id => t.advance_contextsKept id none 0 200) _ _).trans (.ofCores rfl rfl)

/-! Moves given up (R126, R132). -/

/-- A state after moves have ended: contexts are as before, and where no store was held everything else at rest is too. -/
structure MovesSettled (t s : State) : Prop where
  kept : ContextsKept t s
  rest : s.held = [] → AtRest t s

theorem AtRest.settled {t s : State} (h : AtRest t s) : MovesSettled t s := ⟨h.toContextsKept, fun _ => h⟩

namespace MovesSettled
variable {s t u : State}

theorem refl (s : State) : MovesSettled s s := (AtRest.refl s).settled

theorem trans (h : MovesSettled u t) (g : MovesSettled t s) : MovesSettled u s :=
  ⟨h.kept.trans g.kept, fun hs => (h.rest ((g.rest hs).held.trans hs)).trans (g.rest hs)⟩

theorem foldl {α : Type} {f : State → α → State} (h : ∀ s a, MovesSettled (f s a) s) (l : List α) (s : State) :
    MovesSettled (l.foldl f s) s :=
  List.foldlRecOn (motive := fun t => MovesSettled t s) l _ (.refl s) fun t ht a _ => (h t a).trans ht

end MovesSettled

theorem State.retryHeld_settled (s : State) : MovesSettled s.retryHeld s :=
  ⟨s.retryHeld_contextsKept, fun h => by rw [State.retryHeld_of_none h]; exact .refl s⟩

theorem State.endMove_settled (s : State) (id die : Nat) : MovesSettled (s.endMove id die) s :=
  (State.feedChannels_atRest _ _).settled.trans
    ((State.retryHeld_settled _).trans ((State.cancel_atRest _ _).trans (.ofBooks s _ _ _ _ _ _)).settled)

/-- A move given up at no refusal of its destination. -/
theorem State.dropMove_settled (s : State) (id : Nat) (m : Move) : MovesSettled (s.dropMove id m false) s := by
  unfold State.dropMove
  refine (State.endMove_settled _ _ _).trans ?_
  rw [if_neg Bool.false_ne_true]
  split
  · exact .refl s
  · exact (s.giveFrame_atRest _ _ _ _).settled

theorem State.dropKvMove_settled (s : State) (id : Nat) (m : Move) (k : KvKey) : MovesSettled (s.dropKvMove id m k false) s := by
  unfold State.dropKvMove
  have hmark : MovesSettled (match s.kvLookup (s.quarterOf k.head) k with
      | some h => s.setKvHolder (s.quarterOf k.head) h (eSetMig (s.kvHolder (s.quarterOf k.head) h) false)
      | none => s) s := by
    split
    · exact (s.setKvHolder_atRest _ _ _).settled
    · exact .refl s
  refine (State.retryKv_atRest _).settled.trans (.trans ?_ ((State.dropMove_settled _ id m).trans hmark))
  split
  · exact (State.freeMap_atRest _ _ _).settled
  · exact .refl _

end Sys2Proof.Machine
end
section
/-! SUPPORT. What the requeue of a parked continuation and its wake event leave alone: O47. -/
namespace Sys2Proof.Machine

theorem AtRest.of_pair {α : Type} {s t : State} {p : α × State} {a : α} (he : p = (a, t)) (h : AtRest p.2 s) : AtRest t s := by
  subst he; exact h

theorem Assoc.not_mem_erase {α : Type} (m : Assoc α) (k : Nat) (v : α) : (k, v) ∉ m.erase k := fun h => by
  have hany := List.any_eq_false.mp (Assoc.has_erase m k) _ h
  simp at hany

theorem Assoc.eq_of_mem_put {α : Type} {m : Assoc α} {k : Nat} {v w : α} (h : (k, w) ∈ m.put k v) : w = v := by
  rcases Assoc.mem_insertSorted _ _ _ _ h with he | he
  · exact (Prod.mk.inj he).2
  · exact absurd he (Assoc.not_mem_erase m k w)

/-! Places of KV blocks and moves toward HBM (R97, R103, R122, R134). -/

theorem State.takeFrame_atRest {s t : State} {vf n dst : Nat} (h : s.takeFrame vf n = some (dst, t)) : AtRest t s := by
  unfold State.takeFrame at h
  dsimp only at h
  split at h
  · cases h
  · obtain ⟨-, rfl⟩ := Prod.mk.inj (Option.some.inj h)
    exact s.setPoolCount_atRest _ _ _

theorem State.moveKv_atRest (s : State) (q : KvQ) (k : KvKey) (h : KvHit) (dst tier : Nat) (block park row : Option Nat) :
    AtRest (s.moveKv q k h dst tier block park row) s :=
  (State.addMove_atRest _ _).trans (s.setKvHolder_atRest _ _ _)

theorem State.moveKvToFrame_atRest {s t : State} {q : KvQ} {k : KvKey} {h : KvHit} {tier : Nat} {park row : Option Nat}
    (ht : s.moveKvToFrame q k h tier park row = some t) : AtRest t s := by
  obtain ⟨⟨dst, u⟩, hu, rfl⟩ := Option.map_eq_some_iff.mp ht
  exact (u.moveKv_atRest _ _ _ _ _ _ _ _).trans (State.takeFrame_atRest hu)

theorem State.claim_atRest (s : State) (q : KvQ) (j : Nat) (k : KvKey) (ovf : Bool) (ntok refs : Nat) (parked : Bool) :
    AtRest (s.claim q j k ovf ntok refs parked) s :=
  (State.setHeldBlocks_atRest _ _ _ _).trans (s.setMapEntry_atRest _ _ _)

theorem State.appendRec_atRest {s t : State} {q : KvQ} {gn e loc : Nat} (h : s.appendRec q gn e loc = some t) : AtRest t s := by
  obtain ⟨r, -, rfl⟩ := Option.map_eq_some_iff.mp h
  dsimp only
  split
  · exact (State.setKvHead_atRest _ _ _ _).trans (s.setKvRec_atRest _ _ _ _ _)
  · exact (State.setKvRec_atRest _ _ _ _ _ _).trans (s.setKvRec_atRest _ _ _ _ _)

theorem State.placeBlock_atRest (s : State) (q : KvQ) (k : KvKey) (limit : Bool) (ntok refs : Nat) (parked : Bool) :
    AtRest (s.placeBlock q k limit ntok refs parked).2 s := by
  unfold State.placeBlock
  split
  · exact .refl s
  · split
    · exact s.claim_atRest _ _ _ _ _ _ _
    · split
      · exact .refl s
      · split
        · exact .refl s
        · split
          next h => exact (State.appendRec_atRest h).trans (s.claim_atRest _ _ _ _ _ _ _)
          next => exact .refl s

theorem State.moveKvToHbm_atRest (s : State) (q : KvQ) (k : KvKey) (h : KvHit) (limit : Bool) (park row : Option Nat) :
    AtRest (s.moveKvToHbm q k h limit park row).2 s := by
  unfold State.moveKvToHbm
  dsimp only
  have hp := s.placeBlock_atRest q k limit (eNtok (s.kvHolder q h)) (eRef (s.kvHolder q h)) (bit (s.kvHolder q h) 73)
  split
  next heq => exact .of_pair heq hp
  next heq => exact (State.moveKv_atRest _ _ _ _ _ _ _ _ _).trans (.of_pair heq hp)

theorem State.promoteBlocks_atRest (s : State) (id : Nat) (p : Park) (bs : List (Nat × Nat)) :
    AtRest (s.promoteBlocks id p bs).2 s := by
  induction bs generalizing s p with
  | nil => exact .refl s
  | cons b bs ih =>
    unfold State.promoteBlocks
    split
    · exact ih _ _
    · dsimp only
      split
      · exact ih _ _
      · split
        · have hm := s.moveKvToHbm_atRest ‹KvQ› (s.ownHit ‹KvQ› (p.key b.1 b.2) ‹KvHit›).1 (s.ownHit ‹KvQ› (p.key b.1 b.2) ‹KvHit›).2
            true (some id) none
          split <;> (next heq => exact (ih _ _).trans (.of_pair heq hm))
        · split
          next heq => exact (ih _ _).trans (State.moveKvToFrame_atRest heq)
          next => exact (ih _ _).trans (s.countSkip_atRest _)

/-! The requeue (R132, R213, R468). -/

theorem State.markParked_atRest (s : State) (p : Park) (on : Bool) : AtRest (s.markParked p on) s := by
  refine AtRest.foldl (fun s b => ?_) _ s
  split
  · exact .refl s
  next q h _ =>
    have hrec : AtRest (match h.rec_ with
        | some r => s.setKvRec q r (eSetParked (s.kvRec q r).1 on) (s.kvRec q r).2.1 (s.kvRec q r).2.2
        | none => s) s := by
      split
      · exact s.setKvRec_atRest _ _ _ _ _
      · exact .refl s
    dsimp only
    split
    · exact (State.setMapEntry_atRest _ _ _ _).trans hrec
    · exact hrec

theorem State.lqWrite_atRest (n : Nat) (s : State) (base logn off v : Nat) : AtRest (s.lqWrite base logn off v n) s := by
  induction n generalizing s off v with
  | zero => exact .refl s
  | succ n ih => exact (ih _ _ _).trans (s.physStore_atRest _ _ _)

theorem State.lqPush_atRest {s t : State} {q p : Nat} {e : QRun} {o : Option Nat} (h : s.lqPush q p e o = some t) : AtRest t s := by
  unfold State.lqPush at h
  split at h
  · cases h
  · split at h
    · cases h
    · obtain rfl := Option.some.inj h
      exact (AtRest.ofBooks _ _ _ _ _ _ _).trans ((State.physWrite_atRest _ _ _ _).trans (s.lqWrite_atRest _ _ _ _ _))

/-- A state put in another's place of parks stays as the other is in theirs. -/
theorem AtRest.withParks {t s : State} (h : AtRest t s) (ps : Assoc Park) :
    AtRest { t with parks := ps } { s with parks := ps } :=
  { toContextsKept := ⟨h.cur, h.ctx⟩, clk := h.clk, pkg := h.pkg, held := h.held, tlb := h.tlb, parks := rfl, launches := h.launches,
    lines := h.lines, resetting := h.resetting, queue := h.queue, engines := h.engines }

theorem State.putPark_atRest (s : State) (id : Nat) (p : Park) :
    AtRest (s.putPark id p) { s with parks := s.parks.put id (s.countTiers p) } :=
  State.physWrite_atRest _ _ _ _

/-- The record that leaves the device with its continuation's requeue, and the park that waits for room. -/
def Park.waitsForRoom (p : Park) : Park := { (p.setState 7).retry with pushed := true, todo := [], waiting := [] }

theorem Park.waitsForRoom_state (p : Park) : p.waitsForRoom.state = 7 := (p.setState 7).retry_state.trans (p.setState_state 7)

theorem State.requeue_eq (s : State) (id : Nat) (p : Park) : s.requeue id p =
    match (s.markParked p false).pushPark p with
    | some u => { u with parks := u.parks.erase id }.physWrite (u.countTiers (p.setState 8)).pa 64
        (u.countTiers (p.setState 8)).raw
    | none => (s.markParked p false).putPark id p.waitsForRoom := rfl

/-- A park goes to its queue: its record is gone, or it waits in STATE 7 for room. -/
theorem State.requeue_atRest (s : State) (id : Nat) (p : Park) :
    ∃ ps, AtRest (s.requeue id p) { s with parks := ps } ∧ ∀ q, (id, q) ∈ ps → q.state = 7 := by
  have hm := s.markParked_atRest p false
  rw [State.requeue_eq]
  cases h : (s.markParked p false).pushPark p with
  | some u =>
    have hu := (State.lqPush_atRest h).trans hm
    exact ⟨u.parks.erase id, (State.physWrite_atRest _ _ _ _).trans (hu.withParks _), fun q hq => absurd hq (Assoc.not_mem_erase _ _ _)⟩
  | none =>
    refine ⟨_, (State.putPark_atRest _ _ _).trans (hm.withParks _), fun q hq => ?_⟩
    rw [Assoc.eq_of_mem_put hq, State.countTiers_state, Park.waitsForRoom_state]

theorem State.requeue_contextsKept (s : State) (id : Nat) (p : Park) : ContextsKept (s.requeue id p) s := by
  obtain ⟨ps, h, -⟩ := s.requeue_atRest id p
  exact h.toContextsKept.trans (.ofCores rfl rfl)

/-! Wake events (R132, R134). -/

theorem State.putPark_contextsKept (s : State) (id : Nat) (p : Park) : ContextsKept (s.putPark id p) s :=
  (s.putPark_atRest id p).toContextsKept.trans (.ofCores rfl rfl)

theorem State.promote_contextsKept (s : State) (id : Nat) (p : Park) : ContextsKept (s.promote id p) s := by
  have h := (s.promoteBlocks_atRest id p p.rangeUp).toContextsKept
  unfold State.promote
  dsimp only
  split
  · exact (State.putPark_contextsKept _ _ _).trans h
  · exact (State.requeue_contextsKept _ _ _).trans h

theorem State.dropParkMoves_settled (s : State) (id : Nat) : MovesSettled (s.dropParkMoves id) s := by
  refine MovesSettled.foldl (fun s e => ?_) _ s
  split
  · exact s.dropKvMove_settled _ _ _
  · exact .refl s

theorem State.wakePark_contextsKept (s : State) (id : Nat) : ContextsKept (s.wakePark id) s := by
  unfold State.wakePark
  split
  · exact .refl s
  · split
    · exact s.requeue_contextsKept _ _
    · exact (s.modVf_atRest _ _ rfl).toContextsKept
    · exact (State.promote_contextsKept _ _ _).trans (s.dropParkMoves_settled id).kept

end Sys2Proof.Machine
end
section
/-! SUPPORT. PARK, WAKE, HEAT and MIGR (R391 to R394): O47. -/
namespace Sys2Proof.Machine

/-! An answer of the home (R147, R394). -/

theorem State.acquire_putS_me (u : State) (r : Nat) (w : Word) : (u.acquire.putS r w).me = u.me.setS r w := by
  rw [← u.acquire_me]
  simp [State.putS]

section Answers
variable {s u : State} (hu : ContextsKept u s) (r : Nat) (w : Word)
include hu

theorem ContextsKept.answered_sreg (n : Nat) : (u.acquire.putS r w).me.sreg n = if n = r ∧ r ≠ 0 then w else s.me.sreg n := by
  rw [State.putS_sreg, u.acquire_me, hu.me.as.sreg]

theorem ContextsKept.answered_srGet (n : Nat) (hn : n ≠ rSTAT) : (u.acquire.putS r w).me.srGet n = s.me.srGet n := by
  rw [State.acquire_putS_me, Ctx.srGet_setS]
  exact hu.me.sr n hn

theorem ContextsKept.answered_statBit (i : Nat) (hi : i < 64) (ho : i ≠ bORACE) :
    (u.acquire.putS r w).me.statBit i = s.me.statBit i := by
  rw [State.acquire_putS_me, ← hu.me.stat i hi ho]
  exact Ctx.statBit_of_sr (Ctx.srGet_setS ..) i

/-- What an acquire and a result change of a state whose contexts are as before. -/
theorem ContextsKept.answered_regsKept : RegsKept { regs := [r], stats := [bORACE] } s (u.acquire.putS r w) := by
  have hx := hu.me.as
  have hme := u.acquire_putS_me r w
  constructor
  case scalars =>
    intro n hn
    rw [hu.answered_sreg, if_neg fun h => hn (by simp [h.1])]
  case vectors => intro n _; rw [hme, ← hx.vreg]; simp [Ctx.vreg]
  case masks => intro n _; rw [hme, ← hx.mreg]; simp [Ctx.mreg]
  case accs => intro _; rw [hme, ← hx.acc, ← hx.accSum]; simp
  case fmts => intro n _; rw [hme, ← hx.fent]; simp [Ctx.fent]
  case slots => intro n _; rw [hme, ← hx.guard]; simp [Ctx.guard]
  case srs => exact fun n _ hn => hu.answered_srGet r w n fun h => hn (by simp [h, endRegs])
  case stat => exact fun _ i hi hb => hu.answered_statBit r w i hi fun h => hb (by simp [h])
  case signal => rw [hme, ← hx.signal.1, ← hx.signal.2.1, ← hx.signal.2.2.1, ← hx.signal.2.2.2]; simp

end Answers

/-- An instruction whose work has left the contexts as they were, and whose body ends with a status. -/
theorem answers_done {i : Instr} {f : Form} {cost w : Nat} {s u : State} {body : State → Res} (h : Runs f cost s)
    (he : exec i s = issueCost f cost body s) (hb : body s = kvDone f w u) (hu : ContextsKept u s) : Answers i f s u w := by
  refine (gives_done_of_regs h he hb (u.acquire_cur.trans hu.cur) (hu.answered_regsKept f.d.sreg _)
    (hu.answered_statBit _ _ bSTEP (by decide) (by decide)) (hu.answered_statBit _ _ bWARN (by decide) (by decide))
    fun n hn _ => hu.answered_srGet _ _ n (by unfold rSTAT; omega)).imp fun t ⟨has, hctx, hk, hc⟩ => ⟨fun r => ?_, ?_, hk, ?_, hc⟩
  · rw [hctx.sreg, hu.answered_sreg]
    by_cases hr : r = f.d.sreg
    · subst hr; rfl
    · simp [hr]
  · rw [(has.caches _).1, ((State.putS_kept _ _ _).rest.caches _).1, ← hu.cur, u.acquire_c1]
    rfl
  · exact (u.acquire_memKept.trans (State.putS_kept _ _ _).mem).trans has.memKept

/-! Faults and waits of an instruction that issues so (R147, R414). -/

section Issues
variable {i : Instr} {f : Form} {cost : Nat} {s u : State} {body : State → Res} (h : Runs f cost s)
  (he : exec i s = issueCost f cost body s)
include h he

/-- A body that faults in a state that its checks have left. -/
theorem faults_body {code v : Nat} (hb : body s = .fault u code v) (hl : s.me.loads = []) :
    exec i s = .next (u.enterTrap s.cur.core s.cur.ctx (causeWord code false 0 0 0 0) (BitVec.ofNat 64 v) s.me.pc) :=
  he.trans (issueWith_fault h hl _ _ _ _ hb)

theorem trapsLa_body {e : Flt} (hb : body s = laFault s e) : TrapsLa i s e := faults_body h he hb

theorem waitsForStores_body {rest : State → Res} (hb : body s = asRelease rest s) : WaitsForStores i s := fun hout =>
  gives_held (wt := .acks) h he (hb.trans (asRelease_of_storesOut hout)) rfl

end Issues

/-! WAKE (R392). -/

/-- What a translation and its checks leave of the state: the tables that the dies hold. -/
def Walked (u s : State) : Prop := ∃ l w, u = { s with tlb := l, walks := w }

namespace Walked
variable {s t u : State}

theorem refl (s : State) : Walked s s := ⟨_, _, rfl⟩

theorem trans (h : Walked u t) (g : Walked t s) : Walked u s := by
  obtain ⟨_, _, rfl⟩ := g
  obtain ⟨l, w, rfl⟩ := h
  exact ⟨l, w, rfl⟩

theorem contextsKept (h : Walked u s) : ContextsKept u s := by
  obtain ⟨_, _, rfl⟩ := h
  exact .ofCores rfl rfl

end Walked

theorem State.translate_walked {s u : State} {die asid va k : Nat} {r : Except Nat Trans} (h : s.translate die asid va = (r, u, k)) :
    Walked u s := by
  have he := s.translate_eq die asid va
  rw [h] at he
  exact he

/-- WAKE past its release. -/
def wakeAt (f : Form) (w : Word) (s : State) : Res :=
  match s.checkVa s.me.vf w 1 with
  | .error e => laFault s e
  | .ok (.mesh _ _) => kvDone f kvNOTPARKED s
  | .ok (.virt va) =>
    match s.translate (stkOf s.cur.core) s.me.asid va with
    | (.error c, s, _) => .fault s c w.toNat
    | (.ok t, s, _) =>
      match transFault t .rw va with
      | some c => .fault s c w.toNat
      | none =>
        match if t.fab then none else s.parks.find? (·.2.pa == t.pa va) with
        | none => kvDone f kvNOTPARKED s
        | some (id, _) => kvDone f kvOK (s.wakePark id)

theorem exec_wake (f : Form) (s : State) :
    exec (.wake f) s = issueCost f 40 (fun s => asRelease (wakeAt f (s.me.opAddr f.a)) s) s := rfl

section Wake
variable {f : Form} {s : State} (h : Runs f 40 s)
include h

theorem waitsForStores_wake : WaitsForStores (.wake f) s := waitsForStores_body h (exec_wake f s) rfl

variable (hw : s.relWait = none)
include hw

theorem trapsLa_wake {e : Flt} (he : s.checkVa s.me.vf (s.me.opAddr f.a) 1 = .error e) : TrapsLa (.wake f) s e :=
  trapsLa_body h (exec_wake f s) <| (asRelease_of_none hw).trans <| by rw [wakeAt, he]

theorem answers_wake_mesh {c o : Nat} (he : s.checkVa s.me.vf (s.me.opAddr f.a) 1 = .ok (.mesh c o)) :
    Answers (.wake f) f s s kvNOTPARKED :=
  answers_done h (exec_wake f s) ((asRelease_of_none hw).trans <| by rw [wakeAt, he]) (.refl s)

variable {va k : Nat} {u : State} (he : s.checkVa s.me.vf (s.me.opAddr f.a) 1 = .ok (.virt va))
include he

theorem faults_wake_walk {e : Nat} (ht : s.translate (stkOf s.cur.core) s.me.asid va = (.error e, u, k)) (hl : s.me.loads = []) :
    exec (.wake f) s = .next (u.enterTrap s.cur.core s.cur.ctx (causeWord e false 0 0 0 0) (s.me.opAddr f.a) s.me.pc) := by
  have hb : asRelease (wakeAt f (s.me.opAddr f.a)) s = .fault u e (s.me.opAddr f.a).toNat :=
    (asRelease_of_none hw).trans <| by simp only [wakeAt, he, ht]
  have hf := faults_body h (exec_wake f s) hb hl
  rwa [BitVec.ofNat_toNat, BitVec.setWidth_eq] at hf

variable {t : Trans} (ht : s.translate (stkOf s.cur.core) s.me.asid va = (.ok t, u, k))
include ht

theorem faults_wake_rights {e : Nat} (hx : transFault t .rw va = some e) (hl : s.me.loads = []) :
    exec (.wake f) s = .next (u.enterTrap s.cur.core s.cur.ctx (causeWord e false 0 0 0 0) (s.me.opAddr f.a) s.me.pc) := by
  have hb : asRelease (wakeAt f (s.me.opAddr f.a)) s = .fault u e (s.me.opAddr f.a).toNat :=
    (asRelease_of_none hw).trans <| by simp only [wakeAt, he, ht, hx]
  have hf := faults_body h (exec_wake f s) hb hl
  rwa [BitVec.ofNat_toNat, BitVec.setWidth_eq] at hf

variable (hx : transFault t .rw va = none)
include hx

theorem answers_wake_notParked (hp : t.fab = true ∨ s.parks.find? (·.2.pa == t.pa va) = none) :
    Answers (.wake f) f s u kvNOTPARKED := by
  have hu := State.translate_walked ht
  refine answers_done h (exec_wake f s) ((asRelease_of_none hw).trans ?_) hu.contextsKept
  obtain ⟨_, _, rfl⟩ := hu
  simp only [wakeAt, he, ht, hx]
  rcases hp with hp | hp <;> simp [hp]

theorem answers_wake_parked {id : Nat} {p : Park} (hf : t.fab = false) (hp : s.parks.find? (·.2.pa == t.pa va) = some (id, p)) :
    Answers (.wake f) f s (u.wakePark id) kvOK := by
  have hu := State.translate_walked ht
  refine answers_done h (exec_wake f s) ((asRelease_of_none hw).trans ?_) ((u.wakePark_contextsKept id).trans hu.contextsKept)
  obtain ⟨_, _, rfl⟩ := hu
  simp [wakeAt, he, ht, hx, hf, hp]

end Wake

/-! Named pages, HEAT and MIGR (R121 to R123, R393). -/

theorem State.pageOf_walked {s u : State} {core asid va : Nat} {r : Except Nat Trans} (h : s.pageOf core asid va = (r, u)) :
    Walked u s := by
  unfold State.pageOf at h
  split at h
  next ht =>
    obtain ⟨-, rfl⟩ := Prod.mk.inj h
    exact State.translate_walked ht
  next ht =>
    have hw := State.translate_walked ht
    split at h
    · obtain ⟨-, rfl⟩ := Prod.mk.inj h
      exact hw
    · split at h <;>
      · obtain ⟨-, rfl⟩ := Prod.mk.inj h
        exact hw

theorem State.namedPage_walked {s u : State} {w : Word} {r : Except Flt Trans} (h : s.namedPage w = (r, u)) : Walked u s := by
  unfold State.namedPage at h
  split at h
  · obtain ⟨-, rfl⟩ := Prod.mk.inj h
    exact .refl _
  · obtain ⟨-, rfl⟩ := Prod.mk.inj h
    exact .refl _
  · split at h <;>
    · next hp =>
      obtain ⟨-, rfl⟩ := Prod.mk.inj h
      exact State.pageOf_walked hp

theorem State.register_eq (s : State) (asid : Nat) (t : Trans) : ∃ r, s.register asid t = { s with regs := r } := by
  unfold State.register
  split
  · exact ⟨_, rfl⟩
  · exact ⟨_, rfl⟩

theorem State.regOf_register (s : State) (asid : Nat) (t : Trans) : ((s.register asid t).regOf t).isSome = true := by
  unfold State.register
  split
  · assumption
  · unfold State.regOf
    rw [Assoc.find?_put_self]
    rfl

/-- The registrations that HEAT leaves under b (R127, R393). -/
def State.heatRegs (s : State) (t : Trans) (b : Nat) : State :=
  if t.fab || b == 0 then s else if b == 1 then s.register s.me.asid t
  else { s with regs := s.regs.erase (regKey t.tier t.base) }

theorem State.heatRegs_eq (s : State) (t : Trans) (b : Nat) : ∃ r, s.heatRegs t b = { s with regs := r } := by
  unfold State.heatRegs
  split
  · exact ⟨_, rfl⟩
  · split
    · exact s.register_eq _ _
    · exact ⟨_, rfl⟩

/-- HEAT at issue. -/
def heatBody (f : Form) (s : State) : Res :=
  let b := (s.me.opU f.b).toNat
  let w := s.me.opAddr f.a
  if 2 < b then illegal s f 2
  else match s.namedPage w with
    | (.error e, s) => .fault s e.1 e.2
    | (.ok t, s) => .done ((s.heatRegs t b).putS f.d.sreg (BitVec.ofNat 64 ((s.heatRegs t b).heatWord t (w.toNat % 2 ^ 56))))

theorem exec_heat (f : Form) (s : State) : exec (.heat f) s = issueCost f 40 (heatBody f) s := rfl

/-- MIGR past its release. -/
def migrAt (f : Form) (b : Nat) (s : State) : Res :=
  match s.namedPage (s.me.opAddr f.a) with
  | (.error e, s) => .fault s e.1 e.2
  | (.ok t, s) => kvDone f (s.migrate s.me.asid t b).1 (s.migrate s.me.asid t b).2

/-- MIGR at issue. -/
def migrBody (f : Form) (s : State) : Res :=
  if 2 < (s.me.opU f.b).toNat then illegal s f 2 else asRelease (migrAt f (s.me.opU f.b).toNat) s

theorem exec_migr (f : Form) (s : State) : exec (.migr f) s = issueCost f 40 (migrBody f) s := rfl

/-- Completion leaves the registrations of pages. -/
theorem State.after_regs (s : State) (cost : Nat) (warns : Bool) (npc : Word) (t : State) :
    (s.after cost warns npc t).regs = t.regs := by
  obtain ⟨_, _, hp⟩ := t.payCore_eq s.cur.core s.cur.ctx cost
  unfold State.after
  rw [hp]
  cases warns <;> rfl

/-- An instruction that writes its scalar destination in a state that its work has left, contexts and memory being as they were. -/
theorem gives_putS_of_work {i : Instr} {f : Form} {cost : Nat} {s u : State} {w : Word} {body : State → Res} (h : Runs f cost s)
    (he : exec i s = issueCost f cost body s) (hb : body s = .done (u.putS f.d.sreg w)) (hc : u.cur = s.cur) (hx : u.me = s.me)
    (hm : MemKept s u) : Gives i s fun v => Result f w s v ∧ v.regs = u.regs ∧ RegsKept { regs := [f.d.sreg] } s v ∧ MemKept s v ∧
      Completed (s.plainWarn f) (s.fall f) s v := by
  have hme : (u.putS f.d.sreg w).me = (s.putS f.d.sreg w).me := by
    unfold State.putS
    rw [State.me_modMe, State.me_modMe, hx]
  have hset : (u.putS f.d.sreg w).me = s.me.setS f.d.sreg w := by rw [hme]; exact State.me_modMe _ _
  have hkept : RegsKept { regs := [f.d.sreg] } s (u.putS f.d.sreg w) := by
    have hp := (s.putS_kept f.d.sreg w).regs
    constructor <;> rw [hme]
    exacts [hp.scalars, hp.vectors, hp.masks, hp.accs, hp.fmts, hp.slots, hp.srs, hp.stat, hp.signal]
  have has := State.after_as s cost (s.plainWarn f) (s.fall f) (u.putS f.d.sreg w) hc
  refine ⟨s.after cost (s.plainWarn f) (s.fall f) (u.putS f.d.sreg w), ?_, fun r => ?_, State.after_regs _ _ _ _ _,
    State.after_regsKept _ _ _ _ _ _ hc hkept, (hm.trans (u.putS_kept f.d.sreg w).mem).trans has.memKept,
    State.after_completed _ _ _ _ _ hc (by rw [hset]; simp [Ctx.statBit]) fun n _ _ => by rw [hset]; simp⟩
  · rw [he]
    unfold issueCost
    rw [issueWith_done h (scalarWarn f false) false noReport hb hc (by rw [hset]; simp [Ctx.statBit])]
    simp [State.plainWarn]
  · rw [State.me_eq (has.cur.trans hc), has.me.sreg, ← State.me_eq (t := u.putS f.d.sreg w) hc, hme, State.putS_sreg]
    by_cases hr : r = f.d.sreg
    · subst hr; rfl
    · simp [hr]

section HeatMigr
variable {f : Form} {s : State} (h : Runs f 40 s)
include h

theorem traps_heat (hb : 2 < (s.me.opU f.b).toNat) : Traps (.heat f) s cILLEGAL (parcelAt s f 2) :=
  traps_fault h (exec_heat f s) (if_pos hb)

theorem traps_migr (hb : 2 < (s.me.opU f.b).toNat) : Traps (.migr f) s cILLEGAL (parcelAt s f 2) :=
  traps_fault h (exec_migr f s) (if_pos hb)

variable (hb : (s.me.opU f.b).toNat ≤ 2)
include hb

theorem waitsForStores_migr : WaitsForStores (.migr f) s := waitsForStores_body h (exec_migr f s) (if_neg (by omega))

theorem faults_heat {u : State} {e : Flt} (hn : s.namedPage (s.me.opAddr f.a) = (.error e, u)) (hl : s.me.loads = []) :
    exec (.heat f) s =
      .next (u.enterTrap s.cur.core s.cur.ctx (causeWord e.1 false 0 0 0 0) (BitVec.ofNat 64 e.2) s.me.pc) := by
  refine faults_body h (exec_heat f s) ?_ hl
  unfold heatBody
  simp only [if_neg (show ¬ 2 < (s.me.opU f.b).toNat by omega), hn]

theorem faults_migr {u : State} {e : Flt} (hn : s.namedPage (s.me.opAddr f.a) = (.error e, u)) (hw : s.relWait = none)
    (hl : s.me.loads = []) : exec (.migr f) s =
      .next (u.enterTrap s.cur.core s.cur.ctx (causeWord e.1 false 0 0 0 0) (BitVec.ofNat 64 e.2) s.me.pc) := by
  refine faults_body h (exec_migr f s) ?_ hl
  rw [migrBody, if_neg (by omega), asRelease_of_none hw, migrAt, hn]

variable {t : Trans} {u : State} (hn : s.namedPage (s.me.opAddr f.a) = (.ok t, u))
include hn

theorem gives_heat : ∃ reg : Bool, Gives (.heat f) s fun v =>
    Result f (BitVec.ofNat 64 (t.tier * 2 ^ 16 + reg.toNat * 2 ^ 18 +
      (if t.fab = true ∨ t.tier = 2 then 2 ^ 63 else s.heat.get (t.pa ((s.me.opAddr f.a).toNat % 2 ^ 56) / 65536) 0))) s v ∧
    (t.fab = true → reg = false ∧ v.regs = s.regs) ∧
    (t.fab = false → (v.regOf t).isSome = reg ∧ ((s.me.opU f.b).toNat = 0 → v.regs = s.regs) ∧
      ((s.me.opU f.b).toNat = 1 → reg = true) ∧
      ((s.me.opU f.b).toNat = 2 → v.regs = s.regs.erase (regKey t.tier t.base))) ∧
    RegsKept { regs := [f.d.sreg] } s v ∧ MemKept s v ∧ Completed (s.plainWarn f) (s.fall f) s v := by
  obtain ⟨l, w, rfl⟩ := State.namedPage_walked hn
  obtain ⟨b, hbe⟩ : ∃ b, (s.me.opU f.b).toNat = b := ⟨_, rfl⟩
  obtain ⟨x, hx⟩ : ∃ x, ({ s with tlb := l, walks := w } : State).heatRegs t b = x := ⟨_, rfl⟩
  have hbody : heatBody f s = .done (x.putS f.d.sreg (BitVec.ofNat 64 (x.heatWord t ((s.me.opAddr f.a).toNat % 2 ^ 56)))) := by
    unfold heatBody
    simp only [if_neg (show ¬ 2 < (s.me.opU f.b).toNat by omega), hn]
    rw [hbe, hx]
  obtain ⟨r, hr⟩ := ({ s with tlb := l, walks := w } : State).heatRegs_eq t b
  rw [hx] at hr
  have hregs (v : State) (hv : v.regs = x.regs) : v.regOf t = x.regOf t := by unfold State.regOf; rw [hv]
  have hword (va : Nat) : x.heatWord t va = t.tier * 2 ^ 16 + (!t.fab && (x.regOf t).isSome).toNat * 2 ^ 18 +
      (if t.fab = true ∨ t.tier = 2 then 2 ^ 63 else s.heat.get (t.pa va / 65536) 0) := by
    have hh : x.heat = s.heat := by rw [hr]
    unfold State.heatWord
    rw [hh]
    by_cases hc : t.fab = true ∨ t.tier = 2
    · rw [if_pos hc, if_pos (by simpa using hc)]
    · rw [if_neg hc, if_neg (by simpa using hc)]
      omega
  refine ⟨!t.fab && (x.regOf t).isSome, (gives_putS_of_work h (exec_heat f s) hbody (by rw [hr]) (by rw [hr]; rfl)
    (by rw [hr]; exact .of_eq rfl rfl rfl rfl)).imp fun v ⟨hres, hv, hk, hm, hd⟩ =>
      ⟨by rw [← hword]; exact hres, fun hf => ⟨by simp [hf], ?_⟩, fun hf => ⟨by simp [hf, hregs v hv], fun h0 => ?_, fun h1 => ?_,
        fun h2 => ?_⟩, hk, hm, hd⟩⟩
  · rw [hv, ← hx, State.heatRegs, if_pos (by simp [hf])]
  · rw [hv, ← hx, State.heatRegs, if_pos (by simp [← hbe, h0])]
  · have hreg : x = ({ s with tlb := l, walks := w } : State).register s.me.asid t := by
      rw [← hx, State.heatRegs, if_neg (by simp [hf, ← hbe, h1]), if_pos (by simp [← hbe, h1])]
      rfl
    rw [hf, hreg, State.regOf_register]
    rfl
  · rw [hv, ← hx, State.heatRegs, if_neg (by simp [hf, ← hbe, h2]), if_neg (by simp [← hbe, h2])]

/-- MIGR answers what the migration engine does with the page. -/
theorem answers_migr (hw : s.relWait = none) {st : Nat} {v : State} (hm : u.migrate s.me.asid t (s.me.opU f.b).toNat = (st, v))
    (hv : ContextsKept v u) : Answers (.migr f) f s v st := by
  have hu := State.namedPage_walked hn
  refine answers_done h (exec_migr f s) ?_ (hv.trans hu.contextsKept)
  have hx : u.me = s.me := by obtain ⟨_, _, rfl⟩ := hu; rfl
  rw [migrBody, if_neg (by omega), asRelease_of_none hw, migrAt, hn]
  simp only [hx, hm]

end HeatMigr

theorem State.register_contextsKept (s : State) (asid : Nat) (t : Trans) : ContextsKept (s.register asid t) s := by
  obtain ⟨r, hr⟩ := s.register_eq asid t
  rw [hr]
  exact .ofCores rfl rfl

theorem State.movePage_atRest {s m : State} {r : RegPage} {srcTier src dstTier : Nat} {row : Option Nat}
    (h : s.movePage r srcTier src dstTier row = some m) : AtRest m s := by
  unfold State.movePage at h
  dsimp only at h
  split at h
  · cases h
  next ht =>
    obtain rfl := Option.some.inj h
    exact (State.addMove_atRest _ _).trans (State.takeFrame_atRest ht)

end Sys2Proof.Machine
end
section
/-! SUPPORT. PARK and the end of a parked routine (R129 to R131, R186, R391): O47. -/
namespace Sys2Proof.Machine

/-! A routine's last instruction completes. -/

/-- A state as another but for the contexts of a core, what it has drawn and issued and its first-level lines, with the parks and the
operations of engines the other's. -/
structure CoreGoesOn (n : Nat) (t s : State) : Prop where
  ops : t.ops = s.ops
  parks : t.parks = s.parks
  core : ∃ cs c1 p h l, t.core n = { s.core n with ctxs := cs, c1 := c1, purse := p, hold := h, lastCtx := l }

namespace CoreGoesOn
variable {n : Nat} {s t u : State}

theorem trans (h : CoreGoesOn n u t) (g : CoreGoesOn n t s) : CoreGoesOn n u s where
  ops := h.ops.trans g.ops
  parks := h.parks.trans g.parks
  core := by
    obtain ⟨cs, c1, p, hd, l, ht⟩ := h.core
    obtain ⟨_, _, _, _, _, hs⟩ := g.core
    exact ⟨cs, c1, p, hd, l, by rw [ht, hs]⟩

theorem ofCtx (s : State) (n m c : Nat) (g : Ctx → Ctx) : CoreGoesOn n (s.modCtx m c g) s where
  ops := rfl
  parks := rfl
  core := by
    obtain ⟨cs, hcs⟩ := s.core_setCtx_eq m c n (g (s.ctx m c))
    exact ⟨cs, _, _, _, _, hcs⟩

theorem ofCore (s : State) (n : Nat) (g : Core → Core)
    (h : ∃ cs c1 p h l, g (s.core n) = { s.core n with ctxs := cs, c1 := c1, purse := p, hold := h, lastCtx := l }) :
    CoreGoesOn n (s.modCore n g) s where
  ops := rfl
  parks := rfl
  core := by
    rw [State.core_modCore, if_pos rfl]
    exact h

theorem queue (h : CoreGoesOn n t s) : (t.core n).queue = (s.core n).queue := by
  obtain ⟨_, _, _, _, _, hs⟩ := h.core
  rw [hs]

theorem engineWork (h : CoreGoesOn n t s) (c : Nat) : t.engineWork n c = s.engineWork n c := by
  obtain ⟨_, _, _, _, _, hs⟩ := h.core
  unfold State.engineWork
  rw [hs, h.ops]

end CoreGoesOn

theorem State.acquire_goesOn (s : State) : CoreGoesOn s.cur.core s.acquire s where
  ops := by
    unfold State.acquire State.acquireFor State.dropRemote
    dsimp only
    split <;> rfl
  parks := by
    unfold State.acquire State.acquireFor State.dropRemote
    dsimp only
    split <;> rfl
  core := by
    unfold State.acquire State.acquireFor
    rw [State.dropRemote_core, State.core_modCore, if_pos rfl]
    exact ⟨_, _, _, _, _, rfl⟩

theorem State.payCore_goesOn (s : State) (n c cost : Nat) : CoreGoesOn n (s.payCore n c cost) s := by
  obtain ⟨_, _, h⟩ := s.payCore_eq n c cost
  obtain ⟨cs, p, hd, hc⟩ := s.payCore_core n c cost n
  exact ⟨by rw [h], by rw [h], cs, _, p, hd, _, hc⟩

theorem State.warnIf_goesOn (s : State) (b : Bool) (n : Nat) : CoreGoesOn n (s.warnIf b) s := by
  unfold State.warnIf
  split
  · exact CoreGoesOn.ofCtx s n s.cur.core s.cur.ctx (·.setStat bWARN true)
  · exact ⟨rfl, rfl, _, _, _, _, _, rfl⟩

theorem State.retire_goesOn (s : State) (n c : Nat) (isFmtp : Bool) (npc : Word) : CoreGoesOn n (s.retire n c isFmtp npc) s := by
  unfold State.retire
  exact (CoreGoesOn.ofCore _ n _ ⟨_, _, _, _, _, rfl⟩).trans (.ofCtx s n n c _)

/-- A completed instruction leaves the parks, the core's queue and the engines' work to others. -/
theorem State.after_goesOn (s : State) (cost : Nat) (warns : Bool) (npc : Word) (t : State) :
    CoreGoesOn s.cur.core (s.after cost warns npc t) t :=
  (State.retire_goesOn _ _ _ _ _).trans ((State.warnIf_goesOn _ _ _).trans (t.payCore_goesOn _ _ _))

/-! The end of a routine with nothing left to run (R56, R186). -/

theorem State.offerRecords_of_noQueue {s : State} {n : Nat} (h : (s.core n).queue = none) : s.offerRecords n = s := by
  unfold State.offerRecords
  dsimp only
  rw [h]
  rfl

/-- A context whose routine has ended, without the work of an engine left. -/
def Ctx.ended (x : Ctx) : Ctx := { x with st := .free, block := none, launch := none, idle := true }

/-- The state that a helper's routine leaves with no engine at work, before records are offered. -/
def State.leaveRoutine (s : State) (n c : Nat) : State :=
  ((({ s with svcs := s.svcs.filter (fun (r : Svc) => !(r.core == n && r.ctx == c)),
              pwreqs := s.pwreqs.filter (fun (r : Nat × Nat × Nat × Nat) => !(r.1 == n && r.2.1 == c)),
              pwdone := s.pwdone.filter (fun (r : Nat × Nat × Nat) => !(r.1 == n && r.2.1 == c)) } : State).modCtx n c
    Ctx.ended).modCore n fun k => { k with journal := k.journal.map fun e =>
      if e.2.ctx == c && e.2.state == 1 && !e.2.orphan then (e.1, { e.2 with orphan := true, launch := (s.ctx n c).launch }) else e
    }).modCore n (·.releaseTracks c false)

theorem State.endRoutine_of_idle {s : State} {n c : Nat} (hc : c ≠ 0) (hw : s.engineWork n c = false) :
    s.endRoutine n c false = (s.leaveRoutine n c).offerRecords n := by
  have hrun (a : List Svc) (b : List (Nat × Nat × Nat × Nat)) (d : List (Nat × Nat × Nat)) :
      ({ s with svcs := a, pwreqs := b, pwdone := d } : State).engineWork n c = false := hw
  unfold State.endRoutine
  simp only [Bool.false_eq_true, if_false, beq_iff_eq, hc, hrun]
  rfl

theorem State.leaveRoutine_ctx (s : State) (n c : Nat) : (s.leaveRoutine n c).ctx n c = (s.ctx n c).ended := by
  unfold State.leaveRoutine
  rw [State.ctx_modCore, if_pos rfl]
  show ((_ : State).core n).ctx c = _
  rw [State.core_modCore, if_pos rfl]
  exact State.ctx_modCtx_self _ _ _ _

theorem State.leaveRoutine_queue (s : State) (n c : Nat) : ((s.leaveRoutine n c).core n).queue = (s.core n).queue := by
  unfold State.leaveRoutine
  rw [State.core_modCore, if_pos rfl]
  show ((_ : State).core n).queue = _
  rw [State.core_modCore, if_pos rfl]
  show ((_ : State).core n).queue = _
  rw [State.core_modCtx, if_pos rfl]
  rfl

theorem State.popNext_of_noQueue {s : State} {n c : Nat} (h : (s.core n).queue = none) : s.popNext n c = s := by
  have hq : ((s.modCtx n c fun x => { x with st := .free }).core n).queue = none := by
    rw [State.core_modCtx, if_pos rfl]
    exact h
  have hp : (s.modCtx n c fun x => { x with st := .free }).popHelper n c = s.modCtx n c fun x => { x with st := .free } := by
    unfold State.popHelper State.corePop
    simp only [hq]
    split <;> rfl
  unfold State.popNext
  rw [hp]
  exact if_pos (by rw [State.ctx_modCtx_self]; rfl)

/-- The end of a routine that leaves nothing to run. -/
theorem State.endRoutine_popNext {s : State} {n c : Nat} (hc : c ≠ 0) (hw : s.engineWork n c = false)
    (hq : (s.core n).queue = none) : (s.endRoutine n c false).popNext n c = s.leaveRoutine n c := by
  have hl := (s.leaveRoutine_queue n c).trans hq
  rw [State.endRoutine_of_idle hc hw, State.offerRecords_of_noQueue hl, State.popNext_of_noQueue hl]

/-! The end of a PARK (R391). -/

/-- A PARK that parks, its core having no queue and its engines no work: the routine is over and its status written. -/
theorem gives_endParked {i : Instr} {f : Form} {cost st : Nat} {s y u : State} {body : State → Res} (h : Runs f cost s)
    (he : exec i s = issueCost f cost body s) (hb : body s = endParked f st y) (hl : s.me.loads = []) (hc : s.cur.ctx ≠ 0)
    (hy : AtRest y u) (hu : ContextsKept u s) (hw : u.engineWork s.cur.core s.cur.ctx = false)
    (hq : (u.core s.cur.core).queue = none) : Gives i s fun t =>
      (t.ctx s.cur.core s.cur.ctx).st = .free ∧ (t.ctx s.cur.core s.cur.ctx).launch = none ∧
      (t.ctx s.cur.core s.cur.ctx).sigCount = s.me.sigCount ∧
      (f.d.sreg ≠ 0 → (t.ctx s.cur.core s.cur.ctx).sreg f.d.sreg = BitVec.ofNat 64 st) ∧ t.parks = y.parks := by
  have hk := hy.toContextsKept.trans hu
  obtain ⟨t, ht⟩ : ∃ t, y.acquire.putS f.d.sreg (BitVec.ofNat 64 st) = t := ⟨_, rfl⟩
  have htc : t.cur = s.cur := by rw [← ht]; exact y.acquire_cur.trans hk.cur
  obtain ⟨pc, hpc⟩ : ∃ pc, ((t.payCore s.cur.core s.cur.ctx cost).warnIf (s.plainWarn f)).me.pc = pc := ⟨_, rfl⟩
  obtain ⟨z, hz⟩ : ∃ z, s.after cost (s.plainWarn f) (pc + BitVec.ofNat 64 (formLen f)) t = z := ⟨_, rfl⟩
  have hgo : CoreGoesOn s.cur.core z y := by
    have ha := y.acquire_goesOn
    rw [hk.cur] at ha
    rw [← hz, ← ht]
    exact (State.after_goesOn _ _ _ _ _).trans ((CoreGoesOn.ofCtx y.acquire _ _ _ (·.setS f.d.sreg (BitVec.ofNat 64 st))).trans ha)
  have hzw : z.engineWork s.cur.core s.cur.ctx = false := (hgo.engineWork _).trans (hy.engines _ _ hw)
  have hzq : (z.core s.cur.core).queue = none := hgo.queue.trans ((hy.queue _).trans hq)
  have hx : CtxAs (z.ctx s.cur.core s.cur.ctx) (y.me.setS f.d.sreg (BitVec.ofNat 64 st)) := by
    have has := (State.after_as s cost (s.plainWarn f) (pc + BitVec.ofNat 64 (formLen f)) t htc).me
    rw [hz, ← State.me_eq htc, ← ht, State.acquire_putS_me] at has
    exact has
  refine ⟨z.leaveRoutine s.cur.core s.cur.ctx, ?_, by rw [z.leaveRoutine_ctx]; rfl, by rw [z.leaveRoutine_ctx]; rfl, ?_, fun hd => ?_,
    hgo.parks⟩
  · rw [he]
    unfold issueCost
    rw [issueWith_runs h, hb, ← State.endRoutine_popNext hc hzw hzq, ← hz, ← hpc, ← ht]
    simp only [endParked, hl, List.isEmpty_nil, if_true, hk.cur, State.after, State.plainWarn, Bool.not_false, Bool.and_true]
  · rw [z.leaveRoutine_ctx]
    exact hx.signal.1.trans ((by simp : _ = y.me.sigCount).trans hk.me.as.signal.1)
  · rw [z.leaveRoutine_ctx]
    exact (hx.sreg _).trans (by rw [Ctx.sreg_setS, if_pos ⟨rfl, hd⟩])

end Sys2Proof.Machine
end
section
/-! SUPPORT. PARK (R129 to R132, R391): O47. -/
namespace Sys2Proof.Machine

theorem State.parkPage_walked {s u : State} {w : Word} {al : Nat} {r : Option (Nat × Trans)} (h : s.parkPage w al = (r, u)) :
    Walked u s := by
  unfold State.parkPage at h
  split at h
  · split at h <;>
    · next ht =>
      obtain ⟨-, rfl⟩ := Prod.mk.inj h
      exact State.translate_walked ht
  · obtain ⟨-, rfl⟩ := Prod.mk.inj h
    exact .refl _

/-- PARK at issue. -/
def parkBody (f : Form) (s : State) : Res :=
  match readStallRec s (s.me.opAddr f.b) 32 with
  | .error e => laFault s e
  | .ok (_, req) => asRelease (park f req) s

theorem exec_park (f : Form) (s : State) : exec (.park f) s = issueCost f 56 (helperOnly (parkBody f)) s := rfl

/-- The park that a PARK makes of the record and the wake word that it names. -/
def State.newPark (s : State) (req rva : Nat) (rt : Trans) (wva : Nat) (wt : Trans) (lrec : Nat) : Park :=
  ⟨rt.pa rva, parkRecord req (s.me.sreg 62).toNat s.me.asid lrec, s.me.vf, s.me.launch, s.cur.core, wt.pa wva,
    wt.slice s.cur.core s.me.asid wva, 2, s.clk, [], [], false, 0⟩

/-- A park entered with its next millisecond due. -/
def State.enterPark (s : State) (p : Park) : State :=
  let t := s.fresh.2.later msCycles .parkAgeTick
  { t with parks := t.parks.put s.nextId p }

/-- A park that waits for its wake event. -/
def State.parkWaits (s : State) (p : Park) : State :=
  let t := ((s.enterPark p).markParked p true).putPark s.nextId p
  if p.t1 == 0 then t.later 0 (.parkT1Expiry s.nextId) else t

/-- What the request and the record's page must be (R129, R391). -/
def ParkGood (req : Nat) (rt : Trans) : Prop :=
  rt.cls = 3 ∧ canonical (BitVec.ofNat 64 (bits req 0 64)) = true ∧ (BitVec.ofNat 64 (bits req 0 64)).toNat % 4 = 0 ∧
    bits req 185 7 = 0 ∧ bits req 224 32 = 0

theorem parkGood_iff (req : Nat) (rt : Trans) : ¬ ParkGood req rt ↔
    (rt.cls != 3 || !canonical (BitVec.ofNat 64 (bits req 0 64)) || (BitVec.ofNat 64 (bits req 0 64)).toNat % 4 != 0 ||
      bits req 185 7 != 0 || bits req 224 32 != 0) = true := by
  unfold ParkGood
  simp only [Bool.or_eq_true, bne_iff_ne, ne_eq, Bool.not_eq_true', ← Bool.not_eq_true]
  tauto

/-- The record of a context's launch is that of the launch found. -/
theorem launchRec_eq (o : Option Nat) (ls : Assoc Launch) :
    (o.bind fun l => (ls.find? (·.1 == l)).map (·.2.raw)) = (o.bind fun l => ls.find? (·.1 == l)).map (·.2.raw) := by
  cases o <;> rfl

section Checks
variable {f : Form} {s u v : State} {req : Nat} {ra wa : Option (Nat × Trans)} (hra : s.parkPage (s.me.opAddr f.a) 64 = (ra, u))
  (hwa : u.parkPage (extend56 (bits req 64 56)) 8 = (wa, v))
include hra hwa

theorem park_walked : Walked v s := (State.parkPage_walked hwa).trans (State.parkPage_walked hra)

theorem park_of_none (hno : ra = none ∨ wa = none ∨ (s.me.launch.bind fun l => s.launches.find? (·.1 == l)) = none) :
    park f req s = kvDone f kvBADPARK v := by
  unfold park
  simp only [hra, hwa, launchRec_eq]
  rcases hno with rfl | rfl | hl
  · rfl
  · cases ra <;> rfl
  · rw [hl]
    cases ra <;> cases wa <;> rfl

/-- PARK with its pages found and its launch's record at hand. -/
theorem park_of_some {rva wva : Nat} {rt wt : Trans} {l : Nat} {r : Launch} (hr : ra = some (rva, rt)) (hw : wa = some (wva, wt))
    (hl : (s.me.launch.bind fun l => s.launches.find? (·.1 == l)) = some (l, r)) :
    park f req s =
      if rt.cls != 3 || !canonical (BitVec.ofNat 64 (bits req 0 64)) || (BitVec.ofNat 64 (bits req 0 64)).toNat % 4 != 0 ||
        bits req 185 7 != 0 || bits req 224 32 != 0 then kvDone f kvBADPARK v
      else if s.seqParked s.me.vf (bits req 128 32) then kvDone f kvBUSY v
      else if 256 ≤ s.watches (wt.slice s.cur.core s.me.asid wva) then kvDone f kvWATCHFULL v
      else if v.physRead (wt.pa wva) 8 != 0 then
        endParked f kvWOKEN ((v.enterPark (s.newPark req rva rt wva wt r.raw)).requeue s.nextId (s.newPark req rva rt wva wt r.raw))
      else endParked f kvOK (v.parkWaits (s.newPark req rva rt wva wt r.raw)) := by
  obtain ⟨_, _, rfl⟩ := park_walked hra hwa
  unfold park
  simp only [hra, hwa, launchRec_eq, hl, hr, hw, Option.map_some]
  rfl

end Checks

/-! The states of a park made (R130 to R132). -/

theorem State.enterPark_atRest (s : State) (p : Park) : AtRest (s.enterPark p) { s with parks := s.parks.put s.nextId p } :=
  ((State.later_atRest _ _ _).trans (.ofBooks s _ _ _ _ _ _)).withParks _

/-- A park that waits is entered with its record written. -/
theorem State.parkWaits_atRest (s : State) (p : Park) : ∃ ps, AtRest (s.parkWaits p) { s with parks := ps } ∧
    ∃ t : State, (s.nextId, t.countTiers p) ∈ (s.parkWaits p).parks := by
  obtain ⟨t, ht⟩ : ∃ t, (s.enterPark p).markParked p true = t := ⟨_, rfl⟩
  have hm : AtRest t { s with parks := s.parks.put s.nextId p } := by
    rw [← ht]
    exact (State.markParked_atRest _ _ _).trans (s.enterPark_atRest p)
  have hp : AtRest (s.parkWaits p) (t.putPark s.nextId p) := by
    unfold State.parkWaits
    rw [ht]
    dsimp only
    split
    · exact State.later_atRest _ _ _
    · exact .refl _
  refine ⟨_, hp.trans ((t.putPark_atRest _ _).trans (hm.withParks _)), t, ?_⟩
  rw [hp.parks, State.parks_putPark]
  exact List.mem_of_find?_eq_some (Assoc.find?_put_self _ _ _)

/-- A park whose wake word is nonzero is requeued at once. -/
theorem State.enterPark_requeue_atRest (s : State) (p : Park) :
    ∃ ps, AtRest ((s.enterPark p).requeue s.nextId p) { s with parks := ps } ∧
      ∀ q, (s.nextId, q) ∈ ((s.enterPark p).requeue s.nextId p).parks → q.state = 7 := by
  obtain ⟨ps, hr, hq⟩ := (s.enterPark p).requeue_atRest s.nextId p
  exact ⟨ps, hr.trans ((s.enterPark_atRest p).withParks _), fun q hmem => hq q (by rw [hr.parks] at hmem; exact hmem)⟩

/-! The record's words (R129). -/

theorem mul_two_pow_add (x m n : Nat) : x * 2 ^ (m + n) = 2 ^ m * (x * 2 ^ n) := by rw [Nat.pow_add]; ac_rfl

theorem parkRecord_eq (req frame asid lrec : Nat) :
    ∃ r, parkRecord req frame asid lrec = bits req 0 64 + 2 ^ 64 * (frame + 2 ^ 64 * r) := by
  obtain ⟨t1, h1⟩ : ∃ t1, (if bit req 184 then 0 else if bits lrec 320 16 == 0 then 200 else bits lrec 320 16) = t1 := ⟨_, rfl⟩
  obtain ⟨t2, h2⟩ : ∃ t2, (if bits lrec 336 24 == 0 then 10000 else bits lrec 336 24) = t2 := ⟨_, rfl⟩
  have he : parkRecord req frame asid lrec = bits req 0 64 + frame * 2 ^ (64 + 0) + bits req 192 32 * 2 ^ (128 + 0) +
      bits req 64 56 * 2 ^ (128 + 32) + asid * 2 ^ (128 + 88) + bits req 128 32 * 2 ^ (128 + 104) +
      bits req 120 8 * 2 ^ (128 + 136) + bits req 160 24 * 2 ^ (128 + 144) + 2 * 2 ^ (128 + 168) + bits lrec 185 2 * 2 ^ (128 + 172) +
      bits lrec 177 8 * 2 ^ (128 + 174) + t1 * 2 ^ (128 + 184) + t2 * 2 ^ (128 + 200) := by
    simp only [parkRecord, h1, h2, Nat.reduceAdd]
  simp only [mul_two_pow_add, Nat.add_assoc] at he
  rw [he]
  refine ⟨bits req 192 32 * 2 ^ 0 + (bits req 64 56 * 2 ^ 32 + (asid * 2 ^ 88 + (bits req 128 32 * 2 ^ 104 + (bits req 120 8 * 2 ^ 136 +
    (bits req 160 24 * 2 ^ 144 + (2 * 2 ^ 168 + (bits lrec 185 2 * 2 ^ 172 + (bits lrec 177 8 * 2 ^ 174 +
      (t1 * 2 ^ 184 + t2 * 2 ^ 200))))))))), ?_⟩
  omega

theorem parkRecord_code (req frame asid lrec : Nat) : bits (parkRecord req frame asid lrec) 0 64 = bits req 0 64 := by
  obtain ⟨r, hr⟩ := parkRecord_eq req frame asid lrec
  rw [hr]
  unfold bits
  rw [Nat.pow_zero, Nat.div_one, Nat.add_mul_mod_self_left, Nat.div_one, Nat.mod_mod]

theorem parkRecord_frame (req frame asid lrec : Nat) (h : frame < 2 ^ 64) :
    bits (parkRecord req frame asid lrec) 64 64 = frame := by
  obtain ⟨r, hr⟩ := parkRecord_eq req frame asid lrec
  have hb : bits req 0 64 < 2 ^ 64 := Nat.mod_lt _ (by decide)
  rw [hr]
  show (bits req 0 64 + 2 ^ 64 * (frame + 2 ^ 64 * r)) / 2 ^ 64 % 2 ^ 64 = frame
  rw [Nat.add_mul_div_left _ _ (by decide), Nat.div_eq_of_lt hb, Nat.zero_add, Nat.add_mul_mod_self_left, Nat.mod_eq_of_lt h]

/-! PARK (R391). -/

theorem helperOnly_of_helper {s : State} (hc : s.cur.ctx ≠ 0) (body : State → Res) : helperOnly body s = body s := by
  simp [helperOnly, hc]

section Park
variable {f : Form} {s : State} (h : Runs f 56 s)
include h

theorem traps_park_control (hc : s.cur.ctx = 0) : Traps (.park f) s cCTXPERM 0 :=
  traps_fault h (exec_park f s) (by simp [helperOnly, hc])

variable (hc : s.cur.ctx ≠ 0)
include hc

theorem trapsLa_park {e : Flt} (he : readStallRec s (s.me.opAddr f.b) 32 = .error e) : TrapsLa (.park f) s e :=
  trapsLa_body h (exec_park f s) ((helperOnly_of_helper hc _).trans (by rw [parkBody, he]))

variable {vb req : Nat} (hq : readStallRec s (s.me.opAddr f.b) 32 = .ok (vb, req))
include hq

theorem waitsForStores_park : WaitsForStores (.park f) s :=
  waitsForStores_body h (exec_park f s) (rest := park f req) ((helperOnly_of_helper hc _).trans (by rw [parkBody, hq]))

variable (hw : s.relWait = none)
include hw

omit h in
theorem body_park : helperOnly (parkBody f) s = park f req s := by
  rw [helperOnly_of_helper hc _, parkBody, hq]
  exact asRelease_of_none hw

variable {u v : State} {ra wa : Option (Nat × Trans)} (hra : s.parkPage (s.me.opAddr f.a) 64 = (ra, u))
  (hwa : u.parkPage (extend56 (bits req 64 56)) 8 = (wa, v))
include hra hwa

theorem answers_park {st : Nat} (hp : park f req s = kvDone f st v) : Answers (.park f) f s v st :=
  answers_done h (exec_park f s) ((body_park hc hq hw).trans hp) (park_walked hra hwa).contextsKept

variable {rva wva : Nat} {rt wt : Trans} {l : Nat} {r : Launch} (hr : ra = some (rva, rt)) (hwt : wa = some (wva, wt))
  (hlr : (s.me.launch.bind fun l => s.launches.find? (·.1 == l)) = some (l, r)) (hg : ParkGood req rt)
include hr hwt hlr

theorem answers_park_bad (hbad : ¬ ParkGood req rt) : Answers (.park f) f s v kvBADPARK :=
  answers_park h hc hq hw hra hwa <| by rw [park_of_some hra hwa hr hwt hlr, if_pos ((parkGood_iff req rt).mp hbad)]

include hg

theorem answers_park_busy (hb : s.seqParked s.me.vf (bits req 128 32) = true) : Answers (.park f) f s v kvBUSY :=
  answers_park h hc hq hw hra hwa <| by
    rw [park_of_some hra hwa hr hwt hlr, if_neg (fun hn => (parkGood_iff req rt).mpr hn hg), if_pos hb]

variable (hb : s.seqParked s.me.vf (bits req 128 32) = false)
include hb

theorem answers_park_full (hf : 256 ≤ s.watches (wt.slice s.cur.core s.me.asid wva)) : Answers (.park f) f s v kvWATCHFULL :=
  answers_park h hc hq hw hra hwa <| by
    rw [park_of_some hra hwa hr hwt hlr, if_neg (fun hn => (parkGood_iff req rt).mpr hn hg), if_neg (by simp [hb]), if_pos hf]

variable (hf : s.watches (wt.slice s.cur.core s.me.asid wva) < 256)
include hf

omit h in
theorem body_park_parks : helperOnly (parkBody f) s = if v.physRead (wt.pa wva) 8 != 0 then
    endParked f kvWOKEN ((v.enterPark (s.newPark req rva rt wva wt r.raw)).requeue s.nextId (s.newPark req rva rt wva wt r.raw))
    else endParked f kvOK (v.parkWaits (s.newPark req rva rt wva wt r.raw)) := by
  rw [body_park hc hq hw, park_of_some hra hwa hr hwt hlr, if_neg (fun hn => (parkGood_iff req rt).mpr hn hg), if_neg (by simp [hb]),
    if_neg (by omega)]

variable (hl : s.me.loads = []) (hew : s.engineWork s.cur.core s.cur.ctx = false) (hqn : s.myCore.queue = none)
include hl hew hqn

theorem gives_park_woken (hwk : v.physRead (wt.pa wva) 8 ≠ 0) : Gives (.park f) s fun t =>
    (t.ctx s.cur.core s.cur.ctx).st = .free ∧ (t.ctx s.cur.core s.cur.ctx).launch = none ∧
    (t.ctx s.cur.core s.cur.ctx).sigCount = s.me.sigCount ∧
    (f.d.sreg ≠ 0 → (t.ctx s.cur.core s.cur.ctx).sreg f.d.sreg = BitVec.ofNat 64 kvWOKEN) ∧
    ∀ p, (s.nextId, p) ∈ t.parks → p.state = 7 := by
  have hbody := (body_park_parks hc hq hw hra hwa hr hwt hlr hg hb hf).trans (if_pos (by simpa using hwk))
  obtain ⟨_, _, rfl⟩ := park_walked hra hwa
  obtain ⟨ps, hy, hst⟩ := State.enterPark_requeue_atRest ({ s with tlb := _, walks := _ } : State) (s.newPark req rva rt wva wt r.raw)
  refine (gives_endParked h (exec_park f s) hbody hl hc hy (.ofCores rfl rfl) hew hqn).imp
    fun t ⟨h1, h2, h3, h4, hp⟩ => ⟨h1, h2, h3, h4, fun p hm => hst p (by rw [← hp]; exact hm)⟩

theorem gives_park_waits (hwk : v.physRead (wt.pa wva) 8 = 0) : Gives (.park f) s fun t =>
    (t.ctx s.cur.core s.cur.ctx).st = .free ∧ (t.ctx s.cur.core s.cur.ctx).launch = none ∧
    (t.ctx s.cur.core s.cur.ctx).sigCount = s.me.sigCount ∧
    (f.d.sreg ≠ 0 → (t.ctx s.cur.core s.cur.ctx).sreg f.d.sreg = BitVec.ofNat 64 kvOK) ∧
    ∃ x : State, (s.nextId, x.countTiers (s.newPark req rva rt wva wt r.raw)) ∈ t.parks := by
  have hbody := (body_park_parks hc hq hw hra hwa hr hwt hlr hg hb hf).trans (if_neg (by simpa using hwk))
  obtain ⟨_, _, rfl⟩ := park_walked hra hwa
  obtain ⟨ps, hy, x, hx⟩ := State.parkWaits_atRest ({ s with tlb := _, walks := _ } : State) (s.newPark req rva rt wva wt r.raw)
  refine (gives_endParked h (exec_park f s) hbody hl hc hy (.ofCores rfl rfl) hew hqn).imp
    fun t ⟨h1, h2, h3, h4, hp⟩ => ⟨h1, h2, h3, h4, x, by rw [hp]; exact hx⟩

end Park

end Sys2Proof.Machine
end
section
/-! SUPPORT. The statement of PARK, WAKE, HEAT and MIGR: O47. -/
namespace Sys2Proof.Machine

/-! MIGR by what it finds (R121, R122, R126, R129). -/

/-- What MIGR does with a registered page that may move. -/
theorem State.migrate_of_free {u : State} {asid : Nat} {t : Trans} (hf : t.fab = false) (hs : t.size ≤ 0x200000)
    (hm : (u.register asid t).pageMoving t.tier t.base = false) (hp : (u.register asid t).holdsPark t = false) (tier : Nat) :
    u.migrate asid t tier = if t.tier == tier then (kvSAME, u.register asid t)
    else match (u.register asid t).regOf t with
      | none => (kvBUSY, u.register asid t)
      | some (_, r) =>
        match (u.register asid t).movePage r t.tier t.base tier none with
        | none => (kvTIERFULL, u.register asid t)
        | some s => (kvOK, s) := by
  rw [State.migrate, if_neg (by simp [hf]), if_neg (by omega)]
  exact if_neg (by simp [hm, hp])

section Migr
variable {f : Form} {s u : State} {t : Trans} (h : Runs f 40 s) (hb : (s.me.opU f.b).toNat ≤ 2)
  (hn : s.namedPage (s.me.opAddr f.a) = (.ok t, u)) (hw : s.relWait = none)
include h hb hn hw

theorem answers_migr_fabric (hf : t.fab = true) : Answers (.migr f) f s u kvREMOTE :=
  answers_migr h hb hn hw (by rw [State.migrate, if_pos hf]) (.refl u)

variable (hf : t.fab = false)
include hf

theorem answers_migr_large (hs : 0x200000 < t.size) : Answers (.migr f) f s u kvSIZE :=
  answers_migr h hb hn hw (by rw [State.migrate, if_neg (by simp [hf]), if_pos hs]) (.refl u)

variable (hs : t.size ≤ 0x200000)
include hs

theorem answers_migr_busy
    (hm : (u.register s.me.asid t).pageMoving t.tier t.base = true ∨ (u.register s.me.asid t).holdsPark t = true) :
    Answers (.migr f) f s (u.register s.me.asid t) kvBUSY :=
  answers_migr h hb hn hw (by
    rw [State.migrate, if_neg (by simp [hf]), if_neg (by omega)]
    exact if_pos (by simpa using hm)) (u.register_contextsKept _ _)

variable (hm : (u.register s.me.asid t).pageMoving t.tier t.base = false) (hp : (u.register s.me.asid t).holdsPark t = false)
include hm hp

theorem answers_migr_same (ht : t.tier = (s.me.opU f.b).toNat) : Answers (.migr f) f s (u.register s.me.asid t) kvSAME :=
  answers_migr h hb hn hw (by rw [State.migrate_of_free hf hs hm hp, if_pos (by simpa using ht)]) (u.register_contextsKept _ _)

variable (ht : t.tier ≠ (s.me.opU f.b).toNat) {k : Nat} {r : RegPage} (hr : (u.register s.me.asid t).regOf t = some (k, r))
include ht hr

theorem answers_migr_full (hx : (u.register s.me.asid t).movePage r t.tier t.base (s.me.opU f.b).toNat none = none) :
    Answers (.migr f) f s (u.register s.me.asid t) kvTIERFULL :=
  answers_migr h hb hn hw (by
    rw [State.migrate_of_free hf hs hm hp, if_neg (by simpa using ht)]
    simp only [hr, hx]) (u.register_contextsKept _ _)

theorem answers_migr_started {m : State}
    (hx : (u.register s.me.asid t).movePage r t.tier t.base (s.me.opU f.b).toNat none = some m) :
    Answers (.migr f) f s m kvOK :=
  answers_migr h hb hn hw (by
    rw [State.migrate_of_free hf hs hm hp, if_neg (by simpa using ht)]
    simp only [hr, hx]) ((State.movePage_atRest hx).toContextsKept.trans (u.register_contextsKept _ _))

end Migr

/-- Settles O47: the checks of PARK, WAKE and MIGR lead to a status that `answers_done` writes after the acquire, the work of a wake
event, of a requeue and of a move leaving every context but for STAT.ORACE and its counters (`State.wakePark_contextsKept`,
`AtRest`); a PARK that parks ends its routine by `gives_endParked`, and its record is that of `State.newPark`. -/
theorem parkWakeHeatMigr : Obligations.ParkWakeHeatMigr := by
  intro f s w b faults
  refine ⟨fun h => ⟨traps_park_control h, fun hc _ he => trapsLa_park h hc he, fun hc vb req hq =>
      ⟨waitsForStores_park h hc hq, fun hw ra u wa v lr hra hwa hlr => ⟨fun hno => ?_, ?_⟩⟩⟩,
    fun h => ⟨⟨waitsForStores_wake h, fun hb => waitsForStores_migr h hb⟩, fun hb => ⟨traps_heat h hb, traps_migr h hb⟩, fun hw =>
      ⟨fun _ => trapsLa_wake h hw, fun _ _ => answers_wake_mesh h hw, fun va e u k he ht hl => faults_wake_walk h hw he ht hl,
        fun va t u k he ht => ⟨fun e hx hl => faults_wake_rights h hw he ht hx hl, fun hx =>
          ⟨answers_wake_notParked h hw he ht hx, fun id p hf hp => answers_wake_parked h hw he ht hx hf hp⟩⟩⟩,
      fun e u hb hn => ⟨fun hl => faults_heat h hb hn hl, fun hw hl => faults_migr h hb hn hw hl⟩,
      fun t u hb hn => ⟨gives_heat h hb hn, fun hw => ⟨answers_migr_fabric h hb hn hw, answers_migr_large h hb hn hw, fun hf hs =>
        ⟨answers_migr_busy h hb hn hw hf hs, fun hm hp => ⟨answers_migr_same h hb hn hw hf hs hm hp, fun ht k r hr =>
          ⟨answers_migr_full h hb hn hw hf hs hm hp ht hr, fun m => answers_migr_started h hb hn hw hf hs hm hp ht hr⟩⟩⟩⟩⟩⟩⟩
  · exact answers_park h hc hq hw hra hwa (park_of_none hra hwa (by rw [hlr]; exact hno))
  · intro rva rt wva wt l r hr hwt hlr' code good
    rw [hlr'] at hlr
    refine ⟨answers_park_bad h hc hq hw hra hwa hr hwt hlr, answers_park_busy h hc hq hw hra hwa hr hwt hlr,
      answers_park_full h hc hq hw hra hwa hr hwt hlr, ?_⟩
    intro hg hb hf hl _ hew hqn woken
    by_cases hwk : v.physRead (wt.pa wva) 8 = 0
    · refine (gives_park_waits h hc hq hw hra hwa hr hwt hlr hg hb hf hl hew hqn hwk).imp fun t ⟨h1, h2, h3, h4, x, hx⟩ =>
        ⟨h1, h2, h3, by rw [if_neg (fun hn => hn hwk)]; exact h4, fun _ => ⟨_, hx, x.countTiers_state _, rfl, rfl, rfl, rfl, rfl, rfl,
          ?_, ?_⟩, fun hn => absurd hwk hn⟩
      · rw [x.bits_countTiers _ _ _ (by decide)]
        exact parkRecord_code _ _ _ _
      · rw [x.bits_countTiers _ _ _ (by decide)]
        exact parkRecord_frame _ _ _ _ (s.me.sreg 62).isLt
    · exact (gives_park_woken h hc hq hw hra hwa hr hwt hlr hg hb hf hl hew hqn hwk).imp fun t ⟨h1, h2, h3, h4, hx⟩ =>
        ⟨h1, h2, h3, by rw [if_pos hwk]; exact h4, fun hn => absurd hwk hn, fun _ => hx⟩

end Sys2Proof.Machine
end

section
/-! SUPPORT. The end of a function's reset, the resets of the package and bring-up (R433, R453, R454): O53. -/
namespace Sys2Proof.Machine

/-! Maps filtered or changed entry by entry. -/

/-- A key that a filter drops reads the default. -/
theorem Assoc.get_filter_of_dropped {α : Type} (m : Assoc α) (p : Nat × α → Bool) (k : Nat) (d : α) (h : ∀ v, p (k, v) = false) :
    Assoc.get (m.filter p) k d = d :=
  Assoc.get_of_not_mem _ _ _ fun hm => by simpa [h] using (List.mem_filter.mp hm).2

/-- What holds of the default and of every changed value of a key holds of what the key reads. -/
theorem Assoc.get_map_all {α : Type} (m : Assoc α) (g : Nat × α → Nat × α) (hg : ∀ e, (g e).1 = e.1) (k : Nat) (d : α)
    {P : α → Prop} (hd : P d) (h : ∀ v, P (g (k, v)).2) : P (Assoc.get (m.map g) k d) := by
  induction m with
  | nil => exact hd
  | cons e m ih =>
    obtain ⟨j, v⟩ := e
    rw [List.map_cons, show g (j, v) = ((g (j, v)).1, (g (j, v)).2) from rfl, Assoc.get_cons, hg]
    split
    · subst_vars
      exact h v
    · exact ih

/-! The clearing of a function's cores (R433, step 3). -/

/-- Whether a byte lies in a stall of a function's cores. -/
def State.ownsStall (s : State) (v a : Nat) : Bool := inStall a && s.hasCore v ((a - stallBase) / 65536)

theorem State.vfCleared_memByte (s : State) (v a : Nat) :
    memByte (s.vfCleared v).mem a = if s.ownsStall v a then 0 else memByte s.mem a := by
  show Assoc.get (s.mem.filter fun c => !s.ownsStall v c.1) a memDefault = _
  split
  · exact Assoc.get_filter_of_dropped _ _ _ _ fun _ => by simp_all
  · exact Assoc.get_filter _ _ _ _ fun _ => by simp_all

theorem State.ownsStall_stallPa (s : State) (v core o : Nat) (hc : core < numCores) (ho : o < 65536) :
    s.ownsStall v (stallPa core o) = s.hasCore v core := by
  have hin : inStall (stallPa core o) = true := by
    unfold inStall stallPa stallBase stallTop numCores at *
    simp only [Bool.and_eq_true, decide_eq_true_eq]
    omega
  have hcore : (stallPa core o - stallBase) / 65536 = core := by
    unfold stallPa
    omega
  rw [State.ownsStall, hin, hcore, Bool.true_and]

theorem State.vfCleared_core (s : State) (v core : Nat) (h : s.hasCore v core = true) :
    ((s.vfCleared v).core core).ctxs = [] ∧ ((s.vfCleared v).core core).words = [] :=
  Assoc.get_map_all s.cores (fun e => if s.hasCore v e.1 then (e.1, e.2.cleared) else e) (fun e => by split <;> rfl) core
    Core.reset (P := fun k => k.ctxs = [] ∧ k.words = []) ⟨rfl, rfl⟩ fun k => by simp [h, Core.cleared, Core.reset]

theorem State.vfCleared_ctx_other (s : State) (v core c : Nat) (h : s.hasCore v core = false) :
    (s.vfCleared v).ctx core c = s.ctx core c :=
  congrArg (Core.ctx · c) (Assoc.get_map_of_fixed s.cores (fun e => if s.hasCore v e.1 then (e.1, e.2.cleared) else e) core
    (fun e => by split <;> rfl) fun k => by simp [h])

theorem Ctx.sreg_reset (c r : Nat) : (Ctx.reset c).sreg r = 0 := by
  unfold Ctx.sreg
  split <;> rfl

theorem Core.ctx_of_ctxs {k : Core} (h : k.ctxs = []) (c : Nat) : k.ctx c = Ctx.reset c := by rw [Core.ctx, h]; rfl

theorem happens_functionResetDone (s : State) (v : Nat) : Happens (.functionResetDone v) s fun t =>
    (t.vf v).resetting = false ∧ (t.vf v).migSkip = 0 ∧ (t.vf v).migErr = 0 ∧ (t.vf v).wakeDup = 0 ∧ (t.vf v).rqDrop = 0 ∧
    (t.vf v).doneErr = 0 ∧ (t.vf v).lRefuse = 0 ∧
    (∀ core, core < numCores → s.hasCore v core = true →
      (∀ o, o < 65536 → memByte t.mem (stallPa core o) = 0) ∧ (∀ w, (t.core core).words.get w 0 = 0) ∧
      ∀ c r, (t.ctx core c).sreg r = 0 ∧ (t.ctx core c).st = (if c = 0 then .wait else .free)) ∧
    (∀ core c, s.hasCore v core = false → t.ctx core c = s.ctx core c) ∧
    ∀ a, inStall a = false → memByte t.mem a = memByte s.mem a := by
  have hvf : ((s.onEvent (.functionResetDone v)).vfCleared v).vf v = { s.vf v with
      resetting := false, migSkip := 0, migErr := 0, wakeDup := 0, rqDrop := 0, doneErr := 0, lRefuse := 0 } := by
    unfold State.vfCleared
    rw [State.vf_modVf, if_pos rfl]
    rfl
  refine happens_next (t := (s.onEvent (.functionResetDone v)).vfCleared v) rfl ?_
  rw [hvf]
  refine ⟨rfl, rfl, rfl, rfl, rfl, rfl, rfl, fun core hc hv => ⟨fun o ho => ?_, fun w => ?_, fun c r => ?_⟩, fun core c hv => ?_,
    fun a ha => ?_⟩
  · rw [State.vfCleared_memByte, State.ownsStall_stallPa _ _ _ _ hc ho]
    exact if_pos hv
  · rw [(State.vfCleared_core (s.onEvent (.functionResetDone v)) v core hv).2]
    rfl
  · rw [State.ctx, Core.ctx_of_ctxs (State.vfCleared_core (s.onEvent (.functionResetDone v)) v core hv).1]
    exact ⟨Ctx.sreg_reset c r, by simp [Ctx.reset]⟩
  · exact State.vfCleared_ctx_other _ v core c hv
  · rw [State.vfCleared_memByte, State.ownsStall, ha]
    rfl

/-! Cold and warm resets (R453). -/

theorem State.restart_memByte (s : State) (image a : Nat) :
    memByte (s.restart image).mem a = if inStall a then 0 else memByte s.mem a := by
  show Assoc.get (s.mem.filter fun c => !inStall c.1) a memDefault = _
  split
  · exact Assoc.get_filter_of_dropped _ _ _ _ fun _ => by simp_all
  · exact Assoc.get_filter _ _ _ _ fun _ => by simp_all

/-- An event that restarts the package from an image. -/
theorem happens_restart {e : Event} {s : State} {image : Nat} (he : exec e.instr (s.onEvent e) = .next ((s.onEvent e).restart image)) :
    Happens e s fun t => (∀ a, memByte t.mem a = if inStall a then 0 else memByte s.mem a) ∧ t.flash = s.flash ∧
      t.retired = s.retired ∧ t.pkg = { Pkg.reset with fwImage := image } ∧ t.clk = 0 ∧ t.power = true ∧ t.c2 = [] ∧
      t.launches = [] ∧ (∀ core c r, (t.ctx core c).sreg r = 0 ∧ (t.ctx core c).srGet rTVEC = 0) ∧ (1, Event.bringUpComplete) ∈ t.due :=
  happens_next he ⟨State.restart_memByte _ image, rfl, rfl, rfl, rfl, rfl, rfl, rfl,
    fun _ c r => ⟨Ctx.sreg_reset c r, rfl⟩, List.mem_cons_self⟩

/-! Bring-up (R454). -/

/-- The fields of FWSTAT as bring-up writes it. -/
theorem fwStat_fields (ok : Bool) (n : Nat) (hn : n < 2 ^ 32) :
    (bits ((if ok then 1 else 2) + n * 2 ^ 32) 0 2 = 1 ∨ bits ((if ok then 1 else 2) + n * 2 ^ 32) 0 2 = 2) ∧
      bits ((if ok then 1 else 2) + n * 2 ^ 32) 32 32 = n := by
  unfold bits
  cases ok <;> simp only [Bool.false_eq_true, if_true, if_false] <;> omega

theorem State.bringUp_eq {s : State} (h : bits s.pkg.fwStat 0 2 = 0) : ∃ w n free : Nat,
    ((bits w 0 2 = 1 ∨ bits w 0 2 = 2) ∧ bits w 32 32 = n) ∧
    s.bringUp = { s with free := free, pkg := { s.pkg with fwStat := w, fwVersion := n } } :=
  ⟨_, _, _, fwStat_fields _ _ (Nat.mod_lt (Config.imageVersion s.pkg.fwImage s.free) (by decide)),
    by rw [State.bringUp, if_neg (by simpa using h)]⟩

theorem happens_bringUp {s : State} (h : bits s.pkg.fwStat 0 2 = 0) : Happens .bringUpComplete s fun t =>
    (bits t.pkg.fwStat 0 2 = 1 ∨ bits t.pkg.fwStat 0 2 = 2) ∧ bits t.pkg.fwStat 32 32 = t.pkg.fwVersion ∧
      t.pkg.fwImage = s.pkg.fwImage ∧ MemKept s t ∧ ∀ n c, t.ctx n c = s.ctx n c := by
  obtain ⟨w, n, free, ⟨hstat, hversion⟩, hu⟩ := State.bringUp_eq (s := s.onEvent .bringUpComplete) h
  exact happens_next (congrArg Host.Outcome.next hu) ⟨hstat, hversion, rfl, .of_eq rfl rfl rfl rfl, fun _ _ => rfl⟩

theorem happens_bringUp_over {s : State} (h : bits s.pkg.fwStat 0 2 ≠ 0) :
    Happens .bringUpComplete s fun t => t = { s with ev := .bringUpComplete } := by
  have he : exec Event.bringUpComplete.instr (s.onEvent .bringUpComplete) = .next (s.onEvent .bringUpComplete).bringUp := rfl
  have hpkg : (s.onEvent .bringUpComplete).pkg = s.pkg := rfl
  rw [State.bringUp, hpkg, if_pos (by simpa using h)] at he
  exact happens_next he rfl

end Sys2Proof.Machine
end

section
/-! SUPPORT. The reset of a function begins (R433, steps 1 and 2): O53. -/
namespace Sys2Proof.Machine

/-! Step 1: the function's cores halt. -/

/-- A change of the lines of C2 alone. -/
def LinesChanged (t s : State) : Prop := ∃ ls, t = { s with c2 := ls }

theorem LinesChanged.foldl {α : Type} {f : State → α → State} (h : ∀ s a, LinesChanged (f s a) s) (l : List α) (s : State) :
    LinesChanged (l.foldl f s) s :=
  List.foldlRecOn (motive := fun t => LinesChanged t s) l _ ⟨_, rfl⟩ fun t ht a _ => by
    obtain ⟨_, rfl⟩ := ht
    obtain ⟨ls, hls⟩ := h _ a
    exact ⟨ls, hls⟩

theorem State.unpin_lines (s : State) (ps : List (Nat × Nat × Nat)) : LinesChanged (s.unpin ps) s :=
  .foldl (fun s p => by
    split
    · exact ⟨_, rfl⟩
    · exact ⟨_, rfl⟩) ps s

theorem LinesChanged.trans {s t u : State} (h : LinesChanged u t) (g : LinesChanged t s) : LinesChanged u s := by
  obtain ⟨_, rfl⟩ := g
  obtain ⟨ls, rfl⟩ := h
  exact ⟨ls, rfl⟩

theorem State.slotEnded_atRest (s : State) (slot : Nat) : AtRest (s.slotEnded slot) s := by
  have ht (m : Assoc TtRun) : AtRest { s with tt := m } s :=
    { toContextsKept := .ofCores rfl rfl, clk := rfl, pkg := rfl, held := rfl, tlb := rfl, parks := rfl, launches := rfl,
      lines := fun l hl => ⟨l, hl, rfl⟩, resetting := fun _ => rfl, queue := fun _ => rfl, engines := fun _ _ hw => hw }
  unfold State.slotEnded
  split
  · exact .refl s
  · dsimp only
    split
    · exact (State.later_atRest _ _ _).trans (ht _)
    · exact ht _

/-- Context `c` of a core that halts. -/
def Ctx.halted (c : Nat) (x : Ctx) : Ctx :=
  { x with st := if c == 0 then .wait else .free, idle := true, block := none, launch := none, step := none, refusal := false,
           preq := none, fork := none, pending := [] }

/-- The cores of a function halted, the others as they were. -/
def State.haltedCores (s : State) (v : Nat) : Assoc Core := s.cores.map fun e => if s.hasCore v e.1 then (e.1, e.2.halt) else e

theorem State.haltCores_spec {s : State} (v : Nat) (hh : s.held = []) : ∃ x, AtRest (s.haltCores v) x ∧ x.held = [] ∧
    x.clk = s.clk ∧ x.pkg = s.pkg ∧ x.vfs = s.vfs ∧ (∀ e ∈ x.launches, e.2.vf ≠ v) ∧ x.cores = s.haltedCores v := by
  obtain ⟨ls, hls⟩ : LinesChanged ((s.ops.filter fun e => s.hasCore v e.2.core).foldl
      (fun s e => e.2.slicePins.foldl (fun s p => s.unpin p.2) (s.unpin e.2.pinned)) s) s :=
    .foldl (fun s (e : Nat × EngOp) => (LinesChanged.foldl (fun s p => s.unpin_lines p.2) e.2.slicePins _).trans (s.unpin_lines _)) _ s
  unfold State.haltCores
  simp only [hls]
  refine ⟨_, (AtRest.foldl (fun t (e : Nat × TtRun) => t.slotEnded_atRest e.1) _ _).trans
    ((State.retryHeld_settled _).rest ?_), ?_, rfl, rfl, rfl, fun e he => ?_, rfl⟩
  · simp [hh]
  · simp [hh]
  · simpa using (List.mem_filter.mp he).2

theorem State.haltedCores_core (s : State) (v core : Nat) (h : s.hasCore v core = true) :
    ((s.haltedCores v).get core Core.reset).queue = none ∧
      ∀ c, c ≠ 0 → (((s.haltedCores v).get core Core.reset).ctx c).st = .free :=
  Assoc.get_map_all s.cores (fun e => if s.hasCore v e.1 then (e.1, e.2.halt) else e) (fun e => by split <;> rfl) core
    Core.reset (P := fun k => k.queue = none ∧ ∀ c, c ≠ 0 → (k.ctx c).st = .free)
    ⟨rfl, fun c hc => by simp [Core.ctx, Core.reset, Ctx.reset, hc]⟩ fun k => by
      rw [if_pos h]
      refine ⟨rfl, fun c hc => ?_⟩
      exact Assoc.get_map_all k.ctxs (fun e => (e.1, e.2.halted e.1)) (fun _ => rfl) c (Ctx.reset c) (P := fun x => x.st = .free)
        (by simp [Ctx.reset, hc]) fun x => by simp [Ctx.halted, hc]

/-! Step 2: the function's lines, translations, KV entries and parks go. -/

theorem State.freeKv_atRest (s : State) (v : Nat) (q : KvQ) : AtRest (s.freeKv v q) s := by
  have hindex (s : State) : AtRest ((List.range (2 ^ q.logpx)).foldl (fun s i =>
      let pa := q.px + 64 * i
      let e := s.physRead pa 64
      if bits e 80 8 != 0 && bits e 72 6 == v then (s.physWrite pa 64 0).dropRefs (imageBlocks e) else s) s) s := by
    refine AtRest.foldl (fun s i => ?_) _ s
    dsimp only
    split
    · exact (State.dropRefs_atRest _ _).trans (s.physWrite_atRest _ _ _)
    · exact .refl s
  have hrecs (s : State) : AtRest ((List.range q.recs).foldl (fun s r =>
      let (e, loc, _) := s.kvRec q r
      if eState e == esFree || (keyOf e).vf != v then s
      else
        let s := s.removeRec q (q.group (keyOf e)) r
        if eState e == esAlias then (if eTier e == 0 then s.dropRefs [loc] else s)
        else if eTier e == 0 then s
        else s.giveFrame v (eTier e) 65536 (if eTier e == 1 then loc % 2 ^ 31 * 2 ^ 14 else flashAddr loc)) s) s := by
    refine AtRest.foldl (fun s r => ?_) _ s
    dsimp only
    split
    · exact .refl s
    · have hr := s.removeRec_atRest q (q.group (keyOf (s.kvRec q r).1)) r
      split
      · split
        · exact (State.dropRefs_atRest _ _).trans hr
        · exact hr
      · split
        · exact hr
        · exact (State.giveFrame_atRest _ _ _ _ _).trans hr
  have hmap (s : State) : AtRest ((List.range (2 ^ q.logq)).foldl (fun s j =>
      let e := s.mapEntry q j
      if eState e == esFree || (keyOf e).vf != v then s
      else s.setMapEntry q j (if eState e == esRetired then esRetired * 2 ^ 70 else 0)) s) s := by
    refine AtRest.foldl (fun s j => ?_) _ s
    dsimp only
    split
    · exact .refl s
    · exact s.setMapEntry_atRest _ _ _
  exact (State.setHeldBlocks_atRest _ _ _ _).trans ((hmap _).trans ((hrecs _).trans (hindex s)))

/-- The state with a function's lines and translations gone. -/
def State.dropSpaces (s : State) (v : Nat) : State :=
  { s with
    c2 := s.c2.filter fun l => l.asid / 1024 != v, tlb := s.tlb.filter fun t => t.asid / 1024 != v,
    walks := s.walks.filter fun w => w.asid / 1024 != v, icache := s.icache.filter fun e => e.2.1 / 1024 != v,
    cores := s.cores.map fun (e : Nat × Core) =>
      (e.1, { e.2 with c1 := e.2.c1.filter fun l => l.asid / 1024 != v,
                       hints := e.2.hints.filter fun h => h.asid / 1024 != v }) }

/-- Dropping lines and hints leaves a core's contexts and queue. -/
theorem State.dropSpaces_core (s : State) (v n : Nat) :
    ((s.dropSpaces v).core n).ctxs = (s.core n).ctxs ∧ ((s.dropSpaces v).core n).queue = (s.core n).queue := by
  have h := Assoc.get_map_values s.cores (fun k : Core => ({ k with c1 := k.c1.filter fun l => l.asid / 1024 != v,
                                                                    hints := k.hints.filter fun h => h.asid / 1024 != v } : Core))
    n Core.reset
  have hcore : (s.dropSpaces v).core n = { s.core n with c1 := (s.core n).c1.filter fun l => l.asid / 1024 != v,
                                                         hints := (s.core n).hints.filter fun h => h.asid / 1024 != v } := h
  rw [hcore]
  exact ⟨rfl, rfl⟩

/-- What step 2 leaves: the spaces dropped, the moves of KV blocks given up, the parks filtered, and the KV entries freed. -/
theorem State.forgetFunction_spec {s : State} (v : Nat) (hh : s.held = []) : ∃ ps : Assoc Park, (∀ e ∈ ps, e.2.vf ≠ v) ∧
    AtRest (s.forgetFunction v) { s.dropSpaces v with parks := ps } := by
  obtain ⟨t, ht⟩ : ∃ t, ((s.dropSpaces v).moves.filter fun e => e.2.vf == v).foldl (fun s e =>
      match e.2.kind with
      | .kv seq head lblk => s.dropKvMove e.1 e.2 ⟨v, seq, head, lblk⟩ false
      | .page _ _ _ => s) (s.dropSpaces v) = t := ⟨_, rfl⟩
  have hmoves : MovesSettled t (s.dropSpaces v) := by
    rw [← ht]
    refine .foldl (fun s e => ?_) _ _
    split
    · exact s.dropKvMove_settled _ _ _
    · exact .refl s
  have hrest : AtRest t (s.dropSpaces v) := hmoves.rest hh
  refine ⟨t.parks.filter fun e => e.2.vf != v, fun e he => by simpa using (List.mem_filter.mp he).2, ?_⟩
  have hfree (u : State) : AtRest ((List.range 4).foldl (fun s k =>
      match s.kvQ k with
      | some q => s.freeKv v q
      | none => s) u) u := by
    refine AtRest.foldl (fun s k => ?_) _ _
    split
    · exact s.freeKv_atRest _ _
    · exact .refl s
  have hparks := (AtRest.ofMem { t with parks := t.parks.filter fun e => e.2.vf != v } t.mem t.poison t.c2
    (t.wakes.filter fun i => Assoc.has (t.parks.filter fun e => e.2.vf != v) i) fun l hl => ⟨l, hl, rfl⟩).trans (hrest.withParks _)
  unfold State.forgetFunction
  rw [← ht] at hparks ⊢
  exact (hfree _).trans hparks

/-! VFRESET (R39, R433). -/

/-- No context of a core that is being cleared takes a turn (R39). -/
theorem State.mayTurn_of_clearing {s : State} {v core : Nat} (hr : (s.vf v).resetting = true) (hc : s.hasCore v core = true)
    (c : Nat) : s.mayTurn ⟨core, c, .context⟩ = false := by
  have hmem : (v, s.vf v) ∈ s.vfs := by
    by_contra hn
    have hd : s.vf v = Vf.reset := Assoc.get_of_not_mem _ _ _ hn
    rw [hd] at hr
    cases hr
  have hclear : s.clearing core = true := List.any_eq_true.mpr ⟨_, hmem, by simp [hr, hc]⟩
  have hacts : s.ctxActs core c = false := by simp [State.ctxActs, State.coreRuns, hclear]
  simp [State.mayTurn, hacts]

theorem happens_vfreset {s : State} {v : Nat} (hr : (s.vf v).resetting = false) (hh : s.held = []) : Happens (.vfreset v) s fun t =>
    (t.vf v).resetting = true ∧ (s.clk + 2048, Event.functionResetDone v) ∈ t.due ∧ (∀ l ∈ t.c2, l.asid / 1024 ≠ v) ∧
    (∀ e ∈ t.tlb, e.asid / 1024 ≠ v) ∧ (∀ e ∈ t.parks, e.2.vf ≠ v) ∧ (∀ e ∈ t.launches, e.2.vf ≠ v) ∧
    ∀ core c, s.hasCore v core = true → (c ≠ 0 → (t.ctx core c).st = .free) ∧ (t.core core).queue = none ∧
      t.mayTurn ⟨core, c, .context⟩ = false := by
  obtain ⟨r, hre⟩ : ∃ r, (s.onEvent (.vfreset v)).modVf v (fun w => { w with resetting := true }) = r := ⟨_, rfl⟩
  have hrv : (r.vf v).resetting = true := by rw [← hre, State.vf_modVf, if_pos rfl]
  have hclk : r.clk = s.clk := by rw [← hre]; rfl
  have hcore (n : Nat) : r.hasCore v n = s.hasCore v n := by rw [← hre]; rfl
  obtain ⟨x, hx, hxh, hxc, hxp, hxv, hxl, hxk⟩ := State.haltCores_spec (s := r) v (by rw [← hre]; exact hh)
  obtain ⟨ps, hps, hy⟩ := State.forgetFunction_spec (s := r.haltCores v) v (hx.held.trans hxh)
  obtain ⟨t, hte⟩ : ∃ t, ((r.haltCores v).forgetFunction v).later clearCycles (.functionResetDone v) = t := ⟨_, rfl⟩
  have ht : AtRest t { (r.haltCores v).dropSpaces v with parks := ps } := by rw [← hte]; exact (State.later_atRest _ _ _).trans hy
  have hexec : exec (Event.vfreset v).instr (s.onEvent (.vfreset v)) = .next t := by
    rw [← hte, ← hre]
    have hr' : ((s.onEvent (.vfreset v)).vf v).resetting = false := hr
    exact congrArg Host.Outcome.next (if_neg (by simp [hr']))
  have hset : (t.vf v).resetting = true := by
    rw [ht.resetting]
    refine (hx.resetting v).trans ?_
    rw [State.vf, hxv]
    exact hrv
  have hmine (n : Nat) (hn : s.hasCore v n = true) : t.hasCore v n = true := by
    rw [State.hasCore, ht.pkg]
    show bit ((r.haltCores v).pkg.sgMask.get v 0) _ = true
    rw [hx.pkg, hxp]
    exact (hcore n).trans hn
  refine happens_next hexec ⟨hset, ?_, fun l hl => ?_, fun e he => ?_, fun e he => hps e (by rw [ht.parks] at he; exact he),
    fun e he => ?_, fun n c hn => ⟨fun hc => ?_, ?_, t.mayTurn_of_clearing hset (hmine n hn) c⟩⟩
  · have hd := ((r.haltCores v).forgetFunction v).mem_due_later clearCycles (.functionResetDone v)
    have hyc : ((r.haltCores v).forgetFunction v).clk = s.clk := hy.clk.trans (hx.clk.trans (hxc.trans hclk))
    rw [hte, hyc] at hd
    exact hd
  · obtain ⟨m, hm, hlm⟩ := ht.lines l hl
    rw [hlm]
    simpa using (List.mem_filter.mp hm).2
  · rw [ht.tlb] at he
    simpa using (List.mem_filter.mp he).2
  · rw [ht.launches] at he
    have he' : e ∈ (r.haltCores v).launches := he
    rw [hx.launches] at he'
    exact hxl e he'
  · have hk := (State.haltedCores_core r v n ((hcore n).trans hn)).2 c hc
    rw [← hxk] at hk
    have hkept : (t.ctx n c).st = (((r.haltCores v).dropSpaces v).ctx n c).st := (ht.ctx n c).course.2.1
    rw [hkept, State.ctx, Core.ctx, ((r.haltCores v).dropSpaces_core v n).1]
    exact (hx.ctx n c).course.2.1.trans hk
  · have hk := (State.haltedCores_core r v n ((hcore n).trans hn)).1
    rw [← hxk] at hk
    exact (ht.queue n).trans (((r.haltCores v).dropSpaces_core v n).2.trans ((hx.queue n).trans hk))

/-- A function whose reset is under way is not reset again. -/
theorem happens_vfreset_again {s : State} {v : Nat} (hr : (s.vf v).resetting = true) :
    Happens (.vfreset v) s fun t => t = { s with ev := .vfreset v } := by
  have he : (s.onEvent (.vfreset v)).vfReset v = s.onEvent (.vfreset v) := by
    unfold State.vfReset
    exact if_pos hr
  exact happens_next (congrArg Host.Outcome.next he) rfl

end Sys2Proof.Machine
end

section
/-! SUPPORT. Checkpoints (R137 to R139), and the statement of resets and checkpoints: O53. -/
namespace Sys2Proof.Machine

/-! A checkpoint starts (R137, R138). -/

/-- The package registers and the quiesce of a device as another's. -/
def QuiesceKept (t s : State) : Prop := t.pkg = s.pkg ∧ t.quiesced = s.quiesced

theorem QuiesceKept.trans {s t u : State} (h : QuiesceKept u t) (g : QuiesceKept t s) : QuiesceKept u s :=
  ⟨h.1.trans g.1, h.2.trans g.2⟩

theorem QuiesceKept.foldl {α : Type} {f : State → α → State} (h : ∀ s a, QuiesceKept (f s a) s) (l : List α) (s : State) :
    QuiesceKept (l.foldl f s) s :=
  List.foldlRecOn (motive := fun t => QuiesceKept t s) l _ ⟨rfl, rfl⟩ fun t ht a _ => (h t a).trans ht

theorem Stored.quiesceKept {s t : State} (h : Stored t s) : QuiesceKept t s := by
  obtain ⟨⟨_, _, _, _, _, _, rfl⟩, -⟩ := h
  exact ⟨rfl, rfl⟩

/-- One context asked to save into its area, or written there as its slot holds it. -/
def State.askSave (s : State) (p : Nat × Nat) : State :=
  let x := s.ctx p.1 p.2
  if x.st == .free then s
  else if x.st == .saved then
    (savePieces (s.core p.1) p.1 p.2 255 true).foldl (fun s r => s.physWrite (s.ckptArea p.1 p.2 + r.1) r.2.1 r.2.2) s
  else s.modCtx p.1 p.2 fun x => { (x.setStat bPREQ true).srSet rPREQDL 0 with
    preq := some ⟨x.vf, s.ckptArea p.1 p.2, true⟩ }

theorem State.askSave_quiesceKept (s : State) (p : Nat × Nat) : QuiesceKept (s.askSave p) s := by
  unfold State.askSave
  dsimp only
  split
  · exact ⟨rfl, rfl⟩
  · split
    · exact .foldl (fun s r => (s.physWrite_stored _ _ _).quiesceKept) _ s
    · exact ⟨rfl, rfl⟩

theorem State.ckptStart_eq (s : State) : s.ckptStart = if s.quiesced || s.pkg.ckptState == 1 then s
    else if s.flashFree < ckptBytes then { s with pkg := { s.pkg with ckptState := 3 } }
    else allCtxs.foldl State.askSave { s with pkg := { s.pkg with ckptState := 1 } } := rfl

theorem State.ckptStart_of_room {s : State} (hq : s.quiesced = false) (hc : s.pkg.ckptState ≠ 1) (hf : ckptBytes ≤ s.flashFree) :
    s.ckptStart.pkg.ckptState = 1 ∧ s.ckptStart.quiesced = false := by
  obtain ⟨hp, hs⟩ := QuiesceKept.foldl State.askSave_quiesceKept allCtxs { s with pkg := { s.pkg with ckptState := 1 } }
  rw [State.ckptStart_eq, if_neg (by simp [hq, hc]), if_neg (Nat.not_lt.mpr hf), hp, hs]
  exact ⟨rfl, hq⟩

theorem happens_checkpointStart_full {s : State} (hq : s.quiesced = false) (hc : s.pkg.ckptState ≠ 1)
    (hf : s.flashFree < ckptBytes) : Happens .checkpointStart s fun t =>
      t.pkg = { s.pkg with ckptState := 3 } ∧ MemKept s t ∧ ∀ n c, t.ctx n c = s.ctx n c := by
  have he : (s.onEvent .checkpointStart).ckptStart = { s.onEvent .checkpointStart with pkg := { s.pkg with ckptState := 3 } } := by
    have hq' : (s.onEvent .checkpointStart).quiesced = false := hq
    have hc' : (s.onEvent .checkpointStart).pkg.ckptState ≠ 1 := hc
    have hf' : (s.onEvent .checkpointStart).flashFree < ckptBytes := hf
    unfold State.ckptStart
    rw [if_neg (by simp [hq', hc']), if_pos hf']
    rfl
  exact happens_next (congrArg Host.Outcome.next he) ⟨rfl, .of_eq rfl rfl rfl rfl, fun _ _ => rfl⟩

theorem happens_checkpointStart_room {s : State} (hq : s.quiesced = false) (hc : s.pkg.ckptState ≠ 1)
    (hf : ckptBytes ≤ s.flashFree) : Happens .checkpointStart s fun t => t.pkg.ckptState = 1 ∧ t.quiesced = false :=
  happens_next rfl (State.ckptStart_of_room (s := s.onEvent .checkpointStart) hq hc hf)

/-- A checkpoint under way lets neither another nor a restore begin. -/
theorem happens_checkpoint_busy {s : State} (h : s.quiesced = true ∨ s.pkg.ckptState = 1) :
    (Happens .checkpointStart s fun t => t = { s with ev := .checkpointStart }) ∧
      Happens .checkpointRestore s fun t => t = { s with ev := .checkpointRestore } := by
  have hb (e : Event) : ((s.onEvent e).quiesced || (s.onEvent e).pkg.ckptState == 1) = true := by
    show (s.quiesced || s.pkg.ckptState == 1) = true
    simpa using h
  exact ⟨happens_next (congrArg Host.Outcome.next (if_pos (hb .checkpointStart))) rfl,
    happens_next (congrArg Host.Outcome.next (if_pos (hb .checkpointRestore))) rfl⟩

/-! A checkpoint is restored (R139). -/

/-- The clock and the image of a device as another's. -/
def ImageKept (t s : State) : Prop := t.clk = s.clk ∧ t.ckpt = s.ckpt

theorem ImageKept.trans {s t u : State} (h : ImageKept u t) (g : ImageKept t s) : ImageKept u s :=
  ⟨h.1.trans g.1, h.2.trans g.2⟩

theorem ImageKept.of_pair {α : Type} {s t : State} {p : α × State} {a : α} (he : p = (a, t)) (h : ImageKept p.2 s) :
    ImageKept t s := by
  subst he; exact h

theorem State.dropRemote_imageKept (s : State) (core asid : Nat) : ImageKept (s.dropRemote core asid) s := by
  unfold State.dropRemote
  dsimp only
  split <;> exact ⟨rfl, rfl⟩

theorem State.restoreFrom_imageKept (s : State) (vf a : Nat) : ImageKept (s.restoreFrom vf a).2 s := by
  unfold State.restoreFrom
  dsimp only
  split
  · exact ⟨rfl, rfl⟩
  · split
    · exact ⟨rfl, rfl⟩
    · split
      · exact ⟨rfl, rfl⟩
      · split
        · exact ⟨rfl, rfl⟩
        · exact (State.dropRemote_imageKept _ _ _).trans ⟨rfl, rfl⟩

theorem State.ckptContext_imageKept (s : State) (p : Nat × Nat) : ImageKept (s.ckptContext p).2 s := by
  unfold State.ckptContext
  extract_lets area leave h u a
  clear_value a
  split
  · exact ⟨rfl, rfl⟩
  · have hr := (u.restoreFrom_imageKept (bits (areaBytes a 0x18 8) 10 6) a).trans (⟨rfl, rfl⟩ : ImageKept u s)
    split
    next heq =>
      split
      · exact .of_pair heq hr
      · exact ⟨rfl, rfl⟩
    next v heq => exact ImageKept.trans (t := v) ⟨rfl, rfl⟩ (.of_pair heq hr)

theorem State.resumeParks_imageKept (s : State) (ps : Assoc Park) : ImageKept (s.resumeParks ps) s :=
  List.foldlRecOn (motive := fun t => ImageKept t s) ps _ ⟨rfl, rfl⟩ fun _ ht _ _ => ht

theorem State.writeBackImage_imageKept (s : State) (m : Image) : ImageKept (s.writeBackImage m) s :=
  s.resumeParks_imageKept m.parks

theorem ImageKept.foldl {α : Type} {f : Nat × State → α → Nat × State} (h : ∀ r a, ImageKept (f r a).2 r.2) (l : List α)
    (r : Nat × State) : ImageKept (l.foldl f r).2 r.2 :=
  List.foldlRecOn (motive := fun q => ImageKept q.2 r.2) l _ ⟨rfl, rfl⟩ fun q hq a _ => (h q a).trans hq

theorem State.ckptRestore_of_image {s : State} {m : Image} (hq : s.quiesced = false) (hc : s.pkg.ckptState ≠ 1)
    (hm : s.ckpt = some m) : ∃ n u, ImageKept u s ∧ s.ckptRestore =
      { u with quiesced := true, pkg := { u.pkg with ckptState := 1, ckptFail := n } }.later ckptCycles
        .checkpointRestoreDone := by
  unfold State.ckptRestore
  generalize hg : @List.foldl (Nat × State) (Nat × Nat) _ = g
  have hk (r : Nat × State) (ps : List (Nat × Nat)) : ImageKept (g r ps).2 r.2 := by
    rw [← hg]
    refine .foldl (fun r p => ?_) ps r
    split
    next hx => exact .of_pair hx (r.2.ckptContext_imageKept p)
  clear hg
  -- `id` keeps the fold abstract in the proof term: the kernel does not run it over every context.
  revert g
  refine id fun g hk => ?_
  rw [if_neg (by simp [hq, hc]), hm]
  exact ⟨_, _, (hk (0, s.writeBackImage m) allCtxs).trans (s.writeBackImage_imageKept m), rfl⟩

theorem happens_checkpointRestore {s : State} {m : Image} (hq : s.quiesced = false) (hc : s.pkg.ckptState ≠ 1)
    (hm : s.ckpt = some m) : Happens .checkpointRestore s fun t => t.quiesced = true ∧ t.pkg.ckptState = 1 ∧
      (s.clk + ckptCycles, Event.checkpointRestoreDone) ∈ t.due ∧ t.ckpt = s.ckpt := by
  obtain ⟨n, u, ⟨hclk, hckpt⟩, he⟩ := State.ckptRestore_of_image (s := s.onEvent .checkpointRestore) hq hc hm
  have hclk' : u.clk = s.clk := hclk
  refine happens_next (congrArg Host.Outcome.next he) ⟨rfl, rfl, ?_, hckpt⟩
  rw [← hclk']
  exact State.mem_due_later _ _ _

theorem happens_checkpointRestore_none {s : State} (hm : s.ckpt = none) :
    Happens .checkpointRestore s fun t => t = { s with ev := .checkpointRestore } := by
  have he : (s.onEvent .checkpointRestore).ckptRestore = s.onEvent .checkpointRestore := by
    have hm' : (s.onEvent .checkpointRestore).ckpt = none := hm
    unfold State.ckptRestore
    rw [hm']
    split <;> rfl
  exact happens_next (congrArg Host.Outcome.next he) rfl

/-! A checkpoint or its restore ends (R138). -/

/-- A state as another but for the runs of table slots, their skips and what is due. -/
def Retimed (t s : State) : Prop := ∃ tt du sk, t = { s with tt := tt, due := du, pkg := { s.pkg with ttSlot := sk } }

theorem Retimed.trans {s t u : State} (h : Retimed u t) (g : Retimed t s) : Retimed u s := by
  obtain ⟨_, _, _, rfl⟩ := g
  obtain ⟨tt, du, sk, rfl⟩ := h
  exact ⟨tt, du, sk, rfl⟩

theorem Retimed.refl (s : State) : Retimed s s := ⟨_, _, _, rfl⟩

theorem Retimed.foldl {α : Type} {f : State → α → State} (h : ∀ s a, Retimed (f s a) s) (l : List α) (s : State) :
    Retimed (l.foldl f s) s :=
  List.foldlRecOn (motive := fun t => Retimed t s) l _ (.refl s) fun t ht a _ => (h t a).trans ht

theorem State.armSlot_retimed (s : State) (i : Nat) : Retimed (s.armSlot i) s := by
  unfold State.armSlot
  dsimp only
  split <;> exact ⟨_, _, _, rfl⟩

theorem State.retime_retimed (s : State) : Retimed s.retime s := by
  unfold State.retime
  refine (Retimed.foldl (fun s e => ?_) _ _).trans (.foldl (fun s i => ?_) _ s)
  · split <;> exact ⟨_, _, _, rfl⟩
  · dsimp only
    split
    · exact .refl s
    · refine (State.armSlot_retimed _ _).trans ?_
      split <;> exact ⟨_, _, _, rfl⟩

theorem State.unfreeze_kept (s : State) (dt : Nat) : (s.unfreeze dt).quiesced = false ∧
    (s.unfreeze dt).pkg.ckptState = s.pkg.ckptState ∧ MemKept s (s.unfreeze dt) ∧ ∀ n c, (s.unfreeze dt).ctx n c = s.ctx n c := by
  unfold State.unfreeze
  obtain ⟨_, _, _, ht⟩ := State.retime_retimed _
  rw [ht]
  exact ⟨rfl, rfl, .of_eq rfl rfl rfl rfl, fun _ _ => rfl⟩

theorem happens_checkpoint_over {e : Event} {s u : State} (he : exec e.instr (s.onEvent e) = .next (u.unfreeze ckptCycles))
    (hstate : u.pkg.ckptState = 2) (hmem : MemKept s u) (hctx : ∀ n c, u.ctx n c = s.ctx n c) :
    Happens e s fun t => t.quiesced = false ∧ t.pkg.ckptState = 2 ∧ MemKept s t ∧ ∀ n c, t.ctx n c = s.ctx n c := by
  obtain ⟨hquiet, hkept, hbytes, hctxs⟩ := u.unfreeze_kept ckptCycles
  exact happens_next he ⟨hquiet, hkept.trans hstate, hmem.trans hbytes, fun n c => (hctxs n c).trans (hctx n c)⟩

/-! The statement. -/

/-- Settles O53: what the reset of a function, a restart of the package, bring-up and each event of a checkpoint do. -/
theorem resetAndCheckpointEvents : Obligations.ResetAndCheckpointEvents := by
  unfold Obligations.ResetAndCheckpointEvents
  refine ⟨fun s v => ⟨happens_vfreset, happens_vfreset_again, happens_functionResetDone s v⟩, fun s p hp => ?_,
    fun s => ⟨happens_bringUp, happens_bringUp_over, happens_checkpoint_busy, fun hq hc => ⟨happens_checkpointStart_full hq hc,
      happens_checkpointStart_room hq hc, happens_checkpointRestore_none, fun _ => happens_checkpointRestore hq hc⟩,
      fun e he => ?_⟩⟩
  · obtain rfl | rfl : p = (.coldReset, s.pkg.fwImage) ∨ p = (.fwload 0x40000, 0x40001) := by simpa using hp
    · exact happens_restart rfl
    · exact happens_restart rfl
  · obtain rfl | rfl : e = .checkpointDone ∨ e = .checkpointRestoreDone := by simpa using he
    · exact happens_checkpoint_over rfl rfl (.of_eq rfl rfl rfl rfl) fun _ _ => rfl
    · exact happens_checkpoint_over rfl rfl (.of_eq rfl rfl rfl rfl) fun _ _ => rfl

end Sys2Proof.Machine
end

section
/-! SUPPORT. Releases held before they do anything (R143, R147): O16. -/
namespace Sys2Proof.Machine

/-! What a release waits for (R42, R147). -/

theorem State.relWait_of_storesOut {s : State} (h : s.myCore.storesOut s.cur.ctx = true) : s.relWait = some .acks := if_pos h

theorem State.relWait_of_acknowledged {s : State} (h : s.myCore.storesOut s.cur.ctx = false) :
    s.relWait = if s.loadsBefore.isEmpty then none else some (.loads s.loadsBefore) := if_neg (by simp [h])

/-- A load whose requests are not loop-back ones is among those that a release waits for (R42). -/
theorem State.mem_loadsBefore {s : State} {l : Nat × Dst × Word} (hl : l ∈ s.me.loads)
    (hb : ∀ q ∈ s.reqs, q.1 = l.1 → q.2.loopBack = false) : l.1 ∈ s.loadsBefore := by
  have hno : (s.reqs.any fun q => q.1 == l.1 && q.2.loopBack) = false := by
    simp only [List.any_eq_false, Bool.and_eq_true, beq_iff_eq, not_and, Bool.not_eq_true]
    exact hb
  exact List.mem_filter.mpr ⟨List.mem_map_of_mem hl, by rw [hno]; rfl⟩

theorem State.relWait_of_load {s : State} (h : s.myCore.storesOut s.cur.ctx = false) {l : Nat × Dst × Word} (hl : l ∈ s.me.loads)
    (hb : ∀ q ∈ s.reqs, q.1 = l.1 → q.2.loopBack = false) : ∃ ids, s.relWait = some (.loads ids) ∧ l.1 ∈ ids := by
  have hm := State.mem_loadsBefore hl hb
  have hne : s.loadsBefore.isEmpty = false := List.isEmpty_eq_false_iff.mpr (List.ne_nil_of_mem hm)
  exact ⟨s.loadsBefore, by rw [State.relWait_of_acknowledged h, hne]; rfl, hm⟩

theorem State.relWait_of_no_loads {s : State} (h : s.myCore.storesOut s.cur.ctx = false) (hl : s.me.loads = []) : s.relWait = none := by
  rw [State.relWait_of_acknowledged h, State.loadsBefore, hl]; rfl

/-- A release waits as an interlock of a READY context (R205). -/
theorem State.isWait_of_relWait {s : State} {wt : Wait} (h : s.relWait = some wt) : wt.isWait = false := by
  unfold State.relWait at h
  split at h
  · obtain rfl := Option.some.inj h; rfl
  · split at h
    · cases h
    · obtain rfl := Option.some.inj h; rfl

theorem asRelease_of_some {body : State → Res} {s : State} {wt : Wait} (h : s.relWait = some wt) : asRelease body s = .hold s wt 0 := by
  rw [asRelease, h]

/-! Bodies that come to a release. -/

theorem branchTo_of_good {s : State} {pc : Word} (hc : canonical pc = true) (ha : pc.toNat % 4 = 0) : branchTo s pc = .jump s pc := by
  simp [branchTo, hc, ha]

theorem checkedRelease_of_ok {al : Nat} {w : Word} {body : State → Res} {s : State} {p : Place} (h : s.checkVa s.me.vf w al = .ok p) :
    checkedRelease al w body s = asRelease body s := by rw [checkedRelease, h]

/-- START's body. -/
def startBody (f : Form) : State → Res := controlOnly fun s =>
  match branchTo s (s.me.opS f.a) with
  | .jump s code => asRelease (startNamed f code (s.me.opS f.b)) s
  | r => r

theorem exec_start (f : Form) (s : State) : exec (.start f) s = issue f (startBody f) s := rfl

theorem startBody_of_good {f : Form} {s : State} (h0 : s.cur.ctx = 0) (hc : canonical (s.me.opS f.a) = true)
    (ha : (s.me.opS f.a).toNat % 4 = 0) : startBody f s = asRelease (startNamed f (s.me.opS f.a) (s.me.opS f.b)) s := by
  rw [startBody, controlOnly, if_pos (by rw [h0]; rfl), branchTo_of_good hc ha]

/-- SVC's body. -/
def svcBody (f : Form) (s : State) : Res := if 2 ^ 16 ≤ f.b.immU then illegal s f 2 else asRelease (svc f) s

theorem exec_svc (f : Form) (s : State) : exec (.svc f) s = issue f (svcBody f) s := rfl

theorem svcBody_of_legal {f : Form} (s : State) (h : f.b.immU < 2 ^ 16) : svcBody f s = asRelease (svc f) s :=
  if_neg (Nat.not_le.mpr h)

/-- LAUNCH's body. -/
def launchBody (f : Form) (s : State) : Res :=
  let w := s.me.opAddr f.a
  if f.b.isNone then checkedRelease 64 w (launch f w) s
  else if w.toNat % 64 != 0 then .fault s cMISALIGN w.toNat
  else asRelease (launch f w) s

theorem exec_launch (f : Form) (s : State) : exec (.launch f) s =
    issueWith f 4 (scalarWarn f false) false false (fun s => launchReport (s.me.opAddr f.a) s) (launchBody f) s := rfl

theorem launchBody_of_ok {f : Form} {s : State} {p : Place} (hn : f.b = .none) (h : s.checkVa s.me.vf (s.me.opAddr f.a) 64 = .ok p) :
    launchBody f s = asRelease (launch f (s.me.opAddr f.a)) s := by
  rw [launchBody, if_pos (by rw [hn]; rfl), checkedRelease_of_ok h]

theorem launchBody_of_aligned {f : Form} {s : State} (hn : f.b ≠ .none) (h : (s.me.opAddr f.a).toNat % 64 = 0) :
    launchBody f s = asRelease (launch f (s.me.opAddr f.a)) s := by
  have hb : f.b.isNone = false := by
    cases hf : f.b with
    | none => exact absurd hf hn
    | _ => rfl
  rw [launchBody, hb, if_neg Bool.false_ne_true, h]
  rfl

/-- An instruction that an interlock holds before its issue is counted: its context alone notes the wait. -/
theorem gives_interlock {i : Instr} {f : Form} {cost : Nat} {s : State} {wt : Wait} {warns named : Bool} {rep : State → Nat × Nat × Nat}
    {body : State → Res} (h : Runs f cost s) (he : exec i s = issueWith f cost warns named false rep body s)
    (hb : body s = .hold s wt 0) (hw : wt.isWait = false) : Gives i s fun t =>
      (∃ since, t.me.block = some ⟨wt, since, 0⟩) ∧ t.me.pc = s.me.pc ∧ t.me.st = .ready ∧ Kept {} s t := by
  let warn := (warns || (s.me.statBit bPFX && !named)) && wt.timesOut
  have hh := s.holdMe_held wt 0 warn
  refine ⟨s.holdMe wt 0 warn, ?_, hh.me.block, hh.me.pc, ?_, hh.regsKept rfl, hh.restKept rfl, hh.memKept⟩
  · rw [he, issueWith_runs h, hb]
    simp [warn]
  · rw [State.holdMe_interlock _ _ _ hw, State.me_setMe]

/-- Settles O16: each release comes, past the checks that precede it, to its wait, which `gives_interlock` carries out. -/
theorem releasesWaitForStores : Obligations.ReleasesWaitForStores := by
  unfold Obligations.ReleasesWaitForStores
  refine ⟨fun s => ⟨State.relWait_of_storesOut, fun h _ hl hb => State.relWait_of_load h hl hb, State.relWait_of_no_loads⟩,
    fun f s wt h hrel => ?_⟩
  have hw := State.isWait_of_relWait hrel
  have hhold (body : State → Res) : asRelease body s = .hold s wt 0 := asRelease_of_some hrel
  refine ⟨gives_interlock h rfl (hhold _) hw, gives_interlock h rfl (hhold _) hw, fun hc => ⟨?_, ?_⟩, fun h0 hc ha => ?_, fun hb => ?_,
    fun p hp => ⟨?_, ?_⟩, fun hn p hp => ?_, fun hn ha => ?_⟩
  · exact gives_interlock h rfl ((helperOnly_of_helper hc _).trans (hhold _)) hw
  · exact gives_interlock h rfl ((helperOnly_of_helper hc _).trans (hhold _)) hw
  · exact gives_interlock h (exec_start f s) ((startBody_of_good h0 hc ha).trans (hhold _)) hw
  · exact gives_interlock h (exec_svc f s) ((svcBody_of_legal s hb).trans (hhold _)) hw
  · exact gives_interlock h rfl ((checkedRelease_of_ok hp).trans (hhold _)) hw
  · exact gives_interlock h rfl ((checkedRelease_of_ok hp).trans (hhold _)) hw
  · exact gives_interlock h (exec_launch f s) ((launchBody_of_ok hn hp).trans (hhold _)) hw
  · exact gives_interlock h (exec_launch f s) ((launchBody_of_aligned hn ha).trans (hhold _)) hw

end Sys2Proof.Machine
end

section
/-! SUPPORT. The first level as answers arrive, and journals at the end of a held instruction (R69, R146 to R148): O30. -/
namespace Sys2Proof.Machine

/-! Entries taken out of maps. -/

theorem Assoc.find?_erase_self {α : Type} (m : Assoc α) (k : Nat) : (Assoc.erase m k).find? (·.1 == k) = none :=
  List.find?_eq_none.mpr fun e he => by simpa using List.any_eq_false.mp (Assoc.has_erase m k) e he

theorem Assoc.find?_erase_ne {α : Type} (m : Assoc α) {j k : Nat} (h : j ≠ k) :
    (Assoc.erase m k).find? (·.1 == j) = m.find? (·.1 == j) := by
  induction m with
  | nil => rfl
  | cons e m ih =>
    obtain ⟨i, v⟩ := e
    unfold Assoc.erase
    split
    next hi =>
      have hij : (i == j) = false := by
        rw [beq_iff_eq] at hi
        exact beq_eq_false_iff_ne.mpr fun he => h (he.symm.trans hi)
      rw [ih, List.find?_cons, hij]
    next => rw [List.find?_cons, List.find?_cons, ih]

/-- Values of a map changed one by one, each within a relation that holds of the default. -/
theorem Assoc.get_map_related {α : Type} (m : Assoc α) (g : Nat × α → Nat × α) (hg : ∀ e, (g e).1 = e.1) (k : Nat) (d : α)
    {R : α → α → Prop} (hd : R d d) (h : ∀ e, R (g e).2 e.2) : R (Assoc.get (m.map g) k d) (Assoc.get m k d) := by
  induction m with
  | nil => exact hd
  | cons e m ih =>
    obtain ⟨j, v⟩ := e
    rw [List.map_cons, show g (j, v) = ((g (j, v)).1, (g (j, v)).2) from rfl, Assoc.get_cons, Assoc.get_cons, hg]
    split
    · exact h (j, v)
    · exact ih

/-! The first level alone. -/

/-- A state as another but for the lines of first-level caches and lines of remote devices: requests, contexts, journals and every
byte of memory are the other's. -/
structure FirstLevelOnly (t s : State) : Prop where
  reqs : t.reqs = s.reqs
  mem : MemKept s t
  core : ∀ n, ∃ ls, t.core n = { s.core n with c1 := ls }

namespace FirstLevelOnly
variable {s t u : State}

theorem refl (s : State) : FirstLevelOnly s s := ⟨rfl, .refl s, fun _ => ⟨_, rfl⟩⟩

theorem trans (h : FirstLevelOnly u t) (g : FirstLevelOnly t s) : FirstLevelOnly u s where
  reqs := h.reqs.trans g.reqs
  mem := g.mem.trans h.mem
  core n := by
    obtain ⟨ls, hu⟩ := h.core n
    obtain ⟨_, ht⟩ := g.core n
    exact ⟨ls, by rw [hu, ht]⟩

theorem foldl {α : Type} {f : State → α → State} (h : ∀ s a, FirstLevelOnly (f s a) s) (l : List α) (s : State) :
    FirstLevelOnly (l.foldl f s) s :=
  List.foldlRecOn (motive := fun t => FirstLevelOnly t s) l _ (.refl s) fun t ht a _ => (h t a).trans ht

theorem modCore (s : State) (n : Nat) (g : Core → Core) (h : ∃ ls, g (s.core n) = { s.core n with c1 := ls }) :
    FirstLevelOnly (s.modCore n g) s where
  reqs := rfl
  mem := .of_eq rfl rfl rfl rfl
  core m := by
    rw [State.core_modCore]
    split
    next hm => rw [hm]; exact h
    next => exact ⟨_, rfl⟩

theorem ctx (h : FirstLevelOnly t s) (n c : Nat) : t.ctx n c = s.ctx n c := by
  obtain ⟨_, hc⟩ := h.core n
  unfold State.ctx
  rw [hc]
  rfl

theorem journal (h : FirstLevelOnly t s) (n : Nat) : (t.core n).journal = (s.core n).journal := by
  obtain ⟨_, hc⟩ := h.core n
  rw [hc]

end FirstLevelOnly

theorem Core.c1Fill_eq (k : Core) (l : C2Line) (busy : List Nat) : ∃ ls, k.c1Fill l busy = { k with c1 := ls } := by
  unfold Core.c1Fill
  dsimp only
  split <;> exact ⟨_, rfl⟩

theorem State.fillC1_firstLevel (s : State) (core asid : Nat) (lines : List Nat) : FirstLevelOnly (s.fillC1 core asid lines) s :=
  .foldl (fun s vl => by
    split
    · exact .modCore _ _ _ (Core.c1Fill_eq _ _ _)
    · exact .refl s) _ _

theorem State.ownWords_firstLevel (s : State) (core asid : Nat) (es : List Elem) : FirstLevelOnly (s.ownWords core asid es) s :=
  .foldl (fun s e => by
    split
    · exact .modCore _ _ _ ⟨_, rfl⟩
    · exact .refl s) _ _

theorem State.revoke_firstLevel (s : State) (core asid vline : Nat) (ws : List Nat) : FirstLevelOnly (s.revoke core asid vline ws) s :=
  .modCore _ _ _ ⟨_, rfl⟩

theorem State.dropRemote_firstLevel (s : State) (core asid : Nat) : FirstLevelOnly (s.dropRemote core asid) s where
  reqs := by
    unfold State.dropRemote
    dsimp only
    split <;> rfl
  mem := by
    obtain ⟨hm, hp, hf, -⟩ := s.dropRemote_frame core asid
    exact ⟨fun a => by unfold State.physByte; rw [State.dropRemote_lineOf, hm], hp, hf⟩
  core n := by
    unfold State.dropRemote
    dsimp only
    split
    · exact ⟨_, rfl⟩
    · refine Assoc.get_map_related (R := fun k j : Core => ∃ ls, k = { j with c1 := ls }) _ _ (fun e => ?_) n Core.reset ⟨_, rfl⟩
        fun e => ?_
      · split <;> rfl
      · split <;> exact ⟨_, rfl⟩

/-- An acquire clears the first level and drops lines of remote devices (R147, R161). -/
theorem State.acquireFor_firstLevel (s : State) (core c : Nat) : FirstLevelOnly (s.acquireFor core c) s :=
  (State.dropRemote_firstLevel _ _ _).trans (.modCore _ _ _ ⟨_, rfl⟩)

/-! Journals and memory. -/

/-- A state whose journals and memory are another's. -/
structure JournalsKept (t s : State) : Prop where
  journal : ∀ n, (t.core n).journal = (s.core n).journal
  mem : MemKept s t

theorem JournalsKept.refl (s : State) : JournalsKept s s := ⟨fun _ => rfl, .refl s⟩

theorem JournalsKept.trans {s t u : State} (h : JournalsKept u t) (g : JournalsKept t s) : JournalsKept u s :=
  ⟨fun n => (h.journal n).trans (g.journal n), g.mem.trans h.mem⟩

theorem FirstLevelOnly.journalsKept {s t : State} (h : FirstLevelOnly t s) : JournalsKept t s := ⟨h.journal, h.mem⟩

theorem StateAs.journalsKept {n c : Nat} {s t : State} (h : StateAs n c t s) : JournalsKept t s :=
  ⟨fun m => (h.caches m).2, h.memKept⟩

theorem State.setCtx_journalsKept (s : State) (n c : Nat) (x : Ctx) : JournalsKept (s.setCtx n c x) s where
  journal m := by
    obtain ⟨_, h⟩ := s.core_setCtx_eq n c m x
    rw [h]
  mem := .of_eq rfl rfl rfl rfl

theorem State.modCtx_journalsKept (s : State) (n c : Nat) (g : Ctx → Ctx) : JournalsKept (s.modCtx n c g) s :=
  s.setCtx_journalsKept _ _ _

/-- A trap into level 1 sets its context alone (R416). -/
theorem State.enterTrap_journalsKept {s : State} {n c : Nat} (h : (s.ctx n c).tlvl = 0) (cause : Nat) (tval ret : Word) :
    JournalsKept (s.enterTrap n c cause tval ret) s := by
  unfold State.enterTrap
  dsimp only
  rw [if_neg (by omega)]
  exact s.setCtx_journalsKept _ _ _

theorem State.stepTrap_journalsKept (s : State) (n c : Nat) (rep : Nat × Nat × Nat) : JournalsKept (s.stepTrap n c rep) s := by
  unfold State.stepTrap
  dsimp only
  split
  · exact .refl s
  · split
    next h =>
      rw [Bool.and_eq_true, beq_iff_eq] at h
      exact State.enterTrap_journalsKept h.1 _ _ _
    next => exact s.setCtx_journalsKept _ _ _

/-! The end of an instruction held for its answer. -/

/-- A context that is held for no answer has nothing to complete. -/
theorem State.completeHeld_of_free {s : State} {core c : Nat} (h : (s.ctx core c).block = none) (id len : Nat) (g : State → State) :
    s.completeHeld core c id len g = s := by
  unfold State.completeHeld
  dsimp only
  rw [h]

theorem State.completeHeld_journalsKept {g : State → State} (hg : ∀ s, JournalsKept (g s) s) (s : State) (core c id len : Nat) :
    JournalsKept (s.completeHeld core c id len g) s := by
  unfold State.completeHeld
  dsimp only
  split
  · split
    · refine (State.stepTrap_journalsKept _ _ _ _).trans ((StateAs.journalsKept (n := core) (c := c) ?_).trans (hg s))
      exact (State.retire_as _ _ _ _ _).trans (State.warnHeld_as _ _ _)
    · exact .refl s
  · exact .refl s

section Held
variable {s : State} {core c id len since ph : Nat} {g : State → State}
  (hb : (s.ctx core c).block = some ⟨.reply id, since, ph⟩) (hs : ((g s).ctx core c).statBit bSTEP = false)

include hb hs in
theorem State.completeHeld_of_block : s.completeHeld core c id len g =
    ((g s).warnHeld core c).retire core c false ((s.ctx core c).pc + BitVec.ofNat 64 len) := by
  unfold State.completeHeld
  simp only [hb, beq_self_eq_true, if_true]
  refine State.stepTrap_off _ _ _ _ ?_
  obtain ⟨-, -, hstat, -⟩ := ((g s).warnHeld core c).retire_ctx core c ((s.ctx core c).pc + BitVec.ofNat 64 len)
  rw [hstat _ (by decide), if_neg (by decide), State.ctx_warnHeld]
  split
  · rw [Ctx.statBit_setStat _ _ _ _ (by decide), if_neg (by decide), hs]
  · exact hs

include hb hs in
/-- A held instruction that completes leaves what its answer has made, its context free at the next instruction (R290). -/
theorem State.completeHeld_completes (hl : ∀ k, 0x20 ≤ k → k ≤ 0x2E → ((g s).ctx core c).srGet k = (s.ctx core c).srGet k) :
    StateAs core c (s.completeHeld core c id len g) (g s) ∧ ((s.completeHeld core c id len g).ctx core c).block = none ∧
      ((s.completeHeld core c id len g).ctx core c).pc =
        ((s.ctx core c).loopEnd ((s.ctx core c).pc + BitVec.ofNat 64 len) 5).pc := by
  rw [State.completeHeld_of_block hb hs]
  obtain ⟨hblock, hpc, -, -⟩ := ((g s).warnHeld core c).retire_ctx core c ((s.ctx core c).pc + BitVec.ofNat 64 len)
  refine ⟨(State.retire_as _ _ _ _ _).trans (State.warnHeld_as _ _ _), hblock, hpc.trans (Ctx.loopEnd_congr _ _ _ _ fun k h1 h2 => ?_).1⟩
  rw [← hl k h1 h2, State.ctx_warnHeld]
  split
  · exact Ctx.srGet_setStat _ _ _ _ (by unfold rSTAT; omega)
  · rfl

end Held

end Sys2Proof.Machine
end

section
/-! SUPPORT. The answers of loads and stores, and the statement about them (R28, R148, R317, R326, R420): O30. -/
namespace Sys2Proof.Machine

/-! Values delivered (R316, R344). -/

theorem Ctx.sreg_deliver_extended (x : Ctx) (d n v k : Nat) (sg : Bool) :
    (x.deliver (.scalar d n sg) [(0, v)]).sreg k =
      if k = d ∧ k ≠ 0 then (if sg then sxWord (8 * n) v else BitVec.ofNat 64 v) else x.sreg k := by
  show (x.setS d _).sreg k = _
  rw [Ctx.sreg_setS]
  by_cases h : k = d
  · subst h; rfl
  · simp [h]

/-- The vector that one lane delivered leaves in its register. -/
theorem Ctx.vreg_deliver_one (x : Ctx) (d w i v : Nat) : (x.deliver (.vec d w []) [(i, v)]).vreg d =
    BitVec.ofNat 512 (setBits (x.vreg d).toNat (w * i) w v) := by
  show (x.setV d _).vreg d = _
  rw [Ctx.vreg_setV, if_pos rfl]
  rfl

theorem Ctx.lane_deliver_self (x : Ctx) (d w i v : Nat) (h : w * i + w ≤ 512) :
    lane ((x.deliver (.vec d w []) [(i, v)]).vreg d) w i = v % 2 ^ w := by
  rw [Ctx.vreg_deliver_one, lane, bits_ofNat _ _ _ _ h, bits_setBits_self]

theorem Ctx.lane_deliver_ne (x : Ctx) (d w v : Nat) {i j : Nat} (hj : j ≠ i) (h : w * j + w ≤ 512) :
    lane ((x.deliver (.vec d w []) [(i, v)]).vreg d) w j = lane (x.vreg d) w j := by
  have hapart : w * j + w ≤ w * i ∨ w * i + w ≤ w * j :=
    (Nat.lt_or_gt_of_ne hj).imp (Nat.mul_le_mul_left w) (Nat.mul_le_mul_left w)
  rw [Ctx.vreg_deliver_one, lane, bits_ofNat _ _ _ _ h, bits_setBits_ne _ _ _ _ _ _ hapart, lane]

/-! What an answer makes of its context. -/

/-- A context with the values of a request, and the warning of R145. -/
def Ctx.answered (x : Ctx) (r : Req) : Ctx :=
  if r.lostCas then (x.deliver r.dst r.got).setStat bWARN true else x.deliver r.dst r.got

@[simp] theorem Ctx.answered_sreg (x : Ctx) (r : Req) (k : Nat) : (x.answered r).sreg k = (x.deliver r.dst r.got).sreg k := by
  unfold Ctx.answered
  split
  · simp [Ctx.sreg]
  · rfl

@[simp] theorem Ctx.answered_vreg (x : Ctx) (r : Req) (k : Nat) : (x.answered r).vreg k = (x.deliver r.dst r.got).vreg k := by
  unfold Ctx.answered
  split
  · simp [Ctx.vreg]
  · rfl

theorem Ctx.answered_course (x : Ctx) (r : Req) :
    (x.answered r).loads = x.loads ∧ (x.answered r).block = x.block ∧ (x.answered r).pc = x.pc := by
  obtain ⟨_, _, hd⟩ := x.deliver_eq r.dst r.got
  unfold Ctx.answered
  rw [hd]
  split <;> simp

theorem Ctx.answered_srGet (x : Ctx) (r : Req) {k : Nat} (h : k ≠ rSTAT) : (x.answered r).srGet k = x.srGet k := by
  obtain ⟨_, _, hd⟩ := x.deliver_eq r.dst r.got
  unfold Ctx.answered
  rw [hd]
  split
  · exact Ctx.srGet_setStat _ _ _ _ h
  · rfl

theorem Ctx.answered_statBit (x : Ctx) (r : Req) {i : Nat} (hi : i < 64) (h : i ≠ bWARN) : (x.answered r).statBit i = x.statBit i := by
  obtain ⟨_, _, hd⟩ := x.deliver_eq r.dst r.got
  unfold Ctx.answered
  rw [hd]
  split
  · rw [Ctx.statBit_setStat _ _ _ _ hi, if_neg h]; rfl
  · rfl

theorem State.arrive_firstLevel (s : State) (r : Req) : FirstLevelOnly (s.arrive r) (s.modCtx r.core r.ctx (·.answered r)) := by
  have hfill (t : State) : FirstLevelOnly (if r.op == .load && !r.acq then
      t.fillC1 r.core r.asid ((r.all.filter (·.va < meshBase)).map (·.va / 64)).eraseDups
    else if r.op.writes then t.ownWords r.core r.asid (r.all.filter (·.va < meshBase)) else t) t := by
    split
    · exact t.fillC1_firstLevel _ _ _
    · split
      · exact t.ownWords_firstLevel _ _ _
      · exact .refl t
  unfold State.arrive
  dsimp only
  split
  · exact (State.acquireFor_firstLevel _ _ _).trans (hfill _)
  · exact hfill _

theorem State.arrive_ctx_self (s : State) (r : Req) : (s.arrive r).ctx r.core r.ctx = (s.ctx r.core r.ctx).answered r := by
  rw [(s.arrive_firstLevel r).ctx, State.ctx_modCtx_self]

theorem State.arrive_ctx_ne (s : State) (r : Req) {n c : Nat} (h : ¬(n = r.core ∧ c = r.ctx)) : (s.arrive r).ctx n c = s.ctx n c := by
  rw [(s.arrive_firstLevel r).ctx, State.ctx_modCtx, if_neg h]

theorem State.arrive_memKept (s : State) (r : Req) : MemKept s (s.arrive r) :=
  (MemKept.of_eq rfl rfl rfl rfl : MemKept s (s.modCtx r.core r.ctx (·.answered r))).trans (s.arrive_firstLevel r).mem

/-! Responses (R28, R93, R317). -/

/-- The state with an answered request taken off. -/
def State.unasked (s : State) (id : Nat) : State := { s with reqs := s.reqs.erase id }

theorem State.unasked_memKept (s : State) (id : Nat) : MemKept s (s.unasked id) := .of_eq rfl rfl rfl rfl

section Response
variable {s : State} {id : Nat} {r : Req} (hf : s.reqs.find? (·.1 == id) = some (id, r)) (hd : r.done = true)
  (hdst : ∀ k, r.dst ≠ .doneBit k)
include hf hd hdst

theorem State.loadResponse_of_value (hr : r.fault = none) : s.loadResponse id =
    if (s.ctx r.core r.ctx).loads.any (·.1 == id) then
      ((s.unasked id).arrive r).modCtx r.core r.ctx fun x => { x with loads := x.loads.filter (·.1 != id) }
    else (s.unasked id).completeHeld r.core r.ctx id r.len (·.arrive r) := by
  unfold State.loadResponse
  rw [hf]
  simp only [hd, Bool.not_true, Bool.false_eq_true, if_false]
  split
  next h _ => exact absurd h (hdst _)
  next h _ => exact absurd h (hdst _)
  next h _ => rw [hr] at h; cases h
  next => rfl

theorem State.loadResponse_of_fault {code v : Nat} (hr : r.fault = some (code, v)) :
    s.loadResponse id = (s.unasked id).faultLate r.core r.ctx id code v := by
  unfold State.loadResponse
  rw [hf]
  simp only [hd, Bool.not_true, Bool.false_eq_true, if_false]
  split
  next h _ => exact absurd h (hdst _)
  next h _ => exact absurd h (hdst _)
  next h _ => rw [hr] at h; cases h; rfl
  next h _ => rw [hr] at h; cases h

/-- The value of a load that its context has gone on behind (R317; log entry 16). -/
theorem State.loadResponse_behind (hr : r.fault = none) (hl : ∃ l, (s.ctx r.core r.ctx).loads.find? (·.1 == id) = some l) :
    let x := s.ctx r.core r.ctx
    let t := s.loadResponse id
    let y := t.ctx r.core r.ctx
    (∀ k, y.sreg k = (x.deliver r.dst r.got).sreg k) ∧ (∀ k, y.vreg k = (x.deliver r.dst r.got).vreg k) ∧
      y.loads = x.loads.filter (·.1 != id) ∧ y.block = x.block ∧ y.pc = x.pc ∧ t.reqs.find? (·.1 == id) = none ∧ MemKept s t ∧
      ∀ n c, ¬(n = r.core ∧ c = r.ctx) → t.ctx n c = s.ctx n c := by
  obtain ⟨l, hl⟩ := hl
  have hany : (s.ctx r.core r.ctx).loads.any (·.1 == id) = true :=
    List.any_eq_true.mpr ⟨l, List.mem_of_find?_eq_some hl, by simpa using List.find?_some hl⟩
  intro x t y
  have ht : t = ((s.unasked id).arrive r).modCtx r.core r.ctx fun x => { x with loads := x.loads.filter (·.1 != id) } :=
    (State.loadResponse_of_value hf hd hdst hr).trans (if_pos hany)
  have hy : y = { x.answered r with loads := (x.answered r).loads.filter (·.1 != id) } := by
    show t.ctx _ _ = _
    rw [ht, State.ctx_modCtx_self, State.arrive_ctx_self]
    rfl
  obtain ⟨hloads, hblock, hpc⟩ := x.answered_course r
  refine ⟨fun k => ?_, fun k => ?_, ?_, ?_, ?_, ?_, ?_, fun n c hn => ?_⟩
  · rw [hy]; exact x.answered_sreg r k
  · rw [hy]; exact x.answered_vreg r k
  · rw [hy]; exact congrArg _ hloads
  · rw [hy]; exact hblock
  · rw [hy]; exact hpc
  · rw [ht]
    show (((s.unasked id).arrive r).reqs.find? _) = none
    rw [((s.unasked id).arrive_firstLevel r).reqs]
    exact Assoc.find?_erase_self _ _
  · rw [ht]
    exact ((s.unasked_memKept id).trans ((s.unasked id).arrive_memKept r)).trans (.of_eq rfl rfl rfl rfl)
  · rw [ht, State.ctx_modCtx, if_neg hn, State.arrive_ctx_ne _ _ hn]
    rfl

/-- The value of a load that holds its context: its instruction completes (R28, R317). -/
theorem State.loadResponse_held (hr : r.fault = none) {since ph : Nat}
    (hb : (s.ctx r.core r.ctx).block = some ⟨.reply id, since, ph⟩)
    (hl : (s.ctx r.core r.ctx).loads.find? (·.1 == id) = none) (hs : (s.ctx r.core r.ctx).statBit bSTEP = false) :
    let x := s.ctx r.core r.ctx
    let t := s.loadResponse id
    let y := t.ctx r.core r.ctx
    (∀ k, y.sreg k = (x.deliver r.dst r.got).sreg k) ∧ y.block = none ∧
      y.pc = (x.loopEnd (x.pc + BitVec.ofNat 64 r.len) 5).pc ∧ t.reqs.find? (·.1 == id) = none ∧ MemKept s t ∧
      ∀ n c, ¬(n = r.core ∧ c = r.ctx) → t.ctx n c = s.ctx n c := by
  have hany : (s.ctx r.core r.ctx).loads.any (·.1 == id) = false := List.any_eq_false.mpr (List.find?_eq_none.mp hl)
  intro x t y
  have ht : t = (s.unasked id).completeHeld r.core r.ctx id r.len (·.arrive r) :=
    (State.loadResponse_of_value hf hd hdst hr).trans (if_neg (by rw [hany]; exact Bool.false_ne_true))
  have hctx : ((s.unasked id).arrive r).ctx r.core r.ctx = x.answered r := State.arrive_ctx_self _ _
  obtain ⟨has, hblock, hpc⟩ := State.completeHeld_completes (s := s.unasked id) (g := (·.arrive r)) (len := r.len) hb
    (by rw [hctx, Ctx.answered_statBit _ _ (by decide) (by decide)]; exact hs)
    fun k h1 _ => by rw [hctx]; exact Ctx.answered_srGet _ _ (by unfold rSTAT; omega)
  rw [← ht] at has hblock hpc
  refine ⟨fun k => ?_, hblock, hpc, ?_, ((s.unasked_memKept id).trans ((s.unasked id).arrive_memKept r)).trans has.memKept,
    fun n c hn => ?_⟩
  · rw [has.me.sreg, hctx, Ctx.answered_sreg]
  · rw [has.work.2.1, ((s.unasked id).arrive_firstLevel r).reqs]
    exact Assoc.find?_erase_self _ _
  · rw [has.others n c hn, State.arrive_ctx_ne _ _ hn]
    rfl

/-- The fault of a load that its context has gone on behind is taken at the load (log entries 16 and 185). -/
theorem State.loadResponse_late {code v : Nat} (hr : r.fault = some (code, v)) {l : Nat × Dst × Word}
    (hl : (s.ctx r.core r.ctx).loads.find? (·.1 == id) = some l) : s.loadResponse id =
      (s.unasked id).enterTrap r.core r.ctx (causeWord code false 0 0 0 0) (BitVec.ofNat 64 v) l.2.2 := by
  rw [State.loadResponse_of_fault hf hd hdst hr, State.faultLate]
  simp only [show (s.unasked id).ctx r.core r.ctx = s.ctx r.core r.ctx from rfl, hl]

/-- The fault of a load that holds its context is taken at the instruction held (R28). -/
theorem State.loadResponse_precise {code v since ph : Nat} (hr : r.fault = some (code, v))
    (hb : (s.ctx r.core r.ctx).block = some ⟨.reply id, since, ph⟩) (hl : (s.ctx r.core r.ctx).loads.find? (·.1 == id) = none) :
    s.loadResponse id = (s.unasked id).enterTrap r.core r.ctx (causeWord code false 0 0 0 0) (BitVec.ofNat 64 v)
      (s.ctx r.core r.ctx).pc := by
  have hctx : (s.unasked id).ctx r.core r.ctx = s.ctx r.core r.ctx := rfl
  rw [State.loadResponse_of_fault hf hd hdst hr, State.faultLate]
  simp only [hctx, hl]
  rw [State.faultHeld]
  simp only [hctx, hb, beq_self_eq_true, if_true]

end Response

/-! Acknowledgements and refusals (R148, R326, R420). -/

/-- The first level with the words that an acknowledged request wrote owned (R146). -/
def State.ownsWritten (s : State) (r : Req) : State := s.ownWords r.core r.asid (r.all.filter (·.va < meshBase))

theorem State.ownsWritten_firstLevel (s : State) (r : Req) : FirstLevelOnly (s.ownsWritten r) s := s.ownWords_firstLevel _ _ _

/-- The acquire of an acknowledged .AR store (R147). -/
def State.acquireOf (r : Req) (s : State) : State := if r.acq then s.acquireFor r.core r.ctx else s

theorem State.acquireOf_firstLevel (r : Req) (s : State) : FirstLevelOnly (s.acquireOf r) s := by
  unfold State.acquireOf
  split
  · exact s.acquireFor_firstLevel _ _
  · exact .refl s

/-- The first level with none of a refused request's words valid (R149). -/
def State.revoked (s : State) (r : Req) : State :=
  r.all.foldl (fun s e => s.revoke r.core r.asid (e.va / 64) (wordsOf e.va e.size)) s

theorem State.revoked_firstLevel (s : State) (r : Req) : FirstLevelOnly (s.revoked r) s :=
  .foldl (fun s _ => s.revoke_firstLevel _ _ _ _) _ _

/-- A journal with an entry in the place of `j`. -/
def State.withEntry (s : State) (core j : Nat) (e : JEntry) : State := s.modCore core fun k => { k with journal := k.journal.put j e }

theorem State.withEntry_journal (s : State) (core j : Nat) (e : JEntry) :
    ((s.withEntry core j e).core core).journal.find? (·.1 == j) = some (j, e) := by
  rw [State.withEntry, State.core_modCore, if_pos rfl]
  exact Assoc.find?_put_self _ _ _

theorem State.withEntry_ctx (s : State) (core j c : Nat) (e : JEntry) : (s.withEntry core j e).ctx core c = s.ctx core c := by
  rw [State.withEntry, State.ctx_modCore, if_pos rfl]
  rfl

/-- A journal entry that no ended routine waits for is freed, and nothing else (R148, R176). -/
theorem State.freeEntryOf_unowed {s : State} {core j : Nat}
    (h : ∀ e, (s.core core).journal.find? (·.1 == j) = some (j, e) → e.owed = none) :
    ((s.freeEntryOf core j).core core).journal.find? (·.1 == j) = none ∧
      (∀ i, i ≠ j → ((s.freeEntryOf core j).core core).journal.find? (·.1 == i) = (s.core core).journal.find? (·.1 == i)) ∧
      MemKept s (s.freeEntryOf core j) := by
  unfold State.freeEntryOf
  split
  next hn => exact ⟨hn, fun _ _ => rfl, .refl s⟩
  next k e hk =>
    obtain rfl : k = j := by simpa using List.find?_some hk
    have hcore : ((s.modCore core fun c => { c with journal := c.journal.erase k }).core core).journal =
        (s.core core).journal.erase k := by rw [State.core_modCore, if_pos rfl]
    simp only [h e hk, Option.isNone_none, Bool.true_or, if_true]
    rw [hcore]
    exact ⟨Assoc.find?_erase_self _ _, fun i hi => Assoc.find?_erase_ne _ hi, .of_eq rfl rfl rfl rfl⟩

section Posted
variable {s : State} {id : Nat} {r : Req} (hf : s.reqs.find? (·.1 == id) = some (id, r)) (hd : r.done = true) {j : Nat}
  (hj : r.jidx = some j)
include hf hd hj

theorem State.storeAcknowledge_of_done : s.storeAcknowledge id =
    (((s.unasked id).ownsWritten r).freeEntryOf r.core j).completeHeld r.core r.ctx id r.len (·.acquireOf r) := by
  obtain ⟨core, ctx, asid, op, els, all, got, dst, jidx, acq, rel, done, mesh, fault, len⟩ := r
  dsimp only at hd hj
  subst hd hj
  unfold State.storeAcknowledge
  rw [hf]
  rfl

/-- An acknowledged store's journal entry is free (R148, R326). -/
theorem State.storeAcknowledge_frees (h : ∀ e, (s.core r.core).journal.find? (·.1 == j) = some (j, e) → e.owed = none) :
    let t := s.storeAcknowledge id
    (t.core r.core).journal.find? (·.1 == j) = none ∧
      (∀ i, i ≠ j → (t.core r.core).journal.find? (·.1 == i) = (s.core r.core).journal.find? (·.1 == i)) ∧ MemKept s t := by
  have ho := (s.unasked id).ownsWritten_firstLevel r
  have hjournal : (((s.unasked id).ownsWritten r).core r.core).journal = (s.core r.core).journal := ho.journal _
  obtain ⟨hfree, hothers, hmem⟩ := State.freeEntryOf_unowed (j := j) (by rw [hjournal]; exact h)
  have hk := State.completeHeld_journalsKept (g := (·.acquireOf r)) (fun s => (s.acquireOf_firstLevel r).journalsKept)
    (((s.unasked id).ownsWritten r).freeEntryOf r.core j) r.core r.ctx id r.len
  rw [State.storeAcknowledge_of_done hf hd hj]
  dsimp only
  rw [hk.journal]
  exact ⟨hfree, fun i hi => (hothers i hi).trans (by rw [hjournal]),
    (s.unasked_memKept id).trans (ho.mem.trans (hmem.trans hk.mem))⟩

section Refused
variable {e : JEntry} {code val : Nat} (hr : r.fault = some (code, val))
  (he : (s.core r.core).journal.find? (·.1 == j) = some (j, e)) (ho : e.orphan = false)
include hr he ho

theorem State.storeRefusal_of_entry : s.storeRefusal id =
    ((((s.unasked id).revoked r).withEntry r.core j { e with state := 2, cause := code }).modCtx r.core r.ctx
      fun x => { x with refusal := true }).completeHeld r.core r.ctx id r.len fun s => s := by
  have hentry : (((s.unasked id).revoked r).core r.core).journal.find? (·.1 == j) = some (j, e) := by
    rw [((s.unasked id).revoked_firstLevel r).journal]
    exact he
  obtain ⟨core, ctx, asid, op, els, all, got, dst, jidx, acq, rel, done, mesh, fault, len⟩ := r
  dsimp only at hd hj hr
  subst hd hj hr
  unfold State.storeRefusal
  rw [hf]
  simp only [State.revoked, State.unasked, State.withEntry] at hentry ⊢
  rw [hentry]
  simp only [ho, Bool.false_eq_true, if_false]

/-- A refused store marks its journal entry and makes the trap of its context due (R420). -/
theorem State.storeRefusal_marks (hb : (s.ctx r.core r.ctx).block = none) :
    let t := s.storeRefusal id
    (t.core r.core).journal.find? (·.1 == j) = some (j, { e with state := 2, cause := code }) ∧
      (t.ctx r.core r.ctx).refusal = true ∧ (t.ctx r.core r.ctx).pc = (s.ctx r.core r.ctx).pc ∧ MemKept s t := by
  have hu := (s.unasked id).revoked_firstLevel r
  have ht := State.storeRefusal_of_entry hf hd hj hr he ho
  have hctx : ((((s.unasked id).revoked r).withEntry r.core j { e with state := 2, cause := code }).modCtx r.core r.ctx
      fun x => { x with refusal := true }).ctx r.core r.ctx = { s.ctx r.core r.ctx with refusal := true } := by
    rw [State.ctx_modCtx_self, State.withEntry_ctx, hu.ctx]
    rfl
  rw [State.completeHeld_of_free (by rw [hctx]; exact hb)] at ht
  dsimp only
  rw [ht]
  refine ⟨?_, by rw [hctx], by rw [hctx], (s.unasked_memKept id).trans (hu.mem.trans (.of_eq rfl rfl rfl rfl))⟩
  rw [(State.modCtx_journalsKept _ _ _ _).journal]
  exact State.withEntry_journal _ _ _ _

end Refused

end Posted

/-! The statement. -/

/-- Naming the event at hand changes no byte. -/
theorem MemKept.of_onEvent {s t : State} {e : Event} (h : MemKept (s.onEvent e) t) : MemKept s t :=
  (MemKept.of_eq rfl rfl rfl rfl : MemKept s (s.onEvent e)).trans h

/-- Settles O30: a response is a value written, into a context that goes on or as its instruction completes, or a fault taken; an
acknowledgement takes its entry out of the journal, and a refusal puts it back marked. -/
theorem responsesCompleteAccesses : Obligations.ResponsesCompleteAccesses := by
  unfold Obligations.ResponsesCompleteAccesses
  intro s id r hf hd
  refine ⟨fun since ph d n sg v hb hl hs hdst hgot hr => ?_, fun d n sg v hl hdst hgot hr => ?_, fun d w i v hl hdst hgot hi hr => ?_,
    fun l code v hl hr hdst => ?_, fun since ph code v hb hl hr hdst => ?_, fun j hj hr he => ?_, fun j e code v hj hr he ho hb => ?_⟩
  · obtain ⟨hsreg, hblock, hpc, hreqs, hmem, hctx⟩ :=
      State.loadResponse_held (s := s.onEvent (.loadResponse id)) hf hd (by simp [hdst]) hr hb hl hs
    rw [hdst, hgot] at hsreg
    exact happens_next rfl ⟨fun k => (hsreg k).trans (Ctx.sreg_deliver_extended _ _ _ _ _ _), hblock, hpc, hreqs, hmem.of_onEvent, hctx⟩
  · obtain ⟨hsreg, -, hloads, hblock, hpc, hreqs, hmem, hctx⟩ :=
      State.loadResponse_behind (s := s.onEvent (.loadResponse id)) hf hd (by simp [hdst]) hr hl
    rw [hdst, hgot] at hsreg
    exact happens_next rfl ⟨fun k => (hsreg k).trans (Ctx.sreg_deliver_extended _ _ _ _ _ _), hloads, hblock, hpc, hreqs,
      hmem.of_onEvent, hctx⟩
  · obtain ⟨hsreg, hvreg, hloads, hblock, hpc, -, hmem, -⟩ :=
      State.loadResponse_behind (s := s.onEvent (.loadResponse id)) hf hd (by simp [hdst]) hr hl
    rw [hdst, hgot] at hsreg hvreg
    refine happens_next rfl ⟨?_, fun k hk hkw => ?_, fun k hk => ?_, hsreg, hloads, hblock, hpc, hmem.of_onEvent⟩
    · rw [hvreg]; exact Ctx.lane_deliver_self _ _ _ _ _ hi
    · rw [hvreg]; exact Ctx.lane_deliver_ne _ _ _ _ hk hkw
    · exact (hvreg k).trans ((Ctx.vreg_setV _ _ _ _).trans (if_neg hk))
  · exact happens_next rfl (State.loadResponse_late (s := s.onEvent (.loadResponse id)) hf hd hdst hr hl)
  · exact happens_next rfl (State.loadResponse_precise (s := s.onEvent (.loadResponse id)) hf hd hdst hr hb hl)
  · obtain ⟨hfree, hothers, hmem⟩ := State.storeAcknowledge_frees (s := s.onEvent (.storeAcknowledge id)) hf hd hj he
    exact happens_next rfl ⟨hfree, hothers, hmem.of_onEvent⟩
  · obtain ⟨hentry, hdue, hpc, hmem⟩ := State.storeRefusal_marks (s := s.onEvent (.storeRefusal id)) hf hd hj hr he ho
      (Option.eq_none_iff_forall_ne_some.mpr hb)
    exact happens_next rfl ⟨hentry, hdue, hpc, hmem.of_onEvent⟩

end Sys2Proof.Machine
end

section
/-! SUPPORT. Two operations of one number, of which a store into an operand window leaves the second alone (R178), against O35. -/
namespace Sys2Proof.Machine

/-- An operation of core 3 that copies 8 bytes from core 2's stall to core 1's, counted at the word at 0x40 of core 0's, with the bytes
that it has left to count and the operand windows that it holds open. -/
def countingCopy (left : Nat) (window : List (Nat × Nat)) : EngOp :=
  { core := 3, ctx := 0, asid := 0, act := .copy (meshBase + 65536 * 1 + 0) (meshBase + 65536 * 2 + 0) 8, sync := some (0, 0x40),
    unit := .context, slot := 0, rows := 1, low := 0, rowsDone := [], left := left, ecode := 0, gen := 0, started := true,
    finished := false, slices := [], trips := [], merges := [], expects := [], poisonHeads := [], window := window, pinned := [],
    olds := [], data := [], slicePins := [] }

/-- The operations list two of the number 5: a copy with its 8 bytes left, and one with 100, whose open window is the copy's
destination. No operation begins under a number that another has (R168, R171); the statement speaks of every state. -/
def twinOps : State :=
  { State.reset with ops := [(5, countingCopy 8 []), (5, countingCopy 100 [(stallPa 1 0, 64)])] }

theorem exec_syncWordArrival (s : State) (id row : Nat) :
    exec .syncWordArrival (s.onEvent (.syncWordArrival id row)) =
      .next ((s.onEvent (.syncWordArrival id row)).syncArrival id row) := rfl

/-- The first of them meets what O35 asks of a copy whose row is due. -/
theorem twinOps_due : twinOps.ops.find? (·.1 == 5) = some (5, countingCopy 8 []) ∧
    (twinOps.core 3).canPay 48 = true ∧ twinOps.stallPoison 2 0 8 = none := by
  refine ⟨?_, ?_, ?_⟩ <;> decide +kernel

/-- The row's store meets the window of the second, which alone is written back under the number; its bytes are counted. -/
theorem twinOps_counts_second :
    ((twinOps.onEvent (.syncWordArrival 5 0)).syncArrival 5 0).ops.map (·.2.left) = [92] := by decide +kernel

/-- Refutes O35: a store writes back, under its number, each operation whose open window it meets. Where two operations are listed
under one number, the row of the first leaves the second in its place, and the bytes left are not those of the first less the row's. -/
theorem not_copyAndCompletionEvents : ¬ Obligations.CopyAndCompletionEvents := by
  unfold Obligations.CopyAndCompletionEvents
  intro ⟨_, hrow, _⟩
  obtain ⟨hop, hpays, hclean⟩ := twinOps_due
  obtain ⟨t, ht, _, _, ⟨p, hp, _, hleft⟩, _⟩ := hrow twinOps 5 0 0x40 1 0 2 0 8 (countingCopy 8 []) hop rfl (by decide) (by decide)
    rfl (by decide) (by decide) (by decide) (by decide) (by decide) (by decide) rfl (by decide) rfl rfl rfl rfl hpays hclean
  have hnext := Host.Outcome.next.inj ((exec_syncWordArrival twinOps 5 0).symm.trans ht)
  have hmem : p.left ∈ t.ops.map (·.2.left) := List.mem_map.mpr ⟨(5, p), List.mem_of_find?_eq_some hp, rfl⟩
  rw [← hnext, twinOps_counts_second, hleft] at hmem
  exact absurd hmem (by decide)

end Sys2Proof.Machine
end

section
/-! SUPPORT. Copies begun by a context at their issue (R168, R338), and ACOPY (R337): O33. -/
namespace Sys2Proof.Machine

/-! An operation begun. -/

/-- The state in which an operation of the acting context has begun: known under the next number, counted, and pending (R168). -/
def State.begun (s : State) (o : EngOp) : State := ((s.knowsOp o).modMe (·.count 13 1)).modMe (·.pends s.nextId)

theorem State.begun_me (s : State) (o : EngOp) : (s.begun o).me = (s.me.count 13 1).pends s.nextId :=
  (State.me_modMe _ (·.pends s.nextId)).trans (congrArg (·.pends s.nextId) (State.me_modMe _ _))

theorem State.begun_op (s : State) (o : EngOp) : (s.begun o).ops.find? (·.1 == s.nextId) = some (s.nextId, o) :=
  Assoc.find?_put_self ..

theorem State.begun_memKept (s : State) (o : EngOp) : MemKept s (s.begun o) := .of_eq rfl rfl rfl rfl

theorem State.track_begun (s : State) (o : EngOp) (n k : Nat) : (s.begun o).track n k = s.track n k := by
  unfold State.begun State.modMe State.setMe
  rw [State.track_setCtx, State.track_setCtx]
  rfl

/-- The operation that a copy of the acting context starts. -/
def State.copyOp (s : State) (act : EngAct) (sw : Nat × Nat) (rows left : Nat) : EngOp :=
  { s.newOp act (some sw) rows left with started := true }

theorem State.engStart_copyOp {s : State} (hu : s.cur.unit = .context) (act : EngAct) (sw : Nat × Nat) (rows left : Nat) :
    s.engStart (s.copyOp act sw rows left) = (s.nextId, s.begun (s.copyOp act sw rows left)) := by
  have hunit : (s.copyOp act sw rows left).unit = .context := hu
  unfold State.engStart
  simp only [hunit]
  rfl

/-- A copy of the acting context is outstanding on its sync word, in a state `t` that its instruction has completed from `s`; the
registers are those of `v`, in which the motions of the core may have been charged up to the present cycle (R51, R168, R338). -/
def Begins (f : Form) (act : EngAct) (sw : Nat × Nat) (rows : Nat) (s v t : State) : Prop :=
  (∃ o, t.ops.find? (·.1 == s.nextId) = some (s.nextId, o) ∧ o.act = act ∧ o.sync = some sw ∧ o.rows = rows ∧
    o.core = s.cur.core ∧ o.ctx = s.cur.ctx ∧ o.asid = s.me.asid ∧ o.finished = false ∧ o.ecode = 0) ∧
  t.me.pending = s.me.pending ++ [s.nextId] ∧ RegsKept {} (v.modMe (·.pends s.nextId)) t ∧ MemKept s t ∧
  Completed (s.plainWarn f) (s.fall f) s t

theorem CtxCharged.pending {x y : Ctx} (h : CtxCharged y x) : y.pending = x.pending := by obtain ⟨⟨_, _, _, rfl⟩, _⟩ := h; rfl
theorem CtxCharged.loads {x y : Ctx} (h : CtxCharged y x) : y.loads = x.loads := by obtain ⟨⟨_, _, _, rfl⟩, _⟩ := h; rfl
theorem CtxCharged.asid {x y : Ctx} (h : CtxCharged y x) : y.asid = x.asid := by
  unfold Ctx.asid
  rw [h.sr _ (by decide)]

section Begin
variable {i : Instr} {f : Form} {cost rows left : Nat} {s v t : State} {rep : State → Nat × Nat × Nat} {body : State → Res}
  {act : EngAct} {sw : Nat × Nat}

/-- What beginning an operation in the settled state makes of the acting context. -/
theorem SameContexts.begun_me {o : EngOp} (hv : TrackFrame CtxCharged v s) (ht : SameContexts t (v.begun o)) :
    t.me = (v.me.count 13 1).pends s.nextId := by rw [ht.me, State.begun_me, hv.nextId]

/-- A context's instruction whose body begins a copy. -/
theorem gives_begins (h : Runs f cost s) (he : exec i s = issueWith f cost (scalarWarn f false) false false rep body s)
    (hb : body s = .done t) (hv : TrackFrame CtxCharged v s) (ht : SameContexts t (v.begun (v.copyOp act sw rows left)))
    (hops : t.ops = (v.begun (v.copyOp act sw rows left)).ops) :
    Gives i s fun u => StateAs s.cur.core s.cur.ctx u t ∧ Begins f act sw rows s v u := by
  have hc : t.cur = s.cur := ht.cur.trans hv.cur
  have hme := ht.begun_me hv
  have hsr (n : Nat) : t.me.srGet n = v.me.srGet n := by rw [hme]; exact v.me.srGet_count 13 1 n
  have hstat (k : Nat) : t.me.statBit k = s.me.statBit k := (Ctx.statBit_of_sr (hsr _) k).trans (hv.me.statBit k)
  have has := State.after_as s cost (s.plainWarn f) (s.fall f) t hc
  have hctx : CtxAs t.me (v.modMe (·.pends s.nextId)).me := by
    rw [hme, State.me_modMe]
    exact (v.me.count_as 13 1).pends _
  have hunit : v.cur.unit = .context := by rw [hv.cur]; exact h.unit
  have hasid : v.engAsid = s.me.asid := by
    unfold State.engAsid
    rw [hunit]
    exact hv.me.asid
  refine ⟨s.after cost (s.plainWarn f) (s.fall f) t, ?_, has, ⟨v.copyOp act sw rows left, ?_, rfl, rfl, rfl, congrArg (·.core) hv.cur,
    congrArg (·.ctx) hv.cur, hasid, rfl, rfl⟩, ?_, ?_, ?_, ?_⟩
  · rw [he, issueWith_done h _ _ _ hb hc (hstat _)]
    simp [State.plainWarn]
  · rw [has.work.1, hops, ← hv.nextId]
    exact v.begun_op _
  · rw [State.me_eq (has.cur.trans hc), has.me.signal.2.2.2, ← State.me_eq hc, hctx.signal.2.2.2, State.me_modMe, ← hv.me.pending]
    rfl
  · rw [State.after_of_cur (show (v.modMe (·.pends s.nextId)).cur = s.cur from hv.cur)]
    refine State.after_regsKept _ cost _ _ t {} (hc.trans hv.cur.symm) (.of_ctxAs {} hctx ?_)
    rw [hsr, State.me_modMe]
    rfl
  · exact ((hv.memKept.trans (v.begun_memKept _)).trans ht.mem).trans has.memKept
  · exact State.after_completed s cost _ _ t hc (hstat _) fun n _ h2 => (hsr n).trans (hv.me.sr n (by unfold rSHCHG; omega))

/-- A precise fault of an instruction with any step report. -/
theorem traps_issue {code val : Nat} (h : Runs f cost s) (he : exec i s = issueWith f cost (scalarWarn f false) false false rep body s)
    (hb : body s = .fault s code val) : Traps i s code val := fun hl => he.trans (issueWith_fault h hl _ _ _ _ hb)

/-- An interlock holds an instruction before it has done anything. -/
theorem held_issue {wt : Wait} (h : Runs f cost s) (he : exec i s = issueWith f cost (scalarWarn f false) false false rep body s)
    (hb : body s = .hold s wt 0) (hw : wt.isWait = false) : Gives i s fun t => Held .ready s t :=
  (gives_interlock h he hb hw).imp fun _ ⟨⟨_, hblock⟩, hpc, hst, hk⟩ => ⟨hst, hpc, by rw [hblock]; rfl, hk.regs, hk.mem⟩

end Begin

/-- A copy begins, or waits until its core has room for it (R194). -/
def beginCopy (start : State → State) (s : State) : Res :=
  if s.copiesFull s.cur.core then .hold s .copies 0 else .done (start s)

theorem beginCopy_full {start : State → State} {s : State} (h : s.copiesFull s.cur.core = true) :
    beginCopy start s = .hold s .copies 0 := if_pos h

theorem beginCopy_room {start : State → State} {s : State} (h : s.copiesFull s.cur.core = false) :
    beginCopy start s = .done (start s) := if_neg (by simp [h])

/-! ACOPY (R337, R338). -/

/-- The body of ACOPY: the checks of its request, the wait of a release, and the beginning of its copy. -/
def acopyBody (f : Form) (s : State) : Res :=
  match acopyReq f s with
  | .error e => .fault s e.1 e.2
  | .ok r => asRelease (beginCopy fun s => s.startCopy r r.rows) s

theorem exec_acopy {f : Form} {s : State} (hu : s.cur.unit = .context) :
    exec (.acopy f) s = issueWith f 0 (scalarWarn f false) false false (copyReport f) (acopyBody f) s := by
  show execAcopy f s = _
  unfold execAcopy
  rw [hu]
  rfl

theorem acopyBody_error {f : Form} {s : State} {e : Flt} (h : acopyReq f s = .error e) : acopyBody f s = .fault s e.1 e.2 := by
  rw [acopyBody, h]

theorem acopyBody_ok {f : Form} {s : State} {r : CopyReq} (h : acopyReq f s = .ok r) :
    acopyBody f s = asRelease (beginCopy fun s => s.startCopy r r.rows) s := by rw [acopyBody, h]

/-- What the length and the reserved bits of ACOPY's b must not be (R337). -/
def acopyBad (b : Nat) : Prop := bits b 0 24 % 8 ≠ 0 ∨ bits b 0 24 < 8 ∨ 16777208 < bits b 0 24 ∨ bits b 48 16 ≠ 0

section Requests
variable {f : Form} {s : State}

theorem acopyReq_bad (h : acopyBad (s.engVal f.b).toNat) : acopyReq f s = .error (cCPYFMT, (s.engVal f.b).toNat) := by
  unfold acopyReq
  exact if_pos (by simpa [acopyBad, or_assoc] using h)

variable (h : ¬acopyBad (s.engVal f.b).toNat)
include h

theorem acopyReq_dest {e : Flt} (hd : s.engRange f.d (bits (s.engVal f.b).toNat 0 24) 8 = .error e) : acopyReq f s = .error e := by
  unfold acopyReq
  rw [if_neg (by simpa [acopyBad, or_assoc] using h)]
  simp only [hd]

theorem acopyReq_ok {d a : Nat} {sw : Nat × Nat} (hd : s.engRange f.d (bits (s.engVal f.b).toNat 0 24) 8 = .ok d)
    (ha : s.engRange f.a (bits (s.engVal f.b).toNat 0 24) 8 = .ok a)
    (hs : syncPlace s.cur.core (BitVec.ofNat 64 (bits (s.engVal f.b).toNat 24 24)) = .ok sw) :
    acopyReq f s = .ok ⟨.copy d a (bits (s.engVal f.b).toNat 0 24), some sw, (bits (s.engVal f.b).toNat 0 24 + 63) / 64⟩ := by
  unfold acopyReq
  rw [if_neg (by simpa [acopyBad, or_assoc] using h)]
  simp only [hd, ha, hs]

end Requests

/-- The copy that ACOPY starts: its first row is due 90 cycles later (log entries 2 and 167). -/
theorem State.startCopy_eq {s : State} (hu : s.cur.unit = .context) (d a len : Nat) (sw : Nat × Nat) {rows : Nat} (hr : rows ≠ 0) :
    s.startCopy ⟨.copy d a len, some sw, rows⟩ rows =
      (s.begun (s.copyOp (.copy d a len) sw rows (min len (64 * rows)))).later 90 (.syncWordArrival s.nextId 0) := by
  have hz : ¬(rows == 0) = true := by simpa using hr
  have hst := State.engStart_copyOp hu (.copy d a len) sw rows (min len (64 * rows))
  unfold State.copyOp at hst
  unfold State.startCopy
  simp only [hst, hz]
  rfl

/-- ACOPY past its checks and its waits. -/
theorem begins_acopy {f : Form} {s : State} (h : Runs f 0 s) {d a len : Nat} {sw : Nat × Nat}
    (hreq : acopyReq f s = .ok ⟨.copy d a len, some sw, (len + 63) / 64⟩) (hlen : 8 ≤ len) (hw : s.relWait = none)
    (hroom : s.copiesFull s.cur.core = false) : Gives (.acopy f) s fun t =>
      Begins f (.copy d a len) sw ((len + 63) / 64) s s t ∧ (s.clk + 90, Event.syncWordArrival s.nextId 0) ∈ t.due := by
  have hb := (acopyBody_ok hreq).trans ((asRelease_of_none hw).trans (beginCopy_room hroom))
  rw [State.startCopy_eq h.unit d a len sw (by show (len + 63) / 64 ≠ 0; omega)] at hb
  refine (gives_begins h (exec_acopy h.unit) hb (.refl CtxCharged.refl s) (State.later_frame _ _ _).sameContexts rfl).imp
    fun t ⟨has, hbegins⟩ => ⟨hbegins, ?_⟩
  rw [has.work.2.2.2]
  exact State.mem_due_later ..

end Sys2Proof.Machine
end

section
/-! SUPPORT. ACOPYT (R336, R339), and the statement of copies at their issue: O33. -/
namespace Sys2Proof.Machine

/-! What the motions charged up to the present cycle leave to the waits of a copy. -/

theorem State.modTrack_journalsKept (s : State) (n t : Nat) (g : Track → Track) : JournalsKept (s.modTrack n t g) s where
  journal m := by
    obtain ⟨_, h⟩ := s.core_modTrack n t m g
    rw [h]
  mem := (s.modTrack_frame n t g).memKept

theorem State.chargeShift_journalsKept (s : State) (n c k : Nat) : JournalsKept (s.chargeShift n c k) s := by
  unfold State.chargeShift
  dsimp only
  split
  · exact s.setCtx_journalsKept _ _ _
  · exact (State.payCore_as _ n c _).journalsKept.trans (s.setCtx_journalsKept _ _ _)

theorem State.settle_journalsKept (s : State) (n t : Nat) : JournalsKept (s.settle n t) s := by
  cases h : (s.track n t).motion with
  | none =>
    rw [State.settle_of_motionless h]
    unfold State.settleProbe
    split
    · dsimp only
      split
      · exact (State.modTrack_journalsKept _ _ _ _).trans (s.chargeShift_journalsKept _ _ _)
      · exact .refl s
    · exact .refl s
  | some m =>
    rw [State.settle_of_motion h]
    refine (State.modTrack_journalsKept _ _ _ _).trans ?_
    split
    · exact s.chargeShift_journalsKept _ _ _
    · exact .refl s

theorem State.settleAll_journalsKept (s : State) (n : Nat) : JournalsKept (s.settleAll n) s :=
  List.foldlRecOn (motive := fun t : State => JournalsKept t s) _ _ (.refl s) fun t ht e _ => (t.settle_journalsKept n e.1).trans ht

theorem TrackFrame.copiesFull {R : Ctx → Ctx → Prop} {s t : State} (h : TrackFrame R t s) (n : Nat) : t.copiesFull n = s.copiesFull n := by
  obtain ⟨⟨_, _, _, _, rfl⟩, _⟩ := h
  rfl

theorem TrackFrame.reqs {R : Ctx → Ctx → Prop} {s t : State} (h : TrackFrame R t s) : t.reqs = s.reqs := by
  obtain ⟨⟨_, _, _, _, rfl⟩, _⟩ := h
  rfl

/-- A release waits for the same accesses once the motions have been charged. -/
theorem State.relWait_settleMine (s : State) : s.settleMine.relWait = s.relWait := by
  have hf := s.settleMine_frame
  have hj : s.settleMine.myCore.journal = s.myCore.journal := by
    unfold State.myCore
    rw [hf.cur]
    exact (s.settleAll_journalsKept s.cur.core).journal _
  unfold State.relWait State.loadsBefore Core.storesOut
  rw [hj, hf.cur, hf.me.loads, hf.reqs]

/-! The request of ACOPYT (R336, R339). -/

/-- What the count and the reserved bits of ACOPYT's b must not be (R339). -/
def acopytBad (b : Nat) : Prop := bits b 0 9 < 1 ∨ 256 < bits b 0 9 ∨ bits b 10 14 ≠ 0 ∨ bits b 48 16 ≠ 0

/-- The bytes of memory that ACOPYT's b names (R339). -/
def acopytBytes (b : Nat) : Nat := 4 * bits b 0 9 * (if bit b 9 then 4 else 1)

/-- The checks of an ACOPYT between a track and the memory that an operand names. -/
def trackCopyReq (f : Form) (s : State) (toTrack : Bool) (k p : Nat) (dn : Bool) (m : Operand) : Except Flt CopyReq :=
  let b := (s.engVal f.b).toNat
  if bits b 0 9 < 1 || 256 < bits b 0 9 || bits b 10 14 != 0 || bits b 48 16 != 0 then .error (cCPYFMT, b)
  else match s.engRange m (acopytBytes b) 4, syncPlace s.cur.core (BitVec.ofNat 64 (bits b 24 24)) with
    | .error e, _ => .error e
    | _, .error e => .error e
    | .ok va, .ok sw => .ok ⟨.copyTrack toTrack k p dn (bit b 9) va (bits b 0 9) 0, some sw, bits b 0 9⟩

/-- The memory operand of an ACOPYT (R336). -/
def namesMemory (o : Operand) : Prop := o.isLa = true ∨ ∃ r x, o = .bo r x

section Requests
variable {f : Form} {s : State} {k p : Nat} {dn : Bool}

theorem acopytReq_toTrack (hd : f.d = .track k p dn) (ha : namesMemory f.a) : acopytReq f s = some (trackCopyReq f s true k p dn f.a) := by
  unfold acopytReq
  rw [hd]
  generalize f.a = m at ha
  cases m with
  | track => rcases ha with ha | ⟨r, x, ha⟩ <;> cases ha
  | _ => rfl

theorem acopytReq_fromTrack (ha : f.a = .track k p dn) (hd : namesMemory f.d) :
    acopytReq f s = some (trackCopyReq f s false k p dn f.d) := by
  unfold acopytReq
  rw [ha]
  generalize f.d = m at hd
  cases m with
  | track => rcases hd with hd | ⟨r, x, hd⟩ <;> cases hd
  | _ => rfl

theorem acopytReq_twoTracks {j q : Nat} {up : Bool} (hd : f.d = .track k p dn) (ha : f.a = .track j q up) : acopytReq f s = none := by
  unfold acopytReq
  rw [hd, ha]

variable {toTrack : Bool} {m : Operand}

theorem trackCopyReq_bad (h : acopytBad (s.engVal f.b).toNat) :
    trackCopyReq f s toTrack k p dn m = .error (cCPYFMT, (s.engVal f.b).toNat) := by
  unfold trackCopyReq
  exact if_pos (by simpa [acopytBad, or_assoc] using h)

theorem trackCopyReq_ok (h : ¬acopytBad (s.engVal f.b).toNat) {va : Nat} {sw : Nat × Nat}
    (hm : s.engRange m (acopytBytes (s.engVal f.b).toNat) 4 = .ok va)
    (hs : syncPlace s.cur.core (BitVec.ofNat 64 (bits (s.engVal f.b).toNat 24 24)) = .ok sw) :
    trackCopyReq f s toTrack k p dn m =
      .ok ⟨.copyTrack toTrack k p dn (bit (s.engVal f.b).toNat 9) va (bits (s.engVal f.b).toNat 0 9) 0, some sw,
        bits (s.engVal f.b).toNat 0 9⟩ := by
  unfold trackCopyReq
  dsimp only
  rw [if_neg (by simpa [acopytBad, or_assoc] using h), hm, hs]

end Requests

/-! ACOPYT at its issue (R339). -/

/-- ACOPYT past the checks of its operands: the faults of its track, the wait of a release, and the beginning of its copy. -/
def acopytAt (r : CopyReq) (s : State) : Res :=
  match s.copyTrackFault r.act false with
  | some e => .fault s e.1 e.2
  | none => asRelease (beginCopy fun s => s.startCopyTrack r r.rows) s

/-- The body of ACOPYT. -/
def acopytBody (f : Form) (s : State) : Res :=
  match acopytReq f s with
  | none => illegal s f 1
  | some (.error e) => .fault s e.1 e.2
  | some (.ok r) => acopytAt r s.settleMine

theorem exec_acopyt {f : Form} {s : State} (hu : s.cur.unit = .context) :
    exec (.acopyt f) s = issueWith f 0 (scalarWarn f false) false false (copyReport f) (acopytBody f) s := by
  show execAcopyt f s = _
  unfold execAcopyt
  rw [hu]
  rfl

/-- A range of `n` positions that runs past the end of its track from head `h` (R339). -/
def pastEnd (dn : Bool) (h n : Nat) : Prop := if dn then h + 1 < n else 256 < h + n

/-- The head that a copy of `n` positions leaves (R339). -/
def headAfter (dn : Bool) (h n : Nat) : Nat := if dn then h - n else min 255 (h + n)

section At
variable {u : State} {toTrack dn all : Bool} {k p va n g : Nat}

theorem copyTrackFault_notOwned (ho : u.ownsTrack u.cur.core u.cur.ctx k false = false) :
    u.copyTrackFault (.copyTrack toTrack k p dn all va n g) false = some (cTRKOWN, trkVal u u.cur.core k) := by
  simp [State.copyTrackFault, ho]

theorem copyTrackFault_pastEnd (ho : u.ownsTrack u.cur.core u.cur.ctx k false = true)
    (hr : pastEnd dn (u.track u.cur.core k).head n) :
    u.copyTrackFault (.copyTrack toTrack k p dn all va n g) false = some (cTRKRANGE, trkVal u u.cur.core k) := by
  cases dn <;> simpa [State.copyTrackFault, ho, pastEnd] using hr

theorem copyTrackFault_none (ho : u.ownsTrack u.cur.core u.cur.ctx k false = true)
    (hr : ¬pastEnd dn (u.track u.cur.core k).head n) :
    u.copyTrackFault (.copyTrack toTrack k p dn all va n g) false = none := by
  cases dn <;> simpa [State.copyTrackFault, ho, pastEnd] using hr

end At

section Start
variable (u : State) (o : EngOp) (dn : Bool) (k p n : Nat)

/-- The access of a copy at its track's queue, behind earlier ones (R339). -/
def State.copyAccess : TrkOp :=
  ⟨u.nextId + 1, .copy u.nextId, p, (u.track u.cur.core k).head, u.cur.ctx, some u.nextId, .none, 0⟩

/-- The state in which a copy between a track and memory has begun: its access queued, and the architected head at its final value. -/
def State.copyQueued : State :=
  ((u.begun o).fresh.2.queueAccess u.cur.core k (u.copyAccess k p)).setHead u.cur.core k (headAfter dn (u.track u.cur.core k).head n)

theorem State.copyQueued_frame : TrackFrame (· = ·) (u.copyQueued o dn k p n) (u.begun o).fresh.2 :=
  (State.setHead_frame _ _ _ _).transEq (State.queueAccess_frame _ _ _ _)

theorem State.copyQueued_same : SameContexts (u.copyQueued o dn k p n) (u.begun o) :=
  (u.copyQueued_frame o dn k p n).sameContexts.trans (State.fresh_sameContexts _)

theorem State.copyQueued_ops : (u.copyQueued o dn k p n).ops = (u.begun o).ops := by
  obtain ⟨⟨_, _, _, _, h⟩, _⟩ := u.copyQueued_frame o dn k p n
  rw [h]
  rfl

theorem State.track_copyQueued : (u.copyQueued o dn k p n).track u.cur.core k =
    { u.track u.cur.core k with
      head := headAfter dn (u.track u.cur.core k).head n, queue := (u.track u.cur.core k).queue ++ [u.copyAccess k p] } := by
  have h : (u.begun o).fresh.2.track u.cur.core k = u.track u.cur.core k := u.track_begun o _ _
  rw [State.copyQueued, State.track_setHead, State.track_queueAccess, if_pos rfl, h]

theorem State.track_copyQueued_ne {j : Nat} (hj : j ≠ k) : (u.copyQueued o dn k p n).track u.cur.core j = u.track u.cur.core j := by
  rw [State.copyQueued, State.track_setHead_ne _ _ _ hj, State.track_queueAccess, if_neg hj]
  exact u.track_begun o _ _

end Start

/-- The bytes of a copy of `n` positions of a track. -/
def trackBytes (all : Bool) (n : Nat) : Nat := 4 * n * (if all then 4 else 1)

theorem State.startCopyTrack_eq {u : State} (hu : u.cur.unit = .context) {toTrack dn all : Bool} {k p va n : Nat} {sw : Nat × Nat}
    (hn : n ≠ 0) : u.startCopyTrack ⟨.copyTrack toTrack k p dn all va n 0, some sw, n⟩ n =
      u.copyQueued (u.copyOp (.copyTrack toTrack k p dn all va n (u.track u.cur.core k).head) sw n (trackBytes all n)) dn k p n := by
  have hz : ¬(n == 0) = true := by simpa using hn
  have hst := State.engStart_copyOp hu (.copyTrack toTrack k p dn all va n (u.track u.cur.core k).head) sw n (trackBytes all n)
  unfold State.copyOp trackBytes at hst
  unfold State.startCopyTrack
  simp only [hst, hz]
  rfl

section Acopyt
variable {f : Form} {s : State} (h : Runs f 0 s)
include h

theorem traps_acopyt_bad {b : Nat} (hreq : acopytReq f s = some (.error (cCPYFMT, b))) : Traps (.acopyt f) s cCPYFMT b :=
  traps_issue h (exec_acopyt h.unit) (by rw [acopytBody, hreq])

theorem traps_acopyt_twoTracks (hreq : acopytReq f s = none) :
    Traps (.acopyt f) s cILLEGAL (s.me.pc + BitVec.ofNat 64 (4 * (f.npfx + 1))).toNat :=
  traps_issue h (exec_acopyt h.unit) (by rw [acopytBody, hreq]; rfl)

variable {toTrack dn all : Bool} {k p va n : Nat} {sw : Nat × Nat}
  (hreq : acopytReq f s = some (.ok ⟨.copyTrack toTrack k p dn all va n 0, some sw, n⟩))
include hreq

/-- A fault of its track traps in the state in which the motions have been charged. -/
theorem exec_acopyt_fault {code : Nat} (hl : s.me.loads = [])
    (hf : s.settleMine.copyTrackFault (.copyTrack toTrack k p dn all va n 0) false = some (code, trkVal s.settleMine s.cur.core k)) :
    exec (.acopyt f) s = .next (s.settleMine.enterTrap s.cur.core s.cur.ctx (causeWord code false 0 0 0 0)
      (BitVec.ofNat 64 (k + 256 * (s.settleMine.track s.cur.core k).head)) s.me.pc) := by
  have hb : acopytBody f s = .fault s.settleMine code (trkVal s.settleMine s.cur.core k) := by
    simp only [acopytBody, hreq, acopytAt, hf]
  rw [exec_acopyt h.unit, issueWith_fault h hl _ _ _ _ hb]
  rfl

/-- ACOPYT past its checks and its waits. -/
theorem begins_acopyt (hn : n ≠ 0) (ho : s.settleMine.ownsTrack s.cur.core s.cur.ctx k false = true)
    (hr : ¬pastEnd dn (s.settleMine.track s.cur.core k).head n) (hw : s.relWait = none) (hroom : s.copiesFull s.cur.core = false) :
    Gives (.acopyt f) s fun t =>
      Begins f (.copyTrack toTrack k p dn all va n (s.settleMine.track s.cur.core k).head) sw n s s.settleMine t ∧
      t.track s.cur.core k = { s.settleMine.track s.cur.core k with
        head := headAfter dn (s.settleMine.track s.cur.core k).head n,
        queue := (s.settleMine.track s.cur.core k).queue ++ [s.settleMine.copyAccess k p] } ∧
      ∀ j, j ≠ k → t.track s.cur.core j = s.settleMine.track s.cur.core j := by
  have hu := s.settleMine_frame
  have hunit : s.settleMine.cur.unit = .context := by rw [hu.cur]; exact h.unit
  have hcore : s.settleMine.cur.core = s.cur.core := by rw [hu.cur]
  have hfault : s.settleMine.copyTrackFault (.copyTrack toTrack k p dn all va n 0) false = none := by
    refine copyTrackFault_none ?_ ?_ <;> rw [hu.cur] <;> assumption
  have hb : acopytBody f s = .done (s.settleMine.startCopyTrack ⟨.copyTrack toTrack k p dn all va n 0, some sw, n⟩ n) := by
    simp only [acopytBody, hreq, acopytAt, hfault]
    rw [asRelease_of_none (s.relWait_settleMine.trans hw)]
    exact beginCopy_room ((hu.copiesFull _).trans (by rw [hcore]; exact hroom))
  rw [State.startCopyTrack_eq hunit hn] at hb
  refine (gives_begins h (exec_acopyt h.unit) hb hu (State.copyQueued_same ..) (State.copyQueued_ops ..)).imp
    fun t ⟨has, hbegins⟩ => ⟨by rw [← hcore]; exact hbegins, ?_, fun j hj => ?_⟩
  · rw [has.track, ← hcore]
    exact State.track_copyQueued ..
  · rw [has.track, ← hcore]
    exact State.track_copyQueued_ne _ _ _ _ _ _ hj

end Acopyt

/-! The statement. -/

/-- Settles O33: a copy's checks, its waits and its beginning, of ACOPY over the state as it stands and of ACOPYT over that in which
the motions of its core have been charged. -/
theorem copyInstructions : Obligations.CopyInstructions := by
  unfold Obligations.CopyInstructions
  intro f s h core c b u sync begins
  have hu : s.settleMine.cur = s.cur := s.settleMine_frame.cur
  refine ⟨⟨fun hbad => ?_, fun h8 hmin hmax hres => ?_⟩, ?_⟩
  · exact traps_issue h (exec_acopy h.unit) (acopyBody_error (acopyReq_bad hbad))
  · have hgood : ¬acopyBad b := by unfold acopyBad; omega
    refine ⟨fun e he => traps_issue h (exec_acopy h.unit) (acopyBody_error (acopyReq_dest hgood he)), fun d a sw hd ha hsw => ?_⟩
    have hreq := acopyReq_ok hgood hd ha hsw
    have hbody := acopyBody_ok hreq
    exact ⟨fun hout => held_issue h (exec_acopy h.unit) (hbody.trans (asRelease_of_storesOut hout)) rfl,
      fun hw hfull => held_issue h (exec_acopy h.unit) (hbody.trans ((asRelease_of_none hw).trans (beginCopy_full hfull))) rfl,
      fun hw hroom => begins_acopy h hreq hmin hw hroom⟩
  · intro n all tracks
    have htracks (toTrack : Bool) (m : Operand) (k p : Nat) (dn : Bool)
        (hreq : acopytReq f s = some (trackCopyReq f s toTrack k p dn m)) : tracks toTrack m k p dn := by
      refine ⟨fun hbad => traps_acopyt_bad h (by rw [hreq, trackCopyReq_bad hbad]), fun h1 h256 hr1 hr2 va sw hm hsw => ?_⟩
      have hgood : ¬acopytBad b := by unfold acopytBad; omega
      rw [trackCopyReq_ok hgood hm hsw] at hreq
      refine ⟨fun ho hl => exec_acopyt_fault h hreq hl ?_, fun ho hr hl => exec_acopyt_fault h hreq hl ?_, fun ho hr hw hroom => ?_⟩
      · rw [copyTrackFault_notOwned (by rw [hu]; exact ho), hu]
      · rw [copyTrackFault_pastEnd (by rw [hu]; exact ho) (by rw [hu]; exact hr), hu]
      · refine (begins_acopyt h hreq (Nat.one_le_iff_ne_zero.mp h1) ho hr hw hroom).imp fun t ⟨hbegins, htr, hne⟩ => ⟨?_, ?_, ?_, hne⟩
        · exact hbegins
        · rw [htr]; rfl
        · rw [htr, State.copyAccess, s.settleMine_frame.nextId, hu]
          rfl
    exact ⟨fun k p dn hd ha => htracks _ _ _ _ _ (acopytReq_toTrack hd ha), fun k p dn ha hd => htracks _ _ _ _ _ (acopytReq_fromTrack ha hd),
      fun k p dn j q up hd ha => traps_acopyt_twoTracks h (acopytReq_twoTracks hd ha)⟩

end Sys2Proof.Machine
end

section
/-! SUPPORT. How instructions on sync words and completion bits end: completed over a state that their work has left, with a value
acquired, or held in WAIT (R147, R205): O34. -/
namespace Sys2Proof.Machine

/-! Completion over the state that an instruction's work has left. -/

theorem RegsKept.congr {w : May} {s s' t t' : State} (h : RegsKept w s t) (hs : s'.me = s.me) (ht : t'.me = t.me) :
    RegsKept w s' t' := by
  constructor <;> rw [hs, ht]
  exacts [h.scalars, h.vectors, h.masks, h.accs, h.fmts, h.slots, h.srs, h.stat, h.signal]

/-- Completion reads the system registers of the context that it completes alone. -/
theorem Completed.of_srGet {warns : Bool} {npc : Word} {s u t : State} (h : Completed warns npc u t)
    (hsr : ∀ n, u.me.srGet n = s.me.srGet n) : Completed warns npc s t := by
  obtain ⟨hpc, hloops⟩ := Ctx.loopEnd_congr u.me s.me npc 5 fun n _ _ => hsr n
  have hends : ∀ r ∈ endRegs, r ≠ rSTAT → 0x20 ≤ r ∧ r ≤ 0x2E := by decide
  exact {
    pc := h.pc.trans hpc
    loops := fun r hr hs => (h.loops r hr hs).trans (hloops r (hends r hr hs).1 (hends r hr hs).2)
    free := h.free
    warn := by rw [h.warn, Ctx.statBit_of_sr (hsr _)]
    pfx := h.pfx }

/-- An instruction outside the vector majors whose body completes in `t`, the registers of `w` and STAT.WARN, which `b` sets, apart as
its work has left them in `u`. -/
theorem gives_done_from {i : Instr} {f : Form} {cost : Nat} {s u t : State} {w : May} {b : Bool} {body : State → Res} (h : Runs f cost s)
    (he : exec i s = issueCost f cost body s) (hb : body s = .done t) (hu : u.cur = s.cur) (hc : t.cur = s.cur) (hk : RegsKept w u t)
    (hstep : t.me.statBit bSTEP = false) (hwarn : t.me.statBit bWARN = (u.me.statBit bWARN || b))
    (hl : ∀ n, 0x20 ≤ n → n ≤ 0x2E → t.me.srGet n = u.me.srGet n) :
    Gives i s fun v => StateAs s.cur.core s.cur.ctx v t ∧ CtxAs v.me t.me ∧
      (∀ n, n < 64 → n ≠ bWARN → n ≠ bPFX → v.me.statBit n = t.me.statBit n) ∧ RegsKept w u v ∧
      Completed (s.plainWarn f || b) (s.fall f) u v := by
  obtain ⟨hblock, hpc, hw, hpfx, hsr, hstat⟩ := State.after_me s cost (s.plainWarn f) (s.fall f) t hc
  have has := State.after_as s cost (s.plainWarn f) (s.fall f) t hc
  have hends : ∀ r ∈ endRegs, r ≠ rSTAT → 0x20 ≤ r ∧ r ≤ 0x2E := by decide
  refine ⟨s.after cost (s.plainWarn f) (s.fall f) t, ?_, has, ?_, hstat, ?_, ?_⟩
  · rw [he, issueCost, issueWith_done h (scalarWarn f false) false noReport hb hc (hstep.trans h.noStep.symm)]
    simp [State.plainWarn]
  · rw [State.me_eq (has.cur.trans hc), State.me_eq hc]
    exact has.me
  · rw [State.after_of_cur hu]
    exact State.after_regsKept u cost _ _ t w (hc.trans hu.symm) hk
  · obtain ⟨hlpc, hlsr⟩ := Ctx.loopEnd_congr _ _ (s.fall f) 5 hl
    refine ⟨hpc.trans hlpc, fun r hr hs => ?_, hblock, ?_, hpfx⟩
    · obtain ⟨h1, h2⟩ := hends r hr hs
      exact (hsr r h1 h2).trans (hlsr r h1 h2)
    · rw [hw, hwarn, Bool.or_assoc, Bool.or_comm b]

/-- An instruction that acquires with a value for its scalar destination (R147), once its work has left `u`. -/
theorem gives_acquired {i : Instr} {f : Form} {cost : Nat} {s u : State} {v : Word} {body : State → Res} (h : Runs f cost s)
    (he : exec i s = issueCost f cost body s) (hb : body s = .done (u.acquire.putS f.d.sreg v)) (hu : u.cur = s.cur)
    (hstep : u.me.statBit bSTEP = false) : Gives i s fun t =>
      Result f v u t ∧ RegsKept { regs := [f.d.sreg] } u t ∧ (t.core s.cur.core).c1 = (u.core s.cur.core).c1Acquire.c1 ∧ MemKept u t ∧
      Completed (s.plainWarn f) (s.fall f) u t := by
  have hme := u.acquire_putS_me f.d.sreg v
  have hput : (u.putS f.d.sreg v).me = u.me.setS f.d.sreg v := by simp [State.putS]
  have hsr (n : Nat) : (u.acquire.putS f.d.sreg v).me.srGet n = u.me.srGet n := by rw [hme, Ctx.srGet_setS]
  refine (gives_done_from (b := false) h he hb hu (u.acquire_cur.trans hu)
    ((u.putS_kept f.d.sreg v).regs.congr rfl (hme.trans hput.symm)) ((Ctx.statBit_of_sr (hsr _) _).trans hstep)
    ((Ctx.statBit_of_sr (hsr _) _).trans (Bool.or_false _).symm) fun n _ _ => hsr n).imp
    fun t ⟨has, hctx, _, hk, hd⟩ => ⟨fun r => ?_, hk, ?_, ?_, by rwa [Bool.or_false] at hd⟩
  · rw [hctx.sreg, State.putS_sreg, u.acquire_me]
    by_cases hr : r = f.d.sreg
    · subst hr; rfl
    · simp [hr]
  · rw [(has.caches _).1, ((State.putS_kept _ _ _).rest.caches _).1, ← hu, u.acquire_c1]
    rfl
  · exact (u.acquire_memKept.trans (State.putS_kept _ _ _).mem).trans has.memKept

/-- An instruction that waits, with nothing done, is held in WAIT (R205). -/
theorem held_wait {i : Instr} {f : Form} {cost : Nat} {s : State} {wt : Wait} {body : State → Res} (h : Runs f cost s)
    (he : exec i s = issueCost f cost body s) (hb : body s = .hold s wt 0) (hw : wt.isWait = true) :
    Gives i s fun t => Held .wait s t := by
  let warn := (scalarWarn f false || (s.me.statBit bPFX && !false)) && wt.timesOut
  have hh := s.holdMe_held wt 0 warn
  obtain ⟨since, hblock⟩ := hh.me.block
  refine ⟨s.holdMe wt 0 warn, ?_, ?_, hh.me.pc, by rw [hblock]; rfl, hh.regsKept rfl, hh.memKept⟩
  · rw [he, issueCost, issueWith_runs h, hb]
    simp [warn]
  · obtain ⟨issues, hm⟩ := s.holdMe_eq wt 0 warn
    rw [hm, State.me_setMe, Ctx.heldAt, if_pos hw]

/-! Bits of STAT that a store and its instruction set. -/

/-- A context as another but for bits of STAT. -/
structure StatOnly (bs : List Nat) (y x : Ctx) : Prop where
  as : CtxAs y x
  sr : ∀ n, n ≠ rSTAT → y.srGet n = x.srGet n
  stat : ∀ i, i < 64 → i ∉ bs → y.statBit i = x.statBit i

theorem StatOnly.trans {bs : List Nat} {x y z : Ctx} (h : StatOnly bs z y) (g : StatOnly bs y x) : StatOnly bs z x where
  as := h.as.trans g.as
  sr n hn := (h.sr n hn).trans (g.sr n hn)
  stat i hi hb := (h.stat i hi hb).trans (g.stat i hi hb)

theorem StatOnly.refl (bs : List Nat) (x : Ctx) : StatOnly bs x x := ⟨.refl x, fun _ _ => rfl, fun _ _ _ => rfl⟩

theorem StatOnly.setStat {bs : List Nat} (x : Ctx) {i : Nat} (b : Bool) (hi : i ∈ bs) : StatOnly bs (x.setStat i b) x where
  as := x.setStat_as i b
  sr n hn := x.srGet_setStat i n b hn
  stat j hj hb := by rw [Ctx.statBit_setStat _ _ _ _ hj, if_neg fun e => hb (by rwa [e])]

theorem CtxOrace.statOnly {bs : List Nat} {x y : Ctx} (h : CtxOrace y x) (hb : bORACE ∈ bs) : StatOnly bs y x where
  as := h.as
  sr := h.sr
  stat i hi hn := h.stat i hi fun e => hn (by rwa [e])

theorem StatOnly.regsKept {bs : List Nat} {s t : State} {w : May} (h : StatOnly bs t.me s.me) (hb : bs ⊆ bWARN :: bPFX :: w.stats) :
    RegsKept w s t where
  scalars r _ := h.as.sreg r
  vectors r _ := h.as.vreg r
  masks r _ := h.as.mreg r
  accs _ := ⟨h.as.acc, h.as.accSum⟩
  fmts f _ := h.as.fent f
  slots g _ := h.as.guard g
  srs n _ hn := h.as.sr n hn
  stat _ i hi hn := h.stat i hi fun e => hn (hb e)
  signal := h.as.signal

/-- The loop registers are those of a context that differs in STAT alone. -/
theorem StatOnly.loops {bs : List Nat} {y x : Ctx} (h : StatOnly bs y x) (n : Nat) (h1 : 0x20 ≤ n) (_ : n ≤ 0x2E) :
    y.srGet n = x.srGet n := h.sr n (by unfold rSTAT; omega)

end Sys2Proof.Machine
end

section
/-! SUPPORT. SWINIT, SWWAIT and SWREAD (R172, R340, R341): O34. -/
namespace Sys2Proof.Machine

/-! SWINIT (R340). -/

/-- The sync word that SWINIT leaves (R172, R340): TARGET from a, GEN as it was, and the rest cleared. -/
def initWord (a old : Nat) : Nat := bits a 0 40 + swGen old * 2 ^ 80

theorem bits_initWord (a old : Nat) : initWord a old < 2 ^ 128 ∧ bits (initWord a old) 0 40 = bits a 0 40 ∧
    bits (initWord a old) 40 40 = 0 ∧ bits (initWord a old) 80 24 = bits old 80 24 ∧ bits (initWord a old) 104 24 = 0 := by
  have ha : bits a 0 40 < 2 ^ 40 := bits_lt ..
  have hg : bits old 80 24 < 2 ^ 24 := bits_lt ..
  unfold initWord swGen
  generalize bits a 0 40 = x at ha
  generalize bits old 80 24 = g at hg
  unfold bits
  omega

/-- SWINIT's body. -/
def swinitBody (f : Form) (s : State) : Res :=
  match syncPlace s.cur.core (s.me.opAddr f.d) with
  | .error e => .fault s e.1 e.2
  | .ok (c, o) => .done (swInit s c o (s.me.opS f.a))

theorem exec_swinit {f : Form} {s : State} (hu : s.cur.unit = .context) : exec (.swinit f) s = issueCost f 16 (swinitBody f) s := by
  show execSwinit f s = _
  unfold execSwinit
  rw [hu]
  rfl

theorem swInit_eq (s : State) (c o : Nat) (a : Word) : swInit s c o a =
    (s.stallWrite c o 16 (initWord a.toNat (s.stallRead c o 16))).warnIf (decide (bits a.toNat 40 24 ≠ 0)) := by
  unfold swInit
  rw [show (fieldOf a 40 24 != 0) = decide (bits a.toNat 40 24 ≠ 0) from Bool.eq_iff_iff.mpr (by simp [fieldOf])]
  rfl

/-- STAT.WARN set where a fallback applies (R258). -/
theorem State.warnIf_statBit (s : State) (b : Bool) : (s.warnIf b).me.statBit bWARN = (s.me.statBit bWARN || b) := by
  cases b
  · exact (Bool.or_false _).symm
  · rw [Bool.or_true, State.warnIf, if_pos rfl, State.warn, State.me_modMe, Ctx.statBit_setStat _ _ _ _ (by decide), if_pos rfl]

theorem State.warnIf_statOnly {bs : List Nat} (s : State) (b : Bool) (hb : bWARN ∈ bs) : StatOnly bs (s.warnIf b).me s.me := by
  cases b
  · exact .refl _ _
  · rw [State.warnIf, if_pos rfl, State.warn, State.me_modMe]
    exact .setStat _ _ hb

section Swinit
variable {f : Form} {s : State} (h : Runs f 16 s)
include h

theorem traps_swinit {e : Flt} (he : syncPlace s.cur.core (s.me.opAddr f.d) = .error e) : Traps (.swinit f) s e.1 e.2 :=
  traps_fault h (exec_swinit h.unit) (by rw [swinitBody, he])

theorem gives_swinit {c o : Nat} (hp : syncPlace s.cur.core (s.me.opAddr f.d) = .ok (c, o)) : Gives (.swinit f) s fun t =>
    t.stallRead c o 16 = initWord (s.me.opS f.a).toNat (s.stallRead c o 16) ∧ StallStore c o 16 s t ∧
    RegsKept { stats := [bORACE] } s t ∧
    Completed (s.plainWarn f || decide (bits (s.me.opS f.a).toNat 40 24 ≠ 0)) (s.fall f) s t := by
  let v := initWord (s.me.opS f.a).toNat (s.stallRead c o 16)
  let b := decide (bits (s.me.opS f.a).toNat 40 24 ≠ 0)
  have hst := s.stallWrite_stored c o 16 v
  have hwa := State.warnIf_as (s.stallWrite c o 16 v) b
  have hstat : StatOnly [bORACE, bWARN] ((s.stallWrite c o 16 v).warnIf b).me s.me :=
    (State.warnIf_statOnly _ _ (by decide)).trans (hst.me.statOnly (by decide))
  have hb : swinitBody f s = .done ((s.stallWrite c o 16 v).warnIf b) := by rw [swinitBody, hp, ← swInit_eq]
  refine (gives_done_from h (exec_swinit h.unit) hb rfl (hwa.cur.trans hst.cur) (hstat.regsKept (by decide))
    ((hstat.stat _ (by decide) (by decide)).trans h.noStep) ?_ hstat.loops).imp fun t ⟨has, _, _, hk, hd⟩ => ⟨?_, ?_, hk, hd⟩
  · rw [State.warnIf_statBit, hst.me.stat _ (by decide) (by decide)]
  · rw [has.stallRead, hwa.stallRead, State.stallRead_stallWrite]
    exact Nat.mod_eq_of_lt (bits_initWord ..).1
  · exact ((s.stallWrite_stallStore c o 16 v).of_as hwa).of_as has

end Swinit

/-! SWWAIT and SWREAD (R341). -/

theorem withSyncWord_error {w : Word} {b n : Nat} {body : Nat → Nat → Nat → State → Res} {s : State} {e : Flt}
    (h : syncPlace s.cur.core w = .error e) : withSyncWord w b n body s = .fault s e.1 e.2 := by rw [withSyncWord, h]

theorem withSyncWord_clean {w : Word} {b n c o : Nat} {body : Nat → Nat → Nat → State → Res} {s : State}
    (h : syncPlace s.cur.core w = .ok (c, o)) (hp : s.stallPoison c (o + b) n = none) :
    withSyncWord w b n body s = body c o (s.stallRead c o 16) s := by
  rw [withSyncWord, h]
  simp only [hp]
  rfl

/-- SWWAIT past its checks: it waits until GEN has passed b, and then observes what the word counts. -/
def swwaitAt (f : Form) (c o w : Nat) (s : State) : Res :=
  if !genPassed (swGen w) (fieldOf (s.me.opU f.b) 0 24) then .hold s (.syncGen c o (fieldOf (s.me.opU f.b) 0 24)) 0
  else
    let s := s.observe s.cur.core s.cur.ctx fun e => e.2.sync == some (c, o) && genPassed (swGen w) e.2.gen
    .done (s.acquire.putS f.d.sreg (BitVec.ofNat 64 (bits w 80 33)))

theorem exec_swwait (f : Form) (s : State) :
    exec (.swwait f) s = issueCost f 16 (fun s => withSyncWord (s.me.opAddr f.a) 10 6 (swwaitAt f) s) s := rfl

/-- How far the generation of a sync word is past a number (R341). -/
def genPast (w g : Nat) : Nat := (bits w 80 24 + 2 ^ 24 - bits g 0 24) % 2 ^ 24

theorem genPassed_iff (w g : Nat) : genPassed (swGen w) (bits g 0 24) = true ↔ 0 < genPast w g ∧ genPast w g < 2 ^ 23 := by
  have hg : bits g 0 24 % 2 ^ 24 = bits g 0 24 := Nat.mod_eq_of_lt (bits_lt ..)
  unfold genPassed genPast swGen
  rw [hg]
  simp

/-- Observing operations takes them out of those known, and out of those that the context has pending. -/
theorem State.observe_eq (s : State) (which : Nat × EngOp → Bool) : ∃ os p,
    s.observe s.cur.core s.cur.ctx which = ({ s with ops := os } : State).setMe { s.me with pending := p } := ⟨_, _, rfl⟩

theorem State.observe_me (s : State) (which : Nat × EngOp → Bool) :
    ∃ p, (s.observe s.cur.core s.cur.ctx which).me = { s.me with pending := p } := by
  obtain ⟨_, p, h⟩ := s.observe_eq which
  exact ⟨p, by rw [h, State.me_setMe]⟩

theorem State.observe_frame (s : State) (which : Nat × EngOp → Bool) (n : Nat) :
    (s.observe s.cur.core s.cur.ctx which).cur = s.cur ∧ MemKept s (s.observe s.cur.core s.cur.ctx which) ∧
    ((s.observe s.cur.core s.cur.ctx which).core n).c1 = (s.core n).c1 := by
  obtain ⟨_, p, h⟩ := s.observe_eq which
  rw [h]
  exact ⟨rfl, .of_eq rfl rfl rfl rfl, ((State.setMe_rest _ _).caches n).1⟩

theorem Core.c1Acquire_congr {k l : Core} (h : k.c1 = l.c1) : k.c1Acquire.c1 = l.c1Acquire.c1 := by
  unfold Core.c1Acquire
  rw [h]

/-- SWREAD's body. -/
def swreadBody (f : Form) (s : State) : Res :=
  if 1 < f.b.immU then illegal s f 2
  else withSyncWord (s.me.opAddr f.a) (8 * f.b.immU) 8 (fun _ _ w s =>
    .done (s.putS f.d.sreg (BitVec.ofNat 64 (bits w (64 * f.b.immU) 64)))) s

theorem exec_swread (f : Form) (s : State) : exec (.swread f) s = issueCost f 16 (swreadBody f) s := rfl

section Syncs
variable {f : Form} {s : State} (h : Runs f 16 s)
include h

theorem traps_swwait {e : Flt} (he : syncPlace s.cur.core (s.me.opAddr f.a) = .error e) : Traps (.swwait f) s e.1 e.2 :=
  traps_fault h (exec_swwait f s) (withSyncWord_error he)

theorem traps_swread (hb : 2 ≤ f.b.immU) :
    Traps (.swread f) s cILLEGAL (s.me.pc + BitVec.ofNat 64 (4 * (f.npfx + 2))).toNat :=
  traps_fault h (exec_swread f s) (if_pos (Nat.lt_of_succ_le hb))

variable {c o : Nat} (hp : syncPlace s.cur.core (s.me.opAddr f.a) = .ok (c, o))
include hp

theorem held_swwait (hclean : s.stallPoison c (o + 10) 6 = none)
    (hg : genPassed (swGen (s.stallRead c o 16)) (bits (s.me.opU f.b).toNat 0 24) = false) :
    Gives (.swwait f) s fun t => Held .wait s t := by
  refine held_wait (wt := .syncGen c o (bits (s.me.opU f.b).toNat 0 24)) h (exec_swwait f s) ((withSyncWord_clean hp hclean).trans ?_) rfl
  unfold swwaitAt fieldOf
  rw [hg]
  rfl

/-- SWWAIT completes once GEN has passed b: its context observes the operations counted, and acquires. -/
theorem gives_swwait (hclean : s.stallPoison c (o + 10) 6 = none)
    (hg : genPassed (swGen (s.stallRead c o 16)) (bits (s.me.opU f.b).toNat 0 24) = true) :
    Gives (.swwait f) s fun t => Result f (BitVec.ofNat 64 (bits (s.stallRead c o 16) 80 33)) s t ∧
      (t.core s.cur.core).c1 = s.myCore.c1Acquire.c1 ∧ MemKept s t ∧
      RegsKept { regs := [f.d.sreg] } (s.modMe fun x => { x with pending := t.me.pending }) t ∧
      Completed (s.plainWarn f) (s.fall f) s t := by
  let which (e : Nat × EngOp) : Bool := e.2.sync == some (c, o) && genPassed (swGen (s.stallRead c o 16)) e.2.gen
  obtain ⟨hcur, hmem, hc1⟩ := s.observe_frame which s.cur.core
  obtain ⟨p, hme⟩ := s.observe_me which
  have hb : withSyncWord (s.me.opAddr f.a) 10 6 (swwaitAt f) s = .done ((s.observe s.cur.core s.cur.ctx which).acquire.putS f.d.sreg
      (BitVec.ofNat 64 (bits (s.stallRead c o 16) 80 33))) := by
    rw [withSyncWord_clean hp hclean]
    unfold swwaitAt fieldOf
    rw [hg]
    rfl
  generalize s.observe s.cur.core s.cur.ctx which = u at hcur hmem hc1 hme hb
  have hsr (n : Nat) : u.me.srGet n = s.me.srGet n := by rw [hme]; rfl
  refine (gives_acquired h (exec_swwait f s) hb hcur ((Ctx.statBit_of_sr (hsr _) _).trans h.noStep)).imp
    fun t ⟨hres, hk, ht1, htm, hd⟩ => ⟨fun r => ?_, ht1.trans (Core.c1Acquire_congr hc1), hmem.trans htm, hk.congr ?_ rfl, hd.of_srGet hsr⟩
  · rw [hres r, hme]; rfl
  · obtain ⟨-, -, -, hpend⟩ := hk.signal
    rw [State.me_modMe, hpend, hme]

theorem writes_swread (hb : f.b.immU ≤ 1) (hclean : s.stallPoison c (o + 8 * f.b.immU) 8 = none) :
    Writes (.swread f) f s (BitVec.ofNat 64 (bits (s.stallRead c o 16) (64 * f.b.immU) 64)) := by
  refine writes_of_putS h (exec_swread f s) ?_
  rw [swreadBody, if_neg (by omega), withSyncWord_clean hp hclean]

end Syncs

end Sys2Proof.Machine
end

section
/-! SUPPORT. CBSET (R176, R342): O34. -/
namespace Sys2Proof.Machine

/-- The bytes of memory are those of a number of as many bytes. -/
theorem memRead_lt (m : List Host.Cell) (a n : Nat) : memRead m a n < 256 ^ n := by
  induction n generalizing a with
  | zero => exact Nat.one_pos
  | succ n ih =>
    have hb : (memByte m a).toNat < 256 := BitVec.isLt _
    have hr := ih (a + 1)
    rw [memRead, Nat.pow_succ]
    omega

/-- CBSET's body: the checks of its word, and the bit set behind a release. -/
def cbsetBody (f : Form) (s : State) : Res :=
  match (if f.a.isLa then (checkLa s.cur.core (cbAddr (s.me.opAddr f.a) (s.me.opU f.b)) 8 8).map fun _ => ()
    else (s.checkVa s.me.vf (cbAddr (s.me.opAddr f.a) (s.me.opU f.b)) 8).map fun _ => ()) with
  | .error e => .fault s e.1 e.2
  | .ok _ => asRelease (cbset f (cbAddr (s.me.opAddr f.a) (s.me.opU f.b)) (fieldOf (s.me.opU f.b) 0 6)) s

theorem exec_cbset {f : Form} {s : State} (hu : s.cur.unit = .context) :
    exec (.cbset f) s = issueCost f (memCost f.a) (cbsetBody f) s := by
  show execCbset f s = _
  unfold execCbset
  rw [hu]
  rfl

section Checked
variable {f : Form} {s : State} {w : Word} {k : Nat} (hw : cbAddr (s.me.opAddr f.a) (s.me.opU f.b) = w)
  (hk : fieldOf (s.me.opU f.b) 0 6 = k)
include hw hk

theorem cbsetBody_la (hla : f.a.isLa = true) {p : Nat × Nat} (hp : checkLa s.cur.core w 8 8 = .ok p) :
    cbsetBody f s = asRelease (cbset f w k) s := by
  rw [cbsetBody, if_pos hla, hw, hk, hp]
  rfl

theorem cbsetBody_virtual (hla : f.a.isLa = false) {p : Place} (hp : s.checkVa s.me.vf w 8 = .ok p) :
    cbsetBody f s = asRelease (cbset f w k) s := by
  rw [cbsetBody, hla, if_neg Bool.false_ne_true, hw, hk, hp]
  rfl

end Checked

/-! A bit set in a stall (R18, R158). -/

/-- A context that sets a bit with work outstanding is marked (R180). -/
def State.unjoined (s : State) : State := if s.me.outstanding then s.modMe (·.setStat bUNJOIN true) else s

theorem State.unjoined_eq (s : State) : ∃ cs, s.unjoined = { s with cores := cs } := by
  unfold State.unjoined
  split <;> exact ⟨_, rfl⟩

theorem State.unjoined_me (s : State) : s.unjoined.me = if s.me.outstanding then s.me.setStat bUNJOIN true else s.me := by
  unfold State.unjoined
  split
  · exact s.me_modMe _
  · rfl

theorem State.unjoined_statOnly {bs : List Nat} (s : State) (hb : bUNJOIN ∈ bs) : StatOnly bs s.unjoined.me s.me := by
  rw [State.unjoined_me]
  split
  · exact .setStat _ _ hb
  · exact .refl _ _

theorem State.unjoined_statBit (s : State) : s.unjoined.me.statBit bUNJOIN = (s.me.statBit bUNJOIN || s.me.outstanding) := by
  rw [State.unjoined_me]
  split
  next h => rw [Ctx.statBit_setStat _ _ _ _ (by decide), if_pos rfl, h, Bool.or_true]
  next h => rw [Bool.not_eq_true] at h; rw [h, Bool.or_false]

/-- The OR of a bit into the 8 bytes of a stall at an LA. -/
theorem laAccess_setBit {k c o : Nat} {w : Word} {fin : Nat → State → Res} {s : State} (hk : k < 64)
    (h : checkLa s.cur.core w 8 8 = .ok (c, o)) (hp : s.stallPoison c o 8 = none) :
    laAccess (.rmw 3 (2 ^ k) 0) 8 w (2 ^ k) fin s = fin (s.stallRead c o 8) (s.stallWrite c o 8 (s.stallRead c o 8 ||| 2 ^ k)) := by
  have hb : 2 ^ k % 2 ^ (8 * 8) = 2 ^ k := Nat.mod_eq_of_lt (Nat.pow_lt_pow_right (by decide) hk)
  simp only [laAccess, h, ReqOp.reads, hp, ReqOp.result, rmwNew, hb]
  rfl

/-- The 8 bytes of a stall with a bit set are those of a number of 8 bytes. -/
theorem State.stallRead_setBit_lt (s : State) (c o : Nat) {k : Nat} (hk : k < 64) : (s.stallRead c o 8 ||| 2 ^ k) < 256 ^ 8 :=
  Nat.or_lt_two_pow (n := 64) (memRead_lt _ _ 8) (Nat.pow_lt_pow_right (by decide) hk)

section Local
variable {f : Form} {s : State} (h : Runs f 16 s) (hla : f.a.isLa = true) {w : Word} {k c o : Nat}
  (hw : cbAddr (s.me.opAddr f.a) (s.me.opU f.b) = w) (hk : fieldOf (s.me.opU f.b) 0 6 = k)
  (hp : checkLa s.cur.core w 8 8 = .ok (c, o))
include h hla

theorem exec_cbset_la : exec (.cbset f) s = issueCost f 16 (cbsetBody f) s := by
  rw [exec_cbset h.unit, memCost, if_pos hla]

include hw hk hp

theorem held_cbset (hout : s.myCore.storesOut s.cur.ctx = true) : Gives (.cbset f) s fun t => Held .ready s t :=
  gives_held (wt := .acks) h (exec_cbset_la h hla) ((cbsetBody_la hw hk hla hp).trans (asRelease_of_storesOut hout)) rfl

theorem gives_cbset (hclean : s.stallPoison c o 8 = none) (hrel : s.relWait = none) : Gives (.cbset f) s fun t =>
    t.stallRead c o 8 = s.stallRead c o 8 ||| 2 ^ k ∧ StallStore c o 8 s t ∧
    t.me.statBit bUNJOIN = (s.me.statBit bUNJOIN || s.me.outstanding) ∧
    RegsKept { stats := [bORACE, bUNJOIN] } s t ∧ Completed (s.plainWarn f) (s.fall f) s t := by
  have hk64 : k < 64 := by rw [← hk]; exact bits_lt _ 0 6
  obtain ⟨_, hu⟩ := s.unjoined_eq
  have hcur : s.unjoined.cur = s.cur := by rw [hu]
  have hread : s.unjoined.stallRead c o 8 = s.stallRead c o 8 := by rw [hu]; rfl
  have hb : cbsetBody f s = .done (s.unjoined.stallWrite c o 8 (s.stallRead c o 8 ||| 2 ^ k)) := by
    rw [cbsetBody_la hw hk hla hp, asRelease_of_none hrel, cbset, if_pos hla, ← hread]
    refine laAccess_setBit (s := s.unjoined) hk64 (by rw [hcur]; exact hp) ?_
    rw [hu]
    exact hclean
  have hst := s.unjoined.stallWrite_stored c o 8 (s.stallRead c o 8 ||| 2 ^ k)
  have hstat : StatOnly [bORACE, bUNJOIN] (s.unjoined.stallWrite c o 8 (s.stallRead c o 8 ||| 2 ^ k)).me s.me :=
    (hst.me.statOnly (by decide)).trans (s.unjoined_statOnly (by decide))
  obtain ⟨hbytes, hflash⟩ := s.unjoined.stallWrite_stallStore c o 8 (s.stallRead c o 8 ||| 2 ^ k)
  refine (gives_done_from (b := false) h (exec_cbset_la h hla) hb rfl (hst.cur.trans hcur) (hstat.regsKept (by decide))
    ((hstat.stat _ (by decide) (by decide)).trans h.noStep) ((hstat.stat _ (by decide) (by decide)).trans (Bool.or_false _).symm)
    hstat.loops).imp fun t ⟨has, _, hbits, hkept, hd⟩ => ⟨?_, ?_, ?_, hkept, by rwa [Bool.or_false] at hd⟩
  · rw [has.stallRead, State.stallRead_stallWrite]
    exact Nat.mod_eq_of_lt (s.stallRead_setBit_lt c o hk64)
  · refine StallStore.of_as has ⟨fun a ha => (hbytes a ha).trans ?_, hflash.trans ?_⟩ <;> rw [hu]
    rfl
  · rw [hbits _ (by decide) (by decide) (by decide), hst.me.stat _ (by decide) (by decide), s.unjoined_statBit]

end Local

/-! A bit set in translated memory (R176, R342): posted behind the release (log entry 160). -/

/-- The journal entry of a bit set at an element. -/
def setBitEntry (s : State) (e : Elem) (v : Nat) : JEntry :=
  { state := 1, va := extend56 e.va, data := BitVec.ofNat 64 (v % 2 ^ (8 * e.size)), size := e.size.log2, ctx := s.cur.ctx, cause := 0,
    fab := (s.remoteOf s.cur.core s.me.asid e.va).isSome, mesh := meshBase ≤ e.va, rel := false, orphan := false, launch := none,
    owed := none }

/-- The request of a bit set at an element. -/
def setBitReq (f : Form) (s : State) (e : Elem) (v j : Nat) : Req :=
  { core := s.cur.core, ctx := s.cur.ctx, asid := s.me.asid, op := .rmw 3 v 0, els := [e], all := [e], got := [], dst := .none,
    jidx := some j, acq := false, rel := true, done := false, mesh := [e].any fun e => meshBase ≤ e.va, fault := none,
    len := formLen f }

/-- The acting core with the journal entry of a bit to set taken, and the words of its element gone from C1. -/
def State.setBitPosted (s : State) (e : Elem) (v j : Nat) : State :=
  s.modCore s.cur.core fun k => { k with journal := k.journal.put j (setBitEntry s e v) }.c1Store s.me.asid e.va e.size

theorem postElems_setBit {f : Form} {e : Elem} {s : State} {v j : Nat} (h : s.myCore.freeEntry = some j) (hv : e.va < meshBase) :
    ∃ d, postElems f (.rmw 3 v 0) [e] { rel := true } .done s = .done ((s.setBitPosted e v j).sent (setBitReq f s e v j) d) := by
  obtain ⟨d, hd⟩ := State.submit_of_virtual (s := s.setBitPosted e v j) (r := setBitReq f s e v j) rfl hv
  refine ⟨d, ?_⟩
  have hp : postElems f (.rmw 3 v 0) [e] { rel := true } .done s = .done ((s.setBitPosted e v j).submit (setBitReq f s e v j)).2 := by
    simp only [postElems, h, List.foldl_cons, List.foldl_nil, Nat.lt_irrefl, if_false, hv, if_true, Bool.false_eq_true]
    rfl
  rw [hp, hd]

theorem State.setBitPosted_me (s : State) (e : Elem) (v j : Nat) : (s.setBitPosted e v j).me = s.me := by
  show (s.modCore _ _).ctx s.cur.core s.cur.ctx = _
  rw [State.ctx_modCore, if_pos rfl]
  rfl

/-- CBSET of a word in translated memory, with no work of its context outstanding. -/
theorem gives_cbset_virtual {f : Form} {s : State} (h : Runs f 40 s) (hla : f.a.isLa = false) {w : Word} {k va j : Nat}
    (hw : cbAddr (s.me.opAddr f.a) (s.me.opU f.b) = w) (hk : fieldOf (s.me.opU f.b) 0 6 = k)
    (hp : s.checkVa s.me.vf w 8 = .ok (.virt va)) (hva : w.toNat % 2 ^ 56 = va) (hv : va < meshBase)
    (hj : s.myCore.freeEntry = some j) (hrel : s.relWait = none) (hout : s.me.outstanding = false) :
    Gives (.cbset f) s fun t =>
      t.reqs.find? (·.1 == s.nextId) = some (s.nextId, setBitReq f s (scalarElem w 8 (2 ^ k)) (2 ^ k) j) ∧
      RegsKept {} s t ∧ Completed (s.plainWarn f) (s.fall f) s t := by
  have he : exec (.cbset f) s = issueCost f 40 (cbsetBody f) s := by rw [exec_cbset h.unit, memCost, hla]; rfl
  obtain ⟨d, hd⟩ := postElems_setBit (f := f) (e := scalarElem w 8 (2 ^ k)) (v := 2 ^ k) hj (by rw [scalarElem, hva]; exact hv)
  have hb : cbsetBody f s = .done ((s.setBitPosted (scalarElem w 8 (2 ^ k)) (2 ^ k) j).sent
      (setBitReq f s (scalarElem w 8 (2 ^ k)) (2 ^ k) j) d) := by
    rw [cbsetBody_virtual hw hk hla hp, asRelease_of_none hrel, cbset]
    simp only [hout, hla, Bool.false_eq_true, if_false]
    exact hd
  refine (gives_done_of_me h he hb rfl (s.setBitPosted_me _ _ j)).imp fun t ⟨has, hkept, hd⟩ => ⟨?_, hkept, hd⟩
  rw [has.work.2.1]
  exact (s.setBitPosted _ _ j).sent_request _ _

end Sys2Proof.Machine
end

section
/-! SUPPORT. CBWAIT (R176, R342), and the statement about sync words and completion bits: O34. -/
namespace Sys2Proof.Machine

/-- CBWAIT with the word that it has read: it acquires once the bit is 1, and else reads again later. -/
def cbwaitEnd (f : Form) (k v : Nat) (s : State) : Res :=
  if bit v k then .done (s.acquire.putS f.d.sreg (BitVec.ofNat 64 v)) else .hold s (.compBit (s.clk + cbPoll)) 0

/-- CBWAIT of a word in a stall. -/
def cbwaitBank (f : Form) (w : Word) (k c o : Nat) (s : State) : Res :=
  match s.stallPoison c o 8 with
  | some p => .fault (s.countErr (stkOf c) 3) cPOISON (w.toNat + p - stallPa c o)
  | none => cbwaitEnd f k (s.stallRead c o 8) s

/-- CBWAIT of a word in translated memory, at its home. -/
def cbwaitHome (f : Form) (w : Word) (k va : Nat) (x : Ctx) (s : State) : Res :=
  match s.homeRead ⟨s.cur.core, s.cur.ctx, x.vf⟩ x.asid va 8 .rw with
  | (.error c, s) => .fault s c w.toNat
  | (.ok (v, bad), s) => if bad then .fault (s.countErr (s.firstHome s.cur.core x.asid va / 64) 3) cPOISON w.toNat else cbwaitEnd f k v s

/-- CBWAIT of the word at `w`. -/
def cbwaitAt (f : Form) (w : Word) (k : Nat) (s : State) : Res :=
  if f.a.isLa then
    match checkLa s.cur.core w 8 8 with
    | .error e => .fault s e.1 e.2
    | .ok (c, o) => cbwaitBank f w k c o s
  else match s.checkVa s.me.vf w 8 with
    | .error e => .fault s e.1 e.2
    | .ok (.mesh c o) => cbwaitBank f w k c o s
    | .ok (.virt va) => atHome w 8 .rw (cbwaitHome f w k va s.me) s

theorem exec_cbwait (f : Form) (s : State) : exec (.cbwait f) s =
    issueCost f (memCost f.a) (fun s => cbwaitAt f (cbAddr (s.me.opAddr f.a) (s.me.opU f.b)) (fieldOf (s.me.opU f.b) 0 6) s) s := rfl

theorem cbwaitEnd_set {f : Form} {k v : Nat} {s : State} (h : v.testBit k = true) :
    cbwaitEnd f k v s = .done (s.acquire.putS f.d.sreg (BitVec.ofNat 64 v)) := if_pos ((bit_eq_testBit v k).trans h)

theorem cbwaitEnd_clear {f : Form} {k v : Nat} {s : State} (h : v.testBit k = false) :
    cbwaitEnd f k v s = .hold s (.compBit (s.clk + cbPoll)) 0 := if_neg (by rw [bit_eq_testBit, h]; exact Bool.false_ne_true)

/-- An access at its home that nothing holds is made (R87, R125, R151). -/
theorem atHome_ready {w : Word} {n va : Nat} {need : Need} {body : State → Res} {s : State} (hp : s.checkVa s.me.vf w n = .ok (.virt va))
    (hown : s.ownOut va = []) (hwait : s.homeWaits ⟨s.cur.core, s.cur.ctx, s.me.vf⟩ s.me.asid va need = false) :
    atHome w n need body s = body s := by
  simp [atHome, hp, hown, hwait]

section Local
variable {f : Form} {s : State} (hla : f.a.isLa = true)
include hla

theorem exec_cbwait_la : exec (.cbwait f) s = issueCost f 16 (fun s =>
    cbwaitAt f (cbAddr (s.me.opAddr f.a) (s.me.opU f.b)) (fieldOf (s.me.opU f.b) 0 6) s) s := by
  rw [exec_cbwait, memCost, if_pos hla]

variable {w : Word} {k c o : Nat} (hw : cbAddr (s.me.opAddr f.a) (s.me.opU f.b) = w) (hk : fieldOf (s.me.opU f.b) 0 6 = k)
  (hp : checkLa s.cur.core w 8 8 = .ok (c, o)) (hclean : s.stallPoison c o 8 = none)
include hw hk hp hclean

theorem cbwaitAt_la : cbwaitAt f (cbAddr (s.me.opAddr f.a) (s.me.opU f.b)) (fieldOf (s.me.opU f.b) 0 6) s =
    cbwaitEnd f k (s.stallRead c o 8) s := by
  rw [cbwaitAt, if_pos hla, hw, hk, hp]
  simp only [cbwaitBank, hclean]

variable (h : Runs f 16 s)
include h

theorem gives_cbwait (hset : (s.stallRead c o 8).testBit k = true) : Gives (.cbwait f) s fun t =>
    Result f (BitVec.ofNat 64 (s.stallRead c o 8)) s t ∧ RegsKept { regs := [f.d.sreg] } s t ∧
    (t.core s.cur.core).c1 = s.myCore.c1Acquire.c1 ∧ MemKept s t ∧ Completed (s.plainWarn f) (s.fall f) s t :=
  gives_acquired h (exec_cbwait_la hla) ((cbwaitAt_la hla hw hk hp hclean).trans (cbwaitEnd_set hset)) rfl h.noStep

theorem held_cbwait (hclear : (s.stallRead c o 8).testBit k = false) : Gives (.cbwait f) s fun t => Held .wait s t :=
  held_wait (wt := .compBit (s.clk + cbPoll)) h (exec_cbwait_la hla)
    ((cbwaitAt_la hla hw hk hp hclean).trans (cbwaitEnd_clear hclear)) rfl

end Local

theorem gives_cbwait_virtual {f : Form} {s u : State} (h : Runs f 40 s) (hla : f.a.isLa = false) {w : Word} {k va v : Nat}
    (hw : cbAddr (s.me.opAddr f.a) (s.me.opU f.b) = w) (hk : fieldOf (s.me.opU f.b) 0 6 = k)
    (hp : s.checkVa s.me.vf w 8 = .ok (.virt va)) (hown : s.ownOut va = [])
    (hwait : s.homeWaits ⟨s.cur.core, s.cur.ctx, s.me.vf⟩ s.me.asid va .rw = false)
    (hread : s.homeRead ⟨s.cur.core, s.cur.ctx, s.me.vf⟩ s.me.asid va 8 .rw = (.ok (v, false), u)) (hu : u.cur = s.cur)
    (hstep : u.me.statBit bSTEP = false) (hset : v.testBit k = true) : Gives (.cbwait f) s fun t =>
      Result f (BitVec.ofNat 64 v) u t ∧ RegsKept { regs := [f.d.sreg] } u t ∧ MemKept u t ∧
      Completed (s.plainWarn f) (s.fall f) u t := by
  have he : exec (.cbwait f) s = issueCost f 40 (fun s =>
      cbwaitAt f (cbAddr (s.me.opAddr f.a) (s.me.opU f.b)) (fieldOf (s.me.opU f.b) 0 6) s) s := by rw [exec_cbwait, memCost, hla]; rfl
  have hb : cbwaitAt f (cbAddr (s.me.opAddr f.a) (s.me.opU f.b)) (fieldOf (s.me.opU f.b) 0 6) s =
      .done (u.acquire.putS f.d.sreg (BitVec.ofNat 64 v)) := by
    rw [cbwaitAt, hla, if_neg Bool.false_ne_true, hw, hk, hp]
    simp only [atHome_ready hp hown hwait, cbwaitHome, hread]
    exact cbwaitEnd_set hset
  exact (gives_acquired h he hb hu hstep).imp fun t ⟨hres, hkept, _, hmem, hd⟩ => ⟨hres, hkept, hmem, hd⟩

/-! The statement. -/

/-- An address that leads to translated memory is that address in 56 bits (R9). -/
theorem State.checkVa_virt {s : State} {vf al va : Nat} {w : Word} (h : s.checkVa vf w al = .ok (.virt va)) : w.toNat % 2 ^ 56 = va := by
  unfold State.checkVa at h
  dsimp only at h
  repeat' split at h
  all_goals cases h
  rfl

/-- Settles O34: sync words are set, waited for and read, and completion bits set and waited for, each by one access of its word. -/
theorem syncWordsAndBits : Obligations.SyncWordsAndBits := by
  unfold Obligations.SyncWordsAndBits
  intro f s core
  refine ⟨fun h => ⟨fun e he => traps_swinit h he, fun c o hp => ?_, fun e he => traps_swwait h he, fun c o hp => ?_,
    fun hb => traps_swread h hb⟩, fun h hla c o hp hclean => ?_, fun h hla va hp hv => ?_⟩
  · refine (gives_swinit h hp).imp fun t ⟨hread, hst, hk, hd⟩ => ?_
    obtain ⟨-, htarget, hcount, hgen, herr⟩ := bits_initWord (s.me.opS f.a).toNat (s.stallRead c o 16)
    rw [← hread] at htarget hcount hgen herr
    exact ⟨htarget, hcount, hgen, herr, hst, hk, hd⟩
  · have hpast := genPassed_iff (s.stallRead c o 16) (s.me.opU f.b).toNat
    refine ⟨fun hclean hg => gives_swwait h hp hclean (hpast.mpr hg), fun hclean hg => held_swwait h hp hclean ?_,
      fun hb hclean => writes_swread h hp hb hclean⟩
    refine Bool.eq_false_iff.mpr fun hgen => ?_
    obtain ⟨h1, h2⟩ := hpast.mp hgen
    rcases hg with hg | hg
    · exact absurd hg (Nat.ne_of_gt h1)
    · exact absurd hg (Nat.not_le.mpr h2)
  · refine ⟨fun hrel => (gives_cbset h hla rfl rfl hp hclean hrel).imp fun t ⟨hread, hst, hun, hk, hd⟩ => ⟨hread, hst, ?_, hk, hd⟩,
      fun hout => held_cbset h hla rfl rfl hp hout, fun hset => gives_cbwait hla rfl rfl hp hclean h hset,
      fun hclear => held_cbwait hla rfl rfl hp hclean h hclear⟩
    rw [hun, Ctx.outstanding, Bool.or_assoc]
  · have hva := State.checkVa_virt hp
    refine ⟨fun j hj hrel hout => (gives_cbset_virtual h hla rfl rfl hp hva hv hj hrel hout).imp fun t ⟨hreq, hk, hd⟩ =>
      ⟨⟨_, hreq, rfl, rfl, congrArg (fun a => [a]) hva, rfl⟩, hk, hd⟩, fun v u hown hwait hread hu hstep hset =>
      gives_cbwait_virtual h hla rfl rfl hp hown hwait hread hu hstep hset⟩

end Sys2Proof.Machine
end

section
/-! SUPPORT. The end of a routine (R56, R176, R186, R216, R295): what it makes of its context and of its launch, and NOP and EXIT
(R288): O7. -/
namespace Sys2Proof.Machine

/-! Records offered to the pool. -/

theorem foldl_later_due {α : Type} (d : Nat) (e : α → Event) (l : List α) (s : State) :
    ∃ du, l.foldl (fun s a => s.later d (e a)) s = { s with due := du } :=
  List.foldlRecOn (motive := fun t : State => ∃ du, t = { s with due := du }) l _ ⟨_, rfl⟩ fun t ⟨_, ht⟩ a _ => by
    subst ht
    exact ⟨_, rfl⟩

/-- Offering records makes events due, and nothing else. -/
theorem State.offerRecords_due (s : State) (n : Nat) : ∃ du, s.offerRecords n = { s with due := du } := by
  unfold State.offerRecords
  dsimp only
  split
  · exact ⟨_, rfl⟩
  · exact foldl_later_due 1 (fun c => Event.helperPop n c) _ s

@[simp] theorem State.offerRecords_ctx (s : State) (n m c : Nat) : (s.offerRecords n).ctx m c = s.ctx m c := by
  obtain ⟨_, h⟩ := s.offerRecords_due n
  rw [h]
  rfl

@[simp] theorem State.offerRecords_launches (s : State) (n : Nat) : (s.offerRecords n).launches = s.launches := by
  obtain ⟨_, h⟩ := s.offerRecords_due n
  rw [h]

/-! The record of a routine (R176, R216). -/

/-- Whether a context has stores under way that its routine still owes (R176). -/
def Core.owes (k : Core) (c : Nat) : Bool := k.journal.any fun e => e.2.ctx == c && e.2.state == 1 && !e.2.orphan && e.2.owed.isNone

/-- A launch with records beyond this one counts it down (R216). -/
theorem State.recordDone_of_more {s : State} {l : Nat} {r : Launch} (hl : s.launches.find? (·.1 == l) = some (l, r))
    (hd : r.done = false) (hm : 1 < r.left) :
    s.recordDone (some l) = { s with launches := s.launches.put l { r with left := r.left - 1 } } := by
  simp [State.recordDone, hl, hd, hm]

/-- A record that is done where no more than its launch's count depends on it: contexts and the work of engines stay. -/
structure RecordKept (t s : State) : Prop where
  ops : t.ops = s.ops
  ctxs : ∀ n c, t.ctx n c = s.ctx n c
  seqs : ∀ n, (t.core n).seqOwner = (s.core n).seqOwner ∧ (t.core n).mseq = (s.core n).mseq ∧ (t.core n).cseq = (s.core n).cseq

theorem RecordKept.engineWork {s t : State} (h : RecordKept t s) (n c : Nat) : t.engineWork n c = s.engineWork n c := by
  obtain ⟨howner, hm, hc⟩ := h.seqs n
  unfold State.engineWork
  rw [h.ops, howner, hm, hc]

/-- The record of a routine without a launch, or of a launch with more records (R176, R216). -/
theorem State.routineDone_kept {s : State} {l : Nat} {r : Launch} {launch : Option Nat} (n c : Nat)
    (h : launch = none ∨ launch = some l ∧ s.launches.find? (·.1 == l) = some (l, r) ∧ r.done = false ∧ 1 < r.left) :
    RecordKept (s.routineDone n c launch) s ∧
    (launch = some l → (s.routineDone n c launch).launches =
      if (s.core n).owes c then s.launches else s.launches.put l { r with left := r.left - 1 }) := by
  rcases h with rfl | ⟨rfl, hl, hd, hm⟩
  · exact ⟨⟨rfl, fun _ _ => rfl, fun _ => ⟨rfl, rfl, rfl⟩⟩, fun h => by cases h⟩
  · unfold State.routineDone
    by_cases ho : (s.core n).owes c = true
    · have ho' := ho
      unfold Core.owes at ho'
      simp only [ho', ho, Option.isNone_some, Bool.not_true, Bool.or_self, Bool.false_eq_true, if_false, if_true]
      refine ⟨⟨rfl, fun m d => ?_, fun m => ?_⟩, fun _ => rfl⟩
      · rw [State.ctx_modCore]
        split
        · subst_vars; rfl
        · rfl
      · rw [State.core_modCore]
        split
        · subst_vars; exact ⟨rfl, rfl, rfl⟩
        · exact ⟨rfl, rfl, rfl⟩
    · rw [Bool.not_eq_true] at ho
      have ho' := ho
      unfold Core.owes at ho'
      simp only [ho', ho, Option.isNone_some, Bool.not_false, Bool.or_true, if_true, Bool.false_eq_true, if_false,
        State.recordDone_of_more hl hd hm]
      exact ⟨⟨rfl, fun _ _ => rfl, fun _ => ⟨rfl, rfl, rfl⟩⟩, fun _ => trivial⟩

/-! The end itself (R56, R182, R186, R288). -/

/-- What the end of a routine makes of its context. -/
def Ctx.over (x : Ctx) (c : Nat) (run : Bool) : Ctx :=
  { x with st := if c = 0 then .wait else if run then .drain else .free, block := none, launch := none, idle := true }

/-- The state in which a routine's record is done, where its end is to finish it (R176, R216). -/
def State.recordOver (s : State) (n c : Nat) (finishes : Bool) : State :=
  if finishes then s.routineDone n c (s.ctx n c).launch else s

theorem State.endRoutine_launches (s : State) (n c : Nat) (b : Bool) :
    (s.endRoutine n c b).launches = (s.recordOver n c b).launches := by
  unfold State.endRoutine
  dsimp only
  split
  · rfl
  · rw [State.offerRecords_launches]
    rfl

theorem State.endRoutine_ctx (s : State) (n c : Nat) (b : Bool) :
    (s.endRoutine n c b).ctx n c = ((s.recordOver n c b).ctx n c).over c ((s.recordOver n c b).engineWork n c) := by
  unfold State.endRoutine
  dsimp only
  split
  next h =>
    obtain rfl : c = 0 := by simpa using h
    exact State.ctx_modCtx_self ..
  next h =>
    have hc : c ≠ 0 := by simpa using h
    rw [State.offerRecords_ctx, State.ctx_modCore, if_pos rfl]
    show ((_ : State).core n).ctx c = _
    rw [State.core_modCore, if_pos rfl]
    refine (State.ctx_modCtx_self ..).trans ?_
    unfold Ctx.over
    rw [if_neg hc]
    rfl

/-! A last instruction (R186, R295). -/

theorem Ctx.loopEnd_eq (x : Ctx) (npc : Word) (fuel : Nat) : ∃ pc sr, x.loopEnd npc fuel = { x with pc := pc, sr := sr } := by
  induction fuel generalizing x with
  | zero => exact ⟨_, _, rfl⟩
  | succ fuel ih =>
    unfold Ctx.loopEnd
    dsimp only
    split
    · exact ⟨_, _, rfl⟩
    · split
      · exact ⟨_, _, rfl⟩
      · obtain ⟨pc, sr, h⟩ := ih (x.srSet rLOOPST (BitVec.ofNat 64 (fieldOf (x.srGet rLOOPST) 0 3 - 1)))
        exact ⟨pc, sr, h⟩

/-- Completing an instruction sets the course, the counters and system registers of its context, and nothing else of it. -/
theorem State.retire_eq (s : State) (n c : Nat) (isFmtp : Bool) (npc : Word) : ∃ pc sr pmc st li sh,
    (s.retire n c isFmtp npc).ctx n c =
      { s.ctx n c with pc := pc, sr := sr, pmc := pmc, st := st, block := none, lastIssue := li, warnHeld := false, shapes := sh } := by
  obtain ⟨sr0, h0⟩ : ∃ sr, (if isFmtp = true then s.ctx n c else (s.ctx n c).setStat bPFX false) = { s.ctx n c with sr := sr } := by
    cases isFmtp
    · exact ⟨_, rfl⟩
    · exact ⟨_, rfl⟩
  obtain ⟨p, hp⟩ := (if isFmtp = true then s.ctx n c else (s.ctx n c).setStat bPFX false).count_eq 1 1
  obtain ⟨st, li, sh, hr⟩ : ∃ st li sh, (s.retire n c isFmtp npc).ctx n c = Ctx.loopEnd
      { s.ctx n c with sr := sr0, pmc := p, st := st, block := none, lastIssue := li, warnHeld := false, shapes := sh } npc 5 := by
    unfold State.retire
    dsimp only
    rw [State.ctx_modCore, if_pos rfl]
    show ∃ _ _ _, (State.modCtx _ _ _ _).ctx n c = _
    rw [State.ctx_modCtx_self, hp, h0]
    exact ⟨_, _, _, rfl⟩
  obtain ⟨pc, sr, hl⟩ := Ctx.loopEnd_eq
    { s.ctx n c with sr := sr0, pmc := p, st := st, block := none, lastIssue := li, warnHeld := false, shapes := sh } npc 5
  exact ⟨pc, sr, p, st, li, sh, hr.trans hl⟩

theorem State.warnIf_eq (s : State) (b : Bool) (n c : Nat) : ∃ sr, (s.warnIf b).ctx n c = { s.ctx n c with sr := sr } := by
  unfold State.warnIf
  split
  · rw [State.warn, State.ctx_modMe]
    split
    · rename_i h
      obtain ⟨rfl, rfl⟩ := h
      exact ⟨_, rfl⟩
    · exact ⟨_, rfl⟩
  · exact ⟨_, rfl⟩

/-- A completed instruction's context is that of its effect but for course, counters and system registers. -/
theorem State.after_eq (s : State) (cost : Nat) (warns : Bool) (npc : Word) (t : State) : ∃ pc sr pmc st li sh d,
    (s.after cost warns npc t).ctx s.cur.core s.cur.ctx = { t.ctx s.cur.core s.cur.ctx with
      pc := pc, sr := sr, pmc := pmc, st := st, block := none, lastIssue := li, warnHeld := false, shapes := sh, drawn := d } := by
  obtain ⟨d, _, hp⟩ := t.payCore_ctx s.cur.core s.cur.ctx cost
  obtain ⟨_, hw⟩ := (t.payCore s.cur.core s.cur.ctx cost).warnIf_eq warns s.cur.core s.cur.ctx
  obtain ⟨pc, sr, pmc, st, li, sh, hr⟩ :=
    ((t.payCore s.cur.core s.cur.ctx cost).warnIf warns).retire_eq s.cur.core s.cur.ctx false npc
  rw [hw, hp] at hr
  exact ⟨pc, sr, pmc, st, li, sh, d, hr⟩

theorem State.after_sigKind (s : State) (cost : Nat) (warns : Bool) (npc : Word) (t : State) :
    ((s.after cost warns npc t).ctx s.cur.core s.cur.ctx).sigKind = (t.ctx s.cur.core s.cur.ctx).sigKind := by
  obtain ⟨_, _, _, _, _, _, _, h⟩ := s.after_eq cost warns npc t
  rw [h]

/-- A signal that finds room takes its kind; one that does not is lost (R295). -/
theorem Ctx.signal_kind (x : Ctx) (k : Nat) : (x.signal k).sigKind = if x.sigCount < 255 then k else x.sigKind := by
  unfold Ctx.signal
  split
  · rfl
  · exact Ctx.setStat_sigKind ..

theorem Ctx.signal_count (x : Ctx) (k : Nat) :
    (x.signal k).sigCount = if x.sigCount < 255 then x.sigCount + 1 else x.sigCount := by
  unfold Ctx.signal
  split
  · rfl
  · exact Ctx.setStat_sigCount ..

@[simp] theorem Ctx.signal_launch (x : Ctx) (k : Nat) : (x.signal k).launch = x.launch := by
  unfold Ctx.signal
  split
  · rfl
  · exact Ctx.setStat_launch ..

/-- The state with the signal of its acting context's last instruction given; the control context gives none (R288, R295). -/
def State.signed (s : State) (kind : Nat) : State := if s.cur.ctx == 0 then s else s.modMe (·.signal kind)

/-- Where an instruction stands once it is paid for and flagged. -/
theorem State.paid_course {s u : State} (hc : u.cur = s.cur) (cost : Nat) (warns : Bool) :
    ((u.payCore s.cur.core s.cur.ctx cost).warnIf warns).cur = s.cur ∧
      ((u.payCore s.cur.core s.cur.ctx cost).warnIf warns).me.pc = u.me.pc := by
  have hcur : ((u.payCore s.cur.core s.cur.ctx cost).warnIf warns).cur = s.cur :=
    (State.warnIf_as _ _).cur.trans ((State.payCore_cur ..).trans hc)
  obtain ⟨_, hw⟩ := (u.payCore s.cur.core s.cur.ctx cost).warnIf_eq warns s.cur.core s.cur.ctx
  obtain ⟨_, _, hp⟩ := u.payCore_ctx s.cur.core s.cur.ctx cost
  refine ⟨hcur, ?_⟩
  rw [State.me_eq hcur, State.me_eq hc, hw, hp]

/-- A routine's last instruction, its context's work done in `u`: it completes as any instruction, signals, and ends the routine. -/
theorem State.after_finish {s u : State} (hc : u.cur = s.cur) (hpc : u.me.pc = s.me.pc) (f : Form) (kind cost : Nat) (warns : Bool) :
    finishRoutine f kind ((u.payCore s.cur.core s.cur.ctx cost).warnIf warns) =
      ((s.after cost warns (s.fall f) u).signed kind).endRoutine s.cur.core s.cur.ctx true := by
  obtain ⟨hcur, hfall⟩ := State.paid_course hc cost warns
  rw [hpc] at hfall
  unfold finishRoutine State.after State.signed State.fall
  simp only [hcur, hfall]
  rw [((State.retire_as _ _ _ _ _).cur.trans hcur)]

/-- A last instruction whose body ends the routine over `u`. -/
theorem exec_ended {i : Instr} {f : Form} {cost : Nat} {s u : State} {fin : State → State} {body : State → Res} (h : Runs f cost s)
    (he : exec i s = issueCost f cost body s) (hb : body s = .ended u fin) (hl : s.me.loads = []) :
    exec i s = .next (fin ((u.payCore s.cur.core s.cur.ctx cost).warnIf (s.plainWarn f))) := by
  rw [he, issueCost, issueWith_runs h, hb]
  simp [hl, State.plainWarn]

/-- What a last instruction's completion and signal leave of the core and of the launches. -/
theorem State.signed_after {s u : State} (hc : u.cur = s.cur) (cost : Nat) (warns : Bool) (npc : Word) (kind : Nat) :
    let z := (s.after cost warns npc u).signed kind
    z.launches = u.launches ∧ (z.core s.cur.core).journal = (u.core s.cur.core).journal ∧
      z.engineWork s.cur.core s.cur.ctx = u.engineWork s.cur.core s.cur.ctx ∧ (z.core s.cur.core).queue = (u.core s.cur.core).queue ∧
      (z.ctx s.cur.core s.cur.ctx).launch = u.me.launch ∧
      (s.cur.ctx ≠ 0 → (z.ctx s.cur.core s.cur.ctx).sigKind = (if u.me.sigCount < 255 then kind else u.me.sigKind) ∧
        (z.ctx s.cur.core s.cur.ctx).sigCount = if u.me.sigCount < 255 then u.me.sigCount + 1 else u.me.sigCount) ∧
      (∀ n c, ¬(n = s.cur.core ∧ c = s.cur.ctx) → z.ctx n c = u.ctx n c) ∧ MemKept u z := by
  intro z
  have has := State.after_as s cost warns npc u hc
  have hgo := State.after_goesOn s cost warns npc u
  have hcur : (s.after cost warns npc u).cur = s.cur := has.cur.trans hc
  have hme : (s.after cost warns npc u).me = (s.after cost warns npc u).ctx s.cur.core s.cur.ctx := State.me_eq hcur
  have hu : u.ctx s.cur.core s.cur.ctx = u.me := (State.me_eq hc).symm
  obtain ⟨hcount, hlaunch, -, -⟩ := has.me.signal
  rw [hu] at hcount hlaunch
  by_cases h0 : s.cur.ctx = 0
  · have hz : z = s.after cost warns npc u := by
      show State.signed _ _ = _
      unfold State.signed
      rw [hcur, h0]
      rfl
    rw [hz]
    exact ⟨has.work.2.2.1, (has.caches _).2, hgo.engineWork _, hgo.queue, hlaunch, fun h => absurd h0 h, has.others, has.memKept⟩
  · have hz : z = (s.after cost warns npc u).modCtx s.cur.core s.cur.ctx (·.signal kind) := by
      show State.signed _ _ = _
      unfold State.signed State.modMe State.setMe State.modCtx
      rw [hcur, if_neg (by simpa using h0), hme]
    have hco := (CoreGoesOn.ofCtx (s.after cost warns npc u) s.cur.core s.cur.core s.cur.ctx (·.signal kind)).trans hgo
    rw [hz]
    refine ⟨has.work.2.2.1, ?_, hco.engineWork _, hco.queue, ?_, fun _ => ⟨?_, ?_⟩, fun n c hn => ?_, has.memKept.trans (.of_eq rfl rfl rfl rfl)⟩
    · rw [State.core_modCtx, if_pos rfl]
      exact (has.caches _).2
    · rw [State.ctx_modCtx_self, Ctx.signal_launch, hlaunch]
    · rw [State.ctx_modCtx_self, Ctx.signal_kind, hcount, State.after_sigKind, hu]
    · rw [State.ctx_modCtx_self, Ctx.signal_count, hcount]
    · rw [State.ctx_modCtx, if_neg hn]
      exact has.others n c hn

/-! NOP and EXIT (R288). -/

theorem branches_nop {f : Form} {s : State} (h : Runs f 4 s) : Branches (.nop f) f s {} (s.fall f) :=
  (gives_done (body := .done) h rfl rfl (Kept.refl {} s) rfl rfl fun _ _ _ => rfl).imp fun _ ⟨_, hk, hd⟩ => ⟨trivial, hk, hd⟩

/-- Settles O7: a NOP's body is its state; an EXIT's completed state is one whose routine's record is done and whose context is over. -/
theorem nopAndExitEffects : Obligations.NopAndExitEffects := by
  unfold Obligations.NopAndExitEffects
  refine fun f s h => ⟨branches_nop h, fun l r hrec hl => ?_⟩
  let z := (s.after 4 (s.plainWarn f) (s.fall f) s).signed 2
  have hex : exec (.exit f) s = .next (z.endRoutine s.cur.core s.cur.ctx true) := by
    rw [exec_ended (body := fun s => .ended s (finishRoutine f 2)) h rfl rfl hl, State.after_finish rfl rfl]
  obtain ⟨hlaunches, hjournal, hwork, -, hlaunch, hsig, -, -⟩ :=
    State.signed_after (s := s) rfl 4 (s.plainWarn f) (s.fall f) 2
  obtain ⟨hk, hdone⟩ := z.routineDone_kept s.cur.core s.cur.ctx (launch := s.me.launch) (l := l) (r := r)
    (by rw [show z.launches = s.launches from hlaunches]; exact hrec)
  have hover : z.recordOver s.cur.core s.cur.ctx true = z.routineDone s.cur.core s.cur.ctx s.me.launch := by
    rw [State.recordOver, if_pos rfl, hlaunch]
  have howes : (z.core s.cur.core).owes s.cur.ctx = s.myCore.owes s.cur.ctx := by
    unfold Core.owes
    rw [show (z.core s.cur.core).journal = s.myCore.journal from hjournal]
  have hlaunches' : (z.endRoutine s.cur.core s.cur.ctx true).launches = (z.routineDone s.cur.core s.cur.ctx s.me.launch).launches := by
    rw [State.endRoutine_launches, hover]
  have hctx := z.endRoutine_ctx s.cur.core s.cur.ctx true
  rw [hover, hk.engineWork, hk.ctxs, show z.engineWork s.cur.core s.cur.ctx = s.engineWork s.cur.core s.cur.ctx from hwork] at hctx
  refine ⟨_, hex, fun hs ho => ?_, fun hs ho => ?_, ?_, ?_, ?_, fun h0 => ?_, fun h0 => ⟨?_, ?_, ?_⟩⟩
  · rw [hlaunches', hdone hs, howes, show s.myCore.owes s.cur.ctx = false from ho, show z.launches = s.launches from hlaunches]
    rfl
  · rw [hlaunches', hdone hs, howes, show s.myCore.owes s.cur.ctx = true from ho, show z.launches = s.launches from hlaunches]
    rfl
  all_goals rw [hctx]
  · rfl
  · rfl
  · rfl
  · exact if_pos h0
  · exact if_neg h0
  · exact (hsig h0).1
  · exact (hsig h0).2

end Sys2Proof.Machine
end

section
/-! SUPPORT. The start of a helper (R143, R185): O17, O51. -/
namespace Sys2Proof.Machine

/-! An acquire of any context. -/

/-- An acquire changes lines of the first level and drops lines of remote devices (R147, R161). -/
theorem State.acquireFor_eq (s : State) (core c : Nat) : ∃ cs l, s.acquireFor core c = { s with cores := cs, c2 := l } := by
  unfold State.acquireFor State.dropRemote
  dsimp only
  split <;> exact ⟨_, _, rfl⟩

/-! The state that START and a pop give a helper (R185). -/

theorem Assoc.get_foldl_erase {α : Type} (ks : List Nat) (m : Assoc α) (k : Nat) (d : α) :
    Assoc.get (ks.foldl (fun m n => Assoc.erase m n) m) k d = if k ∈ ks then d else Assoc.get m k d := by
  induction ks generalizing m with
  | nil => simp
  | cons j ks ih =>
    rw [List.foldl_cons, ih]
    by_cases hk : k ∈ ks
    · simp [hk]
    · by_cases hj : k = j
      · subst hj; simp [hk]
      · simp [hk, hj, Ne.symm hj]

/-- The system registers that a start resets (R185). -/
def startRegs : List Nat := [rLS 0, rLS 1, rLS 2, rLS 3, rLE 0, rLE 1, rLE 2, rLE 3, rLC 0, rLC 1, rLC 2, rLC 3, rLOOPST, rPREDS, rVCNT]

theorem Ctx.tlvl_setTlvl_zero (x : Ctx) : (x.setTlvl 0).tlvl = 0 := by
  unfold Ctx.setTlvl Ctx.tlvl fieldOf
  rw [Ctx.srGet_srSet_self]
  unfold withField
  rw [BitVec.toNat_ofNat, bits_mod _ _ _ _ (by decide), bits_setBits_self, Nat.zero_mod]

theorem Ctx.statBit_setTlvl (x : Ctx) (n i : Nat) (h : i < 18) : (x.setTlvl n).statBit i = x.statBit i := by
  unfold Ctx.setTlvl Ctx.statBit
  rw [Ctx.srGet_srSet_self]
  unfold withField
  rw [BitVec.toNat_ofNat, bit_mod _ _ _ (by omega), bit_setBits_ne _ _ _ _ _ (.inl h)]

theorem Ctx.srGet_setTlvl (x : Ctx) (n k : Nat) (h : k ≠ rSTAT) : (x.setTlvl n).srGet k = x.srGet k := by
  unfold Ctx.setTlvl
  rw [Ctx.srGet_srSet, if_neg h]

/-- What a start leaves of the system registers other than STAT (R185, R401). -/
theorem Ctx.startAt_srGet (x : Ctx) (code frame ctxid : Word) (ftab : Assoc FmtWord) (launch : Option Nat) (k : Nat) (h : k ≠ rSTAT) :
    (x.startAt code frame ctxid ftab launch).srGet k =
      if k = rCTXID then ctxid else if k ∈ startRegs then srReset k else x.srGet k := by
  unfold Ctx.startAt
  rw [Ctx.srGet_setTlvl _ _ _ h, Ctx.srGet_setStat _ _ _ _ h, Ctx.srGet_srSet]
  have he : Assoc.get (startRegs.foldl (fun m n => Assoc.erase m n) x.sr) k (srReset k) =
      if k ∈ startRegs then srReset k else x.srGet k := Assoc.get_foldl_erase startRegs x.sr k (srReset k)
  rw [← he]
  unfold startRegs Ctx.srGet
  congr 1

/-- A helper that has been started with its code pointer, its frame, its identity, a format table and its launch (R185, R295). -/
structure Started (y x : Ctx) (code frame ctxid : Word) (ftab : Assoc FmtWord) (launch : Option Nat) : Prop where
  st : y.st = .ready
  pc : y.pc = code
  scalars : ∀ r, y.sreg r = if r = 62 then frame else 0
  preds : ∀ p, p < 16 → y.pred p = decide (p = 0)
  guards : ∀ g, y.guard g = .hold
  pfx : y.statBit bPFX = false
  tlvl : y.tlvl = 0
  loops : ∀ k, k < 4 → y.srGet (rLS k) = 0 ∧ y.srGet (rLE k) = 0 ∧ y.srGet (rLC k) = 0
  depth : y.srGet rLOOPST = 0
  shchg : y.srGet rSHCHG = x.srGet rSHCHG
  ctxid : y.srGet rCTXID = ctxid
  fmts : ∀ k, y.fent k = Assoc.get ftab k (presetEntry k)
  launch : y.launch = launch

theorem Ctx.startAt_started (x : Ctx) (code frame ctxid : Word) (ftab : Assoc FmtWord) (launch : Option Nat) :
    Started (x.startAt code frame ctxid ftab launch) x code frame ctxid ftab launch := by
  have hreset (k : Nat) (hs : k ≠ rSTAT) (hc : k ≠ rCTXID) (hm : k ∈ startRegs) :
      (x.startAt code frame ctxid ftab launch).srGet k = srReset k := by
    rw [Ctx.startAt_srGet _ _ _ _ _ _ _ hs, if_neg hc, if_pos hm]
  refine ⟨by simp [Ctx.startAt], by simp [Ctx.startAt], fun r => ?_, fun p hp => ?_, fun g => ?_, ?_, Ctx.tlvl_setTlvl_zero _,
    fun k hk => ?_, hreset _ (by decide) (by decide) (by decide), ?_, ?_, fun k => by simp [Ctx.startAt, Ctx.fent],
    by simp [Ctx.startAt]⟩
  · by_cases hr : r = 0
    · subst hr; rfl
    · simp [Ctx.startAt, Ctx.sreg, hr, Assoc.get_set]
  · unfold Ctx.pred
    rw [hreset _ (by decide) (by decide) (by decide)]
    have hall : ∀ p < 16, ((p == 0) || bit (srReset rPREDS).toNat p) = decide (p = 0) := by decide
    exact hall p hp
  · simp [Ctx.startAt, Ctx.guard]
  · unfold Ctx.startAt
    rw [Ctx.statBit_setTlvl _ _ _ (by decide), Ctx.statBit_setStat _ _ _ _ (by decide), if_pos rfl]
  · have hall : ∀ k < 4, ∀ r ∈ [rLS k, rLE k, rLC k], r ≠ rSTAT ∧ r ≠ rCTXID ∧ r ∈ startRegs ∧ srReset r = 0 := by decide
    have hz (r : Nat) (hr : r ∈ [rLS k, rLE k, rLC k]) : (x.startAt code frame ctxid ftab launch).srGet r = 0 := by
      obtain ⟨hs, hc, hm, hv⟩ := hall k hk r hr
      rw [hreset r hs hc hm, hv]
    exact ⟨hz _ (by simp), hz _ (by simp), hz _ (by simp)⟩
  · rw [Ctx.startAt_srGet _ _ _ _ _ _ _ (by decide), if_neg (by decide), if_neg (by decide)]
  · rw [Ctx.startAt_srGet _ _ _ _ _ _ _ (by decide), if_pos rfl]

/-- A started helper has the listed state, its core an acquire behind it; every other context stays (R143, R185). -/
structure HelperStarted (n c : Nat) (code frame ctxid : Word) (launch : Option Nat) (t s : State) : Prop where
  eq : ∃ cs l, t = { s with cores := cs, c2 := l }
  helper : Started (t.ctx n c) (s.ctx n c) code frame ctxid (s.ctx n 0).ftab launch
  others : ∀ m d, ¬(m = n ∧ d = c) → t.ctx m d = s.ctx m d
  mem : MemKept s t
  core : ∀ m, ∃ cs ls, t.core m = { s.core m with ctxs := cs, c1 := ls }

theorem State.startHelper_started (s : State) (n c : Nat) (code frame ctxid : Word) (launch : Option Nat) :
    HelperStarted n c code frame ctxid launch (s.startHelper n c code frame ctxid launch) s := by
  unfold State.startHelper
  dsimp only
  have hfl := State.acquireFor_firstLevel (s.modCtx n c fun x => x.startAt code frame ctxid (s.ctx n 0).ftab launch) n c
  have hm : MemKept s (s.modCtx n c fun x => x.startAt code frame ctxid (s.ctx n 0).ftab launch) := .of_eq rfl rfl rfl rfl
  refine ⟨?_, ?_, fun m d hm => ?_, hm.trans hfl.mem, fun m => ?_⟩
  · obtain ⟨_, _, h⟩ := State.acquireFor_eq (s.modCtx n c fun x => x.startAt code frame ctxid (s.ctx n 0).ftab launch) n c
    rw [h]
    exact ⟨_, _, rfl⟩
  · rw [hfl.ctx, State.ctx_modCtx_self]
    exact Ctx.startAt_started ..
  · rw [hfl.ctx, State.ctx_modCtx, if_neg hm]
  · obtain ⟨ls, hc⟩ := hfl.core m
    obtain ⟨cs, hs⟩ := s.core_setCtx_eq n c m ((s.ctx n c).startAt code frame ctxid (s.ctx n 0).ftab launch)
    exact ⟨cs, ls, by rw [hc]; exact congrArg (fun k : Core => { k with c1 := ls }) hs⟩

end Sys2Proof.Machine
end

section
/-! SUPPORT. START, HWAIT, DONE, DONE.J and NEXT (R185, R186, R295, R296): O17. -/
namespace Sys2Proof.Machine

/-! Instructions that wait (R205). -/

theorem State.holdMe_course (t : State) (w : Wait) (phase : Nat) (warn : Bool) :
    (t.holdMe w phase warn).me.st = (if w.isWait then .wait else .ready) ∧
    (t.holdMe w phase warn).me.block = some ⟨w, (t.me.block.map (·.since)).getD t.clk, phase⟩ := by
  obtain ⟨_, h⟩ := t.holdMe_eq w phase warn
  rw [h, State.me_setMe]
  exact ⟨rfl, rfl⟩

/-- An instruction that waits in the state that it has left, before it is accepted. -/
theorem gives_waits {i : Instr} {f : Form} {cost : Nat} {s t : State} {w : Wait} {body : State → Res} (h : Runs f cost s)
    (he : exec i s = issueCost f cost body s) (hb : body s = .hold t w 0) (hw : w.isWait = true) : Gives i s fun v =>
      HeldAt w 0 (s.plainWarn f && w.timesOut) v t ∧ v.me.st = .wait ∧
      v.me.block = some ⟨w, (t.me.block.map (·.since)).getD t.clk, 0⟩ := by
  obtain ⟨hst, hblock⟩ := t.holdMe_course w 0 (s.plainWarn f && w.timesOut)
  rw [if_pos hw] at hst
  refine ⟨t.holdMe w 0 (s.plainWarn f && w.timesOut), ?_, t.holdMe_held w 0 _, hst, hblock⟩
  rw [he, issueCost, issueWith_runs h, hb]
  simp [State.plainWarn]

/-! Instructions of the control context alone, or of helpers alone (R295, R296). -/

theorem controlOnly_of_control {s : State} (h : s.cur.ctx = 0) (body : State → Res) : controlOnly body s = body s := by
  simp [controlOnly, h]

theorem controlOnly_of_helper {s : State} (h : s.cur.ctx ≠ 0) (body : State → Res) : controlOnly body s = .fault s cCTXPERM 0 := by
  simp [controlOnly, h]

theorem helperOnly_of_control {s : State} (h : s.cur.ctx = 0) (body : State → Res) : helperOnly body s = .fault s cCTXPERM 0 := by
  simp [helperOnly, h]

/-- An instruction whose effect on its own context is the write of its scalar destination (R246, R247). -/
theorem gives_result {i : Instr} {f : Form} {cost : Nat} {s t : State} {w : Word} {body : State → Res} (h : Runs f cost s)
    (he : exec i s = issueCost f cost body s) (hb : body s = .done t) (hc : t.cur = s.cur) (hx : t.me = s.me.setS f.d.sreg w) :
    Gives i s fun v => StateAs s.cur.core s.cur.ctx v t ∧ Result f w s v ∧ RegsKept { regs := [f.d.sreg] } s v ∧
      Completed (s.plainWarn f) (s.fall f) s v := by
  have hme : t.me = (s.putS f.d.sreg w).me := by simp [State.putS, hx]
  have hsr (n : Nat) : t.me.srGet n = s.me.srGet n := by rw [hx, Ctx.srGet_setS]
  refine (gives_done_of_regs h he hb hc ((s.putS_kept f.d.sreg w).regs.congr rfl hme) (Ctx.statBit_of_sr (hsr _) _)
    (Ctx.statBit_of_sr (hsr _) _) fun n _ _ => hsr n).imp fun v ⟨has, hctx, hk, hd⟩ => ⟨has, fun r => ?_, hk, hd⟩
  rw [hctx.sreg, hx, Ctx.sreg_setS]
  by_cases hr : r = f.d.sreg
  · subst hr; rfl
  · simp [hr]

/-- Such a write over a state in which its own context is untouched. -/
theorem State.putS_me_of {s u : State} (hx : u.me = s.me) (r : Nat) (w : Word) : (u.putS r w).me = s.me.setS r w := by
  simp [State.putS, hx]

theorem State.recordAdded_eq (s : State) (l : Option Nat) : ∃ ls, s.recordAdded l = { s with launches := ls } := by
  unfold State.recordAdded
  split
  · exact ⟨_, rfl⟩
  · split <;> exact ⟨_, rfl⟩

/-! START (R185, R295). -/

section Start
variable {f : Form} {s : State} (h : Runs f 4 s)
include h

theorem traps_start_helper (hc : s.cur.ctx ≠ 0) : Traps (.start f) s cCTXPERM 0 :=
  traps_fault h (exec_start f s) (controlOnly_of_helper hc _)

theorem traps_start_noncanonical (h0 : s.cur.ctx = 0) (hc : canonical (s.me.opS f.a) = false) :
    Traps (.start f) s cADDRNC (s.me.opS f.a).toNat :=
  traps_fault h (exec_start f s) (by rw [startBody, controlOnly_of_control h0]; simp [branchTo, hc])

theorem traps_start_misaligned (h0 : s.cur.ctx = 0) (hc : canonical (s.me.opS f.a) = true) (ha : (s.me.opS f.a).toNat % 4 ≠ 0) :
    Traps (.start f) s cMISALIGN (s.me.opS f.a).toNat :=
  traps_fault h (exec_start f s) (by rw [startBody, controlOnly_of_control h0]; simp [branchTo, hc, ha])

variable (h0 : s.cur.ctx = 0) (hc : canonical (s.me.opS f.a) = true) (ha : (s.me.opS f.a).toNat % 4 = 0) (hrel : s.relWait = none)
include h0 hc ha hrel

omit h in
theorem startBody_named : startBody f s = startNamed f (s.me.opS f.a) (s.me.opS f.b) s := by
  rw [startBody_of_good h0 hc ha, asRelease_of_none hrel]

theorem writes_start_badhelp (hh : fieldOf (s.me.sreg f.d.sreg) 0 4 = 0 ∨ 10 < fieldOf (s.me.sreg f.d.sreg) 0 4) :
    Writes (.start f) f s (BitVec.ofNat 64 stBADHELP) :=
  writes_of_putS h (exec_start f s) (by
    rw [startBody_named h0 hc ha hrel, startNamed]
    exact if_pos (by simpa using hh))

variable {n : Nat} (hn : fieldOf (s.me.sreg f.d.sreg) 0 4 = n) (h1 : 1 ≤ n) (h10 : n ≤ 10)
include hn h1 h10

theorem writes_start_busy (hb : (s.ctx s.cur.core n).st ≠ .free ∨ s.mayTake s.cur.core n s.me.launch = false) :
    Writes (.start f) f s (BitVec.ofNat 64 stBUSY) :=
  writes_of_putS h (exec_start f s) (by
    rw [startBody_named h0 hc ha hrel, startNamed]
    simp only [hn]
    rw [if_neg (by simp; omega)]
    exact if_pos (by simpa using hb))

theorem gives_start (hf : (s.ctx s.cur.core n).st = .free) (ht : s.mayTake s.cur.core n s.me.launch = true) : Gives (.start f) s fun t =>
    Started (t.ctx s.cur.core n) (s.ctx s.cur.core n) (s.me.opS f.a) (s.me.opS f.b) (s.me.srGet rCTXID) s.me.ftab s.me.launch ∧
    Result f 0 s t ∧ (∀ m c, m ≠ s.cur.core ∨ c ≠ 0 ∧ c ≠ n → t.ctx m c = s.ctx m c) ∧ MemKept s t ∧
    Completed (s.plainWarn f) (s.fall f) s t := by
  have hst := s.startHelper_started s.cur.core n (s.me.opS f.a) (s.me.opS f.b) (s.me.srGet rCTXID) s.me.launch
  generalize hu : s.startHelper s.cur.core n (s.me.opS f.a) (s.me.opS f.b) (s.me.srGet rCTXID) s.me.launch = u at hst
  obtain ⟨ls, hls⟩ := u.recordAdded_eq s.me.launch
  obtain ⟨cs, l, heq⟩ := hst.eq
  have hcur : (u.recordAdded s.me.launch).cur = s.cur := by rw [hls, heq]
  have hctx (m c : Nat) : (u.recordAdded s.me.launch).ctx m c = u.ctx m c := by rw [hls]; rfl
  have hme0 : s.ctx s.cur.core 0 = s.me := by unfold State.me; rw [h0]
  have hme : (u.recordAdded s.me.launch).me = s.me := by
    rw [State.me_eq hcur, hctx, hst.others _ _ (by omega)]
    rfl
  have hbody : startBody f s = .done ((u.recordAdded s.me.launch).putS f.d.sreg (BitVec.ofNat 64 stOK)) := by
    rw [startBody_named h0 hc ha hrel, startNamed]
    simp only [hn]
    rw [if_neg (by simp; omega), if_neg (by simp [hf, ht]), hu]
  refine (gives_result h (exec_start f s) hbody hcur (State.putS_me_of hme _ _)).imp fun v ⟨has, hres, _, hd⟩ => ⟨?_, hres, fun m c hm => ?_, ?_, hd⟩
  · have hv : v.ctx s.cur.core n = u.ctx s.cur.core n := by
      rw [has.others _ _ (by omega), State.putS, State.ctx_modMe, if_neg (by rw [hcur]; omega), hctx]
    have hh := hst.helper
    rw [hme0] at hh
    rw [hv]
    exact hh
  · have hne : ¬(m = s.cur.core ∧ c = s.cur.ctx) := by omega
    rw [has.others _ _ hne, State.putS, State.ctx_modMe, if_neg (by rw [hcur]; exact hne), hctx, hst.others _ _ (by omega)]
  · have hrec : MemKept u (u.recordAdded s.me.launch) := by rw [hls]; exact .of_eq rfl rfl rfl rfl
    exact ((hst.mem.trans hrec).trans (State.putS_kept _ _ _).mem).trans has.memKept

end Start

/-! HWAIT (R295). -/

/-- The helpers that HWAIT's mask names. -/
theorem bit_hwaitMask (a : Word) (n : Nat) :
    bit (bits a.toNat 1 10 * 2) n = true ↔ 1 ≤ n ∧ n ≤ 10 ∧ a.getLsbD n = true := by
  rw [bit_eq_testBit, show bits a.toNat 1 10 * 2 = 2 ^ 1 * bits a.toNat 1 10 by omega, Nat.testBit_two_pow_mul, bits_testBit]
  by_cases h1 : 1 ≤ n
  · rw [show 1 + (n - 1) = n by omega]
    simp only [BitVec.getLsbD, h1, decide_true, Bool.true_and, Bool.and_eq_true, decide_eq_true_eq, true_and]
    exact and_congr_left fun _ => by omega
  · simp [h1]

/-- A helper of a mask signals (R295). -/
def State.signals (s : State) (a : Word) (n : Nat) : Prop :=
  1 ≤ n ∧ n ≤ 10 ∧ a.getLsbD n = true ∧ (s.ctx s.cur.core n).sigCount ≠ 0

section Hwait
variable {f : Form} {s : State}

theorem hwaitFound_iff (n : Nat) :
    (bit (bits (s.me.opU f.a).toNat 1 10 * 2) n && (s.ctx s.cur.core n).sigCount != 0) = true ↔ s.signals (s.me.opU f.a) n := by
  rw [Bool.and_eq_true, bit_hwaitMask, bne_iff_ne]
  unfold State.signals
  tauto

theorem hwaitMask_zero_iff : bits (s.me.opU f.a).toNat 1 10 * 2 = 0 ↔ (s.me.opU f.a).extractLsb' 1 10 = 0 := by
  rw [← BitVec.toNat_inj, BitVec.extractLsb'_toNat, Nat.shiftRight_eq_div_pow]
  show bits _ 1 10 * 2 = 0 ↔ bits _ 1 10 = 0
  omega

variable (h : Runs f 4 s) (h0 : s.cur.ctx = 0)
include h h0

theorem writes_hwait_empty (hm : (s.me.opU f.a).extractLsb' 1 10 = 0) : Writes (.hwait f) f s 0 :=
  writes_of_putS (body := controlOnly (hwait f)) h rfl (by
    rw [controlOnly_of_control h0, hwait]
    exact if_pos (by simpa using hwaitMask_zero_iff.mpr hm))

theorem gives_hwait_waits (hm : (s.me.opU f.a).extractLsb' 1 10 ≠ 0) (hs : ∀ n, ¬s.signals (s.me.opU f.a) n) :
    Gives (.hwait f) s fun t => t.me.st = .wait ∧ t.me.pc = s.me.pc ∧ Kept {} s t ∧
      ∃ m since, t.me.block = some ⟨.hwait m, since, 0⟩ := by
  have hnone : (List.range numCtxs).find? (fun n => bit (bits (s.me.opU f.a).toNat 1 10 * 2) n &&
      (s.ctx s.cur.core n).sigCount != 0) = none :=
    List.find?_eq_none.mpr fun n _ hn => hs n ((hwaitFound_iff n).mp hn)
  have hbody : controlOnly (hwait f) s = .hold s (.hwait (bits (s.me.opU f.a).toNat 1 10 * 2)) 0 := by
    rw [controlOnly_of_control h0, hwait]
    simp only [hnone]
    exact if_neg (by simpa using fun hz => hm (hwaitMask_zero_iff.mp (by omega)))
  exact (gives_waits h rfl hbody rfl).imp fun t ⟨hh, hst, hb⟩ =>
    ⟨hst, hh.me.pc, ⟨hh.regsKept rfl, hh.restKept rfl, hh.memKept⟩, _, _, hb⟩

theorem gives_hwait {n : Nat} (hn : s.signals (s.me.opU f.a) n) (hmin : ∀ k, s.signals (s.me.opU f.a) k → n ≤ k) :
    Gives (.hwait f) s fun t => (t.ctx s.cur.core n).sigCount = (s.ctx s.cur.core n).sigCount - 1 ∧
      Result f (BitVec.ofNat 64 (n + 16 * (s.ctx s.cur.core n).sigKind)) s t ∧ RegsKept { regs := [f.d.sreg] } s t ∧ MemKept s t ∧
      Completed (s.plainWarn f) (s.fall f) s t := by
  obtain ⟨h1, h10, -, -⟩ := id hn
  have hfind : (List.range numCtxs).find? (fun n => bit (bits (s.me.opU f.a).toNat 1 10 * 2) n &&
      (s.ctx s.cur.core n).sigCount != 0) = some n := by
    refine List.find?_range_eq_some.mpr ⟨(hwaitFound_iff n).mpr hn, List.mem_range.mpr (by unfold numCtxs; omega), fun k hk => ?_⟩
    rw [Bool.not_eq_true', ← Bool.not_eq_true]
    intro hs
    have := hmin k ((hwaitFound_iff k).mp hs)
    omega
  have hmask : (bits (s.me.opU f.a).toNat 1 10 * 2 == 0) = false := by
    have hb : bit (bits (s.me.opU f.a).toNat 1 10 * 2) n = true := (Bool.and_eq_true _ _ ▸ (hwaitFound_iff n).mpr hn).1
    rw [beq_eq_false_iff_ne]
    intro hz
    rw [hz, bit_eq_testBit] at hb
    simp at hb
  let w := BitVec.ofNat 64 (n + 16 * (s.ctx s.cur.core n).sigKind)
  let u := s.modCtx s.cur.core n fun x => { x with sigCount := x.sigCount - 1 }
  have hume : u.me = s.me := by
    show (s.modCtx _ _ _).ctx s.cur.core s.cur.ctx = _
    rw [State.ctx_modCtx, if_neg (by omega)]
    rfl
  obtain ⟨t, hbody, hcur, hme, hctx, hmem⟩ : ∃ t, controlOnly (hwait f) s = .done t ∧ t.cur = s.cur ∧ t.me = s.me.setS f.d.sreg w ∧
      t.ctx s.cur.core n = u.ctx s.cur.core n ∧ MemKept s t := by
    have hput : (u.putS f.d.sreg w).me = s.me.setS f.d.sreg w := State.putS_me_of hume _ _
    have hother : (u.putS f.d.sreg w).ctx s.cur.core n = u.ctx s.cur.core n := by
      rw [State.putS, State.ctx_modMe, if_neg (by rintro ⟨-, e⟩; exact absurd (e.trans h0) (by omega))]
    have hmem : MemKept s (u.putS f.d.sreg w) := .of_eq rfl rfl rfl rfl
    have hb : controlOnly (hwait f) s =
        .done (if (s.ctx s.cur.core n).sigKind == 1 then (u.putS f.d.sreg w).acquire else u.putS f.d.sreg w) := by
      rw [controlOnly_of_control h0, hwait]
      simp only [hmask, hfind]
      rfl
    refine ⟨_, hb, ?_⟩
    split
    · exact ⟨State.acquire_cur _, (State.acquire_me _).trans hput, (State.acquireFor_ctx _ _ _ _ _).trans hother,
        hmem.trans (State.acquire_memKept _)⟩
    · exact ⟨rfl, hput, hother, hmem⟩
  refine (gives_result (body := controlOnly (hwait f)) h rfl hbody hcur hme).imp fun v ⟨has, hres, hk, hd⟩ =>
    ⟨?_, hres, hk, hmem.trans has.memKept, hd⟩
  rw [has.others _ _ (by omega), hctx, State.ctx_modCtx_self]

end Hwait

/-! DONE, DONE.J and NEXT (R186, R296). -/

theorem State.endRoutine_of_noLaunch {s : State} {n c : Nat} (h : (s.ctx n c).launch = none) :
    s.endRoutine n c true = s.endRoutine n c false := by
  unfold State.endRoutine
  dsimp only
  rw [h]
  rfl

/-- A core changed but for its contexts keeps every context. -/
theorem State.ctx_modCore_of_ctxs (s : State) {n : Nat} (g : Core → Core) (h : ∀ k, (g k).ctxs = k.ctxs) (m d : Nat) :
    (s.modCore n g).ctx m d = s.ctx m d := by
  rw [State.ctx_modCore]
  split
  next e =>
    rw [e]
    unfold Core.ctx
    rw [h]
    rfl
  next => rfl

theorem State.leaveRoutine_others (s : State) {n c m d : Nat} (h : ¬(m = n ∧ d = c)) : (s.leaveRoutine n c).ctx m d = s.ctx m d := by
  unfold State.leaveRoutine
  rw [State.ctx_modCore_of_ctxs, State.ctx_modCore_of_ctxs, State.ctx_modCtx, if_neg h]
  · rfl
  all_goals exact fun _ => rfl

theorem State.leaveRoutine_memKept (s : State) (n c : Nat) : MemKept s (s.leaveRoutine n c) := .of_eq rfl rfl rfl rfl

/-- What a helper's last instruction leaves (R186, R296). -/
structure RoutineEnded (s t : State) : Prop where
  st : (t.ctx s.cur.core s.cur.ctx).st = .free
  kind : (t.ctx s.cur.core s.cur.ctx).sigKind = if s.me.sigCount < 255 then 1 else s.me.sigKind
  count : (t.ctx s.cur.core s.cur.ctx).sigCount = if s.me.sigCount < 255 then s.me.sigCount + 1 else s.me.sigCount
  others : ∀ n c, ¬(n = s.cur.core ∧ c = s.cur.ctx) → t.ctx n c = s.ctx n c
  mem : MemKept s t

/-- A routine of no launch that leaves nothing to run, over the state `u` in which its last instruction's work is done. -/
theorem routineEnded {s u : State} (hc : s.cur.ctx ≠ 0) (hlaunch : s.me.launch = none) (hu : u.cur = s.cur) (hx : u.ctx = s.ctx)
    (hm : MemKept s u) (hw : u.engineWork s.cur.core s.cur.ctx = false) (hq : (u.core s.cur.core).queue = none) (f : Form) (warns : Bool) :
    let t := finishRoutine f 1 ((u.payCore s.cur.core s.cur.ctx 4).warnIf warns)
    RoutineEnded s t ∧ t.popNext s.cur.core s.cur.ctx = t := by
  have hume : u.me = s.me := by rw [State.me_eq hu, hx]; rfl
  obtain ⟨-, -, hwork, hqueue, hl, hsig, hothers, hmem⟩ := State.signed_after hu 4 warns (s.fall f) 1
  have hfin := State.after_finish hu (by rw [hume]) f 1 4 warns
  generalize (s.after 4 warns (s.fall f) u).signed 1 = z at *
  obtain ⟨hkind, hcount⟩ := hsig hc
  have hzw := hwork.trans hw
  have hzq := hqueue.trans hq
  have hlq := (z.leaveRoutine_queue s.cur.core s.cur.ctx).trans hzq
  have hend : z.endRoutine s.cur.core s.cur.ctx true = z.leaveRoutine s.cur.core s.cur.ctx := by
    rw [State.endRoutine_of_noLaunch (hl.trans (by rw [hume, hlaunch])), State.endRoutine_of_idle hc hzw,
      State.offerRecords_of_noQueue hlq]
  dsimp only
  rw [hfin, hend]
  rw [hume] at hkind hcount
  refine ⟨⟨?_, ?_, ?_, fun n c hn => ?_, (hm.trans hmem).trans (z.leaveRoutine_memKept _ _)⟩, State.popNext_of_noQueue hlq⟩
  · rw [z.leaveRoutine_ctx]; rfl
  · rw [z.leaveRoutine_ctx]; exact hkind
  · rw [z.leaveRoutine_ctx]; exact hcount
  · rw [z.leaveRoutine_others hn, hothers n c hn, hx]

/-- A context with no operation of an engine outstanding (R180). -/
theorem Ctx.outstanding_eq_false {x : Ctx} (hp : x.pending = []) (hf : x.fork = none) : x.outstanding = false := by
  simp [Ctx.outstanding, hp, hf]

theorem State.markUnjoin_of_observed {s : State} (h : s.me.outstanding = false) : s.markUnjoin = s := by
  simp [State.markUnjoin, h]

section Done
variable {f : Form} {s : State} (h : Runs f 4 s)
include h

theorem traps_done_control (h0 : s.cur.ctx = 0) :
    Traps (.done f) s cCTXPERM 0 ∧ Traps (.doneJ f) s cCTXPERM 0 ∧ Traps (.next f) s cCTXPERM 0 :=
  ⟨traps_fault h rfl (helperOnly_of_control h0 _), traps_fault h rfl (helperOnly_of_control h0 _),
    traps_fault h rfl (helperOnly_of_control h0 _)⟩

variable (hc : s.cur.ctx ≠ 0) (hrel : s.relWait = none) (hl : s.me.loads = []) (hlaunch : s.me.launch = none)
  (hp : s.me.pending = []) (hf : s.me.fork = none)
  (hw : s.engineWork s.cur.core s.cur.ctx = false) (hq : s.myCore.queue = none)
include hc hrel hl hlaunch hp hf hw hq

theorem gives_done_next : Gives (.done f) s (RoutineEnded s) ∧ Gives (.next f) s (RoutineEnded s) := by
  have hu : ((s.payCore s.cur.core s.cur.ctx 4).warnIf (s.plainWarn f)).markUnjoin =
      (s.payCore s.cur.core s.cur.ctx 4).warnIf (s.plainWarn f) := by
    have hcur := State.payCore_cur s s.cur.core s.cur.ctx 4
    have has := (State.warnIf_as (s.payCore s.cur.core s.cur.ctx 4) (s.plainWarn f))
    rw [hcur] at has
    obtain ⟨-, -, hfork, hpend⟩ := (has.trans (s.payCore_as _ _ _)).me.signal
    refine State.markUnjoin_of_observed (Ctx.outstanding_eq_false ?_ ?_)
    · rw [State.me_eq (has.cur.trans hcur), hpend]; exact hp
    · rw [State.me_eq (has.cur.trans hcur), hfork]; exact hf
  obtain ⟨hend, hnext⟩ := routineEnded hc hlaunch rfl rfl (.refl s) hw hq f (s.plainWarn f)
  refine ⟨⟨_, exec_ended h rfl ((helperOnly_of_helper hc _).trans (asRelease_of_none hrel)) hl, ?_⟩,
    ⟨_, exec_ended h rfl ((helperOnly_of_helper hc _).trans (asRelease_of_none hrel)) hl, ?_⟩⟩
  · rw [hu]
    exact hend
  · rw [hu]
    have hcur : ((s.payCore s.cur.core s.cur.ctx 4).warnIf (s.plainWarn f)).cur = s.cur :=
      (State.warnIf_as _ _).cur.trans (State.payCore_cur ..)
    rw [hcur, hnext]
    exact hend

/-- The state in which DONE.J has observed the operations of its context (R171, R180). -/
def State.joined (s : State) : State :=
  (s.observe s.cur.core s.cur.ctx fun _ => true).modMe fun x => { x with fork := none, pending := [] }

omit h hc hl hlaunch hw hq hrel in
/-- With none outstanding it leaves the contexts, and the rest of each core. -/
theorem State.joined_frame : s.joined.ctx = s.ctx ∧ ∀ n, ∃ cs, s.joined.core n = { s.core n with ctxs := cs } := by
  obtain ⟨os, p, hobs⟩ := s.observe_eq fun _ => true
  have hclear : ({ ({ s.me with pending := p } : Ctx) with fork := none, pending := [] } : Ctx) = s.me := by
    rw [← hf, ← hp]
  have hx (m d : Nat) : (({ s with ops := os } : State).setMe { s.me with pending := p }).ctx m d =
      if m = s.cur.core ∧ d = s.cur.ctx then { s.me with pending := p } else s.ctx m d := State.ctx_setMe ..
  unfold State.joined
  rw [hobs]
  refine ⟨funext fun m => funext fun d => ?_, fun n => ?_⟩
  · refine (State.ctx_modMe _ _ m d).trans ?_
    rw [State.me_setMe, hclear, hx]
    split
    next e =>
      obtain ⟨hm, hd⟩ := e
      rw [hm, hd]
      rfl
    next e => exact if_neg e
  · obtain ⟨cs, h1⟩ := State.core_setCtx_eq (({ s with ops := os } : State).setMe { s.me with pending := p }) s.cur.core s.cur.ctx n
      { (({ s with ops := os } : State).setMe { s.me with pending := p }).me with fork := none, pending := [] }
    obtain ⟨_, h2⟩ := State.core_setCtx_eq ({ s with ops := os } : State) s.cur.core s.cur.ctx n { s.me with pending := p }
    exact ⟨cs, h1.trans (congrArg (fun k : Core => { k with ctxs := cs }) h2)⟩

theorem gives_doneJ (hops : s.ops = []) : Gives (.doneJ f) s (RoutineEnded s) := by
  let u := s.joined
  obtain ⟨hctx, hcores⟩ := State.joined_frame hp hf
  obtain ⟨cs, hcore⟩ : ∃ cs, u.core s.cur.core = { s.myCore with ctxs := cs } := hcores _
  have hume : u.me = s.me := by
    show u.ctx s.cur.core s.cur.ctx = _
    rw [show u.ctx = s.ctx from hctx]
    rfl
  have huops : u.ops = [] := by
    show s.ops.filter _ = []
    rw [hops]
    rfl
  have hout : s.myCore.storesOut s.cur.ctx = false := by
    rw [← Bool.not_eq_true]
    intro ho
    rw [State.relWait_of_storesOut ho] at hrel
    cases hrel
  have hurel : u.relWait = none := by
    refine State.relWait_of_no_loads ?_ (by rw [hume]; exact hl)
    show (u.core s.cur.core).storesOut s.cur.ctx = false
    rw [hcore]
    exact hout
  have hbody : s.forkOver s.cur.core s.cur.ctx = true := by
    unfold State.forkOver
    rw [show (s.ctx s.cur.core s.cur.ctx).fork = none from hf, hops]
    rfl
  obtain ⟨hend, -⟩ := routineEnded (u := u) hc hlaunch rfl hctx (.of_eq rfl rfl rfl rfl)
    (by
      obtain ⟨hno, hseq⟩ := (s.engineWork_eq_false_iff _ _).mp hw
      refine (u.engineWork_eq_false_iff _ _).mpr ⟨by rw [huops]; simp, ?_⟩
      rw [hcore]
      exact hseq)
    (by rw [hcore]; exact hq) f (s.plainWarn f)
  refine ⟨_, exec_ended h rfl ((helperOnly_of_helper hc _).trans ?_) hl, hend⟩
  simp only [hbody, hops, List.any_nil, Bool.not_true, Bool.or_self, Bool.false_eq_true, if_false]
  exact asRelease_of_none hurel

end Done

/-- Settles O17: START by its code pointer, number and helper; HWAIT by what its mask finds; and a helper's last instruction as the
routine's end over the state that it leaves. -/
theorem helperStartsAndSignals : Obligations.HelperStartsAndSignals := by
  unfold Obligations.HelperStartsAndSignals
  refine ⟨fun f s h => ⟨traps_start_helper h, traps_start_noncanonical h, traps_start_misaligned h, fun h0 hc ha hrel =>
    ⟨writes_start_badhelp h h0 hc ha hrel, writes_start_busy h h0 hc ha hrel rfl, fun h1 h10 hf ht => ?_⟩⟩,
    fun f s h h0 => ⟨writes_hwait_empty h h0, gives_hwait_waits h h0, fun n hn hmin => gives_hwait h h0 hn hmin⟩,
    fun f s h => ⟨traps_done_control h, fun hc hrel hl hlaunch hp hf hw hops hq => ?_⟩⟩
  · exact (gives_start h h0 hc ha hrel rfl h1 h10 hf ht).imp fun t ⟨hst, hres, hothers, hmem, hd⟩ =>
      ⟨hst.st, hst.pc, hst.scalars, hst.preds, hst.guards, hst.pfx, hst.tlvl, hst.loops, hst.depth, hst.shchg, hst.fmts, hst.launch,
        hres, hothers, hmem, hd⟩
  · have parts {i : Instr} (hi : Gives i s (RoutineEnded s)) := hi.imp fun t (he : RoutineEnded s t) =>
      And.intro he.st (And.intro he.kind (And.intro he.count (And.intro he.others he.mem)))
    obtain ⟨hdone, hnext⟩ := gives_done_next h hc hrel hl hlaunch hp hf hw hq
    exact ⟨parts hdone, parts (gives_doneJ h hc hrel hl hlaunch hp hf hw hq hops), parts hnext⟩

end Sys2Proof.Machine
end

section
/-! SUPPORT. GSET, YIELD and REALIGN (R190, R299, R303, R427): O19. -/
namespace Sys2Proof.Machine

theorem RegsKept.trans {w : May} {s t u : State} (h : RegsKept w s t) (g : RegsKept w t u) : RegsKept w s u where
  scalars r hr := (g.scalars r hr).trans (h.scalars r hr)
  vectors r hr := (g.vectors r hr).trans (h.vectors r hr)
  masks r hr := (g.masks r hr).trans (h.masks r hr)
  accs ha := ⟨(g.accs ha).1.trans (h.accs ha).1, (g.accs ha).2.trans (h.accs ha).2⟩
  fmts f hf := (g.fmts f hf).trans (h.fmts f hf)
  slots n hn := (g.slots n hn).trans (h.slots n hn)
  srs n hn he := (g.srs n hn he).trans (h.srs n hn he)
  stat hs i hi hn := (g.stat hs i hi hn).trans (h.stat hs i hi hn)
  signal := by
    obtain ⟨h1, h2, h3, h4⟩ := h.signal
    obtain ⟨g1, g2, g3, g4⟩ := g.signal
    exact ⟨g1.trans h1, g2.trans h2, g3.trans h3, g4.trans h4⟩

/-! GSET (R299). -/

/-- A context with a guard slot set at its fork edge. -/
def Ctx.edge (x : Ctx) (n : Nat) (g : Guard) : Ctx := { (x.setGuard n g) with gvcnt := x.gvcnt.set n (x.srGet rVCNT) 0 }

theorem Ctx.guard_edge (x : Ctx) (n : Nat) (g : Guard) (m : Nat) : (x.edge n g).guard m = if m = n then g else x.guard m := by
  unfold Ctx.edge Ctx.setGuard Ctx.guard
  rw [Assoc.get_set]

theorem RegsKept.edge (s : State) (n : Nat) (g : Guard) : RegsKept { slots := [n] } s (s.modMe (·.edge n g)) := by
  have hs := RegsKept.refl {} s
  refine ⟨?_, ?_, ?_, ?_, ?_, fun m hm => ?_, ?_, ?_, ?_⟩ <;> rw [State.me_modMe]
  exacts [hs.scalars, hs.vectors, hs.masks, hs.accs, hs.fmts, by
    rw [Ctx.guard_edge, if_neg (by simpa using hm)], hs.srs, hs.stat, hs.signal]

/-- What GSET stores of a value (R299). -/
def guardOf : Nat → Guard
  | 0 => .hold
  | 1 => .run
  | _ => .skip

theorem guardOf_eq (v : Nat) : guardOf v = if v = 0 then .hold else if v = 1 then .run else .skip := by
  match v with
  | 0 | 1 | _ + 2 => rfl

/-- GSET's effect. -/
def gsetBody (f : Form) (s : State) : Res :=
  .done ((s.modMe (·.edge f.d.num (guardOf (fieldOf (s.me.opU f.a) 0 2)))).warnIf (fieldOf (s.me.opU f.a) 0 2 == 3))

theorem exec_gset (f : Form) (s : State) : exec (.gset f) s = issueCost f 4 (asRelease (gsetBody f)) s := rfl

theorem gives_gset {f : Form} {s : State} (h : Runs f 4 s) (hrel : s.relWait = none) :
    let v := fieldOf (s.me.opU f.a) 0 2
    Gives (.gset f) s fun t => t.me.guard f.d.num = (if v = 0 then .hold else if v = 1 then .run else .skip) ∧
      Kept { slots := [f.d.num] } s t ∧ Completed (s.plainWarn f || decide (v = 3)) (s.fall f) s t := by
  intro v
  let u := s.modMe (·.edge f.d.num (guardOf v))
  have hu : u.me = s.me.edge f.d.num (guardOf v) := s.me_modMe _
  have hw : StatOnly [bWARN] (u.warnIf (v == 3)).me u.me := u.warnIf_statOnly _ (by simp)
  have has := u.warnIf_as (v == 3)
  have hsr (n : Nat) : u.me.srGet n = s.me.srGet n := by rw [hu]; rfl
  have hk : RegsKept { slots := [f.d.num] } s (u.warnIf (v == 3)) :=
    (RegsKept.edge s f.d.num (guardOf v)).trans (hw.regsKept (by simp))
  refine (gives_done_from (b := decide (v = 3)) h (exec_gset f s) (asRelease_of_none hrel) rfl has.cur hk ?_ ?_ fun n h1 h2 => ?_).imp
    fun t ⟨hv, hctx, _, hregs, hd⟩ => ⟨?_, ⟨hregs, ?_, ?_⟩, hd⟩
  · rw [hw.stat _ (by decide) (by decide), Ctx.statBit_of_sr (hsr _), h.noStep]
  · rw [State.warnIf_statBit, Ctx.statBit_of_sr (hsr _)]
    rfl
  · rw [hw.loops n h1 h2, hsr]
  · rw [hctx.guard, hw.as.guard, hu, Ctx.guard_edge, if_pos rfl, guardOf_eq]
  · exact ((s.setMe_rest _).trans (has.rest rfl rfl)).trans (hv.rest (congrArg _ has.cur).symm (congrArg _ has.cur).symm)
  · exact ((s.setMe_memKept _).trans has.memKept).trans hv.memKept

/-! YIELD (R303, R427). -/

/-- YIELD's body. -/
def yieldBody (f : Form) (s : State) : Res :=
  if !f.a.isNone && 255 < f.a.immU then illegal s f 1
  else if !s.me.statBit bPREQ then .done s
  else yieldSave f (if f.a.isNone then 255 else f.a.immU) s

theorem exec_yield (f : Form) (s : State) : exec (.yield f) s = issueCost f 4 (yieldBody f) s := rfl

/-- YIELD with a mask of eight bits goes by STAT.PREQ. -/
theorem yieldBody_of_mask {f : Form} (hm : f.a = .none ∨ f.a.immU ≤ 255) (s : State) : yieldBody f s =
    if !s.me.statBit bPREQ then .done s else yieldSave f (if f.a.isNone then 255 else f.a.immU) s :=
  if_neg fun h => by
    obtain ⟨hn, hi⟩ := Bool.and_eq_true_iff.mp h
    rcases hm with hm | hm
    · rw [hm] at hn
      exact absurd hn (by decide)
    · exact absurd (of_decide_eq_true hi) (by omega)

/-- A save area of physical memory takes every piece (R427). -/
theorem State.writePieces_phys (who : Who) (asid area : Nat) (ps : List (Nat × Nat × Nat)) (s : State) :
    ∃ u, s.writePieces who asid area true ps = (.ok (), u) ∧ Stored u s := by
  induction ps generalizing s with
  | nil => exact ⟨s, rfl, .refl s⟩
  | cons p ps ih =>
    obtain ⟨off, n, v⟩ := p
    obtain ⟨u, he, hu⟩ := ih (s.physWrite (area + off) n v)
    exact ⟨u, he, hu.trans (s.physWrite_stored _ _ _)⟩

/-- A context saved into physical memory is SAVED where it stood, its request answered (R427). -/
theorem State.saveContext_phys (s : State) (n c mask : Nat) (forced : Bool) {p : Preq} (hp : (s.ctx n c).preq = some p)
    (hphys : p.phys = true) :
    let t := s.saveContext n c mask forced
    t.cur = s.cur ∧ (t.ctx n c).st = .saved ∧ (t.ctx n c).statBit bPREQ = false ∧ (t.ctx n c).pc = (s.ctx n c).pc ∧
      ∀ r, (t.ctx n c).sreg r = (s.ctx n c).sreg r := by
  have hset := s.settleAll_frame n
  have hcharged := hset.ctx n c
  have hp' : ((s.settleAll n).ctx n c).preq = some p := by
    obtain ⟨⟨_, _, _, hx⟩, _⟩ := hcharged
    rw [hx]
    exact hp
  obtain ⟨u, hw, hu⟩ := (s.settleAll n).writePieces_phys ⟨n, c, ((s.settleAll n).ctx n c).vf⟩ ((s.settleAll n).ctx n c).asid p.area
    (savePieces ((s.settleAll n).core n) n c mask forced)
  have hstored := hu.ctx n c
  obtain ⟨hupc, -⟩ := hstored.course
  unfold State.saveContext
  dsimp only
  rw [hp']
  dsimp only
  rw [hphys, hw]
  dsimp only
  let g : Core → Core := fun k =>
    if k.seqOwner == some c then { k with seqOwner := none, mseq := Seq.reset, cseq := Seq.reset } else k
  have hctx : ((u.modCore n g).acquireFor n c).ctx n c = u.ctx n c := by
    rw [State.acquireFor_ctx, State.ctx_modCore, if_pos rfl]
    show (if _ then _ else _ : Core).ctx c = _
    split <;> rfl
  have hcur : ((u.modCore n g).acquireFor n c).cur = s.cur := by
    obtain ⟨_, _, h⟩ := (u.modCore n g).acquireFor_eq n c
    rw [h]
    exact hu.cur.trans hset.cur
  refine ⟨hcur, ?_⟩
  rw [State.ctx_modCtx_self, hctx]
  refine ⟨rfl, ?_, hupc.trans hcharged.pc, fun r => (hstored.as.sreg r).trans (hcharged.sreg r)⟩
  exact (Ctx.statBit_setStat _ _ _ _ (by decide)).trans (if_pos rfl)

section Yield
variable {f : Form} {s : State} (h : Runs f 4 s)
include h

theorem traps_yield (hn : f.a ≠ .none) (hi : 256 ≤ f.a.immU) :
    Traps (.yield f) s cILLEGAL (s.me.pc + BitVec.ofNat 64 (4 * (f.npfx + 1))).toNat :=
  traps_fault h (exec_yield f s) (if_pos (by
    rw [Bool.and_eq_true, Bool.not_eq_true', ← Bool.not_eq_true, Operand.isNone_iff]
    exact ⟨hn, decide_eq_true hi⟩))

theorem branches_yield (hq : s.me.statBit bPREQ = false) (hm : f.a = .none ∨ f.a.immU ≤ 255) :
    Branches (.yield f) f s {} (s.fall f) := by
  refine (gives_done h (exec_yield f s) (t := s) ?_ (.refl {} s) rfl rfl fun _ _ _ => rfl).imp fun t ⟨_, hk, hd⟩ => ⟨trivial, hk, hd⟩
  rw [yieldBody_of_mask hm, hq]
  rfl

variable (hq : s.me.statBit bPREQ = true) (hm : f.a = .none ∨ f.a.immU ≤ 255)
include hq hm

theorem gives_yield_hold (hr : s.saveReady s.cur.core s.cur.ctx = false) : Gives (.yield f) s fun t =>
    (∃ m since, t.me.block = some ⟨.save m false, since, 0⟩) ∧ t.me.pc = s.me.pc ∧ Kept {} s t := by
  refine (gives_interlock h (exec_yield f s) (wt := .save (if f.a.isNone then 255 else f.a.immU) false) ?_ rfl).imp
    fun t ⟨⟨since, hb⟩, hpc, _, hk⟩ => ⟨⟨_, since, hb⟩, hpc, hk⟩
  rw [yieldBody_of_mask hm, hq, yieldSave, hr]
  rfl

theorem gives_yield_save (hr : s.saveReady s.cur.core s.cur.ctx = true) (hl : s.me.loads = []) {p : Preq} (hp : s.me.preq = some p)
    (hphys : p.phys = true) : Gives (.yield f) s fun t =>
      t.me.st = .saved ∧ t.me.statBit bPREQ = false ∧ t.me.pc = (s.me.loopEnd (s.fall f) 5).pc ∧ ∀ r, t.me.sreg r = s.me.sreg r := by
  let u := s.after 4 (s.plainWarn f) (s.fall f) s
  let mask := if f.a.isNone then 255 else f.a.immU
  have hbody : yieldBody f s = .ended s fun v =>
      (v.retire s.cur.core s.cur.ctx false (v.me.pc + BitVec.ofNat 64 (formLen f))).saveContext s.cur.core s.cur.ctx mask false := by
    rw [yieldBody_of_mask hm, hq, yieldSave, hr]
    rfl
  obtain ⟨_, hfall⟩ := State.paid_course (s := s) (u := s) rfl 4 (s.plainWarn f)
  have hcur : u.cur = s.cur := (State.after_as s 4 _ _ s rfl).cur
  have hme : u.me = u.ctx s.cur.core s.cur.ctx := State.me_eq hcur
  obtain ⟨_, hpc, -⟩ := State.after_me s 4 (s.plainWarn f) (s.fall f) s rfl
  obtain ⟨_, _, _, _, _, _, _, hx⟩ := s.after_eq 4 (s.plainWarn f) (s.fall f) s
  have hpu : (u.ctx s.cur.core s.cur.ctx).preq = some p := by
    rw [hx]
    exact hp
  obtain ⟨hvcur, hst, hpreq, hvpc, hs⟩ := u.saveContext_phys s.cur.core s.cur.ctx mask false hpu hphys
  refine ⟨u.saveContext s.cur.core s.cur.ctx mask false, (exec_ended h (exec_yield f s) hbody hl).trans ?_, ?_⟩
  · rw [hfall]
    rfl
  dsimp only
  rw [State.me_eq (hvcur.trans hcur)]
  refine ⟨hst, hpreq, hvpc.trans ?_, fun r => (hs r).trans ?_⟩
  · rw [← hme]
    exact hpc
  · rw [hx]
    rfl

end Yield

/-! REALIGN (R190). -/

/-- REALIGN's body. -/
def realignBody (f : Form) (s : State) : Res := if f.a.immU == 0 || 4095 < f.a.immU then illegal s f 1 else realign f.a.immU s

theorem exec_realign (f : Form) (s : State) : exec (.realign f) s = issueCost f 4 (realignBody f) s := rfl

theorem realignBody_of_window {f : Form} (h1 : 1 ≤ f.a.immU) (h2 : f.a.immU ≤ 4095) (s : State) : realignBody f s = realign f.a.immU s :=
  if_neg (by simp; omega)

/-- What the end of other contexts' REALIGNs leaves: everything but the waits of contexts of other cores. -/
structure WindowsClosed (core : Nat) (t s : State) : Prop where
  eq : ∃ cs, t = { s with cores := cs }
  ctx : ∀ c, t.ctx core c = s.ctx core c

theorem WindowsClosed.refl (core : Nat) (s : State) : WindowsClosed core s s := ⟨⟨_, rfl⟩, fun _ => rfl⟩

theorem WindowsClosed.trans {core : Nat} {s t u : State} (h : WindowsClosed core u t) (g : WindowsClosed core t s) :
    WindowsClosed core u s := by
  obtain ⟨⟨_, rfl⟩, hc⟩ := h
  obtain ⟨⟨_, rfl⟩, gc⟩ := g
  exact ⟨⟨_, rfl⟩, fun c => (hc c).trans (gc c)⟩

theorem State.endRealign_closed (s : State) (core : Nat) (launch : Option Nat) (pc : Word) :
    WindowsClosed core (s.endRealign core launch pc) s := by
  refine List.foldlRecOn (motive := fun t => WindowsClosed core t s) _ _ (.refl _ s) fun t ht i _ => ?_
  dsimp only
  split
  · exact ht
  next hd =>
    refine List.foldlRecOn (motive := fun t => WindowsClosed core t s) _ _ ht fun t ht c _ => ?_
    split
    · refine WindowsClosed.trans ⟨⟨_, rfl⟩, fun c' => ?_⟩ ht
      rw [State.ctx_modCtx, if_neg fun e => hd (by simpa using e.1.symm)]
    · exact ht

/-- Outside a launch no REALIGN ends another's (R190). -/
theorem State.endRealign_none (s : State) (core : Nat) (pc : Word) : s.endRealign core none pc = s := by
  refine List.foldlRecOn (motive := fun t => t = s) _ _ rfl fun t ht i _ => ?_
  dsimp only
  split
  · exact ht
  · exact List.foldlRecOn (motive := fun t => t = s) _ _ ht fun t ht c _ => ht

section Realign
variable {f : Form} {s : State} (h : Runs f 4 s)
include h

theorem traps_realign (hw : f.a.immU = 0 ∨ 4096 ≤ f.a.immU) :
    Traps (.realign f) s cILLEGAL (s.me.pc + BitVec.ofNat 64 (4 * (f.npfx + 1))).toNat :=
  traps_fault h (exec_realign f s) (if_pos (by simpa [Nat.lt_iff_add_one_le] using hw))

variable (h1 : 1 ≤ f.a.immU) (h2 : f.a.immU ≤ 4095)
include h1 h2

theorem branches_realign (hl : s.me.launch = none) : Branches (.realign f) f s {} (s.fall f) := by
  refine (gives_done h (exec_realign f s) (t := s) ?_ (.refl {} s) rfl rfl fun _ _ _ => rfl).imp fun t ⟨_, hk, hd⟩ => ⟨trivial, hk, hd⟩
  rw [realignBody_of_window h1 h2, realign, hl]
  exact (if_pos rfl).trans (congrArg Res.done (s.endRealign_none _ _))

theorem gives_realign_meets (ht : s.tileAligned s.cur.core s.me.launch s.me.pc = true) : Gives (.realign f) s fun t =>
    RegsKept {} s t ∧ MemKept s t ∧ Completed (s.plainWarn f) (s.fall f) s t := by
  have hbody : realignBody f s = .done (s.endRealign s.cur.core s.me.launch s.me.pc) := by
    rw [realignBody_of_window h1 h2, realign]
    exact if_pos ht
  obtain ⟨⟨_, he⟩, hc⟩ := s.endRealign_closed s.cur.core s.me.launch s.me.pc
  have hcur : (s.endRealign s.cur.core s.me.launch s.me.pc).cur = s.cur := by rw [he]
  refine (gives_done_of_me h (exec_realign f s) hbody hcur ((State.me_eq hcur).trans (hc _))).imp fun t ⟨has, hk, hd⟩ => ⟨hk, ?_, hd⟩
  have hm : MemKept s (s.endRealign s.cur.core s.me.launch s.me.pc) := by rw [he]; exact .of_eq rfl rfl rfl rfl
  exact hm.trans has.memKept

theorem gives_realign_over {pc dl since : Nat} (hb : s.me.block = some ⟨.realign pc dl, since, 0⟩) (hd : dl ≤ s.clk) :
    Gives (.realign f) s fun t => RegsKept {} s t ∧ MemKept s t ∧ Completed (s.plainWarn f) (s.fall f) s t := by
  by_cases ht : s.tileAligned s.cur.core s.me.launch s.me.pc = true
  · exact gives_realign_meets h h1 h2 ht
  · refine (gives_done h (exec_realign f s) (t := s) ?_ (.refl {} s) rfl rfl fun _ _ _ => rfl).imp
      fun t ⟨_, hk, hd⟩ => ⟨hk.regs, hk.mem, hd⟩
    rw [realignBody_of_window h1 h2, realign, hb]
    exact (if_neg ht).trans (if_pos hd)

theorem gives_realign_waits (hb : s.me.block = none) (ht : s.tileAligned s.cur.core s.me.launch s.me.pc = false) :
    Gives (.realign f) s fun t => t.me.st = .wait ∧ t.me.pc = s.me.pc ∧
      t.me.block = some ⟨.realign s.me.pc.toNat (s.clk + f.a.immU), s.clk, 0⟩ ∧
      (s.clk + f.a.immU, Event.realignTimeout s.cur.core s.cur.ctx) ∈ t.due ∧ RegsKept {} s t ∧ MemKept s t := by
  let u := s.later f.a.immU (.realignTimeout s.cur.core s.cur.ctx)
  have hbody : realignBody f s = .hold u (.realign s.me.pc.toNat (s.clk + f.a.immU)) 0 := by
    rw [realignBody_of_window h1 h2, realign, hb]
    exact (if_neg (by rw [ht]; decide)).trans (if_neg (by simp; omega))
  have hum : u.me = s.me := rfl
  refine (gives_waits h (exec_realign f s) hbody rfl).imp fun t ⟨hheld, hst, hblock⟩ =>
    ⟨hst, hheld.me.pc.trans (congrArg Ctx.pc hum), ?_, ?_, hheld.regsKept hum, ?_⟩
  · rw [hblock, hum, hb]
    rfl
  · obtain ⟨⟨_, _, he⟩, -⟩ := hheld
    rw [he]
    exact s.mem_due_later _ _
  · have hm : MemKept s u := .of_eq rfl rfl rfl rfl
    exact hm.trans hheld.memKept

end Realign

/-- Settles O19, instruction by instruction: GSET's slot, YIELD by STAT.PREQ and the drain, REALIGN by its tile and its window. -/
theorem guardYieldAndRealign : Obligations.GuardYieldAndRealign := by
  unfold Obligations.GuardYieldAndRealign
  refine fun f s h => ⟨gives_gset h, branches_yield h, fun p hq hm hr hl hp hphys => gives_yield_save h hq hm hr hl hp hphys,
    gives_yield_hold h, traps_yield h, fun hl h1 h2 => branches_realign h h1 h2 hl, gives_realign_meets h,
    fun _ _ _ h1 h2 hb hd => gives_realign_over h h1 h2 hb hd, gives_realign_waits h, traps_realign h⟩

end Sys2Proof.Machine
end

section
/-! SUPPORT. The turns of a step (R191, R197, R219, R240, R414): O57. -/
namespace Sys2Proof.Machine

/-! A turn that the agenda names. -/

theorem step_agenda {s : State} {a : Agent} {rest : List Turn} (ha : s.agenda = .issue a :: rest) (hp : s.power = true)
    (hm : s.mayTurn a = true) : step s = settled (({ s with agenda := rest } : State).turn a) := by
  have hm' : ({ s with agenda := rest } : State).mayTurn a = true := hm
  show settled s.move1 = _
  unfold State.move1
  rw [ha]
  dsimp only
  rw [hp]
  simp only [Bool.not_true, Bool.false_and, Bool.false_eq_true, if_false]
  exact congrArg settled (if_pos hm')

theorem step_event {s u : State} {e : Event} (ha : s.agenda = []) (hp : s.power = true) (hd : s.dueNow = some (e, u)) :
    step s = settled (exec e.instr { u with ev := e }) := by
  show settled s.move1 = _
  unfold State.move1
  rw [ha]
  dsimp only
  rw [hp, hd]
  rfl

/-- The state in which a context takes its turn. -/
def State.turned (s : State) (core c : Nat) : State :=
  { s with cur := ⟨core, c, .context⟩ }.modCore core fun k => { k with nextIssue := s.clk + 1 }

theorem State.turned_ctx (s : State) (core c n d : Nat) : (s.turned core c).ctx n d = s.ctx n d :=
  State.ctx_modCore_of_ctxs _ (fun k : Core => { k with nextIssue := s.clk + 1 }) (fun _ => rfl) n d

theorem State.turned_core (s : State) (core c : Nat) : (s.turned core c).core core = { s.core core with nextIssue := s.clk + 1 } := by
  unfold State.turned
  rw [State.core_modCore, if_pos rfl]
  rfl

/-- A context with nothing due at its boundary issues (R414). -/
theorem State.turnCtx_issues {s : State} {core c : Nat} (hb : s.boundaryDue core c = false) (hf : s.forceDue core c = false) :
    s.turnCtx core c = leaveCycle core c (s.core core).nextIssue ((s.turned core c).issueCtx core c) := by
  simp only [State.boundaryDue, hf, Bool.false_and, Bool.or_false, Bool.or_eq_false_iff] at hb
  obtain ⟨⟨hasync, hstep⟩, hev⟩ := hb
  have hev' : (c == 0 && ((s.turned core c).core core).eventDue) = false := by
    rw [State.turned_core]
    exact hev
  have hf' : (s.turned core c).forceDue core c = false := by
    unfold State.forceDue
    rw [State.turned_ctx, State.turned_core]
    exact hf
  unfold State.turnCtx
  dsimp only
  rw [show (State.modCore _ _ _) = s.turned core c from rfl, State.turned_ctx, hasync, hstep, hev', hf']
  rfl

/-! The instruction at the pc. -/

/-- A word fetched that is ILLEGAL in itself, or whose fetch fails, faults where no load is under way (R257, R317, R414). -/
theorem State.wordFault_of_no_loads {u : State} {core c : Nat} (hl : (u.ctx core c).loads = []) (code val : Nat) :
    u.wordFault core c code val =
      u.enterTrap core c (causeWord code false 0 0 0 0) (BitVec.ofNat 64 val) (u.ctx core c).pc := by
  unfold State.wordFault
  dsimp only
  rw [hl]
  rfl

theorem State.issueCtx_fault {s u : State} {core c code val : Nat} (h : s.fetch core c = (.error (code, val), u)) (hc : code ≠ fetchHeld) :
    s.issueCtx core c = .next (u.wordFault core c code val) := by
  unfold State.issueCtx
  rw [h]
  exact if_neg (by simpa using hc)

theorem State.issueCtx_illegal {s u : State} {core c k : Nat} {i : Instr} (h : s.fetch core c = (.ok i, u)) (hk : badParcel i = some k) :
    s.issueCtx core c = .next (u.wordFault core c cILLEGAL ((u.ctx core c).pc + BitVec.ofNat 64 (4 * k)).toNat) := by
  unfold State.issueCtx
  rw [h]
  dsimp only
  rw [hk]

theorem State.issueCtx_runs {s u : State} {core c : Nat} {i : Instr} (h : s.fetch core c = (.ok i, u)) (hk : badParcel i = none) :
    s.issueCtx core c = u.runInstr core c i := by
  unfold State.issueCtx
  rw [h]
  dsimp only
  rw [hk]

/-- A yield point of a context whose pre-emption request is pending (R243, R426). -/
def Ctx.savesAt (x : Ctx) (i : Instr) : Prop :=
  yieldPoint i = true ∧ x.statBit bPREQ = true ∧ x.preq.isSome = true ∧ x.fresh = true

theorem Ctx.savesAt_iff (x : Ctx) (i : Instr) :
    x.savesAt i ↔ (yieldPoint i && x.statBit bPREQ && x.preq.isSome && x.fresh) = true := by
  simp only [Ctx.savesAt, Bool.and_eq_true, and_assoc]

theorem State.runInstr_exec {u : State} {core c : Nat} {i : Instr} (hs : ¬(u.ctx core c).savesAt i)
    (hg : (u.ctx core c).gapLeft u.clk (issueGap i) = false) : u.runInstr core c i = exec i u := by
  rw [Ctx.savesAt_iff] at hs
  unfold State.runInstr
  dsimp only
  rw [if_neg hs, if_neg (by rw [hg]; decide)]

theorem State.runInstr_saves {u : State} {core c : Nat} {i : Instr} (hs : (u.ctx core c).savesAt i) (hr : u.saveReady core c = true) :
    u.runInstr core c i = .next (u.saveContext core c 255 false) := by
  rw [Ctx.savesAt_iff] at hs
  unfold State.runInstr
  dsimp only
  rw [if_pos hs, if_pos hr]

/-! Fetching (R240, R250). -/

/-- Parcels stand at an address of a context, where its fetch finds them without more ado. -/
def State.Parcels (s : State) (core c : Nat) (pc : Word) (ps : List Nat) : Prop :=
  ∀ k p, ps[k]? = some p → s.fetchParcel core c (pc + BitVec.ofNat 64 (4 * k)) = (.ok p, s)

section Parcels
variable {s : State} {core c : Nat} {pc : Word} {p : Nat} {ps : List Nat} (h : s.Parcels core c pc (p :: ps))
include h

theorem State.Parcels.head : s.fetchParcel core c pc = (.ok p, s) := by
  have h0 := h 0 p rfl
  rwa [show pc + BitVec.ofNat 64 (4 * 0) = pc by simp] at h0

theorem State.Parcels.tail : s.Parcels core c (pc + 4) ps := fun k q hq => by
  have hk := h (k + 1) q hq
  rwa [show pc + BitVec.ofNat 64 (4 * (k + 1)) = pc + 4 + BitVec.ofNat 64 (4 * k) by
    rw [Nat.mul_add, BitVec.ofNat_add, BitVec.add_comm (BitVec.ofNat 64 (4 * k)), BitVec.add_assoc]; rfl] at hk

end Parcels

/-- The parcels of one word alone, its prefixes past. -/
theorem decodeParcels_word {run : PfxRun} {p : Nat} {ps : List Nat} {i : Instr} (hx : ¬isVxParcel p = true)
    (hd : decodeParcels run (p :: ps) = .ok (i, [])) : ∃ p1 p2, ps = [p1, p2] ∧ decodeWord run p p1 p2 = .ok i := by
  unfold decodeParcels at hd
  rw [if_neg hx] at hd
  split at hd
  next p1 p2 rest =>
    cases hw : decodeWord run p p1 p2 with
    | error k => rw [hw] at hd; cases hd
    | ok j => rw [hw] at hd; cases hd; exact ⟨p1, p2, rfl, hw⟩
  next => cases hd

/-- The prefixes of parcels that decode are collected up to the three parcels of their word. -/
theorem State.fetchRun_of_decode {s : State} {core c : Nat} {i : Instr} (ps : List Nat) (run : PfxRun) (pc : Word) (fuel : Nat)
    (hd : decodeParcels run ps = .ok (i, [])) (hf : ps.length ≤ fuel) (hps : s.Parcels core c pc ps) :
    ∃ run' p0 p1 p2 at_, s.fetchRun core c run pc fuel = (.ok (run', p0, at_), s) ∧ s.Parcels core c at_ [p0, p1, p2] ∧
      decodeWord run' p0 p1 p2 = .ok i := by
  induction ps generalizing run pc fuel with
  | nil => simp [decodeParcels] at hd
  | cons p ps ih =>
    obtain ⟨fuel, rfl⟩ : ∃ n, fuel = n + 1 := ⟨fuel - 1, by simp at hf; omega⟩
    rw [State.fetchRun, hps.head]
    dsimp only
    by_cases hx : isVxParcel p = true
    · unfold decodeParcels at hd
      rw [if_pos hx] at hd
      rw [if_pos hx]
      exact ih (run.push p) (pc + 4) fuel hd (by simpa using hf) hps.tail
    · obtain ⟨p1, p2, rfl, hw⟩ := decodeParcels_word hx hd
      rw [if_neg hx]
      exact ⟨run, p, p1, p2, pc, rfl, hps, hw⟩

/-- A context fetches the instruction that the parcels at its pc decode to. -/
theorem State.fetch_of_parcels {s : State} {core c : Nat} {ps : List Nat} {i : Instr} (hd : decodeParcels .empty ps = .ok (i, []))
    (hf : ps.length < 2 ^ 54) (hps : s.Parcels core c (s.ctx core c).pc ps) : s.fetch core c = (.ok i, s) := by
  obtain ⟨run, p0, p1, p2, at_, hr, hp, hw⟩ := s.fetchRun_of_decode ps .empty _ fetchFuel hd (Nat.le_of_lt hf) hps
  have h8 : at_ + 8 = at_ + 4 + 4 := by rw [BitVec.add_assoc]; rfl
  unfold State.fetch
  dsimp only
  rw [hr]
  dsimp only
  rw [hp.tail.head]
  dsimp only
  rw [h8, hp.tail.tail.head]
  dsimp only
  rw [hw]

/-- Settles O57, by who takes the turn: a context, a sequencer, or an event. -/
theorem stepRunsDecodedInstruction : Obligations.StepRunsDecodedInstruction := by
  unfold Obligations.StepRunsDecodedInstruction
  refine ⟨fun s core c rest ha hp hm hb hf => ?_, fun t core c next ht => ?_, fun s core c ps i hd hl hps =>
    State.fetch_of_parcels hd hl hps, fun s a rest i hu ha hp hm => ?_, fun s u e => step_event⟩
  · intro s1 takes faults
    have htakes {o : Host.Outcome State Fault Refusal} (ho : s1.issueCtx core c = o) : takes o := by
      rw [← ho]
      have hturn : ({ s with agenda := rest } : State).turn ⟨core, c, .context⟩ =
        leaveCycle core c (s.core core).nextIssue (s1.issueCtx core c) := State.turnCtx_issues (s := { s with agenda := rest }) hb hf
      exact (step_agenda ha hp hm).trans (congrArg settled hturn)
    have hfaults {u : State} {code val : Nat} (ho : s1.issueCtx core c = .next (u.wordFault core c code val)) :
        faults u code (BitVec.ofNat 64 val) := fun hl => htakes (by rw [ho, State.wordFault_of_no_loads hl])
    refine ⟨fun i u hi hk => ⟨fun hs hg => htakes ?_, fun hs hr => htakes ?_⟩, fun i u k hi hk => hfaults (State.issueCtx_illegal hi hk),
      fun code v u hi hc => hfaults (State.issueCtx_fault hi hc)⟩
    · rw [State.issueCtx_runs hi hk, State.runInstr_exec hs hg]
    · rw [State.issueCtx_runs hi hk, State.runInstr_saves hs hr]
  · exact congrArg Host.Outcome.next (if_neg (by rw [ht]; decide))
  · intro s1 hi
    rw [step_agenda ha hp hm]
    refine congrArg settled ?_
    unfold State.turn
    rw [if_neg (by simpa using hu)]
    show State.turnSeq _ a = _
    unfold State.turnSeq
    dsimp only
    rw [hi]

end Sys2Proof.Machine
end

section
/-! SUPPORT. XMIT, XSEL and the arrival of an exchanged value (R198 to R200, R308): O23. -/
namespace Sys2Proof.Machine

/-! Instructions that name format entries, with no FMTP pending (R251, R252). -/

theorem Ctx.pfxEntry_none {x : Ctx} (h : x.statBit bPFX = false) (p : Pos) : x.pfxEntry p = none := by
  unfold Ctx.pfxEntry
  rw [h]
  rfl

theorem Ctx.entryNo_own {x : Ctx} (h : x.statBit bPFX = false) (f : Form) (p : Pos) : x.entryNo f p = (p.of f).entry.getD 0 := by
  unfold Ctx.entryNo
  rw [Ctx.pfxEntry_none h]
  rfl

theorem Ctx.strayEntry_none {x : Ctx} (h : x.statBit bPFX = false) (f : Form) : x.strayEntry f = false := by
  unfold Ctx.strayEntry
  simp [Ctx.pfxEntry_none h]

theorem State.warnIf_cores (s : State) (b : Bool) : ∃ cs, s.warnIf b = { s with cores := cs } := by
  unfold State.warnIf
  split
  · exact ⟨_, rfl⟩
  · exact ⟨_, rfl⟩

theorem State.retire_cores (s : State) (n c : Nat) (isFmtp : Bool) (npc : Word) :
    ∃ cs, s.retire n c isFmtp npc = { s with cores := cs } := ⟨_, rfl⟩

/-- Completing an instruction changes the cores alone, and what they owe. -/
theorem State.after_cores (s : State) (cost : Nat) (warns : Bool) (npc : Word) (t : State) :
    ∃ cs od, s.after cost warns npc t = { t with cores := cs, overdraw := od } := by
  obtain ⟨_, od, hp⟩ := t.payCore_eq s.cur.core s.cur.ctx cost
  obtain ⟨_, hw⟩ := (t.payCore s.cur.core s.cur.ctx cost).warnIf_cores warns
  obtain ⟨cs, hr⟩ := ((t.payCore s.cur.core s.cur.ctx cost).warnIf warns).retire_cores s.cur.core s.cur.ctx false npc
  refine ⟨cs, od, hr.trans ?_⟩
  rw [hw, hp]

section Stamped
variable {i : Instr} {f : Form} {cost : Nat} {s t : State} {w : May} {body : State → Res} (h : Runs f cost s)
  (hpfx : s.me.statBit bPFX = false)
  (he : exec i s = issueWith f cost (scalarWarn f true || s.me.strayEntry f) (namesEntry f) false noReport body s)
include h he

theorem traps_stamped {code val : Nat} (hb : body s = .fault s code val) : Traps i s code val := fun hl =>
  he.trans (issueWith_fault h hl _ _ _ _ hb)

include hpfx

/-- A stamped instruction that completes, where no FMTP is pending. -/
theorem gives_stamped (hb : body s = .done t) (hc : t.cur = s.cur) (hk : RegsKept w s t)
    (hs : t.me.statBit bSTEP = s.me.statBit bSTEP) (hw : t.me.statBit bWARN = s.me.statBit bWARN)
    (hl : ∀ n, 0x20 ≤ n → n ≤ 0x2E → t.me.srGet n = s.me.srGet n) : Gives i s fun v =>
      (∃ cs od, v = { t with cores := cs, overdraw := od }) ∧ StateAs s.cur.core s.cur.ctx v t ∧ CtxAs v.me t.me ∧
      (∀ n, n < 64 → n ≠ bWARN → n ≠ bPFX → v.me.statBit n = t.me.statBit n) ∧ RegsKept w s v ∧
      Completed (scalarWarn f true) (s.fall f) s v := by
  have has := State.after_as s cost (scalarWarn f true) (s.fall f) t hc
  obtain ⟨_, _, _, _, _, hstat⟩ := State.after_me s cost (scalarWarn f true) (s.fall f) t hc
  refine ⟨s.after cost (scalarWarn f true) (s.fall f) t, ?_, State.after_cores .., has, ?_, hstat,
    State.after_regsKept _ _ _ _ _ _ hc hk, State.after_completed _ _ _ _ _ hc hw hl⟩
  · rw [he, issueWith_done h _ _ _ hb hc hs, Ctx.strayEntry_none hpfx, hpfx]
    simp
  · rw [State.me_eq (has.cur.trans hc), State.me_eq hc]
    exact has.me

end Stamped

/-! The stamp (R198). -/

theorem atStamp_plain {f : Form} {y r : Bool} {g : Nat} (hf : f.hint = .plain y r g) (body : Launch → Nat → Nat → State → Res) (s : State) :
    atStamp f body s = .fault s cXSLOT (xslotVal s 0) := by
  rw [atStamp, hf]

section AtStamp
variable {f : Form} {c : Nat} (hf : f.hint = .stamp c) (body : Launch → Nat → Nat → State → Res) {s : State}
include hf

theorem atStamp_outside (hp : s.myCore.phase = none) : atStamp f body s = .fault s cXSLOT (xslotVal s c) := by
  rw [atStamp, hf]
  dsimp only
  rw [hp]

/-- At its stamp an instruction of the exchange acts. -/
theorem atStamp_now {key who c0 : Nat} {l : Launch} (hp : s.myCore.phase = some (key, who, c0)) (hl : s.launchOf (key / 8) = some l)
    (hc : c < lrXlen l.raw) (hnow : s.clk = c0 + c) : atStamp f body s = body l c c0 s := by
  rw [atStamp, hf]
  dsimp only
  rw [hp]
  dsimp only
  rw [hl]
  dsimp only
  rw [if_neg (by simp [hnow, hc]), if_neg (by omega)]

end AtStamp

/-! XMIT (R199, R308). -/

theorem xmitValue_scalar {f : Form} {x : Ctx} {r : Nat} (h : f.a = .scalar r) : xmitValue f x = .ok ((x.sreg r).toNat, 8) := by
  rw [xmitValue, h]
  rfl

theorem xmitTarget_latch {f : Form} (h : f.d = .none) (n : Nat) (x : Ctx) : xmitTarget f n x = .ok none := by
  rw [xmitTarget, h]
  rfl

theorem xmitTarget_la {f : Form} {b n : Nat} {d : Int} {x : Ctx} (h : f.d = .la b d) (hw : (x.opAddr f.d).toNat < 0x10000)
    (ha : (x.opAddr f.d).toNat % n = 0) : xmitTarget f n x = .ok (some (x.opAddr f.d).toNat) := by
  have hn : f.d.isNone = false := by rw [h]; rfl
  rw [xmitTarget, hn, if_neg (by decide)]
  dsimp only
  rw [if_neg (by omega), if_neg (by simp [ha])]

/-- XMIT's body. -/
def xmitBody (f : Form) (s : State) : Res :=
  match xmitValue f s.me with
  | .error e => .fault s e.1 e.2
  | .ok (v, n) =>
    match xmitTarget f n s.me with
    | .error e => .fault s e.1 e.2
    | .ok off => atStamp f (xmitNow v n off) s

theorem exec_xmit (f : Form) (s : State) :
    exec (.xmit f) s = issueWith f 4 (scalarWarn f true || s.me.strayEntry f) (namesEntry f) false noReport (xmitBody f) s := rfl

theorem xmitBody_of_ok {f : Form} {s : State} {v n : Nat} {off : Option Nat} (hv : xmitValue f s.me = .ok (v, n))
    (ht : xmitTarget f n s.me = .ok off) : xmitBody f s = atStamp f (xmitNow v n off) s := by
  rw [xmitBody, hv]
  dsimp only
  rw [ht]

/-- The state in which a value is on its way to a core (R199). -/
def State.transmitted (s : State) (x : XVal) : State :=
  ({ s.fresh.2 with xvals := s.xvals.put s.nextId x } : State).later (x.cycle - s.clk) (.exchangeArrival s.nextId)

theorem State.transmitted_due {s : State} {x : XVal} (h : s.clk ≤ x.cycle) :
    (x.cycle, Event.exchangeArrival s.nextId) ∈ (s.transmitted x).due := by
  have hm := State.mem_due_later ({ s.fresh.2 with xvals := s.xvals.put s.nextId x } : State) (x.cycle - s.clk) (.exchangeArrival s.nextId)
  rwa [show ({ s.fresh.2 with xvals := s.xvals.put s.nextId x } : State).clk + (x.cycle - s.clk) = x.cycle from
    Nat.add_sub_cancel' h] at hm

section Xmit
variable {f : Form} {s : State} {v n c key who c0 : Nat} {off : Option Nat} {l : Launch} (hp : s.myCore.phase = some (key, who, c0))
include hp

/-- The outbound map names a core of the domain, which the value reaches within the phase (R199). -/
theorem xmitNow_sends
    (hb : bit (s.stallRead s.cur.core (bits l.raw 432 16 + 2 * c) 2) 15 = true)
    (hd : quadOf s.cur.core * 1024 + bits (s.stallRead s.cur.core (bits l.raw 432 16 + 2 * c) 2) 0 10 ∈ s.bellCores key)
    (ht : c + 6 + 2 * hops s.cur.core (quadOf s.cur.core * 1024 + bits (s.stallRead s.cur.core (bits l.raw 432 16 + 2 * c) 2) 0 10) <
      lrXlen l.raw) :
    let dst := quadOf s.cur.core * 1024 + bits (s.stallRead s.cur.core (bits l.raw 432 16 + 2 * c) 2) 0 10
    xmitNow v n off l c c0 s = .done (s.transmitted ⟨s.cur.core, dst, c0 + (c + 6 + 2 * hops s.cur.core dst), off, n, v⟩) := by
  unfold xmitNow
  dsimp only
  rw [hp]
  exact if_neg (by simp [hb, hd, ht])

theorem xmitNow_unmapped
    (hb : bit (s.stallRead s.cur.core (bits l.raw 432 16 + 2 * c) 2) 15 = false ∨
      quadOf s.cur.core * 1024 + bits (s.stallRead s.cur.core (bits l.raw 432 16 + 2 * c) 2) 0 10 ∉ s.bellCores key) :
    xmitNow v n off l c c0 s = .fault s cXSLOT (xslotVal s c) := by
  unfold xmitNow
  dsimp only
  rw [hp]
  refine if_pos ?_
  rcases hb with hb | hb <;> simp [hb]

end Xmit

/-- The exchange of a value: what XMIT leaves (R199, R308). -/
theorem gives_xmit {f : Form} {s : State} {x : XVal} (h : Runs f 4 s) (hpfx : s.me.statBit bPFX = false)
    (hb : xmitBody f s = .done (s.transmitted x)) (hx : s.clk ≤ x.cycle) : Gives (.xmit f) s fun t =>
      t.xvals.get s.nextId ⟨0, 0, 0, none, 0, 0⟩ = x ∧ (x.cycle, Event.exchangeArrival s.nextId) ∈ t.due ∧ RegsKept {} s t ∧
      MemKept s t ∧ Completed (scalarWarn f true) (s.fall f) s t := by
  have hm : MemKept s (s.transmitted x) := .of_eq rfl rfl rfl rfl
  refine (gives_stamped h hpfx (exec_xmit f s) hb rfl (.of_me {} rfl) rfl rfl fun _ _ _ => rfl).imp
    fun t ⟨⟨_, _, heq⟩, has, _, _, hk, hd⟩ => ⟨?_, ?_, hk, hm.trans has.memKept, hd⟩
  · rw [heq]
    exact Assoc.get_put_self ..
  · rw [heq]
    exact State.transmitted_due hx

/-! XSEL (R200, R308). -/

/-- XSEL's body. -/
def xselBody (f : Form) (s : State) : Res :=
  match (if f.d.entry.isSome then (plainEntry s.me (s.me.entryNo f .d)).map fun _ => () else .ok ()) with
  | .error e => .fault s e.1 e.2
  | .ok _ => atStamp f (fun _ c c0 s => xselNow f (c0 + c) s) s

theorem exec_xsel (f : Form) (s : State) :
    exec (.xsel f) s = issueWith f 4 (scalarWarn f true || s.me.strayEntry f) (namesEntry f) false noReport (xselBody f) s := rfl

theorem xselBody_scalar {f : Form} {r : Nat} (hd : f.d = .scalar r) (s : State) :
    xselBody f s = atStamp f (fun _ c c0 s => xselNow f (c0 + c) s) s := by
  rw [xselBody, hd]
  rfl

theorem xselBody_vec {f : Form} {r e : Nat} {u : Ent} {s : State} (hd : f.d = .vec r e) (hpfx : s.me.statBit bPFX = false)
    (hu : plainEntry s.me e = .ok u) : xselBody f s = atStamp f (fun _ c c0 s => xselNow f (c0 + c) s) s := by
  have hentry : (Pos.d.of f).entry = some e := congrArg Operand.entry hd
  have hsome : f.d.entry.isSome = true := by rw [hd]; rfl
  rw [xselBody, if_pos hsome, Ctx.entryNo_own hpfx, hentry, Option.getD_some, hu]
  rfl

/-- What stands in the latch in its cycle goes to the destination. -/
theorem xselNow_scalar {f : Form} {s : State} {r now : Nat} {v : VWord} (hd : f.d = .scalar r) (hl : s.myCore.latch = some (now, v)) :
    xselNow f now s = .done (s.putS r (v.setWidth 64)) := by
  have hw : BitVec.ofNat 64 (v.toNat % 2 ^ 64) = v.setWidth 64 := by
    apply BitVec.eq_of_toNat_eq
    simp
  unfold xselNow
  rw [hl, hd, ← hw]
  dsimp only
  rw [if_pos (by simp)]
  rfl

theorem xselNow_vec {f : Form} {s : State} {r e now : Nat} {v : VWord} (hd : f.d = .vec r e) (hl : s.myCore.latch = some (now, v)) :
    xselNow f now s = .done (s.setMe (s.me.setV r v)) := by
  unfold xselNow
  rw [hl, hd]
  dsimp only
  rw [if_pos (by simp)]
  rfl

theorem xselNow_empty {f : Form} {s : State} {r : Nat} (hd : f.d = .scalar r) (hl : s.myCore.latch = none) (now : Nat) :
    xselNow f now s = .done ((s.modMe (·.setStat bXEMPTY true)).putS r 0) := by
  have hw : BitVec.ofNat 64 ((0 : VWord).toNat % 2 ^ 64) = 0 := by
    rw [show (0 : VWord).toNat = 0 from BitVec.toNat_zero, Nat.zero_mod]
    rfl
  unfold xselNow
  rw [hl, hd, ← hw]
  rfl

theorem Ctx.sreg_setS_iff (x : Ctx) (d r : Nat) (w : Word) : (x.setS d w).sreg r = if r = d ∧ r ≠ 0 then w else x.sreg r := by
  rw [Ctx.sreg_setS]
  by_cases hr : r = d
  · subst hr; rfl
  · simp [hr]

theorem RegsKept.mono {w w' : May} {s t : State} (h : RegsKept w s t) (hr : w.regs ⊆ w'.regs) (hv : w.vecs ⊆ w'.vecs)
    (hm : w.masks ⊆ w'.masks) (ha : w'.acc = false → w.acc = false) (hf : w.fmts ⊆ w'.fmts) (hg : w.slots ⊆ w'.slots)
    (hs : w.srs ⊆ w'.srs) (ht : w.stats ⊆ w'.stats) : RegsKept w' s t where
  scalars r hn := h.scalars r fun e => hn (hr e)
  vectors r hn := h.vectors r fun e => hn (hv e)
  masks r hn := h.masks r fun e => hn (hm e)
  accs hn := h.accs (ha hn)
  fmts r hn := h.fmts r fun e => hn (hf e)
  slots r hn := h.slots r fun e => hn (hg e)
  srs r hn := h.srs r fun e => hn (hs e)
  stat hn i hi hb := h.stat (fun e => hn (hs e)) i hi fun e => hb (by
    simp only [List.mem_cons] at e ⊢
    exact e.imp_right fun e => e.imp_right fun e => ht e)
  signal := h.signal

section Xsel
variable {f : Form} {s : State} (h : Runs f 4 s) (hpfx : s.me.statBit bPFX = false) {c key who c0 : Nat} {l : Launch}
  (hf : f.hint = .stamp c)
include h hf

theorem traps_xsel {r : Nat} (hd : f.d = .scalar r) (hp : s.myCore.phase = none) : Traps (.xsel f) s cXSLOT (xslotVal s c) :=
  traps_stamped h (exec_xsel f s) ((xselBody_scalar hd s).trans (atStamp_outside hf _ hp))

include hpfx
variable (hp : s.myCore.phase = some (key, who, c0)) (hl : s.launchOf (key / 8) = some l) (hc : c < lrXlen l.raw)
  (hnow : s.clk = c0 + c)
include hp hl hc hnow

theorem gives_xsel_scalar {r : Nat} {v : VWord} (hd : f.d = .scalar r) (hv : s.myCore.latch = some (s.clk, v)) : Gives (.xsel f) s fun t =>
    Result f (v.setWidth 64) s t ∧ RegsKept { regs := [r] } s t ∧ MemKept s t ∧ Completed (scalarWarn f true) (s.fall f) s t := by
  have hr : f.d.sreg = r := congrArg Operand.sreg hd
  have hb : xselBody f s = .done (s.putS r (v.setWidth 64)) := by
    rw [xselBody_scalar hd, atStamp_now hf _ hp hl hc hnow, ← hnow, xselNow_scalar hd hv]
  have hput : (s.putS r (v.setWidth 64)).me = s.me.setS r (v.setWidth 64) := State.putS_me_of rfl _ _
  have hsr (n : Nat) : (s.putS r (v.setWidth 64)).me.srGet n = s.me.srGet n := by rw [hput, Ctx.srGet_setS]
  refine (gives_stamped h hpfx (exec_xsel f s) hb rfl (s.putS_kept r _).regs (Ctx.statBit_of_sr (hsr _) _) (Ctx.statBit_of_sr (hsr _) _)
    fun n _ _ => hsr n).imp fun t ⟨_, has, hctx, _, hk, hcd⟩ => ⟨fun q => ?_, hk, (s.putS_kept r _).mem.trans has.memKept, hcd⟩
  rw [hctx.sreg, hput, Ctx.sreg_setS_iff, hr]

theorem gives_xsel_vec {r e : Nat} {u : Ent} {v : VWord} (hd : f.d = .vec r e) (hu : plainEntry s.me e = .ok u)
    (hv : s.myCore.latch = some (s.clk, v)) : Gives (.xsel f) s fun t =>
      t.me.vreg r = v ∧ RegsKept { vecs := [r] } s t ∧ MemKept s t ∧ Completed (scalarWarn f true) (s.fall f) s t := by
  have hb : xselBody f s = .done (s.setMe (s.me.setV r v)) := by
    rw [xselBody_vec hd hpfx hu, atStamp_now hf _ hp hl hc hnow, ← hnow, xselNow_vec hd hv]
  have hme : (s.setMe (s.me.setV r v)).me = s.me.setV r v := s.me_setMe _
  have hsr (n : Nat) : (s.setMe (s.me.setV r v)).me.srGet n = s.me.srGet n := by rw [hme, Ctx.srGet_setV]
  have hk : RegsKept { vecs := [r] } s (s.setMe (s.me.setV r v)) := by
    have hs := RegsKept.refl {} s
    refine ⟨?_, fun q hq => ?_, ?_, ?_, ?_, ?_, ?_, ?_, ?_⟩ <;> rw [hme]
    exacts [hs.scalars, by rw [Ctx.vreg_setV, if_neg (by simpa using hq)], hs.masks, hs.accs, hs.fmts, hs.slots, hs.srs, hs.stat, hs.signal]
  refine (gives_stamped h hpfx (exec_xsel f s) hb rfl hk (Ctx.statBit_of_sr (hsr _) _) (Ctx.statBit_of_sr (hsr _) _)
    fun n _ _ => hsr n).imp fun t ⟨_, has, hctx, _, hk, hcd⟩ => ⟨?_, hk, (s.setMe_memKept _).trans has.memKept, hcd⟩
  rw [hctx.vreg, hme, Ctx.vreg_setV, if_pos rfl]

theorem gives_xsel_empty {r : Nat} (hd : f.d = .scalar r) (hv : s.myCore.latch = none) : Gives (.xsel f) s fun t =>
    Result f 0 s t ∧ t.me.statBit bXEMPTY = true ∧ RegsKept { regs := [r], stats := [bXEMPTY] } s t ∧ MemKept s t ∧
      Completed (scalarWarn f true) (s.fall f) s t := by
  have hr : f.d.sreg = r := congrArg Operand.sreg hd
  let u := s.modMe (·.setStat bXEMPTY true)
  have hb : xselBody f s = .done (u.putS r 0) := by
    rw [xselBody_scalar hd, atStamp_now hf _ hp hl hc hnow, xselNow_empty hd hv]
  have hu : u.me = s.me.setStat bXEMPTY true := s.me_modMe _
  have hso : StatOnly [bXEMPTY] u.me s.me := by rw [hu]; exact .setStat _ _ (by simp)
  have hput : (u.putS r 0).me = u.me.setS r 0 := State.putS_me_of rfl _ _
  have hsr (n : Nat) : (u.putS r 0).me.srGet n = u.me.srGet n := by rw [hput, Ctx.srGet_setS]
  have hk : RegsKept { regs := [r], stats := [bXEMPTY] } s (u.putS r 0) :=
    RegsKept.trans (t := u) (hso.regsKept (by simp)) ((u.putS_kept r 0).regs.mono (by simp) (by simp) (by simp) (by simp) (by simp)
      (by simp) (by simp) (by simp))
  have hm : MemKept s (u.putS r 0) := (s.setMe_memKept _).trans (u.putS_kept r 0).mem
  refine (gives_stamped h hpfx (exec_xsel f s) hb rfl hk ((Ctx.statBit_of_sr (hsr _) _).trans (hso.stat _ (by decide) (by decide)))
    ((Ctx.statBit_of_sr (hsr _) _).trans (hso.stat _ (by decide) (by decide))) fun n h1 h2 => (hsr n).trans (hso.loops n h1 h2)).imp
    fun t ⟨_, has, hctx, hstat, hk, hcd⟩ => ⟨fun q => ?_, ?_, hk, hm.trans has.memKept, hcd⟩
  · rw [hctx.sreg, hput, Ctx.sreg_setS_iff, hr, hso.as.sreg]
  · rw [hstat _ (by decide) (by decide) (by decide), Ctx.statBit_of_sr (hsr _), hu, Ctx.statBit_setStat _ _ _ _ (by decide), if_pos rfl]

end Xsel

/-! An arrival (R200). -/

/-- The state in which a lone value has arrived at its core and is paid for there (R200). -/
def State.arrived (s : State) (x : XVal) : State :=
  ({ s with xvals := [] } : State).payCore x.dst (match (s.core x.dst).phase with
    | some (_, c, _) => c
    | none => 0) costLa

theorem State.arrived_eq (s : State) (x : XVal) : ∃ cs od, s.arrived x = { s with xvals := [], cores := cs, overdraw := od } :=
  State.payCore_eq ..

theorem State.arrived_memKept (s : State) (x : XVal) : MemKept s (s.arrived x) := by
  obtain ⟨_, _, h⟩ := s.arrived_eq x
  rw [h]
  exact .of_eq rfl rfl rfl rfl

theorem State.arrived_sreg (s : State) (x : XVal) (n c r : Nat) : ((s.arrived x).ctx n c).sreg r = (s.ctx n c).sreg r :=
  ((State.payCore_frame _ _ _ _).ctx n c).sreg r

theorem Stored.xvals {s t : State} (h : Stored t s) : t.xvals = s.xvals := by
  obtain ⟨⟨_, _, _, _, _, _, rfl⟩, _⟩ := h
  rfl

section Arrival
variable {s : State} {id : Nat} {x : XVal} (hx : s.xvals = [(id, x)])
include hx

theorem State.exchangeArrival_stores {o : Nat} (ho : x.off = some o) :
    s.exchangeArrival id = (s.arrived x).stallWrite x.dst o x.size x.data := by
  unfold State.exchangeArrival State.arrived
  rw [hx]
  simp [ho]
  rfl

theorem State.exchangeArrival_latches (ho : x.off = none) : s.exchangeArrival id =
    (s.arrived x).modCore x.dst fun k => { k with latch := some (x.cycle, BitVec.ofNat 512 x.data) } := by
  unfold State.exchangeArrival State.arrived
  rw [hx]
  simp [ho]
  rfl

theorem happens_arrival_stores {o : Nat} (ho : x.off = some o) : Happens (.exchangeArrival id) s fun t =>
    t.stallRead x.dst o x.size = x.data % 2 ^ (8 * x.size) ∧ StallStore x.dst o x.size s t ∧ t.xvals = [] ∧
      ∀ n c r, (t.ctx n c).sreg r = (s.ctx n c).sreg r := by
  let u := (s.onEvent (.exchangeArrival id)).arrived x
  have hst := u.stallWrite_stored x.dst o x.size x.data
  have hm : MemKept s u := .trans (t := s.onEvent (.exchangeArrival id)) (.of_eq rfl rfl rfl rfl) (State.arrived_memKept _ x)
  refine happens_next (t := u.stallWrite x.dst o x.size x.data) (congrArg Host.Outcome.next (State.exchangeArrival_stores (s := s.onEvent (.exchangeArrival id)) hx ho)) ⟨?_,
    .of_memKept hm (u.stallWrite_stallStore _ _ _ _), ?_, fun n c r => ?_⟩
  · rw [State.stallRead_stallWrite, Nat.pow_mul]
  · obtain ⟨_, _, hu⟩ := (s.onEvent (.exchangeArrival id)).arrived_eq x
    rw [hst.xvals]
    exact congrArg State.xvals hu
  · exact (hst.sreg n c r).trans (State.arrived_sreg (s.onEvent (.exchangeArrival id)) x n c r)

theorem happens_arrival_latches (ho : x.off = none) : Happens (.exchangeArrival id) s fun t =>
    (t.core x.dst).latch = some (x.cycle, BitVec.ofNat 512 x.data) ∧ MemKept s t ∧ t.xvals = [] ∧
      ∀ n c r, (t.ctx n c).sreg r = (s.ctx n c).sreg r := by
  let u := (s.onEvent (.exchangeArrival id)).arrived x
  let g : Core → Core := fun k => { k with latch := some (x.cycle, BitVec.ofNat 512 x.data) }
  have hm : MemKept s u := .trans (t := s.onEvent (.exchangeArrival id)) (.of_eq rfl rfl rfl rfl) (State.arrived_memKept _ x)
  refine happens_next (t := u.modCore x.dst g) (congrArg Host.Outcome.next 
    (State.exchangeArrival_latches (s := s.onEvent (.exchangeArrival id)) hx ho)) ⟨?_,
    hm.trans (.of_eq rfl rfl rfl rfl), ?_, fun n c r => ?_⟩
  · rw [State.core_modCore, if_pos rfl]
  · obtain ⟨_, _, hu⟩ := (s.onEvent (.exchangeArrival id)).arrived_eq x
    exact congrArg State.xvals hu
  · rw [u.ctx_modCore_of_ctxs g fun _ => rfl]
    exact State.arrived_sreg (s.onEvent (.exchangeArrival id)) x n c r

end Arrival

/-- Settles O23: the stamp decides whether XMIT and XSEL act, the outbound map where a value goes, and an arrival ends in the stall
or in the latch. -/
theorem exchangeTransfers : Obligations.ExchangeTransfers := by
  unfold Obligations.ExchangeTransfers
  refine ⟨fun f s h hpfx => ⟨fun v n off hv ht => ⟨fun y r g hf => ?_, fun c hf hp => ?_, fun c key who c0 l hf hp hl hc hnow => ?_⟩,
    fun r => xmitValue_scalar, fun w hd => xmitTarget_latch hd w _, fun b x w hd hw ha => xmitTarget_la hd hw ha,
    fun c key who c0 l hf hp hl hc hnow => ⟨fun v hv => ⟨fun r hd => gives_xsel_scalar h hpfx hf hp hl hc hnow hd hv,
      fun r e u hd hu => gives_xsel_vec h hpfx hf hp hl hc hnow hd hu hv⟩,
      fun hv r hd => gives_xsel_empty h hpfx hf hp hl hc hnow hd hv⟩,
    fun c r hf hd hp => traps_xsel h hf hd hp⟩,
    fun s id x hx => ⟨fun o ho => happens_arrival_stores hx ho, happens_arrival_latches hx⟩⟩
  · exact traps_stamped h (exec_xmit f s) ((xmitBody_of_ok hv ht).trans (atStamp_plain hf _ _))
  · exact traps_stamped h (exec_xmit f s) ((xmitBody_of_ok hv ht).trans (atStamp_outside hf _ hp))
  · have hbody : xmitBody f s = xmitNow v n off l c c0 s := (xmitBody_of_ok hv ht).trans (atStamp_now hf _ hp hl hc hnow)
    refine ⟨fun hb hd hat => gives_xmit h hpfx (hbody.trans (xmitNow_sends hp hb hd hat)) ?_, fun hb =>
      traps_stamped h (exec_xmit f s) (hbody.trans (xmitNow_unmapped hp hb))⟩
    rw [hnow]
    show c0 + c ≤ c0 + (c + 6 + _)
    omega

end Sys2Proof.Machine
end

section
/-! SUPPORT. Bells and exchange phases (R196, R197, R309, R440): O22. -/
namespace Sys2Proof.Machine

/-! Changes of every context of a core. -/

/-- A change of each of a core's first `n` contexts in turn. -/
theorem Core.ctx_foldl_range {f : Core → Nat → Core} {g : Nat → Ctx → Ctx}
    (h : ∀ k d e, (f k d).ctx e = if e = d then g d (k.ctx d) else k.ctx e) (n : Nat) (k : Core) (e : Nat) :
    ((List.range n).foldl f k).ctx e = if e < n then g e (k.ctx e) else k.ctx e := by
  induction n with
  | zero => rfl
  | succ n ih =>
    rw [List.range_succ, List.foldl_append, List.foldl_cons, List.foldl_nil, h]
    by_cases he : e = n
    · subst he
      rw [if_pos rfl, if_pos (Nat.lt_succ_self _), ih, if_neg (Nat.lt_irrefl _)]
    · rw [if_neg he, ih]
      simp only [Nat.lt_succ_iff, Nat.lt_iff_le_and_ne, he, ne_eq, not_false_eq_true, and_true]

theorem Core.ctx_setCtx_iff (k : Core) (c d : Nat) (x : Ctx) : (k.setCtx c x).ctx d = if d = c then x else k.ctx d := by
  by_cases h : d = c
  · subst h; simp
  · simp [h, Ne.symm h]

/-! Leaving a bell (R143, R196). -/

/-- What a context that has left a bell, and its departure, are of the state before (R143, R196, R309). -/
structure LeftBell (n c d st len : Nat) (t s : State) : Prop where
  eq : ∃ cs l, t = { s with cores := cs, c2 := l }
  core : ∃ cs ls lc, t.core n = { s.core n with ctxs := cs, c1 := ls, lastCtx := lc }
  others : ∀ m e, ¬(m = n ∧ e = c) → t.ctx m e = s.ctx m e
  sreg : d ≠ 0 → (t.ctx n c).sreg d = BitVec.ofNat 64 st
  block : (t.ctx n c).block = none
  pc : (t.ctx n c).pc = ((s.ctx n c).loopEnd ((s.ctx n c).pc + BitVec.ofNat 64 len) 5).pc
  mem : MemKept s t

/-- The completion of a held instruction whose effect has given `u`, where no step is asked for. -/
theorem State.completed_of_noStep {u : State} {n c : Nat} (hs : (u.ctx n c).statBit bSTEP = false) (npc : Word) :
    ((u.warnHeld n c).retire n c false npc).stepTrap n c (0, 0, 0) = (u.warnHeld n c).retire n c false npc := by
  refine State.stepTrap_off _ _ _ _ ?_
  obtain ⟨-, -, hstat, -⟩ := (u.warnHeld n c).retire_ctx n c npc
  rw [hstat _ (by decide), if_neg (by decide), State.ctx_warnHeld]
  split
  · rw [Ctx.statBit_setStat _ _ _ _ (by decide), if_neg (by decide), hs]
  · exact hs

/-- Where a held instruction of a context completes (R290). -/
theorem State.completed_ctx (u : State) (n c : Nat) (npc : Word) :
    let y := ((u.warnHeld n c).retire n c false npc).ctx n c
    CtxAs y (u.ctx n c) ∧ y.block = none ∧ y.pc = ((u.ctx n c).loopEnd npc 5).pc := by
  obtain ⟨hblock, hpc, -, -⟩ := (u.warnHeld n c).retire_ctx n c npc
  refine ⟨((State.retire_as _ _ _ _ _).me).trans (u.warnHeld_as n c).me, hblock, hpc.trans (Ctx.loopEnd_congr _ _ _ _ fun k h1 h2 => ?_).1⟩
  rw [State.ctx_warnHeld]
  split
  · exact Ctx.srGet_setStat _ _ _ _ (by unfold rSTAT; omega)
  · rfl

theorem State.retire_core (s : State) (n c : Nat) (isFmtp : Bool) (npc : Word) :
    ∃ cs lc, (s.retire n c isFmtp npc).core n = { s.core n with ctxs := cs, lastCtx := lc } := by
  unfold State.retire
  dsimp only
  rw [State.core_modCore, if_pos rfl]
  generalize hk : (State.modCtx _ _ _ _).core n = k
  obtain ⟨cs, rfl⟩ : ∃ cs, k = { s.core n with ctxs := cs } := by
    rw [← hk]
    exact s.core_setCtx_eq ..
  exact ⟨cs, _, rfl⟩

theorem State.completed_core (u : State) (n c : Nat) (npc : Word) :
    ∃ cs lc, ((u.warnHeld n c).retire n c false npc).core n = { u.core n with ctxs := cs, lastCtx := lc } := by
  obtain ⟨_, hw⟩ := u.core_setCtx_eq n c n (if (u.ctx n c).warnHeld then (u.ctx n c).setStat bWARN true else u.ctx n c)
  obtain ⟨cs, lc, hr⟩ := (u.warnHeld n c).retire_core n c false npc
  refine ⟨cs, lc, hr.trans ?_⟩
  rw [show (u.warnHeld n c).core n = _ from hw]

section Leave
variable {s : State} {core c key d len since ph : Nat} (st : Nat) (hb : (s.ctx core c).block = some ⟨.bell key d len, since, ph⟩)
  (hs : (s.ctx core c).statBit bSTEP = false)
include hb hs

theorem State.leaveBell_left : LeftBell core c d st len (s.leaveBell core c st) s := by
  let x := s.ctx core c
  let npc := x.pc + BitVec.ofNat 64 len
  let u := (s.setCtx core c (x.setS d (BitVec.ofNat 64 st))).acquireFor core c
  obtain ⟨_, _, hu⟩ := (s.setCtx core c (x.setS d (BitVec.ofNat 64 st))).acquireFor_eq core c
  have hfirst := (s.setCtx core c (x.setS d (BitVec.ofNat 64 st))).acquireFor_firstLevel core c
  have hux : u.ctx core c = x.setS d (BitVec.ofNat 64 st) := (State.acquireFor_ctx ..).trans (State.ctx_setCtx_self ..)
  have hstep : (u.ctx core c).statBit bSTEP = false := by
    rw [hux]
    exact (Ctx.statBit_of_sr (Ctx.srGet_setS ..) _).trans hs
  obtain ⟨hctx, hblock, hpc⟩ := u.completed_ctx core c npc
  have has : StateAs core c ((u.warnHeld core c).retire core c false npc) u := (State.retire_as _ _ _ _ _).trans (u.warnHeld_as core c)
  have heq : s.leaveBell core c st = (u.warnHeld core c).retire core c false npc := by
    unfold State.leaveBell
    dsimp only
    rw [hb]
    exact State.completed_of_noStep hstep npc
  have hset : MemKept s (s.setCtx core c (x.setS d (BitVec.ofNat 64 st))) := .of_eq rfl rfl rfl rfl
  rw [heq]
  refine ⟨?_, ?_, fun n e he => ?_, fun hd => ?_, hblock, hpc.trans ?_, (hset.trans hfirst.mem).trans has.memKept⟩
  · have hdone (v : State) : ∃ cs, (v.warnHeld core c).retire core c false npc = { v with cores := cs } := ⟨_, rfl⟩
    obtain ⟨cs, hdone⟩ := hdone u
    exact ⟨cs, _, by rw [hdone, show u = _ from hu]; rfl⟩
  · obtain ⟨_, hset⟩ := s.core_setCtx_eq core c core (x.setS d (BitVec.ofNat 64 st))
    obtain ⟨ls, hls⟩ := hfirst.core core
    obtain ⟨cs, lc, hdone⟩ := u.completed_core core c npc
    exact ⟨cs, ls, lc, by rw [hdone, hls, hset]⟩
  · rw [has.others n e he]
    exact (State.acquireFor_ctx ..).trans (by rw [State.ctx_setCtx, if_neg he])
  · rw [hctx.sreg, hux, Ctx.sreg_setS, if_pos ⟨rfl, hd⟩]
  · rw [hux]
    exact (Ctx.loopEnd_congr _ _ _ _ fun k _ _ => Ctx.srGet_setS ..).1

end Leave

/-! The release of a bell (R197, R440). -/

/-- A context of a core whose exchange phase starts for another (R195, R197). -/
def Ctx.heldOff (x : Ctx) : Ctx :=
  if !x.idle && (x.st == .ready || x.st == .wait || x.st == .sleep) then { x with st := .xhold } else x

theorem Ctx.heldOff_st {x : Ctx} (hi : x.idle = false) (hs : x.st ∈ [CtxSt.ready, .wait, .sleep]) : x.heldOff.st = .xhold := by
  unfold Ctx.heldOff
  rw [if_pos (by simpa [hi, or_assoc] using hs)]

theorem Core.holdOthers_ctx (k : Core) (c e : Nat) :
    (k.holdOthers c).ctx e = if e < numCtxs ∧ e ≠ c then (k.ctx e).heldOff else k.ctx e := by
  have hone : ∀ (k : Core) (d e : Nat), (if d != c && !(k.ctx d).idle && ((k.ctx d).st == .ready || (k.ctx d).st == .wait ||
      (k.ctx d).st == .sleep) then k.setCtx d { k.ctx d with st := .xhold } else k).ctx e =
      if e = d then (if d ≠ c then (k.ctx d).heldOff else k.ctx d) else k.ctx e := by
    intro k d e
    unfold Ctx.heldOff
    by_cases hd : d = c
    · rw [if_neg (by simp [hd])]
      by_cases he : e = d
      · rw [if_pos he, if_neg (by simp [hd]), he]
      · rw [if_neg he]
    · rw [if_pos hd]
      by_cases hx : (!(k.ctx d).idle && ((k.ctx d).st == .ready || (k.ctx d).st == .wait || (k.ctx d).st == .sleep)) = true
      · rw [if_pos (by rw [Bool.and_assoc, hx]; simpa using hd), if_pos hx, Core.ctx_setCtx_iff]
      · rw [if_neg (by rw [Bool.and_assoc]; simp [hx]), if_neg hx]
        split
        next h => rw [h]
        next => rfl
  have hfold := Core.ctx_foldl_range (g := fun d x => if d ≠ c then x.heldOff else x) hone numCtxs k e
  refine Eq.trans hfold ?_
  by_cases he : e < numCtxs
  · simp [he]
  · simp [he]

theorem Core.holdOthers_eq (k : Core) (c : Nat) : ∃ cs, k.holdOthers c = { k with ctxs := cs } := by
  refine List.foldlRecOn (motive := fun j : Core => ∃ cs, j = { k with ctxs := cs }) _ _ ⟨_, rfl⟩ fun j ⟨_, hj⟩ d _ => ?_
  dsimp only
  split
  · exact ⟨_, by rw [hj]; rfl⟩
  · exact ⟨_, hj⟩

/-- A core whose exchange phase starts for a context (R197, R440). -/
def Core.phaseStarts (k : Core) (key c clk : Nat) : Core :=
  { (k.holdOthers c) with phase := some (key, c, clk), latch := none, hold := k.reserve * 1024, purse := k.purse - (k.reserve * 1024 : Nat) }

section Release
variable {s : State} {key core c d len since : Nat} (harr : (s.bell key).arrived = [(core, c)])
  (hb : (s.ctx core c).block = some ⟨.bell key d len, since, 1⟩) (hs : (s.ctx core c).statBit bSTEP = false)

/-- The state in which a bell is left. -/
def State.bellOver (s : State) (key : Nat) (b : Bell) : State := { s with bells := s.bells.put key b }

include harr

theorem State.bellRelease_alone (hrel : (s.bell key).rel = some s.clk) : ∃ n, s.bellRelease key =
    ((((s.bellOver key ⟨[], none, none, some s.clk⟩).leaveBell core c stOK).modCore core (·.phaseStarts key c
      ((s.bellOver key ⟨[], none, none, some s.clk⟩).leaveBell core c stOK).clk)).later n (.exchangePhaseEnd key)) := by
  unfold State.bellRelease
  dsimp only
  rw [hrel, if_neg (by simp), harr]
  exact ⟨_, rfl⟩

theorem State.bellTimeout_alone {since0 : Nat} {l : Launch} (hsince : (s.bell key).since = some since0)
    (hl : s.launchOf (key / 8) = some l) (hd : since0 + bits l.raw 384 32 ≤ s.clk) :
    s.bellTimeout key = (s.bellOver key Bell.empty).leaveBell core c stTIMEOUT := by
  unfold State.bellTimeout
  dsimp only
  rw [hsince, hl]
  dsimp only
  rw [if_pos hd, harr]
  rfl

include hb hs

theorem happens_bellRelease (hrel : (s.bell key).rel = some s.clk) : Happens (.bellRelease key) s fun t =>
    (t.core core).phase = some (key, c, s.clk) ∧ (t.core core).hold = (s.core core).reserve * 1024 ∧
    (t.core core).purse = (s.core core).purse - ((s.core core).reserve * 1024 : Nat) ∧
    (d ≠ 0 → (t.ctx core c).sreg d = BitVec.ofNat 64 stOK) ∧ (t.ctx core c).block = none ∧
    (t.ctx core c).pc = ((s.ctx core c).loopEnd ((s.ctx core c).pc + BitVec.ofNat 64 len) 5).pc ∧
    (∀ e, e < numCtxs → e ≠ c → (s.ctx core e).idle = false → (s.ctx core e).st ∈ [CtxSt.ready, .wait, .sleep] →
      (t.ctx core e).st = .xhold) ∧
    (∀ n e, n ≠ core → t.ctx n e = s.ctx n e) ∧ MemKept s t := by
  let v := (s.onEvent (.bellRelease key)).bellOver key ⟨[], none, none, some s.clk⟩
  have hleft : LeftBell core c d stOK len (v.leaveBell core c stOK) v := State.leaveBell_left (s := v) stOK hb hs
  obtain ⟨n, ht⟩ := State.bellRelease_alone (s := s.onEvent (.bellRelease key)) harr hrel
  obtain ⟨⟨_, _, heq⟩, ⟨_, _, _, hk⟩, ho, hd, hblock, hpc, hm⟩ := hleft
  generalize hu : v.leaveBell core c stOK = u at *
  let w := u.modCore core (·.phaseStarts key c u.clk)
  have hclk : u.clk = s.clk := by
    rw [heq]
    rfl
  have hcore : w.core core = (u.core core).phaseStarts key c s.clk := by rw [State.core_modCore, if_pos rfl, hclk]
  have hctx (e : Nat) : w.ctx core e = if e < numCtxs ∧ e ≠ c then (u.ctx core e).heldOff else u.ctx core e := by
    rw [State.ctx_modCore, if_pos rfl]
    exact Core.holdOthers_ctx ..
  have hme : w.ctx core c = u.ctx core c := by rw [hctx, if_neg (by simp)]
  have hmem : MemKept u (w.later n (.exchangePhaseEnd key)) := .of_eq rfl rfl rfl rfl
  have hv : MemKept s v := .of_eq rfl rfl rfl rfl
  refine happens_next (t := w.later n (.exchangePhaseEnd key)) ?_ ⟨?_, ?_, ?_, fun hne => ?_, ?_, ?_, fun e he hec hi hst => ?_,
    fun m e hm => ?_, (hv.trans hm).trans hmem⟩
  · subst hu
    exact congrArg Host.Outcome.next ht
  · show (w.core core).phase = _
    rw [hcore]
    rfl
  · show (w.core core).hold = _
    rw [hcore]
    show (u.core core).reserve * 1024 = _
    rw [hk]
    rfl
  · show (w.core core).purse = _
    rw [hcore]
    show (u.core core).purse - ((u.core core).reserve * 1024 : Nat) = _
    rw [hk]
    rfl
  · show (w.ctx core c).sreg d = _
    rw [hme, hd hne]
  · show (w.ctx core c).block = none
    rw [hme, hblock]
  · show (w.ctx core c).pc = _
    rw [hme, hpc]
    rfl
  · show (w.ctx core e).st = _
    rw [hctx, if_pos ⟨he, hec⟩, ho core e (by simp [hec])]
    exact Ctx.heldOff_st hi hst
  · show w.ctx m e = _
    rw [State.ctx_modCore, if_neg hm, ho m e (by simp [hm])]
    rfl

theorem happens_bellTimeout {since0 : Nat} {l : Launch} (hsince : (s.bell key).since = some since0)
    (hl : s.launchOf (key / 8) = some l) (hdue : since0 + bits l.raw 384 32 ≤ s.clk) : Happens (.bellTimeout key) s fun t =>
    (t.bell key).arrived = [] ∧ (d ≠ 0 → (t.ctx core c).sreg d = BitVec.ofNat 64 stTIMEOUT) ∧ (t.ctx core c).block = none ∧
    (t.ctx core c).pc = ((s.ctx core c).loopEnd ((s.ctx core c).pc + BitVec.ofNat 64 len) 5).pc ∧
    (∀ n e, ¬(n = core ∧ e = c) → t.ctx n e = s.ctx n e) ∧ MemKept s t := by
  let v := (s.onEvent (.bellTimeout key)).bellOver key Bell.empty
  have hleft : LeftBell core c d stTIMEOUT len (v.leaveBell core c stTIMEOUT) v := State.leaveBell_left (s := v) stTIMEOUT hb hs
  have ht := State.bellTimeout_alone (s := s.onEvent (.bellTimeout key)) harr hsince hl hdue
  obtain ⟨⟨_, _, heq⟩, -, ho, hd, hblock, hpc, hm⟩ := hleft
  have hv : MemKept s v := .of_eq rfl rfl rfl rfl
  refine happens_next (t := v.leaveBell core c stTIMEOUT) (congrArg Host.Outcome.next ht) ⟨?_, hd, hblock, hpc, ho, hv.trans hm⟩
  rw [heq]
  exact congrArg Bell.arrived (Assoc.get_put_self s.bells key Bell.empty Bell.empty)

end Release

/-! The end of an exchange phase (R197, R440). -/

/-- A bell looked at again changes no more than the bells and the events due (R196). -/
theorem State.bellCheck_eq (s : State) (key : Nat) : ∃ bs du, s.bellCheck key = { s with bells := bs, due := du } := by
  unfold State.bellCheck
  dsimp only
  split
  · exact ⟨_, _, rfl⟩
  · split
    · exact ⟨_, _, rfl⟩
    · exact ⟨_, _, rfl⟩

theorem State.checkBells_eq (s : State) (core : Nat) : ∃ bs du, s.checkBells core = { s with bells := bs, due := du } := by
  refine List.foldlRecOn (motive := fun t : State => ∃ bs du, t = { s with bells := bs, due := du }) _ _ ⟨_, _, rfl⟩
    fun t ⟨_, _, ht⟩ e _ => ?_
  obtain ⟨bs, du, hb⟩ := t.bellCheck_eq e.1
  exact ⟨bs, du, by rw [hb, ht]⟩

/-- A context whose core's exchange phase ends (R197). -/
def Ctx.letGo (x : Ctx) : Ctx :=
  if x.st == .xhold then { x with st := .ready } else if x.st == .stopped && x.back == .xhold then { x with back := .ready } else x

theorem Ctx.letGo_st (x : Ctx) : x.letGo.st = if x.st = .xhold then .ready else x.st := by
  unfold Ctx.letGo
  by_cases h : x.st = .xhold
  · simp [h]
  · rw [if_neg (by simpa using h), if_neg h]
    split <;> rfl

theorem Ctx.letGo_back {x : Ctx} (h : x.st = .stopped) (hb : x.back = .xhold) : x.letGo.back = .ready := by
  unfold Ctx.letGo
  simp [h, hb]

/-- A core whose exchange phase is over (R197, R440). -/
def Core.phaseOver (k : Core) : Core :=
  (List.range numCtxs).foldl (fun k d =>
    let x := k.ctx d
    if x.st == .xhold then k.setCtx d { x with st := .ready }
    else if x.st == .stopped && x.back == .xhold then k.setCtx d { x with back := .ready } else k)
    { k with phase := none, latch := none, purse := k.purse + k.hold, hold := 0 }

theorem Core.phaseOver_eq (k : Core) :
    ∃ cs, k.phaseOver = { k with ctxs := cs, phase := none, latch := none, purse := k.purse + k.hold, hold := 0 } := by
  refine List.foldlRecOn (motive := fun j : Core => ∃ cs, j = { k with
    ctxs := cs, phase := none, latch := none, purse := k.purse + k.hold, hold := 0 }) _ _ ⟨_, rfl⟩ fun j ⟨_, hj⟩ d _ => ?_
  dsimp only
  split
  · exact ⟨_, by rw [hj]; rfl⟩
  · split
    · exact ⟨_, by rw [hj]; rfl⟩
    · exact ⟨_, hj⟩

theorem Core.phaseOver_ctx (k : Core) {c : Nat} (hc : c < numCtxs) : k.phaseOver.ctx c = (k.ctx c).letGo := by
  refine (Core.ctx_foldl_range (g := fun _ x => x.letGo) (fun k d e => ?_) numCtxs _ c).trans (if_pos hc)
  dsimp only
  unfold Ctx.letGo
  split
  · exact Core.ctx_setCtx_iff ..
  · split
    · exact Core.ctx_setCtx_iff ..
    · split
      next h => rw [h]
      next => rfl

section PhaseEnd
variable {s : State} {key core arrived start : Nat} (hk : s.bellCores key = [core])
  (hp : (s.core core).phase = some (key, arrived, start))
include hk hp

theorem State.phaseEnd_alone :
    s.phaseEnd key = ((s.bellOver key { s.bell key with phase := none }).modCore core (·.phaseOver)).checkBells core := by
  have hcores : (s.bellOver key { s.bell key with phase := none }).bellCores key = [core] := hk
  unfold State.phaseEnd
  dsimp only
  rw [show ({ s with bells := s.bells.put key { s.bell key with phase := none } } : State) =
    s.bellOver key { s.bell key with phase := none } from rfl, hcores, List.foldl_cons, List.foldl_nil]
  rw [show ((s.bellOver key { s.bell key with phase := none }).core core).phase = _ from hp]
  dsimp only
  rw [if_neg (by simp)]
  rfl

theorem happens_phaseEnd : Happens (.exchangePhaseEnd key) s fun t =>
    (t.core core).phase = none ∧ (t.core core).latch = none ∧ (t.core core).hold = 0 ∧
    (t.core core).purse = (s.core core).purse + (s.core core).hold ∧
    (∀ c, c < numCtxs → (t.ctx core c).st = (if (s.ctx core c).st = .xhold then .ready else (s.ctx core c).st) ∧
      ((s.ctx core c).st = .stopped → (s.ctx core c).back = .xhold → (t.ctx core c).back = .ready)) ∧
    (∀ n c, n ≠ core → t.ctx n c = s.ctx n c) ∧ MemKept s t := by
  let u := (s.onEvent (.exchangePhaseEnd key)).bellOver key { s.bell key with phase := none }
  let v := u.modCore core (·.phaseOver)
  have ht : (s.onEvent (.exchangePhaseEnd key)).phaseEnd key = v.checkBells core :=
    State.phaseEnd_alone (s := s.onEvent (.exchangePhaseEnd key)) hk hp
  obtain ⟨_, _, hv⟩ := v.checkBells_eq core
  have hcore (n : Nat) : (v.checkBells core).core n = v.core n := by rw [hv]; rfl
  have hctx (n c : Nat) : (v.checkBells core).ctx n c = v.ctx n c := by rw [hv]; rfl
  have hover : v.core core = (s.core core).phaseOver := by
    rw [State.core_modCore, if_pos rfl]
    rfl
  obtain ⟨_, heq⟩ := (s.core core).phaseOver_eq
  have hmine {c : Nat} (hc : c < numCtxs) : v.ctx core c = (s.ctx core c).letGo := by
    rw [State.ctx_modCore, if_pos rfl]
    exact Core.phaseOver_ctx _ hc
  refine happens_next (t := v.checkBells core) (congrArg Host.Outcome.next ht) ⟨?_, ?_, ?_, ?_, fun c hc => ⟨?_, fun hst hback => ?_⟩,
    fun n c hn => ?_, ?_⟩
  · rw [hcore, hover, heq]
  · rw [hcore, hover, heq]
  · rw [hcore, hover, heq]
  · rw [hcore, hover, heq]
  · rw [hctx, hmine hc, Ctx.letGo_st]
  · rw [hctx, hmine hc, Ctx.letGo_back hst hback]
  · rw [hctx, State.ctx_modCore, if_neg hn]
    rfl
  · rw [hv]
    exact .of_eq rfl rfl rfl rfl

end PhaseEnd

/-! BELL (R309). -/

/-- The bell that BELL has named, its core being in the mask. -/
def bellNamed (f : Form) (key : Nat) (s : State) : Res :=
  if (s.bell key).arrived.any fun a => a.1 == s.cur.core && a.2 != s.cur.ctx then
    .done (s.putS f.d.sreg (BitVec.ofNat 64 stBUSY))
  else asRelease (fun s =>
    .hold (if (s.bell key).arrived.contains (s.cur.core, s.cur.ctx) then s else s.bellArrive key) (.bell key f.d.sreg (formLen f)) 1) s

/-- BELL's body. -/
def bellBody (f : Form) (s : State) : Res :=
  if 7 < f.a.immU then illegal s f 1
  else match s.bellOf s.cur.core f.a.immU with
    | none => .done (s.putS f.d.sreg (BitVec.ofNat 64 stNOTMEMBER))
    | some key => bellNamed f key s

theorem exec_bell (f : Form) (s : State) : exec (.bell f) s = issueCost f 4 (bellBody f) s := rfl

theorem State.bellCheck_bell (s : State) (key : Nat) : ((s.bellCheck key).bell key).arrived = (s.bell key).arrived ∧
    (((s.bellCheck key).bell key).rel = (s.bell key).rel ∨ ((s.bellCheck key).bell key).rel = some (s.clk + 20)) := by
  unfold State.bellCheck
  dsimp only
  split
  · exact ⟨rfl, .inl rfl⟩
  · split
    · have hb : (State.later { s with bells := s.bells.put key { s.bell key with rel := some (s.clk + 20) } } 20
          (.bellRelease key)).bell key = { s.bell key with rel := some (s.clk + 20) } := Assoc.get_put_self ..
      rw [hb]
      exact ⟨rfl, .inr rfl⟩
    · exact ⟨rfl, .inl rfl⟩

/-- A bell with one more arrival (R196). -/
def Bell.joined (b : Bell) (s : State) : Bell :=
  { b with arrived := b.arrived ++ [(s.cur.core, s.cur.ctx)], since := b.since.or (some s.clk) }

/-- The bound of a bell's launch; 0 is none (R196). -/
def State.bellBound (s : State) (key : Nat) : Nat :=
  match s.launchOf (key / 8) with
  | some l => bits l.raw 384 32
  | none => 0

/-- The state in which an arrival stands at its bell, before the bell is looked at (R196). -/
def State.arrivalNoted (s : State) (key : Nat) : State :=
  if (s.bell key).since.isNone && s.bellBound key != 0 then
    (s.bellOver key ((s.bell key).joined s)).later (s.bellBound key) (.bellTimeout key)
  else s.bellOver key ((s.bell key).joined s)

theorem State.bellArrive_noted (s : State) (key : Nat) : s.bellArrive key = (s.arrivalNoted key).bellCheck key := rfl

theorem State.arrivalNoted_eq (s : State) (key : Nat) :
    ∃ du, s.arrivalNoted key = { s with bells := s.bells.put key ((s.bell key).joined s), due := du } := by
  unfold State.arrivalNoted
  split
  · exact ⟨_, rfl⟩
  · exact ⟨_, rfl⟩

/-- An arrival changes no more than the bells and the events due (R196). -/
theorem State.bellArrive_eq (s : State) (key : Nat) : ∃ bs du, s.bellArrive key = { s with bells := bs, due := du } := by
  obtain ⟨_, hn⟩ := s.arrivalNoted_eq key
  obtain ⟨bs, du, hc⟩ := (s.arrivalNoted key).bellCheck_eq key
  exact ⟨bs, du, by rw [State.bellArrive_noted, hc, hn]⟩

/-- A context that arrives stands at its bell, and a release that it makes ready is due 20 cycles on (R196). -/
theorem State.bellArrive_bell (s : State) (key : Nat) :
    ((s.bellArrive key).bell key).arrived = (s.bell key).arrived ++ [(s.cur.core, s.cur.ctx)] ∧
    (((s.bellArrive key).bell key).rel = (s.bell key).rel ∨ ((s.bellArrive key).bell key).rel = some (s.clk + 20)) := by
  obtain ⟨_, hn⟩ := s.arrivalNoted_eq key
  have hbell : (s.arrivalNoted key).bell key = (s.bell key).joined s := by
    rw [hn]
    exact Assoc.get_put_self ..
  have hclk : (s.arrivalNoted key).clk = s.clk := by rw [hn]
  obtain ⟨harr, hrel⟩ := (s.arrivalNoted key).bellCheck_bell key
  rw [hbell] at harr hrel
  rw [hclk] at hrel
  exact ⟨harr, hrel⟩

/-- An instruction that waits once it is accepted: its cost is drawn, and it is in WAIT. -/
theorem gives_accepted {i : Instr} {f : Form} {cost : Nat} {s t : State} {w : Wait} {body : State → Res} (h : Runs f cost s)
    (he : exec i s = issueCost f cost body s) (hb : body s = .hold t w 1) (hw : w.isWait = true) (hc : t.cur = s.cur) : Gives i s fun v =>
      HeldAt w 1 (s.plainWarn f) v t ∧ v.me.st = .wait ∧ v.me.block = some ⟨w, (t.me.block.map (·.since)).getD t.clk, 1⟩ := by
  have hp := t.payCore_as t.cur.core t.cur.ctx cost
  obtain ⟨_, _, hx⟩ := t.payCore_ctx t.cur.core t.cur.ctx cost
  have hme : (t.payCore t.cur.core t.cur.ctx cost).me.block = t.me.block := by
    rw [State.me_eq hp.cur, hx]
    rfl
  obtain ⟨hst, hblock⟩ := (t.payCore t.cur.core t.cur.ctx cost).holdMe_course w 1 (s.plainWarn f)
  rw [if_pos hw] at hst
  rw [hme, hp.clk] at hblock
  refine ⟨(t.payCore t.cur.core t.cur.ctx cost).holdMe w 1 (s.plainWarn f), ?_, t.paid_held cost w 1 _, hst, hblock⟩
  rw [he, issueCost, issueWith_runs h, hb]
  simp [State.plainWarn, hc]

section Bell
variable {f : Form} {s : State} (h : Runs f 4 s)
include h

theorem traps_bell (hk : 7 < f.a.immU) : Traps (.bell f) s cILLEGAL (s.me.pc + BitVec.ofNat 64 (4 * (f.npfx + 1))).toNat :=
  traps_fault h (exec_bell f s) (if_pos hk)

variable (hk : f.a.immU ≤ 7)
include hk

theorem writes_bell_notMember (hb : s.bellOf s.cur.core f.a.immU = none) : Writes (.bell f) f s (BitVec.ofNat 64 stNOTMEMBER) :=
  writes_of_putS h (exec_bell f s) (by rw [bellBody, if_neg (by omega), hb])

variable {key : Nat} (hb : s.bellOf s.cur.core f.a.immU = some key)
include hb

omit h in
theorem bellBody_named : bellBody f s = bellNamed f key s := by rw [bellBody, if_neg (by omega), hb]

theorem writes_bell_busy (hc : ∃ c, c ≠ s.cur.ctx ∧ (s.cur.core, c) ∈ (s.bell key).arrived) :
    Writes (.bell f) f s (BitVec.ofNat 64 stBUSY) := by
  obtain ⟨c, hc, harr⟩ := hc
  refine writes_of_putS h (exec_bell f s) ((bellBody_named hk hb).trans (if_pos ?_))
  exact List.any_eq_true.mpr ⟨_, harr, by simpa using hc⟩

theorem gives_bell (harr : ∀ c, (s.cur.core, c) ∉ (s.bell key).arrived) (hrel : s.relWait = none) : Gives (.bell f) s fun t =>
    (t.bell key).arrived = (s.bell key).arrived ++ [(s.cur.core, s.cur.ctx)] ∧
    ((t.bell key).rel = none ∨ (t.bell key).rel = some (s.clk + 20) ∨ (t.bell key).rel = (s.bell key).rel) ∧
    t.me.block = some ⟨.bell key f.d.sreg (formLen f), ((s.me.block).map (·.since)).getD s.clk, 1⟩ ∧
    t.me.st = .wait ∧ t.me.pc = s.me.pc ∧ RegsKept {} s t ∧ MemKept s t := by
  have hbody : bellBody f s = .hold (s.bellArrive key) (.bell key f.d.sreg (formLen f)) 1 := by
    rw [bellBody_named hk hb, bellNamed, if_neg, asRelease_of_none hrel, if_neg]
    · simpa using harr _
    · rw [List.any_eq_true]
      rintro ⟨⟨n, c⟩, ha, hn⟩
      obtain ⟨rfl, -⟩ : n = s.cur.core ∧ _ := by simpa using hn
      exact harr c ha
  obtain ⟨_, _, heq⟩ := s.bellArrive_eq key
  obtain ⟨harrived, hrel⟩ := s.bellArrive_bell key
  have hcur : (s.bellArrive key).cur = s.cur := by rw [heq]
  have hclk : (s.bellArrive key).clk = s.clk := by rw [heq]
  have hme : (s.bellArrive key).me = s.me := by rw [heq]; rfl
  have hm : MemKept s (s.bellArrive key) := by rw [heq]; exact .of_eq rfl rfl rfl rfl
  refine (gives_accepted h (exec_bell f s) hbody rfl hcur).imp fun t ⟨hheld, hst, hblock⟩ => ?_
  have hbell : t.bell key = (s.bellArrive key).bell key := by
    obtain ⟨⟨_, _, ht⟩, -⟩ := hheld
    rw [ht]
    rfl
  rw [hme, hclk] at hblock
  refine ⟨?_, ?_, hblock, hst, hheld.me.pc.trans (by rw [hme]), hheld.regsKept hme, hm.trans hheld.memKept⟩
  · rw [hbell, harrived]
  · rw [hbell]
    exact .inr hrel.symm

end Bell

/-- Settles O22: BELL by what stands at its bell, then the release, the timeout and the end of a phase for the context that has
arrived alone. -/
theorem bellsAndPhases : Obligations.BellsAndPhases := by
  unfold Obligations.BellsAndPhases
  refine ⟨fun f s h => ⟨traps_bell h, writes_bell_notMember h, fun key hk hb => ⟨writes_bell_busy h hk hb, gives_bell h hk hb⟩⟩,
    fun s key core c d len since _ harr hb hs => ⟨happens_bellRelease harr hb hs, fun since0 l hsince hl hdue =>
      happens_bellTimeout harr hb hs hsince hl hdue⟩, fun s key core arrived start hk hp => happens_phaseEnd hk hp⟩

end Sys2Proof.Machine
end

section
/-! SUPPORT. SEND, the arrival of a message, RECV and RPROBE (R203, R304 to R306, R424): O21. -/
namespace Sys2Proof.Machine

/-! Stores and what they leave of the cores (R178). -/

/-- A state whose cores are another's but for their contexts. -/
def CoresAs (t s : State) : Prop := ∀ n, ∃ cs, t.core n = { s.core n with ctxs := cs }

theorem CoresAs.refl (s : State) : CoresAs s s := fun _ => ⟨_, rfl⟩

theorem CoresAs.trans {s t u : State} (h : CoresAs u t) (g : CoresAs t s) : CoresAs u s := fun n => by
  obtain ⟨cs, hu⟩ := h n
  obtain ⟨_, ht⟩ := g n
  exact ⟨cs, by rw [hu, ht]⟩

theorem State.noteOrace_cores (s : State) (pa n : Nat) : CoresAs (s.noteOrace pa n) s := by
  unfold State.noteOrace
  split
  · exact .refl s
  · refine List.foldlRecOn (motive := fun t => CoresAs t s) _ _ (.refl s) fun t ht e _ => ?_
    dsimp only
    split
    · exact ht
    · exact CoresAs.trans (t := t) (fun m => State.core_setCtx_eq ..) ht

theorem State.stallWrite_cores (s : State) (core off n v : Nat) : CoresAs (s.stallWrite core off n v) s :=
  CoresAs.trans (t := s.noteOrace (stallPa core off) n) (fun _ => ⟨_, rfl⟩) (s.noteOrace_cores _ _)

theorem State.physStore_cores (s : State) (pa n v : Nat) : CoresAs (s.physStore pa n v) s := by
  have hn : CoresAs ((s.noteWrite pa n).noteOrace pa n) s := (State.noteOrace_cores _ _ _).trans fun _ => ⟨_, rfl⟩
  unfold State.physStore
  dsimp only
  split
  · exact hn
  · exact hn

theorem State.physWrite_cores (s : State) (pa n v : Nat) : CoresAs (s.physWrite pa n v) s := by
  have go (fuel : Nat) (s : State) (pa n v : Nat) : CoresAs (State.physWrite.go s pa n v fuel) s := by
    induction fuel generalizing s pa n v with
    | zero => exact .refl s
    | succ fuel ih =>
      unfold State.physWrite.go
      split
      · exact .refl s
      · exact (ih _ _ _ _).trans (s.physStore_cores _ _ _)
  exact go _ _ _ _ _

theorem State.stallRead_of_mem {s t : State} (h : t.mem = s.mem) (core off n : Nat) : t.stallRead core off n = s.stallRead core off n := by
  unfold State.stallRead
  rw [h]

theorem State.modCore_stallRead (s : State) (m : Nat) (g : Core → Core) (core off n : Nat) :
    (s.modCore m g).stallRead core off n = s.stallRead core off n := State.stallRead_of_mem rfl _ _ _

theorem State.modCore_physRead (s : State) (m : Nat) (g : Core → Core) (pa n : Nat) :
    (s.modCore m g).physRead pa n = s.physRead pa n := State.physRead_congr _ _ (State.physByte_congr rfl rfl)

theorem StallStore.then_memKept {core off n : Nat} {s t u : State} (h : StallStore core off n s t) (g : MemKept t u) :
    StallStore core off n s u := ⟨fun a ha => (g.bytes a).trans (h.1 a ha), g.flash.trans h.2⟩

theorem StallStore.modCore {core off n : Nat} {s t : State} (h : StallStore core off n s t) (m : Nat) (g : Core → Core) :
    StallStore core off n s (t.modCore m g) := h.then_memKept (.of_eq rfl rfl rfl rfl)

/-! A channel's register (R202). -/

theorem State.setChan_ctx (s : State) (n ch r m c : Nat) : (s.setChan n ch r).ctx m c = s.ctx m c :=
  s.ctx_modCore_of_ctxs (·.srSet (rCHCFG ch) (BitVec.ofNat 64 r)) (fun _ => rfl) m c

theorem State.setChan_chan (s : State) (n ch r : Nat) : ((s.setChan n ch r).core n).chan ch = r % 2 ^ 64 := by
  unfold State.setChan Core.chan Core.srSet Core.srGet
  rw [State.core_modCore, if_pos rfl, Assoc.get_set_self, BitVec.toNat_ofNat]

/-- A channel that is enabled has at most 256 entries (R202). -/
theorem chLogn_of_en {r : Nat} (h : chEn r = true) : chLogn r ≤ 8 := by
  simp only [chEn, Bool.and_eq_true, decide_eq_true_eq] at h
  exact h.1.1.2

theorem ringIndex_lt {r : Nat} (h : chEn r = true) (x : Nat) : x % 2 ^ (chLogn r + 1) < 2 ^ 9 :=
  Nat.lt_of_lt_of_le (Nat.mod_lt _ (Nat.two_pow_pos _)) (Nat.pow_le_pow_right (by decide) (Nat.succ_le_succ (chLogn_of_en h)))

theorem chHead_written {r v : Nat} (h : v < 2 ^ 9) : chHead (setBits r 20 9 v % 2 ^ 64) = v := by
  rw [chHead, bits_mod _ _ _ _ (by decide), bits_setBits_self, Nat.mod_eq_of_lt h]

theorem chTail_written {r v : Nat} (h : v < 2 ^ 9) :
    chTail (setBits r 29 9 v % 2 ^ 64) = v ∧ chHead (setBits r 29 9 v % 2 ^ 64) = chHead r := by
  constructor
  · rw [chTail, bits_mod _ _ _ _ (by decide), bits_setBits_self, Nat.mod_eq_of_lt h]
  · rw [chHead, bits_mod _ _ _ _ (by decide), bits_setBits_ne _ _ _ _ _ _ (by decide), ← chHead]

/-! SEND (R305). -/

/-- SEND's body. -/
def sendBody (f : Form) (s : State) : Res :=
  let a := (s.me.opS f.a).toNat
  let w := s.me.opAddr f.b
  match laPlace s.cur.core w.toNat with
  | none => .fault s cLAFLT w.toNat
  | some (c, o) =>
    if bits a 16 6 < 1 || 56 < bits a 16 6 || (laPlace s.cur.core (w.toNat + bits a 16 6 - 1)).isNone then .fault s cMSGFMT a
    else if !s.hasCore s.me.vf (bits a 0 14) then .fault s cMESHPART a
    else asRelease (sendNow (bits a 0 14) f.d.num (bits a 16 6) c o w) s

theorem exec_send (f : Form) (s : State) : exec (.send f) s = issueCost f 16 (sendBody f) s := rfl

/-- The state in which a message is on its way (R203). -/
def State.msgSent (s : State) (m : Msg) : State :=
  ({ s.fresh.2 with msgs := s.msgs.put s.nextId m } : State).later (max 1 (meshLat m.src m.dst / 2)) (.messageArrival s.nextId)

section Send
variable {f : Form} {s : State} (h : Runs f 16 s)
include h

theorem traps_send_laflt (hp : laPlace s.cur.core (s.me.opAddr f.b).toNat = none) :
    Traps (.send f) s cLAFLT (s.me.opAddr f.b).toNat :=
  traps_fault h (exec_send f s) (by rw [sendBody, hp])

variable {c o : Nat} (hp : laPlace s.cur.core (s.me.opAddr f.b).toNat = some (c, o))
include hp

theorem traps_send_msgfmt (hl : bits (s.me.opS f.a).toNat 16 6 = 0 ∨ 56 < bits (s.me.opS f.a).toNat 16 6 ∨
      laPlace s.cur.core ((s.me.opAddr f.b).toNat + bits (s.me.opS f.a).toNat 16 6 - 1) = none) :
    Traps (.send f) s cMSGFMT (s.me.opS f.a).toNat :=
  traps_fault h (exec_send f s) (by
    rw [sendBody, hp]
    refine if_pos ?_
    rcases hl with hl | hl | hl <;> simp [hl])

variable (h1 : 1 ≤ bits (s.me.opS f.a).toNat 16 6) (h56 : bits (s.me.opS f.a).toNat 16 6 ≤ 56)
  (hend : (laPlace s.cur.core ((s.me.opAddr f.b).toNat + bits (s.me.opS f.a).toNat 16 6 - 1)).isSome = true)
include h1 h56 hend

omit h in
theorem sendBody_of_length : sendBody f s =
    if !s.hasCore s.me.vf (bits (s.me.opS f.a).toNat 0 14) then .fault s cMESHPART (s.me.opS f.a).toNat
    else asRelease (sendNow (bits (s.me.opS f.a).toNat 0 14) f.d.num (bits (s.me.opS f.a).toNat 16 6) c o (s.me.opAddr f.b)) s := by
  rw [sendBody, hp]
  refine if_neg ?_
  simp [Option.isSome_iff_ne_none.mp hend]
  omega

theorem traps_send_meshpart (hc : s.hasCore s.me.vf (bits (s.me.opS f.a).toNat 0 14) = false) :
    Traps (.send f) s cMESHPART (s.me.opS f.a).toNat :=
  traps_fault h (exec_send f s) ((sendBody_of_length hp h1 h56 hend).trans (if_pos (by rw [hc]; rfl)))

variable (hc : s.hasCore s.me.vf (bits (s.me.opS f.a).toNat 0 14) = true) (hrel : s.relWait = none)
include hc hrel

omit h in
theorem sendBody_of_checked : sendBody f s =
    sendNow (bits (s.me.opS f.a).toNat 0 14) f.d.num (bits (s.me.opS f.a).toNat 16 6) c o (s.me.opAddr f.b) s := by
  rw [sendBody_of_length hp h1 h56 hend, if_neg (by rw [hc]; decide), asRelease_of_none hrel]

theorem held_send (hpipe : s.pipeFrom s.cur.core (bits (s.me.opS f.a).toNat 0 14) f.d.num = true)
    (hcr : s.credits s.cur.core (bits (s.me.opS f.a).toNat 0 14) f.d.num = 0) : Gives (.send f) s fun t => Held .wait s t :=
  held_wait h (exec_send f s) ((sendBody_of_checked hp h1 h56 hend hc hrel).trans (if_pos (by rw [hpipe, hcr]; rfl))) rfl

theorem gives_send (hcr : s.pipeFrom s.cur.core (bits (s.me.opS f.a).toNat 0 14) f.d.num = false ∨
      s.credits s.cur.core (bits (s.me.opS f.a).toNat 0 14) f.d.num ≠ 0)
    (hpois : s.stallPoison c o (bits (s.me.opS f.a).toNat 16 6) = none) : Gives (.send f) s fun t =>
      t.msgs.get s.nextId ⟨0, 0, 0, 0, 0⟩ = ⟨s.cur.core, bits (s.me.opS f.a).toNat 0 14, f.d.num, bits (s.me.opS f.a).toNat 16 6,
        s.stallRead c o (bits (s.me.opS f.a).toNat 16 6)⟩ ∧
      (∃ k, (k, Event.messageArrival s.nextId) ∈ t.due ∧ s.clk < k) ∧ RegsKept {} s t ∧ MemKept s t ∧
      Completed (s.plainWarn f) (s.fall f) s t := by
  let m : Msg := ⟨s.cur.core, bits (s.me.opS f.a).toNat 0 14, f.d.num, bits (s.me.opS f.a).toNat 16 6,
    s.stallRead c o (bits (s.me.opS f.a).toNat 16 6)⟩
  have hbody : sendBody f s = .done (s.msgSent m) := by
    rw [sendBody_of_checked hp h1 h56 hend hc hrel, sendNow]
    dsimp only
    rw [if_neg (by rcases hcr with hcr | hcr <;> simp [hcr]), hpois]
    rfl
  have hm : MemKept s (s.msgSent m) := .of_eq rfl rfl rfl rfl
  have hdue : (s.clk + max 1 (meshLat m.src m.dst / 2), Event.messageArrival s.nextId) ∈ (s.msgSent m).due := State.mem_due_later _ _ _
  refine ⟨s.after 16 (s.plainWarn f) (s.fall f) (s.msgSent m), ?_, ?_⟩
  · rw [exec_send, issueCost, issueWith_done h _ _ _ hbody rfl rfl]
    simp [State.plainWarn]
  · obtain ⟨_, _, heq⟩ := s.after_cores 16 (s.plainWarn f) (s.fall f) (s.msgSent m)
    have has := State.after_as s 16 (s.plainWarn f) (s.fall f) (s.msgSent m) rfl
    have hlater : s.clk < s.clk + max 1 (meshLat m.src m.dst / 2) := by omega
    refine ⟨?_, ⟨_, ?_, hlater⟩, State.after_regsKept _ _ _ _ _ _ rfl (.of_me {} rfl), hm.trans has.memKept,
      State.after_completed _ _ _ _ _ rfl rfl fun _ _ _ => rfl⟩
    · rw [heq]
      exact Assoc.get_put_self ..
    · rw [has.work.2.2.2]
      exact hdue

end Send

/-! The arrival of a message (R203, R424). -/

/-- A message as the entry of a ring (R202). -/
def Msg.entry (m : Msg) : Nat := m.data % 2 ^ (8 * m.len) + m.src * 2 ^ 448 + m.len * 2 ^ 464 + m.chan * 2 ^ 472

/-- An entry is 64 bytes. -/
theorem entry_bytes (e : Nat) : e % 256 ^ 64 = e % 2 ^ 512 ∧ e % 2 ^ (8 * 64) = e % 2 ^ 512 := by
  have h : 8 * 64 = 512 := rfl
  rw [← h, Nat.pow_mul]
  exact ⟨rfl, rfl⟩

/-- The state without a message that was under way. -/
def State.msgTaken (s : State) (id : Nat) : State := { s with msgs := s.msgs.erase id }

/-- Where a message's entry is written, in the overflow area of its core (R424). -/
def State.ovfRoom (s : State) (m : Msg) : Nat :=
  regPage (s.vf (s.vfOfCore m.dst)).ovfBase + 4096 * m.dst + 64 * (s.core m.dst).ovfCount

/-- Whether a message finds its channel enabled, its own, and with room (R203). -/
def Msg.fits (m : Msg) (r : Nat) : Prop := chEn r = true ∧ (chPipe r = false ∨ chSrc r = m.src) ∧ chCount r < 2 ^ chLogn r

theorem Msg.fits_iff (m : Msg) (r : Nat) :
    m.fits r ↔ (chEn r && (!chPipe r || chSrc r == m.src) && decide (chCount r < 2 ^ chLogn r)) = true := by
  simp [Msg.fits, and_assoc]

/-- Whether a core's overflow area is there and not full (R424). -/
def State.ovfOpen (s : State) (m : Msg) : Prop :=
  (s.core m.dst).ovfCount < 64 ∧ regPage (s.vf (s.vfOfCore m.dst)).ovfBase ≠ 0 ∧ inHbm (s.ovfRoom m) 64 = true

theorem State.ovfOpen_iff (s : State) (m : Msg) : s.ovfOpen m ↔
    (decide ((s.core m.dst).ovfCount < 64) && regPage (s.vf (s.vfOfCore m.dst)).ovfBase != 0 && inHbm (s.ovfRoom m) 64) = true := by
  simp [State.ovfOpen, and_assoc]

/-- What an entry written into the overflow area leaves of its core (R424). -/
def Core.overflowed (k : Core) (n ch : Nat) : Core := { k with ovfCount := n + 1, rqovf := k.rqovf.lor (2 ^ ch) }

theorem Core.overflowed_rqovf (k : Core) (n ch i : Nat) : (k.overflowed n ch).rqovf.testBit i = (k.rqovf.testBit i || decide (ch = i)) := by
  show (k.rqovf ||| 2 ^ ch).testBit i = _
  rw [Nat.testBit_or, Nat.testBit_two_pow]

theorem State.overflowMsg_open {s : State} {m : Msg} (h : s.ovfOpen m) (e : Nat) :
    s.overflowMsg m e = (s.physWrite (s.ovfRoom m) 64 e).modCore m.dst (·.overflowed (s.core m.dst).ovfCount m.chan) :=
  if_pos ((s.ovfOpen_iff m).mp h)

/-- A message dropped and counted (R424). -/
def State.msgDropped (s : State) (m : Msg) : State :=
  (s.modVf (s.vfOfCore m.dst) fun v => { v with rqDrop := satInc64 v.rqDrop }).raiseErr (s.vfOfCore m.dst)

theorem State.overflowMsg_closed {s : State} {m : Msg} (h : ¬s.ovfOpen m) (e : Nat) : s.overflowMsg m e = s.msgDropped m :=
  if_neg fun ho => h ((s.ovfOpen_iff m).mpr ho)

theorem State.raiseErr_kept (s : State) (n : Nat) : (s.raiseErr n).vfs = s.vfs ∧ (s.raiseErr n).cores = s.cores ∧ MemKept s (s.raiseErr n) := by
  unfold State.raiseErr
  split
  · exact ⟨rfl, rfl, .refl s⟩
  · exact ⟨rfl, rfl, .of_eq rfl rfl rfl rfl⟩

theorem State.msgDropped_vf (s : State) (m : Msg) :
    ((s.msgDropped m).vf (s.vfOfCore m.dst)).rqDrop = satInc64 (s.vf (s.vfOfCore m.dst)).rqDrop := by
  have hv : (s.msgDropped m).vfs = _ := (State.raiseErr_kept _ _).1
  unfold State.vf
  rw [hv]
  exact congrArg Vf.rqDrop ((State.vf_modVf _ _ _ _).trans (if_pos rfl))

theorem State.msgDropped_ctx (s : State) (m : Msg) (n c : Nat) : (s.msgDropped m).ctx n c = s.ctx n c := by
  have hk : (s.msgDropped m).cores = _ := (State.raiseErr_kept _ _).2.1
  unfold State.ctx State.core
  rw [hk]
  rfl

theorem State.msgDropped_memKept (s : State) (m : Msg) : MemKept s (s.msgDropped m) :=
  MemKept.trans (t := s.modVf (s.vfOfCore m.dst) fun v => { v with rqDrop := satInc64 v.rqDrop }) (.of_eq rfl rfl rfl rfl)
    (State.raiseErr_kept _ _).2.2

section MsgArrives
variable {s : State} {id : Nat} {m : Msg} (hm : s.msgs.find? (·.1 == id) = some (id, m))
include hm

theorem State.messageArrival_found : s.messageArrival id =
    if chEn ((s.core m.dst).chan m.chan) && (!chPipe ((s.core m.dst).chan m.chan) || chSrc ((s.core m.dst).chan m.chan) == m.src) &&
        decide (chCount ((s.core m.dst).chan m.chan) < 2 ^ chLogn ((s.core m.dst).chan m.chan)) then
      ((s.msgTaken id).stallWrite m.dst (chBase ((s.core m.dst).chan m.chan) +
        64 * (chTail ((s.core m.dst).chan m.chan) % 2 ^ chLogn ((s.core m.dst).chan m.chan))) 64 m.entry).setChan m.dst m.chan
        (setBits ((s.core m.dst).chan m.chan) 29 9
          ((chTail ((s.core m.dst).chan m.chan) + 1) % 2 ^ (chLogn ((s.core m.dst).chan m.chan) + 1)))
    else (s.msgTaken id).overflowMsg m m.entry := by
  unfold State.messageArrival
  rw [hm]
  rfl

theorem happens_message_queued (hfits : m.fits ((s.core m.dst).chan m.chan)) : Happens (.messageArrival id) s fun t =>
    let r := (s.core m.dst).chan m.chan
    t.stallRead m.dst (chBase r + 64 * (chTail r % 2 ^ chLogn r)) 64 = m.entry % 2 ^ 512 ∧
    chTail ((t.core m.dst).chan m.chan) = (chTail r + 1) % (2 * 2 ^ chLogn r) ∧
    chHead ((t.core m.dst).chan m.chan) = chHead r ∧
    StallStore m.dst (chBase r + 64 * (chTail r % 2 ^ chLogn r)) 64 s t ∧ ∀ n c k, (t.ctx n c).sreg k = (s.ctx n c).sreg k := by
  let r := (s.core m.dst).chan m.chan
  let at_ := chBase r + 64 * (chTail r % 2 ^ chLogn r)
  let z := (s.onEvent (.messageArrival id)).msgTaken id
  let u := z.stallWrite m.dst at_ 64 m.entry
  obtain ⟨htail, hhead⟩ := chTail_written (r := r) (ringIndex_lt hfits.1 (chTail r + 1))
  have hstore : StallStore m.dst at_ 64 s u := .of_memKept (t := z) (.of_eq rfl rfl rfl rfl) (z.stallWrite_stallStore _ _ _ _)
  refine happens_next (t := u.setChan m.dst m.chan (setBits r 29 9 ((chTail r + 1) % 2 ^ (chLogn r + 1)))) ?_
    ⟨?_, ?_, ?_, hstore.modCore _ _, fun n c k => ?_⟩
  · exact congrArg Host.Outcome.next ((State.messageArrival_found (s := s.onEvent (.messageArrival id)) hm).trans
      (if_pos ((m.fits_iff r).mp hfits)))
  · rw [State.setChan, State.modCore_stallRead, State.stallRead_stallWrite, (entry_bytes _).1]
  · rw [State.setChan_chan, htail, Nat.pow_succ']
  · rw [State.setChan_chan, hhead]
  · rw [State.setChan_ctx]
    exact (z.stallWrite_stored _ _ _ _).sreg n c k

theorem exec_message_overflows (hfits : ¬m.fits ((s.core m.dst).chan m.chan)) :
    exec (Event.messageArrival id).instr (s.onEvent (.messageArrival id)) =
      .next (((s.onEvent (.messageArrival id)).msgTaken id).overflowMsg m m.entry) :=
  congrArg Host.Outcome.next ((State.messageArrival_found (s := s.onEvent (.messageArrival id)) hm).trans
    (if_neg fun h => hfits ((m.fits_iff _).mpr h)))

variable (hfits : ¬m.fits ((s.core m.dst).chan m.chan))
include hfits

theorem happens_message_overflows (ho : s.ovfOpen m) : Happens (.messageArrival id) s fun t =>
      t.physRead (s.ovfRoom m) 64 = m.entry % 2 ^ 512 ∧ (t.core m.dst).ovfCount = (s.core m.dst).ovfCount + 1 ∧
      (t.core m.dst).rqovf.testBit m.chan = true ∧
      (∀ k, k ≠ m.chan → (t.core m.dst).rqovf.testBit k = (s.core m.dst).rqovf.testBit k) ∧
      (t.core m.dst).chan m.chan = (s.core m.dst).chan m.chan ∧ ∀ k c j, (t.ctx k c).sreg j = (s.ctx k c).sreg j := by
  let z := (s.onEvent (.messageArrival id)).msgTaken id
  let u := z.physWrite (s.ovfRoom m) 64 m.entry
  let g : Core → Core := (·.overflowed (s.core m.dst).ovfCount m.chan)
  have hcore : (u.modCore m.dst g).core m.dst = (u.core m.dst).overflowed (s.core m.dst).ovfCount m.chan := by
    rw [State.core_modCore, if_pos rfl]
  obtain ⟨_, hk⟩ : ∃ cs, u.core m.dst = { s.core m.dst with ctxs := cs } := z.physWrite_cores (s.ovfRoom m) 64 m.entry m.dst
  rw [hk] at hcore
  refine happens_next (t := u.modCore m.dst g) ?_ ⟨?_, ?_, ?_, fun k hne => ?_, ?_, fun k c j => ?_⟩
  · exact (exec_message_overflows hm hfits).trans (congrArg Host.Outcome.next (State.overflowMsg_open (s := z) ho m.entry))
  · rw [State.modCore_physRead, State.physRead_physWrite, (entry_bytes _).2]
  · rw [hcore]
    rfl
  · rw [hcore, Core.overflowed_rqovf]
    simp
  · rw [hcore, Core.overflowed_rqovf]
    simp [Ne.symm hne]
  · rw [hcore]
    rfl
  · rw [u.ctx_modCore_of_ctxs g fun _ => rfl]
    exact (z.physWrite_stored _ _ _).sreg k c j

theorem happens_message_dropped (ho : ¬s.ovfOpen m) : Happens (.messageArrival id) s fun t =>
      (t.vf (s.vfOfCore m.dst)).rqDrop = satInc64 (s.vf (s.vfOfCore m.dst)).rqDrop ∧ (∀ n c, t.ctx n c = s.ctx n c) ∧ MemKept s t := by
  let z := (s.onEvent (.messageArrival id)).msgTaken id
  have hz : MemKept s z := .of_eq rfl rfl rfl rfl
  exact happens_next (t := z.msgDropped m)
    ((exec_message_overflows hm hfits).trans (congrArg Host.Outcome.next (State.overflowMsg_closed (s := z) ho m.entry)))
    ⟨z.msgDropped_vf m, z.msgDropped_ctx m, hz.trans (z.msgDropped_memKept m)⟩

end MsgArrives

/-! RECV and RPROBE (R306). -/

/-- RECV's body. -/
def recvBody (f : Form) (s : State) : Res :=
  match checkLa s.cur.core (s.me.opAddr f.b) 64 64 with
  | .error e => .fault s e.1 e.2
  | .ok (c, o) =>
    let r := s.myCore.chan f.a.num
    if !chEn r then .done (s.putS f.d.sreg 0).warn
    else if chCount r == 0 || s.recvBehind f.a.num then .hold s (.recv f.a.num) 0
    else
      let at_ := chBase r + 64 * (chHead r % 2 ^ chLogn r)
      match s.stallPoison s.cur.core at_ 64 with
      | some p => .fault (s.countErr (stkOf s.cur.core) 3) cPOISON (p - stallPa s.cur.core 0)
      | none =>
        let e := s.stallRead s.cur.core at_ 64
        let s := (s.stallWrite c o 64 e).setChan s.cur.core f.a.num (setBits r 20 9 ((chHead r + 1) % 2 ^ (chLogn r + 1)))
        .done (s.acquire.putS f.d.sreg (BitVec.ofNat 64 (bits e 448 64)))

theorem exec_recv (f : Form) (s : State) : exec (.recv f) s = issueCost f 16 (recvBody f) s := rfl

def rprobeBody (f : Form) (s : State) : Res := .done (s.putS f.d.sreg (BitVec.ofNat 64 (chCount (s.myCore.chan f.a.num))))

theorem exec_rprobe (f : Form) (s : State) : exec (.rprobe f) s = issueCost f 4 (rprobeBody f) s := rfl

theorem State.stallRead_entry_lt (s : State) (core off : Nat) : s.stallRead core off 64 < 256 ^ 64 := memRead_lt ..

/-- The state in which an entry of a channel has been copied out of its ring (R306). -/
def State.received (s : State) (c o ch r : Nat) : State :=
  (s.stallWrite c o 64 (s.stallRead s.cur.core (chBase r + 64 * (chHead r % 2 ^ chLogn r)) 64)).setChan s.cur.core ch
    (setBits r 20 9 ((chHead r + 1) % 2 ^ (chLogn r + 1)))

theorem State.received_stallRead (s : State) (c o ch r : Nat) : (s.received c o ch r).stallRead c o 64 =
    s.stallRead s.cur.core (chBase r + 64 * (chHead r % 2 ^ chLogn r)) 64 := by
  unfold State.received State.setChan
  rw [State.modCore_stallRead, State.stallRead_stallWrite, Nat.mod_eq_of_lt (s.stallRead_entry_lt ..)]

theorem State.received_chan {r : Nat} (hr : chEn r = true) (s : State) (c o ch : Nat) :
    chHead (((s.received c o ch r).core s.cur.core).chan ch) = (chHead r + 1) % 2 ^ (chLogn r + 1) := by
  unfold State.received
  rw [State.setChan_chan, chHead_written (ringIndex_lt hr _)]

theorem State.received_cur (s : State) (c o ch r : Nat) : (s.received c o ch r).cur = s.cur :=
  (s.stallWrite_stored c o 64 (s.stallRead s.cur.core (chBase r + 64 * (chHead r % 2 ^ chLogn r)) 64)).cur

theorem State.received_me (s : State) (c o ch r : Nat) : CtxOrace (s.received c o ch r).me s.me := by
  rw [State.me_eq (s.received_cur c o ch r)]
  unfold State.received
  rw [State.setChan_ctx]
  exact (s.stallWrite_stored ..).ctx _ _

theorem State.received_store (s : State) (c o ch r : Nat) : StallStore c o 64 s (s.received c o ch r) :=
  (s.stallWrite_stallStore ..).modCore _ _

section Recv
variable {f : Form} {s : State} (h : Runs f 16 s)
include h

theorem traps_recv {e : Flt} (he : checkLa s.cur.core (s.me.opAddr f.b) 64 64 = .error e) : Traps (.recv f) s e.1 e.2 :=
  traps_fault h (exec_recv f s) (by rw [recvBody, he])

variable {c o : Nat} (hp : checkLa s.cur.core (s.me.opAddr f.b) 64 64 = .ok (c, o))
include hp

theorem gives_recv_disabled (hen : chEn (s.myCore.chan f.a.num) = false) : Gives (.recv f) s fun t =>
    Result f 0 s t ∧ Kept { regs := [f.d.sreg] } s t ∧ Completed true (s.fall f) s t := by
  let u := s.putS f.d.sreg 0
  have hbody : recvBody f s = .done (u.warnIf true) := by
    rw [recvBody, hp]
    exact if_pos (by rw [hen]; rfl)
  have hput : u.me = s.me.setS f.d.sreg 0 := State.putS_me_of rfl _ _
  have hw : StatOnly [bWARN] (u.warnIf true).me u.me := u.warnIf_statOnly _ (by simp)
  have has := u.warnIf_as true
  have hsr (n : Nat) : u.me.srGet n = s.me.srGet n := by rw [hput, Ctx.srGet_setS]
  have hkept := s.putS_kept f.d.sreg 0
  refine (gives_done_from (b := true) (w := { regs := [f.d.sreg] }) h (exec_recv f s) hbody rfl has.cur
    (hkept.regs.trans (hw.regsKept (by simp))) ?_ ?_ fun n h1 h2 => ?_).imp
    fun t ⟨hv, hctx, _, hregs, hd⟩ => ⟨fun r => ?_, ⟨hregs, ?_, ?_⟩, by rwa [Bool.or_true] at hd⟩
  · rw [hw.stat _ (by decide) (by decide), Ctx.statBit_of_sr (hsr _), h.noStep]
  · rw [State.warnIf_statBit, Ctx.statBit_of_sr (hsr _)]
  · rw [hw.loops n h1 h2, hsr]
  · rw [hctx.sreg, hw.as.sreg, hput, Ctx.sreg_setS_iff]
  · exact (hkept.rest.trans (has.rest rfl rfl)).trans (hv.rest (congrArg _ has.cur).symm (congrArg _ has.cur).symm)
  · exact (hkept.mem.trans has.memKept).trans hv.memKept

variable (hen : chEn (s.myCore.chan f.a.num) = true)
include hen

theorem held_recv (hw : chCount (s.myCore.chan f.a.num) = 0 ∨ s.recvBehind f.a.num = true) : Gives (.recv f) s fun t => Held .wait s t := by
  refine held_wait h (exec_recv f s) (wt := .recv f.a.num) ?_ rfl
  rw [recvBody, hp]
  dsimp only
  rw [if_neg (by rw [hen]; decide)]
  exact if_pos (by simpa using hw)

variable (hcount : chCount (s.myCore.chan f.a.num) ≠ 0) (hfirst : s.recvBehind f.a.num = false)
  (hpois : s.stallPoison s.cur.core (chBase (s.myCore.chan f.a.num) + 64 * (chHead (s.myCore.chan f.a.num) %
    2 ^ chLogn (s.myCore.chan f.a.num))) 64 = none)
include hcount hfirst hpois

omit h in
theorem recvBody_receives : recvBody f s = .done ((s.received c o f.a.num (s.myCore.chan f.a.num)).acquire.putS f.d.sreg
    (BitVec.ofNat 64 (bits (s.stallRead s.cur.core (chBase (s.myCore.chan f.a.num) + 64 * (chHead (s.myCore.chan f.a.num) %
      2 ^ chLogn (s.myCore.chan f.a.num))) 64) 448 64))) := by
  rw [recvBody, hp]
  dsimp only
  rw [if_neg (by rw [hen]; decide), if_neg (by simp [hcount, hfirst]), hpois]
  rfl

theorem gives_recv : Gives (.recv f) s fun t =>
    let r := s.myCore.chan f.a.num
    let at_ := chBase r + 64 * (chHead r % 2 ^ chLogn r)
    t.stallRead c o 64 = s.stallRead s.cur.core at_ 64 ∧
    chHead ((t.core s.cur.core).chan f.a.num) = (chHead r + 1) % 2 ^ (chLogn r + 1) ∧
    Result f (BitVec.ofNat 64 (bits (s.stallRead s.cur.core at_ 64) 448 64)) s t ∧
    RegsKept { regs := [f.d.sreg], stats := [bORACE] } s t ∧ StallStore c o 64 s t ∧
    Completed (s.plainWarn f) (s.fall f) s t := by
  let r := s.myCore.chan f.a.num
  let w := BitVec.ofNat 64 (bits (s.stallRead s.cur.core (chBase r + 64 * (chHead r % 2 ^ chLogn r)) 64) 448 64)
  let u := s.received c o f.a.num r
  have hme : (u.acquire.putS f.d.sreg w).me = u.me.setS f.d.sreg w := u.acquire_putS_me f.d.sreg w
  have hor : CtxOrace u.me s.me := s.received_me c o f.a.num r
  have hso : StatOnly [bORACE] u.me s.me := hor.statOnly (by simp)
  have hsr (n : Nat) : (u.acquire.putS f.d.sreg w).me.srGet n = u.me.srGet n := by rw [hme, Ctx.srGet_setS]
  have hput : (u.putS f.d.sreg w).me = u.me.setS f.d.sreg w := State.putS_me_of rfl _ _
  have hregs : RegsKept { regs := [f.d.sreg], stats := [bORACE] } s (u.acquire.putS f.d.sreg w) :=
    RegsKept.trans (t := u) (hso.regsKept (by simp)) (((u.putS_kept f.d.sreg w).regs.mono (by simp) (by simp) (by simp) (by simp)
      (by simp) (by simp) (by simp) (by simp)).congr rfl (hme.trans hput.symm))
  have hcur : (u.acquire.putS f.d.sreg w).cur = s.cur := u.acquire_cur.trans (s.received_cur ..)
  have hmem : MemKept u (u.acquire.putS f.d.sreg w) := u.acquire_memKept.trans (State.putS_kept _ _ _).mem
  have hread : (u.acquire.putS f.d.sreg w).stallRead c o 64 = u.stallRead c o 64 := by
    obtain ⟨_, _, hacq⟩ := u.acquireFor_eq u.cur.core u.cur.ctx
    refine State.stallRead_of_mem ?_ _ _ _
    show (u.acquireFor u.cur.core u.cur.ctx).mem = u.mem
    rw [hacq]
  refine (gives_done_from (b := false) (w := { regs := [f.d.sreg], stats := [bORACE] }) h (exec_recv f s)
    (recvBody_receives hp hen hcount hfirst hpois) rfl hcur hregs ?_ ?_ fun n h1 h2 => ?_).imp
    fun t ⟨hv, hctx, _, hk, hd⟩ => ⟨?_, ?_, fun q => ?_, hk, ?_, by rwa [Bool.or_false] at hd⟩
  · rw [Ctx.statBit_of_sr (hsr _), hso.stat _ (by decide) (by decide), h.noStep]
  · rw [Ctx.statBit_of_sr (hsr _), hso.stat _ (by decide) (by decide), Bool.or_false]
  · rw [hsr, hso.loops n h1 h2]
  · rw [hv.stallRead, hread, s.received_stallRead]
  · have hchan : (t.core s.cur.core).chan f.a.num = (u.core s.cur.core).chan f.a.num := by
      unfold Core.chan Core.srGet
      rw [(hv.shared _).1, ((u.acquire.putS_kept _ _).rest.shared _).1]
      obtain ⟨_, hfirst⟩ := (u.acquireFor_firstLevel u.cur.core u.cur.ctx).core s.cur.core
      rw [show u.acquire.core s.cur.core = _ from hfirst]
    rw [hchan, s.received_chan hen]
  · rw [hctx.sreg, hme, Ctx.sreg_setS_iff, hor.as.sreg]
  · exact .of_as hv ((s.received_store c o f.a.num r).then_memKept hmem)

end Recv

/-- Settles O21: SEND's checks and its post, the ways of a message that arrives, and the ring that RECV and RPROBE read. -/
theorem messages : Obligations.Messages := by
  unfold Obligations.Messages
  refine ⟨fun f s h => ⟨traps_send_laflt h, fun c o hp => ⟨fun hl => traps_send_msgfmt h hp (hl.imp_right .inl),
      fun _ _ hend => traps_send_msgfmt h hp (.inr (.inr hend)), fun h1 h56 hend => ⟨traps_send_meshpart h hp h1 h56 hend,
      fun hc hrel => ⟨held_send h hp h1 h56 hend hc hrel, gives_send h hp h1 h56 hend hc hrel⟩⟩⟩⟩,
    fun s id m hm => ⟨happens_message_queued hm, fun hf hn hb hr => happens_message_overflows hm hf ⟨hn, hb, hr⟩,
      fun hf hd => happens_message_dropped hm hf ?_⟩,
    fun f s => ⟨fun h e => traps_recv h, fun h c o hp => ⟨gives_recv_disabled h hp, held_recv h hp, gives_recv h hp⟩,
      fun h => writes_of_putS h (exec_rprobe f s) rfl⟩⟩
  rintro ⟨hn, hb, hr⟩
  rcases hd with hd | hd | hd
  · exact absurd hn (Nat.not_lt.mpr hd)
  · exact hb hd
  · exact absurd (hr.symm.trans hd) (by decide)

end Sys2Proof.Machine
end

section
/-! SUPPORT. The commands of engine programs (R191, R193, R377 to R381): O43. -/
namespace Sys2Proof.Machine

/-! The acting sequencer. -/

/-- A sequencer that goes on to the next slot, its command's guard used up (R191, R193, R381). -/
def Seq.next (q : Seq) : Seq := { (q.goTo ((q.pos + 16) % 65536) 3) with skip := false, vnext := none }

theorem Seq.goTo_live (fuel : Nat) (q : Seq) (pos : Nat) : (q.goTo pos fuel).live = q.live := by
  induction fuel generalizing q with
  | zero => rfl
  | succ fuel ih =>
    unfold Seq.goTo
    split
    · rfl
    · split
      · rfl
      · split
        · rfl
        · exact ih _

theorem State.mySeq_of_core {s t : State} (hc : t.cur = s.cur) (hm : t.myCore.mseq = s.myCore.mseq) (hq : t.myCore.cseq = s.myCore.cseq) :
    t.mySeq = s.mySeq := by
  unfold State.mySeq
  rw [hc, hm, hq]

theorem CoresAs.mySeq {s t : State} (h : CoresAs t s) (hc : t.cur = s.cur) : t.mySeq = s.mySeq := by
  obtain ⟨_, hk⟩ := h s.cur.core
  have hmy : t.myCore = t.core s.cur.core := by unfold State.myCore; rw [hc]
  exact State.mySeq_of_core hc (by rw [hmy, hk]; rfl) (by rw [hmy, hk]; rfl)

theorem State.setCtx_cores (s : State) (n c : Nat) (x : Ctx) : CoresAs (s.setCtx n c x) s := fun m => s.core_setCtx_eq n c m x

theorem State.warnIf_coresAs (s : State) (b : Bool) : CoresAs (s.warnIf b) s := by
  unfold State.warnIf
  split
  · exact s.setCtx_cores _ _ _
  · exact .refl s

/-- What a change of the acting sequencer leaves. -/
theorem State.modSeq_mySeq (s : State) (g : Seq → Seq) : (s.modSeq g).mySeq = g s.mySeq := by
  have hcur : (s.modSeq g).cur = s.cur := rfl
  unfold State.mySeq State.myCore
  rw [hcur]
  unfold State.modSeq
  rw [State.core_modCore, if_pos rfl]
  cases s.cur.unit <;> rfl

theorem State.modSeq_ctx (s : State) (g : Seq → Seq) (n c : Nat) : (s.modSeq g).ctx n c = s.ctx n c := by
  unfold State.modSeq
  refine s.ctx_modCore_of_ctxs _ (fun k => ?_) n c
  cases s.cur.unit <;> rfl

theorem State.payCore_mySeq (s : State) (cost : Nat) (n c : Nat) : (s.payCore n c cost).mySeq = s.mySeq := by
  have hcur := s.payCore_cur n c cost
  obtain ⟨_, _, _, hk⟩ := s.payCore_core n c cost s.cur.core
  have hmy : (s.payCore n c cost).myCore = (s.payCore n c cost).core s.cur.core := by unfold State.myCore; rw [hcur]
  exact State.mySeq_of_core hcur (by rw [hmy, hk]; rfl) (by rw [hmy, hk]; rfl)

/-! How a command ends its turn. -/

/-- The state in which a command's effect, `t`, is paid for and its sequencer has moved (R191, R436). -/
def State.seqMoved (s : State) (cost : Nat) (t : State) (g : Seq → Seq) : State := (t.payCore s.cur.core s.cur.ctx cost).modSeq g

/-- What a command's end leaves of its effect: memory, and contexts but for what they are charged. -/
structure SeqMoved (s t v : State) (g : Seq → Seq) : Prop where
  cur : v.cur = s.cur
  seq : v.mySeq = g t.mySeq
  mem : MemKept t v
  ctx : ∀ n c, CtxCharged (v.ctx n c) (t.ctx n c)

theorem State.seqMoved_of {s t : State} (hc : t.cur = s.cur) (cost : Nat) (g : Seq → Seq) : SeqMoved s t (s.seqMoved cost t g) g where
  cur := (t.payCore_cur _ _ _).trans hc
  seq := by
    unfold State.seqMoved
    rw [State.modSeq_mySeq, State.payCore_mySeq]
  mem := (t.payCore_frame s.cur.core s.cur.ctx cost).memKept.trans (.of_eq rfl rfl rfl rfl)
  ctx n c := by
    unfold State.seqMoved
    rw [State.modSeq_ctx]
    exact (t.payCore_frame _ _ _).ctx n c

/-- The outcome of a command by how it ends its turn (R191). -/
def SlotRes.outcome (cost : Nat) (s : State) : SlotRes → Host.Outcome State Fault Refusal
  | .done t => .next (s.seqMoved cost t Seq.next)
  | .free t => .next (t.modSeq Seq.next)
  | .wait => .next s
  | .jump t pos => .next (s.seqMoved cost t fun q => { q with loops := [], pos := pos, gapped := false, skip := false, vnext := none })
  | .loop t l => .next (s.seqMoved cost t fun q =>
      { q with loops := q.loops ++ [l], pos := l.first, gapped := false, skip := false, vnext := none })
  | .skip t n => .next (s.seqMoved cost t fun q =>
      { (q.goTo ((q.pos + 16 * (n + 1)) % 65536) 3) with skip := false, vnext := none })
  | .armed t sk v => .next (s.seqMoved cost t fun q => { q.next with skip := sk, vnext := v })
  | .stop t code => .next ((if code == 0 then t.payCore s.cur.core s.cur.ctx cost else t).stopProgram s.cur.core s.cur.unit code)

/-- A sequencer that performs its command goes by how the command ends. -/
theorem slotIssue_runs {f : Form} {u : AgentUnit} {cost : Nat} {s : State} (h : Commands f u cost s) {units : List AgentUnit}
    (hu : units.contains u = true) (body : State → SlotRes) : slotIssue f units cost body s = (body s).outcome cost s := by
  have hgap : (gapOf f != 0 && !s.mySeq.gapped) = false := by
    rcases h.gap with hg | hg <;> simp [hg]
  unfold slotIssue
  dsimp only
  rw [if_neg (by rw [h.agent]; decide), if_neg (by rw [h.unit.1, hu, h.word]; decide), if_neg (by rw [hgap]; decide),
    if_neg (by rw [h.noSkip]; decide), if_neg (by rw [h.pays]; decide)]
  cases body s <;> rfl

theorem units_contains {u : AgentUnit} (hu : u ≠ .context) : [AgentUnit.matrixSeq, .copySeq].contains u = true := by
  cases u
  · exact absurd rfl hu
  · rfl
  · rfl

/-- A command of major 0xD0 of a sequencer (R379 to R381). -/
theorem programCommand_runs {f : Form} {u : AgentUnit} {s : State} (h : Commands f u 4 s) (body : State → SlotRes) :
    programCommand f body s = (body s).outcome 4 s := by
  unfold programCommand
  obtain ⟨hunit, hne⟩ := h.unit
  rw [if_neg (by rw [hunit]; simpa using hne)]
  exact slotIssue_runs h (units_contains hne) body

/-- What a command keeps of its state: memory, and the scalar registers of contexts. -/
def CommandKept (s t : State) : Prop := MemKept s t ∧ ∀ c r, (t.ctx s.cur.core c).sreg r = (s.ctx s.cur.core c).sreg r

theorem SeqMoved.kept {s v : State} {g : Seq → Seq} (h : SeqMoved s s v g) : CommandKept s v :=
  ⟨h.mem, fun c r => (h.ctx s.cur.core c).sreg r⟩

/-- A sequencer that has moved on with its effect made. -/
theorem SeqMoved.goesOn {s t v : State} (h : SeqMoved s t v Seq.next) (ht : t.mySeq = s.mySeq) : GoesOn s v := by
  unfold GoesOn
  dsimp only
  rw [h.seq, ht]
  exact ⟨h.cur, rfl, rfl, rfl, rfl, rfl, Seq.goTo_live _ _ _⟩

/-! Moves of a sequencer (R381). -/

section GoTo
variable {q : Seq} {l : ELoop} {rest : List ELoop} (hq : q.loops = rest ++ [l]) (pos fuel : Nat)
include hq

theorem Seq.goTo_inside (hp : pos ≠ (l.first + 16 * l.n) % 65536) :
    (q.goTo pos (fuel + 1)).pos = pos ∧ (q.goTo pos (fuel + 1)).loops = q.loops := by
  unfold Seq.goTo
  rw [hq, List.getLast?_concat]
  dsimp only
  rw [if_pos (by simpa using hp)]
  exact ⟨rfl, rfl⟩

theorem Seq.goTo_again (hp : pos = (l.first + 16 * l.n) % 65536) (hr : 1 < l.rem) : (q.goTo pos (fuel + 1)).pos = l.first ∧
    (q.goTo pos (fuel + 1)).loops = rest ++ [{ l with rem := l.rem - 1 }] ∧
    ∀ r, (q.goTo pos (fuel + 1)).regs.get r 0 = if r = l.reg ∧ r ≠ 0 then q.regs.get r 0 + BitVec.ofInt 64 l.step
      else q.regs.get r 0 := by
  unfold Seq.goTo
  rw [hq, List.getLast?_concat]
  dsimp only
  rw [if_neg (by simpa using hp), if_pos hr]
  refine ⟨rfl, by rw [List.dropLast_concat], fun r => ?_⟩
  show (if l.reg == 0 then q.regs else q.regs.set l.reg (q.regs.get l.reg 0 + BitVec.ofInt 64 l.step) 0).get r 0 = _
  by_cases h0 : l.reg = 0
  · rw [if_pos (by simpa using h0), if_neg (by rw [h0]; omega)]
  · rw [if_neg (by simpa using h0), Assoc.get_set]
    by_cases hrl : r = l.reg
    · rw [if_pos hrl, if_pos ⟨hrl, by rw [hrl]; exact h0⟩, hrl]
    · rw [if_neg hrl, if_neg fun h => hrl h.1]

theorem Seq.goTo_out (hp : pos = (l.first + 16 * l.n) % 65536) (hr : l.rem ≤ 1) (h1 : rest = []) :
    (q.goTo pos (fuel + 2)).pos = pos ∧ (q.goTo pos (fuel + 2)).loops = [] := by
  subst h1
  unfold Seq.goTo
  rw [hq, List.getLast?_concat]
  dsimp only
  rw [if_neg (by simpa using hp), if_neg (by omega), List.dropLast_concat]
  exact ⟨rfl, rfl⟩

end GoTo

/-! The end of a program (R191, R298). -/

/-- A state whose memory, scalar registers and sequencers are another's. -/
structure SeqsKept (t s : State) : Prop where
  mem : MemKept s t
  sreg : ∀ n c r, (t.ctx n c).sreg r = (s.ctx n c).sreg r
  seqs : ∀ n, (t.core n).mseq = (s.core n).mseq ∧ (t.core n).cseq = (s.core n).cseq

theorem SeqsKept.refl (s : State) : SeqsKept s s := ⟨.refl s, fun _ _ _ => rfl, fun _ => ⟨rfl, rfl⟩⟩

theorem SeqsKept.trans {s t u : State} (h : SeqsKept u t) (g : SeqsKept t s) : SeqsKept u s where
  mem := g.mem.trans h.mem
  sreg n c r := (h.sreg n c r).trans (g.sreg n c r)
  seqs n := ⟨(h.seqs n).1.trans (g.seqs n).1, (h.seqs n).2.trans (g.seqs n).2⟩

theorem SeqsKept.modCtx (s : State) (n c : Nat) (g : Ctx → Ctx) (hg : ∀ x r, (g x).sreg r = x.sreg r) : SeqsKept (s.modCtx n c g) s where
  mem := .of_eq rfl rfl rfl rfl
  sreg m d r := by
    rw [State.ctx_modCtx]
    split
    next h => rw [hg, h.1, h.2]
    next => rfl
  seqs m := by
    obtain ⟨_, hk⟩ := s.core_setCtx_eq n c m (g (s.ctx n c))
    rw [show (s.modCtx n c g).core m = _ from hk]
    exact ⟨rfl, rfl⟩

theorem SeqsKept.modCore (s : State) (n : Nat) (g : Core → Core)
    (hg : ∀ k, (g k).ctxs = k.ctxs ∧ (g k).mseq = k.mseq ∧ (g k).cseq = k.cseq) : SeqsKept (s.modCore n g) s where
  mem := .of_eq rfl rfl rfl rfl
  sreg m d r := by rw [s.ctx_modCore_of_ctxs g fun k => (hg k).1]
  seqs m := by
    rw [State.core_modCore]
    split
    next h => rw [h]; exact (hg _).2
    next => exact ⟨rfl, rfl⟩

theorem State.offerRecords_seqsKept (s : State) (n : Nat) : SeqsKept (s.offerRecords n) s := by
  obtain ⟨_, h⟩ := s.offerRecords_due n
  rw [h]
  exact ⟨.of_eq rfl rfl rfl rfl, fun _ _ _ => rfl, fun _ => ⟨rfl, rfl⟩⟩

theorem State.drainEnd_seqsKept (s : State) (n c : Nat) : SeqsKept (s.drainEnd n c) s := by
  unfold State.drainEnd
  split
  · exact .refl s
  · split
    · refine ((State.offerRecords_seqsKept _ _).trans (.modCore _ _ _ ?_)).trans (.modCtx _ _ _ _ ?_)
      · exact fun _ => ⟨rfl, rfl, rfl⟩
      · exact fun _ _ => rfl
    · exact .modCore _ _ _ fun _ => ⟨rfl, rfl, rfl⟩

/-- The core in which a sequencer's program has ended. -/
def Core.programEnded (k : Core) (u : AgentUnit) : Core :=
  if u == .matrixSeq then { k with mseq := { k.mseq with live := false } } else { k with cseq := { k.cseq with live := false } }

/-- What a stopped program leaves beyond its sequencer concerns the owner's fork and DRAIN state. -/
theorem SeqsKept.owner_end (s : State) (n o : Nat) (g : Ctx → Ctx) (hg : ∀ x r, (g x).sreg r = x.sreg r) :
    SeqsKept (((s.modCtx n o g).modCore n fun k =>
      if !k.mseq.live && !k.cseq.live then { k with seqOwner := none } else k).drainEnd n o) s := by
  refine (State.drainEnd_seqsKept _ _ _).trans ((SeqsKept.modCore _ _ _ fun k => ?_).trans (.modCtx _ _ _ _ hg))
  split <;> exact ⟨rfl, rfl, rfl⟩

theorem State.stopProgram_seqsKept (s : State) (n : Nat) (u : AgentUnit) (code : Nat) :
    SeqsKept (s.stopProgram n u code) (s.modCore n (·.programEnded u)) := by
  unfold State.stopProgram
  extract_lets k q slot k' ended
  have hk : ended = s.modCore n (·.programEnded u) := by cases u <;> rfl
  rw [hk]
  split
  · exact .refl _
  · exact .owner_end _ _ _ _ fun _ _ => rfl

theorem Core.programEnded_eq (k : Core) (u : AgentUnit) : (k.programEnded u).ctxs = k.ctxs ∧
    (u = .matrixSeq → (k.programEnded u).mseq.live = false) ∧ (u = .copySeq → (k.programEnded u).cseq.live = false) := by
  cases u
  · exact ⟨rfl, nofun, nofun⟩
  · exact ⟨rfl, fun _ => rfl, nofun⟩
  · exact ⟨rfl, nofun, fun _ => rfl⟩

/-- A program that has ended keeps memory and registers (R191). -/
theorem State.stopProgram_ends (s : State) (n : Nat) (u : AgentUnit) (code : Nat) :
    let t := s.stopProgram n u code
    (u = .matrixSeq → (t.core n).mseq.live = false) ∧ (u = .copySeq → (t.core n).cseq.live = false) ∧ MemKept s t ∧
      ∀ m c r, (t.ctx m c).sreg r = (s.ctx m c).sreg r := by
  have hk := s.stopProgram_seqsKept n u code
  obtain ⟨hm, hq⟩ := hk.seqs n
  rw [State.core_modCore, if_pos rfl] at hm hq
  obtain ⟨-, hmat, hcopy⟩ := (s.core n).programEnded_eq u
  have hmem : MemKept s (s.modCore n (·.programEnded u)) := .of_eq rfl rfl rfl rfl
  refine ⟨fun h => by rw [hm]; exact hmat h, fun h => by rw [hq]; exact hcopy h, hmem.trans hk.mem, fun m c r => ?_⟩
  rw [hk.sreg, s.ctx_modCore_of_ctxs (·.programEnded u) fun k => (k.programEnded_eq u).1]

/-! EWAIT, EGUARD, ELOOP, EJMP and EEND (R193, R380, R381). -/

def ewaitBody (f : Form) (s : State) : SlotRes :=
  if f.a.isNone then (if s.mySeq.ops.isEmpty then .done s else .wait)
  else match syncPlace s.cur.core (s.engAddr f.a) with
    | .error _ => .stop s ecILLEGAL
    | .ok (c, o) => if genPassed (swGen (s.syncWord c o)) (fieldOf (s.engVal f.b) 0 24) then .done s else .wait

def eguardBody (f : Form) (s : State) : SlotRes :=
  match s.me.guard f.d.num with
  | .hold => .wait
  | .run => .armed (s.modMe (·.setGuard f.d.num .hold)) false (some (s.me.gvcnt.get f.d.num 0).toNat)
  | .skip => .armed (s.modMe (·.setGuard f.d.num .hold)) true none

def eloopBody (f : Form) (s : State) : SlotRes :=
  if bits f.d.immU 0 8 == 0 || 2 ≤ s.mySeq.loops.length then .stop s ecILLEGAL
  else if f.b.immU == 0 then .skip s (bits f.d.immU 0 8)
  else .loop s ⟨f.b.immU, bits f.d.immU 0 8, (s.mySeq.pos + 16) % 65536, 64 * sxInt 8 (bits f.d.immU 8 8), f.a.sreg⟩

def ejmpBody (f : Form) (s : State) : SlotRes :=
  if (s.mySeq.pos + 16 * f.b.immS : Int) < 0 || 65536 ≤ (s.mySeq.pos + 16 * f.b.immS : Int) then .stop s ecILLEGAL
  else .jump s (s.mySeq.pos + 16 * f.b.immS : Int).toNat

section Program
variable {f : Form} {u : AgentUnit} {s : State} (h : Commands f u 4 s)
include h

theorem exec_ewait : exec (.ewait f) s = (ewaitBody f s).outcome 4 s := programCommand_runs h (ewaitBody f)
theorem exec_eguard : exec (.eguard f) s = (eguardBody f s).outcome 4 s := programCommand_runs h (eguardBody f)
theorem exec_eloop : exec (.eloop f) s = (eloopBody f s).outcome 4 s := programCommand_runs h (eloopBody f)
theorem exec_ejmp : exec (.ejmp f) s = (ejmpBody f s).outcome 4 s := programCommand_runs h (ejmpBody f)
theorem exec_eend : exec (.eend f) s = (SlotRes.stop s 0).outcome 4 s := programCommand_runs h fun s => .stop s 0

omit h in
/-- A command without an effect of its own that lets its sequencer go on. -/
theorem gives_goesOn {i : Instr} {r : SlotRes} (he : exec i s = r.outcome 4 s) (hr : r = .done s) :
    Gives i s fun t => GoesOn s t ∧ CommandKept s t := by
  have hm := State.seqMoved_of (s := s) (t := s) rfl 4 Seq.next
  exact ⟨_, by rw [he, hr]; rfl, hm.goesOn rfl, hm.kept⟩

omit h in
theorem exec_stays {i : Instr} {r : SlotRes} (he : exec i s = r.outcome 4 s) (hr : r = .wait) : exec i s = .next s := by
  rw [he, hr]
  rfl

theorem exec_stops {i : Instr} {r : SlotRes} (he : exec i s = r.outcome 4 s) (hr : r = .stop s ecILLEGAL) :
    exec i s = .next (s.stopProgram s.cur.core u 0x10) := by
  rw [he, hr, ← h.unit.1]
  rfl

omit h in
theorem ewaitBody_none (ha : f.a = .none) : ewaitBody f s = if s.mySeq.ops.isEmpty then .done s else .wait := by
  unfold ewaitBody
  exact if_pos (by rw [ha]; rfl)

omit h in
theorem ewaitBody_word {c o : Nat} (ha : f.a ≠ .none) (hp : syncPlace s.cur.core (s.engAddr f.a) = .ok (c, o)) :
    ewaitBody f s = if 0 < genPast (s.stallRead c o 16) (s.engVal f.b).toNat ∧ genPast (s.stallRead c o 16) (s.engVal f.b).toNat < 2 ^ 23
      then .done s else .wait := by
  have hn : ¬f.a.isNone = true := fun e => ha ((Operand.isNone_iff f.a).mp e)
  rw [ewaitBody, if_neg hn, hp]
  dsimp only
  exact if_congr (genPassed_iff _ _) rfl rfl

omit h in
/-- What EGUARD leaves of the state whose slot it consumes (R193). -/
theorem eguard_consumes (g : Nat) (k : Seq → Seq) :
    let v := s.seqMoved 4 (s.modMe (·.setGuard g .hold)) k
    v.mySeq = k s.mySeq ∧ v.me.guard g = .hold ∧ CommandKept s v := by
  intro v
  let t := s.modMe (·.setGuard g .hold)
  have hm : SeqMoved s t v k := State.seqMoved_of (s := s) (t := t) rfl 4 k
  have hseq : t.mySeq = s.mySeq := (s.setCtx_cores _ _ _).mySeq rfl
  have hk : SeqsKept t s := .modCtx s _ _ (·.setGuard g .hold) fun _ _ => rfl
  refine ⟨hm.seq.trans (congrArg k hseq), ?_, hk.mem.trans hm.mem, fun c r => ((hm.ctx _ c).sreg r).trans (hk.sreg _ c r)⟩
  obtain ⟨⟨_, _, _, hx⟩, -⟩ := hm.ctx s.cur.core s.cur.ctx
  rw [State.me_eq hm.cur, hx]
  show (t.ctx s.cur.core s.cur.ctx).guard g = .hold
  rw [State.ctx_modMe, if_pos ⟨rfl, rfl⟩]
  exact Assoc.get_set_self s.me.guards g .hold .hold

theorem gives_eguard_run {g : Nat} (hd : f.d = .slot g) (hg : s.me.guard g = .run) : Gives (.eguard f) s fun t =>
    t.mySeq.pos = (s.mySeq.goTo ((s.mySeq.pos + 16) % 65536) 3).pos ∧ t.mySeq.skip = false ∧
      t.mySeq.vnext = some (s.me.gvcnt.get g 0).toNat ∧ t.me.guard g = .hold ∧ CommandKept s t := by
  have hbody : eguardBody f s = .armed (s.modMe (·.setGuard g .hold)) false (some (s.me.gvcnt.get g 0).toNat) := by
    rw [eguardBody, show f.d.num = g from congrArg Operand.num hd, hg]
  obtain ⟨hseq, hguard, hk⟩ := eguard_consumes (s := s) g fun q =>
    { q.next with skip := false, vnext := some (s.me.gvcnt.get g 0).toNat }
  refine ⟨_, (exec_eguard h).trans (by rw [hbody]; rfl), ?_⟩
  dsimp only
  rw [hseq]
  exact ⟨rfl, rfl, rfl, hguard, hk⟩

theorem gives_eguard_skip {g : Nat} (hd : f.d = .slot g) (hg : s.me.guard g = .skip) : Gives (.eguard f) s fun t =>
    t.mySeq.pos = (s.mySeq.goTo ((s.mySeq.pos + 16) % 65536) 3).pos ∧ t.mySeq.skip = true ∧ t.me.guard g = .hold ∧
      CommandKept s t := by
  have hbody : eguardBody f s = .armed (s.modMe (·.setGuard g .hold)) true none := by
    rw [eguardBody, show f.d.num = g from congrArg Operand.num hd, hg]
  obtain ⟨hseq, hguard, hk⟩ := eguard_consumes (s := s) g fun q => { q.next with skip := true, vnext := none }
  refine ⟨_, (exec_eguard h).trans (by rw [hbody]; rfl), ?_⟩
  dsimp only
  rw [hseq]
  exact ⟨rfl, rfl, hguard, hk⟩

theorem exec_eguard_hold {g : Nat} (hd : f.d = .slot g) (hg : s.me.guard g = .hold) : exec (.eguard f) s = .next s :=
  exec_stays (exec_eguard h) (by rw [eguardBody, show f.d.num = g from congrArg Operand.num hd, hg])

omit h in
theorem eloopBody_of_good (hn : bits f.d.immU 0 8 ≠ 0) (hl : s.mySeq.loops.length < 2) : eloopBody f s =
    if f.b.immU == 0 then .skip s (bits f.d.immU 0 8)
    else .loop s ⟨f.b.immU, bits f.d.immU 0 8, (s.mySeq.pos + 16) % 65536, 64 * sxInt 8 (bits f.d.immU 8 8), f.a.sreg⟩ :=
  if_neg (by simp [hn]; omega)

theorem gives_eloop_skip (hn : bits f.d.immU 0 8 ≠ 0) (hl : s.mySeq.loops.length < 2) (hb : f.b.immU = 0) :
    Gives (.eloop f) s fun t =>
      t.mySeq.pos = (s.mySeq.goTo ((s.mySeq.pos + 16 * (bits f.d.immU 0 8 + 1)) % 65536) 3).pos ∧ CommandKept s t := by
  have hbody : eloopBody f s = .skip s (bits f.d.immU 0 8) := (eloopBody_of_good hn hl).trans (if_pos (by simpa using hb))
  have hm := State.seqMoved_of (s := s) (t := s) rfl 4 fun q =>
    { (q.goTo ((q.pos + 16 * (bits f.d.immU 0 8 + 1)) % 65536) 3) with skip := false, vnext := none }
  refine ⟨_, (exec_eloop h).trans (by rw [hbody]; rfl), ?_, hm.kept⟩
  rw [hm.seq]

theorem gives_eloop_enters (hn : bits f.d.immU 0 8 ≠ 0) (hl : s.mySeq.loops.length < 2) (hb : f.b.immU ≠ 0) :
    Gives (.eloop f) s fun t => t.mySeq.pos = (s.mySeq.pos + 16) % 65536 ∧
      t.mySeq.loops = s.mySeq.loops ++ [⟨f.b.immU, bits f.d.immU 0 8, (s.mySeq.pos + 16) % 65536, 64 * sxInt 8 (bits f.d.immU 8 8),
        f.a.sreg⟩] ∧ CommandKept s t := by
  let l : ELoop := ⟨f.b.immU, bits f.d.immU 0 8, (s.mySeq.pos + 16) % 65536, 64 * sxInt 8 (bits f.d.immU 8 8), f.a.sreg⟩
  have hbody : eloopBody f s = .loop s l := (eloopBody_of_good hn hl).trans (if_neg (by simpa using hb))
  have hm := State.seqMoved_of (s := s) (t := s) rfl 4 fun q =>
    { q with loops := q.loops ++ [l], pos := l.first, gapped := false, skip := false, vnext := none }
  exact ⟨_, (exec_eloop h).trans (by rw [hbody]; rfl), congrArg Seq.pos hm.seq, congrArg Seq.loops hm.seq, hm.kept⟩

theorem exec_eloop_bad (hb : bits f.d.immU 0 8 = 0 ∨ 2 ≤ s.mySeq.loops.length) :
    exec (.eloop f) s = .next (s.stopProgram s.cur.core u 0x10) :=
  exec_stops h (exec_eloop h) (if_pos (by simpa using hb))

theorem exec_ejmp_bad (ht : (s.mySeq.pos + 16 * f.b.immS : Int) < 0 ∨ 65536 ≤ (s.mySeq.pos + 16 * f.b.immS : Int)) :
    exec (.ejmp f) s = .next (s.stopProgram s.cur.core u 0x10) :=
  exec_stops h (exec_ejmp h) (if_pos (by simpa using ht))

theorem gives_ejmp (h0 : 0 ≤ (s.mySeq.pos + 16 * f.b.immS : Int)) (h1 : (s.mySeq.pos + 16 * f.b.immS : Int) < 65536) :
    Gives (.ejmp f) s fun t => (t.mySeq.pos : Int) = s.mySeq.pos + 16 * f.b.immS ∧ t.mySeq.loops = [] ∧ CommandKept s t := by
  have hbody : ejmpBody f s = .jump s (s.mySeq.pos + 16 * f.b.immS : Int).toNat := if_neg (by simp; omega)
  have hm := State.seqMoved_of (s := s) (t := s) rfl 4 fun q => { q with
    loops := [], pos := (s.mySeq.pos + 16 * f.b.immS : Int).toNat, gapped := false, skip := false, vnext := none }
  refine ⟨_, (exec_ejmp h).trans (by rw [hbody]; rfl), ?_, congrArg Seq.loops hm.seq, hm.kept⟩
  rw [congrArg Seq.pos hm.seq]
  exact Int.toNat_of_nonneg h0

theorem gives_eend : Gives (.eend f) s fun t =>
    (u = .matrixSeq → (t.core s.cur.core).mseq.live = false) ∧ (u = .copySeq → (t.core s.cur.core).cseq.live = false) ∧
      CommandKept s t := by
  have hp := s.payCore_frame s.cur.core s.cur.ctx 4
  obtain ⟨hm, hc, hmem, hs⟩ := (s.payCore s.cur.core s.cur.ctx 4).stopProgram_ends s.cur.core u 0
  refine ⟨(s.payCore s.cur.core s.cur.ctx 4).stopProgram s.cur.core u 0, ?_, hm, hc, hp.memKept.trans hmem, fun c r =>
    (hs _ c r).trans ((hp.ctx _ c).sreg r)⟩
  rw [exec_eend h, ← h.unit.1]
  rfl

end Program

/-! SWINIT and CBSET of a copy program (R340, R342). -/

section Copy
variable {f : Form} {s : State} (h : Commands f .copySeq 16 s)
include h

omit h in
/-- A command whose effect is a store in a stall, and that lets its sequencer go on. -/
theorem gives_store {i : Instr} {r : SlotRes} {u : State} {c o n : Nat} (he : exec i s = r.outcome 16 s) (hr : r = .done u)
    (hcur : u.cur = s.cur) (hseq : u.mySeq = s.mySeq) (hst : StallStore c o n s u) :
    Gives i s fun t => t.stallRead c o n = u.stallRead c o n ∧ StallStore c o n s t ∧ GoesOn s t := by
  have hm := State.seqMoved_of hcur 16 Seq.next
  exact ⟨s.seqMoved 16 u Seq.next, by rw [he, hr]; rfl, (u.payCore_as s.cur.core s.cur.ctx 16).stallRead c o n, hst.then_memKept hm.mem, hm.goesOn hseq⟩

theorem exec_slot_swinit {c o : Nat} (hp : syncPlace s.cur.core (s.engAddr f.d) = .ok (c, o)) :
    exec (.swinit f) s = (SlotRes.done (swInit s c o (s.engVal f.a))).outcome 16 s := by
  show execSwinit f s = _
  unfold execSwinit
  rw [if_neg (by rw [h.unit.1]; decide)]
  refine (slotIssue_runs h rfl _).trans ?_
  rw [hp]

theorem gives_slot_swinit {c o : Nat} (hp : syncPlace s.cur.core (s.engAddr f.d) = .ok (c, o)) : Gives (.swinit f) s fun t =>
    t.stallRead c o 16 = initWord (s.engVal f.a).toNat (s.stallRead c o 16) ∧ StallStore c o 16 s t ∧ GoesOn s t := by
  let v := initWord (s.engVal f.a).toNat (s.stallRead c o 16)
  let b := decide (bits (s.engVal f.a).toNat 40 24 ≠ 0)
  have has := State.warnIf_as (s.stallWrite c o 16 v) b
  have hst := s.stallWrite_stored c o 16 v
  have hcur := has.cur.trans hst.cur
  have hcores := (State.warnIf_coresAs (s.stallWrite c o 16 v) b).trans (s.stallWrite_cores c o 16 v)
  refine (gives_store (exec_slot_swinit h hp) (congrArg SlotRes.done (swInit_eq ..)) hcur (hcores.mySeq hcur)
    ((s.stallWrite_stallStore c o 16 v).of_as has)).imp fun t ⟨hr, hs, hgo⟩ => ⟨?_, hs, hgo⟩
  rw [hr, has.stallRead, State.stallRead_stallWrite]
  exact Nat.mod_eq_of_lt (bits_initWord ..).1

omit h in
/-- Marks of poison change nothing that a command reads. -/
theorem State.stallMarks_kept (t : State) (c o : Nat) (l : List Nat) :
    let u := l.foldl (fun t i => t.stallMark c (o + i) 4) t
    u.cur = t.cur ∧ u.mem = t.mem ∧ CoresAs u t ∧ u.flash = t.flash ∧ ∀ a, u.physByte a = t.physByte a := by
  induction l generalizing t with
  | nil => exact ⟨rfl, rfl, .refl t, rfl, fun _ => rfl⟩
  | cons i l ih =>
    obtain ⟨hc, hm, hk, hf, hb⟩ := ih (t.stallMark c (o + i) 4)
    exact ⟨hc, hm, hk.trans fun _ => ⟨_, rfl⟩, hf, fun a => (hb a).trans (State.physByte_congr rfl rfl a)⟩

theorem exec_slot_cbset {c o : Nat} (hla : f.a.isLa = true)
    (hp : checkLa s.cur.core (s.engAddr f.a + BitVec.ofNat 64 (8 * bits (s.engVal f.b).toNat 6 26)) 8 8 = .ok (c, o)) :
    exec (.cbset f) s = (SlotRes.done (s.stallOr c o (2 ^ bits (s.engVal f.b).toNat 0 6))).outcome 16 s := by
  show execCbset f s = _
  unfold execCbset
  rw [if_neg (by rw [h.unit.1]; decide), memCost, if_pos hla]
  refine (slotIssue_runs h rfl _).trans ?_
  rw [cbsetSlot, if_pos hla]
  have hp' : checkLa s.cur.core (cbAddr (s.engAddr f.a) (s.engVal f.b)) 8 8 = .ok (c, o) := hp
  rw [hp']
  rfl

theorem gives_slot_cbset {c o : Nat} (hla : f.a.isLa = true)
    (hp : checkLa s.cur.core (s.engAddr f.a + BitVec.ofNat 64 (8 * bits (s.engVal f.b).toNat 6 26)) 8 8 = .ok (c, o)) :
    Gives (.cbset f) s fun t => t.stallRead c o 8 = s.stallRead c o 8 ||| 2 ^ bits (s.engVal f.b).toNat 0 6 ∧
      StallStore c o 8 s t ∧ GoesOn s t := by
  let v := s.stallRead c o 8 ||| 2 ^ bits (s.engVal f.b).toNat 0 6
  obtain ⟨hcur, hmem, hcores, hflash, hbytes⟩ := (s.stallWrite c o 8 v).stallMarks_kept c o
    ([0, 4].filter fun i => (s.stallPoison c (o + i) 4).isSome)
  have hcur' := hcur.trans (s.stallWrite_stored c o 8 v).cur
  obtain ⟨hout, hfl⟩ := s.stallWrite_stallStore c o 8 v
  refine (gives_store (exec_slot_cbset h hla hp) rfl hcur' ((hcores.trans (s.stallWrite_cores c o 8 v)).mySeq hcur')
    ⟨fun a ha => (hbytes a).trans (hout a ha), hflash.trans hfl⟩).imp fun t ⟨hr, hs, hgo⟩ => ⟨?_, hs, hgo⟩
  refine hr.trans ((State.stallRead_of_mem hmem c o 8).trans ?_)
  rw [State.stallRead_stallWrite]
  exact Nat.mod_eq_of_lt (s.stallRead_setBit_lt c o (bits_lt ..))

end Copy

/-- Settles O43: each command by how it ends its turn, the ends of loops by the sequencer's moves, and the two shared commands by
their store. -/
theorem programCommands : Obligations.ProgramCommands := by
  unfold Obligations.ProgramCommands
  refine ⟨fun f s u hu h => ?_, fun q l rest pos fuel hq => ⟨Seq.goTo_inside hq pos fuel, Seq.goTo_again hq pos fuel,
    Seq.goTo_out hq pos fuel⟩, fun f s h => ?_⟩
  · refine ⟨fun ha => ⟨fun hops => ?_, fun hops => ?_⟩, fun c o ha hp => ⟨fun hg => ?_, fun hg => ?_⟩,
      fun g hd => ⟨exec_eguard_hold h hd, gives_eguard_run h hd, gives_eguard_skip h hd⟩,
      ⟨exec_eloop_bad h, fun hn hl => ⟨gives_eloop_skip h hn hl, gives_eloop_enters h hn hl⟩⟩,
      ⟨exec_ejmp_bad h, gives_ejmp h⟩, gives_eend h⟩
    · exact gives_goesOn (exec_ewait h) ((ewaitBody_none ha).trans (if_pos (by rw [hops]; rfl)))
    · exact exec_stays (exec_ewait h) ((ewaitBody_none ha).trans (if_neg (by simpa using hops)))
    · exact gives_goesOn (exec_ewait h) ((ewaitBody_word ha hp).trans (if_pos hg))
    · refine exec_stays (exec_ewait h) ((ewaitBody_word ha hp).trans (if_neg fun hg' => ?_))
      exact hg.elim (fun e => absurd hg'.1 (by rw [show genPast _ _ = 0 from e]; decide)) (fun e => absurd hg'.2 (Nat.not_lt.mpr e))
  · refine ⟨fun c o hp => (gives_slot_swinit h hp).imp fun t ⟨hw, hst, hgo⟩ => ?_, fun c o hla hp => gives_slot_cbset h hla hp⟩
    obtain ⟨-, htarget, hcount, hgen, hrest⟩ := bits_initWord (s.engVal f.a).toNat (s.stallRead c o 16)
    dsimp only
    rw [hw]
    exact ⟨htarget, hcount, hgen, hrest, hst, hgo⟩

end Sys2Proof.Machine
end

section
/-! SUPPORT. What the device's own accesses of memory keep of the launch controller's state (R72 to R91): O51. -/
namespace Sys2Proof.Machine

/-- A state as another but for memory, its caches and their charges, heat, the cores' queues and first levels, free values and events
that have come due as well: what an access of the device's own work and a core queue's push may change. -/
structure Accessed (t s : State) : Prop where
  eq : ∃ mem poison c2 tlb walks wakes cores ops heat purse free due, t = { s with
    mem := mem, poison := poison, c2 := c2, tlb := tlb, walks := walks, wakes := wakes, cores := cores, ops := ops, heat := heat,
    diePurse := purse, free := free, due := due }
  sreg : ∀ n c r, (t.ctx n c).sreg r = (s.ctx n c).sreg r
  due : ∀ e ∈ s.due, e ∈ t.due

namespace Accessed
variable {s t u : State}

theorem refl (s : State) : Accessed s s := ⟨⟨_, _, _, _, _, _, _, _, _, _, _, _, rfl⟩, fun _ _ _ => rfl, fun _ h => h⟩

theorem trans (h : Accessed u t) (g : Accessed t s) : Accessed u s := by
  refine ⟨?_, fun n c r => (h.sreg n c r).trans (g.sreg n c r), fun e he => h.due e (g.due e he)⟩
  obtain ⟨a1, a2, a3, a4, a5, a6, a7, a8, a9, a10, a11, a12, ha⟩ := h.eq
  obtain ⟨b1, b2, b3, b4, b5, b6, b7, b8, b9, b10, b11, b12, hb⟩ := g.eq
  exact ⟨a1, a2, a3, a4, a5, a6, a7, a8, a9, a10, a11, a12, by rw [ha, hb]⟩

/-- A change that touches neither contexts nor what is due. -/
theorem ofParts (s : State) (mem : List Host.Cell) (poison : NatSet) (c2 : List C2Line) (tlb : List TlbEntry) (walks : List WalkEntry)
    (wakes : List Nat) (heat : Assoc Nat) (purse : Assoc Int) (free : Nat) : Accessed { s with
      mem := mem, poison := poison, c2 := c2, tlb := tlb, walks := walks, wakes := wakes, heat := heat, diePurse := purse,
      free := free } s :=
  ⟨⟨_, _, _, _, _, _, _, _, _, _, _, _, rfl⟩, fun _ _ _ => rfl, fun _ h => h⟩

theorem modCtx (s : State) (n c : Nat) (g : Ctx → Ctx) (hg : ∀ x r, (g x).sreg r = x.sreg r) : Accessed (s.modCtx n c g) s := by
  refine ⟨⟨_, _, _, _, _, _, _, _, _, _, _, _, rfl⟩, fun m d r => ?_, fun _ h => h⟩
  rw [State.ctx_modCtx]
  split
  next h => rw [hg, h.1, h.2]
  next => rfl

theorem modCore (s : State) (n : Nat) (g : Core → Core) (hg : ∀ k, (g k).ctxs = k.ctxs) : Accessed (s.modCore n g) s :=
  ⟨⟨_, _, _, _, _, _, _, _, _, _, _, _, rfl⟩, fun m d r => by rw [s.ctx_modCore_of_ctxs g hg], fun _ h => h⟩

theorem foldl {α : Type} {f : State → α → State} (h : ∀ s a, Accessed (f s a) s) (l : List α) (s : State) : Accessed (l.foldl f s) s :=
  List.foldlRecOn (motive := fun t => Accessed t s) l _ (.refl s) fun t ht a _ => (h t a).trans ht

theorem of_pair {α : Type} {p : α × State} {a : α} (he : p = (a, t)) (h : Accessed p.2 s) : Accessed t s := by rw [he] at h; exact h

theorem of_fst {α : Type} {p : State × α} {a : α} (he : p = (t, a)) (h : Accessed p.1 s) : Accessed t s := by rw [he] at h; exact h

theorem of_triple {α β : Type} {p : α × State × β} {a : α} {b : β} (he : p = (a, t, b)) (h : Accessed p.2.1 s) : Accessed t s := by
  rw [he] at h; exact h

section
variable (h : Accessed t s)
include h

theorem clk : t.clk = s.clk := by obtain ⟨_, _, _, _, _, _, _, _, _, _, _, _, e⟩ := h.eq; rw [e]
theorem launches : t.launches = s.launches := by obtain ⟨_, _, _, _, _, _, _, _, _, _, _, _, e⟩ := h.eq; rw [e]
theorem gangs : t.gangs = s.gangs := by obtain ⟨_, _, _, _, _, _, _, _, _, _, _, _, e⟩ := h.eq; rw [e]
theorem tt : t.tt = s.tt := by obtain ⟨_, _, _, _, _, _, _, _, _, _, _, _, e⟩ := h.eq; rw [e]
theorem pkg : t.pkg = s.pkg := by obtain ⟨_, _, _, _, _, _, _, _, _, _, _, _, e⟩ := h.eq; rw [e]
theorem vfs : t.vfs = s.vfs := by obtain ⟨_, _, _, _, _, _, _, _, _, _, _, _, e⟩ := h.eq; rw [e]
theorem lq : t.lq = s.lq := by obtain ⟨_, _, _, _, _, _, _, _, _, _, _, _, e⟩ := h.eq; rw [e]
theorem lqCarry : t.lqCarry = s.lqCarry := by obtain ⟨_, _, _, _, _, _, _, _, _, _, _, _, e⟩ := h.eq; rw [e]

end

end Accessed

theorem Stored.accessed {s t : State} (h : Stored t s) : Accessed t s := by
  refine ⟨?_, h.sreg, fun e he => ?_⟩
  all_goals obtain ⟨m, p, l, w, cs, os, ht⟩ := h.eq
  · exact ⟨m, p, l, _, _, w, cs, os, _, _, _, _, ht⟩
  · rw [ht]
    exact he

theorem State.later_accessed (s : State) (d : Nat) (e : Event) : Accessed (s.later d e) s :=
  ⟨⟨_, _, _, _, _, _, _, _, _, _, _, _, rfl⟩, fun _ _ _ => rfl, fun _ h => (mem_dueInsert_iff _ _ _ _).mpr (.inr h)⟩

/-! Lines of C2 (R70 to R85). -/

theorem State.dropC1_accessed (s : State) (l : C2Line) : Accessed (s.dropC1 l) s :=
  ⟨⟨_, _, _, _, _, _, _, _, _, _, _, _, rfl⟩, (s.dropC1_moved l).sreg, fun _ h => h⟩

theorem State.chargeWb_accessed (s : State) (l : C2Line) : Accessed (s.chargeWb l) s := by
  unfold State.chargeWb
  dsimp only
  split
  · exact .modCtx s l.core l.ctx (fun x => x.srSet rC2WBS ((s.ctx l.core l.ctx).srGet rC2WBS + 1)) fun _ _ => rfl
  · exact .modCore s _ _ fun _ => rfl

theorem State.writeBack_accessed (s : State) (l : C2Line) : Accessed (s.writeBack l) s := by
  unfold State.writeBack
  split
  · exact (Accessed.ofParts _ _ _ _ _ _ _ _ _ _).trans ((State.chargeWb_accessed _ l).trans (.ofParts s _ _ _ _ _ _ _ _ _))
  · exact .refl s

theorem State.evict_accessed (s : State) (l : C2Line) : Accessed (s.evict l) s :=
  (Accessed.ofParts _ _ _ _ _ _ _ _ _ _).trans ((State.writeBack_accessed _ l).trans (s.dropC1_accessed l))

theorem State.countSr_accessed (s : State) (core ctx n : Nat) : Accessed (s.countSr core ctx n) s := .modCtx s _ _ _ fun _ _ => rfl

theorem State.addHeat_accessed (s : State) (pa : Nat) : Accessed (s.addHeat pa) s := by
  unfold State.addHeat State.setHeat
  dsimp only
  split
  · exact (State.physWrite_stored _ _ _ _).accessed.trans (.ofParts s _ _ _ _ _ _ _ _ _)
  · exact .ofParts s _ _ _ _ _ _ _ _ _

theorem State.payDie_accessed (s : State) (die cost : Nat) : Accessed (s.payDie die cost) s := .ofParts s _ _ _ _ _ _ _ _ _

theorem State.fillLine_accessed (s : State) (slice : Nat) (who : Who) (asid va : Nat) (t : Trans) (data : Option VWord) :
    Accessed (s.fillLine slice who asid va t data) s := by
  unfold State.fillLine
  dsimp only
  generalize (if t.fab = true then [] else s.remapOf (t.pline va) asid (va / 64)) = old
  have hold : Accessed (old.foldl (·.evict ·) s) s := .foldl State.evict_accessed old s
  split
  · exact .refl s
  · split
    · exact hold
    next v _ =>
      refine (State.payDie_accessed _ _ _).trans ((State.countSr_accessed _ _ _ _).trans
        ((Accessed.ofParts _ _ _ _ _ _ _ _ _ _).trans (Accessed.trans ?_ hold)))
      cases v
      · exact .refl _
      · exact (State.countSr_accessed _ _ _ _).trans (State.evict_accessed _ _)

/-! Accesses at a home (R72 to R80). -/

theorem State.translate_accessed (s : State) (die asid va : Nat) : Accessed (s.translate die asid va).2.1 s := by
  obtain ⟨l, w, h⟩ := s.translate_eq die asid va
  rw [h]
  exact .ofParts s _ _ _ _ _ _ _ _ _

theorem State.findHome_accessed (s : State) (core asid va : Nat) (need : Need) : Accessed (s.findHome core asid va need).2.1 s := by
  unfold State.findHome
  dsimp only
  split
  · exact .ofParts s _ _ _ _ _ _ _ _ _
  · have ht (die : Nat) := s.translate_accessed die asid va
    split
    next heq => exact .of_triple heq (ht _)
    next u t lat heq =>
      have hh := (Accessed.modCore t core (·.addHint asid u) fun _ => rfl).trans (.of_triple heq (ht _))
      split
      · exact hh
      · split
        · exact (Accessed.ofParts _ _ _ _ _ _ _ _ _ _).trans hh
        · exact hh

theorem State.fabricRead_accessed (s : State) (dev n : Nat) : Accessed (s.fabricRead dev n).2 s := by
  unfold State.fabricRead
  dsimp only
  split <;> exact .ofParts s _ _ _ _ _ _ _ _ _

theorem State.homeLoc_accessed (s : State) (who : Who) (asid va : Nat) (need : Need) : Accessed (s.homeLoc who asid va need).2 s := by
  have hf := s.findHome_accessed who.core asid va need
  unfold State.homeLoc
  split
  next heq => exact .of_triple heq hf
  next t _ heq =>
    have ht : Accessed t s := .of_triple heq hf
    split
    · exact (t.addHeat_accessed _).trans ht
    · split <;> exact ht
  next t _ heq =>
    have ht : Accessed t s := .of_triple heq hf
    dsimp only
    split
    · exact (State.fillLine_accessed _ _ _ _ _ _ _).trans ((t.addHeat_accessed _).trans ht)
    · split
      · exact ht
      · split
        next hr => exact (Accessed.of_pair hr (t.fabricRead_accessed _ _)).trans ht
        next hr => exact (State.fillLine_accessed _ _ _ _ _ _ _).trans ((Accessed.of_pair hr (t.fabricRead_accessed _ _)).trans ht)

theorem State.locRead_accessed (s : State) (asid : Nat) (l : Loc) (va n : Nat) : Accessed (s.locRead asid l va n).2 s := by
  unfold State.locRead
  split
  · split <;> exact .refl s
  · exact .refl s
  · split <;> (next heq => exact .of_pair heq (s.fabricRead_accessed _ n))

theorem State.revoke_accessed (s : State) (core asid vline : Nat) (ws : List Nat) : Accessed (s.revoke core asid vline ws) s :=
  .modCore s _ _ fun _ => rfl

theorem State.setLine_accessed (s : State) (l : C2Line) : Accessed (s.setLine l) s := .ofParts s _ _ _ _ _ _ _ _ _

theorem State.noteWrite_accessed (s : State) (pa n : Nat) : Accessed (s.noteWrite pa n) s := .ofParts s _ _ _ _ _ _ _ _ _

theorem State.locWrite_accessed {s t : State} {core asid : Nat} {l : Loc} {va n v : Nat}
    (h : s.locWrite core asid l va n v = .ok t) : Accessed t s := by
  unfold State.locWrite at h
  split at h
  · split at h
    · obtain rfl := Except.ok.inj h
      refine (State.noteOrace_stored _ _ _).accessed.trans ((State.noteWrite_accessed _ _ _).trans
        ((State.setLine_accessed _ _).trans (.foldl (fun t w => ?_) (wordsOf va n) s)))
      split
      · split
        · exact .refl t
        · exact t.revoke_accessed _ _ _ _
      · exact .refl t
    · obtain rfl := Except.ok.inj h
      exact .refl _
  · obtain rfl := Except.ok.inj h
    exact (s.physStore_stored _ _ _).accessed
  · split at h
    next heq =>
      obtain rfl := Except.ok.inj h
      exact .of_pair heq (s.fabricRead_accessed _ n)
    next => cases h

theorem State.locMark_accessed (s : State) (asid : Nat) (l : Loc) (va : Nat) : Accessed (s.locMark asid l va) s := by
  unfold State.locMark
  split
  · split
    · exact .ofParts s _ _ _ _ _ _ _ _ _
    · exact .refl s
  · unfold State.setPoison
    split <;> exact .ofParts s _ _ _ _ _ _ _ _ _
  · exact .refl s

theorem State.homeRead_accessed (s : State) (who : Who) (asid va n : Nat) (need : Need) :
    Accessed (s.homeRead who asid va n need).2 s := by
  have hl := s.homeLoc_accessed who asid va need
  unfold State.homeRead
  split
  next heq => exact .of_pair heq hl
  next l t heq =>
    have hr := (t.locRead_accessed asid l va n).trans (.of_pair heq hl)
    split
    next hread => exact .of_pair hread hr
    next => exact hr

theorem State.homeWrite_accessed (s : State) (who : Who) (asid va n v : Nat) (need : Need) (bad : List Nat) :
    Accessed (s.homeWrite who asid va n v need bad).2 s := by
  have hl := s.homeLoc_accessed who asid va need
  unfold State.homeWrite
  split
  next heq => exact .of_pair heq hl
  next l t heq =>
    have ht : Accessed t s := .of_pair heq hl
    split
    next hw =>
      exact (Accessed.foldl (fun u i => u.locMark_accessed _ _ _) bad _).trans
        ((State.revoke_accessed _ _ _ _ _).trans ((State.locWrite_accessed hw).trans ht))
    next => exact (Accessed.ofParts _ _ _ _ _ _ _ _ _ _).trans ht

theorem State.virtRead_accessed (s : State) (who : Who) (asid va n : Nat) (need : Need) :
    Accessed (s.virtRead who asid va n need).2 s := by
  have go (fuel : Nat) (s : State) (va n : Nat) : Accessed (State.virtRead.go who asid need s va n fuel).2 s := by
    induction fuel generalizing s va n with
    | zero => exact .refl s
    | succ fuel ih =>
      unfold State.virtRead.go
      split
      · exact .refl s
      · have hr := s.homeRead_accessed who asid va (min n (64 - va % 64)) need
        dsimp only
        split
        next heq => exact .of_pair heq hr
        next t heq =>
          have ht := (ih t (va + min n (64 - va % 64)) (n - min n (64 - va % 64))).trans (.of_pair heq hr)
          split <;> (next hgo => exact .of_pair hgo ht)
  exact go _ _ _ _

theorem State.virtWrite_accessed (s : State) (who : Who) (asid va n v : Nat) (need : Need) :
    Accessed (s.virtWrite who asid va n v need).2 s := by
  have go (fuel : Nat) (s : State) (va n v : Nat) : Accessed (State.virtWrite.go who asid need s va n v fuel).2 s := by
    induction fuel generalizing s va n v with
    | zero => exact .refl s
    | succ fuel ih =>
      unfold State.virtWrite.go
      split
      · exact .refl s
      · have hr := s.homeWrite_accessed who asid va (min n (64 - va % 64)) (v % 2 ^ (8 * min n (64 - va % 64))) need []
        dsimp only
        split
        next heq => exact .of_pair heq hr
        next t heq => exact (ih t _ _ _).trans (.of_pair heq hr)
  exact go _ _ _ _ _

end Sys2Proof.Machine
end

section
/-! SUPPORT. What a core queue's push and the acceptance of a launch keep (R211, R212, R217, R471): O51. -/
namespace Sys2Proof.Machine

/-! A core's queue. -/

theorem State.coreRingWrite_accessed (n : Nat) (s : State) (core : Nat) (q : CoreQ) (off v : Nat) :
    Accessed (s.coreRingWrite core q off v n) s := by
  induction n generalizing s off v with
  | zero => exact .refl s
  | succ n ih => exact (ih _ _ _).trans (s.stallWrite_stored _ _ _ _).accessed

theorem State.spillWrite_accessed (n : Nat) (s : State) (core : Nat) (q : CoreQ) (off v : Nat) :
    Accessed (s.spillWrite core q off v n).1 s := by
  induction n generalizing s off v with
  | zero => exact .refl s
  | succ n ih =>
    have hw := s.homeWrite_accessed ⟨core, 0, q.vf⟩ q.asid ((q.spill + 16 + off % spillSize) % 2 ^ 56) 1 (v % 256) .wr []
    unfold State.spillWrite
    split
    next t heq => exact (ih t _ _).trans (.of_pair heq hw)
    next heq => exact .of_pair heq hw

theorem State.setQueue_accessed (s : State) (core : Nat) (q : CoreQ) : Accessed (s.setQueue core q) s := .modCore s _ _ fun _ => rfl

theorem State.spillPointers_accessed (s : State) (core : Nat) (q : CoreQ) : Accessed (s.spillPointers core q) s := by
  have hw := s.virtWrite_accessed ⟨core, 0, q.vf⟩ q.asid (q.spill % 2 ^ 56) 16 (q.spHead + q.spTail * 2 ^ 64) .wr
  exact hw

theorem State.corePush_accessed {s t : State} {core : Nat} {e : QRun} {owner : Option Nat} (h : s.corePush core e owner = some t) :
    Accessed t s := by
  unfold State.corePush at h
  split at h
  · cases h
  · dsimp only at h
    split at h
    · obtain rfl := Option.some.inj h
      exact (State.setQueue_accessed _ _ _).trans (State.coreRingWrite_accessed _ _ _ _ _ _)
    · split at h
      · split at h
        next heq =>
          obtain rfl := Option.some.inj h
          exact (State.spillPointers_accessed _ _ _).trans ((State.setQueue_accessed _ _ _).trans
            (.of_fst heq (State.spillWrite_accessed _ s _ _ _ _)))
        · cases h
      · cases h

theorem State.offerRecords_accessed (s : State) (core : Nat) : Accessed (s.offerRecords core) s := by
  unfold State.offerRecords
  dsimp only
  split
  · exact .refl s
  · exact .foldl (fun t c => t.later_accessed 1 _) _ s

theorem State.pushRecord_accessed {s t : State} {core : Nat} {e : QRun} {owner : Option Nat} (h : s.pushRecord core e owner = some t) :
    Accessed t s := by
  obtain ⟨u, hu, rfl⟩ := Option.map_eq_some_iff.mp h
  exact (u.offerRecords_accessed core).trans (State.corePush_accessed hu)

/-! The acceptance of a launch. -/

/-- What the launch controller keeps beside its launches: the table, the package's registers, the functions' windows, and the launch
queues. -/
structure TableKept (t s : State) : Prop where
  tt : t.tt = s.tt
  pkg : t.pkg = s.pkg
  vfs : t.vfs = s.vfs
  lq : t.lq = s.lq
  lqCarry : t.lqCarry = s.lqCarry

theorem TableKept.refl (s : State) : TableKept s s := ⟨rfl, rfl, rfl, rfl, rfl⟩

theorem TableKept.trans {s t u : State} (h : TableKept u t) (g : TableKept t s) : TableKept u s :=
  ⟨h.tt.trans g.tt, h.pkg.trans g.pkg, h.vfs.trans g.vfs, h.lq.trans g.lq, h.lqCarry.trans g.lqCarry⟩

theorem TableKept.foldl {α : Type} {f : State → α → State} (h : ∀ s a, TableKept (f s a) s) (l : List α) (s : State) :
    TableKept (l.foldl f s) s :=
  List.foldlRecOn (motive := fun t => TableKept t s) l _ (.refl s) fun t ht a _ => (h t a).trans ht

theorem TableKept.of_pair {α : Type} {s t : State} {p : α × State} {a : α} (he : p = (a, t)) (h : TableKept p.2 s) : TableKept t s := by
  rw [he] at h; exact h

theorem Accessed.tableKept {s t : State} (h : Accessed t s) : TableKept t s := ⟨h.tt, h.pkg, h.vfs, h.lq, h.lqCarry⟩

/-- A change of launches, gangs, numbers, cores and what is due alone. -/
theorem TableKept.ofLaunches (s : State) (ls : Assoc Launch) (gs : Assoc Gang) (n : Nat) (cs : Assoc Core) (l : List C2Line)
    (d : List (Nat × Event)) : TableKept { s with launches := ls, gangs := gs, nextId := n, cores := cs, c2 := l, due := d } s :=
  ⟨rfl, rfl, rfl, rfl, rfl⟩

theorem TableKept.modCore (s : State) (n : Nat) (g : Core → Core) : TableKept (s.modCore n g) s := ⟨rfl, rfl, rfl, rfl, rfl⟩

theorem State.recordAdded_tableKept (s : State) (lid : Option Nat) : TableKept (s.recordAdded lid) s := by
  unfold State.recordAdded
  split
  · exact .refl s
  · split
    · exact .refl s
    · exact .ofLaunches s _ _ _ _ _ _

theorem State.startControl_tableKept (s : State) (lid core : Nat) : TableKept (s.startControl lid core) s := by
  unfold State.startControl
  split
  · exact .refl s
  · dsimp only
    split
    · exact .refl s
    · refine (State.recordAdded_tableKept _ _).trans ?_
      obtain ⟨_, _, h⟩ := State.acquireFor_eq (s.setCtx core 0 _) core 0
      rw [h]
      exact .ofLaunches s _ _ _ _ _ _

theorem State.setCoreQueue_accessed (s : State) (raw k core : Nat) : Accessed (s.setCoreQueue raw k core) s := by
  unfold State.setCoreQueue
  extract_lets empty
  split
  · exact .refl s
  · exact (State.spillPointers_accessed _ _ _).trans (s.setQueue_accessed _ _)

theorem State.openLaunch_tableKept (s : State) (vf raw : Nat) (cores : List Nat) (masks : Assoc Nat) (slot gang : Option Nat) :
    TableKept (s.openLaunch vf raw cores masks slot gang).2 s := by
  unfold State.openLaunch State.fresh
  dsimp only
  have hcontrol (b : Bool) (t : State) (lid : Nat) : TableKept (if b then cores.foldl (fun s c => s.startControl lid c) t else t) t := by
    split
    · exact .foldl (fun s c => s.startControl_tableKept lid c) _ t
    · exact .refl t
  refine (hcontrol _ _ _).trans ((TableKept.foldl (fun t ck => ?_) _ _).trans (.ofLaunches s _ _ _ _ _ _))
  exact (State.setCoreQueue_accessed _ _ _ _).tableKept.trans (.modCore t _ _)

theorem State.pushUnit_tableKept (s : State) (lid u : Nat) : TableKept (s.pushUnit lid u) s := by
  unfold State.pushUnit
  split
  · exact .refl s
  · dsimp only
    split
    next t hp => exact (TableKept.ofLaunches t _ _ _ _ _ _).trans (State.pushRecord_accessed hp).tableKept
    next => exact (s.later_accessed _ _).tableKept

theorem State.startUnits_tableKept (s : State) (lid : Nat) : TableKept (s.startUnits lid) s := by
  unfold State.startUnits
  split
  · exact .refl s
  · refine .foldl (fun t u => ?_) _ s
    split
    · exact (t.later_accessed _ _).tableKept
    · exact t.pushUnit_tableKept _ _

theorem State.readMasks_accessed (ks : List Nat) (s : State) (core raw : Nat) (cores : List Nat) :
    Accessed (s.readMasks core raw cores ks).2 s := by
  induction ks generalizing s with
  | nil => exact .refl s
  | cons k ks ih =>
    have hr := s.virtRead_accessed ⟨core, 0, lrAsid raw / 1024⟩ (lrAsid raw) ((bits raw 448 56 + 128 * k) % 2 ^ 56) 128 .rd
    unfold State.readMasks
    split
    · exact ih s
    · split
      next heq => exact .of_pair heq hr
      next t heq =>
        have ht : Accessed t s := .of_pair heq hr
        dsimp only
        split
        · exact ht
        · split <;> (next hrest => exact .of_pair hrest ((ih t).trans ht))

theorem State.admission_accessed (s : State) (vf core raw : Nat) : Accessed (s.admission vf core raw).2 s := by
  unfold State.admission
  split
  · exact .refl s
  · split
    · exact .refl s
    next cores _ =>
      have hm := s.readMasks_accessed (List.range 8) core raw cores
      split <;> (next heq => exact .of_pair heq hm)

theorem State.localPa_accessed (s : State) (core asid va : Nat) (need : Need) : Accessed (s.localPa core asid va need).2 s := by
  have ht := s.translate_accessed (stkOf core) asid va
  unfold State.localPa
  split
  next heq => exact .of_triple heq ht
  next heq => split <;> exact .of_triple heq ht

theorem State.readLrec_accessed (s : State) (core asid va : Nat) : Accessed (s.readLrec core asid va).2 s := by
  have hl := s.localPa_accessed core asid ((va + 64) % 2 ^ 56) .rd
  unfold State.readLrec
  split
  · exact .refl s
  · split
    next heq => exact .of_pair heq hl
    next heq _ => exact .of_pair heq hl

theorem State.readChain_accessed (fuel : Nat) (s : State) (core gid raw : Nat) : Accessed (s.readChain core gid raw fuel).2 s := by
  induction fuel generalizing s raw with
  | zero => exact .refl s
  | succ fuel ih =>
    have hl := s.readLrec_accessed core (lrAsid raw) (bits raw 896 56)
    unfold State.readChain
    split
    · exact .refl s
    · split
      next heq => exact .of_pair heq hl
      next next_ t heq =>
        have ht : Accessed t s := .of_pair heq hl
        split
        · exact ht
        · split <;> (next hrest => exact .of_pair hrest ((ih t next_).trans ht))

theorem State.openGang_tableKept (rs : List Nat) (s : State) (vf core gid : Nat) (slot : Option Nat) :
    TableKept (s.openGang vf core gid slot rs).2 s := by
  induction rs generalizing s slot with
  | nil => exact .refl s
  | cons raw rs ih =>
    have ha := (s.admission_accessed vf core raw).tableKept
    unfold State.openGang
    split
    next heq => exact .of_pair heq ha
    next cores ms t heq =>
      have ht := (t.openLaunch_tableKept vf raw cores ms slot (some gid)).trans (.of_pair heq ha)
      dsimp only
      split <;> (next hrest => exact .of_pair hrest ((ih _ none).trans ht))

theorem State.acceptRaw_tableKept (s : State) (vf core raw : Nat) (slot : Option Nat) : TableKept (s.acceptRaw vf core raw slot).2 s := by
  have ha := (s.admission_accessed vf core raw).tableKept
  have hc := (s.readChain_accessed 8 core (lrGid raw) raw).tableKept
  unfold State.acceptRaw
  split
  · split
    next heq => exact .of_pair heq ha
    next cores ms t heq =>
      exact (State.startUnits_tableKept _ _).trans ((t.openLaunch_tableKept vf raw cores ms slot none).trans (.of_pair heq ha))
  · split
    next heq => exact .of_pair heq hc
    next rs t heq =>
      have ht : TableKept t s := .of_pair heq hc
      split
      · exact ht
      · dsimp only
        have hg := t.fresh.2.openGang_tableKept rs vf core t.fresh.1 slot
        split
        · exact ht
        next hopen =>
          exact (State.later_accessed _ _ _).tableKept.trans ((TableKept.ofLaunches _ _ _ _ _ _ _).trans
            ((TableKept.of_pair hopen hg).trans ((TableKept.ofLaunches t _ _ _ _ _ _).trans ht)))

theorem State.acceptVa_tableKept (s : State) (vf core asid va : Nat) (slot : Option Nat) :
    TableKept (s.acceptVa vf core asid va slot).2 s := by
  have hr := (s.readLrec_accessed core asid va).tableKept
  unfold State.acceptVa
  split
  next heq => exact .of_pair heq hr
  next raw t heq => exact (t.acceptRaw_tableKept vf core raw slot).trans (.of_pair heq hr)

end Sys2Proof.Machine
end

section
/-! SUPPORT. The time-triggered table (R207 to R209): O51. -/
namespace Sys2Proof.Machine

/-! Entries of maps under other keys. -/

theorem Assoc.mem_erase_of_ne {α : Type} {m : Assoc α} {k : Nat} {e : Nat × α} (h : e ∈ m) (hk : e.1 ≠ k) : e ∈ Assoc.erase m k := by
  induction m with
  | nil => exact h
  | cons a m ih =>
    obtain ⟨j, v⟩ := a
    rcases List.mem_cons.mp h with rfl | h
    · rw [Assoc.erase, if_neg (by simpa using hk)]
      exact List.mem_cons_self
    · unfold Assoc.erase
      split
      · exact ih h
      · exact List.mem_cons_of_mem _ (ih h)

theorem Assoc.mem_insertSorted_of_mem {α : Type} {m : Assoc α} (k : Nat) (v : α) {e : Nat × α} (h : e ∈ m) :
    e ∈ Assoc.insertSorted m k v := by
  induction m with
  | nil => cases h
  | cons a m ih =>
    obtain ⟨j, w⟩ := a
    unfold Assoc.insertSorted
    split
    · exact List.mem_cons_of_mem _ h
    · exact (List.mem_cons.mp h).elim (fun h => h ▸ List.mem_cons_self) fun h => List.mem_cons_of_mem _ (ih h)

theorem Assoc.mem_put_of_ne {α : Type} {m : Assoc α} {k : Nat} (v : α) {e : Nat × α} (h : e ∈ m) (hk : e.1 ≠ k) : e ∈ m.put k v :=
  Assoc.mem_insertSorted_of_mem k v (Assoc.mem_erase_of_ne h hk)

/-- A test that an entry under a key never passes does not see that key written. -/
theorem Assoc.any_put {α : Type} (m : Assoc α) {k : Nat} (v : α) {f : Nat × α → Bool} (hf : ∀ w, f (k, w) = false) :
    (m.put k v).any f = m.any f := by
  rw [Bool.eq_iff_iff, List.any_eq_true, List.any_eq_true]
  refine ⟨fun ⟨e, he, h⟩ => (Assoc.mem_put he).elim (fun hk => ?_) fun he => ⟨e, he, h⟩, fun ⟨e, he, h⟩ =>
    ⟨e, Assoc.mem_put_of_ne v he fun hk => ?_, h⟩⟩
  · rw [hk, hf] at h
    cases h
  · rw [show e = (k, e.2) from Prod.ext hk rfl, hf] at h
    cases h

/-! What the table's operations leave. -/

/-- The counts of a slot (R207). -/
def State.skips (s : State) (i : Nat) : Nat := bits (s.slotRaw i) 192 32
def State.fires (s : State) (i : Nat) : Nat := bits (s.slotRaw i) 224 32

/-- A slot whose fire time has been reached: its next one is a table cycle later (R208). -/
def State.nextCycle (s : State) (i : Nat) : State := s.putRun i { s.ttRun i with cycle := (s.ttRun i).cycle + 1 }

@[simp] theorem State.ttRun_putRun (s : State) (i : Nat) (r : TtRun) : (s.putRun i r).ttRun i = r := Assoc.get_put_self ..

@[simp] theorem State.slotRaw_putRun (s : State) (i j : Nat) (r : TtRun) : (s.putRun i r).slotRaw j = s.slotRaw j := rfl

@[simp] theorem State.ttRun_nextCycle (s : State) (i : Nat) :
    (s.nextCycle i).ttRun i = { s.ttRun i with cycle := (s.ttRun i).cycle + 1 } := s.ttRun_putRun ..

theorem State.fires_addFire (s : State) (i : Nat) :
    (s.addFire i).fires i = (s.fires i + 1) % 2 ^ 32 ∧ (s.addFire i).skips i = s.skips i := by
  unfold State.fires State.skips State.slotRaw State.addFire
  dsimp only
  rw [Assoc.get_put_self]
  refine ⟨?_, bits_setBits_ne _ _ _ _ _ _ (.inl (by decide))⟩
  rw [bits_setBits_self]
  exact Nat.mod_eq_of_lt (Nat.mod_lt _ (by decide))

theorem State.skips_addSkips (s : State) (i : Nat) :
    (s.addSkips i 1).skips i = min 0xFFFFFFFF (s.skips i + 1) ∧ (s.addSkips i 1).fires i = s.fires i := by
  unfold State.fires State.skips State.slotRaw State.addSkips
  dsimp only
  rw [Assoc.get_put_self]
  refine ⟨?_, bits_setBits_ne _ _ _ _ _ _ (.inr (by decide))⟩
  rw [bits_setBits_self]
  exact Nat.mod_eq_of_lt (by omega)

theorem State.quietVf_nextCycle {s : State} {i : Nat} (hk : slotKind (s.slotRaw i) ≠ 3) (vf : Nat) :
    (s.nextCycle i).quietVf vf = s.quietVf vf :=
  Assoc.any_put (f := fun e => slotKind (s.slotRaw e.1) == 3 && slotVf (s.slotRaw e.1) == vf && s.ns < e.2.until_) s.tt _
    fun w => by simp [hk]

/-- Whether a firing overruns does not depend on the table cycle reached: a slot of a launch is none of a quiesce. -/
theorem State.overruns_nextCycle (s : State) (i : Nat) : (s.nextCycle i).overruns i = s.overruns i := by
  have hrun : (s.nextCycle i).slotRunning ((s.nextCycle i).ttRun i) = s.slotRunning (s.ttRun i) := by rw [State.ttRun_nextCycle]; rfl
  unfold State.overruns
  rw [hrun, show (s.nextCycle i).slotRaw i = s.slotRaw i from rfl]
  by_cases hk : slotKind (s.slotRaw i) = 1
  · rw [State.quietVf_nextCycle (by rw [hk]; decide)]
  · rw [show (slotKind (s.slotRaw i) == 1) = false from beq_eq_false_iff_ne.mpr hk, Bool.false_and, Bool.false_and]

theorem mem_dueFire {t i : Nat} {e : Event} {l : List (Nat × Event)} {x : Nat × Event} (h : x ∈ l) : x ∈ dueFire t i e l := by
  induction l with
  | nil => cases h
  | cons a l ih =>
    obtain ⟨u, j⟩ := a
    have hcases (b : Bool) : x ∈ if b then (t, e) :: (u, j) :: l else (u, j) :: dueFire t i e l := by
      cases b
      · exact (List.mem_cons.mp h).elim (fun h => h ▸ List.mem_cons_self) fun h => List.mem_cons_of_mem _ (ih h)
      · exact List.mem_cons_of_mem _ h
    exact hcases _

/-- A slot armed changes what is due alone, and of that nothing but its own firing. -/
theorem State.armSlot_eq (s : State) (i : Nat) :
    ∃ d, s.armSlot i = { s with due := d } ∧ ∀ x ∈ s.due, fireSlotOf x.2 ≠ some i → x ∈ d := by
  have hf {x : Nat × Event} (h : x ∈ s.due) (hx : fireSlotOf x.2 ≠ some i) : x ∈ s.due.filter (fireSlotOf ·.2 != some i) :=
    List.mem_filter.mpr ⟨h, by simpa using hx⟩
  unfold State.armSlot
  dsimp only
  split
  · exact ⟨_, rfl, fun x h hx => hf h hx⟩
  · exact ⟨_, rfl, fun x h hx => mem_dueFire (hf h hx)⟩

theorem State.laterOnce_eq (s : State) (d : Nat) (e : Event) : ∃ l, s.laterOnce d e = { s with due := l } ∧
    (∀ x ∈ s.due, x ∈ l) ∧ ∃ k, (k, e) ∈ l := by
  unfold State.laterOnce
  split
  next h =>
    obtain ⟨⟨k, e'⟩, hx, he⟩ := List.any_eq_true.mp h
    obtain rfl : e' = e := by simpa using he
    exact ⟨_, rfl, fun _ h => h, k, hx⟩
  next => exact ⟨_, rfl, fun _ h => (mem_dueInsert_iff _ _ _ _).mpr (.inr h), _, mem_dueInsert ..⟩

/-! A fire time (R208, R209). -/

section Fire
variable {s : State} {kind i : Nat}

theorem State.slotTime_idle (h : s.slotActive (s.slotRaw i) = false ∨ slotKind (s.slotRaw i) ≠ kind) : s.slotTime kind i = s := by
  unfold State.slotTime
  dsimp only
  refine if_pos ?_
  rcases h with h | h <;> simp [h]

variable (hact : s.slotActive (s.slotRaw i) = true) (hkind : slotKind (s.slotRaw i) = kind)
include hact hkind

/-- A fire time that has come, by what it makes of the slot (R209). -/
theorem State.slotTime_eq : s.slotTime kind i = State.armSlot
    (if s.overruns i = false then (s.nextCycle i).fireSlot i (s.fireTime (s.slotRaw i) (s.ttRun i).cycle)
      else if (slotDefer (s.slotRaw i) && !(s.ttRun i).deferred) = true then
        (s.nextCycle i).putRun i { (s.nextCycle i).ttRun i with deferred := true }
      else (s.nextCycle i).addSkips i 1) i := by
  unfold State.slotTime
  dsimp only
  rw [if_neg (by simp [hact, hkind]), ← State.nextCycle, State.overruns_nextCycle]
  simp only [Bool.not_eq_true']

theorem State.slotTime_fires (h : s.overruns i = false) : s.slotTime kind i =
    ((s.nextCycle i).fireSlot i (s.fireTime (s.slotRaw i) (s.ttRun i).cycle)).armSlot i := by
  rw [State.slotTime_eq hact hkind, if_pos h]

theorem State.slotTime_skips (h : s.overruns i = true) (hd : slotDefer (s.slotRaw i) = false ∨ (s.ttRun i).deferred = true) :
    s.slotTime kind i = ((s.nextCycle i).addSkips i 1).armSlot i := by
  rw [State.slotTime_eq hact hkind, if_neg (by simp [h]), if_neg (by rcases hd with hd | hd <;> simp [hd])]

theorem State.slotTime_defers (h : s.overruns i = true) (hd : slotDefer (s.slotRaw i) = true) (hr : (s.ttRun i).deferred = false) :
    s.slotTime kind i = ((s.nextCycle i).putRun i { (s.nextCycle i).ttRun i with deferred := true }).armSlot i := by
  rw [State.slotTime_eq hact hkind, if_neg (by simp [h]), if_pos (by simp [hd, hr])]

end Fire

/-! A firing that is no overrun (R208). -/

/-- A slot armed keeps its run, its counts and memory. -/
structure SlotKept (i : Nat) (t s : State) : Prop where
  run : t.ttRun i = s.ttRun i
  fires : t.fires i = s.fires i
  skips : t.skips i = s.skips i
  mem : MemKept s t
  launches : t.launches = s.launches
  ctx : ∀ n c, t.ctx n c = s.ctx n c
  due : ∀ x ∈ s.due, fireSlotOf x.2 ≠ some i → x ∈ t.due

theorem SlotKept.ofDue (s : State) (i : Nat) (d : List (Nat × Event)) (h : ∀ x ∈ s.due, fireSlotOf x.2 ≠ some i → x ∈ d) :
    SlotKept i { s with due := d } s := ⟨rfl, rfl, rfl, .of_eq rfl rfl rfl rfl, rfl, fun _ _ => rfl, h⟩

theorem State.putRun_memKept (s : State) (i : Nat) (r : TtRun) : MemKept s (s.putRun i r) := .of_eq rfl rfl rfl rfl
theorem State.addFire_memKept (s : State) (i : Nat) : MemKept s (s.addFire i) := .of_eq rfl rfl rfl rfl
theorem State.addSkips_memKept (s : State) (i n : Nat) : MemKept s (s.addSkips i n) := .of_eq rfl rfl rfl rfl

/-- A queue-drain or a quiesce that runs from a fire time (R208). -/
structure SlotRuns (s : State) (i at_ : Nat) (t : State) : Prop where
  run : t.ttRun i = { s.ttRun i with until_ := at_ + slotLen (s.slotRaw i) }
  fires : t.fires i = (s.fires i + 1) % 2 ^ 32
  skips : t.skips i = s.skips i
  due : ∃ k, (k, Event.ttSlotEnd i) ∈ t.due
  mem : MemKept s t

/-- The state in which a queue-drain or a quiesce has been counted and runs. -/
def State.slotStarted (s : State) (i at_ : Nat) : State :=
  (s.addFire i).putRun i { s.ttRun i with until_ := at_ + slotLen (s.slotRaw i) }

theorem State.fireSlot_eq {s : State} {i : Nat} (hk : slotKind (s.slotRaw i) ≠ 1) (at_ : Nat) : ∃ d,
    s.fireSlot i at_ = { s.slotStarted i at_ with due := d } ∧ (∃ k, (k, Event.ttSlotEnd i) ∈ d) ∧ ∀ x ∈ s.due, x ∈ d := by
  let u := s.slotStarted i at_
  have hdrain : ∃ l, (if slotKind (s.slotRaw i) == 2 then u.laterOnce 0 (.launchQueuePop (slotQueue (s.slotRaw i))) else u) =
      { u with due := l } ∧ ∀ x ∈ s.due, x ∈ l := by
    split
    · obtain ⟨l, h, hsub, -⟩ := u.laterOnce_eq 0 (.launchQueuePop (slotQueue (s.slotRaw i)))
      exact ⟨l, h, hsub⟩
    · exact ⟨u.due, rfl, fun _ h => h⟩
  obtain ⟨l, hl, hsub⟩ := hdrain
  have heq : s.fireSlot i at_ = State.laterNs (if slotKind (s.slotRaw i) == 2 then
      u.laterOnce 0 (.launchQueuePop (slotQueue (s.slotRaw i))) else u) (at_ + slotLen (s.slotRaw i)) (.ttSlotEnd i) := by
    unfold State.fireSlot
    dsimp only
    split
    · contradiction
    · rfl
  rw [heq, hl]
  exact ⟨_, rfl, ⟨_, mem_dueInsert ..⟩, fun x hx => (mem_dueInsert_iff _ _ _ _).mpr (.inr (hsub x hx))⟩

theorem State.fireSlot_runs {s : State} {i : Nat} (hk : slotKind (s.slotRaw i) ≠ 1) (at_ : Nat) : SlotRuns s i at_ (s.fireSlot i at_) := by
  obtain ⟨d, hd, hdue, hsub⟩ := State.fireSlot_eq hk at_
  have hkept := SlotKept.ofDue (s.slotStarted i at_) i d fun x hx _ => hsub x hx
  obtain ⟨hf, hs⟩ := s.fires_addFire i
  rw [hd]
  exact {
    run := hkept.run.trans (State.ttRun_putRun _ i _)
    fires := hkept.fires.trans hf
    skips := hkept.skips.trans hs
    due := hdue
    mem := ((s.addFire_memKept i).trans (State.putRun_memKept _ i _)).trans hkept.mem }

/-- A periodic launch whose record acceptance takes, or refuses. -/
def State.launchFired (s : State) (i : Nat) : Option Nat → State
  | some l => (s.addFire i).putRun i { s.ttRun i with launch := some l }
  | none => s.addSkips i 1

theorem State.fireSlot_launch {s v : State} {i record : Nat} {got : Option Nat} (hk : slotKind (s.slotRaw i) = 1) (at_ : Nat)
    (hin : inHbm (bits (s.slotRaw i) 128 39 * 64) 128 = true) (hr : s.physRead (bits (s.slotRaw i) 128 39 * 64) 128 = record)
    (ha : s.acceptRaw (slotVf (s.slotRaw i)) 0 record (some i) = (got, v)) : s.fireSlot i at_ = v.launchFired i got := by
  unfold State.fireSlot
  dsimp only
  split
  · rw [if_pos hin, hr, ha]
    cases got <;> rfl
  next h => exact absurd hk h

theorem State.fireSlot_outside {s : State} {i : Nat} (hk : slotKind (s.slotRaw i) = 1) (at_ : Nat)
    (hin : inHbm (bits (s.slotRaw i) 128 39 * 64) 128 = false) : s.fireSlot i at_ = s.addSkips i 1 := by
  unfold State.fireSlot
  dsimp only
  split
  · rw [if_neg (by simp [hin])]
  next h => exact absurd hk h

theorem State.armSlot_kept (s : State) (i : Nat) : SlotKept i (s.armSlot i) s := by
  obtain ⟨d, h, hd⟩ := s.armSlot_eq i
  rw [h]
  exact .ofDue s i d hd

theorem State.nextCycle_memKept (s : State) (e : Event) (i : Nat) : MemKept s ((s.onEvent e).nextCycle i) := .of_eq rfl rfl rfl rfl

section Firing
variable {s : State} {kind i : Nat} {e : Event} (he : exec e.instr (s.onEvent e) = .next ((s.onEvent e).slotTime kind i))
include he

theorem happens_idle (h : s.slotActive (s.slotRaw i) = false ∨ slotKind (s.slotRaw i) ≠ kind) :
    Happens e s fun t => t = { s with ev := e } :=
  happens_next he (State.slotTime_idle (s := s.onEvent e) h)

variable (hact : s.slotActive (s.slotRaw i) = true) (hkind : slotKind (s.slotRaw i) = kind)
include hact hkind

theorem happens_runs (h : s.overruns i = false) (h1 : kind ≠ 1) : Happens e s fun t =>
    (t.ttRun i).until_ = s.fireTime (s.slotRaw i) (s.ttRun i).cycle + slotLen (s.slotRaw i) ∧
    (t.ttRun i).cycle = (s.ttRun i).cycle + 1 ∧ t.fires i = (s.fires i + 1) % 2 ^ 32 ∧ t.skips i = s.skips i ∧
    (∃ k, (k, Event.ttSlotEnd i) ∈ t.due) ∧ MemKept s t := by
  refine happens_next he ?_
  rw [State.slotTime_fires (s := s.onEvent e) hact hkind h]
  obtain ⟨hrun, hfires, hskips, ⟨k, hdue⟩, hmem⟩ := State.fireSlot_runs (s := (s.onEvent e).nextCycle i) (i := i)
    (fun hk => h1 (hkind.symm.trans hk)) (s.fireTime (s.slotRaw i) (s.ttRun i).cycle)
  have ha := State.armSlot_kept (((s.onEvent e).nextCycle i).fireSlot i (s.fireTime (s.slotRaw i) (s.ttRun i).cycle)) i
  rw [State.ttRun_nextCycle] at hrun
  refine ⟨?_, ?_, ha.fires.trans hfires, ha.skips.trans hskips, ⟨k, ha.due _ hdue nofun⟩,
    ((s.nextCycle_memKept e i).trans hmem).trans ha.mem⟩
  · exact congrArg TtRun.until_ (ha.run.trans hrun)
  · exact congrArg TtRun.cycle (ha.run.trans hrun)

theorem happens_skips (h : s.overruns i = true) (hd : slotDefer (s.slotRaw i) = false ∨ (s.ttRun i).deferred = true) :
    Happens e s fun t => t.skips i = min 0xFFFFFFFF (s.skips i + 1) ∧ t.fires i = s.fires i ∧
      (t.ttRun i).cycle = (s.ttRun i).cycle + 1 ∧ MemKept s t := by
  refine happens_next he ?_
  rw [State.slotTime_skips (s := s.onEvent e) hact hkind h hd]
  have ha := State.armSlot_kept (((s.onEvent e).nextCycle i).addSkips i 1) i
  obtain ⟨hs, hf⟩ := ((s.onEvent e).nextCycle i).skips_addSkips i
  exact ⟨ha.skips.trans hs, ha.fires.trans hf, congrArg TtRun.cycle (ha.run.trans ((s.onEvent e).ttRun_nextCycle i)),
    ((s.nextCycle_memKept e i).trans (State.addSkips_memKept _ i 1)).trans ha.mem⟩

theorem happens_defers (h : s.overruns i = true) (hd : slotDefer (s.slotRaw i) = true) (hr : (s.ttRun i).deferred = false) :
    Happens e s fun t => (t.ttRun i).deferred = true ∧ t.skips i = s.skips i ∧ t.fires i = s.fires i ∧ MemKept s t := by
  refine happens_next he ?_
  rw [State.slotTime_defers (s := s.onEvent e) hact hkind h hd hr]
  let u := (s.onEvent e).nextCycle i
  have ha := (u.putRun i { u.ttRun i with deferred := true }).armSlot_kept i
  exact ⟨congrArg TtRun.deferred (ha.run.trans (u.ttRun_putRun i _)), ha.skips, ha.fires,
    ((s.nextCycle_memKept e i).trans (u.putRun_memKept i _)).trans ha.mem⟩

/-- A periodic launch whose record lies outside HBM (R208). -/
theorem happens_launch_outside (h : s.overruns i = false) (h1 : kind = 1) (hin : inHbm (bits (s.slotRaw i) 128 39 * 64) 128 = false) :
    Happens e s fun t => t.skips i = min 0xFFFFFFFF (s.skips i + 1) ∧ t.fires i = s.fires i ∧
      (t.ttRun i).cycle = (s.ttRun i).cycle + 1 ∧ MemKept s t := by
  refine happens_next he ?_
  rw [State.slotTime_fires (s := s.onEvent e) hact hkind h,
    State.fireSlot_outside (s := (s.onEvent e).nextCycle i) (hkind.trans h1) _ hin]
  have ha := State.armSlot_kept (((s.onEvent e).nextCycle i).addSkips i 1) i
  obtain ⟨hs, hf⟩ := ((s.onEvent e).nextCycle i).skips_addSkips i
  exact ⟨ha.skips.trans hs, ha.fires.trans hf, congrArg TtRun.cycle (ha.run.trans ((s.onEvent e).ttRun_nextCycle i)),
    ((s.nextCycle_memKept e i).trans (State.addSkips_memKept _ i 1)).trans ha.mem⟩

/-- A periodic launch that acceptance takes, or refuses (R208, R212). -/
theorem happens_launch (h : s.overruns i = false) (h1 : kind = 1) {got : Option Nat} {v : State} {record : Nat}
    (hin : inHbm (bits (s.slotRaw i) 128 39 * 64) 128 = true) (hr : s.physRead (bits (s.slotRaw i) 128 39 * 64) 128 = record)
    (hacc : ((s.onEvent e).nextCycle i).acceptRaw (slotVf (s.slotRaw i)) 0 record (some i) = (got, v)) : Happens e s fun t =>
    t.launches = v.launches ∧ MemKept v t ∧ (∀ n c, t.ctx n c = v.ctx n c) ∧ (t.ttRun i).cycle = (s.ttRun i).cycle + 1 ∧
    (∀ l, got = some l → (t.ttRun i).launch = some l ∧ t.fires i = (s.fires i + 1) % 2 ^ 32 ∧ t.skips i = s.skips i) ∧
    (got = none → (t.ttRun i).launch = (s.ttRun i).launch ∧ t.fires i = s.fires i ∧ t.skips i = min 0xFFFFFFFF (s.skips i + 1)) := by
  have hk : TableKept v ((s.onEvent e).nextCycle i) := .of_pair hacc (State.acceptRaw_tableKept _ _ _ _ _)
  have hread : ((s.onEvent e).nextCycle i).physRead (bits (s.slotRaw i) 128 39 * 64) 128 = record := by
    rw [State.physRead_congr (s := s) _ _ (s.nextCycle_memKept e i).bytes]
    exact hr
  have hrun : v.ttRun i = { s.ttRun i with cycle := (s.ttRun i).cycle + 1 } := by
    rw [State.ttRun, hk.tt]
    exact (s.onEvent e).ttRun_nextCycle i
  have hraw : v.slotRaw i = s.slotRaw i := congrArg (fun p => Assoc.get (Pkg.ttSlot p) i 0) hk.pkg
  have hf : v.fires i = s.fires i := congrArg (bits · 224 32) hraw
  have hs : v.skips i = s.skips i := congrArg (bits · 192 32) hraw
  refine happens_next he ?_
  rw [State.slotTime_fires (s := s.onEvent e) hact hkind h,
    State.fireSlot_launch (s := (s.onEvent e).nextCycle i) (hkind.trans h1) _ hin hread hacc]
  have ha := (v.launchFired i got).armSlot_kept i
  generalize (v.launchFired i got).armSlot i = t at ha
  cases got with
  | some l =>
    obtain ⟨hf', hs'⟩ := v.fires_addFire i
    have hr : t.ttRun i = { v.ttRun i with launch := some l } := ha.run.trans (State.ttRun_putRun _ i _)
    refine ⟨ha.launches, ((v.addFire_memKept i).trans (State.putRun_memKept _ i _)).trans ha.mem, ha.ctx, ?_, fun l' hl => ?_, nofun⟩
    · rw [hr, hrun]
    · obtain rfl := Option.some.inj hl
      exact ⟨congrArg TtRun.launch hr, (ha.fires.trans hf').trans (by rw [hf]), (ha.skips.trans hs').trans hs⟩
  | none =>
    obtain ⟨hs', hf'⟩ := v.skips_addSkips i
    have hr : t.ttRun i = { s.ttRun i with cycle := (s.ttRun i).cycle + 1 } := ha.run.trans hrun
    refine ⟨ha.launches, (v.addSkips_memKept i 1).trans ha.mem, ha.ctx, congrArg TtRun.cycle hr, nofun, fun _ => ?_⟩
    exact ⟨by rw [hr], (ha.fires.trans hf').trans hf, (ha.skips.trans hs').trans (by rw [hs])⟩

end Firing

/-! The end of a slot, and deferred firings (R209). -/

theorem State.laterOnce_foldl (es : List Event) (s : State) : ∃ l, es.foldl (fun s e => s.laterOnce 0 e) s = { s with due := l } ∧
    (∀ x ∈ s.due, x ∈ l) ∧ ∀ e ∈ es, ∃ k, (k, e) ∈ l := by
  induction es generalizing s with
  | nil => exact ⟨_, rfl, fun _ h => h, nofun⟩
  | cons e es ih =>
    obtain ⟨l, hl, hsub, k, hk⟩ := s.laterOnce_eq 0 e
    obtain ⟨m, hm, hsub', hall⟩ := ih (s.laterOnce 0 e)
    rw [hl] at hm hsub'
    refine ⟨m, by rw [List.foldl_cons, hl]; exact hm, fun x hx => hsub' x (hsub x hx), fun x hx => ?_⟩
    exact (List.mem_cons.mp hx).elim (fun h => ⟨k, h ▸ hsub' _ hk⟩) (hall x)

theorem happens_slotEnd {s : State} {i : Nat} (h : (s.ttRun i).until_ ≤ s.ns) : Happens (.ttSlotEnd i) s fun t =>
    (t.ttRun i).until_ = 0 ∧ MemKept s t ∧ ∀ e ∈ s.tt, e.1 ≠ i → e.2.deferred = true → ∃ k, (k, Event.ttDeferredFire e.1) ∈ t.due := by
  let u := (s.onEvent (.ttSlotEnd i)).putRun i { s.ttRun i with until_ := 0 }
  obtain ⟨l, hl, -, hall⟩ := u.laterOnce_foldl ((u.tt.filter (·.2.deferred)).map fun e => .ttDeferredFire e.1)
  refine happens_next (t := { u with due := l }) ?_ ⟨?_, .of_eq rfl rfl rfl rfl, fun e he hi hd => ?_⟩
  · rw [← hl, List.foldl_map]
    exact congrArg Host.Outcome.next (if_neg (Nat.not_lt.mpr h))
  · exact congrArg TtRun.until_ (State.ttRun_putRun (s.onEvent (.ttSlotEnd i)) i { s.ttRun i with until_ := 0 })
  · exact hall _ (List.mem_map.mpr ⟨e, List.mem_filter.mpr ⟨Assoc.mem_put_of_ne _ he hi, hd⟩, rfl⟩)

theorem happens_deferredFire {s : State} {i : Nat} (hd : (s.ttRun i).deferred = true) (ha : s.slotActive (s.slotRaw i) = true)
    (ho : s.overruns i = false) (hk : slotKind (s.slotRaw i) ≠ 1) : Happens (.ttDeferredFire i) s fun t =>
    (t.ttRun i).deferred = false ∧ t.fires i = (s.fires i + 1) % 2 ^ 32 ∧ MemKept s t := by
  let u := (s.onEvent (.ttDeferredFire i)).putRun i { s.ttRun i with deferred := false }
  obtain ⟨hrun, hfires, -, -, hmem⟩ := State.fireSlot_runs (s := u) (i := i) hk (s.fireTime (s.slotRaw i) ((s.ttRun i).cycle - 1))
  have hu : MemKept s u := .of_eq rfl rfl rfl rfl
  refine happens_next (t := u.fireSlot i (s.fireTime (s.slotRaw i) ((s.ttRun i).cycle - 1))) ?_ ⟨?_, hfires, hu.trans hmem⟩
  · have hd' : (!(s.ttRun i).deferred) = false := by simp [hd]
    have ha' : (!s.slotActive (s.slotRaw i)) = false := by simp [ha]
    exact (if_neg (Bool.eq_false_iff.mp hd')).trans ((if_neg (Bool.eq_false_iff.mp ha')).trans (if_neg (Bool.eq_false_iff.mp ho)))
  · rw [hrun, show u.ttRun i = { s.ttRun i with deferred := false } from State.ttRun_putRun _ i _]

theorem happens_notDeferred {s : State} {i : Nat} (hd : (s.ttRun i).deferred = false) :
    Happens (.ttDeferredFire i) s fun t => t = { s with ev := .ttDeferredFire i } :=
  have hd' : (!(s.ttRun i).deferred) = true := by simp [hd]
  happens_next (t := s.onEvent (.ttDeferredFire i)) (if_pos hd') rfl

end Sys2Proof.Machine
end

section
/-! SUPPORT. Launch queues popped into the cores' queues (R213): O51. -/
namespace Sys2Proof.Machine

/-! What an event sees of the lists. -/

@[simp] theorem State.lqPeek_onEvent (s : State) (e : Event) (q p : Nat) : (s.onEvent e).lqPeek q p = s.lqPeek q p := by
  unfold State.lqPeek
  rw [State.lqRing_onEvent]
  simp only [State.physByte_onEvent]
  rfl

@[simp] theorem State.popList_onEvent (s : State) (e : Event) (q : Nat) : (s.onEvent e).popList q = s.popList q := by
  unfold State.popList
  simp only [State.lqPeek_onEvent]
  rfl

/-! The oldest entry taken off its list. -/

theorem State.lqPeek_of_popList {s : State} {q p : Nat} {e : QRun} {owner : Option Nat} (h : s.popList q = some (p, e, owner)) :
    ∃ n, s.lqPeek q p = some (e, n, owner) := by
  obtain ⟨p', -, hp⟩ := List.exists_of_findSome?_eq_some h
  obtain ⟨⟨e', n, o⟩, hpeek, hquiet⟩ := Option.bind_eq_some_iff.mp hp
  split at hquiet
  · cases hquiet
  · cases hquiet
    exact ⟨n, hpeek⟩

/-- A state whose list is without its oldest entry. -/
structure ListPopped (q p : Nat) (t s : State) : Prop extends AtRest t s where
  popped : (t.lqList q p).popIdx = (s.lqList q p).popIdx + 1
  vfs : t.vfs = s.vfs
  lqCarry : t.lqCarry = s.lqCarry

/-- A list's running state replaced. -/
def State.putList (s : State) (q p : Nat) (l : LqList) : State := { s with lq := s.lq.put (4 * q + p) l }

theorem State.lqList_putList (s : State) (q p : Nat) (l : LqList) : (s.putList q p l).lqList q p = l := Assoc.get_put_self ..

theorem State.lqDrop_popped {s : State} {q p : Nat} {e : QRun} {owner : Option Nat} (h : s.popList q = some (p, e, owner)) :
    ListPopped q p (s.lqDrop q p) s := by
  obtain ⟨n, hpeek⟩ := State.lqPeek_of_popList h
  have hring : ∃ r, s.lqRing q p = some r := by
    cases hr : s.lqRing q p with
    | none => rw [State.lqPeek, hr] at hpeek; cases hpeek
    | some r => exact ⟨r, rfl⟩
  obtain ⟨⟨base, logn, head, tail⟩, hring⟩ := hring
  have hw := s.physWrite_atRest (s.lqDesc q p + 8) 4 ((head + n) % 2 ^ logn)
  have hacc := (s.physWrite_stored (s.lqDesc q p + 8) 4 ((head + n) % 2 ^ logn)).accessed
  have hdrop : s.lqDrop q p = (s.physWrite (s.lqDesc q p + 8) 4 ((head + n) % 2 ^ logn)).putList q p { s.lqList q p with
      popIdx := (s.lqList q p).popIdx + 1, popRun := e, owners := (s.lqList q p).owners.drop 1 } := by
    rw [State.lqDrop, hring, hpeek]
    rfl
  rw [hdrop]
  generalize s.physWrite (s.lqDesc q p + 8) 4 ((head + n) % 2 ^ logn) = w at hw hacc
  exact ⟨(AtRest.ofBooks w _ _ _ _ _ _).trans hw, congrArg LqList.popIdx (w.lqList_putList q p _), hacc.vfs, hacc.lqCarry⟩

/-! An entry carried through. -/

theorem State.refuseEntry_eq (s : State) (vf : Nat) : ∃ m r,
    s.refuseEntry vf = { s.modVf vf fun v => { v with lRefuse := satInc64 v.lRefuse } with msix := m, errRose := r } := by
  unfold State.refuseEntry State.raiseErr
  split <;> exact ⟨_, _, rfl⟩

/-- A refusal counts in LREFUSE and changes neither launches, lists nor memory (R212). -/
structure Refused (vf : Nat) (t s : State) : Prop where
  count : (t.vf vf).lRefuse = satInc64 (s.vf vf).lRefuse
  launches : t.launches = s.launches
  lq : t.lq = s.lq
  lqCarry : t.lqCarry = s.lqCarry
  mem : MemKept s t

theorem State.refuseEntry_refused (s : State) (vf : Nat) : Refused vf (s.refuseEntry vf) s := by
  obtain ⟨_, _, h⟩ := s.refuseEntry_eq vf
  rw [h]
  refine ⟨?_, rfl, rfl, rfl, .of_eq rfl rfl rfl rfl⟩
  exact congrArg Vf.lRefuse ((s.vf_modVf vf vf fun v => { v with lRefuse := satInc64 v.lRefuse }).trans (if_pos rfl))

section Carry
variable {s : State} {e : QRun} {owner : Option Nat}

theorem State.carryEntry_pushed {t : State} (hk : bit e.kind 0 = false)
    (hm : s.hasCore (e.asid / 1024) e.qcore = true ∧ (s.core e.qcore).queue.map (·.vf) = some (e.asid / 1024))
    (hp : s.pushRecord e.qcore { e with kind := 0, lrec := 0 } owner = some t) : s.carryEntry e owner = (true, t) := by
  unfold State.carryEntry
  dsimp only
  rw [if_neg (by simp [hk]), if_neg (by simp [hm.1, hm.2]), hp]

theorem State.carryEntry_full (hk : bit e.kind 0 = false)
    (hm : s.hasCore (e.asid / 1024) e.qcore = true ∧ (s.core e.qcore).queue.map (·.vf) = some (e.asid / 1024))
    (hp : s.pushRecord e.qcore { e with kind := 0, lrec := 0 } owner = none) : s.carryEntry e owner = (false, s) := by
  unfold State.carryEntry
  dsimp only
  rw [if_neg (by simp [hk]), if_neg (by simp [hm.1, hm.2]), hp]

theorem State.carryEntry_strange (hk : bit e.kind 0 = false)
    (hm : ¬(s.hasCore (e.asid / 1024) e.qcore = true ∧ (s.core e.qcore).queue.map (·.vf) = some (e.asid / 1024))) :
    s.carryEntry e none = (true, s.refuseEntry (e.asid / 1024)) := by
  unfold State.carryEntry
  dsimp only
  rw [if_neg (by simp [hk]), if_pos ?_]
  · rfl
  · rwa [Bool.not_eq_true', Bool.and_eq_false_iff, ← Bool.not_eq_true, ← Bool.not_eq_true, beq_iff_eq, ← not_and_or]

theorem State.carryEntry_launch {va : Nat} {l : Option Nat} {t : State} (hk : bit e.kind 0 = true)
    (hc : s.checkVa (e.asid / 1024) (BitVec.ofNat 64 e.lrec) 64 = .ok (.virt va))
    (ha : s.acceptVa (e.asid / 1024) 0 e.asid va none = (l, t)) :
    s.carryEntry e owner = (true, if l.isSome then t else t.refuseEntry (e.asid / 1024)) := by
  unfold State.carryEntry
  dsimp only
  rw [if_pos hk, hc]
  dsimp only
  rw [ha]
  cases l <;> rfl

theorem State.carryEntry_unplaced (hk : bit e.kind 0 = true)
    (hc : ∀ va, s.checkVa (e.asid / 1024) (BitVec.ofNat 64 e.lrec) 64 ≠ .ok (.virt va)) :
    s.carryEntry e owner = (true, s.refuseEntry (e.asid / 1024)) := by
  unfold State.carryEntry
  dsimp only
  rw [if_pos hk]
  split
  next va h => exact absurd h (hc va)
  · rfl

end Carry

theorem State.checkVa_of_pkg {s t : State} (h : t.pkg = s.pkg) (vf : Nat) (w : Word) (al : Nat) :
    t.checkVa vf w al = s.checkVa vf w al := by
  unfold State.checkVa State.hasCore
  rw [h]

/-! The pop (R213). -/

/-- The state after an entry has been carried as far as it goes. -/
def carried (q : Nat) (e : QRun) (owner : Option Nat) : Bool × State → State
  | (true, v) => v
  | (false, v) => { v with lqCarry := v.lqCarry.put q (e, owner) }

theorem carried_lq (q : Nat) (e : QRun) (owner : Option Nat) (v : Bool × State) : (carried q e owner v).lq = v.2.lq := by
  obtain ⟨b, v⟩ := v
  cases b <;> rfl

section Pop
variable {s : State} {q : Nat} (hc : s.lqCarry.find? (·.1 == q) = none)
include hc

theorem State.popQueue_idle (hd : s.draining q = false) : s.popQueue q = s := by
  unfold State.popQueue
  rw [hc]
  exact if_pos (by simp [hd])

theorem happens_pop_idle (hd : s.draining q = false) :
    Happens (.launchQueuePop q) s fun t => t = { s with ev := .launchQueuePop q } :=
  happens_next rfl (State.popQueue_idle (s := s.onEvent (.launchQueuePop q)) hc hd)

variable (hd : s.draining q = true)
include hd

theorem State.popQueue_nothing (hl : s.popList q = none) : s.popQueue q = s.laterOnce 64 (.launchQueuePop q) := by
  unfold State.popQueue
  rw [hc]
  dsimp only
  rw [if_neg (by simp [hd]), hl]

theorem State.popQueue_carries {p : Nat} {e : QRun} {owner : Option Nat} (hl : s.popList q = some (p, e, owner)) :
    ∃ k, s.popQueue q = (carried q e owner ((s.lqDrop q p).carryEntry e owner)).laterOnce k (.launchQueuePop q) := by
  unfold State.popQueue
  rw [hc]
  dsimp only
  rw [if_neg (by simp [hd]), hl]
  dsimp only
  split
  next h => exact ⟨1, by rw [h]; rfl⟩
  next h => exact ⟨64, by rw [h]; rfl⟩

theorem happens_pop_nothing (hl : s.popList q = none) : Happens (.launchQueuePop q) s fun t =>
    (∃ k, (k, Event.launchQueuePop q) ∈ t.due) ∧ t.lq = s.lq ∧ MemKept s t := by
  let u := s.onEvent (.launchQueuePop q)
  obtain ⟨l, h, -, hk⟩ := u.laterOnce_eq 64 (.launchQueuePop q)
  have hpop := (State.popQueue_nothing (s := u) hc hd ((s.popList_onEvent _ q).trans hl)).trans h
  exact happens_next (congrArg Host.Outcome.next hpop) ⟨hk, rfl, .of_eq rfl rfl rfl rfl⟩

/-- A pop takes the oldest entry off its list, carries it and comes again. -/
theorem happens_pop {p : Nat} {e : QRun} {owner : Option Nat} (hl : s.popList q = some (p, e, owner)) {d : State}
    (hdrop : (s.onEvent (.launchQueuePop q)).lqDrop q p = d) {v : Bool × State} (hv : d.carryEntry e owner = v)
    (hlq : v.2.lq = d.lq) {P : State → Prop} (hP : ∀ l, P { carried q e owner v with due := l }) : Happens (.launchQueuePop q) s fun t =>
      P t ∧ (∃ k, (k, Event.launchQueuePop q) ∈ t.due) ∧ (t.lqList q p).popIdx = (s.lqList q p).popIdx + 1 := by
  have hl' : (s.onEvent (.launchQueuePop q)).popList q = some (p, e, owner) := (s.popList_onEvent _ q).trans hl
  subst hdrop
  have hidx := (State.lqDrop_popped hl').popped
  obtain ⟨k, hk⟩ := State.popQueue_carries (s := s.onEvent (.launchQueuePop q)) hc hd hl'
  rw [hv] at hk
  obtain ⟨l, h, -, hdue⟩ := (carried q e owner v).laterOnce_eq k (.launchQueuePop q)
  refine happens_next (congrArg Host.Outcome.next (hk.trans h)) ⟨hP l, hdue, Eq.trans ?_ hidx⟩
  show (Assoc.get (carried q e owner v).lq (4 * q + p) _).popIdx = _
  rw [carried_lq, hlq]
  rfl

/-! What a pop does with each kind of entry. -/

section Entry
variable {p : Nat} {e : QRun} {owner : Option Nat} (hl : s.popList q = some (p, e, owner)) {d : State}
  (hdrop : (s.onEvent (.launchQueuePop q)).lqDrop q p = d)

omit hc hd in
include hl hdrop in
theorem ListPopped.of_popList : ListPopped q p d (s.onEvent (.launchQueuePop q)) := by
  rw [← hdrop]
  exact State.lqDrop_popped ((s.popList_onEvent _ q).trans hl)

omit hc hd in
include hl hdrop in
/-- A core belongs to an entry's function, with a queue of it, as before the entry was taken. -/
theorem ListPopped.mine (hm : s.hasCore (e.asid / 1024) e.qcore = true ∧ (s.core e.qcore).queue.map (·.vf) = some (e.asid / 1024)) :
    d.hasCore (e.asid / 1024) e.qcore = true ∧ (d.core e.qcore).queue.map (·.vf) = some (e.asid / 1024) := by
  have hp := ListPopped.of_popList hl hdrop
  rw [hp.queue, State.hasCore, hp.pkg]
  exact hm

include hl hdrop

theorem happens_pop_pushed (hk : bit e.kind 0 = false)
    (hm : s.hasCore (e.asid / 1024) e.qcore = true ∧ (s.core e.qcore).queue.map (·.vf) = some (e.asid / 1024)) {v : State}
    (hp : d.pushRecord e.qcore { e with kind := 0, lrec := 0 } owner = some v) : Happens (.launchQueuePop q) s fun t =>
    ((t.core e.qcore).queue = (v.core e.qcore).queue ∧ MemKept v t ∧ t.lqCarry = s.lqCarry ∧ t.launches = s.launches) ∧
    (∃ k, (k, Event.launchQueuePop q) ∈ t.due) ∧ (t.lqList q p).popIdx = (s.lqList q p).popIdx + 1 := by
  have hd' := ListPopped.of_popList hl hdrop
  have hacc := State.pushRecord_accessed hp
  have hv := State.carryEntry_pushed (s := d) hk (ListPopped.mine hl hdrop hm) hp
  refine happens_pop hc hd hl hdrop hv hacc.lq fun l => ?_
  exact ⟨rfl, .of_eq rfl rfl rfl rfl, hacc.lqCarry.trans hd'.lqCarry, hacc.launches.trans hd'.launches⟩

theorem happens_pop_full (hk : bit e.kind 0 = false)
    (hm : s.hasCore (e.asid / 1024) e.qcore = true ∧ (s.core e.qcore).queue.map (·.vf) = some (e.asid / 1024))
    (hp : d.pushRecord e.qcore { e with kind := 0, lrec := 0 } owner = none) : Happens (.launchQueuePop q) s fun t =>
    (t.lqCarry.find? (·.1 == q) = some (q, e, owner) ∧ MemKept d t ∧ t.launches = s.launches) ∧
    (∃ k, (k, Event.launchQueuePop q) ∈ t.due) ∧ (t.lqList q p).popIdx = (s.lqList q p).popIdx + 1 := by
  have hd' := ListPopped.of_popList hl hdrop
  have hv := State.carryEntry_full (s := d) hk (ListPopped.mine hl hdrop hm) hp
  refine happens_pop hc hd hl hdrop hv rfl fun l => ?_
  exact ⟨Assoc.find?_put_self _ _ _, .of_eq rfl rfl rfl rfl, hd'.launches⟩

theorem happens_pop_strange (hk : bit e.kind 0 = false)
    (hm : ¬(s.hasCore (e.asid / 1024) e.qcore = true ∧ (s.core e.qcore).queue.map (·.vf) = some (e.asid / 1024)))
    (ho : owner = none) : Happens (.launchQueuePop q) s fun t =>
    ((t.vf (e.asid / 1024)).lRefuse = satInc64 (s.vf (e.asid / 1024)).lRefuse ∧ t.lqCarry = s.lqCarry ∧ MemKept d t) ∧
    (∃ k, (k, Event.launchQueuePop q) ∈ t.due) ∧ (t.lqList q p).popIdx = (s.lqList q p).popIdx + 1 := by
  have hd' := ListPopped.of_popList hl hdrop
  have hr := d.refuseEntry_refused (e.asid / 1024)
  subst ho
  have hm' : ¬(d.hasCore (e.asid / 1024) e.qcore = true ∧ (d.core e.qcore).queue.map (·.vf) = some (e.asid / 1024)) := by
    rw [hd'.queue, State.hasCore, hd'.pkg]
    exact hm
  refine happens_pop hc hd hl hdrop (State.carryEntry_strange hk hm') hr.lq fun l => ?_
  refine ⟨hr.count.trans ?_, hr.lqCarry.trans hd'.lqCarry, hr.mem.trans (.of_eq rfl rfl rfl rfl)⟩
  rw [State.vf, hd'.vfs]
  rfl

theorem happens_pop_launch (hk : bit e.kind 0 = true) {va : Nat} {l : Option Nat} {v : State}
    (hplace : s.checkVa (e.asid / 1024) (BitVec.ofNat 64 e.lrec) 64 = .ok (.virt va))
    (ha : d.acceptVa (e.asid / 1024) 0 e.asid va none = (l, v)) : Happens (.launchQueuePop q) s fun t =>
    (t.launches = v.launches ∧ MemKept v t ∧ t.lqCarry = s.lqCarry ∧
      (t.vf (e.asid / 1024)).lRefuse = if l.isSome then (s.vf (e.asid / 1024)).lRefuse else satInc64 (s.vf (e.asid / 1024)).lRefuse) ∧
    (∃ k, (k, Event.launchQueuePop q) ∈ t.due) ∧ (t.lqList q p).popIdx = (s.lqList q p).popIdx + 1 := by
  have hd' := ListPopped.of_popList hl hdrop
  have hv : TableKept v d := .of_pair ha (d.acceptVa_tableKept _ _ _ _ _)
  have hr := v.refuseEntry_refused (e.asid / 1024)
  have hvf : v.vf (e.asid / 1024) = s.vf (e.asid / 1024) := by
    rw [State.vf, hv.vfs, hd'.vfs]
    rfl
  have hcarry := State.carryEntry_launch (s := d) (owner := owner) hk ((State.checkVa_of_pkg hd'.pkg _ _ _).trans hplace) ha
  refine happens_pop hc hd hl hdrop hcarry ?_ fun m => ?_
  · cases l
    · exact hr.lq.trans hv.lq
    · exact hv.lq
  · cases l
    · exact ⟨hr.launches, hr.mem.trans (.of_eq rfl rfl rfl rfl), hr.lqCarry.trans (hv.lqCarry.trans hd'.lqCarry),
        hr.count.trans (by rw [hvf]; rfl)⟩
    · exact ⟨rfl, .of_eq rfl rfl rfl rfl, hv.lqCarry.trans hd'.lqCarry, congrArg Vf.lRefuse hvf⟩

theorem happens_pop_unplaced (hk : bit e.kind 0 = true)
    (hplace : ∀ va, s.checkVa (e.asid / 1024) (BitVec.ofNat 64 e.lrec) 64 ≠ .ok (.virt va)) : Happens (.launchQueuePop q) s fun t =>
    (t.launches = s.launches ∧ MemKept d t ∧ (t.vf (e.asid / 1024)).lRefuse = satInc64 (s.vf (e.asid / 1024)).lRefuse) ∧
    (∃ k, (k, Event.launchQueuePop q) ∈ t.due) ∧ (t.lqList q p).popIdx = (s.lqList q p).popIdx + 1 := by
  have hd' := ListPopped.of_popList hl hdrop
  have hr := d.refuseEntry_refused (e.asid / 1024)
  have hcarry := State.carryEntry_unplaced (s := d) (owner := owner) hk fun va => by
    rw [State.checkVa_of_pkg hd'.pkg]
    exact hplace va
  refine happens_pop hc hd hl hdrop hcarry hr.lq fun l => ?_
  refine ⟨hr.launches.trans hd'.launches, hr.mem.trans (.of_eq rfl rfl rfl rfl), hr.count.trans ?_⟩
  rw [State.vf, hd'.vfs]
  rfl

end Entry

end Pop

end Sys2Proof.Machine
end

section
/-! SUPPORT. Helper pops, waiting units and gangs (R184 to R186, R211, R215, R218), and the settling of O51. -/
namespace Sys2Proof.Machine

/-! A helper's pop (R184, R186). -/

theorem State.corePop_spec {s u : State} {core : Nat} {e : QRun} {owner : Option Nat} (h : s.corePop core = some (e, owner, u)) :
    ∃ q, (s.core core).queue = some q ∧ 0 < q.inRing ∧ q.owners.head?.join = owner := by
  unfold State.corePop at h
  split at h
  · cases h
  next q hq =>
    split at h
    · cases h
    next hr =>
      obtain ⟨rfl, rfl, rfl⟩ : _ ∧ _ ∧ _ := by simpa using h
      exact ⟨q, hq, Nat.pos_of_ne_zero (by simpa using hr), rfl⟩

/-- The gangs without a reservation of a helper (R218). -/
def State.unreserved (s : State) (core c : Nat) : State :=
  { s with gangs := s.gangs.map fun g => (g.1, { g.2 with reserved := g.2.reserved.filter (· != (core, c)) }) }

section Helper
variable {s u : State} {core c : Nat} {e : QRun} {owner : Option Nat} (h1 : 1 ≤ c) (h10 : c ≤ 10) (hfree : (s.ctx core c).st = .free)
  (hpool : bit ((s.core core).srGet rHPOOL).toNat c = true) (hp : s.corePop core = some (e, owner, u))
include h1 h10 hfree hpool hp

theorem State.popHelper_eq : s.popHelper core c = if s.mayTake core c owner then
    (u.unreserved core c).startHelper core c (BitVec.ofNat 64 e.code) (BitVec.ofNat 64 e.frame) (BitVec.ofNat 64 e.asid) owner
    else s := by
  obtain ⟨q, hq, -, rfl⟩ := State.corePop_spec hp
  have hst : ((s.core core).ctx c).st = .free := hfree
  unfold State.popHelper
  dsimp only
  rw [hq, hst, hpool, decide_eq_true h1, decide_eq_true h10, hp]
  rfl

end Helper

/-- A FREE helper of the pool at whose core a record waits comes again; any other has popped. -/
def State.popWaits (t : State) (core c : Nat) : Bool :=
  (t.ctx core c).st == .free && bit ((t.core core).srGet rHPOOL).toNat c && 0 < ((t.core core).queue.map (·.inRing)).getD 0

theorem exec_helperPop (s : State) (core c : Nat) : exec (Event.helperPop core c).instr (s.onEvent (.helperPop core c)) =
    .next (if ((s.onEvent (.helperPop core c)).popHelper core c).popWaits core c then
      ((s.onEvent (.helperPop core c)).popHelper core c).laterOnce 64 (.helperPop core c)
      else (s.onEvent (.helperPop core c)).popHelper core c) := rfl

section HelperPop
variable {s u : State} {core c : Nat} {e : QRun} {owner : Option Nat} (h1 : 1 ≤ c) (h10 : c ≤ 10) (hfree : (s.ctx core c).st = .free)
  (hpool : bit ((s.core core).srGet rHPOOL).toNat c = true) (hp : (s.onEvent (.helperPop core c)).corePop core = some (e, owner, u))
include h1 h10 hfree hpool hp

theorem happens_helper_kept (hm : s.mayTake core c owner = false) : Happens (.helperPop core c) s fun t =>
    (∀ n d, t.ctx n d = s.ctx n d) ∧ (∃ k, (k, Event.helperPop core c) ∈ t.due) ∧ (t.core core).queue = (s.core core).queue ∧
    MemKept s t := by
  let s' := s.onEvent (.helperPop core c)
  obtain ⟨q, hq, hring, -⟩ := State.corePop_spec hp
  have hpop : s'.popHelper core c = s' := (State.popHelper_eq (s := s') h1 h10 hfree hpool hp).trans (if_neg (Bool.eq_false_iff.mp hm))
  have hwaits : s'.popWaits core c = true := by
    unfold State.popWaits
    rw [hq, show (s'.ctx core c).st = .free from hfree, show bit ((s'.core core).srGet rHPOOL).toNat c = true from hpool]
    simpa using hring
  obtain ⟨l, hl, -, hdue⟩ := s'.laterOnce_eq 64 (.helperPop core c)
  refine happens_next ((exec_helperPop s core c).trans ?_) (P := fun t => _) (t := { s' with due := l })
    ⟨fun _ _ => rfl, hdue, rfl, .of_eq rfl rfl rfl rfl⟩
  rw [show (s.onEvent (.helperPop core c)).popHelper core c = s' from hpop, if_pos hwaits, hl]

theorem happens_helper_takes (hm : s.mayTake core c owner = true) : Happens (.helperPop core c) s fun t =>
    let y := t.ctx core c
    (t.core core).queue = (u.core core).queue ∧ y.st = .ready ∧ y.pc = BitVec.ofNat 64 e.code ∧ y.launch = owner ∧
    (∀ r, y.sreg r = if r = 62 then BitVec.ofNat 64 e.frame else 0) ∧ y.srGet rCTXID = BitVec.ofNat 64 e.asid ∧ y.tlvl = 0 ∧
    (∀ n d, ¬(n = core ∧ d = c) → t.ctx n d = u.ctx n d) ∧ MemKept u t := by
  let t := (u.unreserved core c).startHelper core c (BitVec.ofNat 64 e.code) (BitVec.ofNat 64 e.frame) (BitVec.ofNat 64 e.asid) owner
  have hpop : (s.onEvent (.helperPop core c)).popHelper core c = t :=
    (State.popHelper_eq (s := s.onEvent (.helperPop core c)) h1 h10 hfree hpool hp).trans (if_pos hm)
  have hst : HelperStarted core c _ _ _ owner t (u.unreserved core c) := State.startHelper_started ..
  have hwaits : t.popWaits core c = false := by
    unfold State.popWaits
    rw [hst.helper.st]
    rfl
  refine happens_next (t := t) ((exec_helperPop s core c).trans ?_) ?_
  · rw [hpop, if_neg (Bool.eq_false_iff.mp hwaits)]
  · obtain ⟨_, _, hcore⟩ := hst.core core
    exact ⟨by rw [hcore]; rfl, hst.helper.st, hst.helper.pc, hst.helper.launch, hst.helper.scalars, hst.helper.ctxid,
      hst.helper.tlvl, fun n d hnd => hst.others n d hnd,
      (MemKept.of_eq rfl rfl rfl rfl : MemKept u (u.unreserved core c)).trans hst.mem⟩

end HelperPop

/-! A unit pushed (R211). -/

/-- A launch with a unit that no longer waits. -/
def Launch.started (l : Launch) (unit : Nat) : Launch := { l with waiting := l.waiting.filter (· != unit) }

section Unit
variable {s : State} {lid unit : Nat} {l : Launch} (hl : s.launches.find? (·.1 == lid) = some (lid, l))
include hl

theorem State.pushUnit_full (hp : s.pushRecord (unitCore l unit) (unitEntry l.raw (unitCore l unit) unit) (some lid) = none) :
    s.pushUnit lid unit = s.later 64 (.conUnitStart lid unit) := by
  unfold State.pushUnit
  rw [hl]
  dsimp only
  rw [hp]

theorem State.pushUnit_pushed {u : State}
    (hp : s.pushRecord (unitCore l unit) (unitEntry l.raw (unitCore l unit) unit) (some lid) = some u) :
    s.pushUnit lid unit = { u with launches := u.launches.put lid (l.started unit) } := by
  unfold State.pushUnit
  rw [hl]
  dsimp only
  rw [hp]
  rfl

theorem State.unitStart_waits (hw : l.waiting.contains unit = true) (hcon : bit l.raw 760 = true) {c o : Nat}
    (hp : s.checkVa l.vf (extend56 (bits l.raw 704 56 + unit / 64 * 8)) 8 = .ok (.mesh c o))
    (hb : bit (s.stallRead c o 8) (unit % 64) = false) : s.unitStart lid unit = s.later 64 (.conUnitStart lid unit) := by
  unfold State.unitStart
  rw [hl]
  dsimp only
  rw [if_neg (by simpa using hw), if_neg (by simp [hcon]), hp]
  exact if_neg (Bool.eq_false_iff.mp hb)

theorem State.unitStart_pushes (hw : l.waiting.contains unit = true) (hb : bit l.raw 760 = false ∨ ∃ c o,
      s.checkVa l.vf (extend56 (bits l.raw 704 56 + unit / 64 * 8)) 8 = .ok (.mesh c o) ∧ bit (s.stallRead c o 8) (unit % 64) = true) :
    s.unitStart lid unit = (s.pushUnit lid unit).gangPushed lid := by
  unfold State.unitStart
  rw [hl]
  dsimp only
  rw [if_neg (by simpa using hw)]
  by_cases hcon : bit l.raw 760 = true
  · obtain ⟨c, o, hp, hset⟩ := hb.resolve_left (by simp [hcon])
    rw [if_neg (by simp [hcon]), hp]
    exact if_pos hset
  · exact if_pos (by simpa using hcon)

theorem State.gangPushed_of_none (hg : s.gangs = [] ∨ l.gang = none) : s.gangPushed lid = s := by
  unfold State.gangPushed
  rw [hl]
  dsimp only [Option.bind_some]
  rcases hg with hg | hg
  · split
    · rfl
    · rw [hg]
      rfl
  · rw [hg]

end Unit

section UnitStart
variable {s : State} {lid unit : Nat} {l : Launch} (hl : s.launches.find? (·.1 == lid) = some (lid, l))
  (hw : l.waiting.contains unit = true)
include hl hw

theorem happens_unit_waits (hcon : bit l.raw 760 = true) {c o : Nat}
    (hp : s.checkVa l.vf (extend56 (bits l.raw 704 56 + unit / 64 * 8)) 8 = .ok (.mesh c o))
    (hb : bit (s.stallRead c o 8) (unit % 64) = false) : Happens (.conUnitStart lid unit) s fun t =>
    (s.clk + 64, Event.conUnitStart lid unit) ∈ t.due ∧ t.launches = s.launches ∧ MemKept s t :=
  happens_next (congrArg Host.Outcome.next (State.unitStart_waits (s := s.onEvent (.conUnitStart lid unit)) hl hw hcon hp hb))
    ⟨mem_dueInsert .., rfl, .of_eq rfl rfl rfl rfl⟩

variable (hb : bit l.raw 760 = false ∨ ∃ c o,
      s.checkVa l.vf (extend56 (bits l.raw 704 56 + unit / 64 * 8)) 8 = .ok (.mesh c o) ∧ bit (s.stallRead c o 8) (unit % 64) = true)
  (hg : s.gangs = [] ∨ l.gang = none)
include hb hg

theorem happens_unit_full (hp : (s.onEvent (.conUnitStart lid unit)).pushRecord (unitCore l unit)
      (unitEntry l.raw (unitCore l unit) unit) (some lid) = none) : Happens (.conUnitStart lid unit) s fun t =>
    (s.clk + 64, Event.conUnitStart lid unit) ∈ t.due ∧ t.launches = s.launches ∧ MemKept s t := by
  let s' := s.onEvent (.conUnitStart lid unit)
  have hpush : s'.pushUnit lid unit = s'.later 64 (.conUnitStart lid unit) := State.pushUnit_full hl hp
  have hstart : s'.unitStart lid unit = s'.later 64 (.conUnitStart lid unit) := by
    rw [State.unitStart_pushes (s := s') hl hw hb, hpush]
    exact State.gangPushed_of_none (l := l) hl hg
  exact happens_next (congrArg Host.Outcome.next hstart) ⟨mem_dueInsert .., rfl, .of_eq rfl rfl rfl rfl⟩

theorem happens_unit_pushed {u : State} (hp : (s.onEvent (.conUnitStart lid unit)).pushRecord (unitCore l unit)
      (unitEntry l.raw (unitCore l unit) unit) (some lid) = some u) : Happens (.conUnitStart lid unit) s fun t =>
    (∃ m, t.launches.find? (·.1 == lid) = some (lid, m) ∧ m.waiting = l.waiting.filter (· != unit)) ∧
    (t.core (unitCore l unit)).queue = (u.core (unitCore l unit)).queue ∧ MemKept u t := by
  let s' := s.onEvent (.conUnitStart lid unit)
  let t : State := { u with launches := u.launches.put lid (l.started unit) }
  have hfind : t.launches.find? (·.1 == lid) = some (lid, l.started unit) := Assoc.find?_put_self ..
  have hstart : s'.unitStart lid unit = t := by
    rw [State.unitStart_pushes (s := s') hl hw hb, State.pushUnit_pushed (s := s') hl hp]
    exact State.gangPushed_of_none hfind (hg.imp_left fun h => (State.pushRecord_accessed hp).gangs.trans h)
  exact happens_next (congrArg Host.Outcome.next hstart) ⟨⟨_, hfind, rfl⟩, rfl, .of_eq rfl rfl rfl rfl⟩

end UnitStart

/-! A gang placed (R218). -/

theorem Assoc.find?_insertSorted_ne {α : Type} (m : Assoc α) {j k : Nat} (v : α) (h : j ≠ k) :
    (Assoc.insertSorted m k v).find? (·.1 == j) = m.find? (·.1 == j) := by
  have hk : (k == j) = false := beq_eq_false_iff_ne.mpr (Ne.symm h)
  induction m with
  | nil => rw [Assoc.insertSorted, List.find?_cons, hk]
  | cons e m ih =>
    unfold Assoc.insertSorted
    split
    · rw [List.find?_cons, hk]
    · rw [List.find?_cons, List.find?_cons, ih]

theorem Assoc.find?_put_ne {α : Type} (m : Assoc α) {j k : Nat} (v : α) (h : j ≠ k) :
    (m.put k v).find? (·.1 == j) = m.find? (·.1 == j) :=
  (Assoc.find?_insertSorted_ne _ v h).trans (Assoc.find?_erase_ne m h)

/-- A state in which units of launches have been started: the clock, scalar registers, what was due, and launches whose units wait for
completion bits are as they were. -/
structure UnitsStarted (t s : State) : Prop where
  clk : t.clk = s.clk
  sreg : ∀ n c r, (t.ctx n c).sreg r = (s.ctx n c).sreg r
  due : ∀ x ∈ s.due, x ∈ t.due
  con : ∀ l r, s.launches.find? (·.1 == l) = some (l, r) → bit r.raw 760 = true → t.launches.find? (·.1 == l) = some (l, r)

/-- Units of launches pushed, which changes no gang. -/
structure UnitsPushed (t s : State) : Prop extends UnitsStarted t s where
  gangs : t.gangs = s.gangs

theorem UnitsStarted.trans {s t u : State} (h : UnitsStarted u t) (g : UnitsStarted t s) : UnitsStarted u s where
  clk := h.clk.trans g.clk
  sreg n c r := (h.sreg n c r).trans (g.sreg n c r)
  due x hx := h.due x (g.due x hx)
  con l r hl hr := h.con l r (g.con l r hl hr) hr

theorem UnitsPushed.trans {s t u : State} (h : UnitsPushed u t) (g : UnitsPushed t s) : UnitsPushed u s where
  toUnitsStarted := h.toUnitsStarted.trans g.toUnitsStarted
  gangs := h.gangs.trans g.gangs

theorem Accessed.unitsPushed {s t : State} (h : Accessed t s) : UnitsPushed t s where
  clk := h.clk
  sreg := h.sreg
  due := h.due
  con _ _ hl _ := by rw [h.launches]; exact hl
  gangs := h.gangs

/-- A launch whose units start at once (R211). -/
def State.startsAtOnce (s : State) (lid : Nat) : Prop := ∀ r, s.launches.find? (·.1 == lid) = some (lid, r) → bit r.raw 760 = false

theorem Assoc.find?_key {α : Type} {m : Assoc α} {k : Nat} {e : Nat × α} (h : m.find? (·.1 == k) = some e) : e = (k, e.2) :=
  Prod.ext (by simpa using List.find?_some h) rfl

/-- Pushing a unit of a launch that starts at once, again and again. -/
theorem State.pushUnit_pushedUnits {s : State} {lid : Nat} (h : s.startsAtOnce lid) (u : Nat) :
    UnitsPushed (s.pushUnit lid u) s ∧ (s.pushUnit lid u).startsAtOnce lid := by
  cases hl : s.launches.find? (·.1 == lid) with
  | none =>
    have hp : s.pushUnit lid u = s := by rw [State.pushUnit, hl]
    rw [hp]
    exact ⟨(Accessed.refl s).unitsPushed, h⟩
  | some e =>
    obtain ⟨k, l⟩ := e
    obtain rfl : k = lid := congrArg Prod.fst (Assoc.find?_key hl)
    cases hp : s.pushRecord (unitCore l u) (unitEntry l.raw (unitCore l u) u) (some k) with
    | none =>
      rw [State.pushUnit_full hl hp]
      exact ⟨(s.later_accessed _ _).unitsPushed, h⟩
    | some t =>
      have hacc := State.pushRecord_accessed hp
      rw [State.pushUnit_pushed hl hp]
      refine ⟨⟨⟨hacc.clk, hacc.sreg, hacc.due, fun j r hj hr => ?_⟩, hacc.gangs⟩, fun r hr => ?_⟩
      · have hjk : j ≠ k := by
          rintro rfl
          exact absurd ((h r hj).symm.trans hr) (by decide)
        exact (Assoc.find?_put_ne _ _ hjk).trans (by rw [hacc.launches]; exact hj)
      · obtain rfl : l.started u = r := congrArg Prod.snd (Option.some.inj ((Assoc.find?_put_self _ _ _).symm.trans hr))
        exact h l hl

theorem State.pushUnits_pushed (us : List Nat) {s : State} {lid : Nat} (h : s.startsAtOnce lid) :
    UnitsPushed (us.foldl (fun s u => s.pushUnit lid u) s) s := by
  induction us generalizing s with
  | nil => exact (Accessed.refl s).unitsPushed
  | cons u us ih =>
    obtain ⟨hp, hs⟩ := State.pushUnit_pushedUnits h u
    exact (ih hs).trans hp

theorem State.laterUnits_due (us : List Nat) (s : State) (lid : Nat) :
    Accessed (us.foldl (fun s u => s.later 1 (.conUnitStart lid u)) s) s ∧
    ∀ u ∈ us, (s.clk + 1, Event.conUnitStart lid u) ∈ (us.foldl (fun s u => s.later 1 (.conUnitStart lid u)) s).due := by
  induction us generalizing s with
  | nil => exact ⟨.refl s, nofun⟩
  | cons u us ih =>
    obtain ⟨hacc, hall⟩ := ih (s.later 1 (.conUnitStart lid u))
    refine ⟨hacc.trans (s.later_accessed _ _), fun x hx => ?_⟩
    rcases List.mem_cons.mp hx with rfl | hx
    · exact hacc.due _ (mem_dueInsert ..)
    · exact hall x hx

/-- The units of a launch started: pushed, or due to look for their completion bits (R211, R215). -/
theorem State.startUnits_pushed (s : State) (lid : Nat) : UnitsPushed (s.startUnits lid) s ∧
    ∀ r, s.launches.find? (·.1 == lid) = some (lid, r) → bit r.raw 760 = true → ∀ u ∈ r.waiting,
      (s.clk + 1, Event.conUnitStart lid u) ∈ (s.startUnits lid).due := by
  cases hl : s.launches.find? (·.1 == lid) with
  | none =>
    rw [State.startUnits, hl]
    exact ⟨(Accessed.refl s).unitsPushed, nofun⟩
  | some e =>
    obtain ⟨k, l⟩ := e
    obtain rfl : k = lid := congrArg Prod.fst (Assoc.find?_key hl)
    rw [State.startUnits, hl]
    dsimp only
    cases hcon : bit l.raw 760 with
    | true =>
      obtain ⟨hacc, hall⟩ := State.laterUnits_due l.waiting s k
      refine ⟨hacc.unitsPushed, fun r hr _ u hu => ?_⟩
      obtain rfl : l = r := congrArg Prod.snd (Option.some.inj hr)
      exact hall u hu
    | false =>
      refine ⟨State.pushUnits_pushed l.waiting fun r hr => ?_, fun r hr hr' => ?_⟩
      · obtain rfl : l = r := congrArg Prod.snd (Option.some.inj (hl.symm.trans hr))
        exact hcon
      · obtain rfl : l = r := congrArg Prod.snd (Option.some.inj hr)
        exact absurd (hcon.symm.trans hr') (by decide)

/-- A gang is PLACED or RUNNING with its members and its helpers reserved (R218). -/
def State.holdsGang (s : State) (g : Nat) (members : List Nat) (held : List (Nat × Nat)) : Prop :=
  ∃ h, s.gangs.find? (·.1 == g) = some (g, h) ∧ h.members = members ∧ (h.st = .placed ∨ h.st = .running) ∧ h.reserved = held

/-- A gang that goes from PLACED to RUNNING. -/
theorem State.gangPushed_spec (s : State) (lid : Nat) : ∃ gs, s.gangPushed lid = { s with gangs := gs } ∧
    ∀ g members held, s.holdsGang g members held → ({ s with gangs := gs } : State).holdsGang g members held := by
  unfold State.gangPushed
  split
  · exact ⟨_, rfl, fun _ _ _ h => h⟩
  next j _ =>
    split
    · exact ⟨_, rfl, fun _ _ _ h => h⟩
    next k gg hj =>
      dsimp only
      split
      · refine ⟨_, rfl, fun g members held ⟨h, hg, hm, hst, hr⟩ => ?_⟩
        by_cases hgj : g = j
        · subst hgj
          obtain rfl : gg = h := congrArg Prod.snd (Option.some.inj (hj.symm.trans hg))
          exact ⟨_, Assoc.find?_put_self _ _ _, hm, .inr rfl, hr⟩
        · exact ⟨h, (Assoc.find?_put_ne _ _ hgj).trans hg, hm, hst, hr⟩
      · exact ⟨_, rfl, fun _ _ _ h => h⟩

/-- The members of a gang started one after another: those that wait for completion bits come due. -/
theorem State.startMembers_spec (g : Nat) (members : List Nat) (held : List (Nat × Nat)) (ms : List Nat) {s : State}
    (h : s.holdsGang g members held) :
    let t := ms.foldl (fun s l => (s.startUnits l).gangPushed l) s
    t.holdsGang g members held ∧ UnitsStarted t s ∧
    ∀ l ∈ ms, ∀ r, s.launches.find? (·.1 == l) = some (l, r) → bit r.raw 760 = true → ∀ u ∈ r.waiting,
      (s.clk + 1, Event.conUnitStart l u) ∈ t.due := by
  induction ms generalizing s with
  | nil => exact ⟨h, (Accessed.refl s).unitsPushed.toUnitsStarted, nofun⟩
  | cons l ms ih =>
    obtain ⟨hp, hall⟩ := s.startUnits_pushed l
    obtain ⟨gs, hgs, hkeeps⟩ := (s.startUnits l).gangPushed_spec l
    have hheld : ((s.startUnits l).gangPushed l).holdsGang g members held := by
      rw [hgs]
      refine hkeeps g members held ?_
      unfold State.holdsGang
      rw [hp.gangs]
      exact h
    have hone : UnitsStarted ((s.startUnits l).gangPushed l) s := by
      rw [hgs]
      exact ⟨hp.clk, hp.sreg, hp.due, hp.con⟩
    obtain ⟨hh, hst, hrest⟩ := ih hheld
    refine ⟨hh, hst.trans hone, fun j hj r hr hcon u hu => ?_⟩
    rcases List.mem_cons.mp hj with rfl | hj
    · refine hst.due _ ?_
      rw [hgs]
      exact hall r hr hcon u hu
    · have hdue := hrest j hj r (hone.con j r hr hcon) hcon u hu
      rwa [hone.clk] at hdue

section Gang
variable {s : State} {g : Nat} {gg : Gang} (hg : s.gangs.find? (·.1 == g) = some (g, gg))
include hg

/-- The helpers that a gang's placement reserves, core by core. -/
def State.gangHelpers (s : State) (gg : Gang) : List (Nat × Nat) :=
  (s.gangCores gg).flatMap fun core => ((s.freeHelpers core).take (s.gangNeeds gg core)).map fun c => (core, c)

theorem State.placeGang_other (h : gg.st ≠ .pending) : s.placeGang g = s := by
  unfold State.placeGang
  rw [hg]
  exact if_pos (bne_iff_ne.mpr h)

theorem State.placeGang_waits (h : gg.st = .pending) (hw : s.quietVf gg.vf = true ∨ s.placeable g gg = false) :
    s.placeGang g = s.later 64 (.gangPlace g) := by
  unfold State.placeGang
  rw [hg]
  dsimp only
  rw [if_neg (by simp [h]), if_pos (by rcases hw with hw | hw <;> simp [hw])]

/-- A gang with its helpers reserved, before its units start. -/
def State.gangReserved (s : State) (g : Nat) (gg : Gang) : State :=
  { s with gangs := s.gangs.put g { gg with st := .placed, reserved := s.gangHelpers gg } }

theorem State.placeGang_places (h : gg.st = .pending) (hq : s.quietVf gg.vf = false) (hp : s.placeable g gg = true) :
    s.placeGang g = gg.members.foldl (fun s l => (s.startUnits l).gangPushed l) (s.gangReserved g gg) := by
  unfold State.placeGang
  rw [hg]
  dsimp only
  rw [if_neg (by simp [h]), if_neg (by simp [hq, hp])]
  rfl

theorem happens_gang_other (h : gg.st ≠ .pending) : Happens (.gangPlace g) s fun t => t = { s with ev := .gangPlace g } :=
  happens_next rfl (State.placeGang_other (s := s.onEvent (.gangPlace g)) hg h)

theorem happens_gang_waits (h : gg.st = .pending) (hw : s.quietVf gg.vf = true ∨ s.placeable g gg = false) :
    Happens (.gangPlace g) s fun t => (s.clk + 64, Event.gangPlace g) ∈ t.due ∧ t.gangs = s.gangs ∧ MemKept s t :=
  happens_next (congrArg Host.Outcome.next (State.placeGang_waits (s := s.onEvent (.gangPlace g)) hg h hw))
    ⟨mem_dueInsert .., rfl, .of_eq rfl rfl rfl rfl⟩

theorem happens_gang_placed (h : gg.st = .pending) (hq : s.quietVf gg.vf = false) (hp : s.placeable g gg = true) :
    Happens (.gangPlace g) s fun t => t.holdsGang g gg.members (s.gangHelpers gg) ∧
      (∀ l ∈ gg.members, ∀ r, s.launches.find? (·.1 == l) = some (l, r) → bit r.raw 760 = true → ∀ u ∈ r.waiting,
        (s.clk + 1, Event.conUnitStart l u) ∈ t.due) ∧ ∀ n c r, (t.ctx n c).sreg r = (s.ctx n c).sreg r := by
  let s' := s.onEvent (.gangPlace g)
  have hheld : (s'.gangReserved g gg).holdsGang g gg.members (s.gangHelpers gg) :=
    ⟨_, Assoc.find?_put_self _ _ _, rfl, .inl rfl, rfl⟩
  obtain ⟨hh, hst, hdue⟩ := State.startMembers_spec g gg.members (s.gangHelpers gg) gg.members hheld
  exact happens_next (congrArg Host.Outcome.next (State.placeGang_places (s := s') hg h hq hp)) ⟨hh, hdue, hst.sreg⟩

end Gang

/-- Settles O51: the table by what its fire times make of a slot, pops by the fate of the entry they carry, and units and gangs by the
pushes that start them. -/
theorem launchControllerEvents : Obligations.LaunchControllerEvents := by
  unfold Obligations.LaunchControllerEvents
  refine ⟨fun s i => ⟨fun p hp => ?_, happens_slotEnd, happens_deferredFire, happens_notDeferred⟩, fun s q hc =>
    ⟨happens_pop_idle hc, happens_pop_nothing hc, fun p e owner hd hl => ?_⟩, fun s core c e owner u h1 h10 hfree hpool hp =>
    ⟨happens_helper_kept h1 h10 hfree hpool hp, happens_helper_takes h1 h10 hfree hpool hp⟩, fun s lid unit l hl hw =>
    ⟨fun hcon c o hp hb => happens_unit_waits hl hw hcon hp hb, fun hb hg => ⟨happens_unit_full hl hw hb hg,
      fun u hp => happens_unit_pushed hl hw hb hg hp⟩⟩, fun s g gg hg =>
    ⟨happens_gang_waits hg, happens_gang_placed hg, happens_gang_other hg⟩⟩
  · have he : exec p.2.instr (s.onEvent p.2) = .next ((s.onEvent p.2).slotTime p.1 i) := by
      rcases List.mem_cons.mp hp with rfl | hp
      · rfl
      · rcases List.mem_cons.mp hp with rfl | hp
        · rfl
        · obtain rfl := List.mem_singleton.mp hp
          rfl
    exact ⟨happens_idle he, fun hact hkind => ⟨happens_runs he hact hkind, fun ho h1 => ⟨happens_launch_outside he hact hkind ho h1,
      fun got v hin hacc => happens_launch he hact hkind ho h1 hin rfl hacc⟩, happens_skips he hact hkind,
      happens_defers he hact hkind⟩⟩
  · exact ⟨fun hk hm => ⟨fun v hp => happens_pop_pushed hc hd hl rfl hk hm hp, fun hp => happens_pop_full hc hd hl rfl hk hm hp⟩,
      fun hk hm ho => happens_pop_strange hc hd hl rfl hk hm ho, fun hk =>
      ⟨fun va l v hplace ha => happens_pop_launch hc hd hl rfl hk hplace ha, fun hplace => happens_pop_unplaced hc hd hl rfl hk hplace⟩⟩

end Sys2Proof.Machine
end
